-- ==== Sys2Proof/Word.lean ====
section
/-! DEFINITION. The word types of the DY480 package and its sparse maps (00_scope R2, R9). -/

namespace Sys2Proof

/-- One byte of any memory. -/
abbrev Byte := BitVec 8

/-- A 64-bit scalar or system register (R2). -/
abbrev W64 := BitVec 64

/-- A 256-byte vector register: 64 lanes of 32 bits (R2, R186). -/
abbrev VReg := BitVec 2048

/-- A 16-bit lineage tag (R149). -/
abbrev Tag := BitVec 16

/-- A register file of `2 ^ k` registers of `w` bits. -/
abbrev RegFile (k w : Nat) := Vector (BitVec w) (2 ^ k)

/-- Sparse data by key, held in one canonical form: keys strictly rising, no entry equal to the default. -/
abbrev SMap (V : Type) := List (Nat × V)

end Sys2Proof
end

