-- ==== Sys2Proof/Syntax.lean ====
section
/-! DEFINITION. The steps of the machine: one constructor per row of spec/opcode_table.json, the 176 syllables of R105 to R114 with their fields and the 116 package steps of 95 with their operands. -/

namespace Sys2Proof

/-- The supply rails in the order R12 lists them; VCORE0 to VCORE3 are raised together. -/
inductive Rail where
  | vtrust
  | vio
  | vhbm
  | vcore
  deriving DecidableEq, Repr

/-- Who writes through a management frame (R7, R389). -/
inductive Writer where
  | monitor
  | firmware
  deriving DecidableEq, Repr

/-- What a management frame reads, and writes where it has no row of its own: the registers of the I/O die, the trust die and the dies, the launch table, the tile map and the latched snapshot (R7, R410 and the register maps). -/
inductive MgmtReg where
  | tsync
  | ptpDomain
  | imageBase
  | imageLen
  | atbase
  | agrant (word : Nat)
  | bucketMap (b : Nat)
  | dstate
  | dprof (i : Nat)
  | dpwr (d : BitVec 2)
  | temerg
  | pstr (e : BitVec 8)
  | snapstat
  | snapt
  | bucket (d : BitVec 2) (b : Nat)
  | debugEnable (d : BitVec 2)
  | injectEnable (d : BitVec 2)
  | decoder (i : Nat)
  | dieRelease (d : BitVec 2)
  | entry (e : BitVec 8)
  | tileMap (t : Nat)
  | soft (t : Nat)
  | dbgb (t : Nat)
  | tinj (t : Nat)
  | minj (d : BitVec 2)
  | action (d : BitVec 2) (code : Nat)
  | snapcmp
  | powerStatus
  | snapTile (t : Nat)
  | snapSeqr (q : Nat)
  | snapRouter (d : BitVec 2)
  | snapSlice (d : BitVec 2) (i : Nat)
  | snapTime
  | snapPstr (e : BitVec 8)
  deriving DecidableEq, Repr, Inhabited

/-- The operands of a management command as its bytes give them: who writes, three numbers, ALL of TLBINV, whether it reads, an address and the value written. (DESIGN CHOICE: log 14.) -/
structure MctpOperands where
  monitor : Bool
  a : Nat
  b : Nat
  c : Nat
  all : Bool
  read : Bool
  addr : Nat
  value : List Byte
  deriving DecidableEq, Repr, Inhabited

/-- A route beyond the package: the fabric toward a peer, or a CXL port (R296, R303). -/
inductive Route where
  | fabric (rank : Nat)
  | cxl (port : BitVec 2)
  deriving DecidableEq, Repr

/-- A contribution to a reduction round, as the switches see it (R299, R320). -/
structure Contribution where
  job : BitVec 32
  grp : BitVec 16
  round : Nat
  rank : Nat
  count : Nat
  len : Nat
  op : BitVec 4
  data : List Byte
  tile : Option (Nat × BitVec 6)
  deriving DecidableEq, Repr

/-- An access of another package to memory of this one (R318, R334). -/
inductive PeerAccess where
  | write (pool : Bool) (pa : Nat) (data : List Byte)
  | read (pool : Bool) (pa n : Nat)
  | amo (pa : Nat) (op : BitVec 4) (wide : Bool) (b : W64)
  | cas (pa : Nat) (wide : Bool) (b c : W64)
  deriving DecidableEq, Repr

/-- The fields of a Mirhus frame as the steps read them: the header of R63, the payload, the writer a management command comes from (R389), whether it reads a register, and the operands of a management command, whose bytes the spec does not lay out. -/
structure Frame where
  port : Bool
  ty : Byte
  flags : Byte
  seq : BitVec 16
  len : BitVec 32
  addr : W64
  data : List Byte
  who : Writer
  reg : MgmtReg
  a : Nat
  b : Nat
  c : Nat
  all : Bool
  read : Bool
  deriving DecidableEq, Repr

/-- A notice that comes down the Glied tree, for one job (R325, R377, R384, R385, R95). -/
structure Notice where
  job : BitVec 32
  tick : Nat
  amount : Nat
  inTime : Bool
  deriving DecidableEq, Repr

/-- What comes into the package with a step: nothing, a frame byte by byte or with its fields read, a notice, another package's access, a contribution, sensor readings, rails in the order raised, or that the step at hand came over the Glied fabric. (DESIGN CHOICE: log 14.) -/
inductive Ext where
  | none
  | raw (port : Bool) (bytes : List Byte)
  | frame (f : Frame)
  | notice (n : Notice)
  | peer (a : PeerAccess)
  | contribution (c : Contribution)
  | temps (l : List Int)
  | rails (l : List Rail)
  | fabric
  deriving DecidableEq, Repr

/-- The steps of the machine, one constructor per row of the opcode table, those with operands first; the input of a step that comes from outside stands in the state (Ext). -/
inductive Instr where
  /-- DIE_RESET, R390. -/
  | dieReset (d : BitVec 2)
  /-- DIE_LIVE, R92. -/
  | dieLive (d : BitVec 2)
  /-- ADMISSION, R67. -/
  | admission (e : BitVec 8)
  /-- LAUNCH_START, R69. -/
  | launchStart (e : BitVec 8)
  /-- DYNAMIC_RELEASE, R69. -/
  | dynamicRelease (e : BitVec 8)
  /-- REGION_RELEASE, R24. -/
  | regionRelease (r : Nat)
  /-- TASK_START, R78. -/
  | taskStart (r : Nat)
  /-- TASK_END, R77. -/
  | taskEnd (r : Nat)
  /-- BUNDLE_ISSUE, R132. -/
  | bundleIssue (t : Nat)
  /-- SIGNATURE_BUNDLE, R151. -/
  | signatureBundle (t : Nat)
  /-- BLOCK_RERUN, R155. -/
  | blockRerun (t : Nat)
  /-- TILE_RETIRE, R384. -/
  | tileRetire (t : Nat)
  /-- SECONDARY_ISSUE, R146. -/
  | secondaryIssue (t : Nat)
  /-- HANDLER_BUNDLE_ISSUE, R159. -/
  | handlerBundleIssue (t : Nat)
  /-- GATE_HOLD_RELEASE, R139. -/
  | gateHoldRelease (t : Nat)
  /-- ENGINE_COMMAND_START, R140. -/
  | engineCommandStart (t : Nat) (far : Bool)
  /-- HOLD_BUDGET, R25. -/
  | holdBudget (r : Nat)
  /-- RDV_LEAVE, R71. -/
  | rdvLeave (r : Nat)
  /-- TIMER_COMPARE, R166. -/
  | timerCompare (t : Nat)
  /-- WAITI_WAKE, R181. -/
  | waitiWake (t : Nat)
  /-- EVENT_FIFO_DRAIN, R366. -/
  | eventFifoDrain (src : Nat)
  /-- TLB_QUERY, R88. -/
  | tlbQuery (q : Nat)
  /-- TLB_WALK_DONE, R88. -/
  | tlbWalkDone (w : Nat)
  /-- TLBINV_ACK, R90. -/
  | tlbinvAck (n : Nat) (d : BitVec 2)
  /-- INVAL_TIMEOUT, R93. -/
  | invalTimeout (n : Nat) (d : BitVec 2)
  /-- RD_BURST_LANDING, R251. -/
  | rdBurstLanding (q : Nat)
  /-- PARKED_BURST_WRITE, R144. -/
  | parkedBurstWrite (q : Nat)
  /-- REFRESH_DEBT_RISE, R256. -/
  | refreshDebtRise (q : Nat)
  /-- AUTONOMOUS_REFRESH, R257. -/
  | autonomousRefresh (q : Nat)
  /-- CACHED_WINDOW_OPEN, R258. -/
  | cachedWindowOpen (q : Nat)
  /-- CACHED_PATH_ACCESS, R260. -/
  | cachedPathAccess (q : Nat)
  /-- TIMED_HOP, R265. -/
  | timedHop (x : Nat)
  /-- MESH_LATCH_WRITE, R266. -/
  | meshLatchWrite (x : Nat)
  /-- DIE_LATCH_WRITE, R267. -/
  | dieLatchWrite (x : Nat)
  /-- BE_PACKET_HOP, R264. -/
  | bePacketHop (k : Nat)
  /-- CACHE_REQUEST, R273. -/
  | cacheRequest (k : Nat)
  /-- SECTOR_FILL, R274. -/
  | sectorFill (k : Nat)
  /-- WRITEBACK_APPLY, R274. -/
  | writebackApply (k : Nat)
  /-- REBALANCE, R276. -/
  | rebalance (d : BitVec 2)
  /-- BUCKET_MOVE_END, R276. -/
  | bucketMoveEnd (d : BitVec 2)
  /-- CAUSAL_UPDATE_ARRIVE, R278. -/
  | causalUpdateArrive (k d : Nat)
  /-- CAUSAL_UPDATE_APPLY, R278. -/
  | causalUpdateApply (d w : Nat)
  /-- CAUSAL_MISS_ANSWER, R333. -/
  | causalMissAnswer (k : Nat)
  /-- RANGE_PERFORMED, R279. -/
  | rangePerformed (k : Nat)
  /-- COPY_EXPANSION, R284. -/
  | copyExpansion (t : Nat)
  /-- COPY_ISSUE, R294. -/
  | copyIssue (t : Nat) (cls : BitVec 2)
  /-- RELEASE_EVENT, R291. -/
  | releaseEvent (t : Nat) (slot : BitVec 6) (sec : Nat)
  /-- VISIBILITY_EVENT, R292. -/
  | visibilityEvent (t : Nat) (slot : BitVec 6) (sec : Nat)
  /-- REMOTE_DECREMENT, R409. -/
  | remoteDecrement (job : BitVec 32) (b : W64) (sectors : Bool) (count : Nat) (tag : Tag) (clock : List Nat)
  /-- COPY_AGE_TIMEOUT, R296. -/
  | copyAgeTimeout (t : Nat) (slot : BitVec 6)
  /-- LINK_DOWN, R296. -/
  | linkDown (route : Route)
  /-- FSIG_APPLY, R298. -/
  | fsigApply (t : Nat) (slot : BitVec 6)
  /-- FRED_SEND, R299. -/
  | fredSend (t : Nat) (slot : BitVec 6)
  /-- FRED_RESULT_SECTOR, R299. -/
  | fredResultSector (t : Nat) (slot : BitVec 6) (sec : Nat) (data : BitVec 512)
  /-- LDF_RETURN, R169. -/
  | ldfReturn (k : Nat)
  /-- ATOMIC_RETURN, R319. -/
  | atomicReturn (k : Nat)
  /-- FAR_ANSWER_TIMEOUT, R169. -/
  | farAnswerTimeout (k : Nat)
  /-- BARRIVE_RELEASE, R312. -/
  | barriveRelease (t : Nat) (sec : Bool)
  /-- ROUND_DEADLINE, R323. -/
  | roundDeadline (grp : BitVec 16) (n : Nat)
  /-- JOB_HOLD_BEGIN, R325. -/
  | jobHoldBegin (job : BitVec 32)
  /-- JOB_HOLD_END, R325. -/
  | jobHoldEnd (job : BitVec 32)
  /-- CONTEXT_SAVE_DONE, R371. -/
  | contextSaveDone (e : BitVec 8)
  /-- CONTEXT_RESTORE_DONE, R375. -/
  | contextRestoreDone (e : BitVec 8)
  /-- REPLACEMENT, R385. -/
  | replacement (e : BitVec 8)
  /-- ADD, R161. -/
  | add (p : BitVec 4) (d a b : BitVec 6)
  /-- SUB, R161. -/
  | sub (p : BitVec 4) (d a b : BitVec 6)
  /-- ADDI, R161. -/
  | addi (p : BitVec 4) (d a : BitVec 6) (imm : BitVec 9)
  /-- AND, R161. -/
  | and (p : BitVec 4) (d a b : BitVec 6)
  /-- OR, R161. -/
  | or (p : BitVec 4) (d a b : BitVec 6)
  /-- XOR, R161. -/
  | xor (p : BitVec 4) (d a b : BitVec 6)
  /-- ANDI, R161. -/
  | andi (p : BitVec 4) (d a : BitVec 6) (imm : BitVec 9)
  /-- ORI, R161. -/
  | ori (p : BitVec 4) (d a : BitVec 6) (imm : BitVec 9)
  /-- XORI, R161. -/
  | xori (p : BitVec 4) (d a : BitVec 6) (imm : BitVec 9)
  /-- SHL, R161. -/
  | shl (p : BitVec 4) (d a b : BitVec 6)
  /-- SHR, R161. -/
  | shr (p : BitVec 4) (d a b : BitVec 6)
  /-- SRA, R161. -/
  | sra (p : BitVec 4) (d a b : BitVec 6)
  /-- SHLI, R161. -/
  | shli (p : BitVec 4) (d a n : BitVec 6)
  /-- SHRI, R161. -/
  | shri (p : BitVec 4) (d a n : BitVec 6)
  /-- SRAI, R161. -/
  | srai (p : BitVec 4) (d a n : BitVec 6)
  /-- MUL, R161. -/
  | mul (p : BitVec 4) (d a b : BitVec 6)
  /-- MULH, R161. -/
  | mulh (p : BitVec 4) (d a b : BitVec 6)
  /-- MULHU, R161. -/
  | mulhu (p : BitVec 4) (d a b : BitVec 6)
  /-- DIVU, R161. -/
  | divu (p : BitVec 4) (d a b : BitVec 6)
  /-- REMU, R161. -/
  | remu (p : BitVec 4) (d a b : BitVec 6)
  /-- MIN, R161. -/
  | min (p : BitVec 4) (d a b : BitVec 6)
  /-- MAX, R161. -/
  | max (p : BitVec 4) (d a b : BitVec 6)
  /-- MINU, R161. -/
  | minu (p : BitVec 4) (d a b : BitVec 6)
  /-- MAXU, R161. -/
  | maxu (p : BitVec 4) (d a b : BitVec 6)
  /-- CLZ, R161. -/
  | clz (p : BitVec 4) (d a : BitVec 6)
  /-- POPC, R161. -/
  | popc (p : BitVec 4) (d a : BitVec 6)
  /-- MOVI, R162. -/
  | movi (p : BitVec 4) (d : BitVec 6) (imm : BitVec 15)
  /-- MOVSH, R162. -/
  | movsh (p : BitVec 4) (d : BitVec 6) (imm : BitVec 15)
  /-- SEL, R162. -/
  | sel (p : BitVec 4) (d a b : BitVec 6) (f : BitVec 3)
  /-- EXTF, R162. -/
  | extf (p : BitVec 4) (d a : BitVec 6) (f : BitVec 3)
  /-- LEA, R162. -/
  | lea (p : BitVec 4) (d a : BitVec 6) (e : BitVec 5)
  /-- CMP, R163. -/
  | cmp (p d : BitVec 4) (a b : BitVec 6) (f : BitVec 3)
  /-- CMPI, R163. -/
  | cmpi (p d : BitVec 4) (c : BitVec 2) (a : BitVec 6) (imm : BitVec 9)
  /-- PLOG, R163. -/
  | plog (p d a b : BitVec 4) (f : BitVec 3)
  /-- MFSR, R167. -/
  | mfsr (p : BitVec 4) (d idx : BitVec 6)
  /-- MTSR, R167. -/
  | mtsr (p : BitVec 4) (a idx : BitVec 6)
  /-- LDS, R168. -/
  | lds (p : BitVec 4) (d a b : BitVec 6) (f : BitVec 3)
  /-- STS, R168. -/
  | sts (p : BitVec 4) (d a b : BitVec 6) (f : BitVec 2)
  /-- LDF, R169. -/
  | ldf (p : BitVec 4) (d a : BitVec 6) (imm : BitVec 9)
  /-- ADDW, R161. -/
  | addw (p : BitVec 4) (d a b : BitVec 6)
  /-- SUBW, R161. -/
  | subw (p : BitVec 4) (d a b : BitVec 6)
  /-- ROTL, R161. -/
  | rotl (p : BitVec 4) (d a b : BitVec 6)
  /-- BEXT, R161. -/
  | bext (p : BitVec 4) (d a b : BitVec 6)
  /-- BINS, R161. -/
  | bins (p : BitVec 4) (d a b : BitVec 6)
  /-- MULI, R161. -/
  | muli (p : BitVec 4) (d a : BitVec 6) (imm : BitVec 9)
  /-- BR, R170. -/
  | br (p : BitVec 4) (disp : BitVec 22)
  /-- BRI, R170. -/
  | bri (p : BitVec 4) (a : BitVec 6)
  /-- CALL, R170. -/
  | call (p : BitVec 4) (disp : BitVec 22)
  /-- RET, R170. -/
  | ret (p : BitVec 4)
  /-- LOOP, R171. -/
  | loop (p : BitVec 4) (fl : BitVec 3) (a : BitVec 6) (last : BitVec 13)
  /-- LOOPI, R171. -/
  | loopi (p : BitVec 4) (fl : BitVec 3) (cnt : BitVec 9) (last : BitVec 10)
  /-- BRKL, R173. -/
  | brkl (p : BitVec 4) (lv : BitVec 3)
  /-- SETLC, R174. -/
  | setlc (p : BitVec 4) (a : BitVec 6) (ec : BitVec 8)
  /-- PHASE, R175. -/
  | phase (p : BitVec 4) (ph : BitVec 6)
  /-- EPOCH, R176. -/
  | epoch (p : BitVec 4) (md : BitVec 1) (val : BitVec 8)
  /-- GATESET, R177. -/
  | gateset (p : BitVec 4) (g : BitVec 3) (a : BitVec 6) (ph : BitVec 4) (en : BitVec 1)
  /-- RDV, R178. -/
  | rdv (p : BitVec 4) (a : BitVec 6) (imm : BitVec 16)
  /-- FENCE, R179. -/
  | fence (p sc : BitVec 4)
  /-- SNAP, R180. -/
  | snap (p : BitVec 4) (tag : BitVec 8)
  /-- TRAPI, R181. -/
  | trapi (p : BitVec 4) (code : BitVec 8)
  /-- RETT, R359. -/
  | rett (p : BitVec 4)
  /-- WAITI, R181. -/
  | waiti (p : BitVec 4)
  /-- ENDT, R182. -/
  | endt (p : BitVec 4)
  /-- NOPN, R183. -/
  | nopn (p : BitVec 4) (n : BitVec 10)
  /-- SPRNG, R184. -/
  | sprng (p : BitVec 4) (a : BitVec 6)
  /-- INTEN, R185. -/
  | inten (p : BitVec 4) (md : BitVec 1) (mask : BitVec 8)
  /-- SECS, R185. -/
  | secs (p : BitVec 4) (go : BitVec 1)
  /-- VLD, R201. -/
  | vld (p : BitVec 4) (vr a : BitVec 6) (q : BitVec 3) (off : BitVec 32)
  /-- VST, R201. -/
  | vst (p : BitVec 4) (vr a : BitVec 6) (q : BitVec 3) (off : BitVec 32)
  /-- VLDX, R201. -/
  | vldx (p : BitVec 4) (vr a b : BitVec 6) (q : BitVec 3) (off : BitVec 32)
  /-- VSTX, R201. -/
  | vstx (p : BitVec 4) (vr a b : BitVec 6) (q : BitVec 3) (off : BitVec 32)
  /-- VLDB, R201. -/
  | vldb (p : BitVec 4) (vr a : BitVec 6) (off : BitVec 32)
  /-- VLDS, R201. -/
  | vlds (p : BitVec 4) (vr a b : BitVec 6) (q : BitVec 3) (off : BitVec 32)
  /-- VSTS, R201. -/
  | vsts (p : BitVec 4) (vr a b : BitVec 6) (q : BitVec 3) (off : BitVec 32)
  /-- SEND, R269. -/
  | send (p : BitVec 4) (vr : BitVec 6) (tgt : BitVec 9) (sid : BitVec 8)
  /-- RECV, R269. -/
  | recv (p : BitVec 4) (vr : BitVec 6) (sid : BitVec 8)
  /-- LSEND, R269. -/
  | lsend (p : BitVec 4) (a : BitVec 6) (tgt : BitVec 9) (sid : BitVec 8) (off : BitVec 22)
  /-- LRECV, R269. -/
  | lrecv (p : BitVec 4) (a : BitVec 6) (sid : BitVec 8) (off : BitVec 22)
  /-- DSEND, R269. -/
  | dsend (p : BitVec 4) (vr : BitVec 6) (tgt : BitVec 9) (sid : BitVec 8) (die : BitVec 2)
  /-- DRECV, R269. -/
  | drecv (p : BitVec 4) (vr : BitVec 6) (sid : BitVec 8)
  /-- FNEST, R286. -/
  | fnest (p : BitVec 4) (x a b : BitVec 6) (lv : BitVec 3)
  /-- FBASE, R286. -/
  | fbase (p : BitVec 4) (x a b : BitVec 6)
  /-- FIDX, R286. -/
  | fidx (p : BitVec 4) (x : BitVec 6)
  /-- FGO, R288. -/
  | fgo (p : BitVec 4) (a b : BitVec 6) (delay : BitVec 20) (sc : BitVec 4) (ls : BitVec 8)
  /-- FSIG, R298. -/
  | fsig (p : BitVec 4) (a b : BitVec 6) (sc : BitVec 4)
  /-- FRED, R299. -/
  | fred (p : BitVec 4) (x a b : BitVec 6) (f sc : BitVec 4)
  /-- FQRY, R300. -/
  | fqry (p : BitVec 4) (x : BitVec 6) (sel : BitVec 2)
  /-- FCAN, R301. -/
  | fcan (p : BitVec 4) (slot : BitVec 6) (all : BitVec 1)
  /-- WBR, R279. -/
  | wbr (p : BitVec 4) (a b : BitVec 6) (sc : BitVec 4)
  /-- INVR, R279. -/
  | invr (p : BitVec 4) (a b : BitVec 6) (sc : BitVec 4)
  /-- DISCR, R279. -/
  | discr (p : BitVec 4) (a b : BitVec 6) (sc : BitVec 4)
  /-- AMO, R317. -/
  | amo (p : BitVec 4) (d a b : BitVec 6) (f sc : BitVec 4) (w : BitVec 1)
  /-- CAS, R317. -/
  | cas (p : BitVec 4) (d a b c : BitVec 6) (sc : BitVec 4) (w : BitVec 1)
  /-- BINIT, R311. -/
  | binit (p : BitVec 4) (a : BitVec 6) (imm : BitVec 24)
  /-- BARRIVE, R312. -/
  | barrive (p : BitVec 4) (a : BitVec 6) (sc : BitVec 4) (imm : BitVec 24)
  /-- BEXPECT, R311. -/
  | bexpect (p : BitVec 4) (a b : BitVec 6)
  /-- BREAD, R311. -/
  | bread (p : BitVec 4) (d a : BitVec 6)
  /-- BREARM, R311. -/
  | brearm (p : BitVec 4) (a : BitVec 6) (imm : BitVec 24)
  /-- VADD, R209. -/
  | vadd (p : BitVec 4) (q : BitVec 3) (d a b : BitVec 6)
  /-- VSUB, R209. -/
  | vsub (p : BitVec 4) (q : BitVec 3) (d a b : BitVec 6)
  /-- VMUL, R209. -/
  | vmul (p : BitVec 4) (q : BitVec 3) (d a b : BitVec 6)
  /-- VAND, R209. -/
  | vand (p : BitVec 4) (q : BitVec 3) (d a b : BitVec 6)
  /-- VOR, R209. -/
  | vor (p : BitVec 4) (q : BitVec 3) (d a b : BitVec 6)
  /-- VXOR, R209. -/
  | vxor (p : BitVec 4) (q : BitVec 3) (d a b : BitVec 6)
  /-- VSHL, R209. -/
  | vshl (p : BitVec 4) (q : BitVec 3) (d a b : BitVec 6)
  /-- VSHR, R209. -/
  | vshr (p : BitVec 4) (q : BitVec 3) (d a b : BitVec 6)
  /-- VSRA, R209. -/
  | vsra (p : BitVec 4) (q : BitVec 3) (d a b : BitVec 6)
  /-- VMIN, R209. -/
  | vmin (p : BitVec 4) (q : BitVec 3) (d a b : BitVec 6)
  /-- VMAX, R209. -/
  | vmax (p : BitVec 4) (q : BitVec 3) (d a b : BitVec 6)
  /-- VMINU, R209. -/
  | vminu (p : BitVec 4) (q : BitVec 3) (d a b : BitVec 6)
  /-- VMAXU, R209. -/
  | vmaxu (p : BitVec 4) (q : BitVec 3) (d a b : BitVec 6)
  /-- VCMP, R209. -/
  | vcmp (p : BitVec 4) (q d : BitVec 3) (a b : BitVec 6) (f : BitVec 3)
  /-- VADDS, R209. -/
  | vadds (p : BitVec 4) (q : BitVec 3) (d a b : BitVec 6)
  /-- VFADD, R210. -/
  | vfadd (p : BitVec 4) (q : BitVec 3) (d a b : BitVec 6) (rm : BitVec 2)
  /-- VFSUB, R210. -/
  | vfsub (p : BitVec 4) (q : BitVec 3) (d a b : BitVec 6) (rm : BitVec 2)
  /-- VFMUL, R210. -/
  | vfmul (p : BitVec 4) (q : BitVec 3) (d a b : BitVec 6) (rm : BitVec 2)
  /-- VFMA, R210. -/
  | vfma (p : BitVec 4) (q : BitVec 3) (d a b c : BitVec 6) (rm : BitVec 2)
  /-- VFNMA, R210. -/
  | vfnma (p : BitVec 4) (q : BitVec 3) (d a b c : BitVec 6) (rm : BitVec 2)
  /-- VFMIN, R211. -/
  | vfmin (p : BitVec 4) (q : BitVec 3) (d a b : BitVec 6)
  /-- VFMAX, R211. -/
  | vfmax (p : BitVec 4) (q : BitVec 3) (d a b : BitVec 6)
  /-- VFCMP, R211. -/
  | vfcmp (p : BitVec 4) (q d : BitVec 3) (a b : BitVec 6) (f : BitVec 3)
  /-- VFABS, R211. -/
  | vfabs (p : BitVec 4) (q : BitVec 3) (d a : BitVec 6)
  /-- VFNEG, R211. -/
  | vfneg (p : BitVec 4) (q : BitVec 3) (d a : BitVec 6)
  /-- VBADD, R212. -/
  | vbadd (p : BitVec 4) (q : BitVec 3) (d a b : BitVec 6) (rm : BitVec 2)
  /-- VBMUL, R212. -/
  | vbmul (p : BitVec 4) (q : BitVec 3) (d a b : BitVec 6) (rm : BitVec 2)
  /-- VBFMA, R212. -/
  | vbfma (p : BitVec 4) (q : BitVec 3) (d a b c : BitVec 6) (rm : BitVec 2)
  /-- VFRND, R213. -/
  | vfrnd (p : BitVec 4) (q : BitVec 3) (d a : BitVec 6) (rm : BitVec 2)
  /-- VLMUL, R214. -/
  | vlmul (p : BitVec 4) (q : BitVec 3) (d a b : BitVec 6)
  /-- VLDIV, R214. -/
  | vldiv (p : BitVec 4) (q : BitVec 3) (d a b : BitVec 6)
  /-- VLSQRT, R214. -/
  | vlsqrt (p : BitVec 4) (q : BitVec 3) (d a : BitVec 6)
  /-- VLINV, R214. -/
  | vlinv (p : BitVec 4) (q : BitVec 3) (d a : BitVec 6)
  /-- VCVT, R215. -/
  | vcvt (p : BitVec 4) (q : BitVec 3) (d a : BitVec 6) (rm : BitVec 2) (fmt tgt : BitVec 4) (c8 : BitVec 8)
  /-- VEXP2, R217. -/
  | vexp2 (p : BitVec 4) (q : BitVec 3) (d a : BitVec 6) (rm : BitVec 2)
  /-- VLOG2, R218. -/
  | vlog2 (p : BitVec 4) (q : BitVec 3) (d a : BitVec 6) (rm : BitVec 2)
  /-- VMOV, R219. -/
  | vmov (p : BitVec 4) (q : BitVec 3) (d b : BitVec 6)
  /-- VSEL, R219. -/
  | vsel (p : BitVec 4) (q : BitVec 3) (d a b : BitVec 6) (qc : BitVec 3)
  /-- VPERM, R219. -/
  | vperm (p : BitVec 4) (q : BitVec 3) (d a b : BitVec 6)
  /-- VROT, R219. -/
  | vrot (p : BitVec 4) (q : BitVec 3) (d a n : BitVec 6)
  /-- VRED, R220. -/
  | vred (p : BitVec 4) (q : BitVec 3) (d a : BitVec 6) (rm : BitVec 2) (fmt : BitVec 4) (f : BitVec 3)
  /-- VEXT, R219. -/
  | vext (p : BitVec 4) (d a n : BitVec 6)
  /-- VINS, R219. -/
  | vins (p : BitVec 4) (d b n : BitVec 6)
  /-- VIOTA, R219. -/
  | viota (p : BitVec 4) (q : BitVec 3) (d : BitVec 6)
  /-- VPACK, R219. -/
  | vpack (p : BitVec 4) (d a b : BitVec 6)
  /-- VUNPK, R219. -/
  | vunpk (p : BitVec 4) (q : BitVec 3) (d a : BitVec 6) (h : BitVec 1)
  /-- QLOG, R221. -/
  | qlog (p : BitVec 4) (d a b f : BitVec 3)
  /-- QSET, R221. -/
  | qset (p : BitVec 4) (d : BitVec 3)
  /-- QGET, R221. -/
  | qget (p : BitVec 4) (d : BitVec 6) (a : BitVec 3)
  /-- VCLZ, R209. -/
  | vclz (p : BitVec 4) (q : BitVec 3) (d a : BitVec 6)
  /-- VPOPC, R209. -/
  | vpopc (p : BitVec 4) (q : BitVec 3) (d a : BitVec 6)
  /-- VMULH, R209. -/
  | vmulh (p : BitVec 4) (q : BitVec 3) (d a b : BitVec 6)
  /-- MLDW, R235. -/
  | mldw (p : BitVec 4) (delay : BitVec 20) (a b vs : BitVec 6) (nr : BitVec 7) (wf : BitVec 4)
  /-- MSWAP, R236. -/
  | mswap (p : BitVec 4) (delay : BitVec 20)
  /-- MSTR, R237. -/
  | mstr (p : BitVec 4) (acc : BitVec 3) (delay : BitVec 20) (a b : BitVec 6) (nr : BitVec 7) (wf : BitVec 4)
  /-- MSTRZ, R237. -/
  | mstrz (p : BitVec 4) (acc : BitVec 3) (delay : BitVec 20) (a b : BitVec 6) (nr : BitVec 7) (wf : BitVec 4)
  /-- MCBT, R238. -/
  | mcbt (p : BitVec 4) (delay : BitVec 20) (a : BitVec 6)
  /-- MSCL, R239. -/
  | mscl (p : BitVec 4) (delay : BitVec 20) (vs : BitVec 6)
  /-- ARD, R240. -/
  | ard (p : BitVec 4) (acc : BitVec 3) (row : BitVec 7) (h : BitVec 1) (v : BitVec 6) (ae : BitVec 1) (a : BitVec 6) (rm : BitVec 2)
  /-- ARDB, R240. -/
  | ardb (p : BitVec 4) (acc : BitVec 3) (row : BitVec 7) (v : BitVec 6) (ae : BitVec 1) (a : BitVec 6) (rm : BitVec 2)
  /-- ARDL, R240. -/
  | ardl (p : BitVec 4) (acc : BitVec 3) (row : BitVec 7) (v : BitVec 6) (ae : BitVec 1) (a : BitVec 6) (rm : BitVec 2)
  /-- ARDL8, R240. -/
  | ardl8 (p : BitVec 4) (acc : BitVec 3) (row : BitVec 7) (v : BitVec 6) (ae : BitVec 1) (a : BitVec 6) (rm : BitVec 2) (c8 : BitVec 8)
  /-- AWR, R241. -/
  | awr (p : BitVec 4) (acc : BitVec 3) (row : BitVec 7) (h : BitVec 1) (v : BitVec 6) (ae : BitVec 1) (a : BitVec 6)
  /-- AWRB, R241. -/
  | awrb (p : BitVec 4) (acc : BitVec 3) (row : BitVec 7) (v : BitVec 6) (ae : BitVec 1) (a : BitVec 6)
  /-- ACLR, R241. -/
  | aclr (p : BitVec 4) (acc : BitVec 3) (row : BitVec 7) (ae : BitVec 1) (a : BitVec 6)
  /-- AADD, R241. -/
  | aadd (p : BitVec 4) (acc : BitVec 3) (row : BitVec 7) (v : BitVec 6) (ae : BitVec 1) (a : BitVec 6)
  /-- ACT, R250. -/
  | act (pc : BitVec 1) (ofs : BitVec 10) (bk : BitVec 4) (row : BitVec 16)
  /-- RD, R250. -/
  | rd (pc : BitVec 1) (ofs : BitVec 10) (bk col : BitVec 4) (tl : BitVec 2) (sec : BitVec 16)
  /-- WR, R250. -/
  | wr (pc : BitVec 1) (ofs : BitVec 10) (bk col : BitVec 4) (tl : BitVec 2) (sec : BitVec 16)
  /-- PRE, R250. -/
  | pre (pc : BitVec 1) (ofs : BitVec 10) (bk : BitVec 4)
  /-- PREA, R250. -/
  | prea (pc : BitVec 1) (ofs : BitVec 10)
  /-- REF, R250. -/
  | ref (pc : BitVec 1) (ofs : BitVec 10)
  /-- REFPB, R250. -/
  | refpb (pc : BitVec 1) (ofs : BitVec 10) (bk : BitVec 4)
  /-- WAITC, R250. -/
  | waitc (cnt : BitVec 20)
  /-- TNEST, R250. -/
  | tnest (lv : BitVec 3) (cnt : BitVec 16) (rs : BitVec 12) (cs : BitVec 4) (ds : BitVec 16)
  /-- TEND, R250. -/
  | tend (len : BitVec 10)
  /-- TROUTE, R250. -/
  | troute (sid : BitVec 8)
  /-- LINK_RESTORED, R296. -/
  | linkRestored (route : Route)
  /-- POWER_UP, R12. -/
  | powerUp
  /-- IMGWR, R63. -/
  | imgwr
  /-- LTWR, R65. -/
  | ltwr
  /-- LTCTL_KILL, R65. -/
  | ltctlKill
  /-- LTCTL_CLEAR, R65. -/
  | ltctlClear
  /-- UNKNOWN_FRAME, R63. -/
  | unknownFrame
  /-- EVRD, R366. -/
  | evrd
  /-- EVRD_MAILBOX, R367. -/
  | evrdMailbox
  /-- PTP, R60. -/
  | ptp
  /-- PORTSEL, R63. -/
  | portsel
  /-- ASIDGRANT, R80. -/
  | asidgrant
  /-- ASIDREVOKE, R80. -/
  | asidrevoke
  /-- TLBINV, R89. -/
  | tlbinv
  /-- PAGEIN, R295. -/
  | pagein
  /-- PAGEDENY, R295. -/
  | pagedeny
  /-- PREEMPT_REQUEST, R368. -/
  | preemptRequest
  /-- RESUME, R375. -/
  | resume
  /-- SNAPNOW, R382. -/
  | snapnow
  /-- SNAPCLR, R383. -/
  | snapclr
  /-- HOST_INTERRUPT, R165. -/
  | hostInterrupt
  /-- GET_VERSION, R388. -/
  | getVersion
  /-- GET_CAPABILITIES, R388. -/
  | getCapabilities
  /-- NEGOTIATE_ALGORITHMS, R388. -/
  | negotiateAlgorithms
  /-- GET_DIGESTS, R388. -/
  | getDigests
  /-- GET_CERTIFICATE, R388. -/
  | getCertificate
  /-- CHALLENGE, R388. -/
  | challenge
  /-- GET_MEASUREMENTS, R388. -/
  | getMeasurements
  /-- KEY_EXCHANGE, R388. -/
  | keyExchange
  /-- FINISH, R388. -/
  | finish
  /-- END_SESSION, R388. -/
  | endSession
  /-- SPDM_UNSUPPORTED_REQUEST, R388. -/
  | spdmUnsupportedRequest
  /-- MGMT_REGISTER_WRITE, R410. -/
  | mgmtRegisterWrite
  /-- DBGB_WRITE, R362. -/
  | dbgbWrite
  /-- TINJ_WRITE, R363. -/
  | tinjWrite
  /-- MINJ_WRITE, R272. -/
  | minjWrite
  /-- ACTION_ENTRY_WRITE, R349. -/
  | actionEntryWrite
  /-- SNAPCMP_WRITE, R383. -/
  | snapcmpWrite
  /-- TILE_MAP_WRITE, R73. -/
  | tileMapWrite
  /-- STRETCH_RESULT, R377. -/
  | stretchResult
  /-- CONTRIBUTION_ARRIVAL, R320. -/
  | contributionArrival
  /-- FLIT_RETRY, R325. -/
  | flitRetry
  /-- OVERRUN_NOTICE, R325. -/
  | overrunNotice
  /-- SENSOR_READ, R380. -/
  | sensorRead
  /-- SNAPCMP_MATCH, R382. -/
  | snapcmpMatch
  /-- SNAPSHOT_LATCH, R382. -/
  | snapshotLatch
  /-- JOB_HOLD_NOTICE, R384. -/
  | jobHoldNotice
  /-- JOB_RELEASE_NOTICE, R385. -/
  | jobReleaseNotice
  /-- THALT, R250. -/
  | thalt
  /-- RAIL_REMOVAL, R12. -/
  | railRemoval
  /-- PEER_ACCESS_ARRIVAL, R318. -/
  | peerAccessArrival
  /-- DISPLACEMENT_NOTICE, R95. -/
  | displacementNotice
  /-- HANDLER_INSTALL, R353. -/
  | handlerInstall
  deriving DecidableEq, Repr

/-- The syllable class of R105 to R114, and the package steps that carry no words. -/
inductive Cls where
  | scalar
  | control
  | memory
  | vector
  | matrix
  | accum
  | channel
  | event
  deriving DecidableEq, Repr

/-- The class a step belongs to. -/
def Instr.cls : Instr → Cls
  | .powerUp => .event
  | .imgwr => .event
  | .ltwr => .event
  | .ltctlKill => .event
  | .ltctlClear => .event
  | .unknownFrame => .event
  | .evrd => .event
  | .evrdMailbox => .event
  | .ptp => .event
  | .portsel => .event
  | .asidgrant => .event
  | .asidrevoke => .event
  | .tlbinv => .event
  | .pagein => .event
  | .pagedeny => .event
  | .preemptRequest => .event
  | .resume => .event
  | .snapnow => .event
  | .snapclr => .event
  | .dieReset _ => .event
  | .dieLive _ => .event
  | .hostInterrupt => .event
  | .getVersion => .event
  | .getCapabilities => .event
  | .negotiateAlgorithms => .event
  | .getDigests => .event
  | .getCertificate => .event
  | .challenge => .event
  | .getMeasurements => .event
  | .keyExchange => .event
  | .finish => .event
  | .endSession => .event
  | .spdmUnsupportedRequest => .event
  | .mgmtRegisterWrite => .event
  | .dbgbWrite => .event
  | .tinjWrite => .event
  | .minjWrite => .event
  | .actionEntryWrite => .event
  | .snapcmpWrite => .event
  | .tileMapWrite => .event
  | .admission _ => .event
  | .launchStart _ => .event
  | .dynamicRelease _ => .event
  | .regionRelease _ => .event
  | .taskStart _ => .event
  | .taskEnd _ => .event
  | .bundleIssue _ => .event
  | .signatureBundle _ => .event
  | .blockRerun _ => .event
  | .tileRetire _ => .event
  | .secondaryIssue _ => .event
  | .handlerBundleIssue _ => .event
  | .gateHoldRelease _ => .event
  | .engineCommandStart _ _ => .event
  | .holdBudget _ => .event
  | .rdvLeave _ => .event
  | .stretchResult => .event
  | .timerCompare _ => .event
  | .waitiWake _ => .event
  | .eventFifoDrain _ => .event
  | .tlbQuery _ => .event
  | .tlbWalkDone _ => .event
  | .tlbinvAck _ _ => .event
  | .invalTimeout _ _ => .event
  | .rdBurstLanding _ => .event
  | .parkedBurstWrite _ => .event
  | .refreshDebtRise _ => .event
  | .autonomousRefresh _ => .event
  | .cachedWindowOpen _ => .event
  | .cachedPathAccess _ => .event
  | .timedHop _ => .event
  | .meshLatchWrite _ => .event
  | .dieLatchWrite _ => .event
  | .bePacketHop _ => .event
  | .cacheRequest _ => .event
  | .sectorFill _ => .event
  | .writebackApply _ => .event
  | .rebalance _ => .event
  | .bucketMoveEnd _ => .event
  | .causalUpdateArrive _ _ => .event
  | .causalUpdateApply _ _ => .event
  | .causalMissAnswer _ => .event
  | .rangePerformed _ => .event
  | .copyExpansion _ => .event
  | .copyIssue _ _ => .event
  | .releaseEvent _ _ _ => .event
  | .visibilityEvent _ _ _ => .event
  | .remoteDecrement _ _ _ _ _ _ => .event
  | .copyAgeTimeout _ _ => .event
  | .linkDown _ => .event
  | .fsigApply _ _ => .event
  | .fredSend _ _ => .event
  | .fredResultSector _ _ _ _ => .event
  | .ldfReturn _ => .event
  | .atomicReturn _ => .event
  | .farAnswerTimeout _ => .event
  | .barriveRelease _ _ => .event
  | .contributionArrival => .event
  | .roundDeadline _ _ => .event
  | .flitRetry => .event
  | .overrunNotice => .event
  | .jobHoldBegin _ => .event
  | .jobHoldEnd _ => .event
  | .sensorRead => .event
  | .contextSaveDone _ => .event
  | .contextRestoreDone _ => .event
  | .snapcmpMatch => .event
  | .snapshotLatch => .event
  | .jobHoldNotice => .event
  | .replacement _ => .event
  | .jobReleaseNotice => .event
  | .add _ _ _ _ => .scalar
  | .sub _ _ _ _ => .scalar
  | .addi _ _ _ _ => .scalar
  | .and _ _ _ _ => .scalar
  | .or _ _ _ _ => .scalar
  | .xor _ _ _ _ => .scalar
  | .andi _ _ _ _ => .scalar
  | .ori _ _ _ _ => .scalar
  | .xori _ _ _ _ => .scalar
  | .shl _ _ _ _ => .scalar
  | .shr _ _ _ _ => .scalar
  | .sra _ _ _ _ => .scalar
  | .shli _ _ _ _ => .scalar
  | .shri _ _ _ _ => .scalar
  | .srai _ _ _ _ => .scalar
  | .mul _ _ _ _ => .scalar
  | .mulh _ _ _ _ => .scalar
  | .mulhu _ _ _ _ => .scalar
  | .divu _ _ _ _ => .scalar
  | .remu _ _ _ _ => .scalar
  | .min _ _ _ _ => .scalar
  | .max _ _ _ _ => .scalar
  | .minu _ _ _ _ => .scalar
  | .maxu _ _ _ _ => .scalar
  | .clz _ _ _ => .scalar
  | .popc _ _ _ => .scalar
  | .movi _ _ _ => .scalar
  | .movsh _ _ _ => .scalar
  | .sel _ _ _ _ _ => .scalar
  | .extf _ _ _ _ => .scalar
  | .lea _ _ _ _ => .scalar
  | .cmp _ _ _ _ _ => .scalar
  | .cmpi _ _ _ _ _ => .scalar
  | .plog _ _ _ _ _ => .scalar
  | .mfsr _ _ _ => .scalar
  | .mtsr _ _ _ => .scalar
  | .lds _ _ _ _ _ => .scalar
  | .sts _ _ _ _ _ => .scalar
  | .ldf _ _ _ _ => .scalar
  | .addw _ _ _ _ => .scalar
  | .subw _ _ _ _ => .scalar
  | .rotl _ _ _ _ => .scalar
  | .bext _ _ _ _ => .scalar
  | .bins _ _ _ _ => .scalar
  | .muli _ _ _ _ => .scalar
  | .br _ _ => .control
  | .bri _ _ => .control
  | .call _ _ => .control
  | .ret _ => .control
  | .loop _ _ _ _ => .control
  | .loopi _ _ _ _ => .control
  | .brkl _ _ => .control
  | .setlc _ _ _ => .control
  | .phase _ _ => .control
  | .epoch _ _ _ => .control
  | .gateset _ _ _ _ _ => .control
  | .rdv _ _ _ => .control
  | .fence _ _ => .control
  | .snap _ _ => .control
  | .trapi _ _ => .control
  | .rett _ => .control
  | .waiti _ => .control
  | .endt _ => .control
  | .nopn _ _ => .control
  | .sprng _ _ => .control
  | .inten _ _ _ => .control
  | .secs _ _ => .control
  | .vld _ _ _ _ _ => .memory
  | .vst _ _ _ _ _ => .memory
  | .vldx _ _ _ _ _ _ => .memory
  | .vstx _ _ _ _ _ _ => .memory
  | .vldb _ _ _ _ => .memory
  | .vlds _ _ _ _ _ _ => .memory
  | .vsts _ _ _ _ _ _ => .memory
  | .send _ _ _ _ => .memory
  | .recv _ _ _ => .memory
  | .lsend _ _ _ _ _ => .memory
  | .lrecv _ _ _ _ => .memory
  | .dsend _ _ _ _ _ => .memory
  | .drecv _ _ _ => .memory
  | .fnest _ _ _ _ _ => .memory
  | .fbase _ _ _ _ => .memory
  | .fidx _ _ => .memory
  | .fgo _ _ _ _ _ _ => .memory
  | .fsig _ _ _ _ => .memory
  | .fred _ _ _ _ _ _ => .memory
  | .fqry _ _ _ => .memory
  | .fcan _ _ _ => .memory
  | .wbr _ _ _ _ => .memory
  | .invr _ _ _ _ => .memory
  | .discr _ _ _ _ => .memory
  | .amo _ _ _ _ _ _ _ => .memory
  | .cas _ _ _ _ _ _ _ => .memory
  | .binit _ _ _ => .memory
  | .barrive _ _ _ _ => .memory
  | .bexpect _ _ _ => .memory
  | .bread _ _ _ => .memory
  | .brearm _ _ _ => .memory
  | .vadd _ _ _ _ _ => .vector
  | .vsub _ _ _ _ _ => .vector
  | .vmul _ _ _ _ _ => .vector
  | .vand _ _ _ _ _ => .vector
  | .vor _ _ _ _ _ => .vector
  | .vxor _ _ _ _ _ => .vector
  | .vshl _ _ _ _ _ => .vector
  | .vshr _ _ _ _ _ => .vector
  | .vsra _ _ _ _ _ => .vector
  | .vmin _ _ _ _ _ => .vector
  | .vmax _ _ _ _ _ => .vector
  | .vminu _ _ _ _ _ => .vector
  | .vmaxu _ _ _ _ _ => .vector
  | .vcmp _ _ _ _ _ _ => .vector
  | .vadds _ _ _ _ _ => .vector
  | .vfadd _ _ _ _ _ _ => .vector
  | .vfsub _ _ _ _ _ _ => .vector
  | .vfmul _ _ _ _ _ _ => .vector
  | .vfma _ _ _ _ _ _ _ => .vector
  | .vfnma _ _ _ _ _ _ _ => .vector
  | .vfmin _ _ _ _ _ => .vector
  | .vfmax _ _ _ _ _ => .vector
  | .vfcmp _ _ _ _ _ _ => .vector
  | .vfabs _ _ _ _ => .vector
  | .vfneg _ _ _ _ => .vector
  | .vbadd _ _ _ _ _ _ => .vector
  | .vbmul _ _ _ _ _ _ => .vector
  | .vbfma _ _ _ _ _ _ _ => .vector
  | .vfrnd _ _ _ _ _ => .vector
  | .vlmul _ _ _ _ _ => .vector
  | .vldiv _ _ _ _ _ => .vector
  | .vlsqrt _ _ _ _ => .vector
  | .vlinv _ _ _ _ => .vector
  | .vcvt _ _ _ _ _ _ _ _ => .vector
  | .vexp2 _ _ _ _ _ => .vector
  | .vlog2 _ _ _ _ _ => .vector
  | .vmov _ _ _ _ => .vector
  | .vsel _ _ _ _ _ _ => .vector
  | .vperm _ _ _ _ _ => .vector
  | .vrot _ _ _ _ _ => .vector
  | .vred _ _ _ _ _ _ _ => .vector
  | .vext _ _ _ _ => .vector
  | .vins _ _ _ _ => .vector
  | .viota _ _ _ => .vector
  | .vpack _ _ _ _ => .vector
  | .vunpk _ _ _ _ _ => .vector
  | .qlog _ _ _ _ _ => .vector
  | .qset _ _ => .vector
  | .qget _ _ _ => .vector
  | .vclz _ _ _ _ => .vector
  | .vpopc _ _ _ _ => .vector
  | .vmulh _ _ _ _ _ => .vector
  | .mldw _ _ _ _ _ _ _ => .matrix
  | .mswap _ _ => .matrix
  | .mstr _ _ _ _ _ _ _ => .matrix
  | .mstrz _ _ _ _ _ _ _ => .matrix
  | .mcbt _ _ _ => .matrix
  | .mscl _ _ _ => .matrix
  | .ard _ _ _ _ _ _ _ _ => .accum
  | .ardb _ _ _ _ _ _ _ => .accum
  | .ardl _ _ _ _ _ _ _ => .accum
  | .ardl8 _ _ _ _ _ _ _ _ => .accum
  | .awr _ _ _ _ _ _ _ => .accum
  | .awrb _ _ _ _ _ _ => .accum
  | .aclr _ _ _ _ _ => .accum
  | .aadd _ _ _ _ _ _ => .accum
  | .act _ _ _ _ => .channel
  | .rd _ _ _ _ _ _ => .channel
  | .wr _ _ _ _ _ _ => .channel
  | .pre _ _ _ => .channel
  | .prea _ _ => .channel
  | .ref _ _ => .channel
  | .refpb _ _ _ => .channel
  | .waitc _ => .channel
  | .tnest _ _ _ _ _ => .channel
  | .tend _ => .channel
  | .troute _ => .channel
  | .thalt => .channel
  | .railRemoval => .event
  | .linkRestored _ => .event
  | .peerAccessArrival => .event
  | .displacementNotice => .event
  | .handlerInstall => .event

end Sys2Proof
end

