-- ==== Sys2Proof/WellFormed.lean ====
section
/-! DEFINITION. The limits R105 to R114 put on the fields of a syllable: what decode refuses as ILLEGAL_OP whatever the image (R116). -/

namespace Sys2Proof

/-- Every field within its stated limits (R105 to R114, R116). (DEDUCED: log 41.) -/
def WellFormed : Instr → Bool
  | .powerUp => true
  | .imgwr => true
  | .ltwr => true
  | .ltctlKill => true
  | .ltctlClear => true
  | .unknownFrame => true
  | .evrd => true
  | .evrdMailbox => true
  | .ptp => true
  | .portsel => true
  | .asidgrant => true
  | .asidrevoke => true
  | .tlbinv => true
  | .pagein => true
  | .pagedeny => true
  | .preemptRequest => true
  | .resume => true
  | .snapnow => true
  | .snapclr => true
  | .dieReset _ => true
  | .dieLive _ => true
  | .hostInterrupt => true
  | .getVersion => true
  | .getCapabilities => true
  | .negotiateAlgorithms => true
  | .getDigests => true
  | .getCertificate => true
  | .challenge => true
  | .getMeasurements => true
  | .keyExchange => true
  | .finish => true
  | .endSession => true
  | .spdmUnsupportedRequest => true
  | .mgmtRegisterWrite => true
  | .dbgbWrite => true
  | .tinjWrite => true
  | .minjWrite => true
  | .actionEntryWrite => true
  | .snapcmpWrite => true
  | .tileMapWrite => true
  | .admission _ => true
  | .launchStart _ => true
  | .dynamicRelease _ => true
  | .regionRelease _ => true
  | .taskStart _ => true
  | .taskEnd _ => true
  | .bundleIssue _ => true
  | .signatureBundle _ => true
  | .blockRerun _ => true
  | .tileRetire _ => true
  | .secondaryIssue _ => true
  | .handlerBundleIssue _ => true
  | .gateHoldRelease _ => true
  | .engineCommandStart _ _ => true
  | .holdBudget _ => true
  | .rdvLeave _ => true
  | .stretchResult => true
  | .timerCompare _ => true
  | .waitiWake _ => true
  | .eventFifoDrain _ => true
  | .tlbQuery _ => true
  | .tlbWalkDone _ => true
  | .tlbinvAck _ _ => true
  | .invalTimeout _ _ => true
  | .rdBurstLanding _ => true
  | .parkedBurstWrite _ => true
  | .refreshDebtRise _ => true
  | .autonomousRefresh _ => true
  | .cachedWindowOpen _ => true
  | .cachedPathAccess _ => true
  | .timedHop _ => true
  | .meshLatchWrite _ => true
  | .dieLatchWrite _ => true
  | .bePacketHop _ => true
  | .cacheRequest _ => true
  | .sectorFill _ => true
  | .writebackApply _ => true
  | .rebalance _ => true
  | .bucketMoveEnd _ => true
  | .causalUpdateArrive _ _ => true
  | .causalUpdateApply _ _ => true
  | .causalMissAnswer _ => true
  | .rangePerformed _ => true
  | .copyExpansion _ => true
  | .copyIssue _ _ => true
  | .releaseEvent _ _ _ => true
  | .visibilityEvent _ _ _ => true
  | .remoteDecrement _ _ _ _ _ _ => true
  | .copyAgeTimeout _ _ => true
  | .linkDown _ => true
  | .fsigApply _ _ => true
  | .fredSend _ _ => true
  | .fredResultSector _ _ _ _ => true
  | .ldfReturn _ => true
  | .atomicReturn _ => true
  | .farAnswerTimeout _ => true
  | .barriveRelease _ _ => true
  | .contributionArrival => true
  | .roundDeadline _ _ => true
  | .flitRetry => true
  | .overrunNotice => true
  | .jobHoldBegin _ => true
  | .jobHoldEnd _ => true
  | .sensorRead => true
  | .contextSaveDone _ => true
  | .contextRestoreDone _ => true
  | .snapcmpMatch => true
  | .snapshotLatch => true
  | .jobHoldNotice => true
  | .replacement _ => true
  | .jobReleaseNotice => true
  | .add _ _ _ _ => true
  | .sub _ _ _ _ => true
  | .addi _ _ _ _ => true
  | .and _ _ _ _ => true
  | .or _ _ _ _ => true
  | .xor _ _ _ _ => true
  | .andi _ _ _ _ => true
  | .ori _ _ _ _ => true
  | .xori _ _ _ _ => true
  | .shl _ _ _ _ => true
  | .shr _ _ _ _ => true
  | .sra _ _ _ _ => true
  | .shli _ _ _ _ => true
  | .shri _ _ _ _ => true
  | .srai _ _ _ _ => true
  | .mul _ _ _ _ => true
  | .mulh _ _ _ _ => true
  | .mulhu _ _ _ _ => true
  | .divu _ _ _ _ => true
  | .remu _ _ _ _ => true
  | .min _ _ _ _ => true
  | .max _ _ _ _ => true
  | .minu _ _ _ _ => true
  | .maxu _ _ _ _ => true
  | .clz _ _ _ => true
  | .popc _ _ _ => true
  | .movi _ _ _ => true
  | .movsh _ _ _ => true
  | .sel _ _ _ _ _ => true
  | .extf _ _ _ f => decide (f.toNat < 6)
  | .lea _ _ _ _ => true
  | .cmp _ _ _ _ f => decide (f.toNat < 6)
  | .cmpi _ _ _ _ _ => true
  | .plog _ _ _ b f => decide (f.toNat < 6) && (decide (f.toNat < 4) || b == 0)
  | .mfsr _ _ idx => idx != 0x17
  | .mtsr _ _ idx => idx != 0x17
  | .lds _ _ _ _ f => f != 7
  | .sts _ _ _ _ _ => true
  | .ldf _ _ _ _ => true
  | .addw _ _ _ _ => true
  | .subw _ _ _ _ => true
  | .rotl _ _ _ _ => true
  | .bext _ _ _ _ => true
  | .bins _ _ _ _ => true
  | .muli _ _ _ _ => true
  | .br _ _ => true
  | .bri _ _ => true
  | .call _ _ => true
  | .ret _ => true
  | .loop _ _ _ _ => true
  | .loopi _ _ _ _ => true
  | .brkl _ lv => decide (1 ≤ lv.toNat) && decide (lv.toNat ≤ 6)
  | .setlc _ _ _ => true
  | .phase _ _ => true
  | .epoch _ _ _ => true
  | .gateset _ _ _ _ _ => true
  | .rdv _ _ _ => true
  | .fence _ sc => decide (sc.toNat < 10)
  | .snap _ _ => true
  | .trapi _ _ => true
  | .rett _ => true
  | .waiti _ => true
  | .endt _ => true
  | .nopn _ n => n != 0
  | .sprng _ _ => true
  | .inten _ _ mask => decide (mask.toNat < 4)
  | .secs _ _ => true
  | .vld _ _ _ _ _ => true
  | .vst _ _ _ _ _ => true
  | .vldx _ _ _ _ _ _ => true
  | .vstx _ _ _ _ _ _ => true
  | .vldb _ _ _ _ => true
  | .vlds _ _ _ _ _ _ => true
  | .vsts _ _ _ _ _ _ => true
  | .send _ _ _ _ => true
  | .recv _ _ _ => true
  | .lsend _ _ _ _ _ => true
  | .lrecv _ _ _ _ => true
  | .dsend _ _ _ _ _ => true
  | .drecv _ _ _ => true
  | .fnest _ _ _ _ lv => decide (lv.toNat < 6)
  | .fbase _ _ _ _ => true
  | .fidx _ _ => true
  | .fgo _ _ _ _ sc _ => decide (sc.toNat < 10)
  | .fsig _ _ _ sc => decide (sc.toNat < 10)
  | .fred _ _ _ _ _ sc => decide (sc.toNat < 10)
  | .fqry _ _ _ => true
  | .fcan _ slot all => all == 0 || slot == 0
  | .wbr _ _ _ sc => sc == 3
  | .invr _ _ _ sc => sc == 3
  | .discr _ _ _ sc => sc == 3
  | .amo _ _ _ _ f sc w => decide (f.toNat < 10) && decide (sc.toNat < 10) && !(f == 1 && w == 1)
  | .cas _ _ _ _ _ sc _ => decide (sc.toNat < 10)
  | .binit _ _ _ => true
  | .barrive _ _ sc _ => decide (sc.toNat < 10)
  | .bexpect _ _ _ => true
  | .bread _ _ _ => true
  | .brearm _ _ _ => true
  | .vadd _ _ _ _ _ => true
  | .vsub _ _ _ _ _ => true
  | .vmul _ _ _ _ _ => true
  | .vand _ _ _ _ _ => true
  | .vor _ _ _ _ _ => true
  | .vxor _ _ _ _ _ => true
  | .vshl _ _ _ _ _ => true
  | .vshr _ _ _ _ _ => true
  | .vsra _ _ _ _ _ => true
  | .vmin _ _ _ _ _ => true
  | .vmax _ _ _ _ _ => true
  | .vminu _ _ _ _ _ => true
  | .vmaxu _ _ _ _ _ => true
  | .vcmp _ _ _ _ _ f => decide (f.toNat < 6)
  | .vadds _ _ _ _ _ => true
  | .vfadd _ _ _ _ _ rm => rm != 3
  | .vfsub _ _ _ _ _ rm => rm != 3
  | .vfmul _ _ _ _ _ rm => rm != 3
  | .vfma _ _ _ _ _ _ rm => rm != 3
  | .vfnma _ _ _ _ _ _ rm => rm != 3
  | .vfmin _ _ _ _ _ => true
  | .vfmax _ _ _ _ _ => true
  | .vfcmp _ _ _ _ _ f => decide (f.toNat < 5)
  | .vfabs _ _ _ _ => true
  | .vfneg _ _ _ _ => true
  | .vbadd _ _ _ _ _ rm => rm != 3
  | .vbmul _ _ _ _ _ rm => rm != 3
  | .vbfma _ _ _ _ _ _ rm => rm != 3
  | .vfrnd _ _ _ _ rm => rm != 3
  | .vlmul _ _ _ _ _ => true
  | .vldiv _ _ _ _ _ => true
  | .vlsqrt _ _ _ _ => true
  | .vlinv _ _ _ _ => true
  | .vcvt _ _ _ _ rm fmt tgt c8 => decide (fmt.toNat < 5) && decide (tgt.toNat < 5) && fmt != tgt && (c8 == 0 || fmt == 4 || tgt == 4) && (rm != 2 || tgt == 1 || tgt == 2)
  | .vexp2 _ _ _ _ rm => rm != 3
  | .vlog2 _ _ _ _ rm => rm != 3
  | .vmov _ _ _ _ => true
  | .vsel _ _ _ _ _ _ => true
  | .vperm _ _ _ _ _ => true
  | .vrot _ _ _ _ _ => true
  | .vred _ _ _ _ rm fmt f => decide (f.toNat < 3) && decide (fmt.toNat < 2) && (rm == 0 || (rm != 3 && fmt == 1 && f == 0))
  | .vext _ _ _ _ => true
  | .vins _ _ _ _ => true
  | .viota _ _ _ => true
  | .vpack _ _ _ _ => true
  | .vunpk _ _ _ _ _ => true
  | .qlog _ _ _ b f => decide (f.toNat < 6) && (decide (f.toNat < 4) || b == 0)
  | .qset _ _ => true
  | .qget _ _ _ => true
  | .vclz _ _ _ _ => true
  | .vpopc _ _ _ _ => true
  | .vmulh _ _ _ _ _ => true
  | .mldw _ _ _ _ _ _ wf => wf == 3 || wf == 4 || wf == 5
  | .mswap _ _ => true
  | .mstr _ _ _ _ _ _ wf => wf == 3 || wf == 4
  | .mstrz _ _ _ _ _ _ wf => wf == 3 || wf == 4
  | .mcbt _ _ _ => true
  | .mscl _ _ _ => true
  | .ard _ _ _ _ _ _ _ _ => true
  | .ardb _ _ _ _ _ _ _ => true
  | .ardl _ _ _ _ _ _ rm => rm != 2
  | .ardl8 _ _ _ _ _ _ rm _ => rm != 2
  | .awr _ _ _ _ _ _ _ => true
  | .awrb _ _ _ _ _ _ => true
  | .aclr _ _ _ _ _ => true
  | .aadd _ _ _ _ _ _ => true
  | .act _ _ _ _ => true
  | .rd _ _ _ _ _ _ => true
  | .wr _ _ _ _ _ _ => true
  | .pre _ _ _ => true
  | .prea _ _ => true
  | .ref _ _ => true
  | .refpb _ _ _ => true
  | .waitc _ => true
  | .tnest lv _ _ _ _ => decide (lv.toNat < 6)
  | .tend _ => true
  | .troute _ => true
  | .thalt => true
  | .railRemoval => true
  | .linkRestored _ => true
  | .peerAccessArrival => true
  | .displacementNotice => true
  | .handlerInstall => true

end Sys2Proof
end

