-- ==== Sys2Proof/Decode.lean ====
section
/-! DEFINITION. Decoding the words of a syllable, and encoding them, from the tables of R105 to R114. A word decodes when its opcode is assigned, every field is within its limits and every other bit is 0 (R116). -/

namespace Sys2Proof

/-- A field's value at its place: its lowest bit is bit `lo` of the word. -/
def put {n : Nat} (x : BitVec n) (lo : Nat) : Nat := x.toNat * 2 ^ lo

/-- The `n`-bit field of a word whose lowest bit is bit `lo`. -/
def fld (w lo n : Nat) : BitVec n := BitVec.ofNat n (w / 2 ^ lo)

/-- The words of a scalar syllable as one number, a 64-bit syllable's first word in bits 63:32 (R97). -/
def encodeScalar : Instr → Nat
  | .add p d a b => 0x02000000 + put p 21 + put d 15 + put a 9 + put b 3
  | .sub p d a b => 0x04000000 + put p 21 + put d 15 + put a 9 + put b 3
  | .addi p d a imm => 0x06000000 + put p 21 + put d 15 + put a 9 + put imm 0
  | .and p d a b => 0x08000000 + put p 21 + put d 15 + put a 9 + put b 3
  | .or p d a b => 0x0A000000 + put p 21 + put d 15 + put a 9 + put b 3
  | .xor p d a b => 0x0C000000 + put p 21 + put d 15 + put a 9 + put b 3
  | .andi p d a imm => 0x0E000000 + put p 21 + put d 15 + put a 9 + put imm 0
  | .ori p d a imm => 0x10000000 + put p 21 + put d 15 + put a 9 + put imm 0
  | .xori p d a imm => 0x12000000 + put p 21 + put d 15 + put a 9 + put imm 0
  | .shl p d a b => 0x14000000 + put p 21 + put d 15 + put a 9 + put b 3
  | .shr p d a b => 0x16000000 + put p 21 + put d 15 + put a 9 + put b 3
  | .sra p d a b => 0x18000000 + put p 21 + put d 15 + put a 9 + put b 3
  | .shli p d a n => 0x1A000000 + put p 21 + put d 15 + put a 9 + put n 0
  | .shri p d a n => 0x1C000000 + put p 21 + put d 15 + put a 9 + put n 0
  | .srai p d a n => 0x1E000000 + put p 21 + put d 15 + put a 9 + put n 0
  | .mul p d a b => 0x20000000 + put p 21 + put d 15 + put a 9 + put b 3
  | .mulh p d a b => 0x22000000 + put p 21 + put d 15 + put a 9 + put b 3
  | .mulhu p d a b => 0x24000000 + put p 21 + put d 15 + put a 9 + put b 3
  | .divu p d a b => 0x26000000 + put p 21 + put d 15 + put a 9 + put b 3
  | .remu p d a b => 0x28000000 + put p 21 + put d 15 + put a 9 + put b 3
  | .min p d a b => 0x2A000000 + put p 21 + put d 15 + put a 9 + put b 3
  | .max p d a b => 0x2C000000 + put p 21 + put d 15 + put a 9 + put b 3
  | .minu p d a b => 0x2E000000 + put p 21 + put d 15 + put a 9 + put b 3
  | .maxu p d a b => 0x30000000 + put p 21 + put d 15 + put a 9 + put b 3
  | .clz p d a => 0x32000000 + put p 21 + put d 15 + put a 9
  | .popc p d a => 0x34000000 + put p 21 + put d 15 + put a 9
  | .movi p d imm => 0x36000000 + put p 21 + put d 15 + put imm 0
  | .movsh p d imm => 0x38000000 + put p 21 + put d 15 + put imm 0
  | .sel p d a b f => 0x3A000000 + put p 21 + put d 15 + put a 9 + put b 3 + put f 0
  | .extf p d a f => 0x3C000000 + put p 21 + put d 15 + put a 9 + put f 0
  | .lea p d a e => 0x3E000000 + put p 21 + put d 15 + put a 9 + put e 0
  | .cmp p d a b f => 0x40000000 + put p 21 + put d 15 + put a 9 + put b 3 + put f 0
  | .cmpi p d c a imm => 0x42000000 + put p 21 + put d 15 + put c 19 + put a 9 + put imm 0
  | .plog p d a b f => 0x44000000 + put p 21 + put d 15 + put a 9 + put b 3 + put f 0
  | .mfsr p d idx => 0x46000000 + put p 21 + put d 15 + put idx 0
  | .mtsr p a idx => 0x48000000 + put p 21 + put a 9 + put idx 0
  | .lds p d a b f => 0x4A000000 + put p 21 + put d 15 + put a 9 + put b 3 + put f 0
  | .sts p d a b f => 0x4C000000 + put p 21 + put d 15 + put a 9 + put b 3 + put f 0
  | .ldf p d a imm => 0x4E000000 + put p 21 + put d 15 + put a 9 + put imm 0
  | .addw p d a b => 0x50000000 + put p 21 + put d 15 + put a 9 + put b 3
  | .subw p d a b => 0x52000000 + put p 21 + put d 15 + put a 9 + put b 3
  | .rotl p d a b => 0x54000000 + put p 21 + put d 15 + put a 9 + put b 3
  | .bext p d a b => 0x56000000 + put p 21 + put d 15 + put a 9 + put b 3
  | .bins p d a b => 0x58000000 + put p 21 + put d 15 + put a 9 + put b 3
  | .muli p d a imm => 0x5A000000 + put p 21 + put d 15 + put a 9 + put imm 0
  | _ => 0

/-- The words of a control syllable as one number, a 64-bit syllable's first word in bits 63:32 (R97). -/
def encodeControl : Instr → Nat
  | .br p disp => 0x04000000 + put p 22 + put disp 0
  | .bri p a => 0x08000000 + put p 22 + put a 16
  | .call p disp => 0x0C000000 + put p 22 + put disp 0
  | .ret p => 0x10000000 + put p 22
  | .loop p fl a last => 0x14000000 + put p 22 + put fl 19 + put a 13 + put last 0
  | .loopi p fl cnt last => 0x18000000 + put p 22 + put fl 19 + put cnt 10 + put last 0
  | .brkl p lv => 0x1C000000 + put p 22 + put lv 19
  | .setlc p a ec => 0x20000000 + put p 22 + put a 16 + put ec 0
  | .phase p ph => 0x24000000 + put p 22 + put ph 16
  | .epoch p md val => 0x28000000 + put p 22 + put md 21 + put val 13
  | .gateset p g a ph en => 0x2C000000 + put p 22 + put g 19 + put a 13 + put ph 9 + put en 8
  | .rdv p a imm => 0x30000000 + put p 22 + put a 16 + put imm 0
  | .fence p sc => 0x34000000 + put p 22 + put sc 18
  | .snap p tag => 0x38000000 + put p 22 + put tag 14
  | .trapi p code => 0x3C000000 + put p 22 + put code 14
  | .rett p => 0x40000000 + put p 22
  | .waiti p => 0x44000000 + put p 22
  | .endt p => 0x48000000 + put p 22
  | .nopn p n => 0x4C000000 + put p 22 + put n 12
  | .sprng p a => 0x50000000 + put p 22 + put a 16
  | .inten p md mask => 0x54000000 + put p 22 + put md 21 + put mask 13
  | .secs p go => 0x58000000 + put p 22 + put go 21
  | _ => 0

/-- The words of a memory syllable as one number, a 64-bit syllable's first word in bits 63:32 (R97). -/
def encodeMemory : Instr → Nat
  | .vld p vr a q off => 0x0200000000000000 + put p 53 + put vr 47 + put a 41 + put q 32 + put off 0
  | .vst p vr a q off => 0x0400000000000000 + put p 53 + put vr 47 + put a 41 + put q 32 + put off 0
  | .vldx p vr a b q off => 0x0600000000000000 + put p 53 + put vr 47 + put a 41 + put b 35 + put q 32 + put off 0
  | .vstx p vr a b q off => 0x0800000000000000 + put p 53 + put vr 47 + put a 41 + put b 35 + put q 32 + put off 0
  | .vldb p vr a off => 0x0A00000000000000 + put p 53 + put vr 47 + put a 41 + put off 0
  | .vlds p vr a b q off => 0x0C00000000000000 + put p 53 + put vr 47 + put a 41 + put b 35 + put q 32 + put off 0
  | .vsts p vr a b q off => 0x0E00000000000000 + put p 53 + put vr 47 + put a 41 + put b 35 + put q 32 + put off 0
  | .send p vr tgt sid => 0x2000000000000000 + put p 53 + put vr 47 + put tgt 32 + put sid 24
  | .recv p vr sid => 0x2200000000000000 + put p 53 + put vr 47 + put sid 24
  | .lsend p a tgt sid off => 0x2400000000000000 + put p 53 + put a 41 + put tgt 32 + put sid 24 + put off 0
  | .lrecv p a sid off => 0x2600000000000000 + put p 53 + put a 41 + put sid 24 + put off 0
  | .dsend p vr tgt sid die => 0x2800000000000000 + put p 53 + put vr 47 + put tgt 32 + put sid 24 + put die 22
  | .drecv p vr sid => 0x2A00000000000000 + put p 53 + put vr 47 + put sid 24
  | .fnest p x a b lv => 0x4000000000000000 + put p 53 + put x 47 + put a 41 + put b 35 + put lv 32
  | .fbase p x a b => 0x4200000000000000 + put p 53 + put x 47 + put a 41 + put b 35
  | .fidx p x => 0x4400000000000000 + put p 53 + put x 47
  | .fgo p a b delay sc ls => 0x4600000000000000 + put p 53 + put a 41 + put b 35 + put delay 0 + put sc 20 + put ls 24
  | .fsig p a b sc => 0x4800000000000000 + put p 53 + put a 41 + put b 35 + put sc 20
  | .fred p x a b f sc => 0x4A00000000000000 + put p 53 + put x 47 + put a 41 + put b 35 + put f 0 + put sc 20
  | .fqry p x sel => 0x4C00000000000000 + put p 53 + put x 47 + put sel 0
  | .fcan p slot all => 0x4E00000000000000 + put p 53 + put slot 0 + put all 6
  | .wbr p a b sc => 0x5000000000000000 + put p 53 + put a 41 + put b 35 + put sc 31
  | .invr p a b sc => 0x5200000000000000 + put p 53 + put a 41 + put b 35 + put sc 31
  | .discr p a b sc => 0x5400000000000000 + put p 53 + put a 41 + put b 35 + put sc 31
  | .amo p d a b f sc w => 0x6000000000000000 + put p 53 + put d 47 + put a 41 + put b 35 + put f 25 + put sc 21 + put w 20
  | .cas p d a b c sc w => 0x6200000000000000 + put p 53 + put d 47 + put a 41 + put b 35 + put c 29 + put sc 21 + put w 20
  | .binit p a imm => 0x7000000000000000 + put p 53 + put a 41 + put imm 0
  | .barrive p a sc imm => 0x7200000000000000 + put p 53 + put a 41 + put sc 31 + put imm 0
  | .bexpect p a b => 0x7400000000000000 + put p 53 + put a 41 + put b 35
  | .bread p d a => 0x7600000000000000 + put p 53 + put d 47 + put a 41
  | .brearm p a imm => 0x7800000000000000 + put p 53 + put a 41 + put imm 0
  | _ => 0

/-- The words of a vector syllable as one number, a 64-bit syllable's first word in bits 63:32 (R97). -/
def encodeVector : Instr → Nat
  | .vadd p q d a b => 0x0200000000000000 + put p 53 + put q 50 + put d 44 + put a 38 + put b 32
  | .vsub p q d a b => 0x0400000000000000 + put p 53 + put q 50 + put d 44 + put a 38 + put b 32
  | .vmul p q d a b => 0x0600000000000000 + put p 53 + put q 50 + put d 44 + put a 38 + put b 32
  | .vand p q d a b => 0x0800000000000000 + put p 53 + put q 50 + put d 44 + put a 38 + put b 32
  | .vor p q d a b => 0x0A00000000000000 + put p 53 + put q 50 + put d 44 + put a 38 + put b 32
  | .vxor p q d a b => 0x0C00000000000000 + put p 53 + put q 50 + put d 44 + put a 38 + put b 32
  | .vshl p q d a b => 0x0E00000000000000 + put p 53 + put q 50 + put d 44 + put a 38 + put b 32
  | .vshr p q d a b => 0x1000000000000000 + put p 53 + put q 50 + put d 44 + put a 38 + put b 32
  | .vsra p q d a b => 0x1200000000000000 + put p 53 + put q 50 + put d 44 + put a 38 + put b 32
  | .vmin p q d a b => 0x1400000000000000 + put p 53 + put q 50 + put d 44 + put a 38 + put b 32
  | .vmax p q d a b => 0x1600000000000000 + put p 53 + put q 50 + put d 44 + put a 38 + put b 32
  | .vminu p q d a b => 0x1800000000000000 + put p 53 + put q 50 + put d 44 + put a 38 + put b 32
  | .vmaxu p q d a b => 0x1A00000000000000 + put p 53 + put q 50 + put d 44 + put a 38 + put b 32
  | .vcmp p q d a b f => 0x1C00000000000000 + put p 53 + put q 50 + put d 44 + put a 38 + put b 32 + put f 0
  | .vadds p q d a b => 0x1E00000000000000 + put p 53 + put q 50 + put d 44 + put a 38 + put b 32
  | .vfadd p q d a b rm => 0x2000000000100000 + put p 53 + put q 50 + put d 44 + put a 38 + put b 32 + put rm 24
  | .vfsub p q d a b rm => 0x2200000000100000 + put p 53 + put q 50 + put d 44 + put a 38 + put b 32 + put rm 24
  | .vfmul p q d a b rm => 0x2400000000100000 + put p 53 + put q 50 + put d 44 + put a 38 + put b 32 + put rm 24
  | .vfma p q d a b c rm => 0x2600000000100000 + put p 53 + put q 50 + put d 44 + put a 38 + put b 32 + put c 26 + put rm 24
  | .vfnma p q d a b c rm => 0x2800000000100000 + put p 53 + put q 50 + put d 44 + put a 38 + put b 32 + put c 26 + put rm 24
  | .vfmin p q d a b => 0x2A00000000100000 + put p 53 + put q 50 + put d 44 + put a 38 + put b 32
  | .vfmax p q d a b => 0x2C00000000100000 + put p 53 + put q 50 + put d 44 + put a 38 + put b 32
  | .vfcmp p q d a b f => 0x2E00000000100000 + put p 53 + put q 50 + put d 44 + put a 38 + put b 32 + put f 0
  | .vfabs p q d a => 0x3000000000100000 + put p 53 + put q 50 + put d 44 + put a 38
  | .vfneg p q d a => 0x3200000000100000 + put p 53 + put q 50 + put d 44 + put a 38
  | .vbadd p q d a b rm => 0x3400000000200000 + put p 53 + put q 50 + put d 44 + put a 38 + put b 32 + put rm 24
  | .vbmul p q d a b rm => 0x3600000000200000 + put p 53 + put q 50 + put d 44 + put a 38 + put b 32 + put rm 24
  | .vbfma p q d a b c rm => 0x3800000000200000 + put p 53 + put q 50 + put d 44 + put a 38 + put b 32 + put c 26 + put rm 24
  | .vfrnd p q d a rm => 0x3A00000000100000 + put p 53 + put q 50 + put d 44 + put a 38 + put rm 24
  | .vlmul p q d a b => 0x4000000000300000 + put p 53 + put q 50 + put d 44 + put a 38 + put b 32
  | .vldiv p q d a b => 0x4200000000300000 + put p 53 + put q 50 + put d 44 + put a 38 + put b 32
  | .vlsqrt p q d a => 0x4400000000300000 + put p 53 + put q 50 + put d 44 + put a 38
  | .vlinv p q d a => 0x4600000000300000 + put p 53 + put q 50 + put d 44 + put a 38
  | .vcvt p q d a rm fmt tgt c8 => 0x5000000000000000 + put p 53 + put q 50 + put d 44 + put a 38 + put rm 24 + put fmt 20 + put tgt 0 + put c8 4
  | .vexp2 p q d a rm => 0x5200000000100000 + put p 53 + put q 50 + put d 44 + put a 38 + put rm 24
  | .vlog2 p q d a rm => 0x5400000000100000 + put p 53 + put q 50 + put d 44 + put a 38 + put rm 24
  | .vmov p q d b => 0x6000000000000000 + put p 53 + put q 50 + put d 44 + put b 32
  | .vsel p q d a b qc => 0x6200000000000000 + put p 53 + put q 50 + put d 44 + put a 38 + put b 32 + put qc 26
  | .vperm p q d a b => 0x6400000000000000 + put p 53 + put q 50 + put d 44 + put a 38 + put b 32
  | .vrot p q d a n => 0x6600000000000000 + put p 53 + put q 50 + put d 44 + put a 38 + put n 0
  | .vred p q d a rm fmt f => 0x6800000000000000 + put p 53 + put q 50 + put d 44 + put a 38 + put rm 24 + put fmt 20 + put f 0
  | .vext p d a n => 0x6A00000000000000 + put p 53 + put d 44 + put a 38 + put n 0
  | .vins p d b n => 0x6C00000000000000 + put p 53 + put d 44 + put b 32 + put n 0
  | .viota p q d => 0x6E00000000000000 + put p 53 + put q 50 + put d 44
  | .vpack p d a b => 0x7000000000000000 + put p 53 + put d 44 + put a 38 + put b 32
  | .vunpk p q d a h => 0x7200000000000000 + put p 53 + put q 50 + put d 44 + put a 38 + put h 0
  | .qlog p d a b f => 0x7400000000000000 + put p 53 + put d 44 + put a 38 + put b 32 + put f 0
  | .qset p d => 0x7600003F00000000 + put p 53 + put d 44
  | .qget p d a => 0x7800000000000000 + put p 53 + put d 44 + put a 38
  | .vclz p q d a => 0x7A00000000000000 + put p 53 + put q 50 + put d 44 + put a 38
  | .vpopc p q d a => 0x7C00000000000000 + put p 53 + put q 50 + put d 44 + put a 38
  | .vmulh p q d a b => 0x7E00000000000000 + put p 53 + put q 50 + put d 44 + put a 38 + put b 32
  | _ => 0

/-- The words of a matrix syllable as one number, a 64-bit syllable's first word in bits 63:32 (R97). -/
def encodeMatrix : Instr → Nat
  | .mldw p delay a b vs nr wf => 0x0400000000000000 + put p 54 + put delay 31 + put a 25 + put b 19 + put vs 13 + put nr 6 + put wf 2
  | .mswap p delay => 0x0800000000000000 + put p 54 + put delay 31
  | .mstr p acc delay a b nr wf => 0x0C00000000000000 + put p 54 + put acc 51 + put delay 31 + put a 25 + put b 19 + put nr 6 + put wf 2
  | .mstrz p acc delay a b nr wf => 0x1000000000000000 + put p 54 + put acc 51 + put delay 31 + put a 25 + put b 19 + put nr 6 + put wf 2
  | .mcbt p delay a => 0x1400000000000000 + put p 54 + put delay 31 + put a 25
  | .mscl p delay vs => 0x1800000000000000 + put p 54 + put delay 31 + put vs 13
  | _ => 0

/-- The words of a accum syllable as one number, a 64-bit syllable's first word in bits 63:32 (R97). -/
def encodeAccum : Instr → Nat
  | .ard p acc row h v ae a rm => 0x0400000000000000 + put p 54 + put acc 51 + put row 44 + put h 43 + put v 37 + put ae 36 + put a 30 + put rm 28
  | .ardb p acc row v ae a rm => 0x0800000000000000 + put p 54 + put acc 51 + put row 44 + put v 37 + put ae 36 + put a 30 + put rm 28
  | .ardl p acc row v ae a rm => 0x0C00000000000000 + put p 54 + put acc 51 + put row 44 + put v 37 + put ae 36 + put a 30 + put rm 28
  | .ardl8 p acc row v ae a rm c8 => 0x1000000000000000 + put p 54 + put acc 51 + put row 44 + put v 37 + put ae 36 + put a 30 + put rm 28 + put c8 20
  | .awr p acc row h v ae a => 0x1400000000000000 + put p 54 + put acc 51 + put row 44 + put h 43 + put v 37 + put ae 36 + put a 30
  | .awrb p acc row v ae a => 0x1800000000000000 + put p 54 + put acc 51 + put row 44 + put v 37 + put ae 36 + put a 30
  | .aclr p acc row ae a => 0x1C00000000000000 + put p 54 + put acc 51 + put row 44 + put ae 36 + put a 30
  | .aadd p acc row v ae a => 0x2000000000000000 + put p 54 + put acc 51 + put row 44 + put v 37 + put ae 36 + put a 30
  | _ => 0

/-- The words of a channel syllable as one number, a 64-bit syllable's first word in bits 63:32 (R97). -/
def encodeChannel : Instr → Nat
  | .act pc ofs bk row => 0x0400000000000000 + put pc 57 + put ofs 47 + put bk 43 + put row 27
  | .rd pc ofs bk col tl sec => 0x0800000000000000 + put pc 57 + put ofs 47 + put bk 43 + put col 39 + put tl 37 + put sec 21
  | .wr pc ofs bk col tl sec => 0x0C00000000000000 + put pc 57 + put ofs 47 + put bk 43 + put col 39 + put tl 37 + put sec 21
  | .pre pc ofs bk => 0x1000000000000000 + put pc 57 + put ofs 47 + put bk 43
  | .prea pc ofs => 0x1400000000000000 + put pc 57 + put ofs 47
  | .ref pc ofs => 0x1800000000000000 + put pc 57 + put ofs 47
  | .refpb pc ofs bk => 0x1C00000000000000 + put pc 57 + put ofs 47 + put bk 43
  | .waitc cnt => 0x2000000000000000 + put cnt 38
  | .tnest lv cnt rs cs ds => 0x2400000000000000 + put lv 55 + put cnt 39 + put rs 27 + put cs 23 + put ds 7
  | .tend len => 0x2800000000000000 + put len 48
  | .troute sid => 0x2C00000000000000 + put sid 50
  | .thalt => 0x3000000000000000
  | _ => 0

/-- The words of a syllable as one number; 0 for a package step, which has none. (DESIGN CHOICE: log 94.) -/
def encode (i : Instr) : Nat :=
  match i.cls with
  | .scalar => encodeScalar i
  | .control => encodeControl i
  | .memory => encodeMemory i
  | .vector => encodeVector i
  | .matrix => encodeMatrix i
  | .accum => encodeAccum i
  | .channel => encodeChannel i
  | .event => 0

/-- The scalar syllable of an opcode, its fields as they stand in the word (R105). -/
def rawScalarOp (op w : Nat) : Option Instr :=
  match op with
  | 0x01 => some (.add (fld w 21 4) (fld w 15 6) (fld w 9 6) (fld w 3 6))
  | 0x02 => some (.sub (fld w 21 4) (fld w 15 6) (fld w 9 6) (fld w 3 6))
  | 0x03 => some (.addi (fld w 21 4) (fld w 15 6) (fld w 9 6) (fld w 0 9))
  | 0x04 => some (.and (fld w 21 4) (fld w 15 6) (fld w 9 6) (fld w 3 6))
  | 0x05 => some (.or (fld w 21 4) (fld w 15 6) (fld w 9 6) (fld w 3 6))
  | 0x06 => some (.xor (fld w 21 4) (fld w 15 6) (fld w 9 6) (fld w 3 6))
  | 0x07 => some (.andi (fld w 21 4) (fld w 15 6) (fld w 9 6) (fld w 0 9))
  | 0x08 => some (.ori (fld w 21 4) (fld w 15 6) (fld w 9 6) (fld w 0 9))
  | 0x09 => some (.xori (fld w 21 4) (fld w 15 6) (fld w 9 6) (fld w 0 9))
  | 0x0A => some (.shl (fld w 21 4) (fld w 15 6) (fld w 9 6) (fld w 3 6))
  | 0x0B => some (.shr (fld w 21 4) (fld w 15 6) (fld w 9 6) (fld w 3 6))
  | 0x0C => some (.sra (fld w 21 4) (fld w 15 6) (fld w 9 6) (fld w 3 6))
  | 0x0D => some (.shli (fld w 21 4) (fld w 15 6) (fld w 9 6) (fld w 0 6))
  | 0x0E => some (.shri (fld w 21 4) (fld w 15 6) (fld w 9 6) (fld w 0 6))
  | 0x0F => some (.srai (fld w 21 4) (fld w 15 6) (fld w 9 6) (fld w 0 6))
  | 0x10 => some (.mul (fld w 21 4) (fld w 15 6) (fld w 9 6) (fld w 3 6))
  | 0x11 => some (.mulh (fld w 21 4) (fld w 15 6) (fld w 9 6) (fld w 3 6))
  | 0x12 => some (.mulhu (fld w 21 4) (fld w 15 6) (fld w 9 6) (fld w 3 6))
  | 0x13 => some (.divu (fld w 21 4) (fld w 15 6) (fld w 9 6) (fld w 3 6))
  | 0x14 => some (.remu (fld w 21 4) (fld w 15 6) (fld w 9 6) (fld w 3 6))
  | 0x15 => some (.min (fld w 21 4) (fld w 15 6) (fld w 9 6) (fld w 3 6))
  | 0x16 => some (.max (fld w 21 4) (fld w 15 6) (fld w 9 6) (fld w 3 6))
  | 0x17 => some (.minu (fld w 21 4) (fld w 15 6) (fld w 9 6) (fld w 3 6))
  | 0x18 => some (.maxu (fld w 21 4) (fld w 15 6) (fld w 9 6) (fld w 3 6))
  | 0x19 => some (.clz (fld w 21 4) (fld w 15 6) (fld w 9 6))
  | 0x1A => some (.popc (fld w 21 4) (fld w 15 6) (fld w 9 6))
  | 0x1B => some (.movi (fld w 21 4) (fld w 15 6) (fld w 0 15))
  | 0x1C => some (.movsh (fld w 21 4) (fld w 15 6) (fld w 0 15))
  | 0x1D => some (.sel (fld w 21 4) (fld w 15 6) (fld w 9 6) (fld w 3 6) (fld w 0 3))
  | 0x1E => some (.extf (fld w 21 4) (fld w 15 6) (fld w 9 6) (fld w 0 3))
  | 0x1F => some (.lea (fld w 21 4) (fld w 15 6) (fld w 9 6) (fld w 0 5))
  | 0x20 => some (.cmp (fld w 21 4) (fld w 15 4) (fld w 9 6) (fld w 3 6) (fld w 0 3))
  | 0x21 => some (.cmpi (fld w 21 4) (fld w 15 4) (fld w 19 2) (fld w 9 6) (fld w 0 9))
  | 0x22 => some (.plog (fld w 21 4) (fld w 15 4) (fld w 9 4) (fld w 3 4) (fld w 0 3))
  | 0x23 => some (.mfsr (fld w 21 4) (fld w 15 6) (fld w 0 6))
  | 0x24 => some (.mtsr (fld w 21 4) (fld w 9 6) (fld w 0 6))
  | 0x25 => some (.lds (fld w 21 4) (fld w 15 6) (fld w 9 6) (fld w 3 6) (fld w 0 3))
  | 0x26 => some (.sts (fld w 21 4) (fld w 15 6) (fld w 9 6) (fld w 3 6) (fld w 0 2))
  | 0x27 => some (.ldf (fld w 21 4) (fld w 15 6) (fld w 9 6) (fld w 0 9))
  | 0x28 => some (.addw (fld w 21 4) (fld w 15 6) (fld w 9 6) (fld w 3 6))
  | 0x29 => some (.subw (fld w 21 4) (fld w 15 6) (fld w 9 6) (fld w 3 6))
  | 0x2A => some (.rotl (fld w 21 4) (fld w 15 6) (fld w 9 6) (fld w 3 6))
  | 0x2B => some (.bext (fld w 21 4) (fld w 15 6) (fld w 9 6) (fld w 3 6))
  | 0x2C => some (.bins (fld w 21 4) (fld w 15 6) (fld w 9 6) (fld w 3 6))
  | 0x2D => some (.muli (fld w 21 4) (fld w 15 6) (fld w 9 6) (fld w 0 9))
  | _ => none

/-- The scalar syllable whose opcode the word has. -/
def rawScalar (w : Nat) : Option Instr := rawScalarOp (w / 2 ^ 25 % 2 ^ 7) w

/-- The control syllable of an opcode, its fields as they stand in the word (R107). -/
def rawControlOp (op w : Nat) : Option Instr :=
  match op with
  | 0x01 => some (.br (fld w 22 4) (fld w 0 22))
  | 0x02 => some (.bri (fld w 22 4) (fld w 16 6))
  | 0x03 => some (.call (fld w 22 4) (fld w 0 22))
  | 0x04 => some (.ret (fld w 22 4))
  | 0x05 => some (.loop (fld w 22 4) (fld w 19 3) (fld w 13 6) (fld w 0 13))
  | 0x06 => some (.loopi (fld w 22 4) (fld w 19 3) (fld w 10 9) (fld w 0 10))
  | 0x07 => some (.brkl (fld w 22 4) (fld w 19 3))
  | 0x08 => some (.setlc (fld w 22 4) (fld w 16 6) (fld w 0 8))
  | 0x09 => some (.phase (fld w 22 4) (fld w 16 6))
  | 0x0A => some (.epoch (fld w 22 4) (fld w 21 1) (fld w 13 8))
  | 0x0B => some (.gateset (fld w 22 4) (fld w 19 3) (fld w 13 6) (fld w 9 4) (fld w 8 1))
  | 0x0C => some (.rdv (fld w 22 4) (fld w 16 6) (fld w 0 16))
  | 0x0D => some (.fence (fld w 22 4) (fld w 18 4))
  | 0x0E => some (.snap (fld w 22 4) (fld w 14 8))
  | 0x0F => some (.trapi (fld w 22 4) (fld w 14 8))
  | 0x10 => some (.rett (fld w 22 4))
  | 0x11 => some (.waiti (fld w 22 4))
  | 0x12 => some (.endt (fld w 22 4))
  | 0x13 => some (.nopn (fld w 22 4) (fld w 12 10))
  | 0x14 => some (.sprng (fld w 22 4) (fld w 16 6))
  | 0x15 => some (.inten (fld w 22 4) (fld w 21 1) (fld w 13 8))
  | 0x16 => some (.secs (fld w 22 4) (fld w 21 1))
  | _ => none

/-- The control syllable whose opcode the word has. -/
def rawControl (w : Nat) : Option Instr := rawControlOp (w / 2 ^ 26 % 2 ^ 6) w

/-- The memory syllable of an opcode, its fields as they stand in the word (R109). -/
def rawMemoryOp (op w : Nat) : Option Instr :=
  match op with
  | 0x01 => some (.vld (fld w 53 4) (fld w 47 6) (fld w 41 6) (fld w 32 3) (fld w 0 32))
  | 0x02 => some (.vst (fld w 53 4) (fld w 47 6) (fld w 41 6) (fld w 32 3) (fld w 0 32))
  | 0x03 => some (.vldx (fld w 53 4) (fld w 47 6) (fld w 41 6) (fld w 35 6) (fld w 32 3) (fld w 0 32))
  | 0x04 => some (.vstx (fld w 53 4) (fld w 47 6) (fld w 41 6) (fld w 35 6) (fld w 32 3) (fld w 0 32))
  | 0x05 => some (.vldb (fld w 53 4) (fld w 47 6) (fld w 41 6) (fld w 0 32))
  | 0x06 => some (.vlds (fld w 53 4) (fld w 47 6) (fld w 41 6) (fld w 35 6) (fld w 32 3) (fld w 0 32))
  | 0x07 => some (.vsts (fld w 53 4) (fld w 47 6) (fld w 41 6) (fld w 35 6) (fld w 32 3) (fld w 0 32))
  | 0x10 => some (.send (fld w 53 4) (fld w 47 6) (fld w 32 9) (fld w 24 8))
  | 0x11 => some (.recv (fld w 53 4) (fld w 47 6) (fld w 24 8))
  | 0x12 => some (.lsend (fld w 53 4) (fld w 41 6) (fld w 32 9) (fld w 24 8) (fld w 0 22))
  | 0x13 => some (.lrecv (fld w 53 4) (fld w 41 6) (fld w 24 8) (fld w 0 22))
  | 0x14 => some (.dsend (fld w 53 4) (fld w 47 6) (fld w 32 9) (fld w 24 8) (fld w 22 2))
  | 0x15 => some (.drecv (fld w 53 4) (fld w 47 6) (fld w 24 8))
  | 0x20 => some (.fnest (fld w 53 4) (fld w 47 6) (fld w 41 6) (fld w 35 6) (fld w 32 3))
  | 0x21 => some (.fbase (fld w 53 4) (fld w 47 6) (fld w 41 6) (fld w 35 6))
  | 0x22 => some (.fidx (fld w 53 4) (fld w 47 6))
  | 0x23 => some (.fgo (fld w 53 4) (fld w 41 6) (fld w 35 6) (fld w 0 20) (fld w 20 4) (fld w 24 8))
  | 0x24 => some (.fsig (fld w 53 4) (fld w 41 6) (fld w 35 6) (fld w 20 4))
  | 0x25 => some (.fred (fld w 53 4) (fld w 47 6) (fld w 41 6) (fld w 35 6) (fld w 0 4) (fld w 20 4))
  | 0x26 => some (.fqry (fld w 53 4) (fld w 47 6) (fld w 0 2))
  | 0x27 => some (.fcan (fld w 53 4) (fld w 0 6) (fld w 6 1))
  | 0x28 => some (.wbr (fld w 53 4) (fld w 41 6) (fld w 35 6) (fld w 31 4))
  | 0x29 => some (.invr (fld w 53 4) (fld w 41 6) (fld w 35 6) (fld w 31 4))
  | 0x2A => some (.discr (fld w 53 4) (fld w 41 6) (fld w 35 6) (fld w 31 4))
  | 0x30 => some (.amo (fld w 53 4) (fld w 47 6) (fld w 41 6) (fld w 35 6) (fld w 25 4) (fld w 21 4) (fld w 20 1))
  | 0x31 => some (.cas (fld w 53 4) (fld w 47 6) (fld w 41 6) (fld w 35 6) (fld w 29 6) (fld w 21 4) (fld w 20 1))
  | 0x38 => some (.binit (fld w 53 4) (fld w 41 6) (fld w 0 24))
  | 0x39 => some (.barrive (fld w 53 4) (fld w 41 6) (fld w 31 4) (fld w 0 24))
  | 0x3A => some (.bexpect (fld w 53 4) (fld w 41 6) (fld w 35 6))
  | 0x3B => some (.bread (fld w 53 4) (fld w 47 6) (fld w 41 6))
  | 0x3C => some (.brearm (fld w 53 4) (fld w 41 6) (fld w 0 24))
  | _ => none

/-- The memory syllable whose opcode the word has. -/
def rawMemory (w : Nat) : Option Instr := rawMemoryOp (w / 2 ^ 57 % 2 ^ 7) w

/-- The vector syllable of an opcode, its fields as they stand in the word (R111). -/
def rawVectorOp (op w : Nat) : Option Instr :=
  match op with
  | 0x01 => some (.vadd (fld w 53 4) (fld w 50 3) (fld w 44 6) (fld w 38 6) (fld w 32 6))
  | 0x02 => some (.vsub (fld w 53 4) (fld w 50 3) (fld w 44 6) (fld w 38 6) (fld w 32 6))
  | 0x03 => some (.vmul (fld w 53 4) (fld w 50 3) (fld w 44 6) (fld w 38 6) (fld w 32 6))
  | 0x04 => some (.vand (fld w 53 4) (fld w 50 3) (fld w 44 6) (fld w 38 6) (fld w 32 6))
  | 0x05 => some (.vor (fld w 53 4) (fld w 50 3) (fld w 44 6) (fld w 38 6) (fld w 32 6))
  | 0x06 => some (.vxor (fld w 53 4) (fld w 50 3) (fld w 44 6) (fld w 38 6) (fld w 32 6))
  | 0x07 => some (.vshl (fld w 53 4) (fld w 50 3) (fld w 44 6) (fld w 38 6) (fld w 32 6))
  | 0x08 => some (.vshr (fld w 53 4) (fld w 50 3) (fld w 44 6) (fld w 38 6) (fld w 32 6))
  | 0x09 => some (.vsra (fld w 53 4) (fld w 50 3) (fld w 44 6) (fld w 38 6) (fld w 32 6))
  | 0x0A => some (.vmin (fld w 53 4) (fld w 50 3) (fld w 44 6) (fld w 38 6) (fld w 32 6))
  | 0x0B => some (.vmax (fld w 53 4) (fld w 50 3) (fld w 44 6) (fld w 38 6) (fld w 32 6))
  | 0x0C => some (.vminu (fld w 53 4) (fld w 50 3) (fld w 44 6) (fld w 38 6) (fld w 32 6))
  | 0x0D => some (.vmaxu (fld w 53 4) (fld w 50 3) (fld w 44 6) (fld w 38 6) (fld w 32 6))
  | 0x0E => some (.vcmp (fld w 53 4) (fld w 50 3) (fld w 44 3) (fld w 38 6) (fld w 32 6) (fld w 0 3))
  | 0x0F => some (.vadds (fld w 53 4) (fld w 50 3) (fld w 44 6) (fld w 38 6) (fld w 32 6))
  | 0x10 => some (.vfadd (fld w 53 4) (fld w 50 3) (fld w 44 6) (fld w 38 6) (fld w 32 6) (fld w 24 2))
  | 0x11 => some (.vfsub (fld w 53 4) (fld w 50 3) (fld w 44 6) (fld w 38 6) (fld w 32 6) (fld w 24 2))
  | 0x12 => some (.vfmul (fld w 53 4) (fld w 50 3) (fld w 44 6) (fld w 38 6) (fld w 32 6) (fld w 24 2))
  | 0x13 => some (.vfma (fld w 53 4) (fld w 50 3) (fld w 44 6) (fld w 38 6) (fld w 32 6) (fld w 26 6) (fld w 24 2))
  | 0x14 => some (.vfnma (fld w 53 4) (fld w 50 3) (fld w 44 6) (fld w 38 6) (fld w 32 6) (fld w 26 6) (fld w 24 2))
  | 0x15 => some (.vfmin (fld w 53 4) (fld w 50 3) (fld w 44 6) (fld w 38 6) (fld w 32 6))
  | 0x16 => some (.vfmax (fld w 53 4) (fld w 50 3) (fld w 44 6) (fld w 38 6) (fld w 32 6))
  | 0x17 => some (.vfcmp (fld w 53 4) (fld w 50 3) (fld w 44 3) (fld w 38 6) (fld w 32 6) (fld w 0 3))
  | 0x18 => some (.vfabs (fld w 53 4) (fld w 50 3) (fld w 44 6) (fld w 38 6))
  | 0x19 => some (.vfneg (fld w 53 4) (fld w 50 3) (fld w 44 6) (fld w 38 6))
  | 0x1A => some (.vbadd (fld w 53 4) (fld w 50 3) (fld w 44 6) (fld w 38 6) (fld w 32 6) (fld w 24 2))
  | 0x1B => some (.vbmul (fld w 53 4) (fld w 50 3) (fld w 44 6) (fld w 38 6) (fld w 32 6) (fld w 24 2))
  | 0x1C => some (.vbfma (fld w 53 4) (fld w 50 3) (fld w 44 6) (fld w 38 6) (fld w 32 6) (fld w 26 6) (fld w 24 2))
  | 0x1D => some (.vfrnd (fld w 53 4) (fld w 50 3) (fld w 44 6) (fld w 38 6) (fld w 24 2))
  | 0x20 => some (.vlmul (fld w 53 4) (fld w 50 3) (fld w 44 6) (fld w 38 6) (fld w 32 6))
  | 0x21 => some (.vldiv (fld w 53 4) (fld w 50 3) (fld w 44 6) (fld w 38 6) (fld w 32 6))
  | 0x22 => some (.vlsqrt (fld w 53 4) (fld w 50 3) (fld w 44 6) (fld w 38 6))
  | 0x23 => some (.vlinv (fld w 53 4) (fld w 50 3) (fld w 44 6) (fld w 38 6))
  | 0x28 => some (.vcvt (fld w 53 4) (fld w 50 3) (fld w 44 6) (fld w 38 6) (fld w 24 2) (fld w 20 4) (fld w 0 4) (fld w 4 8))
  | 0x29 => some (.vexp2 (fld w 53 4) (fld w 50 3) (fld w 44 6) (fld w 38 6) (fld w 24 2))
  | 0x2A => some (.vlog2 (fld w 53 4) (fld w 50 3) (fld w 44 6) (fld w 38 6) (fld w 24 2))
  | 0x30 => some (.vmov (fld w 53 4) (fld w 50 3) (fld w 44 6) (fld w 32 6))
  | 0x31 => some (.vsel (fld w 53 4) (fld w 50 3) (fld w 44 6) (fld w 38 6) (fld w 32 6) (fld w 26 3))
  | 0x32 => some (.vperm (fld w 53 4) (fld w 50 3) (fld w 44 6) (fld w 38 6) (fld w 32 6))
  | 0x33 => some (.vrot (fld w 53 4) (fld w 50 3) (fld w 44 6) (fld w 38 6) (fld w 0 6))
  | 0x34 => some (.vred (fld w 53 4) (fld w 50 3) (fld w 44 6) (fld w 38 6) (fld w 24 2) (fld w 20 4) (fld w 0 3))
  | 0x35 => some (.vext (fld w 53 4) (fld w 44 6) (fld w 38 6) (fld w 0 6))
  | 0x36 => some (.vins (fld w 53 4) (fld w 44 6) (fld w 32 6) (fld w 0 6))
  | 0x37 => some (.viota (fld w 53 4) (fld w 50 3) (fld w 44 6))
  | 0x38 => some (.vpack (fld w 53 4) (fld w 44 6) (fld w 38 6) (fld w 32 6))
  | 0x39 => some (.vunpk (fld w 53 4) (fld w 50 3) (fld w 44 6) (fld w 38 6) (fld w 0 1))
  | 0x3A => some (.qlog (fld w 53 4) (fld w 44 3) (fld w 38 3) (fld w 32 3) (fld w 0 3))
  | 0x3B => some (.qset (fld w 53 4) (fld w 44 3))
  | 0x3C => some (.qget (fld w 53 4) (fld w 44 6) (fld w 38 3))
  | 0x3D => some (.vclz (fld w 53 4) (fld w 50 3) (fld w 44 6) (fld w 38 6))
  | 0x3E => some (.vpopc (fld w 53 4) (fld w 50 3) (fld w 44 6) (fld w 38 6))
  | 0x3F => some (.vmulh (fld w 53 4) (fld w 50 3) (fld w 44 6) (fld w 38 6) (fld w 32 6))
  | _ => none

/-- The vector syllable whose opcode the word has. -/
def rawVector (w : Nat) : Option Instr := rawVectorOp (w / 2 ^ 57 % 2 ^ 7) w

/-- The matrix syllable of an opcode, its fields as they stand in the word (R113). -/
def rawMatrixOp (op w : Nat) : Option Instr :=
  match op with
  | 0x01 => some (.mldw (fld w 54 4) (fld w 31 20) (fld w 25 6) (fld w 19 6) (fld w 13 6) (fld w 6 7) (fld w 2 4))
  | 0x02 => some (.mswap (fld w 54 4) (fld w 31 20))
  | 0x03 => some (.mstr (fld w 54 4) (fld w 51 3) (fld w 31 20) (fld w 25 6) (fld w 19 6) (fld w 6 7) (fld w 2 4))
  | 0x04 => some (.mstrz (fld w 54 4) (fld w 51 3) (fld w 31 20) (fld w 25 6) (fld w 19 6) (fld w 6 7) (fld w 2 4))
  | 0x05 => some (.mcbt (fld w 54 4) (fld w 31 20) (fld w 25 6))
  | 0x06 => some (.mscl (fld w 54 4) (fld w 31 20) (fld w 13 6))
  | _ => none

/-- The matrix syllable whose opcode the word has. -/
def rawMatrix (w : Nat) : Option Instr := rawMatrixOp (w / 2 ^ 58 % 2 ^ 6) w

/-- The accum syllable of an opcode, its fields as they stand in the word (R113). -/
def rawAccumOp (op w : Nat) : Option Instr :=
  match op with
  | 0x01 => some (.ard (fld w 54 4) (fld w 51 3) (fld w 44 7) (fld w 43 1) (fld w 37 6) (fld w 36 1) (fld w 30 6) (fld w 28 2))
  | 0x02 => some (.ardb (fld w 54 4) (fld w 51 3) (fld w 44 7) (fld w 37 6) (fld w 36 1) (fld w 30 6) (fld w 28 2))
  | 0x03 => some (.ardl (fld w 54 4) (fld w 51 3) (fld w 44 7) (fld w 37 6) (fld w 36 1) (fld w 30 6) (fld w 28 2))
  | 0x04 => some (.ardl8 (fld w 54 4) (fld w 51 3) (fld w 44 7) (fld w 37 6) (fld w 36 1) (fld w 30 6) (fld w 28 2) (fld w 20 8))
  | 0x05 => some (.awr (fld w 54 4) (fld w 51 3) (fld w 44 7) (fld w 43 1) (fld w 37 6) (fld w 36 1) (fld w 30 6))
  | 0x06 => some (.awrb (fld w 54 4) (fld w 51 3) (fld w 44 7) (fld w 37 6) (fld w 36 1) (fld w 30 6))
  | 0x07 => some (.aclr (fld w 54 4) (fld w 51 3) (fld w 44 7) (fld w 36 1) (fld w 30 6))
  | 0x08 => some (.aadd (fld w 54 4) (fld w 51 3) (fld w 44 7) (fld w 37 6) (fld w 36 1) (fld w 30 6))
  | _ => none

/-- The accum syllable whose opcode the word has. -/
def rawAccum (w : Nat) : Option Instr := rawAccumOp (w / 2 ^ 58 % 2 ^ 6) w

/-- The channel syllable of an opcode, its fields as they stand in the word (R114). -/
def rawChannelOp (op w : Nat) : Option Instr :=
  match op with
  | 0x01 => some (.act (fld w 57 1) (fld w 47 10) (fld w 43 4) (fld w 27 16))
  | 0x02 => some (.rd (fld w 57 1) (fld w 47 10) (fld w 43 4) (fld w 39 4) (fld w 37 2) (fld w 21 16))
  | 0x03 => some (.wr (fld w 57 1) (fld w 47 10) (fld w 43 4) (fld w 39 4) (fld w 37 2) (fld w 21 16))
  | 0x04 => some (.pre (fld w 57 1) (fld w 47 10) (fld w 43 4))
  | 0x05 => some (.prea (fld w 57 1) (fld w 47 10))
  | 0x06 => some (.ref (fld w 57 1) (fld w 47 10))
  | 0x07 => some (.refpb (fld w 57 1) (fld w 47 10) (fld w 43 4))
  | 0x08 => some (.waitc (fld w 38 20))
  | 0x09 => some (.tnest (fld w 55 3) (fld w 39 16) (fld w 27 12) (fld w 23 4) (fld w 7 16))
  | 0x0A => some (.tend (fld w 48 10))
  | 0x0B => some (.troute (fld w 50 8))
  | 0x0C => some (.thalt)
  | _ => none

/-- The channel syllable whose opcode the word has. -/
def rawChannel (w : Nat) : Option Instr := rawChannelOp (w / 2 ^ 58 % 2 ^ 6) w

/-- The syllable of a class a word's opcode names. -/
def rawOf (c : Cls) (w : Nat) : Option Instr :=
  match c with
  | .scalar => rawScalar w
  | .control => rawControl w
  | .memory => rawMemory w
  | .vector => rawVector w
  | .matrix => rawMatrix w
  | .accum => rawAccum w
  | .channel => rawChannel w
  | .event => none

/-- Decode a word of a class: `none` for a reserved opcode, a field outside its limits, or a non-zero bit no field uses (R116). (DESIGN CHOICE: log 94.) -/
def decodeWord (c : Cls) (w : Nat) : Option Instr :=
  match rawOf c w with
  | some i => if WellFormed i && encode i == w then some i else none
  | none => none

/-- Does the image's encoding version assign the syllable? (R118) -/
def encvOk (v : Nat) : Instr → Bool
  | .ardl8 _ _ _ _ _ _ _ _ => decide (v = 3)
  | .vclz _ _ _ _ => decide (v = 3)
  | .vpopc _ _ _ _ => decide (v = 3)
  | .vmulh _ _ _ _ _ => decide (v = 3)
  | .mldw _ _ _ _ _ _ wf => wf != 5 || decide (v = 3)
  | .loop _ fl _ _ => !fl.getLsbD 2 || decide (v = 3)
  | .loopi _ fl _ _ => !fl.getLsbD 2 || decide (v = 3)
  | .secs _ _ => decide (2 ≤ v)
  | .binit _ _ _ => decide (2 ≤ v)
  | .barrive _ _ _ _ => decide (2 ≤ v)
  | .bexpect _ _ _ => decide (2 ≤ v)
  | .bread _ _ _ => decide (2 ≤ v)
  | .brearm _ _ _ => decide (2 ≤ v)
  | _ => true

/-- The bundle header of R99. -/
structure Header where
  bp : BitVec 4
  pp : Bool
  gh : Bool
  gr : BitVec 3
  gv : Bool
  bcs : BitVec 6
  bcv : Bool
  sig : Bool
  slots : BitVec 8
  deriving DecidableEq, Repr

/-- The fields of a header word (R99). -/
def decodeHeader (w : Nat) : Header :=
  { bp := fld w 22 4, pp := w.testBit 21, gh := w.testBit 20, gr := fld w 17 3, gv := w.testBit 16, bcs := fld w 10 6,
    bcv := w.testBit 9, sig := w.testBit 8, slots := fld w 0 8 }

/-- Reserved bits zero, the pairs of R102, the signature header of R116, and the reserved gate bits of ENCV 1 (R118). -/
def headerOk (encv w : Nat) : Bool :=
  let h := decodeHeader w
  decide (w / 2 ^ 26 = 0) && (h.bcv || h.bcs == 0) && (h.gv || (h.gr == 0 && !h.gh)) &&
  (!h.sig || (h.slots == 0 && decide (w / 2 ^ 9 = 0))) && (decide (encv ≠ 1) || decide (w / 2 ^ 16 % 32 = 0))

/-- The class of each slot in the order S0, S1, C, L, V0, V1, M, K (R100). -/
def slotCls (slot : Nat) : Cls :=
  match slot with
  | 0 => .scalar
  | 1 => .scalar
  | 2 => .control
  | 3 => .memory
  | 4 => .vector
  | 5 => .vector
  | 6 => .matrix
  | _ => .accum

/-- How many words a slot's syllable takes (R100). -/
def slotWords (slot : Nat) : Nat := if slot < 3 then 1 else 2

/-- The slots present, in order (R100). -/
def slotsOf (m : BitVec 8) : List Nat := (List.range 8).filter fun i => m.getLsbD i

/-- The length of a bundle in words, a signature bundle's four included (R100, R119). -/
def bundleLen (h : Header) : Nat :=
  if h.sig then 4 else 1 + ((slotsOf h.slots).map slotWords).sum

/-- The syllable words of a bundle, slot by slot, from the words after its header (R97, R100). -/
def splitSlots : List Nat → List Nat → List (Nat × Nat)
  | [], _ => []
  | s :: ss, ws =>
    match slotWords s, ws with
    | 1, a :: rest => (s, a) :: splitSlots ss rest
    | _, a :: b :: rest => (s, a * 2 ^ 32 + b) :: splitSlots ss rest
    | _, _ => (s, 0) :: splitSlots ss []

/-- The accumulator bank a syllable names (R113). -/
def bankNamed : Instr → Option (BitVec 3)
  | .mstr _ acc _ _ _ _ _ => some acc
  | .mstrz _ acc _ _ _ _ _ => some acc
  | .ard _ acc _ _ _ _ _ _ => some acc
  | .ardb _ acc _ _ _ _ _ => some acc
  | .ardl _ acc _ _ _ _ _ => some acc
  | .ardl8 _ acc _ _ _ _ _ _ => some acc
  | .awr _ acc _ _ _ _ _ => some acc
  | .awrb _ acc _ _ _ _ => some acc
  | .aclr _ acc _ _ _ => some acc
  | .aadd _ acc _ _ _ _ => some acc
  | _ => none

/-- The words of a one-syllable bundle of a class as a slot of the bundle register: a class that two slots share takes the first. -/
def clsSlot : Cls → Nat
  | .scalar => 0
  | .control => 2
  | .memory => 3
  | .vector => 4
  | .matrix => 6
  | .accum => 7
  | .channel => 8
  | .event => 9

/-- The first class of a list whose table gives the word a meaning. (DESIGN CHOICE: log 44.) -/
def firstCls (w : Nat) : List Cls → Option (Cls × Instr)
  | [] => none
  | c :: cs =>
    match decodeWord c w with
    | some i => some (c, i)
    | none => firstCls w cs

/-- The classes whose syllables have `nbits` bits, in the order tried: the class is the slot's and not the word's (R100). (DESIGN CHOICE: log 44.) -/
def clsOfWidth (nbits : Nat) : List Cls :=
  if nbits = 32 then [.scalar, .control] else if nbits = 64 then [.memory, .vector, .matrix, .accum, .channel] else []

/-- The syllable the decoder reads from a word of the opcode table: a 32-bit word as an S syllable where it is one and as a C syllable otherwise; a 64-bit one, whose first word the table numbers lowest, as L, V, M, K or channel. (DESIGN CHOICE: log 44.) -/
def decodeTableWord (nbits w : Nat) : Option Instr :=
  let x := if nbits = 64 then w % 2 ^ 32 * 2 ^ 32 + w / 2 ^ 32 else w
  (firstCls x (clsOfWidth nbits)).map Prod.snd

end Sys2Proof
end

