-- ==== Sys2Proof/Config.lean ====
section
/-! DEFINITION. What an implementation fixes, and the free values: opaque constants with no body, so no proof can see one (the assumption log names each). -/

namespace Sys2Proof.Config

/-- The duration, in ticks less one, of the n-th asynchronous path (R408). A free value (DESIGN CHOICE: log 6). -/
opaque asyncDelay : Nat → Nat

/-- The transmissions a SLOTPLAN section lists: sender and receiver as launch tile numbers, the cycle of the send, and the exchange window it falls in, 0 outside any. The layout of the section is not given. A free value (DESIGN CHOICE: log 10). -/
opaque slotPlan : List Byte → List (Nat × Nat × Nat × Nat)

/-- Which management command or SPDM request the payload of an MCTP frame holds, as its place in the model's list; none where it holds no such. The bytes are not laid out. A free value (DESIGN CHOICE: log 14). -/
opaque mctpStep : List Byte → Option Nat

/-- The operands of that command. A free value (DESIGN CHOICE: log 14). -/
opaque mctpOperands : List Byte → MctpOperands

/-- The register it names. A free value (DESIGN CHOICE: log 14). -/
opaque mctpReg : List Byte → MgmtReg

/-- The number a state of a launch-table entry reads as, by the place of the state in R65's table; the encoding of STATE is not given. A free value (DESIGN CHOICE: log 108). -/
opaque stateCode : Nat → Byte

/-- The board and the tier-1 switch of a package rank of a job, from the job's fabric schedule (R327). A free value (DESIGN CHOICE: log 11). -/
opaque boardOf : BitVec 32 → Nat → Nat

/-- See `boardOf`. (DESIGN CHOICE: log 11.) -/
opaque islandOf : BitVec 32 → Nat → Nat

/-- The deadline tick of a round of a group of a job, from the job's fabric schedule (R323). A free value (DESIGN CHOICE: log 11). -/
opaque roundDeadline : BitVec 32 → BitVec 16 → Nat → Nat

/-- The SHA-384 measurement of firmware image 1 to 8, as index and power-up count give it (R387). A free value (DESIGN CHOICE: log 12). -/
opaque measurement : Nat → Nat → BitVec 384

/-- The SHA-384 measurement of the locked action-table entries of the four dies and ATBASE, index 8 (R387). A free value (DESIGN CHOICE: log 12). -/
opaque lockedMeasure : List (List (BitVec 16)) → W64 → BitVec 384

/-- The body of an SPDM answer: request code and state counter (R388). A free value (DESIGN CHOICE: log 12). -/
opaque spdmBody : Byte → Nat → List Byte

/-- The energy of a die over a superstep, in microjoules: die, first tick, last tick (R376). A free value (DESIGN CHOICE: log 12). -/
opaque energy : Nat → Nat → Nat → BitVec 32

/-- What another package's memory or atomic home answers: rank, address, and a counter (R292, R318). A free value (DESIGN CHOICE: log 13). -/
opaque peerData : Nat → Nat → Nat → BitVec 512

/-- The uncorrectable word that another package's answer tells of, as its place among the words asked for: rank, address, and a counter (R297, R319). A free value (DESIGN CHOICE: log 13). -/
opaque peerError : Nat → Nat → Nat → Option Nat

/-- A byte of a saved context that R374 gives no layout, by its place from 0x4C_0000. A free value (DESIGN CHOICE: log 125). -/
opaque contextByte : Nat → Nat → BitVec 8

/-- The order in which an evicted line's sectors, or the sectors of a copy, take their turn (R274, R291). A free value (DESIGN CHOICE: log 9). -/
opaque anyOrder : Nat → Nat → Nat

/-- The channel, pseudo-channel and bank that hold a line of the cached window, packed in that order (R260, R273). A free value (DESIGN CHOICE: log 9). -/
opaque lineHome : Nat → Nat

/-- TCAUSE.INFO of the n-th trap whose rule gives no INFO. A free value (DESIGN CHOICE: log 7). -/
opaque trapInfo : Nat → BitVec 8

/-- What the SNDB field of a TADDR says of a receiving port of a node and of its latch, in whose form no field is laid out for them (R261). A free value (DESIGN CHOICE: log 110). -/
opaque latchName : Nat → BitVec 2 → BitVec 9

/-- TADDR of the n-th trap whose rule gives no address. A free value (DESIGN CHOICE: log 7). -/
opaque trapAddr : Nat → W64

/-- ACT, MASK and RCYC of the n-th warning record, where no rule states them (R364, R365). A free value (DESIGN CHOICE: log 8). -/
opaque warnFields : Nat → BitVec 3 × BitVec 8 × BitVec 32

/-- RCYC of the record of the n-th package cause that concerns no region (R352). A free value (DESIGN CHOICE: log 8). -/
opaque packageCycle : Nat → BitVec 32

end Sys2Proof.Config
end

