-- ==== Sys2Proof/Machine/Bits.lean ====
section
/-! DEFINITION. Bit fields, rotations, byte order and lanes, and the sparse map's read and write (R9, R186). -/

namespace Sys2Proof.Machine

/-- Bits `lo + n - 1` down to `lo` of a pattern, as an unsigned integer (R9). -/
def field (x lo n : Nat) : Nat := x / 2 ^ lo % 2 ^ n

/-- `signed(x, n)` of R9: the low `n` bits of `x` read in two's complement. -/
def sext (x n : Nat) : Int :=
  if field x (n - 1) 1 = 1 then (x % 2 ^ n : Nat) - (2 ^ n : Nat) else (x % 2 ^ n : Nat)

/-- `wrap_n(x)` of R9 as a natural number. -/
def wrapN (n : Nat) (x : Int) : Nat := (x % (2 ^ n : Nat)).toNat

/-- `rotl16` of R9. -/
def rotl16 (x : BitVec 16) (n : Nat) : BitVec 16 := x.rotateLeft n

/-- `rotl32` of R9. -/
def rotl32 (x : BitVec 32) (n : Nat) : BitVec 32 := x.rotateLeft n

/-- `epx16` of R150. -/
def epx16 (e : BitVec 8) : BitVec 16 := e ++ e

/-- `epx32` of R150. -/
def epx32 (e : BitVec 8) : BitVec 32 := e ++ e ++ e ++ e

/-- Little-endian bytes as one number. -/
def ofBytes : List Byte → Nat
  | [] => 0
  | b :: bs => b.toNat + 256 * ofBytes bs

/-- The low `n` bytes of a number, lowest first. -/
def toBytes : Nat → Nat → List Byte
  | 0, _ => []
  | n + 1, x => BitVec.ofNat 8 x :: toBytes n (x / 256)

/-- Lane `l` of a vector register: bytes 4l to 4l + 3, little-endian (R186). -/
def lane (v : VReg) (l : Nat) : BitVec 32 := v.extractLsb' (32 * l) 32

/-- Halfword `j` of a register (R219). -/
def half (v : VReg) (j : Nat) : BitVec 16 := v.extractLsb' (16 * j) 16

/-- Byte `j` of a register (R186). -/
def byteOf (v : VReg) (j : Nat) : Byte := v.extractLsb' (8 * j) 8

/-- The vector register whose 64 lanes are `f 0` to `f 63`. -/
def ofLanes (f : Nat → BitVec 32) : VReg :=
  BitVec.ofNat 2048 ((List.range 64).foldr (fun l acc => (f l).toNat + 2 ^ 32 * acc) 0)

/-- The vector register whose 128 halfwords are `f 0` to `f 127`. -/
def ofHalves (f : Nat → BitVec 16) : VReg :=
  BitVec.ofNat 2048 ((List.range 128).foldr (fun l acc => (f l).toNat + 2 ^ 16 * acc) 0)

/-- A 64-bit lane mask from a test of each lane. -/
def ofMask (f : Nat → Bool) : BitVec 64 :=
  BitVec.ofNat 64 ((List.range 64).foldr (fun l acc => (if f l then 1 else 0) + 2 * acc) 0)

/-- The lanes of `new` where `m` is set and of `old` elsewhere (R205). -/
def mergeLanes (m : BitVec 64) (new old : VReg) : VReg :=
  if m = BitVec.allOnes 64 then new else ofLanes fun l => if m.getLsbD l then lane new l else lane old l

/-- The lanes of a mask, ascending. -/
def lanesOf (m : BitVec 64) : List Nat := (List.range 64).filter fun l => m.getLsbD l

/-- Number of set bits. -/
def popc (w x : Nat) : Nat := ((List.range w).filter fun i => x.testBit i).length

/-- Number of leading zeros of a `w`-bit pattern. -/
def clz (w x : Nat) : Nat := if x % 2 ^ w = 0 then w else w - 1 - Nat.log2 (x % 2 ^ w)

namespace SMap

/-- The value at a key; `d` where nothing is listed. -/
def get {V : Type} (d : V) : SMap V → Nat → V
  | [], _ => d
  | (k, v) :: m, i => if i = k then v else if i < k then d else get d m i

/-- Put an entry, or take it out when it equals the default, keeping the canonical form. -/
def set {V : Type} [DecidableEq V] (d : V) : SMap V → Nat → V → SMap V
  | [], i, x => if x = d then [] else [(i, x)]
  | (k, v) :: m, i, x =>
    if i = k then (if x = d then m else (i, x) :: m)
    else if i < k then (if x = d then (k, v) :: m else (i, x) :: (k, v) :: m)
    else (k, v) :: set d m i x

/-- Every key is at least `lo`, keys rise strictly, and no entry equals the default. -/
def wfFrom {V : Type} [DecidableEq V] (d : V) : Nat → SMap V → Bool
  | _, [] => true
  | lo, (k, v) :: m => decide (lo ≤ k) && decide (v ≠ d) && wfFrom d (k + 1) m

/-- The canonical form: keys strictly rising, no entry equal to what an unlisted key reads as. -/
def wf {V : Type} [DecidableEq V] (d : V) (m : SMap V) : Bool := wfFrom d 0 m

/-- Change every listed value, keeping the canonical form. -/
def mapV {V : Type} [DecidableEq V] (d : V) (f : Nat → V → V) (m : SMap V) : SMap V :=
  m.filterMap fun p => if f p.1 p.2 = d then none else some (p.1, f p.1 p.2)

/-- Change the value at a key. -/
def upd {V : Type} [DecidableEq V] (d : V) (m : SMap V) (i : Nat) (f : V → V) : SMap V := set d m i (f (get d m i))

end SMap

/-- The canonical form of a byte memory: addresses strictly rising, no entry 0, which is what an unlisted address reads as. -/
def Memory.wf (m : List Host.Cell) : Bool := SMap.wf 0 m

/-- Read `n` bytes from an address of a byte memory whose unlisted bytes read 0. -/
def readBytes (m : List Host.Cell) (a n : Nat) : List Byte := (List.range n).map fun i => SMap.get 0 m (a + i)

/-- Read a little-endian number of `n` bytes. (DESIGN CHOICE: log 15.) -/
def readN (m : List Host.Cell) (a n : Nat) : Nat := ofBytes (readBytes m a n)

/-- Write bytes from an address upward. -/
def writeBytes (m : List Host.Cell) (a : Nat) : List Byte → List Host.Cell
  | [] => m
  | b :: bs => writeBytes (SMap.set 0 m a b) (a + 1) bs

/-- Write single bytes at given addresses, in order. -/
def writeCells (m : List Host.Cell) : List Host.Cell → List Host.Cell
  | [] => m
  | (a, b) :: cs => writeCells (SMap.set 0 m a b) cs

end Sys2Proof.Machine
end

