-- ==== Sys2Proof/Machine/Num.lean ====
section
/-! DEFINITION. The numbers of 02: exact dyadic arithmetic, rounding, F32, BF16, FL16, FL8, FC2, AC40 and the Spring draws (R35 to R58). -/

namespace Sys2Proof.Machine

/-- An exact dyadic real `m * 2 ^ e` (R9). -/
structure Dy where
  m : Int
  e : Int
  deriving DecidableEq, Repr

/-- Exact sum. -/
def Dy.add (a b : Dy) : Dy :=
  if a.e ≤ b.e then ⟨a.m + b.m * 2 ^ (b.e - a.e).toNat, a.e⟩
  else ⟨a.m * 2 ^ (a.e - b.e).toNat + b.m, b.e⟩

/-- Exact product. -/
def Dy.mul (a b : Dy) : Dy := ⟨a.m * b.m, a.e + b.e⟩

/-- Exact negation. -/
def Dy.neg (a : Dy) : Dy := ⟨-a.m, a.e⟩

/-- Three-way comparison of the exact values: the sign of `a - b`. -/
def Dy.cmp (a b : Dy) : Int := (a.add b.neg).m.sign

/-- The rounding modes of R52, SR with its 16-bit draw. -/
inductive Mode where
  | rne
  | rz
  | rdn
  | sr (r : Nat)
  deriving DecidableEq, Repr

/-- The rounding mode a field RM names, given the draw of SR (R52). -/
def Mode.ofRM (rm : BitVec 2) (r : Nat) : Mode :=
  match rm with
  | 0 => .rne
  | 1 => .rz
  | 2 => .rdn
  | _ => .sr r

/-- Should the truncated magnitude `n` with remainder `r` of divisor `d` go up, for a number of sign `neg`? (R52, R55) -/
def roundsUp (mode : Mode) (neg : Bool) (n r d : Nat) : Bool :=
  match mode with
  | .rne => decide (d < 2 * r) || (decide (2 * r = d) && n % 2 == 1)
  | .rz => false
  | .rdn => neg && decide (0 < r)
  | .sr w => decide (w * d < r * 65536)

/-- The magnitude `m * 2 ^ e` rounded to a multiple of `2 ^ q`: that multiple, and whether it is inexact. -/
def roundMag (mode : Mode) (neg : Bool) (m : Nat) (e q : Int) : Nat × Bool :=
  if q ≤ e then (m * 2 ^ (e - q).toNat, false)
  else
    let d := 2 ^ (q - e).toNat
    let n := m / d
    let r := m % d
    (if roundsUp mode neg n r d then n + 1 else n, decide (0 < r))

/-- A rounded magnitude in sign-less packed form: bits, overflow past the largest finite, inexact, tiny after rounding. -/
structure Packed where
  bits : Nat
  ovf : Bool
  inexact : Bool
  tiny : Bool
  deriving DecidableEq, Repr

/-- Round `m * 2 ^ e` (m > 0) to precision `p`, least quantum `2 ^ qmin`, with `cap` the first exponent code past the finite ones. -/
def packMag (p : Nat) (qmin : Int) (cap : Nat) (mode : Mode) (neg : Bool) (m : Nat) (e : Int) : Packed :=
  let top : Int := Nat.log2 m + e
  let q := max (top - (p - 1 : Nat)) qmin
  let r := roundMag mode neg m e q
  let bits := (q - qmin).toNat * 2 ^ (p - 1) + r.1
  let least := qmin + (p - 1 : Nat)
  let free := roundMag mode neg m e (top - (p - 1 : Nat))
  { bits := bits, ovf := decide (cap * 2 ^ (p - 1) ≤ bits), inexact := r.2,
    tiny := decide (top < least) && !(decide (top + 1 = least) && free.1 == 2 ^ p) }

/-- The sticky flags of VFLAGS (R164). -/
abbrev VFl := BitVec 7

def fNV : VFl := 1
def fDZ : VFl := 2
def fOF : VFl := 4
def fUF : VFl := 8
def fNX : VFl := 16
def fHI : VFl := 32
def fLO : VFl := 64

/-- What an IEEE pattern stands for. -/
inductive FV where
  | nan (signalling : Bool)
  | inf (neg : Bool)
  | fin (neg : Bool) (m : Nat) (e : Int)
  deriving DecidableEq, Repr

/-- A binary32 pattern (R36). -/
def unF32 (x : BitVec 32) : FV :=
  let s := x.getLsbD 31
  let ex := field x.toNat 23 8
  let fr := field x.toNat 0 23
  if ex = 255 then (if fr = 0 then .inf s else .nan (decide (fr < 2 ^ 22)))
  else if ex = 0 then .fin s fr (-149)
  else .fin s (fr + 2 ^ 23) ((ex : Int) - 150)

/-- A BF16 pattern, widened exactly (R37). -/
def unBF16 (x : BitVec 16) : FV := unF32 (x ++ (0 : BitVec 16))

/-- An IEEE target: precision 24 (binary32) or 8 (BF16), both with binary32's exponent range (R36, R212). -/
inductive FTarget where
  | f32
  | bf16
  deriving DecidableEq, Repr

def FTarget.p : FTarget → Nat
  | .f32 => 24
  | .bf16 => 8

/-- The pattern of a packed magnitude with its sign, in 32 bits (BF16 in its low 16). -/
def FTarget.code (t : FTarget) (neg : Bool) (bits : Nat) : BitVec 32 :=
  match t with
  | .f32 => BitVec.ofNat 32 ((if neg then 2 ^ 31 else 0) + bits)
  | .bf16 => BitVec.ofNat 32 ((if neg then 2 ^ 15 else 0) + bits)

/-- The canonical quiet NaN (R36, R37). -/
def FTarget.qnan (t : FTarget) : BitVec 32 :=
  match t with
  | .f32 => 0x7FC00000
  | .bf16 => 0x7FC0

/-- Infinity of a sign. -/
def FTarget.infinity (t : FTarget) (neg : Bool) : BitVec 32 := t.code neg (255 * 2 ^ (t.p - 1))

/-- A finite real of sign `neg` and magnitude `m * 2 ^ e` rounded once to an IEEE target, with its flags (R210, R55). (DEDUCED: log 127.) -/
def packIEEE (t : FTarget) (mode : Mode) (neg : Bool) (m : Nat) (e : Int) : BitVec 32 × VFl :=
  if m = 0 then (t.code neg 0, 0)
  else
    let lim := 255 * 2 ^ (t.p - 1)
    let qmin : Int := -125 - t.p
    let r0 := packMag t.p qmin 255 .rz neg m e
    let far := match mode with
      | .sr _ => r0.ovf || (r0.bits == lim - 1 && r0.inexact)
      | _ => false
    let mode' := if far then Mode.rne else mode
    let r := packMag t.p qmin 255 mode' neg m e
    if r.ovf then
      let v := match mode' with
        | .rz => t.code neg (lim - 1)
        | .rdn => if neg then t.code neg lim else t.code neg (lim - 1)
        | _ => t.code neg lim
      (v, fOF ||| fNX)
    else (t.code neg r.bits, (if far then fOF else 0) ||| (if r.inexact then fNX else 0) ||| (if r.inexact && r.tiny then fUF else 0))

/-- The exact signed value of a finite pattern. -/
def finDy (neg : Bool) (m : Nat) (e : Int) : Dy := ⟨if neg then -(m : Int) else m, e⟩

/-- The sum of two finite terms, rounded once, with the zero rules of R210. -/
def sumIEEE (t : FTarget) (mode : Mode) (n1 : Bool) (m1 : Nat) (e1 : Int) (n2 : Bool) (m2 : Nat) (e2 : Int) :
    BitVec 32 × VFl :=
  let d := (finDy n1 m1 e1).add (finDy n2 m2 e2)
  if d.m = 0 then
    if m1 = 0 && m2 = 0 && n1 == n2 then (t.code n1 0, 0)
    else (t.code (mode == .rdn) 0, 0)
  else packIEEE t mode (decide (d.m < 0)) d.m.natAbs d.e

/-- Is the value a signalling NaN? -/
def FV.isSNaN : FV → Bool
  | .nan b => b
  | _ => false

/-- Is the value a NaN? -/
def FV.isNaN : FV → Bool
  | .nan _ => true
  | _ => false

/-- The value with its sign inverted. -/
def FV.neg : FV → FV
  | .nan b => .nan b
  | .inf n => .inf !n
  | .fin n m e => .fin (!n) m e

/-- a + b (R210). -/
def addIEEE (t : FTarget) (mode : Mode) (a b : FV) : BitVec 32 × VFl :=
  if a.isNaN || b.isNaN then (t.qnan, if a.isSNaN || b.isSNaN then fNV else 0)
  else match a, b with
    | .inf x, .inf y => if x == y then (t.infinity x, 0) else (t.qnan, fNV)
    | .inf x, _ => (t.infinity x, 0)
    | _, .inf y => (t.infinity y, 0)
    | .fin n1 m1 e1, .fin n2 m2 e2 => sumIEEE t mode n1 m1 e1 n2 m2 e2
    | _, _ => (t.qnan, 0)

/-- a × b (R210). -/
def mulIEEE (t : FTarget) (mode : Mode) (a b : FV) : BitVec 32 × VFl :=
  if a.isNaN || b.isNaN then (t.qnan, if a.isSNaN || b.isSNaN then fNV else 0)
  else match a, b with
    | .inf x, .inf y => (t.infinity (x != y), 0)
    | .inf x, .fin n m _ => if m = 0 then (t.qnan, fNV) else (t.infinity (x != n), 0)
    | .fin n m _, .inf y => if m = 0 then (t.qnan, fNV) else (t.infinity (n != y), 0)
    | .fin n1 m1 e1, .fin n2 m2 e2 => packIEEE t mode (n1 != n2) (m1 * m2) (e1 + e2)
    | _, _ => (t.qnan, 0)

/-- a × b + c, fused (R210). -/
def fmaIEEE (t : FTarget) (mode : Mode) (a b c : FV) : BitVec 32 × VFl :=
  let bad := match a, b with
    | .inf _, .fin _ 0 _ => true
    | .fin _ 0 _, .inf _ => true
    | _, _ => false
  if bad then (t.qnan, fNV)
  else if a.isNaN || b.isNaN || c.isNaN then (t.qnan, if a.isSNaN || b.isSNaN || c.isSNaN then fNV else 0)
  else
    let sgn : FV → Bool := fun v => match v with
      | .inf n => n
      | .fin n _ _ => n
      | .nan _ => false
    let pinf := match a, b with
      | .inf _, _ => true
      | _, .inf _ => true
      | _, _ => false
    let pn := sgn a != sgn b
    match c with
    | .inf y => if pinf && pn != y then (t.qnan, fNV) else (t.infinity y, 0)
    | .fin n3 m3 e3 =>
      if pinf then (t.infinity pn, 0)
      else match a, b with
        | .fin _ m1 e1, .fin _ m2 e2 => sumIEEE t mode pn (m1 * m2) (e1 + e2) n3 m3 e3
        | _, _ => (t.qnan, 0)
    | .nan _ => (t.qnan, 0)

/-- An order key of a non-NaN value, with −0 below +0 (R211). -/
def FV.key (a b : FV) : Int :=
  let mag : FV → Dy := fun v => match v with
    | .inf n => finDy n 1 400
    | .fin n m e => finDy n m e
    | .nan _ => ⟨0, 0⟩
  let sgn : FV → Bool := fun v => match v with
    | .inf n => n
    | .fin n _ _ => n
    | .nan _ => false
  let c := (mag a).cmp (mag b)
  if c = 0 then (if sgn a == sgn b then 0 else if sgn a then -1 else 1) else c

/-- VFMIN and VFMAX (R211); `mx` chooses the greater. -/
def minmaxF32 (mx : Bool) (x y : BitVec 32) : BitVec 32 × VFl :=
  let a := unF32 x
  let b := unF32 y
  let fl := if a.isSNaN || b.isSNaN then fNV else 0
  if a.isNaN && b.isNaN then (0x7FC00000, fl)
  else if a.isNaN then (y, fl)
  else if b.isNaN then (x, fl)
  else if (a.key b < 0) != mx then (x, fl) else (y, fl)

/-- Numeric comparison, −0 equal to +0: `none` for an unordered pair. -/
def cmpF32 (x y : BitVec 32) : Option Int :=
  let a := unF32 x
  let b := unF32 y
  if a.isNaN || b.isNaN then none
  else match a, b with
    | .fin n1 m1 e1, .fin n2 m2 e2 => some ((finDy n1 m1 e1).cmp (finDy n2 m2 e2))
    | _, _ => some (a.key b)

/-- VFCMP's condition and flag (R211). -/
def condF32 (f : BitVec 3) (x y : BitVec 32) : Bool × VFl :=
  let c := cmpF32 x y
  let sn := (unF32 x).isSNaN || (unF32 y).isSNaN
  let quiet : VFl := if sn then fNV else 0
  match f with
  | 0 => (c == some 0, quiet)
  | 1 => (c != some 0, quiet)
  | 2 => (match c with | some d => decide (d < 0) | none => false, if c.isNone then fNV else 0)
  | 3 => (match c with | some d => decide (d ≤ 0) | none => false, if c.isNone then fNV else 0)
  | _ => (c.isNone, quiet)

/-- VFRND (R213). -/
def rndF32 (mode : Mode) (x : BitVec 32) : BitVec 32 × VFl :=
  match unF32 x with
  | .nan s => (0x7FC00000, if s then fNV else 0)
  | .inf _ => (x, 0)
  | .fin n m e =>
    if 0 ≤ e then (x, 0)
    else
      let r := roundMag mode n m e 0
      ((packIEEE .f32 .rne n r.1 0).1, if r.2 then fNX else 0)

/-- T[0] to T[63], as the printed table of R48 gives them. -/
def tRow0 : List Nat :=
  [32768, 32857, 32946, 33035, 33125, 33215, 33305, 33395, 33486, 33576, 33667, 33759, 33850, 33942, 34034, 34126,
   34219, 34312, 34405, 34498, 34591, 34685, 34779, 34874, 34968, 35063, 35158, 35253, 35349, 35445, 35541, 35637,
   35734, 35831, 35928, 36025, 36123, 36221, 36319, 36417, 36516, 36615, 36715, 36814, 36914, 37014, 37114, 37215,
   37316, 37417, 37518, 37620, 37722, 37824, 37927, 38030, 38133, 38236, 38340, 38444, 38548, 38653, 38757, 38863]

/-- T[64] to T[127]; T[102] is what the definition of R48 gives, its printed cell being one more. (DEDUCED: log 43.) -/
def tRow1 : List Nat :=
  [38968, 39074, 39180, 39286, 39392, 39499, 39606, 39714, 39821, 39929, 40037, 40146, 40255, 40364, 40473, 40583,
   40693, 40804, 40914, 41025, 41136, 41248, 41360, 41472, 41584, 41697, 41810, 41923, 42037, 42151, 42265, 42380,
   42495, 42610, 42726, 42841, 42958, 43074, 43191, 43308, 43425, 43543, 43661, 43780, 43898, 44017, 44137, 44256,
   44376, 44497, 44617, 44738, 44859, 44981, 45103, 45225, 45348, 45471, 45594, 45718, 45842, 45966, 46091, 46216]

/-- T[128] to T[191], as the printed table of R48 gives them. -/
def tRow2 : List Nat :=
  [46341, 46467, 46593, 46719, 46846, 46973, 47100, 47228, 47356, 47484, 47613, 47742, 47871, 48001, 48131, 48262,
   48393, 48524, 48655, 48787, 48920, 49052, 49185, 49319, 49452, 49586, 49721, 49856, 49991, 50126, 50262, 50399,
   50535, 50672, 50810, 50947, 51085, 51224, 51363, 51502, 51642, 51782, 51922, 52063, 52204, 52346, 52488, 52630,
   52773, 52916, 53059, 53203, 53347, 53492, 53637, 53782, 53928, 54074, 54221, 54368, 54515, 54663, 54811, 54960]

/-- T[192] to T[255], as the printed table of R48 gives them. -/
def tRow3 : List Nat :=
  [55109, 55258, 55408, 55558, 55709, 55860, 56012, 56163, 56316, 56468, 56622, 56775, 56929, 57083, 57238, 57393,
   57549, 57705, 57861, 58018, 58176, 58333, 58491, 58650, 58809, 58968, 59128, 59289, 59449, 59611, 59772, 59934,
   60097, 60260, 60423, 60587, 60751, 60916, 61081, 61247, 61413, 61579, 61746, 61914, 62081, 62250, 62419, 62588,
   62757, 62928, 63098, 63269, 63441, 63613, 63785, 63958, 64132, 64306, 64480, 64655, 64830, 65006, 65182, 65359]

/-- The conversion table of R48, with T[256] = 65536. -/
def tList : List Nat := tRow0 ++ (tRow1 ++ (tRow2 ++ tRow3))

/-- `t_table(f)` of R9 and R48. (DEDUCED: log 43.) -/
def tTable (f : Nat) : Nat := tList.getD f 65536

/-- The largest `f` in 0..255 with `t_table(f) ≤ m`, for `m ≥ 32768` (R53). -/
def tFloor (m : Nat) : Nat := (tList.filter fun t => decide (t ≤ m)).length - 1

/-- FL16's zero (R38). -/
def flZero : BitVec 16 := 0x4000

/-- FL16's NaR (R38). -/
def flNaR : BitVec 16 := 0xC000

/-- signed(x[14:0], 15) of an FL16 value. -/
def flL (x : BitVec 16) : Int := sext x.toNat 15

/-- The saturating assembly of a sign and an L (R53, R214). (DEDUCED: log 124.) -/
def flPack (s : Bool) (l : Int) : BitVec 16 × VFl :=
  if 16383 < l then (BitVec.ofNat 16 ((if s then 0x8000 else 0) + 0x3FFF), fHI)
  else if l < -16383 then (flZero, fLO)
  else (BitVec.ofNat 16 ((if s then 0x8000 else 0) + wrapN 15 l), 0)

/-- scale16 of R224. -/
def scale16 (x : BitVec 16) (c : Int) : BitVec 16 × VFl :=
  if x = flZero then (flZero, 0) else if x = flNaR then (flNaR, 0) else flPack (x.getLsbD 15) (flL x + c * 256)

/-- widen8 of R224, and widen_fl8 of R41 with c the signed block scale. -/
def widen8 (x : BitVec 8) (c : Int) : BitVec 16 × VFl :=
  if x = 0x40 then (flZero, 0) else if x = 0xC0 then (flNaR, 0)
  else flPack (x.getLsbD 7) (sext x.toNat 7 * 32 + c * 256)

/-- The linear value of an FL16 that is neither zero nor NaR (R39). -/
def flValue (x : BitVec 16) : Dy :=
  let e := Int.fdiv (flL x) 256
  let f := (flL x - 256 * e).toNat
  ⟨if x.getLsbD 15 then -(tTable f : Int) else tTable f, e - 15⟩

/-- A linear source of a conversion. -/
inductive Lin where
  | nan
  | inf (neg : Bool)
  | zero (neg : Bool)
  | fin (neg : Bool) (m : Nat) (e : Int)
  deriving DecidableEq, Repr

/-- An IEEE value as a conversion source. -/
def FV.lin : FV → Lin
  | .nan _ => .nan
  | .inf n => .inf n
  | .fin n m e => if m = 0 then .zero n else .fin n m e

/-- A signed integer as a conversion source. -/
def linInt (i : Int) : Lin := if i = 0 then .zero false else .fin (decide (i < 0)) i.natAbs 0

/-- An exact dyadic as a conversion source. -/
def Dy.lin (d : Dy) : Lin := if d.m = 0 then .zero false else .fin (decide (d.m < 0)) d.m.natAbs d.e

/-- An FL16 value as a conversion source (R39). -/
def flLin (x : BitVec 16) : Lin := if x = flZero then .zero false else if x = flNaR then .nan else (flValue x).lin

/-- The unlimited exponent and table index that R53 chooses, over a fraction table of `n` steps of `T[stride × i]`. -/
def logSteps (stride n : Nat) (mode : Mode) (m : Nat) (e : Int) : Int × Nat :=
  let top : Int := Nat.log2 m + e
  let r := (roundMag .rne false m e (top - 15)).1
  let mm := if r = 65536 then 32768 else r
  let ee := if r = 65536 then top + 1 else top
  let f := tFloor mm / stride
  let step := tTable (stride * (f + 1)) - tTable (stride * f)
  let lo := mm - tTable (stride * f)
  let hi := tTable (stride * (f + 1)) - mm
  let up := match mode with
    | .rne => decide (hi < lo) || (decide (lo = hi) && f % 2 == 1)
    | .sr w => decide (w * step < lo * 65536)
    | _ => false
  let f' := if up then f + 1 else f
  if f' = n then (ee + 1, 0) else (ee, f')

/-- lin_to_fl16 with the special inputs of R53. (DEDUCED: log 124.) -/
def toFL16 (mode : Mode) (x : Lin) : BitVec 16 × VFl :=
  match x with
  | .zero _ => (flZero, 0)
  | .nan => (flNaR, 0)
  | .inf _ => (flNaR, fHI)
  | .fin s m e =>
    let r := logSteps 1 256 mode m e
    flPack s (256 * r.1 + r.2)

/-- Conversion to FL8 with block scale c (R54). -/
def toFL8 (mode : Mode) (c : Int) (x : Lin) : BitVec 8 × VFl :=
  match x with
  | .zero _ => (0x40, 0)
  | .nan => (0xC0, 0)
  | .inf _ => (0xC0, fHI)
  | .fin s m e =>
    let r := logSteps 32 8 mode m (e - c)
    let l := 8 * r.1 + r.2
    if 63 < l then (BitVec.ofNat 8 ((if s then 0x80 else 0) + 0x3F), fHI)
    else if l < -63 then (0x40, fLO)
    else (BitVec.ofNat 8 ((if s then 0x80 else 0) + wrapN 7 l), 0)

/-- Conversion to F32 or BF16 (R55). -/
def toIEEE (t : FTarget) (mode : Mode) (x : Lin) : BitVec 32 × VFl :=
  match x with
  | .nan => (t.qnan, 0)
  | .inf n => (t.infinity n, 0)
  | .zero n => (t.code n 0, 0)
  | .fin n m e => packIEEE t mode n m e

/-- Conversion to I32 (R55). -/
def toI32 (mode : Mode) (x : Lin) : BitVec 32 × VFl :=
  match x with
  | .nan => (0, fNV)
  | .inf n => (if n then 0x80000000 else 0x7FFFFFFF, fNV)
  | .zero _ => (0, 0)
  | .fin n m e =>
    let r := roundMag mode n m e 0
    let v : Int := if n then -(r.1 : Int) else r.1
    if 2147483647 < v then (0x7FFFFFFF, fNV)
    else if v < -2147483648 then (0x80000000, fNV)
    else (BitVec.ofInt 32 v, if r.2 then fNX else 0)

/-- AC40's NaR (R46). -/
def acNaR : BitVec 40 := 0x7FFFFFFFFF

/-- Is an AC40 pattern NaR: exponent 511 (R46)? -/
def acIsNaR (x : BitVec 40) : Bool := field x.toNat 30 9 == 511

/-- The exact value of an AC40 that is not NaR (R46). -/
def acValue (x : BitVec 40) : Dy :=
  let ex := field x.toNat 30 9
  let fr := field x.toNat 0 30
  let m : Nat := if ex = 0 then fr else fr + 2 ^ 30
  ⟨if x.getLsbD 39 then -(m : Int) else m, if ex = 0 then -284 else (ex : Int) - 285⟩

/-- rne30 of R47: the value, and whether it saturated. -/
def rne30 (d : Dy) : BitVec 40 × Bool :=
  if d.m = 0 then (0, false)
  else
    let neg := decide (d.m < 0)
    let r := packMag 31 (-284) 511 .rne neg d.m.natAbs d.e
    let sg := if neg then 2 ^ 39 else 0
    if r.ovf then (BitVec.ofNat 40 (sg + 511 * 2 ^ 30 - 1), true) else (BitVec.ofNat 40 (sg + r.bits), false)

/-- The sticky flags of MFLAGS (R164). -/
abbrev MFl := BitVec 4

def mHI : MFl := 1
def mLO : MFl := 2
def mOVF : MFl := 4
def mNAR : MFl := 8

/-- LSAT flags of a widening or conversion, moved to MFLAGS (R55). -/
def mflOfV (f : VFl) : MFl := (if f.getLsbD 5 then mHI else 0) ||| (if f.getLsbD 6 then mLO else 0)

/-- One accumulation with its flags (R50, R51): NaR when an input is NaR. -/
def acAdd (a b : BitVec 40) : BitVec 40 × MFl :=
  if acIsNaR a || acIsNaR b then (acNaR, mNAR)
  else
    let r := rne30 ((acValue a).add (acValue b))
    (r.1, if r.2 then mOVF else 0)

/-- product(a, b) of R49, exact in AC40. -/
def acProduct (a b : BitVec 16) : BitVec 40 :=
  if a = flNaR || b = flNaR then acNaR
  else if a = flZero || b = flZero then 0
  else
    let p := flL a + flL b
    let e := Int.fdiv p 256
    let f := (p - 256 * e).toNat
    let t : Int := tTable f
    (rne30 ⟨if a.getLsbD 15 != b.getLsbD 15 then -t else t, e - 15⟩).1

/-- An AC40 value as a conversion source (R53). -/
def acLin (x : BitVec 40) : Lin := if acIsNaR x then .nan else (acValue x).lin

/-- ac40 of R241. -/
def ac40 (x : FV) : BitVec 40 × MFl :=
  match x with
  | .nan _ => (acNaR, mNAR)
  | .inf n => (BitVec.ofNat 40 ((if n then 2 ^ 39 else 0) + 511 * 2 ^ 30 - 1), mOVF)
  | .fin n m e => ((rne30 (finDy n m e)).1, 0)

/-- The SHAPE table of R44, one row per codeword low nibble. -/
def shapeRow (i : Nat) : List Nat :=
  match i with
  | 0 => [0, 0, 0, 0, 0, 0, 0, 0] | 1 => [2, 2, 0, 0, 0, 0, 0, 0] | 2 => [0, 0, 2, 2, 0, 0, 0, 0]
  | 3 => [0, 0, 0, 0, 2, 2, 0, 0] | 4 => [0, 0, 0, 0, 0, 0, 2, 2] | 5 => [2, 0, 2, 0, 2, 0, 2, 0]
  | 6 => [0, 2, 0, 2, 0, 2, 0, 2] | 7 => [1, 1, 1, 1, 1, 1, 1, 1] | 8 => [1, 1, 1, 1, 0, 0, 0, 0]
  | 9 => [0, 0, 0, 0, 1, 1, 1, 1] | 10 => [1, 1, 0, 0, 1, 1, 0, 0] | 11 => [0, 0, 1, 1, 0, 0, 1, 1]
  | 12 => [1, 0, 1, 0, 1, 0, 1, 0] | 13 => [0, 1, 0, 1, 0, 1, 0, 1] | 14 => [2, 2, 2, 2, 2, 2, 2, 2]
  | _ => [2, 1, 1, 0, 0, 1, 1, 2]

/-- D8, the reset contents of MAG (R44). -/
def magD8 (m j : Nat) : BitVec 7 :=
  BitVec.ofNat 7 (wrapN 16 (4 * (m / 16 : Nat) - 40 + 4 * ((shapeRow (m % 16)).getD j 0 : Nat)))

/-- The round constants of R56. -/
def springRC (i : Nat) : BitVec 32 := [0x6A5D39E1, 0x2F8BC417, 0xD1E40B6C, 0x8437F29A].getD i 0

/-- One round of the Spring generator (R56). -/
def springRound (k0 k1 : BitVec 32) (ab : BitVec 32 × BitVec 32) (i : Nat) : BitVec 32 × BitVec 32 :=
  let a := ab.1 + rotl32 ab.2 5 + springRC i + (if i % 2 = 0 then k0 else k1)
  (a, rotl32 ab.2 11 ^^^ a)

/-- spring(seed, c) of R56. -/
def spring (seed c : W64) : BitVec 32 :=
  let ab := (List.range 4).foldl (springRound (seed.extractLsb' 0 32) (seed.extractLsb' 32 32))
    (c.extractLsb' 0 32, c.extractLsb' 32 32)
  ab.1 + ab.2

/-- mix(w, j) of R57. -/
def mix (w : BitVec 32) (j : Nat) : BitVec 32 :=
  let z0 := w + BitVec.ofNat 32 (j * 0x01010101)
  let z1 := z0 ^^^ rotl32 z0 13
  let z2 := z1 + rotl32 z1 7
  z2 ^^^ rotl32 z2 16

/-- The 16-bit draw of element `l` in slot `slot` from word `w` (R57). -/
def draw (w : BitVec 32) (slot l : Nat) : Nat := (mix w (8 * slot + l)).toNat % 65536

/-- VEXP2 (R217). (DEDUCED: log 128.) -/
def exp2F32 (mode : Mode) (x : BitVec 32) : BitVec 32 × VFl :=
  match unF32 x with
  | .nan s => (0x7FC00000, if s then fNV else 0)
  | .inf n => if n then (0, 0) else (0x7F800000, 0)
  | .fin n m e =>
    let r := roundMag mode n m (e + 8) 0
    let l0 : Int := if n then -(r.1 : Int) else r.1
    -- past these bounds the result overflows or rounds to the least value whatever l is
    let l := max (min l0 131072) (-131072)
    let ex := Int.fdiv l 256
    let f := (l - 256 * ex).toNat
    let v := packIEEE .f32 mode false (tTable f) (ex - 15)
    (v.1, v.2 ||| (if r.2 then fNX else 0))

/-- VLOG2 (R218). -/
def log2F32 (mode : Mode) (x : BitVec 32) : BitVec 32 × VFl :=
  match unF32 x with
  | .nan s => (0x7FC00000, if s then fNV else 0)
  | .inf n => if n then (0x7FC00000, fNV) else (0x7F800000, 0)
  | .fin n m e =>
    if m = 0 then (0xFF800000, fDZ)
    else if n then (0x7FC00000, fNV)
    else
      let md := match mode with
        | .rdn => Mode.rz
        | _ => mode
      let r := logSteps 1 256 md m e
      let l := 256 * r.1 + r.2
      let v := packIEEE .f32 .rne (decide (l < 0)) l.natAbs (-8)
      let exact := Dy.cmp ⟨m, e⟩ ⟨tTable r.2, r.1 - 15⟩ == 0
      (v.1, if exact then 0 else fNX)

end Sys2Proof.Machine
end

