-- ==== Sys2Proof/Machine/Types.lean ====
section
/-! DEFINITION. The parts a tile's state is made of: register contexts, results in flight, the commit shadow, streams, the matrix engine (R2, R101 to R186, R222). -/

namespace Sys2Proof.Machine

/-- Which context a bundle runs in: the primary stream, the secondary stream, or handler mode (R117). -/
inductive Ctx where
  | primary
  | secondary
  | handler
  deriving DecidableEq, Repr

/-- The register context of one stream (R103, R147, R164). -/
structure Regs where
  s : RegFile 6 64
  st : RegFile 6 16
  v : RegFile 6 2048
  vt : RegFile 6 16
  p : BitVec 16
  q : RegFile 3 64
  g : RegFile 3 64
  lc : W64
  ec : BitVec 8
  rrb : BitVec 5
  epoch : BitVec 8
  vflags : BitVec 7
  deriving DecidableEq, Repr

/-- The register values at region time 0 of a task (R78). -/
def Regs.reset : Regs :=
  { s := Vector.replicate _ 0, st := Vector.replicate _ 0, v := Vector.replicate _ 0, vt := Vector.replicate _ 0,
    p := 0, q := Vector.replicate _ 0, g := Vector.replicate _ 0, lc := 0, ec := 0, rrb := 0, epoch := 0, vflags := 0 }

/-- A physical destination register, resolved at issue (R136). -/
inductive Dest where
  | s (r : BitVec 6)
  | v (r : BitVec 6)
  | p (r : BitVec 4)
  | q (r : BitVec 3)
  deriving DecidableEq, Repr

/-- A result in flight: it lands on region cycle `land`, in order of issue and slot (R134, R135, R205). -/
structure Result where
  land : Nat
  issue : Nat
  slot : Nat
  dest : Dest
  value : VReg
  lanes : BitVec 64
  tag : Tag
  vf : BitVec 7
  mf : BitVec 4
  deriving DecidableEq, Repr

/-- What is no register result and waits for its region cycle (R134, R167, R300, R358); `aport` is a use of a bank port by a secondary or handler-mode access, which waits while the port is taken, with the lanes a load takes from the line, each with its address (R192). -/
inductive DelayedOp where
  | sysreg (idx : BitVec 6) (value : W64)
  | sample (idx : BitVec 6) (r : Result)
  | farQuery (sel : BitVec 2) (sec : Bool) (r : Result)
  | accRow (bank row : Nat) (cells : List (Nat × BitVec 40)) (mf : BitVec 4)
  | port (code ln addr : Nat)
  | aport (wr : Bool) (ln issue : Nat) (fill : List (Nat × Nat))
  deriving DecidableEq, Repr

/-- A delayed write: the region cycle it acts on, the slot that made it, the write (R134). (DEDUCED: log 27.) -/
structure Delayed where
  at_ : Nat
  slot : Nat
  op : DelayedOp
  deriving DecidableEq, Repr

/-- Is it a port use that waits its turn? -/
def Delayed.isPort (d : Delayed) : Bool :=
  match d.op with
  | .aport .. => true
  | _ => false

/-- A store of the block store buffer: its issue cycle, its bytes, the touched lines in tag order, what enters their tags or, with `whole`, replaces them, and the cycle loads see it from (R134, R152, R168, R201, R269). -/
structure Store where
  issue : Nat
  seen : Nat
  slot : Nat
  bytes : List Host.Cell
  lines : List Nat
  tagIn : Tag
  whole : Bool
  deriving DecidableEq, Repr

/-- One loop level (R171). END is the word address of the body's last bundle. -/
structure Level where
  start : Nat
  last : Nat
  count : W64
  index : W64
  fl : BitVec 3
  deriving DecidableEq, Repr

/-- A raised cause: its code (R347), the slots that raised it, INFO and ADDR; `ext` when an engine, transfer or delivery raised it, `area` when what it met lies in the handler area (R189). -/
structure Cause where
  code : BitVec 6
  mask : BitVec 8
  info : BitVec 8
  addr : W64
  ext : Bool
  area : Bool
  deriving DecidableEq, Repr

/-- A reference to a basin: a local scratchpad address or a remote one (R289). -/
abbrev BasinRef := W64

/-- The updates of R305, and OVF (R310). -/
inductive BasinUpd where
  | sector (t : Tag)
  | arrive (n : Nat)
  | expect (n : Nat)
  | init (n : Nat)
  | rearm (n : Nat)
  | err
  | ovf
  deriving DecidableEq, Repr

/-- A matrix command of the queue, with the sources it read at issue and its gate register, with GH (R139, R140, R226). -/
structure MCmd where
  op : Nat
  start : Nat
  pc : Nat
  gate : Option (BitVec 3 × Bool)
  base : Nat
  row0 : Nat
  stride : Int
  scales : VReg
  rows : Nat
  wf : Nat
  acc : Nat
  cb : Int
  deriving DecidableEq, Repr

/-- A transmission a SEND, LSEND or DSEND starts (R266, R267). -/
structure SendOp where
  die : Bool
  dest : Nat
  sid : BitVec 8
  data : VReg
  tag : Tag
  deriving DecidableEq, Repr

/-- What a committing bundle does beside its results, in slot order (R343). -/
inductive Effect where
  | result (r : Result)
  | delay (d : Delayed)
  | store (st : Store)
  | jump (target : Nat)
  | push (z : Nat)
  | pop
  | loopStep
  | loopOpen (l : Level) (count : W64)
  | loopSkip (count : W64) (fl : BitVec 3)
  | brkl (n : Nat)
  | setlc (lc : W64) (ec : BitVec 8)
  | phase (ph : BitVec 6)
  | epoch (set : Bool) (v : BitVec 8)
  | gate (g : BitVec 3) (v : W64)
  | rdv (nominal : W64)
  | fence (sc : BitVec 4)
  | snap (tag : BitVec 8)
  | trapi (code : BitVec 8)
  | rett
  | waiti
  | endt
  | nopn (n : Nat)
  | inten (set : Bool) (mask : BitVec 8)
  | secs (go : Bool)
  | mcmd (c : MCmd) (slot : Nat)
  | send (o : SendOp) (slot : Nat)
  | fnest (lv : Nat) (cnt : Nat) (ss ds : Int)
  | fbase (src dst : W64) (size : Nat) (ssp dsp : Bool)
  | fidx (idx : VReg)
  | fgo (start : Nat) (pc : Nat) (gate : Option (BitVec 3 × Bool)) (rel vis : BasinRef) (sc : BitVec 4) (ls : BitVec 8) (slot : Nat)
  | fsig (b : BasinRef) (count : Nat) (sc : BitVec 4) (slot : Nat)
  | fred (len grp count rank chunk : Nat) (basin : BasinRef) (op : BitVec 4) (sc : BitVec 4) (slot : Nat)
  | fcan (slot : Nat) (all : Bool)
  | ldf (r : Result) (e : W64)
  | atomic (r : Result) (cas : Bool) (op : BitVec 4) (sc : BitVec 4) (wide : Bool) (e b c : W64)
  | range (kind : Nat) (e len : W64)
  | binit (a : Nat) (n : BitVec 24)
  | brearm (a : Nat) (n : BitVec 24)
  | barrive (b : BasinRef) (sc : BitVec 4) (n : BitVec 24)
  | bexpect (a : Nat) (n : W64) (slot : Nat)
  | bread (a : Nat) (r : Result)
  deriving DecidableEq, Repr

/-- A bundle in its shadow, between its issue and its commit point (R343, R344). `fold` is its block's control-flow fold before it (R127). -/
structure Issued where
  pc : Nat
  next : Nat
  cycle : Nat
  slots : BitVec 8
  pp : Bool
  pops : Bool
  sig : Bool
  effects : List Effect
  causes : List Cause
  entries : List Tag
  marks : Bool
  fold : BitVec 32
  deriving DecidableEq, Repr

/-- The state a block re-run goes back to (R154); `ops` are the far operations of earlier blocks that had no answer yet. -/
structure Checkpoint where
  pc : Nat
  cycle : Nat
  regs : Regs
  loops : List Level
  rstack : List Nat
  inflight : List Result
  delayed : List Delayed
  spring : Nat
  ops : List Nat
  deriving DecidableEq, Repr

/-- A re-run under way: rewind ticks left, then the local region cycle (R155). -/
structure Rerun where
  rewind : Nat
  cyc : Nat
  deriving DecidableEq, Repr

/-- A BARRIVE that has committed and not yet decremented (R312): its basin, its count, the accesses it comes after, and whether its block's lines have committed. -/
structure Barr where
  ref : BasinRef
  count : BitVec 24
  waits : List Nat
  free : Bool
  deriving DecidableEq, Repr

/-- One instruction stream of a tile: its sequencer, its register context and its block (R97, R126 to R157, R170, R171). -/
structure Stream where
  regs : Regs
  pc : Nat
  loops : List Level
  rstack : List Nat
  inflight : List Result
  delayed : List Delayed
  issued : Option Issued
  nextIssue : Nat
  jump : Option (Nat × Nat)
  foldH : BitVec 32
  foldL : BitVec 32
  fresh : Bool
  nrm : Bool
  ck : Option Checkpoint
  sbuf : List Store
  barr : List Barr
  rerun : Option Rerun
  fence : List Nat
  endt : Bool
  deriving DecidableEq, Repr

/-- A stream at its entry, with its context reset (R78). (DESIGN CHOICE: log 16.) -/
def Stream.reset : Stream :=
  { regs := Regs.reset, pc := 0, loops := [], rstack := [], inflight := [], delayed := [], issued := none, nextIssue := 0,
    jump := none, foldH := 0, foldL := 0, fresh := true, nrm := false, ck := none, sbuf := [],
    barr := [], rerun := none, fence := [], endt := false }

/-- A weight plane: rows of FL16 entries, 0x4000 where unlisted, and its mode (R222). -/
structure Plane where
  rows : SMap (SMap (BitVec 16))
  pair : Bool
  deriving DecidableEq, Repr

/-- A load the LOADER runs: MLDW, or MCBT when `cb`, with the number of rows it has loaded (R235, R238). -/
structure LoadJob where
  cb : Bool
  row : Nat
  base : Nat
  stride : Int
  scales : VReg
  rows : Nat
  wf : Nat
  plane : Bool
  deriving DecidableEq, Repr

/-- A pass the ARRAY admits (R237). -/
structure PassJob where
  start : Nat
  base : Nat
  stride : Int
  rows : Nat
  wf : Nat
  pair : Bool
  acc : Nat
  row0 : Nat
  zero : Bool
  cb : Int
  deriving DecidableEq, Repr

/-- A pass row in the pipeline: widened activations, the plane it met, and its accumulator row (R228). -/
structure PassRow where
  due : Nat
  acc : Nat
  row : Nat
  zero : Bool
  pair : Bool
  x : List (BitVec 16)
  plane : SMap (SMap (BitVec 16))
  mf : MFl
  deriving DecidableEq, Repr

/-- The matrix engine (R222). -/
structure Matrix where
  queue : List MCmd
  planes : Plane × Plane
  act : Bool
  mag : SMap (BitVec 7)
  rsc : SMap (BitVec 8)
  acc : SMap (SMap (BitVec 40))
  aecc : SMap (BitVec 2)
  loader : Option LoadJob
  array : Option PassJob
  rows : List PassRow
  deriving DecidableEq, Repr

/-- The engine at die reset (R223). (DESIGN CHOICE: log 16.) -/
def Matrix.reset : Matrix :=
  { queue := [], planes := (⟨[], false⟩, ⟨[], false⟩), act := false, mag := [], rsc := [], acc := [], aecc := [],
    loader := none, array := none, rows := [] }

/-- One use of a bank port on the tick: bank, write port, line, requester code, the slots of the bundle, byte address (R190, R191, R196). -/
structure PortUse where
  acc : Bool
  bank : Nat
  wr : Bool
  ln : Nat
  code : Nat
  mask : BitVec 8
  addr : Nat
  deriving DecidableEq, Repr

/-- The handler context of a tile in handler mode (R354, R355): the tick of entry, the first tick a bundle may issue, cycle C, the tick of the next issue, its pc, results of its own by tick, WAITI. -/
structure Handler where
  since : Nat
  first : Nat
  cyc : Nat
  pc : Nat
  next : Nat
  flight : List Result
  delayed : List Delayed
  rstack : List Nat
  waiting : Bool
  issued : Option Issued
  started : Bool
  leaving : Bool
  deriving DecidableEq, Repr

end Sys2Proof.Machine
end

