-- ==== Sys2Proof/Machine/State.lean ====
section
/-! DEFINITION. The state of one DY480 package, as plain data, and the state right after reset. -/

namespace Sys2Proof.Machine

/-- Why the machine stops: for no reason. The spec gives every step of the package an effect, an error being a trap or a record that the machine goes on from (17), so no constructor is raised by anything and none is needed: safe. (DESIGN CHOICE: log 90.) -/
inductive Fault where
  deriving DecidableEq, Repr

/-- Why a step has no meaning. (DESIGN CHOICE: log 90.) -/
inductive Refusal where
  /-- The step is not modelled yet: safe, the model stops where the part goes on. -/
  | notModelled (mnemonic : String)
  /-- Raised by a word of the bundle register that decodes to nothing: the issue of a bundle and the sequencers never load one (R116, R249), so only a state no run reaches holds it: safe. -/
  | illegalWord
  deriving DecidableEq, Repr

/-- A copy nest's registers (R286). -/
structure Nest where
  src : W64
  dst : W64
  size : Nat
  ssp : Bool
  dsp : Bool
  levels : List (Nat × Int × Int)
  idxOn : Bool
  idx : VReg
  deriving DecidableEq, Repr

/-- A nest that nothing has described: the spec gives no reset value (DESIGN CHOICE: log 16). -/
def Nest.reset : Nest :=
  { src := 0, dst := 0, size := 0, ssp := false, dsp := false, levels := List.replicate 6 (1, 0, 0), idxOn := false, idx := 0 }

/-- What a descriptor record serves (R282). -/
inductive FarKind where
  | fgo
  | fsig (count : Nat)
  | fred (len grp count rank chunk : Nat) (op : BitVec 4)
  deriving DecidableEq, Repr

/-- A command of the FAR issue port (R288). -/
structure FgoCmd where
  start : Nat
  pc : Nat
  gate : Option (BitVec 3 × Bool)
  sec : Bool
  hm : Bool
  phase : BitVec 6
  nest : Nest
  rel : BasinRef
  vis : BasinRef
  sc : BitVec 4
  ls : BitVec 8
  mask : BitVec 8
  deriving DecidableEq, Repr

/-- The context a command of the FAR issue port came from. -/
def FgoCmd.ctx (c : FgoCmd) : Ctx := if c.sec then .secondary else .primary

/-- A descriptor record (R282): its command, how many copies are still to be expanded, and what its FAR sets still count for (R292). -/
structure FarRec where
  id : Nat
  kind : FarKind
  cmd : FgoCmd
  next : Nat
  total : Nat
  first : Option Nat
  relLeft : Nat
  visLeft : Nat
  after : List Nat
  deriving DecidableEq, Repr

/-- Where a copy stands (R284, R295, R296, R301). -/
inductive CopyState where
  | queued
  | parked (va : Nat)
  | issued
  deriving DecidableEq, Repr

/-- A copy slot in use (R282). `pas` holds for each sector the physical addresses its two parts start at, the second being what lies past a 64-byte boundary of memory, `parts` which parts have come or gone, `errs` the uncorrectable words met, by sector, and `via` the pages of each translation it issued through, first and end in 64 KiB units (R90, R287, R291, R297). -/
structure Copy where
  slot : Nat
  rec_ : Nat
  cls : BitVec 2
  index : Nat
  e : W64
  spad : Nat
  toMem : Bool
  size : Nat
  st : CopyState
  pas : List (Nat × Nat)
  data : SMap (BitVec 512)
  parts : SMap Nat
  errs : List (Nat × Nat)
  relDone : SMap Bool
  visDone : SMap Bool
  last : Nat
  via : List (Nat × Nat)
  deriving DecidableEq, Repr

/-- A translation a micro-TLB or an L2 slice holds (R87, R294): address space, virtual page in 64 KiB units, size, leaf. -/
structure TlbEntry where
  asid : BitVec 16
  page : Nat
  big : Bool
  leaf : W64
  deriving DecidableEq, Repr

/-- The far copy engine of a tile (R282): its copies in queue order, the slot of the first copy of each stream's latest FGO (R300) with that FGO's record, the tick the port last started a command. -/
structure FarEngine where
  nest : Nest
  nest2 : Nest
  port : List FgoCmd
  recs : List FarRec
  copies : List Copy
  nextId : Nat
  recent : Option Nat
  recent2 : Option Nat
  newest : Nat
  newest2 : Nat
  lastStart : Option Nat
  utlb : List TlbEntry
  deriving DecidableEq, Repr

/-- The engine at reset. -/
def FarEngine.reset : FarEngine :=
  { nest := Nest.reset, nest2 := Nest.reset, port := [], recs := [], copies := [], nextId := 0, recent := none,
    recent2 := none, newest := 0, newest2 := 0, lastStart := none, utlb := [] }

/-- The four latches of a receiving port (R266). -/
abbrev Port := Vector (VReg × Tag) 4

/-- The states of a tile-map entry (R73). -/
inductive TileSt where
  | free
  | bound
  | dead
  deriving DecidableEq, Repr

/-- The tile values a snapshot latches (R383). -/
structure TileSnap where
  pc : Nat
  rtime : Nat
  tstat : W64
  holdc : BitVec 32
  mflags : BitVec 4
  vflags : BitVec 7
  fstat : W64
  fails : BitVec 4
  phase : BitVec 6
  deriving DecidableEq, Repr

/-- Before the first snapshot every latched value reads 0. (DESIGN CHOICE: log 114.) -/
def TileSnap.reset : TileSnap := { pc := 0, rtime := 0, tstat := 0, holdc := 0, mflags := 0, vflags := 0, fstat := 0, fails := 0, phase := 0 }

/-- The old values of the untagged registers that a block of a stream has written (R154): the phase, IE, TCMP, MFLAGS and the nest. (DEDUCED: log 37.) -/
structure Shadow where
  phase : Option (BitVec 6)
  ie : Option (BitVec 2)
  tcmp : Option W64
  mflags : Option (BitVec 4)
  nest : Option Nest
  deriving DecidableEq, Repr

/-- No register written yet. -/
def Shadow.empty : Shadow := { phase := none, ie := none, tcmp := none, mflags := none, nest := none }

/-- The scratchpad contents a tile's reads of the tick see: bytes, line tags and error marks, before any engine's write of the tick (R187, R293). -/
structure Still where
  spad : List Host.Cell
  ltag : SMap Tag
  ecc : SMap (BitVec 2)
  tecc : SMap (BitVec 2)
  deriving DecidableEq, Repr

/-- Contents nothing has been written to. -/
def Still.reset : Still := { spad := [], ltag := [], ecc := [], tecc := [] }

/-- A cached-path access that has committed and waits behind a FENCE: its number, its context, what it is, its commit tick and the accesses it waits for (R179). -/
structure Fenced where
  id : Nat
  ctx : Ctx
  eff : Effect
  tick : Nat
  waits : List Nat
  deriving DecidableEq, Repr

/-- One compute tile (R2, R73, R164, R186, R282): with what the tick has still to do with it, the basin updates by their order of R308, the basins BREAD samples, whether a gate asks for a hold, the accesses that wait for a FENCE (R179), what the lines held before a commit whose port may still clash on the tick (R153, R191), the cycle C of a handler entry, causes put off to a later commit point (R346), why it retires (R404). -/
structure Tile where
  prim : Stream
  sec : Stream
  ended : Bool
  secRun : Bool
  hm : Option Handler
  preq : Bool
  ip : BitVec 8
  ie : BitVec 2
  tcause : W64
  tpc : BitVec 33
  tmask : BitVec 8
  taddr : W64
  tcmp : W64
  mflags : BitVec 4
  phase : BitVec 6
  kept : Shadow
  kept2 : Shadow
  spring : Nat
  dbgb : W64
  tinj : W64
  spad : List Host.Cell
  spad0 : List Host.Cell
  still : Still
  ltag : SMap Tag
  ecc : SMap (BitVec 2)
  tecc : SMap (BitVec 2)
  soft : Nat
  mx : Matrix
  far : FarEngine
  mport : Port
  dport : Port
  store : List Nat
  sstore : List Nat
  succ : List Nat
  hasSec : Bool
  st : TileSt
  lte : BitVec 8
  reg : BitVec 3
  lpos : BitVec 7
  fails : BitVec 4
  pend : List Cause
  after : List Cause
  uses : List PortUse
  basinOps : List (Nat × Nat × BasinUpd)
  breads : List (Ctx × Nat × Result)
  gateHeld : Bool
  fenced : List Fenced
  undo : List (Nat × Nat × List Byte × Tag)
  enter : Option Nat
  defer : List Cause
  retiring : Option (BitVec 8 × Nat)
  snap : TileSnap
  deriving DecidableEq, Repr

/-- A tile at die reset; the registers no rule resets are a DESIGN CHOICE (log 16), and so is that no tile is DEAD (log 21). (DESIGN CHOICE: log 114.) -/
def Tile.reset : Tile :=
  { prim := Stream.reset, sec := Stream.reset, ended := false, secRun := false, hm := none, preq := false, ip := 0, ie := 0,
    tcause := 0, tpc := 0, tmask := 0, taddr := 0, tcmp := BitVec.allOnes 64, mflags := 0, phase := 0,
    kept := Shadow.empty, kept2 := Shadow.empty, spring := 0, dbgb := 0, tinj := 0, spad := [], spad0 := [], still := Still.reset, ltag := [], ecc := [], tecc := [], soft := 0, mx := Matrix.reset,
    far := FarEngine.reset, mport := Vector.replicate _ (0, 0), dport := Vector.replicate _ (0, 0), store := [],
    sstore := [], succ := [], hasSec := false, st := .free, lte := 0, reg := 0, lpos := 0, fails := 0, pend := [],
    after := [], uses := [], basinOps := [], breads := [], gateHeld := false, fenced := [], undo := [], enter := none, defer := [], retiring := none, snap := TileSnap.reset }

/-- An extent declaration of an image (R31). -/
structure ExtentDecl where
  vbase : Nat
  len : Nat
  cls : BitVec 2
  r : Bool
  w : Bool
  a : Bool
  coh : BitVec 2
  fmt : BitVec 4
  peer : Nat
  deriving DecidableEq, Repr

/-- A section of an image (R15). -/
structure Section where
  ty : Nat
  var : Nat
  owner : Nat
  len : Nat
  off : Nat
  deriving DecidableEq, Repr

/-- What a kernel header declares (R18). -/
structure Header0 where
  encv : Nat
  idem : Bool
  spol : Bool
  tprof : Nat
  nphase : Nat
  widw : List Nat
  widb : List Nat
  tasks : Nat
  stagger : Nat
  holdb : Nat
  ppb : Nat
  retn : Nat
  seed : W64
  sbase : Nat
  qstride : Nat
  tstride : Nat
  slen : Nat
  regions : List (BitVec 4 × Nat)
  variants : List Nat
  extents : List ExtentDecl
  phases : List Nat
  sections : List Section
  deriving DecidableEq, Repr

/-- Where an extent lies physically (R83): slab numbers of a SCHED extent, runs of offset, physical address and length of a CACHED one; with the pages pinned for it, as first page and count in 64 KiB units (R84). -/
structure ExtentPhys where
  pages : List (Nat × Nat)
  slabs : List Nat
  runs : List (Nat × Nat × Nat)
  deriving DecidableEq, Repr

/-- The states of a launch-table entry (R65). -/
inductive EntrySt where
  | empty
  | admitting
  | admitted
  | running
  | parked
  | retired
  | refused
  deriving DecidableEq, Repr

/-- A link direction reserved to a launch, and to one region of it when a transmission uses it outside exchange windows (R263). -/
structure LinkUse where
  die : Nat
  node : Nat
  dir : Nat
  region : Option Nat
  deriving DecidableEq, Repr

/-- A launch-table entry and the launch it holds (R64, R76, R83). `waitTb` holds the amounts waiting for their Tb (earliest target, kind, ticks), `applied` those applied (from which nominal target, from it on or after it only, ticks), `links` the link directions reserved to it (R263), `predAt` the tick a dynamic launch's predecessor retired (R69). -/
structure Entry where
  ctl : Byte
  prio : Byte
  asid : BitVec 16
  pred : Byte
  st : EntrySt
  status : Byte
  image : W64
  start : W64
  arg : W64
  rank : BitVec 32
  plat : BitVec 32
  foff : BitVec 32
  job : BitVec 32
  rsvd : Bool
  tick : Nat
  hdr : Option Header0
  variant : Nat
  bases : List (Option Nat)
  phys : List ExtentPhys
  killed : Bool
  predAt : Option Nat
  pstr : Nat
  waitTb : List (Nat × Nat × Nat)
  applied : List (Nat × Bool × Nat)
  links : List LinkUse
  lastRdv : Option Nat
  restart : Option Nat
  saving : Bool
  deriving DecidableEq, Repr

/-- An entry at reset (DESIGN CHOICE: log 17). -/
def Entry.reset : Entry :=
  { ctl := 0, prio := 0, asid := 0, pred := 0, st := .empty, status := 0, image := 0, start := 0, arg := 0, rank := 0,
    plat := 0, foff := 0, job := 0, rsvd := false, tick := 0, hdr := none, variant := 0, bases := [], phys := [],
    killed := false, predAt := none, pstr := 0, waitTb := [], applied := [], links := [], lastRdv := none,
    restart := none, saving := false }

/-- Where a region stands (R69, R77, R350, R371). A frozen one goes back to running (0), to its place (1), or to a wait until a tick (2 more than it). -/
inductive RegionSt where
  | placed
  | waiting (tick : Nat)
  | running
  | frozen (was : Nat)
  | done
  deriving DecidableEq, Repr

/-- A region of a launch on one die (R23); `since` is the tick its present hold began, when it is held, `rdv` the target Tʹ it waits for, `nominal` the target its last RDV named (R71), `seen` the writes every party had applied of its own when that RDV committed (R339), `exch` its exchange window: Tʹ and the region cycle it opened on (R143), `aborts` how often REPLAY has aborted its present task, `awaits` the pages that task waits for before it starts again, `restart` its start when it is re-run, until a first RDV target follows it (R95). -/
structure Region where
  entry : BitVec 8
  die : Nat
  idx : Nat
  tiles : List Nat
  surplus : List Nat
  rtime : Nat
  seq : Nat
  holdc : BitVec 32
  st : RegionSt
  held : Bool
  since : Nat
  rdv : Option Nat
  nominal : Nat
  seen : List Nat
  exch : Option (Nat × Nat)
  aborts : Nat
  awaits : List Nat
  restart : Option Nat
  deriving DecidableEq, Repr

/-- The DRAM timers of a bank (R253), each the tick of the last such command. -/
structure BankT where
  row : Option Nat
  act : Option Nat
  rd : Option Nat
  wr : Option Nat
  pre : Option Nat
  refpb : Option Nat
  deriving DecidableEq, Repr

/-- A bank nothing has touched (DESIGN CHOICE: log 23). -/
def BankT.reset : BankT := { row := none, act := none, rd := none, wr := none, pre := none, refpb := none }

/-- The timers and the refresh debt of a pseudo-channel (R253, R256): its last four ACTs, latest first, its last all-bank refresh and whether that was autonomous (R257). -/
structure PchT where
  acts : List Nat
  ref : Option Nat
  auto : Bool
  debt : Int
  marks : BitVec 16
  nextRef : Nat
  deriving DecidableEq, Repr

/-- A pseudo-channel nothing has touched (DESIGN CHOICE: log 23). -/
def PchT.reset : PchT := { acts := [], ref := none, auto := false, debt := 0, marks := 0, nextRef := 0 }

/-- A burst read and not yet landed (R251): the region cycle it lands on, the tick it reaches the node, `parked` when that tick was held (R144), `err` an uncorrectable word it met in memory (R188). -/
structure Burst where
  land : Nat
  arrive : Nat
  tile : Nat
  sec : Nat
  data : BitVec 512
  sid : BitVec 8
  parked : Bool
  err : Option Nat
  deriving DecidableEq, Repr

/-- A closed-bank access of the cached path: its pseudo-channel and bank, and the ticks of its ACT, RD, WR and PRE (R260). -/
structure Served where
  pc : Nat
  bk : Nat
  act : Nat
  rd : Nat
  wr : Option Nat
  pre : Nat
  deriving DecidableEq, Repr

/-- A channel sequencer (R244, R247, R256). `cyc` is the next region cycle of its program; a segment with `len` 0 has no template running; `tls` are the tiles at the logical positions of its node (R249); `tail` counts the region's cycles on after its task's end, for the bursts still to land (R252); `cached` is the queue of the miss handler, `served` its last accesses, latest first (R260). -/
structure Seqr where
  entry : Option (BitVec 8)
  region : Nat
  node : Nat
  code : List Nat
  pos : Nat
  run : Bool
  failed : Bool
  cyc : Nat
  segStart : Nat
  nest : List (Nat × Int × Int × Int)
  tmpl : List Nat
  len : Nat
  total : Nat
  sid : BitVec 8
  slabs : List Nat × List Nat
  tls : List Nat
  banks : SMap BankT
  pch : PchT × PchT
  bursts : List Burst
  tail : Option Nat
  cached : List Nat
  served : List Served
  snap : Nat × Int × Int × Nat
  deriving DecidableEq, Repr

/-- The levels of a segment that no TNEST has named (R247). -/
def flatNest : List (Nat × Int × Int × Int) := List.replicate 6 (1, 0, 0, 0)

/-- A sequencer with no launch. (DESIGN CHOICE: log 23, 114.) -/
def Seqr.reset : Seqr :=
  { entry := none, region := 0, node := 0, code := [], pos := 0, run := false, failed := false, cyc := 0, segStart := 0,
    nest := flatNest, tmpl := [], len := 0, total := 0, sid := 0, slabs := ([], []), tls := [], banks := [],
    pch := (PchT.reset, PchT.reset), bursts := [], tail := none, cached := [], served := [], snap := (0, 0, 0, 0) }

/-- A timed transmission in flight (R265, R267): `age` is how many cycles of its region lie behind its issue; `ended` when that region's task has ended, so that its cycles are those of the gap: the tick of that end, and whether it was held; `bad` when a link has left it a double-bit error (R261). (DEDUCED: log 104.) -/
structure Tx where
  id : Nat
  region : Nat
  src : Nat
  lt : Nat
  dst : Nat
  die : Bool
  issue : Nat
  sid : BitVec 8
  data : VReg
  tag : Tag
  dropped : Option Nat
  age : Nat
  ended : Option (Nat × Bool)
  bad : Bool
  deriving DecidableEq, Repr

/-- What a best-effort packet brings: a step of the part it goes to, or a miss or a write-back for the miss handler of a sequencer's node (R262, R273). -/
inductive Parcel where
  | step (i : Instr)
  | port (q k : Nat)
  deriving DecidableEq, Repr

/-- A best-effort packet in a router's line buffer of an input (0 +x, 1 −x, 2 +y, 3 −y as it arrived, 4 from the node, 5 to 8 over the bridge from a die, 9 from the node's memory port), the die and the node it goes to, the tick it last moved, and what it brings (R264). -/
structure Packet where
  id : Nat
  die : Nat
  node : Nat
  inp : Nat
  toDie : Nat
  dst : Nat
  moved : Nat
  parcel : Parcel
  deriving DecidableEq, Repr

/-- The sector states of R274. -/
inductive SecSt where
  | i
  | v
  | d
  | p
  deriving DecidableEq, Repr

/-- A line of a cache slice (R273): its line address, its four sectors, the dirty words, the data, and its 8-byte words that are uncorrectable. -/
structure CLine where
  line : Nat
  secs : Vector SecSt 4
  dirty : BitVec 64
  data : VReg
  bad : BitVec 32
  deriving DecidableEq, Repr

/-- A cache slice (R273): lines most recently used first, and its counts. -/
structure Slice where
  lines : List CLine
  hits : Nat
  misses : Nat
  moves : Nat
  snap : Nat × Nat × Nat
  deriving DecidableEq, Repr

/-- An empty slice. -/
def Slice.reset : Slice := { lines := [], hits := 0, misses := 0, moves := 0, snap := (0, 0, 0) }

/-- What a cached-path request asks for (R274, R317). -/
inductive CKind where
  | read (n : Nat)
  | write (data : List Host.Cell)
  | amo (cas : Bool) (op : BitVec 4) (wide : Bool) (b c : W64)
  deriving DecidableEq, Repr

/-- Whom an answer goes to: an LDF or atomic of a tile's stream, a sector of a copy, or the part of one before (0) or past (1) a 64-byte boundary, or nobody. -/
inductive Client where
  | stream (t : Nat) (op : Nat)
  | copy (t slot sec half : Nat)
  | nobody
  deriving DecidableEq, Repr

/-- A cached-path request (R273): `held` while it waits for a fill or a bucket move, `met` once its slice has counted it. -/
structure CReq where
  id : Nat
  die : Nat
  pa : Nat
  causal : Bool
  home : Bool
  kind : CKind
  client : Client
  held : Bool
  met : Bool
  deriving DecidableEq, Repr

/-- A miss on its way to memory (R273, R278): the sector asked for; its answer with the uncorrectable words and, on a CAUSAL line, the home's clock; `stale` when the die has changed memory or dropped the sector since, so that it is fetched again (R331, R336); the CAUSAL writes to it that the die has applied since, by writer and stamp (R332). -/
structure Miss where
  id : Nat
  die : Nat
  sector : Nat
  causal : Bool
  clock : List Nat
  answer : Option (BitVec 512 × BitVec 8 × List Nat)
  stale : Bool
  newer : List (Nat × Nat × List Host.Cell)
  deriving DecidableEq, Repr

/-- A masked write-back on its way to memory, with the range instructions that wait for it (R274, R279). -/
structure WBack where
  id : Nat
  die : Nat
  sector : Nat
  mask : BitVec 16
  data : BitVec 512
  ranges : List Nat
  client : Client
  deriving DecidableEq, Repr

/-- A CAUSAL write update (R278): the parties it has still to reach, the parties whose full queue it waits for, and who waits for its application at the causal home. -/
structure Update where
  id : Nat
  src : Nat
  cells : List Host.Cell
  clock : List Nat
  left : List Nat
  stuck : List Nat
  client : Client
  deriving DecidableEq, Repr

/-- What a holding far operation of a stream is (R169, R279, R319); a range holds the lines not yet dealt with, each with the first byte and the end of its part. -/
inductive HoldKind where
  | ldf
  | atomic (cas : Bool) (op : BitVec 4) (wide : Bool) (b c : W64)
  | range (kind : Nat) (lines : List (Nat × Nat × Nat))
  deriving DecidableEq, Repr

/-- A holding far operation under way (R169, R279, R319): `issued` is the tick it went out, `raised` its commit tick, `err` an uncorrectable word that came with the answer, `via` the pages of the translation it went out through (R90), `clock` what its die's clock must cover before the answer returns (R333, R335). -/
structure HoldOp where
  id : Nat
  tile : Nat
  ctx : Ctx
  kind : HoldKind
  result : Option Result
  e : W64
  pa : Option Nat
  parked : Option Nat
  issued : Nat
  raised : Nat
  left : Nat
  sc : BitVec 4
  err : Option Nat
  via : Option (Nat × Nat)
  clock : List Nat
  deriving DecidableEq, Repr

/-- Where a TLB query stands: on its way to its home slice or waiting there; its walked entry on the way to the BACKUP home; the home's word that it is there; the answer on the way back; or asked anew once it is back, what it was answered having been invalidated (R88, R90, R262). -/
inductive TlbLeg where
  | asks
  | copies (e : TlbEntry)
  | copied (e : TlbEntry)
  | answers (e : Option TlbEntry)
  | again
  deriving DecidableEq, Repr

/-- A TLB query: its home, die and slice, and whether it has arrived there (R88). (PRESUMED: log 64.) -/
structure TlbQ where
  id : Nat
  home : Nat × Nat
  here : Bool
  leg : TlbLeg
  asid : BitVec 16
  va : Nat
  client : Client
  deriving DecidableEq, Repr

/-- A page-table walk (R88). -/
structure Walk where
  id : Nat
  q : TlbQ
  die : Nat
  slice : Nat
  deriving DecidableEq, Repr

/-- A TLBINV that is not complete: the dies still to ack, those past step 1, the copies (tile, slot and record) and operations translated through a removed entry (R89, R90). -/
structure Inval where
  id : Nat
  frame : Frame
  asid : BitVec 16
  base : Nat
  len : Nat
  all : Bool
  acks : BitVec 4
  stepped : BitVec 4
  copies : List (Nat × Nat × Nat)
  ops : List Nat
  tick : Nat
  deriving DecidableEq, Repr

/-- An event record (R364). -/
structure EvRec where
  code : BitVec 6
  fatal : Bool
  lost : Bool
  warn : Bool
  superseded : Bool
  harea : Bool
  hm : Bool
  nrforced : Bool
  act : BitVec 3
  count : Nat
  die : Nat
  lte : BitVec 8
  ltile : BitVec 9
  info : Byte
  mask : Byte
  asid : BitVec 16
  rcyc : BitVec 32
  ptime : W64
  addr : W64
  deriving DecidableEq, Repr

/-- A compute die (R348, R272, R275, R278, R376): `waits` are the steps that wait for a bucket move, in arrival order (R276), `floor` the clock its accesses to CAUSAL lines wait for since an RDV (R339). -/
structure Die where
  actions : SMap (BitVec 16)
  mailbox : Option EvRec
  halted : Bool
  fifo : List EvRec
  lostNext : Bool
  minj : W64
  debug : Bool
  inject : Bool
  clock : List Nat
  updates : List Update
  buckets : SMap (BitVec 16)
  counts : SMap Nat
  moving : Option (Nat × Nat)
  waits : List Instr
  floor : List Nat
  slices : SMap Slice
  tlb : SMap (List TlbEntry)
  plim : BitVec 16
  estep : BitVec 32
  lineCounts : SMap (Nat × Nat)
  routerSnap : SMap (Nat × Nat)
  deriving DecidableEq, Repr

/-- A die at reset: every action entry and bucket entry reads as its reset value where unlisted; the enables are a DESIGN CHOICE (log 18). (DESIGN CHOICE: log 114.) -/
def Die.reset : Die :=
  { actions := [], mailbox := none, halted := false, fifo := [], lostNext := false, minj := 0, debug := false,
    inject := false, clock := [0, 0, 0, 0, 0], updates := [], buckets := [], counts := [], moving := none, waits := [], floor := [0, 0, 0, 0, 0], slices := [],
    tlb := [], plim := 430, estep := 0, lineCounts := [], routerSnap := [] }

/-- An address decoder of the memory pool: a range, and the ports it is interleaved over at 4 KiB (R303). -/
structure Decoder where
  base : Nat
  len : Nat
  ports : List (BitVec 2)
  deriving DecidableEq, Repr

/-- A decoder nothing has programmed. -/
def Decoder.reset : Decoder := { base := 0, len := 0, ports := [] }

/-- Does a decoder take an address? -/
def Decoder.takes (d : Decoder) (pa : Nat) : Bool := decide (d.base ≤ pa) && decide (pa < d.base + d.len)

/-- The port an address goes to: its 4 KiB granule of the range, over the ways (R303). (DESIGN CHOICE: log 113.) -/
def Decoder.portOf (d : Decoder) (pa : Nat) : BitVec 2 := d.ports.getD ((pa - d.base) / 4096 % d.ports.length) 0

/-- The end-to-end delay exchange of the PTP clock (R60): a two-step Sync that waits for its Follow_Up (sequence, arrival, correction), the distance of the last Sync's arrival from its origin, the Delay_Req under way (sequence, departure), the mean path delay in ticks, the next Delay_Req's sequence. -/
structure Ptp where
  sync : Option (Nat × W64 × Int)
  last : Int
  req : Option (Nat × W64)
  delay : Int
  seq : Nat
  deriving DecidableEq, Repr

/-- No exchange yet. (DESIGN CHOICE: log 83.) -/
def Ptp.reset : Ptp := { sync := none, last := 0, req := none, delay := 0, seq := 0 }

/-- The I/O die and the trust die (R60, R61, R79, R80, R91, R366, R376, R380, R383, R387, R388). `temps` are the readings the temperature sensors stand at, `hot` the first tick of the thermal hold in force, `cooled` the thermal holds that are over, each with its first tick and the one after its last, `hotNews` the die and the reading of a hold whose record is still to be posted. -/
structure Iod where
  port : Bool
  imageBase : Nat
  imageLen : Nat
  locked : Bool
  stepped : Bool
  ofs : Int
  goodSyncs : Nat
  ptpDomain : Byte
  ptp : Ptp
  atbase : W64
  agrant : List Nat
  bucketMap : SMap (BitVec 32)
  dstate : BitVec 32
  failover : BitVec 4
  invals : List Inval
  nextInval : Nat
  queue : List (Nat × EvRec)
  fifo : List EvRec
  tfifo : List EvRec
  lostI : Bool
  lostT : Bool
  dprof : List (BitVec 32)
  temerg : Int
  hot : Option Nat
  cooled : List (Nat × Nat)
  hotNews : Option (Nat × Int)
  temps : List Int
  snapFull : Bool
  snapTag : Byte
  snapSrc : BitVec 3
  missed : BitVec 16
  snapt : W64
  snapcmp : W64
  snapAt : Option (Nat × BitVec 3 × Byte)
  snapTime : W64 × List Nat
  decoders : SMap Decoder
  rails : List Rail
  powerSeq : Bool
  powerUps : Nat
  measured : List (BitVec 384)
  session : Bool
  keyed : Bool
  spdmN : Nat
  clock : List Nat
  updates : List Update
  down : List Route
  lost : List Route
  deriving DecidableEq, Repr

/-- A reduction round of a group of a job at the switches (R320). -/
structure Round where
  job : BitVec 32
  grp : BitVec 16
  n : Nat
  got : List Contribution
  err : Bool
  delivered : Bool
  late : Bool
  deriving DecidableEq, Repr

/-- A job hold in force or waiting for its Tb: a fabric overrun or a retirement (R325, R384). -/
structure JobHold where
  job : BitVec 32
  tb : Option Nat
  dt : Nat
  hl : Nat
  until_ : Option Nat
  open_ : Bool
  active : Bool
  deriving DecidableEq, Repr

/-- What leaves the package: a completion of a frame, a message to the job's other packages, or one to another package, or a PTP Delay_Req. (DESIGN CHOICE: log 5.) -/
inductive OutMsg where
  | completion (seq : BitVec 16) (status : Byte) (data : List Byte)
  | delayReq (domain : Byte) (seq : Nat)
  | stretch (job : BitVec 32) (amount : Nat)
  | displacement (job : BitVec 32) (amount : Nat)
  | overrun (job : BitVec 32) (dt hl : Nat)
  | jobHold (job : BitVec 32)
  | jobRelease (job : BitVec 32) (tick : Nat)
  | decrement (job : BitVec 32) (b : W64) (sectors : Bool) (count : Nat) (tag : Tag)
  | errMark (job : BitVec 32) (b : W64)
  | peer (job : BitVec 32) (rank : Nat) (acc : PeerAccess)
  | peerAnswer (data : List Byte)
  | contribution (c : Contribution)
  deriving DecidableEq, Repr

/-- What the bundle register holds the syllables of: a bundle of a tile's context, or a command of a sequencer. (DESIGN CHOICE: log 4.) -/
structure Cursor where
  tile : Nat
  ctx : Ctx
  cycle : Nat
  tick : Nat
  slot : Nat
  code : List (Nat × Nat)
  bp : Bool
  bcv : Bool
  bcs : W64
  bctag : Tag
  rrb : BitVec 5
  pc : Nat
  word : BitVec 32
  gate : Option (BitVec 3 × Bool)
  seqr : Nat
  deriving DecidableEq, Repr

/-- No bundle. -/
def Cursor.empty : Cursor :=
  { tile := 0, ctx := .primary, cycle := 0, tick := 0, slot := 0, code := [], bp := false, bcv := false, bcs := 0, bctag := 0,
    rrb := 0, pc := 0, word := 0, gate := none, seqr := 0 }

/-- The parts of a tick, in order (the model's own schedule). (DEDUCED: log 2; DESIGN CHOICE: log 4.) -/
inductive Stage where
  | next
  | commit
  | issue
  | engines
  | late
  | close
  deriving DecidableEq, Repr

/-- A trap taken on the tick and not yet acted on (R350). -/
structure Taken where
  tile : Nat
  cause : Cause
  act : BitVec 3
  pc : Nat
  sec : Bool
  nrforced : Bool
  hm : Bool
  harea : Bool
  deriving DecidableEq, Repr

/-- The machine: one DY480 package, with what is on its way inside it. Fields marked DESIGN CHOICE are the model's own (log 4, 5, 14). -/
structure State where
  /-- PTIME, the tick the state stands in (R4, R59); its reset value is a DESIGN CHOICE (log 3). -/
  ptime : W64
  /-- DESIGN CHOICE (log 4): which part of the tick comes next. -/
  stage : Stage
  /-- DESIGN CHOICE (log 14): what arrives from outside with the step on the bundle register. -/
  ext : Ext
  /-- DESIGN CHOICE (log 4): steps of this tick still to come. -/
  agenda : List (Instr × Ext)
  /-- DESIGN CHOICE (log 4): the bundle register. -/
  cur : Cursor
  /-- DESIGN CHOICE (log 4): steps due on later ticks (R408). -/
  pending : List (Nat × Instr × Ext)
  /-- DESIGN CHOICE (log 4): how many free values have been used. -/
  nfree : Nat
  /-- DESIGN CHOICE (log 4): the next number for an object on its way. -/
  nextId : Nat
  /-- Traps taken on this tick and not yet acted on (R350). -/
  taken : List Taken
  /-- The 384 compute tiles (R2, R3). -/
  tiles : SMap Tile
  /-- The regions of the launches, by entry × 32 + die × 8 + region index (R23). -/
  regions : SMap Region
  /-- The launch table (R64). -/
  entries : SMap Entry
  /-- The 384 channel sequencers (R16, R244). -/
  seqrs : SMap Seqr
  /-- The four compute dies (R2). -/
  dies : SMap Die
  /-- The I/O die and the trust die (R2). -/
  iod : Iod
  /-- Timed transmissions in flight (R265). -/
  txs : List Tx
  /-- Best-effort packets (R264). -/
  packets : List Packet
  /-- Requests of the cached path (R273). -/
  creqs : List CReq
  /-- Misses on their way to memory (R273). -/
  misses : List Miss
  /-- Write-backs on their way to memory (R274). -/
  wbs : List WBack
  /-- CAUSAL updates that have left their home (R278). -/
  updates : List Update
  /-- Holding far operations (R169, R279, R319). -/
  ops : List HoldOp
  /-- TLB queries (R88). -/
  queries : List TlbQ
  /-- Page-table walks (R88). -/
  walks : List Walk
  /-- Reduction rounds (R320). -/
  rounds : List Round
  /-- The amounts applied to the RDV targets of each job: the target Tb as moved and the ticks (R323, R379). -/
  moved : List (BitVec 32 × Nat × Nat)
  /-- How many FREDs each group has counted (R320). -/
  fredNo : SMap Nat
  /-- Job holds (R325, R384). -/
  jobHolds : List JobHold
  /-- HBM, by physical byte address (R2, R82); unlisted bytes read 0, a DESIGN CHOICE (log 15). -/
  mem : List Host.Cell
  /-- The memory pool (R303); unlisted bytes read 0, a DESIGN CHOICE (log 15). -/
  pool : List Host.Cell
  /-- The 8-byte words of HBM that are uncorrectable (R297); none at reset, a DESIGN CHOICE (log 49). -/
  merr : SMap Bool
  /-- The 8-byte words of the memory pool that are poisoned (R297); none at reset, a DESIGN CHOICE (log 49). -/
  perr : SMap Bool
  /-- DESIGN CHOICE (log 5): what has left the package. -/
  out : List OutMsg
  /-- The tile contexts saved for a launch (R374). -/
  saved : SMap (List Tile)
  deriving DecidableEq, Repr

/-- The timing profile of R246, as its brackets give it (PRESUMED: log 20). -/
def profile : List (BitVec 32) :=
  [0x7A310C02, 0x000C000C, 0x001B0027, 0x00020003, 0x000C0001, 0x0002000D, 0x00050004, 0x00D00078, 0x06180014, 0x00080000]

/-- The I/O die and the trust die at reset (DESIGN CHOICE where no rule gives a value: log 19). (PRESUMED: log 20; DESIGN CHOICE: log 114.) -/
def Iod.reset : Iod :=
  { port := false, imageBase := 0, imageLen := 12 * 2 ^ 36, locked := false, stepped := false, ofs := 0, goodSyncs := 0,
    ptpDomain := 0, ptp := Ptp.reset, atbase := 0, agrant := [], bucketMap := [], dstate := 0x155, failover := 0, invals := [],
    nextInval := 0, queue := [], fifo := [], tfifo := [], lostI := false, lostT := false, dprof := profile, temerg := 105,
    hot := none, cooled := [], hotNews := none, temps := [], snapFull := false, snapTag := 0, snapSrc := 0, missed := 0, snapt := 0,
    snapcmp := BitVec.allOnes 64, snapAt := none, snapTime := (0, []), decoders := [], rails := [], powerSeq := false,
    powerUps := 0, measured := [], session := false, keyed := false, spdmN := 0, clock := [0, 0, 0, 0, 0], updates := [],
    down := [], lost := [] }

/-- The machine right after reset: no launch, every memory with nothing listed, time at the start of tick 0 (DESIGN CHOICE: log 3, 4). -/
def State.reset : State :=
  { ptime := 0, stage := .commit, ext := .none, agenda := [], cur := Cursor.empty, pending := [], nfree := 0, nextId := 0,
    taken := [], tiles := [], regions := [], entries := [], seqrs := [], dies := [], iod := Iod.reset, txs := [],
    packets := [], creqs := [], misses := [], wbs := [], updates := [], ops := [], queries := [], walks := [], rounds := [], moved := [], fredNo := [],
    jobHolds := [], mem := [], pool := [], merr := [], perr := [], out := [], saved := [] }

end Sys2Proof.Machine
end

