-- ==== Sys2Proof/Machine/Ops.lean ====
section
/-! DEFINITION. The named operations over the state: registers, memories, free values, event records, raising a cause, taking a trap and returning from one (R103, R136, R152, R343 to R367). -/

namespace Sys2Proof.Machine

/-- The outcome of a step. -/
abbrev Out := Host.Outcome State Fault Refusal

/-! ## Error marks of memory words (R188, R297) -/

/-- The words a span of bytes covers whole take valid codes with the write (R188). -/
def freshWords {α : Type} (ecc : SMap α) (a n : Nat) : SMap α :=
  ecc.filter fun w => !(decide (a ≤ 8 * w.1) && decide (8 * w.1 + 8 ≤ a + n))

/-- The words a store's bytes cover whole take valid codes with the store (R188). -/
def freshCells {α : Type} (ecc : SMap α) (cells : List Host.Cell) : SMap α :=
  ecc.filter fun w => !(List.range 8).all fun i => cells.any fun c => c.1 == 8 * w.1 + i

/-- The address of the first uncorrectable word that a span of bytes of a memory touches (R297). (DEDUCED: log 109.) -/
def badWord (err : SMap Bool) (a n : Nat) : Option Nat :=
  ((List.range ((a + n - 1) / 8 - a / 8 + 1)).find? fun i => SMap.get false err (a / 8 + i)).map fun i => 8 * (a / 8 + i)

/-- The uncorrectable words of a 64-byte sector of memory. -/
def badMask (err : SMap Bool) (a : Nat) : BitVec 8 :=
  (List.range 8).foldl (fun m i => if SMap.get false err (a / 8 + i) then m ||| BitVec.twoPow 8 i else m) 0

/-! ## Objects of the state -/

/-- A region that is not placed. -/
def Region.reset : Region :=
  { entry := 0, die := 0, idx := 0, tiles := [], surplus := [], rtime := 0, seq := 0, holdc := 0, st := .placed, held := false, since := 0,
    rdv := none, nominal := 0, seen := [0, 0, 0, 0, 0], exch := none, aborts := 0, awaits := [], restart := none }

/-- Does a region's task run? (R77) -/
def Region.runs (r : Region) : Bool :=
  match r.st with
  | .running => true
  | _ => false

/-- The tile of a package tile number (R3). -/
def State.tile (s : State) (t : Nat) : Tile := SMap.get Tile.reset s.tiles t

/-- Replace a tile. -/
def State.setTile (s : State) (t : Nat) (x : Tile) : State := { s with tiles := SMap.set Tile.reset s.tiles t x }

/-- Change a tile. -/
def State.updTile (s : State) (t : Nat) (f : Tile → Tile) : State := s.setTile t (f (s.tile t))

/-- Change every listed tile. -/
def State.mapTiles (s : State) (f : Nat → Tile → Tile) : State := { s with tiles := SMap.mapV Tile.reset f s.tiles }

/-- Change every listed region. -/
def State.mapRegions (s : State) (f : Nat → Region → Region) : State := { s with regions := SMap.mapV Region.reset f s.regions }

/-- The region of a key: entry × 32 + die × 8 + region index. -/
def State.region (s : State) (r : Nat) : Region := SMap.get Region.reset s.regions r

/-- Replace a region. -/
def State.setRegion (s : State) (r : Nat) (x : Region) : State := { s with regions := SMap.set Region.reset s.regions r x }

/-- Change a region. -/
def State.updRegion (s : State) (r : Nat) (f : Region → Region) : State := s.setRegion r (f (s.region r))

/-- The launch-table entry of an index (R64). -/
def State.entry (s : State) (e : BitVec 8) : Entry := SMap.get Entry.reset s.entries e.toNat

/-- Replace an entry. -/
def State.setEntry (s : State) (e : BitVec 8) (x : Entry) : State :=
  { s with entries := SMap.set Entry.reset s.entries e.toNat x }

/-- Change an entry. -/
def State.updEntry (s : State) (e : BitVec 8) (f : Entry → Entry) : State := s.setEntry e (f (s.entry e))

/-- The sequencer 96d + 4n + c (R16). -/
def State.seqr (s : State) (q : Nat) : Seqr := SMap.get Seqr.reset s.seqrs q

/-- Replace a sequencer. -/
def State.setSeqr (s : State) (q : Nat) (x : Seqr) : State := { s with seqrs := SMap.set Seqr.reset s.seqrs q x }

/-- Change a sequencer. -/
def State.updSeqr (s : State) (q : Nat) (f : Seqr → Seqr) : State := s.setSeqr q (f (s.seqr q))

/-- A compute die. -/
def State.die (s : State) (d : Nat) : Die := SMap.get Die.reset s.dies d

/-- Replace a die. -/
def State.setDie (s : State) (d : Nat) (x : Die) : State := { s with dies := SMap.set Die.reset s.dies d x }

/-- Change a die. -/
def State.updDie (s : State) (d : Nat) (f : Die → Die) : State := s.setDie d (f (s.die d))

/-- Change every listed sequencer. -/
def State.mapSeqrs (s : State) (f : Nat → Seqr → Seqr) : State := { s with seqrs := SMap.mapV Seqr.reset f s.seqrs }

/-- Change every listed launch-table entry. -/
def State.mapEntries (s : State) (f : Nat → Entry → Entry) : State := { s with entries := SMap.mapV Entry.reset f s.entries }

/-- Drop the regions of a launch. -/
def State.dropRegions (s : State) (e : BitVec 8) : State := { s with regions := s.regions.filter fun r => r.2.entry != e }

/-- Write bytes of HBM from a physical address. -/
def State.writeMem (s : State) (a : Nat) (bs : List Byte) : State :=
  { s with mem := writeBytes s.mem a bs, merr := freshWords s.merr a bs.length }

/-- Write single bytes of HBM. -/
def State.writeMemCells (s : State) (cs : List Host.Cell) : State := { s with mem := writeCells s.mem cs, merr := freshCells s.merr cs }

/-- Write single bytes of the memory pool. -/
def State.writePool (s : State) (cs : List Host.Cell) : State := { s with pool := writeCells s.pool cs, perr := freshCells s.perr cs }

/-- Keep the saved context of a launch's tiles, or with none of them drop it (R374). (DEDUCED: log 50.) -/
def State.save (s : State) (e : BitVec 8) (xs : List Tile) : State := { s with saved := SMap.set [] s.saved e.toNat xs }

/-- The die, the node and the place in the node of a package tile (R3). -/
def dieOf (t : Nat) : Nat := t / 96
def nodeOf (t : Nat) : Nat := t % 96 / 4
def inNode (t : Nat) : Nat := t % 4

/-- A free duration, at least one tick (R408). (DESIGN CHOICE: log 6.) -/
def State.delay (s : State) : Nat := Config.asyncDelay s.nfree + 1

/-- Use up one free value. (DESIGN CHOICE: log 4.) -/
def State.spend (s : State) : State := { s with nfree := s.nfree + 1 }

/-- The tile as its reads of the tick see it: its contents before any write an engine makes on the tick (R187, R293). -/
def Tile.before (x : Tile) : Tile := { x with spad := x.still.spad, ltag := x.still.ltag, ecc := x.still.ecc, tecc := x.still.tecc }

/-- The contents as they stand are what the reads of the tick see. -/
def Tile.settled (x : Tile) : Tile := { x with still := { spad := x.spad, ltag := x.ltag, ecc := x.ecc, tecc := x.tecc } }

/-- Put a step on the schedule, `n` ticks from now. -/
def State.after (s : State) (n : Nat) (i : Instr) (x : Ext := .none) : State :=
  { s with pending := s.pending ++ [(s.ptime.toNat + n, i, x)] }

/-- Put a step on the schedule after a free duration (R408). (DESIGN CHOICE: log 6.) -/
def State.later (s : State) (i : Instr) : State := (s.after s.delay i).spend

/-- A step after an asynchronous duration that a rule bounds. (DESIGN CHOICE: log 6.) -/
def State.within (s : State) (n : Nat) (i : Instr) : State := (s.after (Nat.min s.delay n) i).spend

/-- A number no other object has. (DESIGN CHOICE: log 4.) -/
def State.fresh (s : State) : State := { s with nextId := s.nextId + 1 }

/-- An amount applied to a job's targets from a Tb on, once for all the launches of the job that it meets there (R323, R379). (DEDUCED: log 69.) -/
def State.noteMove (s : State) (job : BitVec 32) (tb n : Nat) : State :=
  if n = 0 then s
  else match s.moved.find? fun m => m.1 == job && m.2.1 == tb with
    | none => { s with moved := s.moved ++ [(job, tb, n)] }
    | some _ => { s with moved := s.moved.map fun m => if m.1 = job ∧ m.2.1 = tb then (job, tb, max m.2.2 n) else m }

/-- Send a message out. (DESIGN CHOICE: log 5.) -/
def State.say (s : State) (m : OutMsg) : State := { s with out := s.out ++ [m] }

/-! ## Registers -/

/-- Read a register file. -/
def rd {k w : Nat} (f : RegFile k w) (i : BitVec k) : BitVec w := f.get i.toFin

/-- Write a register file. -/
def wr {k w : Nat} (f : RegFile k w) (i : BitVec k) (x : BitVec w) : RegFile k w := f.set i.toNat x i.isLt

/-- The physical vector register a field names (R148). -/
def physV (rrb : BitVec 5) (i : BitVec 6) : BitVec 6 :=
  if i.toNat < 32 then i else BitVec.ofNat 6 (32 + (i.toNat - 32 + rrb.toNat) % 32)

/-- The physical predicate a field names (R148). -/
def physP (rrb : BitVec 5) (i : BitVec 4) : BitVec 4 :=
  if i.toNat < 8 then i else BitVec.ofNat 4 (8 + (i.toNat - 8 + rrb.toNat % 8) % 8)

/-- Read a predicate by its field; p0 is true (R103). -/
def readP (g : Regs) (rrb : BitVec 5) (i : BitVec 4) : Bool := i == 0 || g.p.getLsbD (physP rrb i).toNat

/-- Read a mask; q0 reads all set (R103). -/
def readQ (g : Regs) (i : BitVec 3) : BitVec 64 := if i = 0 then BitVec.allOnes 64 else rd g.q i

/-- Set or clear a physical predicate; p0 is discarded (R103). -/
def setP (p : BitVec 16) (i : BitVec 4) (b : Bool) : BitVec 16 :=
  if i = 0 then p else if b then p ||| BitVec.twoPow 16 i.toNat else p &&& ~~~ BitVec.twoPow 16 i.toNat

/-- A result written into its register, lane by lane, with its flags (R134, R205); a handler's write leaves the tag (R355). -/
def Regs.land (g : Regs) (r : Result) (keepTag : Bool) : Regs :=
  let g := { g with vflags := g.vflags ||| r.vf }
  match r.dest with
  | .s i => { g with s := wr g.s i (r.value.setWidth 64), st := if keepTag then g.st else wr g.st i r.tag }
  | .v i => { g with v := wr g.v i (mergeLanes r.lanes r.value (rd g.v i)), vt := if keepTag then g.vt else wr g.vt i r.tag }
  | .p i => { g with p := setP g.p i (r.value.getLsbD 0) }
  | .q i => if i = 0 then g else
      { g with q := wr g.q i ((r.value.setWidth 64 &&& r.lanes) ||| (rd g.q i &&& ~~~ r.lanes)) }

/-! ## The context of the bundle register -/

/-- The stream whose registers a context uses (R147, R355). -/
def Tile.stream (x : Tile) : Ctx → Stream
  | .secondary => x.sec
  | _ => x.prim

/-- Replace that stream. -/
def Tile.setStream (x : Tile) (c : Ctx) (st : Stream) : Tile :=
  match c with
  | .secondary => { x with sec := st }
  | _ => { x with prim := st }

/-- The tile of the bundle register. -/
def State.ctile (s : State) : Tile := s.tile s.cur.tile

/-- The registers the bundle register's syllables read. -/
def State.regs (s : State) : Regs := (s.ctile.stream s.cur.ctx).regs

/-- Scalar source and its tag (R136). -/
def State.rs (s : State) (a : BitVec 6) : W64 := rd s.regs.s a
def State.ts (s : State) (a : BitVec 6) : Tag := rd s.regs.st a

/-- Vector source and its tag, through RRB (R136, R148). -/
def State.rv (s : State) (a : BitVec 6) : VReg := rd s.regs.v (physV s.cur.rrb a)
def State.tv (s : State) (a : BitVec 6) : Tag := rd s.regs.vt (physV s.cur.rrb a)

/-- Predicate and mask sources. -/
def State.rp (s : State) (a : BitVec 4) : Bool := readP s.regs s.cur.rrb a
def State.rq (s : State) (a : BitVec 3) : BitVec 64 := readQ s.regs a

/-- Does the syllable of predicate `p` take effect? (R101) -/
def State.on (s : State) (p : BitVec 4) : Bool := s.cur.bp && s.rp p

/-- The shadow record of the bundle at hand. -/
def State.issuedNow (s : State) : Option Issued :=
  match s.cur.ctx with
  | .handler => s.ctile.hm.bind fun h => h.issued
  | c => (s.ctile.stream c).issued

/-- Change the shadow record of the bundle at hand. -/
def State.updIssued (s : State) (f : Issued → Issued) : State :=
  s.updTile s.cur.tile fun x =>
    match s.cur.ctx with
    | .handler => { x with hm := x.hm.map fun h => { h with issued := h.issued.map f } }
    | c => x.setStream c { x.stream c with issued := (x.stream c).issued.map f }

/-- Add an effect to the bundle at hand (R343). -/
def State.emit (s : State) (e : Effect) : State := s.updIssued fun b => { b with effects := b.effects ++ [e] }

/-- Add a lineage fold entry (R151). -/
def State.entryTag (s : State) (t : Tag) : State := s.updIssued fun b => { b with entries := b.entries ++ [t] }

/-- Mark the block non-replayable when the bundle commits (R120). (DEDUCED: log 51.) -/
def State.mark (s : State) : State := s.updIssued fun b => { b with marks := true }

/-- The TMASK bit of a slot. -/
def slotBit (n : Nat) : BitVec 8 := BitVec.twoPow 8 n

/-- The INFO and the TADDR of a cause whose rules give none: free values. (DESIGN CHOICE: log 7.) -/
def State.anyInfo (s : State) : BitVec 8 := Config.trapInfo s.nfree
def State.anyAddr (s : State) : W64 := Config.trapAddr s.nfree

/-- Raise a cause by the syllable at hand, at the bundle's commit point (R160). -/
def State.raise (s : State) (code : BitVec 6) (info : BitVec 8) (addr : W64) : State :=
  (s.updIssued fun b => { b with causes := b.causes ++ [⟨code, slotBit s.cur.slot, info, addr, false, s.cur.ctx == .handler && decide (addr.toNat < 0x10000)⟩] }).spend

/-- Raise a cause whose rules give neither INFO nor TADDR. (DESIGN CHOICE: log 7.) -/
def State.raiseOpen (s : State) (code : BitVec 6) : State := s.raise code s.anyInfo s.anyAddr

/-- Raise a cause whose rules give TADDR only. -/
def State.raiseAt (s : State) (code : BitVec 6) (addr : W64) : State := s.raise code s.anyInfo addr

/-- The cycle on which a result of latency `l` lands: region cycle, or tick in handler mode (R134, R159). -/
def State.landAt (s : State) (l : Nat) : Nat := s.cur.cycle + l

/-- A scalar result (R134, R149, R151). -/
def State.resultS (s : State) (d : BitVec 6) (l : Nat) (v : W64) (tag : Tag) : State :=
  (s.emit (.result ⟨s.landAt l, s.cur.cycle, s.cur.slot, .s d, v.setWidth 2048, 0, tag, 0, 0⟩)).entryTag tag

/-- A predicate result; p0 is discarded (R163). -/
def State.resultP (s : State) (d : BitVec 4) (l : Nat) (v : Bool) : State :=
  if d = 0 then s
  else s.emit (.result ⟨s.landAt l, s.cur.cycle, s.cur.slot, .p (physP s.cur.rrb d), if v then 1 else 0, 0, 0, 0, 0⟩)

/-- A vector result on the lanes of a mask (R205, R206). -/
def State.resultV (s : State) (d : BitVec 6) (l : Nat) (lanes : BitVec 64) (v : VReg) (tag : Tag) (vf : VFl) (mf : MFl) : State :=
  (s.emit (.result ⟨s.landAt l, s.cur.cycle, s.cur.slot, .v (physV s.cur.rrb d), v, lanes, tag, vf, mf⟩)).entryTag tag

/-- A mask result on the lanes of a mask; q0 is discarded, its flags are not (R221). -/
def State.resultQ (s : State) (d : BitVec 3) (l : Nat) (lanes v : BitVec 64) (vf : VFl) : State :=
  s.emit (.result ⟨s.landAt l, s.cur.cycle, s.cur.slot, .q d, v.setWidth 2048, lanes, 0, vf, 0⟩)

/-! ## Lineage tags -/

/-- opk of R149 for a class number and an opcode. -/
def opk (cls op : Nat) : Tag := BitVec.ofNat 16 ((128 * cls + op) * 40503)

/-- What an immediate contributes (R149). -/
def immTag : Tag := 0x0101

/-- The result tag of R149 from the source contributions. (DEDUCED: log 124.) -/
def tagOf (xs : List Tag) (k : Tag) : Tag :=
  match xs with
  | [] => k
  | [x] => rotl16 x 3 ^^^ k
  | x :: ys => ys.foldl (fun t y => rotl16 t 3 ^^^ y) x ^^^ k

/-- A line tag after a store (R149); LRECV's replaces it (R269). -/
def Store.newTag (st : Store) (old : Tag) : Tag := if st.whole then st.tagIn else rotl16 old 3 ^^^ st.tagIn

/-! ## Placement lookups -/

/-- The key of the region a tile is bound to. -/
def State.regionOf (s : State) (t : Nat) : Nat :=
  let x := s.tile t
  x.lte.toNat * 32 + dieOf t * 8 + x.reg.toNat

/-- Is a tile's launch parked, its context saved? (R374) (DEDUCED: log 66.) -/
def State.asleep (s : State) (t : Nat) : Bool :=
  match (s.entry (s.tile t).lte).st with
  | .parked => (s.tile t).st == .bound
  | _ => false

/-- The header of the launch a tile is bound to. -/
def State.hdrOf (s : State) (e : BitVec 8) : Header0 :=
  match (s.entry e).hdr with
  | some h => h
  | none =>
    { encv := 3, idem := false, spol := false, tprof := 0, nphase := 64, widw := [], widb := [], tasks := 1, stagger := 0,
      holdb := 2 ^ 32 - 1, ppb := 0, retn := 0, seed := 0, sbase := 0, qstride := 0, tstride := 1, slen := 0, regions := [],
      variants := [], extents := [], phases := [], sections := [] }

/-- Is a region in an RDV wait on this tick? (R71) -/
def State.rdvWaits (s : State) (r : Nat) : Bool := (s.region r).rdv.any fun t => decide (s.ptime.toNat < t)

/-- The regions whose exchange windows follow an RDV with the same Tʹ (R143). (DEDUCED: log 115.) -/
def State.joined (s : State) (r : Nat) : List Nat :=
  match (s.region r).exch with
  | none => [r]
  | some (t, _) => (s.regions.filter fun x => x.2.exch.any fun e => e.1 == t).map fun x => x.1

/-- Does a thermal hold hold a region by itself: every region for as many ticks, those of a die each its stagger after region 0? (R24, R380) (DEDUCED: log 115.) -/
def State.hotHeld (s : State) (r : Nat) : Bool :=
  let late := (s.hdrOf (s.region r).entry).stagger * (s.region r).idx
  let now := s.ptime.toNat
  s.iod.hot.any (fun b => decide (b + late ≤ now)) ||
    s.iod.cooled.any fun w => decide (w.1 + late ≤ now) && decide (now < w.2 + late)

/-- Does a job hold hold a region? (R325, R384) -/
def State.jobHeld (s : State) (r : Nat) : Bool :=
  s.jobHolds.any fun h => h.active && h.job == (s.entry (BitVec.ofNat 8 (r / 32))).job

/-- Does a package-wide or job hold hold a region, its gap between tasks as well? (R77, R141, R143) -/
def State.pkgHeld (s : State) (r : Nat) : Bool :=
  s.jobHeld r || s.hotHeld r || (s.joined r).any fun k => !s.rdvWaits k && s.hotHeld k

/-- The header of the launch of a tile. -/
def State.thdr (s : State) (t : Nat) : Header0 := s.hdrOf (s.tile t).lte

/-- P(r, v) of R28. -/
def posCount (live nodes : Nat) : Nat := min live (4 * nodes)

/-- The logical positions of a region under the running variant (R28). -/
def State.positions (s : State) (e : BitVec 8) (idx : Nat) : Nat :=
  let h := s.hdrOf e
  posCount (h.variants.getD (s.entry e).variant 0) ((h.regions.getD idx (0, 0)).2)

/-- The launch tile numbers a launch has on one die (R17). -/
def dieTiles (h : Header0) (d : Nat) : Nat :=
  (h.regions.map fun r => if r.1.getLsbD d then 4 * r.2 else 0).sum

/-- The first launch tile number on a die (R17). -/
def dieBase (h : Header0) (d : Nat) : Nat := ((List.range d).map (dieTiles h)).sum

/-- The launch tile number of a region's logical position (R17). -/
def launchTile (h : Header0) (d idx lpos : Nat) : Nat :=
  dieBase h d + ((h.regions.take idx).map fun r => if r.1.getLsbD d then 4 * r.2 else 0).sum + lpos

/-- The die, region and logical position a launch tile number stands for, searched from a die's regions (R17). -/
def findPos (h : Header0) (d lt : Nat) : Option (Nat × Nat × Nat) :=
  (List.range h.regions.length).findSome? fun idx =>
    let b := launchTile h d idx 0
    let r := h.regions.getD idx (0, 0)
    if r.1.getLsbD d && decide (b ≤ lt) && decide (lt < b + 4 * r.2) then some (d, idx, lt - b) else none

/-- The physical tile that holds a launch tile number under the running variant (R75, R409). -/
def State.physTile (s : State) (e : BitVec 8) (lt : Nat) : Option Nat :=
  ((List.range 4).findSome? fun d => findPos (s.hdrOf e) d lt).bind fun p =>
    (s.region (e.toNat * 32 + p.1 * 8 + p.2.1)).tiles[p.2.2]?

/-- The launch tile number of a bound tile. -/
def State.ltOf (s : State) (t : Nat) : Nat :=
  launchTile (s.thdr t) (dieOf t) (s.tile t).reg.toNat (s.tile t).lpos.toNat

/-- The region time of a tile, or the local cycle of its block re-run (R155). -/
def State.cycleOf (s : State) (t : Nat) : Nat :=
  match (s.tile t).prim.rerun with
  | some r => r.cyc
  | none => (s.region (s.regionOf t)).rtime

/-! ## Scratchpad as the tile sees it -/

/-- Write bytes from an address into the committed contents. -/
def Tile.putBytes (x : Tile) (a : Nat) (bs : List Byte) : Tile :=
  { x with spad := writeBytes x.spad a bs, ecc := freshWords x.ecc a bs.length }

/-- Set a line's tag. -/
def Tile.setTag (x : Tile) (ln : Nat) (tag : Tag) : Tile :=
  { x with ltag := SMap.set 0 x.ltag ln tag, tecc := SMap.set 0 x.tecc ln 0 }

/-- Apply a store to the committed contents (R152). (DEDUCED: log 48.) -/
def Tile.commitStore (x : Tile) (st : Store) : Tile :=
  let y := st.lines.foldl (fun (y : Tile) ln => y.setTag ln (st.newTag (SMap.get 0 y.ltag ln))) x
  { y with spad := writeCells y.spad st.bytes, ecc := freshCells y.ecc st.bytes }

/-- The tile as a load on a cycle sees it: the committed contents and the buffered stores seen by then (R134, R152). (DEDUCED: log 48.) -/
def Tile.view (x : Tile) (c : Ctx) (cyc : Nat) : Tile :=
  match c with
  | .handler => x.before
  | .secondary => (x.sec.sbuf.filter fun st => decide (st.seen ≤ cyc)).foldl Tile.commitStore x.before
  | .primary => (x.prim.sbuf.filter fun st => decide (st.seen ≤ cyc)).foldl Tile.commitStore x

/-- Read a committed line as a register (R186). -/
def readLine (m : List Host.Cell) (ln : Nat) : VReg := BitVec.ofNat 2048 (readN m (256 * ln) 256)

/-- Write a whole line and its tag (R149). -/
def Tile.putLine (x : Tile) (ln : Nat) (v : VReg) (tag : Tag) : Tile := (x.putBytes (256 * ln) (toBytes 256 v.toNat)).setTag ln tag

/-- The lines a buffer holds, each once (R152). -/
def bufferLines (b : List Store) : List Nat := (b.flatMap fun st => st.lines).dedup

/-- Does a span of bytes hold an uncorrectable word, or its line an uncorrectable tag? (R188) (DEDUCED: log 48.) -/
def Tile.uecc (x : Tile) (a n : Nat) : Bool :=
  ((List.range ((a + n - 1) / 8 - a / 8 + 1)).any fun i => SMap.get 0 x.ecc (a / 8 + i) == 2) ||
    SMap.get 0 x.tecc (a / 256) == 2

/-- The first uncorrectable word a span of bytes touches (R188). -/
def Tile.ueccIn (x : Tile) (a n : Nat) : Option Nat :=
  ((List.range ((a + n - 1) / 8 - a / 8 + 1)).find? fun i => SMap.get 0 x.ecc (a / 8 + i) == 2).map fun i => 8 * (a / 8 + i)

/-- Does a line hold an uncorrectable word or an uncorrectable tag? (R188) -/
def Tile.ueccLine (x : Tile) (ln : Nat) : Bool := x.uecc (256 * ln) 256

/-- The first uncorrectable word of a line (R188). -/
def Tile.ueccWord (x : Tile) (ln : Nat) : Option Nat :=
  ((List.range 32).find? fun i => SMap.get 0 x.ecc (32 * ln + i) == 2).map fun i => 256 * ln + 8 * i

/-- The first uncorrectable word of a 64-byte sector (R188, R297). -/
def Tile.ueccSector (x : Tile) (a : Nat) : Option Nat :=
  ((List.range 8).find? fun i => SMap.get 0 x.ecc (a / 8 + i) == 2).map fun i => a + 8 * i

/-- Count and correct the single-bit errors a read of a line meets (R188). (DEDUCED: log 48.) -/
def Tile.scrub (x : Tile) (ln : Nat) : Tile :=
  let hits := (List.range 32).filter fun i => SMap.get 0 x.ecc (32 * ln + i) == 1
  let tg := if SMap.get 0 x.tecc ln == 1 then 1 else 0
  { x with soft := x.soft + hits.length + tg,
           ecc := hits.foldl (fun m i => SMap.set 0 m (32 * ln + i) 0) x.ecc,
           tecc := if tg = 1 then SMap.set 0 x.tecc ln 0 else x.tecc }

/-! ## Event records -/

/-- The reset value of an action-table entry (R347, R348). -/
def actionReset (code : Nat) : BitVec 16 :=
  let lock : Nat := if code ∈ [0x19, 0x1D, 0x23] then 0x8000 else 0
  let snap : Nat := if code ∈ [0x04, 0x05, 0x06, 0x0D, 0x0E, 0x10, 0x11, 0x19, 0x1B, 0x1D, 0x20] then 0x80 else 0
  let health : Nat := if code ∈ [0x09, 0x0A, 0x0B, 0x0C] then 0x40 else 0
  let act : Nat :=
    if code ∈ [0x03, 0x1F, 0x21, 0x22, 0x23] then 3
    else if code ∈ [0x1A, 0x1B, 0x1C] then 4
    else if code ∈ [0x09, 0x0A, 0x0B, 0x0C, 0x0F, 0x12, 0x13, 0x15] then 1
    else if code ∈ [0x04, 0x05, 0x06, 0x0D, 0x0E, 0x10, 0x11, 0x19, 0x1D, 0x1E, 0x20] then 2
    else 0
  if code = 0 ∨ 0x23 < code then 0 else BitVec.ofNat 16 (lock + snap + health + act)

/-- An action-table entry (R348). -/
def State.action (s : State) (d code : Nat) : BitVec 16 := SMap.get (actionReset code) (s.die d).actions code

/-- Are two records of one kind, so that a full FIFO coalesces them? (R366) -/
def EvRec.like (a b : EvRec) : Bool := a.code == b.code && a.warn == b.warn && (!a.warn || a.info == b.info)

/-- A record joins a holding FIFO of 16, or is coalesced or dropped; whether LOST is owed (R366). -/
def pushFifo (f : List EvRec) (r : EvRec) : List EvRec × Bool :=
  if f.length < 16 then (f ++ [r], false)
  else
    match f.findIdx? (EvRec.like r) with
    | some i => (f.modify i fun x => { x with count := min 65535 (x.count + 1) }, true)
    | none => (f, true)

/-- How many queue entries a source has, 0 to 3 for reserved ones of a die, 4 for the shared (R366). -/
def inUse (q : List (Nat × EvRec)) (k : Nat) : Nat := (q.filter fun e => e.1 == k).length

/-- The queue entry a record of a source may take, if any (R366). -/
def freeEntry (q : List (Nat × EvRec)) (src : Nat) : Option Nat :=
  if inUse q 4 < 992 then some 4 else if src < 4 && decide (inUse q src < 8) then some src else none

/-- Post a record toward the event queue (R366): the queue, its source's FIFO, or lost. -/
def State.postQueue (s : State) (r : EvRec) : State :=
  let fifo := if r.die < 4 then (s.die r.die).fifo else if r.die = 4 then s.iod.fifo else s.iod.tfifo
  let lost := if r.die < 4 then (s.die r.die).lostNext else if r.die = 4 then s.iod.lostI else s.iod.lostT
  match (if fifo.isEmpty then freeEntry s.iod.queue r.die else none) with
  | some k =>
    let s := { s with iod := { s.iod with queue := s.iod.queue ++ [(k, { r with lost := lost })] } }
    if r.die < 4 then s.updDie r.die fun d => { d with lostNext := false }
    else if r.die = 4 then { s with iod := { s.iod with lostI := false } }
    else { s with iod := { s.iod with lostT := false } }
  | none =>
    let p := pushFifo fifo r
    if r.die < 4 then s.updDie r.die fun d => { d with fifo := p.1, lostNext := d.lostNext || p.2 }
    else if r.die = 4 then { s with iod := { s.iod with fifo := p.1, lostI := s.iod.lostI || p.2 } }
    else { s with iod := { s.iod with tfifo := p.1, lostT := s.iod.lostT || p.2 } }

/-- Every launch with a region on a die. -/
def State.launchesOn (s : State) (d : Nat) : List (BitVec 8) :=
  ((s.regions.filter fun r => r.2.die == d).map fun r => r.2.entry).dedup

/-- A region frozen where it stands. -/
def RegionSt.freeze : RegionSt → RegionSt
  | .running => .frozen 0
  | .placed => .frozen 1
  | .waiting t => .frozen (t + 2)
  | x => x

/-- A frozen region taken up again (R375). -/
def RegionSt.thaw : RegionSt → RegionSt
  | .frozen 0 => .running
  | .frozen 1 => .placed
  | .frozen (t + 2) => .waiting t
  | x => x

/-- Has the issue part of the tick been done? (DEDUCED: log 2.) -/
def Stage.issued : Stage → Bool
  | .next => true
  | .commit => false
  | .issue => false
  | .engines => true
  | .late => true
  | .close => true

/-- A region frozen on this tick, which counts as a hold's (R350, R374, R375); a cycle it has done on the tick is over. -/
def Region.freeze (r : Region) (now : Nat) (ran : Bool) : Region :=
  { r with st := r.st.freeze, since := if r.held then r.since else now, held := true,
           rtime := match r.st with
             | .running => if ran && !r.held then r.rtime + 1 else r.rtime
             | _ => r.rtime }

/-- Freeze a region. -/
def State.freezeRegion (s : State) (r : Region) : Region := r.freeze s.ptime.toNat s.stage.issued

/-- Freeze every region of a running launch and start the save of its context; one that has not been released cannot be parked (R65, R350, R370, R374). -/
def State.park (s : State) (e : BitVec 8) : State :=
  if (s.entry e).saving ∨ (s.entry e).st ≠ .running then s
  else
    let s := s.mapRegions fun _ r => if r.entry = e then s.freezeRegion r else r
    let s := s.updEntry e fun x => { x with saving := true }
    (s.after (Nat.min s.delay 44000) (.contextSaveDone e)).spend

/-- Post a fatal record to its die's mailbox; a full one parks every launch of the die and halts it (R367). -/
def State.postFatal (s : State) (r : EvRec) : State :=
  match (s.die r.die).mailbox with
  | none => s.updDie r.die fun d => { d with mailbox := some { r with fatal := true } }
  | some old =>
    let s := s.updDie r.die fun d => { d with mailbox := some { old with lost := true }, halted := true }
    (s.launchesOn r.die).foldl State.park s

/-- Post a record: DOUBLE, PRIV and handler-area UECC go to the mailbox, the rest to the queue (R364, R367). -/
def State.post (s : State) (r : EvRec) : State :=
  if r.code = 0x1D || r.code = 0x19 || (r.code = 0x09 && r.harea) then s.postFatal r else s.postQueue r

/-- A record with every optional field clear. -/
def EvRec.base (s : State) (d : Nat) : EvRec :=
  { code := 0, fatal := false, lost := false, warn := false, superseded := false, harea := false, hm := false,
    nrforced := false, act := 3, count := 1, die := d, lte := 0xFF, ltile := 0x1FF, info := 0, mask := 0, asid := 0, rcyc := 0,
    ptime := s.ptime, addr := 0 }

/-- A warning record, the fields no rule gives it left open (R365). (DESIGN CHOICE: log 8.) -/
def EvRec.warning (s : State) (d : Nat) : EvRec :=
  let x := Config.warnFields s.nfree
  { EvRec.base s d with warn := true, act := x.1, mask := x.2.1, rcyc := x.2.2 }

/-- The record of a package cause, its region cycle left open (R352). (DESIGN CHOICE: log 8.) -/
def EvRec.package (s : State) (d : Nat) : EvRec := { EvRec.base s d with rcyc := Config.packageCycle s.nfree }

/-- Post a warning record (R365). -/
def State.warn (s : State) (d : Nat) (kind : Byte) (lte : BitVec 8) (ltile : BitVec 9) (addr : W64) : State :=
  (s.post { EvRec.warning s d with info := kind, lte := lte, ltile := ltile, addr := addr }).spend

/-- A trigger that a held snapshot keeps from latching is counted (R383). -/
def State.missedTrigger (s : State) : State :=
  { s with iod := { s.iod with missed := if s.iod.missed = 0xFFFF then 0xFFFF else s.iod.missed + 1 } }

/-- Raise the common snapshot trigger (R382, R383): a held snapshot, or one that latches on this very tick, counts it as missed; the lowest source of a tick names it. (DEDUCED: log 68.) -/
def State.snapTrigger (s : State) (src : BitVec 3) (tag : Byte) : State :=
  if s.iod.snapFull then s.missedTrigger
  else
    match s.iod.snapAt with
    | none =>
      { s with iod := { s.iod with snapAt := some (s.ptime.toNat, src, tag) },
               pending := s.pending ++ [(s.ptime.toNat + 64, .snapshotLatch, .none)] }
    | some (t, src0, _) =>
      if t + 64 ≤ s.ptime.toNat then s.missedTrigger
      else if t = s.ptime.toNat && decide (src < src0) then { s with iod := { s.iod with snapAt := some (t, src, tag) } } else s

/-! ## Raising and taking a trap -/

/-- A cause from an engine, a delivery or a transfer unit, for the next commit point of the tile (R344). -/
def State.raiseExt (s : State) (t : Nat) (code : BitVec 6) (info : BitVec 8) (addr : W64) (mask : BitVec 8 := 0) (area : Bool := false) : State :=
  s.updTile t fun x => { x with pend := x.pend ++ [⟨code, mask, info, addr, true, area⟩] }

/-- The lowest slot of a mask, 8 when none: TMASK 0 counts as after K (R344). -/
def lowSlot (m : BitVec 8) : Nat := ((List.range 8).find? fun i => m.getLsbD i).getD 8

/-- Does a cause come before another in the order of R344? -/
def Cause.before (a b : Cause) : Bool :=
  if a.code = 1 then true else if b.code = 1 then false
  else if lowSlot a.mask < lowSlot b.mask then true
  else if lowSlot b.mask < lowSlot a.mask then false
  else decide (a.code ≤ b.code)

/-- The cause taken among those of one commit point (R344). (DEDUCED: log 30.) -/
def chooseCause : List Cause → Option Cause
  | [] => none
  | c :: cs =>
    match chooseCause cs with
    | none => some c
    | some d => some (if c.before d then c else d)

/-- TMASK of a cause: its own slots, and every slot of the bundle that raised a cause on the commit point; a cause from outside the bundle that is not taken adds none (R344). -/
def allMask (cs : List Cause) (k : Cause) : BitVec 8 := (cs.filter fun c => !c.ext).foldl (fun m c => m ||| c.mask) k.mask

/-- The record of a trap a tile takes (R364). (DEDUCED: log 31.) -/
def State.trapRec (s : State) (k : Taken) : EvRec :=
  let x := s.tile k.tile
  { EvRec.base s (dieOf k.tile) with
    code := k.cause.code, harea := k.harea, hm := k.hm, nrforced := k.nrforced, act := k.act, lte := x.lte,
    ltile := BitVec.ofNat 9 (s.ltOf k.tile), info := k.cause.info, mask := k.cause.mask,
    rcyc := BitVec.ofNat 32 k.pc, addr := k.cause.addr }

/-- A trap is taken: the die's action entry is read, TCAUSE, TPC, TMASK and TADDR written, the snapshot and health counts made (R344, R347, R348, R351). `pc` is TPC, `cyc` the region cycle the record shows. (DEDUCED: log 31, 38.) -/
def State.take (s : State) (t : Nat) (c : Cause) (mask : BitVec 8) (pc cyc : Nat) (sec nrforced harea : Bool) : State :=
  let x := s.tile t
  let d := dieOf t
  let code := if harea then 0x1D else c.code.toNat
  let ent := s.action d code
  let hm := x.hm.isSome && !sec
  let s := s.updTile t fun x =>
    { x with tcause := BitVec.ofNat 64 (c.info.toNat * 256 + c.code.toNat),
             tpc := BitVec.ofNat 33 ((if sec then 2 ^ 32 else 0) + pc), tmask := mask, taddr := c.addr,
             fails := if ent.getLsbD 6 && decide (x.fails < 15) then x.fails + 1 else x.fails }
  let s := if ent.getLsbD 7 then s.snapTrigger 1 (BitVec.ofNat 8 c.code.toNat) else s
  { s with taken := s.taken ++ [⟨t, { c with mask := mask }, ent.extractLsb' 0 3, cyc, sec, nrforced, hm, harea⟩] }

/-- Post the causes from outside the bundle among those of a commit point that are not taken (R344). -/
def State.dropCauses (s : State) (t : Nat) (cyc : Nat) (cs : List Cause) : State :=
  cs.foldl (fun s d => if d.ext then
    s.post { s.trapRec ⟨t, d, 3, cyc, false, false, false, false⟩ with superseded := true } else s) s

/-- Post the causes of a commit point that are not taken and came from outside the bundle (R344). -/
def State.supersede (s : State) (t : Nat) (cyc : Nat) (cs : List Cause) (c : Cause) : State := s.dropCauses t cyc (cs.erase c)

/-! ## Entering and leaving handler mode -/

/-- The registers a capture starts from, with each record's register value as it will land (R358). (DEDUCED: log 45.) -/
def captureAll (g : Regs) (c : Nat) : List Result → Nat → List Host.Cell → List Host.Cell
  | [], _, m => m
  | r :: rs, i, m =>
    let g' := g.land r false
    let kr : Nat × BitVec 6 × BitVec 64 × VReg := match r.dest with
      | .s d => (0, d, r.value.setWidth 64, 0)
      | .v d => (1, d, 0, rd g'.v d)
      | .p d => (2, d.setWidth 6, r.value.setWidth 64, 0)
      | .q d => (3, d.setWidth 6, if d = 0 then r.value.setWidth 64 else rd g'.q d, 0)
    let w := 2 ^ 31 + kr.1 * 2 ^ 28 + kr.2.1.toNat * 2 ^ 22 + r.vf.toNat * 2 ^ 15 + r.mf.toNat * 2 ^ 11
    let tag : Tag := match r.dest with
      | .s _ => r.tag
      | .v _ => r.tag
      | _ => 0
    let m := writeBytes m (0x200 + 32 * i) (toBytes 4 w ++ toBytes 2 tag.toNat ++ toBytes 2 (r.land - c) ++
      toBytes 8 kr.2.2.1.toNat ++ toBytes 16 0)
    let m := if kr.1 = 1 then writeBytes m (0x600 + 256 * i) (toBytes 256 kr.2.2.2.toNat) else m
    captureAll g' c rs (i + 1) m

/-- The 24 bytes of a loop level in the frame (R356). -/
def levelBytes (l : Level) : List Byte :=
  toBytes 4 l.start ++ toBytes 4 (l.fl.toNat * 2 ^ 29 + l.last % 2 ^ 29) ++ toBytes 8 l.count.toNat ++ toBytes 8 l.index.toNat

/-- Results in the order of their records: landing cycle, then issue cycle, then slot (R358). (DEDUCED: log 45.) -/
def resultLe (a b : Result) : Bool :=
  if a.land ≠ b.land then decide (a.land < b.land)
  else if a.issue ≠ b.issue then decide (a.issue < b.issue) else decide (a.slot ≤ b.slot)

/-- Insert into a list sorted by a relation, behind its equals. -/
def insertBy {α : Type} (le : α → α → Bool) (x : α) : List α → List α
  | [] => [x]
  | y :: ys => if le y x then y :: insertBy le x ys else x :: y :: ys

/-- Sort, keeping the order of equals. -/
def sortBy {α : Type} (le : α → α → Bool) (xs : List α) : List α := xs.foldl (fun ys x => insertBy le x ys) []

/-- The vector's place of a cause that may take HANDLE (R353). -/
def vectorAt (code : BitVec 6) : Nat :=
  if code = 0x1A then 0 else if code = 0x1B then 4 else if code = 0x1C then 8 else 12

/-- DOUBLE on a tile that enters handler mode or fetches its first handler bundle (R361): the tile issues nothing further, and the trap is taken at its next commit point. (DEDUCED: log 116.) -/
def State.double (s : State) (t : Nat) : State :=
  s.updTile t fun x => { x with hm := x.hm.map fun h => { h with next := 2 ^ 64, issued := none }, pend := x.pend ++ [⟨0x1D, 0, 0, 0, false, false⟩] }

/-- The error marks after a trap frame is written: every word of its header and its records, and the value slots of its vector records (R188, R356, R357). -/
def frameMarks (ecc : SMap (BitVec 2)) (rs : List Result) : SMap (BitVec 2) :=
  rs.zipIdx.foldl (fun e r => match r.1.dest with
    | .v _ => freshWords e (0x600 + 256 * r.2) 256
    | _ => e) (freshWords ecc 0x100 0x500)

/-- Enter handler mode (R354 to R358): write the trap frame, start at the vector of the cause, with empty loop and return stacks, on tick T + 9 + NREC. TCAUSE, TPC, TMASK and TADDR are already written. The lines of the vectors, of the header and of the records are read. (DEDUCED: log 116.) -/
def State.enterHandler (s : State) (t : Nat) (c : Nat) : State :=
  let x := (List.range 6).foldl (fun (x : Tile) ln => x.scrub ln) (s.tile t)
  let g := x.prim.regs
  let rs := sortBy resultLe (x.prim.inflight.filter fun r => decide (c ≤ r.land))
  let n := rs.length
  let lv := x.prim.loops
  let stw := g.ec.toNat + g.rrb.toNat * 2 ^ 8 + g.epoch.toNat * 2 ^ 16 + lv.length * 2 ^ 24
  let m := writeBytes x.spad 0x100 (toBytes 8 x.tcause.toNat ++ toBytes 8 x.tpc.toNat ++ toBytes 8 x.tmask.toNat ++
    toBytes 8 x.taddr.toNat ++ toBytes 8 c ++ toBytes 8 s.ptime.toNat ++ toBytes 8 g.lc.toNat ++ toBytes 4 stw ++ toBytes 4 n)
  let m := writeBytes m 0x140 ((lv.flatMap levelBytes) ++ toBytes (24 * (6 - lv.length)) 0)
  let m := writeBytes m 0x1D0 (([60, 61, 62, 63] : List (BitVec 6)).flatMap fun i => toBytes 8 (rd g.s i).toNat)
  let m := writeBytes m 0x1F0 ((([60, 61, 62, 63] : List (BitVec 6)).flatMap fun i => toBytes 2 (rd g.st i).toNat) ++ toBytes 8 0)
  let m := captureAll g c rs 0 m
  let m := writeBytes m (0x200 + 32 * n) (toBytes (32 * (32 - n)) 0)
  let vec := readN m (vectorAt (BitVec.ofNat 6 x.tcause.toNat)) 4
  let first := s.ptime.toNat + 9 + n
  let bad := decide (vec < 0x2600) || decide (0xFFFC < vec) || decide (vec % 4 ≠ 0) || (List.range 6).any x.ueccLine
  let s := s.setTile t { x with
    spad := m, ecc := frameMarks x.ecc rs,
    hm := some { since := s.ptime.toNat, first := first, cyc := c, pc := vec / 4, next := first, flight := [], delayed := [], rstack := [],
                 waiting := false, issued := none, started := false, leaving := false },
    prim := { x.prim with loops := [], inflight := x.prim.inflight.filter fun r => decide (r.land < c),
                          regs := { g with lc := 0, ec := 0, rrb := 0 } } }
  if bad then s.double t else s

/-- The record of the frame at an index, as a result (R357, R359). (DEDUCED: log 45.) -/
def frameRecord (m : List Host.Cell) (c i : Nat) : Option Result :=
  let a := 0x200 + 32 * i
  let w := readN m a 4
  let reg := field w 22 6
  let land := c + readN m (a + 6) 2
  let mk := fun (d : Dest) (v : Nat) => some (Result.mk land 0 i d (BitVec.ofNat 2048 v) (BitVec.allOnes 64)
    (BitVec.ofNat 16 (readN m (a + 4) 2)) (BitVec.ofNat 7 (field w 15 7)) (BitVec.ofNat 4 (field w 11 4)))
  if field w 31 1 = 0 then none
  else match field w 28 3 with
    | 0 => mk (.s (BitVec.ofNat 6 reg)) (readN m (a + 8) 8)
    | 1 => mk (.v (BitVec.ofNat 6 reg)) (readN m (0x600 + 256 * i) 256)
    | 2 => mk (.p (BitVec.ofNat 4 reg)) (readN m (a + 8) 8 % 2)
    | 3 => mk (.q (BitVec.ofNat 3 reg)) (readN m (a + 8) 8)
    | _ => none

/-- The loop level of the frame at an index (R356). -/
def frameLevel (m : List Host.Cell) (i : Nat) : Level :=
  let a := 0x140 + 24 * i
  let w := readN m (a + 4) 4
  { start := readN m a 4, last := w % 2 ^ 29, count := BitVec.ofNat 64 (readN m (a + 8) 8),
    index := BitVec.ofNat 64 (readN m (a + 16) 8), fl := BitVec.ofNat 3 (w / 2 ^ 29) }

/-- The lines of the handler area that leaving reads: the frame's header, its records, and the value slots of its vector records (R359). (DEDUCED: log 116.) -/
def Tile.frameLines (x : Tile) : List Nat :=
  [1, 2, 3, 4, 5] ++ ((List.range 32).filter fun i => field (readN x.spad (0x200 + 32 * i) 4) 28 4 = 9).map fun i => 6 + i

/-- Leave handler mode on the tick after RETT's commit (R359): restore what the frame marks restored, clear HM, re-inject the records at C + REMAIN, and issue the bundle at TPC at cycle C. (DEDUCED: log 32.) -/
def State.leaveHandler (s : State) (t : Nat) : State :=
  let x := s.tile t
  match x.hm with
  | none => s
  | some h =>
    let m := x.spad
    let stw := readN m 0x138 4
    let depth := Nat.min 6 (field stw 24 3)
    let g := x.prim.regs
    let g := { g with
      lc := BitVec.ofNat 64 (readN m 0x130 8), ec := BitVec.ofNat 8 (field stw 0 8), rrb := BitVec.ofNat 5 (field stw 8 5),
      epoch := BitVec.ofNat 8 (field stw 16 8) }
    let g := (List.range 4).foldl (fun g i =>
      let r := BitVec.ofNat 6 (60 + i)
      { g with s := wr g.s r (BitVec.ofNat 64 (readN m (0x1D0 + 8 * i) 8)),
               st := wr g.st r (BitVec.ofNat 16 (readN m (0x1F0 + 2 * i) 2)) }) g
    let recs := (List.range 32).filterMap (frameRecord m h.cyc)
    s.setTile t { x.frameLines.foldl (fun (x : Tile) ln => x.scrub ln) x with
      hm := none,
      prim := { x.prim with regs := g, loops := (List.range depth).map (frameLevel m), pc := x.tpc.toNat % 2 ^ 32,
                            inflight := x.prim.inflight ++ recs } }

end Sys2Proof.Machine
end

