-- ==== Sys2Proof/Machine/Flags.lean ====
section
/-! DEFINITION. Every flag and condition the spec computes: integer compares, predicate and mask logic, the sticky flags of vector results and accumulations (R163, R209, R210, R221, R51). -/

namespace Sys2Proof.Machine

/-- The condition codes of CMP and VCMP over `w`-bit patterns (R105, R163, R209). -/
def condI {w : Nat} (f : BitVec 3) (a b : BitVec w) : Bool :=
  match f with
  | 0 => a == b
  | 1 => a != b
  | 2 => a.slt b
  | 3 => a.ult b
  | 4 => b.sle a
  | _ => b.ule a

/-- The condition codes of CMPI (R105, R163). -/
def condImm (c : BitVec 2) (a i : W64) : Bool :=
  match c with
  | 0 => a == i
  | 1 => a != i
  | 2 => a.slt i
  | _ => i.sle a

/-- PLOG's operation (R163). -/
def plogOp (f : BitVec 3) (a b : Bool) : Bool :=
  match f with
  | 0 => a && b
  | 1 => a || b
  | 2 => a != b
  | 3 => a && !b
  | 4 => !a
  | _ => a

/-- QLOG's operation, bit by bit (R221). -/
def qlogOp (f : BitVec 3) (a b : BitVec 64) : BitVec 64 :=
  match f with
  | 0 => a &&& b
  | 1 => a ||| b
  | 2 => a ^^^ b
  | 3 => a &&& ~~~ b
  | 4 => ~~~ a
  | _ => a

/-- The OR of the flags of the lanes of a mask (R206). -/
def lanesFlags (m : BitVec 64) (g : Nat → VFl) : VFl := (lanesOf m).foldl (fun f l => f ||| g l) 0

/-- IEEE flags of a conversion keep to VFLAGS, LSAT flags of a K or M conversion go to MFLAGS (R55). -/
def ieeeOnly (f : VFl) : VFl := f &&& 0x1F

end Sys2Proof.Machine
end

