-- ==== Sys2Proof/Machine/Operands.lean ====
section
/-! DEFINITION. The operand forms: immediates, extent addresses, basin references, scratchpad addresses and their checks, system registers as read (R85, R86, R162, R164, R190 to R202, R289). -/

namespace Sys2Proof.Machine

/-- A syllable with predicate `p`: its effect when p[BP] and p[PR] hold, nothing otherwise (R101). (DEDUCED: log 51.) -/
def State.when (s : State) (p : BitVec 4) (f : State → State) : Out := .next (if s.on p then f s else s)

/-- A sign-extended immediate (R161, R162). -/
def imm64 {n : Nat} (i : BitVec n) : W64 := i.signExtend 64

/-! ## Extents -/

/-- The declaration an extent address names, and its offset (R86, R162). -/
def extIndex (e : W64) : Nat := e.toNat / 2 ^ 59
def extOffset (e : W64) : Nat := e.toNat % 2 ^ 59

/-- The declared extent of an index in a tile's launch. -/
def State.extent (s : State) (t i : Nat) : Option ExtentDecl := (s.thdr t).extents[i]?

/-- Does a byte range of an extent lie in it and carry the attributes asked for? (R86) -/
def ExtentDecl.covers (x : ExtentDecl) (o : Int) (n : Nat) (r w : Bool) : Bool :=
  (n == 0 || (decide (0 ≤ o) && decide (o + n ≤ x.len))) && (!r || x.r) && (!w || x.w)

/-- The owning die of PRIVATE lines: the lowest die the launch's regions name (R277). -/
def ownerDie (h : Header0) : Nat := ((List.range 4).find? fun d => h.regions.any fun r => r.1.getLsbD d).getD 0

/-- May the tile's die reach a CACHED extent through the cached path? (R277) -/
def State.ownsPrivate (s : State) (t : Nat) (x : ExtentDecl) : Bool :=
  x.cls != 1 || x.coh != 0 || decide (dieOf t = ownerDie (s.thdr t))

/-- The physical address of an offset of a CACHED extent (R83). -/
def State.cachedPA (s : State) (t i o : Nat) : Option Nat :=
  (((s.entry (s.tile t).lte).phys.getD i ⟨[], [], []⟩).runs.find? fun r => decide (r.1 ≤ o) && decide (o < r.1 + r.2.2)).map
    fun r => r.2.1 + (o - r.1)

/-- The virtual address of an offset of an extent. -/
def State.extVA (s : State) (t i o : Nat) : Nat := ((s.extent t i).map fun x => x.vbase + o).getD 0

/-! ## Basin references -/

/-- Is a basin reference malformed? (R289) -/
def State.badRef (s : State) (t : Nat) (b : BasinRef) (localOnly : Bool) : Bool :=
  let n := b.toNat
  let addr := n % 2 ^ 22
  decide (n ≠ 0) &&
  (decide (field n 22 17 ≠ 0) || decide (n % 16 ≠ 0) || decide (addr < 0x10000) || (localOnly && b.getLsbD 63) ||
   (!b.getLsbD 63 && decide (field n 39 24 ≠ 0)) ||
   (b.getLsbD 63 && decide (field n 48 15 = (s.entry (s.tile t).lte).rank.toNat) &&
      (s.physTile (s.tile t).lte (field n 39 9)).isNone))

/-- The basin of a scratchpad address as its tile holds it (R304). -/
def basinAt (m : List Host.Cell) (a : Nat) : Nat := readN m a 16

/-- The phase, and whether OVF or ERR is set (R304). -/
def basinPhase (b : Nat) : Nat := b % 16
def basinBad (b : Nat) : Bool := b.testBit 4 || b.testBit 5

/-! ## Gates -/

/-- What a gate says (R139); `bad` when its basin holds an uncorrectable word (R188). -/
inductive GateOut where
  | proceed
  | hold
  | error
  | miss
  | bad
  deriving DecidableEq, Repr

/-- Evaluate a gate register on the basin as it stood when the tick began (R139). -/
def evalGate (m : List Host.Cell) (g : W64) (hold : Bool) : GateOut :=
  if !g.getLsbD 63 then .proceed
  else
    let b := basinAt m (g.toNat % 2 ^ 22)
    if basinBad b then .error
    else if basinPhase b = field g.toNat 52 4 then .proceed
    else if hold then .hold else .miss

/-- A gate register as a stream's writes that land by a cycle leave it (R134, R177). -/
def Stream.gateReg (x : Stream) (cyc : Nat) (g : BitVec 3) : W64 :=
  ((x.delayed.filterMap fun (d : Delayed) => match d.op with
    | .sysreg i v => if i.toNat = 0x18 + g.toNat ∧ d.at_ ≤ cyc then some (v &&& 0x80F00000003FFFFF) else none
    | _ => none).getLast?).getD (rd x.regs.g g)

/-- The basin a gate of a context reads on a cycle, when it is enabled (R138, R139). -/
def Tile.gateBasin (x : Tile) (c : Ctx) (cyc : Nat) (g : Option (BitVec 3 × Bool)) : Option Nat :=
  g.bind fun g =>
    let v := (x.stream c).gateReg cyc g.1
    if v.getLsbD 63 then some (v.toNat % 2 ^ 22) else none

/-- The state of a gate of a context on a cycle (R139, R188). -/
def Tile.gateState (x : Tile) (c : Ctx) (cyc : Nat) (g : Option (BitVec 3 × Bool)) : GateOut :=
  if (x.gateBasin c cyc g).any fun a => x.uecc a 16 then .bad
  else (g.map fun g => evalGate x.spad0 ((x.stream c).gateReg cyc g.1) g.2).getD .proceed

/-- TADDR of a cause a gate raises: the uncorrectable word of its basin, free for any other cause (R139, R188). (DESIGN CHOICE: log 7.) -/
def State.gateAddr (s : State) (x : Tile) (c : Ctx) (cyc : Nat) (g : Option (BitVec 3 × Bool)) : W64 :=
  (((x.gateBasin c cyc g).bind fun a => x.ueccIn a 16).map (BitVec.ofNat 64)).getD s.anyAddr

/-! ## Declared sets and scratchpad checks -/

/-- Does a phase-table word hold a line? (R33) -/
def rangeHas (w ln : Nat) : Bool := w.testBit 28 && decide (w % 2 ^ 14 ≤ ln) && decide (ln ≤ field w 14 14)

/-- The eight ranges of an engine's read or write set in a phase (R33). Engines: 0 PRIMARY, 1 MATRIX, 2 FAR, 3 CHANNEL, 4 MESH, 5 SECONDARY. -/
def setWords (h : Header0) (ph eng : Nat) (write : Bool) : List Nat :=
  (h.phases.drop ((ph * 6 + eng) * 16 + if write then 8 else 0)).take 8

/-- Does an engine's declared set hold a line in a phase? (R197) -/
def inSet (h : Header0) (ph eng : Nat) (write : Bool) (ln : Nat) : Bool := (setWords h ph eng write).any fun w => rangeHas w ln

/-- INFO of a SET_VIOLATION (R196). -/
def setInfo (eng : Nat) (write : Bool) (reason : Nat) : BitVec 8 :=
  BitVec.ofNat 8 (eng * 16 + (if write then 8 else 0) + reason)

/-- The engine a stream's data accesses count as; none in handler mode (R197). -/
def ctxEngine : Ctx → Option Nat
  | .primary => some 0
  | .secondary => some 5
  | .handler => none

/-- A lane's access: its lane and its byte address, before any narrowing. -/
abbrev Access := Nat × Int

/-- Is an access no multiple of its size? -/
def misaligned (z : Nat) (x : Access) : Bool := decide (x.2 % (z : Int) ≠ 0)

/-- The lowest access that breaks a set rule, and the reason; with the lines a store buffer holds, the first line that would be its 65th breaks one too (R152, R202). -/
def firstOut (out : Access → Option Nat) : Option (List Nat) → List Access → Option (Access × Nat)
  | _, [] => none
  | none, x :: xs => match out x with
    | some r => some (x, r)
    | none => firstOut out none xs
  | some buf, x :: xs => match out x with
    | some r => some (x, r)
    | none =>
      if x.2.toNat / 256 ∈ buf then firstOut out (some buf) xs
      else if 64 ≤ buf.length then some (x, 2) else firstOut out (some (x.2.toNat / 256 :: buf)) xs

/-- The first failing of the checks PRIV, ALIGN and SET_VIOLATION of R168, R202 and R270, over accesses in lane order, in a phase; `buf` are the lines of the store buffer a store goes to. -/
def State.spadCheck (s : State) (t : Nat) (hm : Bool) (eng : Option Nat) (write : Bool) (bad : Access → Bool) (ph : Nat)
    (buf : Option (List Nat)) (xs : List Access) : Option (BitVec 6 × BitVec 8 × W64) :=
  let adr := fun (a : Int) => BitVec.ofInt 64 a
  match (if hm then none else xs.find? fun x => decide (x.2 < 0x10000)) with
  | some x => some (0x19, s.anyInfo, adr x.2)
  | none =>
    match xs.find? bad with
    | some x => some (0x08, s.anyInfo, adr x.2)
    | none =>
      let h := s.thdr t
      let code := eng.getD 0
      let out := fun (x : Access) =>
        if x.2 < 0 ∨ 0x400000 ≤ x.2 then some 1
        else match eng with
          | none => none
          | some e => if inSet h ph e write (x.2.toNat / 256) then none else some 0
      (firstOut out buf xs).map fun x => (0x06, setInfo code write x.2, adr x.1.2)

/-- The lines a list of accesses touches, each once, in the order of the lowest lane, with that lane's address (R200, R201). -/
def touched : List Access → List (Nat × Nat)
  | [] => []
  | x :: xs =>
    let ln := x.2.toNat / 256
    (ln, x.2.toNat) :: (touched xs).filter fun y => y.1 ≠ ln

/-- The first line that shares a bank with a line before it (R191, R202). -/
def bankTwice : List (Nat × Nat) → List Nat → Option Nat
  | [], _ => none
  | (ln, a) :: xs, seen => if ln % 32 ∈ seen then some a else bankTwice xs (ln % 32 :: seen)

/-- How many cycles an asynchronous syllable's lines take, one line of a bank a cycle (R192). -/
def bankTurns (xs : List (Nat × Nat)) : Nat :=
  (List.range 32).foldl (fun m b => max m (xs.filter fun x => x.1 % 32 == b).length) 0

/-- TADDR of a BANK_CONFLICT on a scratchpad bank (R196). -/
def bankAddr (write : Bool) (a : Nat) : W64 := BitVec.ofNat 64 ((if write then 2 ^ 62 else 0) + a)

/-- A use of a bank port by a timed syllable; `write` ports are used two cycles on (R190). -/
def State.usePort (s : State) (write : Bool) (code : Nat) (ln a : Nat) : State :=
  if write then s.emit (.delay ⟨s.landAt 2, s.cur.slot, .port code ln a⟩)
  else s.updTile s.cur.tile fun x =>
    { x with uses := x.uses ++ [⟨false, ln % 32, false, ln, code, slotBit s.cur.slot, a⟩] }

/-- The read-port uses of this tick, or the write-port uses this bundle has asked for, that meet a bank (R191). (DESIGN CHOICE: log 132.) -/
def State.clashWith (s : State) (write : Bool) (bank : Nat) : Option (BitVec 8 × Nat × Nat) :=
  if write then
    match (s.ctile.stream s.cur.ctx).issued with
    | none => none
    | some b => b.effects.findSome? fun e => match e with
      | .delay ⟨_, sl, .port code ln a⟩ => if ln % 32 = bank ∧ sl ≠ s.cur.slot then some (slotBit sl, code, a) else none
      | _ => none
  else (s.ctile.uses.find? fun u => !u.acc && !u.wr && u.bank == bank && u.mask != slotBit s.cur.slot).map
    fun u => (u.mask, u.code, u.addr)

/-- Take the ports of a timed syllable's lines, raising BANK_CONFLICT at the first clash: two of its own lines, or a line of another syllable of the bundle (R191, R202). The answer's second part says whether it clashed. (DESIGN CHOICE: log 132.) -/
def State.takePorts (s : State) (write : Bool) (code : Nat) (ls : List (Nat × Nat)) : State × Bool :=
  match bankTwice ls [] with
  | some a => (s.raise 0x04 (BitVec.ofNat 8 (code * 17)) (bankAddr write a), true)
  | none =>
    match ls.findSome? fun x => (s.clashWith write (x.1 % 32)).map fun c => (x, c) with
    | some (x, m, c, a) =>
      let lo := min code c
      let hi := max code c
      let addr := if c = 0 ∨ c < code then a else x.2
      (s.updIssued fun b => { b with causes := b.causes ++
        [⟨0x04, slotBit s.cur.slot ||| m, BitVec.ofNat 8 (lo * 16 + hi), bankAddr write addr, false, false⟩] }, true)
    | none => (ls.foldl (fun s x => s.usePort write code x.1 x.2) s, false)

/-! ## Loads and stores of the scratchpad -/

/-- The result latency of an access in a context: asynchronous accesses take a cycle for each line of a bank (R192). -/
def State.loadLat (s : State) (l : Nat) (ls : List (Nat × Nat)) : Nat :=
  match s.cur.ctx with
  | .primary => l
  | _ => max l (bankTurns ls)

/-- The stores the bundle at hand has asked for. -/
def State.ownStores (s : State) : List Store :=
  let own := match s.cur.ctx with
    | .handler => s.ctile.hm.bind fun h => h.issued
    | c => (s.ctile.stream c).issued
  (own.map fun b => b.effects.filterMap fun e => match e with
    | .store x => some x
    | _ => none).getD []

/-- The stores a block has buffered, with those of the bundle at hand; none in handler mode (R152, R168). -/
def State.buffered (s : State) : List Store :=
  (if s.cur.ctx == .handler then [] else (s.ctile.stream s.cur.ctx).sbuf) ++ s.ownStores

/-- The phase the bundle at hand makes current, when an active PHASE stands in it (R175). -/
def State.ownPhase (s : State) : Option (BitVec 6) :=
  (s.issuedNow.bind fun b => b.effects.findSome? fun e => match e with
    | .phase ph => some ph
    | _ => none) <|>
  s.cur.code.findSome? fun cw => if cw.1 ≠ 2 then none else match decodeWord .control cw.2 with
    | some (.phase p ph) => if s.on p then some ph else none
    | _ => none

/-- The phase a primary bundle issued on the same tick as the secondary bundle at hand makes current before its stores are written (R175, R199). (DEDUCED: log 117.) -/
def State.besidePhase (s : State) : Option (BitVec 6) :=
  if s.cur.ctx == .secondary then
    (s.ctile.prim.issued.filter fun b => b.cycle == s.cur.cycle && b.causes.isEmpty).bind fun b => b.effects.findSome? fun e => match e with
      | .phase ph => some ph
      | _ => none
  else none

/-- The phase whose sets bind an access of the bundle at hand: a load reads on the issue cycle, a store writes two cycles later, in the phase that a bundle of its own issue cycle may have made current (R175, R197, R199). (DEDUCED: log 42, 117.) -/
def State.accessPhase (s : State) (write : Bool) : Nat :=
  if write then ((s.ownPhase <|> s.besidePhase).getD s.ctile.phase).toNat else s.ctile.phase.toNat

/-- Raise UECC: TADDR, and whether what was met lies in the handler area (R188, R189). -/
def State.raiseUecc (s : State) (addr : W64) (area : Bool) : State :=
  (s.updIssued fun b => { b with causes := b.causes ++ [⟨0x09, slotBit s.cur.slot, s.anyInfo, addr, false, area⟩] }).spend

/-- The ports of an access that was not made by the primary stream: a store's wait their turn on the commit tick in handler mode, else on k + 2 (R192, R203); a load's were taken when its bundle issued. (DEDUCED: log 35.) -/
def State.laterPorts (s : State) (write : Bool) (ls : List (Nat × Nat)) : State :=
  if write then
    ls.foldl (fun s l => s.emit (.delay ⟨s.landAt (if s.cur.ctx == .handler then 1 else 2), s.cur.slot, .aport true l.1 s.cur.cycle []⟩)) s
  else s

/-- The checks of a load or store in their order, its ports taken and its lines scrubbed: the state, and whether the access goes on (R168, R202, R270). `eng` and `code` are its set and its requester; `vec` says that TADDR names the failing lane. (DEDUCED: log 42.) -/
def State.memAccess (s : State) (write vec : Bool) (bad : Access → Bool) (eng : Option Nat) (code : Nat) (xs : List Access) :
    State × Bool :=
  let buf := if write && s.cur.ctx != .handler then some (bufferLines s.buffered) else none
  match s.spadCheck s.cur.tile (s.cur.ctx == .handler) eng write bad (s.accessPhase write) buf xs with
  | some (c, i, a) => (s.raise c i a, false)
  | none =>
    let ls := touched xs
    let r := if s.cur.ctx == .primary then s.takePorts write code ls else (s.laterPorts write ls, false)
    if r.2 then (r.1, false)
    else
      let seen := if code = 6 then s.ctile else s.ctile.view s.cur.ctx s.cur.cycle
      match (if write then none else xs.find? fun x => seen.ueccLine (x.2.toNat / 256)) with
      | some x =>
        let word := seen.ueccWord (x.2.toNat / 256)
        (r.1.raiseUecc (if vec then BitVec.ofInt 64 x.2 else (word.map (BitVec.ofNat 64)).getD r.1.anyAddr)
          (decide (x.2 < 0x10000)), false)
      | none => (if write then r.1 else r.1.updTile r.1.cur.tile fun x => ls.foldl (fun x l => x.scrub l.1) x, true)

/-- The engine whose sets bind the context at hand. -/
def State.eng (s : State) : Option Nat := ctxEngine s.cur.ctx

/-- The tag a line has after every store issued so far, those of the bundle at hand included (R149, R151). -/
def State.lineTagNow (s : State) (ln : Nat) : Tag :=
  (s.buffered.filter fun y => ln ∈ y.lines).foldl (fun t y => y.newTag t) (SMap.get 0 s.ctile.ltag ln)

/-- Enter a store into the buffer, with one line entry for each touched line (R151, R152). -/
def State.bufferStore (s : State) (seen : Nat) (bytes : List Host.Cell) (ls : List Nat) (tagIn : Tag) (whole : Bool) : State :=
  let st : Store := ⟨s.cur.cycle, s.landAt seen, s.cur.slot, bytes, ls, tagIn, whole⟩
  (ls.map fun ln => st.newTag (s.lineTagNow ln)).foldl State.entryTag (s.emit (.store st))

/-! ## System registers as read -/

/-- The Spring counter of word `n` of a tile's current task (R22). (DEDUCED: log 24.) -/
def State.springCounter (s : State) (t n : Nat) : W64 :=
  let h := s.thdr t
  BitVec.ofNat 64 (h.sbase + (s.region (s.regionOf t)).seq * h.qstride + s.ltOf t * h.tstride + n % h.tstride)

/-- The word at the head of a tile's Spring queue (R56, R57). (DEDUCED: log 24.) -/
def State.springWord (s : State) (t : Nat) : BitVec 32 := spring (s.thdr t).seed (s.springCounter t (s.tile t).spring)

/-- The value a work-identifier binding takes on a tile (R29). -/
def State.bindingValue (s : State) (t code : Nat) : Nat :=
  let x := s.tile t
  match code with
  | 1 => x.lpos.toNat
  | 2 => x.reg.toNat
  | 3 => dieOf t
  | 4 => (s.entry x.lte).rank.toNat
  | 5 => (s.region (s.regionOf t)).seq
  | 6 => (s.entry x.lte).arg.toNat
  | _ => 0

/-- The work identifier: fields packed from bit 0 upward (R29). -/
def widOf : List (Nat × Nat) → Nat
  | [] => 0
  | (w, v) :: xs => v % 2 ^ w + 2 ^ w * widOf xs

/-- WID of a tile (R29). -/
def State.wid (s : State) (t : Nat) : W64 :=
  let h := s.thdr t
  BitVec.ofNat 64 (widOf ((List.range 6).map fun i => (h.widw.getD i 0, s.bindingValue t (h.widb.getD i 0))))

/-- Where field `f` of WID starts (R29, R162). -/
def widBase (widw : List Nat) (f : Nat) : Nat := (widw.take f).sum

/-- FSTAT (R285). -/
def FarEngine.fstat (f : FarEngine) : W64 :=
  let q := fun (c : BitVec 2) => (f.copies.filter fun x => x.cls == c && x.st == .queued).length
  let parked := (f.copies.filter fun x => match x.st with | .parked _ => true | _ => false).length
  BitVec.ofNat 64 (f.copies.length * 2 ^ 57 + q 0 * 2 ^ 51 + q 1 * 2 ^ 45 + q 2 * 2 ^ 39 + f.recs.length * 2 ^ 34 +
    parked * 2 ^ 27 + (if f.recs.any fun r => decide (r.next < r.total) then 2 ^ 26 else 0))

/-- LOOPS (R165). -/
def loopsView (ls : List Level) : W64 :=
  match ls with
  | [] => 0
  | l :: _ => BitVec.ofNat 64 (min l.index.toNat (2 ^ 32 - 1) * 2 ^ 32 + l.fl.toNat * 8 + ls.length)

/-- TSTAT (R165). -/
def Tile.tstat (x : Tile) : W64 :=
  BitVec.ofNat 64 (x.ip.toNat * 256 + (if x.prim.nrm then 8 else 0) + (if x.secRun then 4 else 0) + (if x.preq then 2 else 0) +
    (if x.hm.isSome then 1 else 0))

/-- The extent view of MFSR (R85). -/
def extView (x : Option ExtentDecl) : W64 :=
  match x with
  | none => 0
  | some e => BitVec.ofNat 64 (2 ^ 63 + e.cls.toNat * 2 ^ 61 + (if e.r then 2 ^ 60 else 0) + (if e.w then 2 ^ 59 else 0) +
      (if e.a then 2 ^ 58 else 0) + e.coh.toNat * 2 ^ 56 + e.fmt.toNat * 2 ^ 52 + e.len / 256 % 2 ^ 48)

/-- A system register as it stands (R164, R85). -/
def State.sysRead (s : State) (t : Nat) (c : Ctx) (idx : BitVec 6) : W64 :=
  let x := s.tile t
  let g := (x.stream c).regs
  match idx.toNat with
  | 0x00 => BitVec.ofNat 64 t
  | 0x01 => BitVec.ofNat 64 (s.positions x.lte x.reg.toNat)
  | 0x02 => s.wid t
  | 0x03 => BitVec.ofNat 64 (s.cycleOf t)
  | 0x04 => s.ptime
  | 0x05 => g.lc
  | 0x06 => g.ec.setWidth 64
  | 0x07 => g.rrb.setWidth 64
  | 0x08 => g.epoch.setWidth 64
  | 0x09 => x.tstat
  | 0x0A => x.tcause
  | 0x0B => x.tpc.setWidth 64
  | 0x0C => x.tmask.setWidth 64
  | 0x0D => x.taddr
  | 0x0E => x.ie.setWidth 64
  | 0x0F => x.tcmp
  | 0x10 => (s.thdr t).seed
  | 0x11 => s.springCounter t x.spring
  | 0x12 => x.mflags.setWidth 64
  | 0x13 => g.vflags.setWidth 64
  | 0x14 => (s.region (s.regionOf t)).holdc.setWidth 64
  | 0x15 => x.far.fstat
  | 0x16 => loopsView x.prim.loops
  | n => if 0x20 ≤ n then extView (s.extent t (n - 0x20)) else if 0x18 ≤ n then rd g.g (BitVec.ofNat 3 (n - 0x18)) else 0

/-- Has the register no field that a context may write? (R167) -/
def privWrite (hm : Bool) (idx : BitVec 6) : Bool :=
  let n := idx.toNat
  decide (n < 5) || decide (n = 0x10) || decide (n = 0x11) || decide (n = 0x14) || decide (n = 0x15) || decide (n = 0x16) ||
    decide (0x20 ≤ n) || (!hm && (decide (n = 9) || (decide (0x0A ≤ n) && decide (n ≤ 0x0D))))

/-- The fields of a gate register; the others read 0 (R138). -/
def gateMask : W64 := 0x80F00000003FFFFF

/-- A stream's block is about to write an untagged register of the tile: the first write keeps the old value (R154). (DEDUCED: log 37.) -/
def Tile.keep (x : Tile) (c : Ctx) (f : Shadow → Shadow) : Tile :=
  if c = .secondary then { x with kept2 := f x.kept2 } else { x with kept := f x.kept }

/-- IE as it stands is kept. -/
def Tile.keepIe (x : Tile) (c : Ctx) : Tile := x.keep c fun k => { k with ie := k.ie <|> some x.ie }

/-- MFLAGS as it stands is kept. -/
def Tile.keepM (x : Tile) (c : Ctx) : Tile := x.keep c fun k => { k with mflags := k.mflags <|> some x.mflags }

/-- The untagged registers a stream's block has written, back at their old values (R155). (DEDUCED: log 37.) -/
def Tile.restoreKept (x : Tile) (c : Ctx) : Tile :=
  let k := if c = .secondary then x.kept2 else x.kept
  let f := match k.nest with
    | none => x.far
    | some n => if c = .secondary then { x.far with nest2 := n } else { x.far with nest := n }
  { x with phase := k.phase.getD x.phase, ie := k.ie.getD x.ie, tcmp := k.tcmp.getD x.tcmp, mflags := k.mflags.getD x.mflags,
           far := f }

/-- MTSR's write, field by field by its access code (R138, R165, R167). -/
def Tile.sysWrite (x : Tile) (c : Ctx) (idx : BitVec 6) (v : W64) : Tile :=
  let st := x.stream c
  let g := st.regs
  let put := fun g' => x.setStream c { st with regs := g' }
  match idx.toNat with
  | 0x05 => put { g with lc := v }
  | 0x06 => put { g with ec := v.setWidth 8 }
  | 0x07 => put { g with rrb := v.setWidth 5 }
  | 0x08 => put { g with epoch := v.setWidth 8 }
  | 0x09 => if c = .handler then { x with ip := x.ip &&& ~~~ v.extractLsb' 8 8 } else x
  | 0x0A => { x with tcause := v &&& 0xFF3F }
  | 0x0B => { x with tpc := v.setWidth 33 }
  | 0x0C => { x with tmask := v.setWidth 8 }
  | 0x0D => { x with taddr := v }
  | 0x0E => { x.keepIe c with ie := v.setWidth 2 }
  | 0x0F => { x.keep c fun k => { k with tcmp := k.tcmp <|> some x.tcmp } with tcmp := v }
  | 0x12 => { x.keepM c with mflags := v.setWidth 4 }
  | 0x13 => put { g with vflags := v.setWidth 7 }
  | n => if 0x18 ≤ n ∧ n < 0x20 then put { g with g := wr g.g (BitVec.ofNat 3 (n - 0x18)) (v &&& gateMask) } else x

end Sys2Proof.Machine
end

