-- ==== Sys2Proof/Machine/Control.lean ====
section
/-! DEFINITION. The 22 C instructions (08: R170 to R185), with the successors of R128 to R130 and the loop stack of R171. -/

namespace Sys2Proof.Machine

/-! ## Program words and successors -/

/-- A word of a context's program: the stream store, or the handler area (R97, R353). -/
def Tile.word (x : Tile) (c : Ctx) (a : Nat) : Nat :=
  match c with
  | .primary => x.store.getD a 0
  | .secondary => x.sstore.getD a 0
  | .handler => readN x.spad (4 * a) 4

/-- How many words a context's program has (R97, R98). -/
def Tile.words (x : Tile) (c : Ctx) : Nat :=
  match c with
  | .primary => x.store.length
  | .secondary => x.sstore.length
  | .handler => 0x4000

/-- The word after the bundle at hand: its signature bundle's header, when it ends a block. -/
def State.sigAt (s : State) : Nat := (s.issuedNow.map fun b => b.next).getD 0

/-- A word address from a base and a signed offset (R119, R106). -/
def wordAddr (base : Nat) (d : Int) : Nat := wrapN 32 (base + d)

/-- SUCC of the signature bundle after the bundle at hand (R119). -/
def State.succWord (s : State) : Nat := s.ctile.word s.cur.ctx (s.sigAt + 3)

/-- Successors A and B (R119, R128). -/
def State.succA (s : State) : Nat := wordAddr s.sigAt (sext (field s.succWord 0 14) 14)
def State.succB (s : State) : Option Nat :=
  if field s.succWord 28 1 = 1 then some (wordAddr s.sigAt (sext (field s.succWord 14 14) 14)) else none

/-- Z: the bundle after the signature bundle; in handler mode, which has none, the next bundle (R128, R170). -/
def State.zAddr (s : State) : Nat := if s.cur.ctx = .handler then s.sigAt else s.sigAt + 4

/-- Is an address A, or B where B is valid? -/
def State.isAB (s : State) (a : Nat) : Bool := decide (a = s.succA) || s.succB == some a

/-- Does the successor-table group at an index hold a target? (R129) -/
def inGroup (tab : List Nat) (i target : Nat) : Bool :=
  let n := tab.getD i 0
  decide (i < tab.length) && decide (1 ≤ n) && decide (n ≤ 256) && ((tab.drop (i + 1)).take n).any (· == target)

/-- The Z of the END block of a level: past the bundle at END and its signature (R173). -/
def State.zOfEnd (s : State) (last : Nat) : Nat :=
  last + bundleLen (decodeHeader (s.ctile.word s.cur.ctx last)) + if s.cur.ctx = .handler then 0 else 4

/-- A taken transfer, or CF_SUCCESSOR with the target in TADDR (R130, R404); handler mode checks no successor (R170). -/
def State.transfer (s : State) (target : Nat) (full : W64) (ok : Bool) : State :=
  if ok || s.cur.ctx == .handler then s.emit (.jump target) else s.raise 0x0B 0 full

/-- The return stack of the context at hand (R170). -/
def State.rstackNow (s : State) : List Nat :=
  match s.cur.ctx with
  | .handler => (s.ctile.hm.map fun h => h.rstack).getD []
  | c => (s.ctile.stream c).rstack

/-- The loop levels of the context at hand. -/
def State.loopsNow (s : State) : List Level := (s.ctile.stream s.cur.ctx).loops

/-! ## Transfers -/

/-- BR (R170). -/
def execBr (p : BitVec 4) (disp : BitVec 22) (s : State) : Out :=
  s.when p fun s =>
    let t := wordAddr s.cur.pc disp.toInt
    s.transfer t (BitVec.ofNat 64 t) (s.isAB t)

/-- BRI (R170): a value of 2^32 or more matches no successor; in handler mode, which checks none, it lies beyond the stream and the fetch finds it illegal. -/
def execBri (p : BitVec 4) (a : BitVec 6) (s : State) : Out :=
  s.when p fun s =>
    let v := (s.rs a).toNat
    let ok := if field s.succWord 29 1 = 1 then inGroup s.ctile.succ (field s.succWord 0 14) v else s.isAB v
    s.transfer v (s.rs a) (decide (v < 2 ^ 32) && ok)

/-- CALL (R170). -/
def execCall (p : BitVec 4) (disp : BitVec 22) (s : State) : Out :=
  s.when p fun s =>
    let t := wordAddr s.cur.pc disp.toInt
    if 8 ≤ s.rstackNow.length then s.raiseOpen 0x02
    else (s.transfer t (BitVec.ofNat 64 t) (decide (t = s.succA))).emit (.push s.zAddr)

/-- RET (R170). -/
def execRet (p : BitVec 4) (s : State) : Out :=
  s.when p fun s =>
    match s.rstackNow with
    | [] => s.raiseOpen 0x02
    | z :: _ => (s.emit (.jump z)).emit .pop

/-! ## Loops -/

/-- Would a loop run no iteration? (R148, R171) -/
def noIteration (rotating : Bool) (count : W64) (ec : BitVec 8) : Bool :=
  if rotating then decide (count = 0) && decide (ec = 0) else decide (count = 0)

/-- The checks of R171 in order, then a level opened or, with no iteration, the jump to A. -/
def State.openLoop (s : State) (fl : BitVec 3) (count : W64) (endOff : Nat) : State :=
  let last := s.cur.pc + endOff
  let rotating := fl.getLsbD 1
  let floor := if s.cur.ctx = .handler then s.cur.pc else s.sigAt
  if 6 ≤ s.loopsNow.length then s.raiseOpen 0x02
  else if last ≤ floor then s.raiseOpen 0x02
  else if s.loopsNow.any fun l => decide (l.last < last) then s.raiseOpen 0x02
  else if rotating && s.loopsNow.any fun l => l.fl.getLsbD 1 then s.raiseOpen 0x02
  else if noIteration rotating count s.regs.ec then
    (s.emit (.loopSkip count fl)).emit (.jump (if s.cur.ctx = .handler then s.zOfEnd last else s.succA))
  else s.emit (.loopOpen ⟨s.zAddr, last, count, 0, fl⟩ count)

/-- LOOP (R171). -/
def execLoop (p : BitVec 4) (fl : BitVec 3) (a : BitVec 6) (last : BitVec 13) (s : State) : Out :=
  s.when p fun s => s.openLoop fl (s.rs a) last.toNat

/-- LOOPI (R171). -/
def execLoopi (p : BitVec 4) (fl : BitVec 3) (cnt : BitVec 9) (last : BitVec 10) (s : State) : Out :=
  s.when p fun s => s.openLoop fl (cnt.setWidth 64) last.toNat

/-- BRKL (R173): n levels closed; the target must equal A. -/
def execBrkl (p : BitVec 4) (lv : BitVec 3) (s : State) : Out :=
  s.when p fun s =>
    match s.loopsNow[lv.toNat - 1]? with
    | none => s.raiseOpen 0x02
    | some l =>
      let t := s.zOfEnd l.last
      (s.transfer t (BitVec.ofNat 64 t) (decide (t = s.succA))).emit (.brkl lv.toNat)

/-- The loop state a level step works on. -/
structure LoopSt where
  regs : Regs
  loops : List Level
  deriving DecidableEq, Repr

/-- The steps at the start of an iteration (R148, R171). -/
def iterStart (fl : BitVec 3) (g : Regs) : Regs :=
  let g := if fl.getLsbD 1 then
      let stage := decide (g.lc ≠ 0)
      let rrb := g.rrb - 1
      { g with rrb := rrb, p := setP g.p (physP rrb 8) stage,
               lc := if stage then g.lc - 1 else g.lc, ec := if stage then g.ec else g.ec - 1 }
    else g
  if fl.getLsbD 2 then { g with epoch := g.epoch + 1 } else g

/-- Enter a rotating loop: LC, RRB and p8 to p15 (R148). -/
def enterRotating (fl : BitVec 3) (count : W64) (g : Regs) : Regs :=
  if fl.getLsbD 1 then { g with lc := count, rrb := 0, p := g.p &&& 0x00FF } else g

/-- Step the levels whose END is the bundle's address, innermost first, until one repeats: the new state, and START with how many levels were closed (R171). -/
def stepLevels (pc : Nat) (g : Regs) (closed : Nat) : List Level → LoopSt × Option (Nat × Nat)
  | [] => (⟨g, []⟩, none)
  | l :: ls =>
    if l.last ≠ pc then (⟨g, l :: ls⟩, none)
    else
      let l' := { l with index := l.index + 1 }
      let again := if l.fl.getLsbD 1 then decide (g.lc ≠ 0) || decide (g.ec ≠ 0) else decide (l'.index < l'.count)
      if again then (⟨iterStart l.fl g, l' :: ls⟩, some (l.start, closed))
      else stepLevels pc g (closed + 1) ls

/-- Is the bundle at an address the last of the body of the innermost open level? (R171) -/
def atEnd (ls : List Level) (pc : Nat) : Bool :=
  match ls with
  | [] => false
  | l :: _ => l.last == pc

/-- The repeat a loop end makes is legal: the innermost level's START is A, the next one's is B, and no third may repeat (R128, R130, R171, R411). -/
def State.repeatOk (s : State) (start closed : Nat) : Bool :=
  if closed = 0 then decide (start = s.succA) else if closed = 1 then s.succB == some start else false

/-- What the sequencer does at the last bundle of a loop body: a step of its levels, or CF_SUCCESSOR with the C bit (R130, R171). (DEDUCED: log 26.) -/
def State.loopEnd (s : State) : State :=
  match (stepLevels s.cur.pc s.regs 0 s.loopsNow).2 with
  | some (start, closed) =>
    if s.cur.ctx == .handler || s.repeatOk start closed then s.emit .loopStep
    else { s with cur := { s.cur with slot := 2 } }.raise 0x0B 0 (BitVec.ofNat 64 start)
  | none => s.emit .loopStep

/-- SETLC (R174). -/
def execSetlc (p : BitVec 4) (a : BitVec 6) (ec : BitVec 8) (s : State) : Out :=
  s.when p fun s => s.emit (.setlc (s.rs a) ec)

/-! ## Phase, epoch, gates, time and scope -/

/-- PHASE (R175): the overlap check is made at the commit point. -/
def execPhase (p : BitVec 4) (ph : BitVec 6) (s : State) : Out := s.when p fun s => s.emit (.phase ph)

/-- EPOCH (R176). -/
def execEpoch (p : BitVec 4) (md : BitVec 1) (val : BitVec 8) (s : State) : Out :=
  s.when p fun s => s.emit (.epoch (md == 1) val)

/-- GATESET (R177). -/
def execGateset (p : BitVec 4) (g : BitVec 3) (a : BitVec 6) (ph : BitVec 4) (en : BitVec 1) (s : State) : Out :=
  s.when p fun s =>
    let v := (s.rs a).toNat
    if field v 22 42 ≠ 0 ∨ v % 16 ≠ 0 then s.raiseOpen 0x08
    else s.emit (.gate g (BitVec.ofNat 64 (en.toNat * 2 ^ 63 + ph.toNat * 2 ^ 52 + v)))

/-- The largest of the waiting amounts of one kind. Kind 1, a hold of HL ticks, moves the targets after Tb only; kind 4, the same length on the package that was hot, moves Tb as well; both are a hold's HL, one kind of amount (R325, R378, R379, R381). (DEDUCED: log 69.) -/
def kindSum (ws : List (Nat × Nat × Nat)) (k : Nat) : Nat := (ws.filter fun w => w.2.1 == k).foldl (fun m w => max m w.2.2) 0

/-- What meets its Tb at a target, `t` by name and `base` as moved so far, with a displacement of its own: the ticks by which this very target moves, and the entry with all of it applied. Amounts of one kind that merge take their largest, kinds add (R323, R377 to R379, R381). (DEDUCED: log 69.) -/
def Entry.meets (x : Entry) (t base own : Nat) : Nat × Entry :=
  let due := x.waitTb.filter fun w => decide (w.1 ≤ base)
  let hot := kindSum due 4
  let now := ([0, 2, 3].map (kindSum due)).sum + hot
  let late := kindSum due 1 - hot
  let new := (if own = 0 then [] else [(0, false, own)]) ++ (if now = 0 then [] else [(t, false, now)]) ++
    if late = 0 then [] else [(t, true, late)]
  let all := own + now + late
  (now, { x with
    applied := x.applied ++ new, pstr := x.pstr + all,
    waitTb := x.waitTb.filter fun w => decide (base < w.1) })

/-- A target as every amount applied so far moves it (R71). -/
def Entry.moved (x : Entry) (t : Nat) : Nat :=
  t + (x.applied.map fun a => if a.2.1 then (if a.1 < t then a.2.2 else 0) else if a.1 ≤ t then a.2.2 else 0).sum

/-- An RDV target of a launch: Tʹ, its own displacement, for a start that its next target must follow, and the entry with what meets its Tb there (R71, R95, R375). (DEDUCED: log 69.) -/
def Entry.rdvTarget (x : Entry) (again : Option Nat) (t : Nat) : Nat × Nat × Entry :=
  let base := x.moved t
  let own := match again <|> x.restart with
    | none => 0
    | some r => if r + 256 ≤ base then 0 else (r + 256 - base + 1023) / 1024 * 1024
  let m := x.meets t base own
  (base + own + m.1, own, { m.2 with restart := if again.isSome then x.restart else none })

/-- RDV (R71, R178): the nominal target, or SCHED_LATE when Tʹ is not after the issue tick. -/
def execRdv (p : BitVec 4) (a : BitVec 6) (imm : BitVec 16) (s : State) : Out :=
  s.when p fun s =>
    let t : W64 := s.rs a + imm.setWidth 64
    if ((s.entry s.ctile.lte).rdvTarget (s.region (s.regionOf s.cur.tile)).restart t.toNat).1 ≤ s.ptime.toNat then s.raiseOpen 0x13 else (s.emit (.rdv t)).mark

/-- FENCE (R179): nothing at .tile and .rgn. -/
def execFence (p : BitVec 4) (sc : BitVec 4) (s : State) : Out :=
  s.when p fun s => if sc.toNat < 2 then s else s.emit (.fence sc)

/-- SNAP (R180). -/
def execSnap (p : BitVec 4) (tag : BitVec 8) (s : State) : Out := s.when p fun s => s.emit (.snap tag)

/-! ## Traps, task end and sequencer services -/

/-- TRAPI (R181); in handler mode it raises DOUBLE (R360). -/
def execTrapi (p : BitVec 4) (code : BitVec 8) (s : State) : Out :=
  s.when p fun s => if s.cur.ctx = .handler then s.raiseOpen 0x1D else s.emit (.trapi code)

/-- RETT (R181, R359). -/
def execRett (p : BitVec 4) (s : State) : Out := s.when p fun s => s.emit .rett

/-- WAITI (R181). -/
def execWaiti (p : BitVec 4) (s : State) : Out := s.when p fun s => s.emit .waiti

/-- ENDT (R182). -/
def execEndt (p : BitVec 4) (s : State) : Out := s.when p fun s => s.emit .endt

/-- NOPN (R183). -/
def execNopn (p : BitVec 4) (n : BitVec 10) (s : State) : Out := s.when p fun s => s.emit (.nopn n.toNat)

/-- SPRNG (R184): the bundle's Spring word; the pop is the bundle's. -/
def execSprng (p : BitVec 4) (a : BitVec 6) (s : State) : Out :=
  s.when p fun s => s.resultS a 1 (s.cur.word.setWidth 64) (tagOf [] (opk 1 0x14))

/-- INTEN (R185). -/
def execInten (p : BitVec 4) (md : BitVec 1) (mask : BitVec 8) (s : State) : Out :=
  s.when p fun s => s.emit (.inten (md == 1) mask)

/-- SECS (R185). -/
def execSecs (p : BitVec 4) (go : BitVec 1) (s : State) : Out :=
  s.when p fun s => if go = 1 ∧ !s.ctile.hasSec then s.raiseOpen 0x02 else s.emit (.secs (go == 1))

end Sys2Proof.Machine
end

