-- ==== Sys2Proof/Machine/FarOps.lean ====
section
/-! DEFINITION. The L instructions that reach beyond the tile: copy nests and far commands (14: R286 to R301), range maintenance (13: R279, R280), atomics (15: R316 to R319) and basins (15: R309 to R313). -/

namespace Sys2Proof.Machine

/-! ## Copy nests -/

/-- Is a 64-bit pattern a multiple of 64? -/
def mult64 (x : W64) : Bool := decide (x.toNat % 64 = 0)

/-- FNEST (R286). -/
def execFnest (p : BitVec 4) (x a b : BitVec 6) (lv : BitVec 3) (s : State) : Out :=
  s.when p fun s =>
    if 65535 < (s.rs a).toNat then s.raiseOpen 0x02
    else if !mult64 (s.rs b) || !mult64 (s.rs x) then s.raiseOpen 0x08
    else s.emit (.fnest lv.toNat (s.rs a).toNat (s.rs b).toInt (s.rs x).toInt)

/-- FBASE (R286). -/
def execFbase (p : BitVec 4) (x a b : BitVec 6) (s : State) : Out :=
  s.when p fun s =>
    let w := s.rs x
    let size := field w.toNat 0 17
    let ssp := w.getLsbD 62
    let dsp := w.getLsbD 63
    if ssp == dsp || decide (field w.toNat 17 45 ≠ 0) || decide (size < 64) || decide (65536 < size) then s.raiseOpen 0x02
    else if size % 64 ≠ 0 || !mult64 (if ssp then s.rs a else s.rs b) then s.raiseOpen 0x08
    else s.emit (.fbase (s.rs a) (s.rs b) size ssp dsp)

/-- FIDX (R286). -/
def execFidx (p : BitVec 4) (x : BitVec 6) (s : State) : Out :=
  s.when p fun s =>
    if (List.range 64).any fun l => decide ((lane (s.rv x) l).toNat % 64 ≠ 0) then s.raiseOpen 0x08 else s.emit (.fidx (s.rv x))

/-! ## Far commands -/

/-- FGO (R288): in handler mode it starts on its commit tick. -/
def execFgo (p : BitVec 4) (a b : BitVec 6) (delay : BitVec 20) (sc : BitVec 4) (ls : BitVec 8) (s : State) : Out :=
  s.when p fun s =>
    if s.badRef s.cur.tile (s.rs a) true || s.badRef s.cur.tile (s.rs b) false then s.raiseOpen 0x02
    else (s.emit (.fgo (s.cur.cycle + 1 + delay.toNat) s.cur.pc s.cur.gate (s.rs a) (s.rs b) sc ls s.cur.slot)).mark

/-- FSIG (R298). -/
def execFsig (p : BitVec 4) (a b : BitVec 6) (sc : BitVec 4) (s : State) : Out :=
  s.when p fun s =>
    if s.badRef s.cur.tile (s.rs a) false || decide (2 ^ 24 ≤ (s.rs b).toNat) then s.raiseOpen 0x02
    else (s.emit (.fsig (s.rs a) (s.rs b).toNat sc s.cur.slot)).mark

/-- The accesses of a chunk, one for each sector (R299). -/
def chunkAccess (b : W64) (len : Nat) : List Access := (List.range len).map fun i => (i, (b.toNat : Int) + 64 * i)

/-- FRED's checks against the FAR sets, reading first (R299). -/
def State.chunkCheck (s : State) (b : W64) (len : Nat) : Option (BitVec 6 × BitVec 8 × W64) :=
  let hm := s.cur.ctx == .handler
  let check := fun (wr : Bool) =>
    (s.spadCheck s.cur.tile hm (if hm then none else some 2) wr (fun _ => false) (s.accessPhase true) none (chunkAccess b len)).map
      fun (x : BitVec 6 × BitVec 8 × W64) => if hm && x.1 == 0x06 then (x.1, setInfo 2 wr 1, x.2.2) else x
  (check false).orElse fun _ => check true

/-- FRED (R299). (DEDUCED: log 41.) -/
def execFred (p : BitVec 4) (x a b : BitVec 6) (f sc : BitVec 4) (s : State) : Out :=
  s.when p fun s =>
    let g := (s.rs a).toNat
    let len := field g 48 16
    let count := field g 16 16
    let rank := field g 0 16
    if decide (4 < f.toNat) || decide (len = 0) || decide (1024 < len) || s.badRef s.cur.tile (s.rs x) true then s.raiseOpen 0x02
    else if count = 0 || decide (count ≤ rank) then s.raiseOpen 0x18
    else if !mult64 (s.rs b) then s.raiseOpen 0x08
    else match s.chunkCheck (s.rs b) len with
      | some (c, i, ad) => s.raise c i ad
      | none => (s.emit (.fred len (field g 32 16) count rank (s.rs b).toNat (s.rs x) f sc s.cur.slot)).mark

/-- FQRY (R300): the value as it stands on k + 1, written at k + 2. -/
def execFqry (p : BitVec 4) (x : BitVec 6) (sel : BitVec 2) (s : State) : Out :=
  s.when p fun s =>
    let tag := tagOf [immTag] (opk 2 0x26)
    (s.emit (.delay ⟨s.landAt 1, s.cur.slot, .farQuery sel (s.cur.ctx == .secondary)
      ⟨s.landAt 2, s.cur.cycle, s.cur.slot, .s x, 0, 0, tag, 0, 0⟩⟩)).entryTag tag

/-- FCAN (R301). -/
def execFcan (p : BitVec 4) (slot : BitVec 6) (all : BitVec 1) (s : State) : Out :=
  s.when p fun s => s.emit (.fcan slot.toNat (all == 1))

/-! ## Range maintenance -/

/-- The checks of R280, then the range entered at the commit point. (DEDUCED: log 46.) -/
def State.rangeOp (s : State) (kind : Nat) (a b : BitVec 6) : State :=
  let e := s.rs a
  let n := (s.rs b).toNat
  let ok := match s.extent s.cur.tile (extIndex e) with
    | none => false
    | some x => x.covers (extOffset e) n false (kind == 2) && x.cls == 1 && s.ownsPrivate s.cur.tile x
  if !ok then s.raiseAt 0x07 e
  else if extOffset e % 4 ≠ 0 || n % 4 ≠ 0 then s.raiseAt 0x08 e
  else s.emit (.range kind e (s.rs b))

/-- WBR (R279, R280). -/
def execWbr (p : BitVec 4) (a b : BitVec 6) (_ : BitVec 4) (s : State) : Out := s.when p fun s => s.rangeOp 0 a b

/-- INVR (R279, R280). -/
def execInvr (p : BitVec 4) (a b : BitVec 6) (_ : BitVec 4) (s : State) : Out := s.when p fun s => s.rangeOp 1 a b

/-- DISCR (R279, R280). -/
def execDiscr (p : BitVec 4) (a b : BitVec 6) (_ : BitVec 4) (s : State) : Out := s.when p fun s => s.rangeOp 2 a b

/-! ## Atomics -/

/-- The narrowest scope that holds this package and a peer (R318, R327). (DESIGN CHOICE: log 11.) -/
def State.peerScope (s : State) (peer : Nat) : Nat :=
  let e := s.entry s.ctile.lte
  if Config.boardOf e.job peer = Config.boardOf e.job e.rank.toNat then 4
  else if Config.islandOf e.job peer = Config.islandOf e.job e.rank.toNat then 5 else 6

/-- Does the table of R318 take a scope for an extent? -/
def State.routeOk (s : State) (x : ExtentDecl) (sc : Nat) : Bool :=
  x.a && match x.cls with
    | 1 => if sc ≤ 2 then x.coh != 2 else decide (sc ≤ 6)
    | 2 => sc == 3
    | 3 => decide (s.peerScope x.peer ≤ sc) && decide (sc ≤ 6)
    | _ => false

/-- The checks of R319 in order, then the atomic entered at the commit point, with its fold entry. (DEDUCED: log 46.) -/
def State.atomicOp (s : State) (cas : Bool) (op : BitVec 4) (d a b c : BitVec 6) (sc : BitVec 4) (w : BitVec 1) (tag : Tag) :
    State :=
  let e := s.rs a
  let z := if w = 1 then 8 else 4
  match s.extent s.cur.tile (extIndex e) with
  | none => s.raiseAt 0x07 e
  | some x =>
    if !(x.covers (extOffset e) z true true && x.cls != 0 && s.ownsPrivate s.cur.tile x) then s.raiseAt 0x07 e
    else if extOffset e % z ≠ 0 then s.raiseAt 0x08 e
    else if !s.routeOk x sc.toNat then
      s.raise 0x17 (BitVec.ofNat 8 (x.cls.toNat * 64 + x.coh.toNat * 16 + sc.toNat)) e
    else
      ((s.emit (.atomic ⟨0, s.cur.cycle, s.cur.slot, .s d, 0, 0, tag, 0, 0⟩ cas op sc (w == 1) e (s.rs b) (s.rs c))).entryTag
        tag).mark

/-- AMO (R316 to R319). -/
def execAmo (p : BitVec 4) (d a b : BitVec 6) (f sc : BitVec 4) (w : BitVec 1) (s : State) : Out :=
  s.when p fun s => s.atomicOp false f d a b 0 sc w (tagOf [s.ts a, s.ts b] (opk 2 0x30))

/-- CAS (R316 to R319). -/
def execCas (p : BitVec 4) (d a b c : BitVec 6) (sc : BitVec 4) (w : BitVec 1) (s : State) : Out :=
  s.when p fun s => s.atomicOp true 0 d a b c sc w (tagOf [s.ts a, s.ts b, s.ts c] (opk 2 0x31))

/-- F32 addition under RNE, as an atomic and a switch make it (R317, R321). -/
def faddBits (a b : BitVec 32) : BitVec 32 := (addIEEE .f32 .rne (unF32 a) (unF32 b)).1

/-- The new value of an atomic on z bytes (R317). -/
def atomicNew (cas : Bool) (op : BitVec 4) (wide : Bool) (old b c : W64) : W64 :=
  let n := if wide then 64 else 32
  let cut := fun (x : W64) => if wide then x else (x.setWidth 32).setWidth 64
  let sg := fun (x : W64) => sext x.toNat n
  let b := cut b
  if cas then (if old = cut c then b else old)
  else cut (match op with
    | 0 => old + b
    | 1 => (faddBits (old.setWidth 32) (b.setWidth 32)).setWidth 64
    | 2 => if sg old ≤ sg b then old else b
    | 3 => if sg old ≤ sg b then b else old
    | 4 => if old ≤ b then old else b
    | 5 => if old ≤ b then b else old
    | 6 => b
    | 7 => old &&& b
    | 8 => old ||| b
    | _ => old ^^^ b)

/-- Does an atomic assign its word? A CAS does where the word equals s[C] (R317). -/
def atomicSets (cas wide : Bool) (old c : W64) : Bool := !cas || old == if wide then c else (c.setWidth 32).setWidth 64

/-! ## Basins -/

/-- The checks 2 and 3 of R310 on a local basin address; then what follows. -/
def State.basinOp (s : State) (a : W64) (f : State → State) : State :=
  if field a.toNat 22 42 ≠ 0 ∨ a.toNat % 16 ≠ 0 then s.raiseOpen 0x08
  else if a.toNat < 0x10000 ∧ s.cur.ctx ≠ .handler then s.raiseAt 0x19 a
  else f s

/-- BINIT (R309 to R311). -/
def execBinit (p : BitVec 4) (a : BitVec 6) (imm : BitVec 24) (s : State) : Out :=
  s.when p fun s => s.basinOp (s.rs a) fun s => (s.emit (.binit (s.rs a).toNat imm)).mark

/-- BREARM (R309 to R311). -/
def execBrearm (p : BitVec 4) (a : BitVec 6) (imm : BitVec 24) (s : State) : Out :=
  s.when p fun s => s.basinOp (s.rs a) fun s => (s.emit (.brearm (s.rs a).toNat imm)).mark

/-- BEXPECT (R309 to R311): the overflow check is made at the commit point. -/
def execBexpect (p : BitVec 4) (a b : BitVec 6) (s : State) : Out :=
  s.when p fun s => s.basinOp (s.rs a) fun s => (s.emit (.bexpect (s.rs a).toNat (s.rs b) s.cur.slot)).mark

/-- BREAD (R309 to R311): the basin at the end of k + 1, written at k + 4. -/
def execBread (p : BitVec 4) (d a : BitVec 6) (s : State) : Out :=
  s.when p fun s => s.basinOp (s.rs a) fun s =>
    let tag := tagOf [s.ts a] (opk 2 0x3B)
    ((s.emit (.bread (s.rs a).toNat ⟨s.landAt 4, s.cur.cycle, s.cur.slot, .s d, 0, 0, tag, 0, 0⟩)).entryTag tag).mark

/-- BARRIVE (R310 to R312). -/
def execBarrive (p : BitVec 4) (a : BitVec 6) (sc : BitVec 4) (imm : BitVec 24) (s : State) : Out :=
  s.when p fun s =>
    if s.badRef s.cur.tile (s.rs a) false then s.raiseOpen 0x02
    else (s.emit (.barrive (s.rs a) sc imm)).mark

/-- The sectors of a basin (R304). -/
def basinSectors (b : Nat) : Nat := field b 32 32
def basinArrive (b : Nat) : Nat := field b 8 24
def basinInit (b : Nat) : Nat := field b 80 24
def basinLfold (b : Nat) : Nat := field b 64 16
def basinArmed (b : Nat) : Bool := b.testBit 7

/-- A basin from its fields (R304). -/
def basinOf (phase : Nat) (ovf err neg armed : Bool) (arrive sectors lfold init : Nat) : Nat :=
  phase + (if ovf then 2 ^ 4 else 0) + (if err then 2 ^ 5 else 0) + (if neg then 2 ^ 6 else 0) + (if armed then 2 ^ 7 else 0) +
    arrive * 2 ^ 8 + sectors * 2 ^ 32 + lfold * 2 ^ 64 + init * 2 ^ 80

/-- Set a bit of a number. -/
def setBit (b i : Nat) : Nat := b ||| 2 ^ i

/-- The flip of R307 after a decrement. -/
def basinFlip (b : Nat) : Nat :=
  if basinArmed b && decide (basinArrive b = 0) && decide (basinSectors b = 0) && !basinBad b then
    basinOf ((basinPhase b + 1) % 16) false false (b.testBit 6) true (basinInit b) 0 0 (basinInit b) + b / 2 ^ 104 * 2 ^ 104
  else b

/-- Apply one update to a basin, whole (R305 to R307, R311). -/
def basinUpdate (b : Nat) (u : BasinUpd) : Nat :=
  match u with
  | .err => setBit b 5
  | .ovf => setBit b 4
  | .init n => basinOf 0 false false false true n 0 0 n
  | .rearm n => basinOf (basinPhase b) false false false true n 0 0 n
  | .expect n => if n = 0 then b else if !basinArmed b then setBit b 5 else b + n * 2 ^ 32
  | .arrive n =>
    if n = 0 then b
    else if !basinArmed b then setBit b 5
    else if basinArrive b < n then setBit (setBit b 6) 5
    else basinFlip (b - n * 2 ^ 8)
  | .sector t =>
    if !basinArmed b then setBit b 5
    else if basinSectors b < 1 then setBit (setBit b 6) 5
    else
      let lf := basinLfold b
      basinFlip (b - 2 ^ 32 - lf * 2 ^ 64 + (lf + t.toNat) % 2 ^ 16 * 2 ^ 64)

/-- Update a basin of a tile through its own path (R193). Every update but BINIT's reads the basin first: a single-bit error is corrected, and one that cannot be keeps the basin as it is and raises UECC, with an INFO and, for a bad tag, a TADDR of the step's (R188, R297). -/
def Tile.updBasin (x : Tile) (info : BitVec 8) (addr : W64) (a : Nat) (u : BasinUpd) : Tile :=
  let put := fun (x : Tile) => x.putBytes a (toBytes 16 (basinUpdate (basinAt x.spad a) u))
  match u with
  | .init _ => put x
  | _ =>
    if x.uecc a 16 then
      { x with pend := x.pend ++ [⟨0x09, 0, info, ((x.ueccIn a 16).map (BitVec.ofNat 64)).getD addr, true, false⟩] }
    else put (x.scrub (a / 256))

/-- An update for the end of the tick, with its place in the order of R308: 2 an L syllable, 3 a BARRIVE, 4 a transfer unit. -/
def Tile.queueBasin (x : Tile) (ord a : Nat) (u : BasinUpd) : Tile := { x with basinOps := x.basinOps ++ [(ord, a, u)] }

/-- The updates of a tick applied in the order of R308. -/
def Tile.runBasins (x : Tile) (info : BitVec 8) (addr : W64) : Tile :=
  let us := sortBy (fun (a b : Nat × Nat × BasinUpd) => decide (a.1 ≤ b.1)) x.basinOps
  { us.foldl (fun (y : Tile) u => y.updBasin info addr u.2.1 u.2.2) x with basinOps := [] }

end Sys2Proof.Machine
end

