-- ==== Sys2Proof/Machine/Matrix.lean ====
section
/-! DEFINITION. The matrix engine: the 6 M instructions, the engine's own steps, and the 8 K instructions (11: R222 to R243). -/

namespace Sys2Proof.Machine

/-! ## Commands of the M slot -/

/-- The 22-bit address of s[A] (R234). -/
def low22 (x : W64) : Nat := x.toNat % 2 ^ 22

/-- Are a base and a stride multiples of an alignment? (R235, R237) -/
def alignedBy (n base : Nat) (stride : Int) : Bool := decide (base % n = 0) && decide (stride % (n : Int) = 0)

/-- An M command enters its queue when its bundle commits (R140, R226). -/
def State.mcommand (s : State) (op : Nat) (delay : BitVec 20) (base row0 : Nat) (stride : Int) (scales : VReg) (rows wf acc : Nat) :
    State :=
  let cb : Int := if s.cur.bcv then sext s.cur.bcs.toNat 8 else 0
  (s.emit (.mcmd ⟨op, s.cur.cycle + 1 + delay.toNat, s.cur.pc, s.cur.gate, base, row0, stride, scales, rows, wf, acc, cb⟩
    s.cur.slot)).mark

/-- MLDW (R235). -/
def execMldw (p : BitVec 4) (delay : BitVec 20) (a b vs : BitVec 6) (nr : BitVec 7) (wf : BitVec 4) (s : State) : Out :=
  s.when p fun s =>
    let base := low22 (s.rs a)
    let stride := (s.rs b).toInt
    if !alignedBy (if wf = 5 then 64 else 256) base stride then s.raiseOpen 0x08
    else s.mcommand 1 delay base 0 stride (s.rv vs) (nr.toNat + 1) wf.toNat 0

/-- MSWAP (R236). -/
def execMswap (p : BitVec 4) (delay : BitVec 20) (s : State) : Out := s.when p fun s => s.mcommand 2 delay 0 0 0 0 0 0 0

/-- MSTR and MSTRZ (R237): the alignment either mode allows is checked at the commit point. -/
def State.pass (s : State) (op : Nat) (acc : BitVec 3) (delay : BitVec 20) (a b : BitVec 6) (nr : BitVec 7) (wf : BitVec 4) : State :=
  let base := low22 (s.rs a)
  let stride := (s.rs b).toInt
  if !alignedBy (if wf = 3 then 256 else 128) base stride then s.raiseOpen 0x08
  else s.mcommand op delay base (field (s.rs a).toNat 24 7) stride 0 (nr.toNat + 1) wf.toNat acc.toNat

/-- MSTR (R237). -/
def execMstr (p : BitVec 4) (acc : BitVec 3) (delay : BitVec 20) (a b : BitVec 6) (nr : BitVec 7) (wf : BitVec 4) (s : State) : Out :=
  s.when p fun s => s.pass 3 acc delay a b nr wf

/-- MSTRZ (R237). -/
def execMstrz (p : BitVec 4) (acc : BitVec 3) (delay : BitVec 20) (a b : BitVec 6) (nr : BitVec 7) (wf : BitVec 4) (s : State) : Out :=
  s.when p fun s => s.pass 4 acc delay a b nr wf

/-- MCBT (R238). -/
def execMcbt (p : BitVec 4) (delay : BitVec 20) (a : BitVec 6) (s : State) : Out :=
  s.when p fun s =>
    let base := low22 (s.rs a)
    if base % 256 ≠ 0 then s.raiseOpen 0x08 else s.mcommand 5 delay base 0 256 0 8 0 0

/-- MSCL (R239). -/
def execMscl (p : BitVec 4) (delay : BitVec 20) (vs : BitVec 6) (s : State) : Out :=
  s.when p fun s => s.mcommand 6 delay 0 0 0 (s.rv vs) 0 0 0

/-! ## The engine's state -/

/-- MAG[m][j] (R43). -/
def Matrix.magAt (x : Matrix) (m j : Nat) : BitVec 7 := SMap.get (magD8 m j) x.mag (8 * m + j)

/-- Set MAG[m][j]. -/
def setMag (g : SMap (BitVec 7)) (m j : Nat) (v : BitVec 7) : SMap (BitVec 7) := SMap.set (magD8 m j) g (8 * m + j) v

/-- RSC[i] (R222). -/
def Matrix.rscAt (x : Matrix) (i : Nat) : Int := (SMap.get 0 x.rsc i).toInt

/-- A plane by its number: P1 when `true` (R222). -/
def Matrix.plane (x : Matrix) (b : Bool) : Plane := if b then x.planes.2 else x.planes.1

/-- Replace a plane. -/
def Matrix.setPlane (x : Matrix) (b : Bool) (p : Plane) : Matrix :=
  { x with planes := if b then (x.planes.1, p) else (p, x.planes.2) }

/-- A plane row from its entries, the canonical form of `Plane.rows`. -/
def planeRow (f : Nat → BitVec 16) : SMap (BitVec 16) :=
  (List.range 256).filterMap fun k => if f k = flZero then none else some (k, f k)

/-- An accumulator row (R194). -/
def Matrix.row (x : Matrix) (bank r : Nat) : SMap (BitVec 40) := SMap.get [] x.acc (bank * 128 + r)

/-- Write cells of an accumulator row; each takes a valid code (R231). -/
def Matrix.putRow (x : Matrix) (bank r : Nat) (cells : List (Nat × BitVec 40)) : Matrix :=
  { x with acc := SMap.set [] x.acc (bank * 128 + r) (cells.foldl (fun m c => SMap.set 0 m c.1 c.2) (x.row bank r))
           aecc := x.aecc.filter fun e => !(e.1 / 128 == bank * 128 + r && cells.any fun c => c.1 == e.1 % 128) }

/-- Does an accumulator row hold an uncorrectable element? (R231) -/
def Matrix.ueccRow (x : Matrix) (bank r : Nat) : Bool := x.aecc.any fun e => e.1 / 128 == bank * 128 + r && e.2 == 2

/-- TADDR of an accumulator row (R196, R231). -/
def accAddr (bank r : Nat) : Nat := bank * 256 + r

/-- The engine stops: nothing further enters or loads, and the queue is discarded (R233). -/
def Matrix.stop (x : Matrix) : Matrix := { x with queue := [], loader := none, array := none }

/-- A trap of the engine, for the commit point of the primary bundle that issues on this cycle (R232). -/
def State.matrixTrap (s : State) (t : Nat) (code : BitVec 6) (info : BitVec 8) (addr : W64) (mask : BitVec 8) : State :=
  (s.updTile t fun x => { x with mx := x.mx.stop }).raiseExt t code info addr mask

/-- OR flags into MFLAGS. -/
def Tile.orM (x : Tile) (f : MFl) : Tile := { x with mflags := x.mflags ||| f }

/-! ## Command starts -/

/-- The slot bit of the M slot. -/
def mBit : BitVec 8 := slotBit 6

/-- A start-cycle trap names the command's bundle and slot (R139, R140). (DEDUCED: log 46, 47.) -/
def State.startTrap (s : State) (t : Nat) (code : BitVec 6) (pc : Nat) : State :=
  s.matrixTrap t code s.anyInfo (BitVec.ofNat 64 pc) mBit |>.spend

/-- What a command does on its start cycle once its gate has passed (R227, R232, R235 to R239). -/
def State.runMatrix (s : State) (t : Nat) (m : MCmd) : State :=
  let x := (s.tile t).mx
  match m.op with
  | 1 =>
    if x.loader.isSome then s.startTrap t 0x0E m.pc
    else
      let sh := !x.act
      s.updTile t fun y => { y with mx := { (y.mx.setPlane sh { y.mx.plane sh with pair := decide (m.wf ≠ 3) }) with
        loader := some ⟨false, 0, m.base, m.stride, m.scales, m.rows, m.wf, sh⟩ } }
  | 5 =>
    if x.loader.isSome then s.startTrap t 0x0E m.pc
    else s.updTile t fun y => { y with mx := { y.mx with loader := some ⟨true, 0, m.base, m.stride, 0, 8, 0, false⟩ } }
  | 2 =>
    if x.array.isSome && (x.plane true).pair != (x.plane false).pair then s.startTrap t 0x0E m.pc
    else s.updTile t fun y => { y with mx := { y.mx with act := !y.mx.act } }
  | 6 =>
    s.updTile t fun y => { y with mx := { y.mx with
      rsc := (List.range 128).filterMap fun i => let v := byteOf m.scales i; if v = 0 then none else some (i, v) } }
  | _ =>
    if x.array.isSome then s.startTrap t 0x0E m.pc
    else
      let pair := (x.plane x.act).pair
      if pair && m.wf == 4 && !alignedBy 256 m.base m.stride then s.startTrap t 0x08 m.pc
      else s.updTile t fun y => { y with mx := { y.mx with
        array := some ⟨m.start, m.base, m.stride, m.rows, m.wf, pair, m.acc, m.row0, m.op == 4, m.cb⟩ } }

/-- A gate's trap: BASIN_ERROR, TIMING_MISS (R139), or UECC (R188). -/
def gateTrap : GateOut → Option (BitVec 6)
  | .error => some 0x15
  | .miss => some 0x0F
  | .bad => some 0x09
  | _ => none

/-- The first command of the queue starts on its cycle (R139, R140, R232). -/
def State.startMatrix (s : State) (t : Nat) : State :=
  let x := s.tile t
  match x.mx.queue with
  | [] => s
  | m :: q =>
    let s := s.updTile t fun y => { y with mx := { y.mx with queue := q } }
    match gateTrap (x.gateState .primary m.start m.gate) with
    | some c =>
      if c = 0x09 then (s.matrixTrap t c s.anyInfo (s.gateAddr x .primary m.start m.gate) mBit).spend else s.startTrap t c m.pc
    | none => s.runMatrix t m

/-! ## The ports the engine uses on a cycle -/

/-- The address of row `j` of a load. -/
def LoadJob.addr (l : LoadJob) (j : Nat) : Int := l.base + (j : Int) * l.stride

/-- The addresses of the lines row `i` of a pass reads (R237). -/
def PassJob.addrs (a : PassJob) (i : Nat) : List Int :=
  let x := a.base + (i : Int) * a.stride
  if a.pair && a.wf == 3 then [x, x + 256] else [x]

/-- A scratchpad read by the engine. -/
def mxRead (a : Int) : PortUse := ⟨false, a.toNat / 256 % 32, false, a.toNat / 256, 1, 0, a.toNat⟩

/-- An accumulator access. -/
def accUse (wr : Bool) (code bank r : Nat) (mask : BitVec 8) : PortUse := ⟨true, bank, wr, r, code, mask, accAddr bank r⟩

/-- The addresses of the lines the loader and the array read on a cycle (R190, R226). -/
def Matrix.reads (x : Matrix) (c : Nat) : List Int :=
  (match x.loader with
    | some l => [l.addr l.row]
    | none => []) ++
  match x.array with
    | some a => a.addrs (c - a.start)
    | none => []

/-- The accumulator ports the pass rows use on a cycle (R194, R228). -/
def Matrix.rowUses (x : Matrix) (c : Nat) : List PortUse :=
  ((x.rows.filter fun r => r.due == c).flatMap fun r =>
    (if r.zero then [] else [accUse false 1 r.acc r.row 0]) ++ [accUse true 1 r.acc r.row 0])

/-- Do two uses need one port? (R187, R191, R195) -/
def PortUse.same (a b : PortUse) : Bool := a.acc == b.acc && a.wr == b.wr && a.bank == b.bank

/-- Does a use meet another one on its port? The list holds the use itself. -/
def clashes (us : List PortUse) (u : PortUse) : Bool := decide (2 ≤ (us.filter u.same).length)

/-- The cause of a port that several uses meet on (R191, R196). -/
def clashCause (us : List PortUse) : Option Cause :=
  let srt := sortBy (fun a b => decide (a.code ≤ b.code)) us
  match srt with
  | a :: b :: _ =>
    let at_ := if a.acc then 2 ^ 63 else 0
    let wp := if a.wr then 2 ^ 62 else 0
    some ⟨0x04, us.foldl (fun m u => m ||| u.mask) 0, BitVec.ofNat 8 (a.code * 16 + b.code), BitVec.ofNat 64 (at_ + wp + a.addr), true, false⟩
  | _ => none

/-- The port a use needs. -/
def PortUse.port (u : PortUse) : Bool × Bool × Nat := (u.acc, u.wr, u.bank)

/-- The causes of every clash among the uses of a tick, one for each port (R191). -/
def clashCauses (us : List PortUse) : List Cause :=
  (us.map PortUse.port).dedup.filterMap fun k =>
    let here := us.filter fun u => u.port == k
    if 2 ≤ here.length then clashCause here else none

/-- The single-bit errors of an accumulator row, corrected and counted on a read (R231). -/
def Tile.scrubAcc (x : Tile) (bank r : Nat) : Tile :=
  let hit := fun (e : Nat × BitVec 2) => e.1 / 128 == bank * 128 + r && e.2 == 1
  { x with soft := x.soft + (x.mx.aecc.filter hit).length, mx := { x.mx with aecc := x.mx.aecc.filter fun e => !hit e } }

/-- The uncorrectable words of accesses that a clash kept from being made (R191). -/
def Tile.unread (x : Tile) (hit : BitVec 8) : Tile :=
  { x with prim := { x.prim with issued := x.prim.issued.map fun (b : Issued) =>
    { b with causes := b.causes.filter fun (k : Cause) => k.code != 0x09 || k.mask &&& hit == 0 } } }

/-- The ports of a tick once all its uses are known: every clash is a cause, a syllable among its requesters made no access and so met no uncorrectable word, and the accumulator reads that are made correct single-bit errors (R191, R230, R231). -/
def Tile.settlePorts (x : Tile) : Tile :=
  let x := { x with pend := x.pend ++ clashCauses x.uses }
  let hit := (x.uses.filter (clashes x.uses)).foldl (fun m u => m ||| u.mask) (0 : BitVec 8)
  let x := if hit == 0 then x else x.unread hit
  (x.uses.filter fun u => u.acc && !u.wr && !clashes x.uses u).foldl (fun x u => x.scrubAcc u.bank u.ln) x

/-! ## Loads -/

/-- The weight entry `k` of an FC2 row (R43, R235). -/
def fc2Entry (x : Matrix) (m : List Host.Cell) (r k : Nat) (c : Int) : BitVec 16 × VFl :=
  let w := readN m (r + 2 * (k / 8)) 2
  let e : BitVec 8 := BitVec.ofNat 8 (field w (k % 8) 1 * 128 + (x.magAt (w / 256) (k % 8)).toNat)
  widen8 e c

/-- The entries of a plane row as a load widens them (R235). -/
def loadEntry (x : Matrix) (m : List Host.Cell) (wf r k : Nat) (c : Int) : BitVec 16 × VFl :=
  match wf with
  | 3 => if k < 128 then scale16 (BitVec.ofNat 16 (readN m (r + 2 * k) 2)) c else (flZero, 0)
  | 4 => widen8 (BitVec.ofNat 8 (readN m (r + k) 1)) c
  | _ => fc2Entry x m r k c

/-- The MATRIX read check of a line (R197); the answer is INFO. -/
def State.mxSet (s : State) (t : Nat) (a : Int) : Option (BitVec 8) :=
  if a < 0 ∨ 0x400000 ≤ a then some (setInfo 1 false 1)
  else if inSet (s.thdr t) (s.tile t).phase.toNat 1 false (a.toNat / 256) then none else some (setInfo 1 false 0)

/-- An engine's read of a line that holds an uncorrectable word or tag raises UECC (R188, R232). -/
def State.mxUecc (s : State) (t : Nat) (a : Int) : Option (BitVec 6 × BitVec 8 × W64) :=
  if (s.tile t).ueccLine (a.toNat / 256) then
    some (0x09, s.anyInfo, (((s.tile t).ueccWord (a.toNat / 256)).map (BitVec.ofNat 64)).getD s.anyAddr)
  else none

/-- The ports the engine uses on a cycle; a line outside its sets is not accessed, and takes no port (R190, R197, R232). -/
def State.engineUses (s : State) (t c : Nat) : List PortUse :=
  (((s.tile t).mx.reads c).filter fun a => (s.mxSet t a).isNone).map mxRead ++ (s.tile t).mx.rowUses c

/-- The first trap of the lines an engine reads on a cycle, in the order SET_VIOLATION, BANK_CONFLICT, UECC (R188, R191, R197, R232); the clash itself is raised by `clashCauses`, and the answer's second part says that there is one. -/
def State.mxCheck (s : State) (t : Nat) (us : List PortUse) (as_ : List Int) : Option (BitVec 6 × BitVec 8 × W64) × Bool :=
  match as_.findSome? fun a => (s.mxSet t a).map fun i => (0x06, i, BitVec.ofInt 64 a) with
  | some k => (some k, false)
  | none =>
    if as_.any fun a => clashes us (mxRead a) then (none, true)
    else (as_.findSome? (s.mxUecc t), false)

/-- A plane row or MAG rows written by the loader on a cycle (R235, R238). -/
def State.loadRow (s : State) (t : Nat) (l : LoadJob) (j : Nat) : State :=
  let x := s.tile t
  let a := (l.addr j).toNat
  let x := x.scrub (a / 256)
  let done := fun (m : Matrix) => { m with loader := if l.rows ≤ j + 1 then none else some { l with row := j + 1 } }
  if l.cb then
    let g := (List.range 256).foldl (fun g i =>
      let n := 32 * j + i / 8
      setMag g n (i % 8) (BitVec.ofNat 7 (readN x.spad (a + i) 1))) x.mx.mag
    s.setTile t { x with mx := done { x.mx with mag := g } }
  else
    let c : Int := (byteOf l.scales j).toInt
    let f := fun k => loadEntry x.mx x.spad l.wf a k c
    let p := x.mx.plane l.plane
    let fl := (List.range 256).foldl (fun (fl : VFl) k => fl ||| (f k).2) 0
    s.setTile t ({ x with mx := done (x.mx.setPlane l.plane { p with rows := SMap.set [] p.rows j (planeRow fun k => (f k).1) }) }.orM
      (mflOfV fl))

/-- What an access of the engine on a cycle comes to: its trap or a clash, which stop the engine, or nothing (R232, R233). -/
def State.mxStop (s : State) (t : Nat) (us : List PortUse) (as_ : List Int) : Option State :=
  match s.mxCheck t us as_ with
  | (some (code, i, a), _) => some (s.matrixTrap t code i a 0).spend
  | (none, true) => some (s.updTile t fun y => { y with mx := y.mx.stop })
  | (none, false) => none

/-- The loader's row of a cycle (R226, R235). (DEDUCED: log 53.) -/
def State.loaderTick (s : State) (t : Nat) : State :=
  match (s.tile t).mx.loader with
  | none => s
  | some l => s.loadRow t l l.row

/-! ## Passes -/

/-- Activation element `k` of a pass row, widened (R225, R237). -/
def actElem (m : List Host.Cell) (wf a k : Nat) (c : Int) : BitVec 16 × VFl :=
  if wf = 3 then scale16 (BitVec.ofNat 16 (readN m (a + 2 * k) 2)) c else widen8 (BitVec.ofNat 8 (readN m (a + k) 1)) c

/-- A row entering the array (R228). -/
def State.enterRow (s : State) (t c : Nat) (a : PassJob) (i : Nat) : State :=
  let x := s.tile t
  let adr := (a.addrs i).headD 0 |>.toNat
  let x := (a.addrs i).foldl (fun x r => x.scrub (r.toNat / 256)) x
  let sc := a.cb + x.mx.rscAt i
  let es := (List.range (if a.pair then 256 else 128)).map fun k => actElem x.spad a.wf adr k sc
  let fl := es.foldl (fun (f : VFl) e => f ||| e.2) 0
  let row : PassRow := ⟨c + 136, a.acc, (a.row0 + i) % 128, a.zero, a.pair, es.map (·.1), (x.mx.plane x.mx.act).rows, mflOfV fl⟩
  s.setTile t { x with mx := { x.mx with
    rows := x.mx.rows ++ [row], array := if a.rows ≤ i + 1 then none else x.mx.array } }

/-- The array's row of a cycle (R226, R228). (DEDUCED: log 53.) -/
def State.arrayTick (s : State) (t c : Nat) : State :=
  match (s.tile t).mx.array with
  | none => s
  | some a => s.enterRow t c a (c - a.start)

/-- The accesses of the loader and of the array on a cycle. -/
def Matrix.loaderReads (x : Matrix) : List Int := (x.loader.map fun l => [l.addr l.row]).getD []
def Matrix.arrayReads (x : Matrix) (c : Nat) : List Int := (x.array.map fun a => a.addrs (c - a.start)).getD []

/-- The engine's accesses of a cycle: a trap of either stops both, and no row enters or loads on that cycle; else the row that enters, and the row that loads, which the next cycle's pass rows use (R232, R233, R235). (DEDUCED: log 53.) -/
def State.accessTick (s : State) (t c : Nat) (us : List PortUse) : State :=
  let x := (s.tile t).mx
  match s.mxStop t us x.loaderReads with
  | some u => (u.mxStop t us (x.arrayReads c)).getD u
  | none => (s.mxStop t us (x.arrayReads c)).getD ((s.arrayTick t c).loaderTick t)

/-- The products of one column, in the order of R50. -/
def accumulate : List (BitVec 16) → List (BitVec 16) → Bool → BitVec 40 × MFl → BitVec 40 × MFl
  | x :: y :: xs, w :: v :: ws, true, a =>
    let t := acAdd (acProduct x w) (acProduct y v)
    let r := acAdd a.1 t.1
    accumulate xs ws true (r.1, a.2 ||| t.2 ||| r.2)
  | x :: xs, w :: ws, false, a =>
    let r := acAdd a.1 (acProduct x w)
    accumulate xs ws false (r.1, a.2 ||| r.2)
  | _, _, _, a => a

/-- The new accumulator row of a pass row, with its flags (R237). -/
def PassRow.result (r : PassRow) (old : SMap (BitVec 40)) : List (Nat × BitVec 40) × MFl :=
  let cols := (List.range 128).map fun j =>
    let w := SMap.get [] r.plane j
    accumulate r.x ((List.range r.x.length).map (SMap.get flZero w)) r.pair (if r.zero then 0 else SMap.get 0 old j, 0)
  (cols.zipIdx.map fun c => (c.2, c.1.1), cols.foldl (fun f c => f ||| c.2) r.mf)

/-- A pass row on its accumulator cycle (R228, R231). -/
def State.rowTick (s : State) (t : Nat) (us : List PortUse) (r : PassRow) : State :=
  let s := s.updTile t fun y => { y with mx := { y.mx with rows := y.mx.rows.erase r } }
  let x := s.tile t
  if clashes us (accUse true 1 r.acc r.row 0) || (!r.zero && clashes us (accUse false 1 r.acc r.row 0)) then
    s.updTile t fun y => { y with mx := y.mx.stop }
  else if !r.zero && x.mx.ueccRow r.acc r.row then
    (s.matrixTrap t 0x09 s.anyInfo (BitVec.ofNat 64 (2 ^ 63 + accAddr r.acc r.row)) 0).spend
  else
    let n := r.result (x.mx.row r.acc r.row)
    s.setTile t ({ x with mx := x.mx.putRow r.acc r.row n.1 }.orM n.2)

/-- The engine on an unheld cycle: the accumulator rows due, and its accesses (R228, R235). (DEDUCED: log 53.) -/
def State.matrixTick (s : State) (t c : Nat) (us : List PortUse) : State :=
  (((s.tile t).mx.rows.filter fun r => r.due == c).foldl (fun s r => s.rowTick t us r) s).accessTick t c us

/-! ## Instructions of the K slot -/

/-- The accumulator row a K syllable names (R113). -/
def State.krow (s : State) (row : BitVec 7) (ae : BitVec 1) (a : BitVec 6) : Nat :=
  if ae = 1 then (row.toNat + (s.rs a).toNat % 128) % 128 else row.toNat

/-- The tag of a K read (R240). -/
def State.ktag (s : State) (ae : BitVec 1) (a : BitVec 6) (op : Nat) : Tag :=
  tagOf [if ae = 1 then s.ts a else 0] (opk 5 op)

/-- The read port taken and the row read, or UECC, which a clash on that port takes back (R194, R230, R231, R240; `Tile.settlePorts`). -/
def State.kread (s : State) (acc : BitVec 3) (r : Nat) (f : State → SMap (BitVec 40) → State) : State :=
  let x := s.ctile
  let s := s.updTile s.cur.tile fun y => { y with uses := y.uses ++ [accUse false 7 acc.toNat r (slotBit s.cur.slot)] }
  if x.mx.ueccRow acc.toNat r then s.raiseAt 0x09 (BitVec.ofNat 64 (2 ^ 63 + accAddr acc.toNat r))
  else f s (x.mx.row acc.toNat r)

/-- The mode of a converting read of element `j` (R52, R240). -/
def State.kmode (s : State) (rm : BitVec 2) (j : Nat) : Mode := Mode.ofRM rm (draw s.cur.word 7 j)

/-- The OR of the flags of `n` conversions. -/
def flagsUpTo (n : Nat) (f : Nat → VFl) : VFl := (List.range n).foldl (fun (fl : VFl) j => fl ||| f j) 0

/-- ARD (R240). -/
def execArd (p : BitVec 4) (acc : BitVec 3) (row : BitVec 7) (h : BitVec 1) (v : BitVec 6) (ae : BitVec 1) (a : BitVec 6)
    (rm : BitVec 2) (s : State) : Out :=
  s.when p fun s => s.kread acc (s.krow row ae a) fun s m =>
    let f := fun l => toIEEE .f32 (s.kmode rm l) (acLin (SMap.get 0 m (64 * h.toNat + l)))
    s.resultV v 6 (BitVec.allOnes 64) (ofLanes fun l => (f l).1) (s.ktag ae a 0x01) (flagsUpTo 64 fun l => (f l).2) 0

/-- ARDB (R240). -/
def execArdb (p : BitVec 4) (acc : BitVec 3) (row : BitVec 7) (v : BitVec 6) (ae : BitVec 1) (a : BitVec 6) (rm : BitVec 2)
    (s : State) : Out :=
  s.when p fun s => s.kread acc (s.krow row ae a) fun s m =>
    let f := fun j => toIEEE .bf16 (s.kmode rm j) (acLin (SMap.get 0 m j))
    s.resultV v 6 (BitVec.allOnes 64) (ofHalves fun j => (f j).1.setWidth 16) (s.ktag ae a 0x02) (flagsUpTo 128 fun j => (f j).2) 0

/-- ARDL (R240). -/
def execArdl (p : BitVec 4) (acc : BitVec 3) (row : BitVec 7) (v : BitVec 6) (ae : BitVec 1) (a : BitVec 6) (rm : BitVec 2)
    (s : State) : Out :=
  s.when p fun s => s.kread acc (s.krow row ae a) fun s m =>
    let f := fun j => toFL16 (s.kmode rm j) (acLin (SMap.get 0 m j))
    s.resultV v 6 (BitVec.allOnes 64) (ofHalves fun j => (f j).1) (s.ktag ae a 0x03) 0 (mflOfV (flagsUpTo 128 fun j => (f j).2))

/-- ARDL8 (R240). -/
def execArdl8 (p : BitVec 4) (acc : BitVec 3) (row : BitVec 7) (v : BitVec 6) (ae : BitVec 1) (a : BitVec 6) (rm : BitVec 2)
    (c8 : BitVec 8) (s : State) : Out :=
  s.when p fun s => s.kread acc (s.krow row ae a) fun s m =>
    let f := fun j => toFL8 (s.kmode rm j) c8.toInt (acLin (SMap.get 0 m j))
    let v' := BitVec.ofNat 2048 ((List.range 128).foldr (fun j n => (f j).1.toNat + 256 * n) 0)
    s.resultV v 6 (BitVec.allOnes 64) v' (s.ktag ae a 0x04) 0 (mflOfV (flagsUpTo 128 fun j => (f j).2))

/-- An accumulator row written at k + 3, with its flags (R194, R241). -/
def State.kwrite (s : State) (acc : BitVec 3) (r : Nat) (cells : List (Nat × BitVec 40)) (mf : MFl) : State :=
  (s.emit (.delay ⟨s.landAt 3, s.cur.slot, .accRow acc.toNat r cells mf⟩)).mark

/-- Cells `lo` to `lo + n − 1` from converted elements, and their flags. -/
def cellsOf (n lo : Nat) (f : Nat → BitVec 40 × MFl) : List (Nat × BitVec 40) × MFl :=
  ((List.range n).map fun i => (lo + i, (f i).1), (List.range n).foldl (fun (m : MFl) i => m ||| (f i).2) 0)

/-- AWR (R241). -/
def execAwr (p : BitVec 4) (acc : BitVec 3) (row : BitVec 7) (h : BitVec 1) (v : BitVec 6) (ae : BitVec 1) (a : BitVec 6)
    (s : State) : Out :=
  s.when p fun s =>
    let c := cellsOf 64 (64 * h.toNat) fun l => ac40 (unF32 (lane (s.rv v) l))
    s.kwrite acc (s.krow row ae a) c.1 c.2

/-- AWRB (R241). -/
def execAwrb (p : BitVec 4) (acc : BitVec 3) (row : BitVec 7) (v : BitVec 6) (ae : BitVec 1) (a : BitVec 6) (s : State) : Out :=
  s.when p fun s =>
    let c := cellsOf 128 0 fun j => ac40 (unBF16 (half (s.rv v) j))
    s.kwrite acc (s.krow row ae a) c.1 c.2

/-- ACLR (R241). -/
def execAclr (p : BitVec 4) (acc : BitVec 3) (row : BitVec 7) (ae : BitVec 1) (a : BitVec 6) (s : State) : Out :=
  s.when p fun s => s.kwrite acc (s.krow row ae a) (cellsOf 128 0 fun _ => (0, 0)).1 0

/-- AADD (R241): the old row is read on k. -/
def execAadd (p : BitVec 4) (acc : BitVec 3) (row : BitVec 7) (v : BitVec 6) (ae : BitVec 1) (a : BitVec 6) (s : State) : Out :=
  s.when p fun s => s.kread acc (s.krow row ae a) fun s m =>
    let c := cellsOf 128 0 fun j =>
      let e := ac40 (unBF16 (half (s.rv v) j))
      let r := acAdd (SMap.get 0 m j) e.1
      (r.1, e.2 ||| r.2)
    s.kwrite acc (s.krow row ae a) c.1 c.2

end Sys2Proof.Machine
end

