-- ==== Sys2Proof/Machine/Channel.lean ====
section
/-! DEFINITION. The channel sequencers: the 12 channel syllables, the timing checker, refresh, cached windows and burst landings (12: R244 to R260). -/

namespace Sys2Proof.Machine

/-! ## Geometry and the timing profile -/

/-- The halves of a timing register (R246). (PRESUMED: log 20.) -/
def State.profHi (s : State) (i : Nat) : Nat := ((s.iod.dprof.getD i 0).extractLsb' 16 16).toNat
def State.profLo (s : State) (i : Nat) : Nat := ((s.iod.dprof.getD i 0).extractLsb' 0 16).toNat

/-- The stack and the channel of a sequencer (R82). -/
def seqStack (q : Nat) : Nat := 3 * (q / 96) + q % 96 / 32
def seqChan (q : Nat) : Nat := q % 96 % 32

/-- The key of the region a sequencer serves. -/
def Seqr.regKey (x : Seqr) (q : Nat) : Nat := ((x.entry.map fun e => e.toNat).getD 0) * 32 + q / 96 * 8 + x.region

/-- The lowest-numbered tile of a sequencer's node that is not DEAD (R254). -/
def State.nodeTile (s : State) (q : Nat) : Nat :=
  let b := q / 4 * 4
  b + ((List.range 4).find? fun t => decide ((s.tile (b + t)).st ≠ .dead)).getD 0

/-- The tile a command names: a logical position of the node, resolved by R75 (R249). -/
def State.seqTile (s : State) (q tl : Nat) : Option Nat :=
  (s.seqr q).tls[tl]?

/-- The pseudo-channel of a sequencer. -/
def Seqr.pc (x : Seqr) (pc : Nat) : PchT := if pc = 0 then x.pch.1 else x.pch.2

/-- Change a pseudo-channel. -/
def Seqr.updPc (x : Seqr) (pc : Nat) (f : PchT → PchT) : Seqr :=
  { x with pch := if pc = 0 then (f x.pch.1, x.pch.2) else (x.pch.1, f x.pch.2) }

/-- A bank of a pseudo-channel. -/
def Seqr.bank (x : Seqr) (pc bk : Nat) : BankT := SMap.get BankT.reset x.banks (pc * 16 + bk)

/-- Change a bank. -/
def Seqr.updBank (x : Seqr) (pc bk : Nat) (f : BankT → BankT) : Seqr :=
  { x with banks := SMap.upd BankT.reset x.banks (pc * 16 + bk) f }

/-! ## The timing checker (R253) -/

/-- Is a tick closer than a distance to an earlier command? -/
def tooSoon (t : Nat) (earlier : Option Nat) (d : Nat) : Bool :=
  match earlier with
  | none => false
  | some e => decide (t < e + d)

/-- The other banks of a pseudo-channel, of the same bank group or of another (BK[3:2]). -/
def otherBanks (bk : Nat) (same : Bool) : List Nat :=
  (List.range 16).filter fun b => b ≠ bk && (decide (b / 4 = bk / 4) == same)

/-- The last column command of a bank: a RD or a WR. -/
def BankT.cols (b : BankT) (t d : Nat) : Bool := tooSoon t b.rd d || tooSoon t b.wr d

/-- Would a PRE of a bank break tRAS, tWR or tRTP? The lowest code, or 0. -/
def State.preBreak (s : State) (x : Seqr) (pc bk : Nat) : Nat :=
  let t := s.ptime.toNat
  let b := x.bank pc bk
  if tooSoon t b.act (s.profHi 2) then 0x03
  else if tooSoon t b.wr (s.profLo 9 + s.profLo 5 + (s.profHi 9 - s.profLo 9)) then 0x0A
  else if tooSoon t b.rd (s.profLo 6) then 0x0C else 0

/-- The lowest non-zero code of a list, 0 when there is none. -/
def lowest (l : List Nat) : Nat :=
  match l.filter fun c => c ≠ 0 with
  | [] => 0
  | c :: cs => cs.foldl Nat.min c

/-- The lowest constraint a command breaks, 0 when none (R253). Commands by their opcodes of R114. -/
def State.breaks (s : State) (x : Seqr) (cmd pc bk : Nat) : Nat :=
  let t := s.ptime.toNat
  let b := x.bank pc bk
  let p := x.pc pc
  let iff := fun (c : Bool) (n : Nat) => if c then n else 0
  match cmd with
  | 1 => lowest [
      iff (tooSoon t b.pre (s.profLo 1)) 0x02,
      iff (tooSoon t b.act (s.profLo 2)) 0x04,
      iff ((otherBanks bk false).any fun o => tooSoon t (x.bank pc o).act (s.profHi 3)) 0x05,
      iff ((otherBanks bk true).any fun o => tooSoon t (x.bank pc o).act (s.profLo 3)) 0x06,
      iff (tooSoon t p.acts[3]? (s.profHi 4)) 0x07,
      iff (tooSoon t p.ref (s.profHi 7)) 0x0D,
      iff (tooSoon t b.refpb (s.profLo 7)) 0x0E]
  | 2 | 3 => lowest [
      iff (tooSoon t b.act (s.profHi 1)) 0x01,
      iff ((otherBanks bk false).any fun o => (x.bank pc o).cols t (s.profLo 4)) 0x08,
      iff ((bk :: otherBanks bk true).any fun o => (x.bank pc o).cols t (s.profHi 5)) 0x09,
      iff (cmd == 2 && (List.range 16).any fun o => tooSoon t (x.bank pc o).wr (s.profHi 9 + s.profHi 6)) 0x0B]
  | 4 => s.preBreak x pc bk
  | 5 => lowest ((List.range 16).map (s.preBreak x pc))
  | 6 => lowest [
      iff (tooSoon t p.ref (s.profHi 7)) 0x0D,
      iff ((List.range 16).any fun o => tooSoon t (x.bank pc o).refpb (s.profLo 7)) 0x0E]
  | _ => lowest [
      iff (tooSoon t p.ref (s.profHi 7)) 0x0D,
      iff (tooSoon t b.refpb (s.profLo 7)) 0x0E]

/-- TADDR of DRAM_TIMING and DRAM_BUDGET (R255). (PRESUMED: log 22.) -/
def dramAddr (q pc bk cmd cyc : Nat) : W64 :=
  BitVec.ofNat 64 (seqStack q * 2 ^ 55 + seqChan q * 2 ^ 50 + pc * 2 ^ 49 + bk * 2 ^ 45 + cmd * 2 ^ 41 + cyc % 2 ^ 32)

/-- A sequencer that issues no further program command; what it had under way of an iteration is given up. -/
def Seqr.halt (x : Seqr) : Seqr := { x with run := false, len := 0, total := 0, tmpl := [] }

/-- A breach: the trap on the node's lowest live tile, and the program ended for the task (R254, R259). -/
def State.breach (s : State) (q : Nat) (code : BitVec 6) (con pc bk cmd cyc : Nat) : State :=
  (s.updSeqr q fun x => { x.halt with failed := true }).raiseExt (s.nodeTile q) code (BitVec.ofNat 8 con)
    (dramAddr q pc bk cmd cyc)

/-- The region cycle of the command at hand: the one the sequencer has just reached. -/
def Seqr.now (x : Seqr) : Nat := x.cyc - 1

/-- What keeps a program command from issuing: nothing, or a cause with its code (R254, R259). -/
def State.cmdCheck (s : State) (q cmd pc bk : Nat) : Option (BitVec 6 × Nat) :=
  let x := s.seqr q
  if x.now % 1024 < 64 then some (0x11, 0x21)
  else
    let c := s.breaks x cmd pc bk
    if c = 0 then none else some (0x10, c)

/-- A command of the running program: checked, then issued; a stopped program issues nothing (R254, R259). -/
def State.command (s : State) (cmd : Nat) (pc : BitVec 1) (bk : Nat) (f : Nat → State → State) : Out :=
  let q := s.cur.seqr
  let x := s.seqr q
  if !x.run then .next s
  else match s.cmdCheck q cmd pc.toNat bk with
    | some (code, con) => .next (s.breach q code con pc.toNat bk cmd x.now)
    | none => .next (f q s)

/-! ## Addresses (R247, R248) -/

/-- The sums of the strides at iteration number `t`, level 0 fastest. -/
def nestSum : List (Nat × Int × Int × Int) → Nat → Int × Int × Int
  | [], _ => (0, 0, 0)
  | (n, rs, cs, ds) :: ls, t =>
    let i : Int := (t % n : Nat)
    let r := nestSum ls (t / n)
    (i * rs + r.1, i * cs + r.2.1, i * ds + r.2.2)

/-- The iteration a sequencer is in. -/
def Seqr.iter (x : Seqr) : Nat := (x.now - x.segStart) / x.len

/-- Row, column and sector of a command in the current iteration. -/
def Seqr.addr (x : Seqr) (row col sec : Nat) : Nat × Nat × Nat :=
  let n := nestSum x.nest x.iter
  ((row + n.1).toNat, (col + n.2.1).toNat, (sec + n.2.2).toNat)

/-- The memory address of a burst of an open logical row (R82, R245). (PRESUMED: log 22.) -/
def Seqr.burstPA (x : Seqr) (pc bk row col : Nat) : Nat :=
  let sn := (if pc = 0 then x.slabs.1 else x.slabs.2).getD (row / 4096) 0
  sn * 2 ^ 26 + bk * 2 ^ 22 + row % 4096 * 2 ^ 10 + col * 64

/-! ## The twelve syllables (R250) -/

/-- ACT. -/
def execAct (pc : BitVec 1) (_ : BitVec 10) (bk : BitVec 4) (row : BitVec 16) (s : State) : Out :=
  s.command 1 pc bk.toNat fun q s =>
    let t := s.ptime.toNat
    s.updSeqr q fun x =>
      (x.updBank pc.toNat bk.toNat fun b => { b with row := some (x.addr row.toNat 0 0).1, act := some t }).updPc pc.toNat
        fun p => { p with acts := (t :: p.acts).take 4 }

/-- RD (R251): a burst that meets an uncorrectable word of memory is not delivered (R188). (DEDUCED: log 109.) -/
def execRd (pc : BitVec 1) (_ : BitVec 10) (bk col : BitVec 4) (tl : BitVec 2) (sec : BitVec 16) (s : State) : Out :=
  s.command 2 pc bk.toNat fun q s =>
    let t := s.ptime.toNat
    let x := s.seqr q
    let a := x.addr 0 col.toNat sec.toNat
    let pa := x.burstPA pc.toNat bk.toNat ((x.bank pc.toNat bk.toNat).row.getD 0) a.2.1
    let b : Burst := ⟨x.now + s.profLo 8, t + s.profLo 8, (s.seqTile q tl.toNat).getD 0, a.2.2,
      BitVec.ofNat 512 (readN s.mem pa 64), x.sid, false, badWord s.merr pa 64⟩
    s.updSeqr q fun x => { (x.updBank pc.toNat bk.toNat fun b => { b with rd := some t }) with bursts := x.bursts ++ [b] }

/-- The bank-port use of a channel access (R190). -/
def chanUse (q : Nat) (wr : Bool) (sec : Nat) : PortUse := ⟨false, sec / 4 % 32, wr, sec / 4, 2 + q % 4, 0, sec * 64⟩

/-- The CHANNEL check of a sector in a tile's current phase (R197). -/
def State.chanSet (s : State) (t sec : Nat) (wr : Bool) : Option (BitVec 8) :=
  if 0x10000 ≤ sec then some (setInfo 3 wr 1)
  else if inSet (s.thdr t) (s.tile t).phase.toNat 3 wr (sec / 4) then none else some (setInfo 3 wr 0)

/-- Is a burst's write made: its tile has gone, or its line lies in the CHANNEL write set? (R197, R251) -/
def State.burstMade (s : State) (b : Burst) : Bool := (s.tile b.tile).st != .bound || (s.chanSet b.tile b.sec true).isNone

/-- The sequencer stops where it stands (R191). -/
def State.haltSeqr (s : State) (q : Nat) : State := s.updSeqr q Seqr.halt

/-- WR (R251): the source sector is read on the command cycle. -/
def execWr (pc : BitVec 1) (_ : BitVec 10) (bk col : BitVec 4) (tl : BitVec 2) (sec : BitVec 16) (s : State) : Out :=
  s.command 3 pc bk.toNat fun q s =>
    let x := s.seqr q
    let a := x.addr 0 col.toNat sec.toNat
    let t := (s.seqTile q tl.toNat).getD 0
    let y := s.tile t
    match s.chanSet t a.2.2 false with
    | some i => s.raiseExt t 0x06 i (BitVec.ofNat 64 (a.2.2 * 64))
    | none =>
      if clashes y.uses (chanUse q false a.2.2) then s.haltSeqr q
      else if y.ueccLine (a.2.2 / 4) then
        (s.raiseExt t 0x09 s.anyInfo (((y.ueccWord (a.2.2 / 4)).map (BitVec.ofNat 64)).getD (BitVec.ofNat 64 (a.2.2 / 4 * 256)))).spend
      else
        let pa := x.burstPA pc.toNat bk.toNat ((x.bank pc.toNat bk.toNat).row.getD 0) a.2.1
        let s := s.writeMem pa (readBytes y.spad (a.2.2 * 64) 64)
        let s := s.updTile t fun y => y.scrub (a.2.2 / 4)
        s.updSeqr q fun x => x.updBank pc.toNat bk.toNat fun b => { b with wr := some s.ptime.toNat }

/-- A bank closed on a tick. -/
def BankT.close (t : Nat) (b : BankT) : BankT := { b with row := none, pre := some t }

/-- Every bank of a pseudo-channel closed. -/
def Seqr.closeAll (x : Seqr) (pc t : Nat) : Seqr := (List.range 16).foldl (fun x bk => x.updBank pc bk (BankT.close t)) x

/-- PRE. -/
def execPre (pc : BitVec 1) (_ : BitVec 10) (bk : BitVec 4) (s : State) : Out :=
  s.command 4 pc bk.toNat fun q s => s.updSeqr q fun x => x.updBank pc.toNat bk.toNat (BankT.close s.ptime.toNat)

/-- PREA. -/
def execPrea (pc : BitVec 1) (_ : BitVec 10) (s : State) : Out :=
  s.command 5 pc 0 fun q s => s.updSeqr q fun x => x.closeAll pc.toNat s.ptime.toNat

/-- The refresh debt lowered, never below −8 (R256). -/
def PchT.repay (p : PchT) : PchT := { p with debt := if p.debt ≤ -8 then p.debt else p.debt - 1 }

/-- REF (R256). -/
def execRef (pc : BitVec 1) (_ : BitVec 10) (s : State) : Out :=
  s.command 6 pc 0 fun q s => s.updSeqr q fun x => x.updPc pc.toNat fun p => { p.repay with ref := some s.ptime.toNat, auto := false }

/-- REFPB (R256): sixteen marks repay one refresh. -/
def execRefpb (pc : BitVec 1) (_ : BitVec 10) (bk : BitVec 4) (s : State) : Out :=
  s.command 7 pc bk.toNat fun q s => s.updSeqr q fun x =>
    (x.updBank pc.toNat bk.toNat fun b => { b with refpb := some s.ptime.toNat }).updPc pc.toNat fun p =>
      let m := p.marks ||| BitVec.twoPow 16 bk.toNat
      if m = BitVec.allOnes 16 then { p.repay with marks := 0 } else { p with marks := m }

/-- A change of the running program's sequencer. -/
def State.program (s : State) (f : Seqr → Seqr) : Out :=
  if (s.seqr s.cur.seqr).run then .next (s.updSeqr s.cur.seqr f) else .next s

/-- WAITC. -/
def execWaitc (cnt : BitVec 20) (s : State) : Out := s.program fun x => { x with segStart := x.segStart + cnt.toNat }

/-- TNEST. -/
def execTnest (lv : BitVec 3) (cnt : BitVec 16) (rs : BitVec 12) (cs : BitVec 4) (ds : BitVec 16) (s : State) : Out :=
  s.program fun x => { x with nest := x.nest.set lv.toNat (cnt.toNat, rs.toInt, cs.toInt, ds.toInt) }

/-- TEND: the template's length, and how many iterations its levels make. -/
def execTend (len : BitVec 10) (s : State) : Out :=
  s.program fun x => { x with len := len.toNat, total := x.nest.foldl (fun n l => n * l.1) 1 }

/-- TROUTE. -/
def execTroute (sid : BitVec 8) (s : State) : Out := s.program fun x => { x with sid := sid }

/-- THALT (R252). -/
def execThalt (s : State) : Out := s.program fun x => { x with run := false }

/-! ## The program on a cycle (R247) -/

/-- The opcode and the OFS of a channel syllable (R114). -/
def chanOp (w : Nat) : Nat := w / 2 ^ 58
def chanOfs (w : Nat) : Nat := field w 47 10

/-- From a segment's head: the syllables that take no slot, up to a WAITC, TEND or THALT; the template passed; the words used. -/
def gather : List Nat → List Nat × List Nat × Nat
  | [] => ([], [], 0)
  | w :: ws =>
    match chanOp w with
    | 0x08 | 0x0A | 0x0C => ([w], [], 1)
    | 0x09 | 0x0B => let r := gather ws; (w :: r.1, r.2.1, r.2.2 + 1)
    | _ => let r := gather ws; (r.1, w :: r.2.1, r.2.2 + 1)

/-- The sequencer brought to the next cycle of its program, and the syllables of that cycle. -/
def Seqr.advance (x : Seqr) : Seqr × List Nat :=
  let c := x.cyc
  let x := { x with cyc := c + 1 }
  let stop := x.segStart + x.total * x.len
  if 0 < x.len && decide (c < stop) then (x, x.tmpl.filter fun w => chanOfs w == (c - x.segStart) % x.len)
  else
    let x := if 0 < x.len then { x with segStart := stop, len := 0, total := 0, tmpl := [], nest := flatNest } else x
    if c < x.segStart then (x, [])
    else
      let r := gather (x.code.drop x.pos)
      let ends := (r.1.getLast?.map fun w => chanOp w == 0x0A).getD false
      ({ x with pos := x.pos + r.2.2, tmpl := r.2.1 }, r.1 ++ if ends then r.2.1.filter fun w => chanOfs w == 0 else [])

/-- Is an iteration under way, past its first cycle? A hold lets it finish (R144). -/
def Seqr.inIteration (x : Seqr) : Bool :=
  decide (0 < x.len) && decide (x.segStart < x.cyc) && decide (x.cyc < x.segStart + x.total * x.len) &&
    decide ((x.cyc - x.segStart) % x.len ≠ 0)

/-- Has the last bound tile of a sequencer's region ended its task? (R252) -/
def State.seqrOver (s : State) (q : Nat) : Bool :=
  (s.region ((s.seqr q).regKey q)).tiles.all fun t => (s.tile t).st == .dead || (s.tile t).ended

/-- Does a sequencer take a step of its program on this tick? An iteration begun goes on tick by tick, through a hold and past it; else it moves unheld, when region time has reached its cycle (R144, R252). (DEDUCED: log 52.) -/
def State.seqrMoves (s : State) (q : Nat) : Bool :=
  let x := s.seqr q
  let r := s.region (x.regKey q)
  x.run &&
    match r.st with
    | .running => x.inIteration || x.entry.isSome && !r.held && decide (x.cyc ≤ r.rtime) && !s.seqrOver q
    | _ => x.inIteration

/-- The words of the sequencers' programs for the tick, each with its place in the bundle register, and the state with the sequencers brought forward. -/
def State.programs (s : State) : List Nat → State × List (Nat × Nat)
  | [] => (s, [])
  | q :: qs =>
    if s.seqrMoves q then
      let a := (s.seqr q).advance
      let r := (s.setSeqr q a.1).programs qs
      (r.1, a.2.map (fun w => (8 + q, w)) ++ r.2)
    else s.programs qs

/-- The port uses the words of the tick will make: WR source reads whose command issues and whose line lies in the CHANNEL read set (R190, R197). -/
def State.wordUse (s : State) (cw : Nat × Nat) : Option (Nat × PortUse) :=
  let q := cw.1 - 8
  match decodeWord .channel cw.2 with
  | some (.wr pc _ bk _ tl sec) =>
    if (s.cmdCheck q 3 pc.toNat bk.toNat).isNone then
      ((s.seqTile q tl.toNat).filter fun t => (s.chanSet t ((s.seqr q).addr 0 0 sec.toNat).2.2 false).isNone).map
        fun t => (t, chanUse q false ((s.seqr q).addr 0 0 sec.toNat).2.2)
    else none
  | _ => none

/-! ## Landings (R144, R251) -/

/-- The region cycle a sequencer's bursts land by, on a tick that is not held: its region's, or after the task's end the gap's (R77, R251, R252). -/
def State.landCycle (s : State) (q : Nat) : Option Nat :=
  let x := s.seqr q
  let r := s.region (x.regKey q)
  match x.tail with
  | some c =>
    if (if x.entry.isSome then s.pkgHeld (x.regKey q) else s.iod.hot.any fun b => decide (b ≤ s.ptime.toNat)) then none else some c
  | none => match r.st with
    | .running => if r.held then none else some r.rtime
    | _ => none

/-- The bursts of a sequencer that land on this tick. (DEDUCED: log 104.) -/
def State.dueBursts (s : State) (q : Nat) (parked : Bool) : List Burst :=
  match s.landCycle q with
  | none => []
  | some c => (s.seqr q).bursts.filter fun b => b.land == c && b.parked == parked

/-- The end of a tick: the cycles of a task that is over go on in the gap. -/
def State.tickTails (s : State) : State :=
  s.mapSeqrs fun q x => match x.tail, s.landCycle q with
    | some c, some _ => { x with tail := some (c + 1) }
    | _, _ => x

/-- One burst into its sector, with the line's tag, or its trap (R150, R188, R191, R197, R251). (DEDUCED: log 109.) -/
def State.landBurst (s : State) (q : Nat) (b : Burst) : State :=
  let s := s.updSeqr q fun x => { x with bursts := x.bursts.erase b }
  let y := s.tile b.tile
  match (if y.st == .bound then s.chanSet b.tile b.sec true else none) with
  | some i => s.raiseExt b.tile 0x06 i (BitVec.ofNat 64 (b.sec * 64))
  | none =>
    if clashes y.uses (chanUse q true b.sec) then s.haltSeqr q
    else match b.err with
    | some a => (s.raiseExt b.tile 0x09 s.anyInfo (BitVec.ofNat 64 a)).spend
    | none => s.setTile b.tile ((y.putBytes (b.sec * 64) (toBytes 64 b.data.toNat)).setTag (b.sec / 4)
      (0xC000 ^^^ b.sid.setWidth 16 ^^^ epx16 y.prim.regs.epoch))

/-- RD_BURST_LANDING (R251). -/
def execRdBurstLanding (q : Nat) (s : State) : Out := .next ((s.dueBursts q false).foldl (fun s b => s.landBurst q b) s)

/-- PARKED_BURST_WRITE (R144): the bursts that reached the node during a hold, after the release. -/
def execParkedBurstWrite (q : Nat) (s : State) : Out := .next ((s.dueBursts q true).foldl (fun s b => s.landBurst q b) s)

/-- A hold parks the bursts that reach their node on its ticks (R144). -/
def State.parkBursts (s : State) (q : Nat) : State :=
  if (s.landCycle q).isNone then
    s.updSeqr q fun x => { x with bursts := x.bursts.map fun b => if b.arrive = s.ptime.toNat then { b with parked := true } else b }
  else s

/-! ## Refresh and cached windows (R256 to R260) -/

/-- Is region time of a sequencer's launch running on this tick? -/
def State.seqrLive (s : State) (q : Nat) : Bool :=
  let x := s.seqr q
  let r := s.region (x.regKey q)
  x.entry.isSome && !r.held && match r.st with
    | .running => true
    | _ => false

/-- REFRESH_DEBT_RISE (R256): a rise above 8 is a breach while the program runs. (DEDUCED: log 52.) -/
def execRefreshDebtRise (q : Nat) (s : State) : Out :=
  let x := s.seqr q
  let c := (s.region (x.regKey q)).rtime
  if s.seqrLive q && decide (0 < c) && decide (0 < s.profHi 8) && decide (c % s.profHi 8 = 0) then
    .next ((List.range 2).foldl (fun s pc =>
      if 8 ≤ ((s.seqr q).pc pc).debt then (if (s.seqr q).run then s.breach q 0x10 0x0F pc 0 0 c else s)
      else s.updSeqr q fun x => x.updPc pc fun p => { p with debt := p.debt + 1 }) s)
  else .next s

/-- Is a sequencer idle or stopped? (R257) -/
def State.seqrIdle (s : State) (q : Nat) : Bool := !(s.seqr q).run || !s.seqrLive q || s.seqrOver q

/-- The tick a placed region is to be released on, where it is known: its stagger after START, or its step on the schedule (R24, R69). -/
def State.releaseTick (s : State) (r : Nat) : Option Nat :=
  let e := BitVec.ofNat 8 (r / 32)
  match (s.entry e).st with
  | .admitted => some ((s.entry e).start.toNat + (s.hdrOf e).stagger * (s.region r).idx)
  | _ => (s.pending.find? fun p => p.2.1 == .regionRelease r).map fun p => p.1

/-- May what takes a number of ticks start in the gap before a task? It ends before the task's region cycle 0, whose tick is known unless the gap is held past it; a sequencer with no launch leaves a waiting dynamic launch the ticks of its placement (R69, R77, R257). (DEDUCED: log 52.) -/
def State.gapAllows (s : State) (q n : Nat) : Bool :=
  let x := s.seqr q
  let r := x.regKey q
  let now := s.ptime.toNat
  let before := fun (t : Nat) => decide (now + n ≤ t) || decide (t ≤ now)
  if x.entry.isNone then
    !(s.entries.any fun p => p.2.st == .admitted && p.2.ctl.getLsbD 1) || before ((now / 1024 + 1) * 1024)
  else match (s.region r).st with
    | .waiting t => before t
    | .placed => match s.releaseTick r with
      | some t => before t
      | none => true
    | _ => true

/-- Has the cached path an access to a pseudo-channel under way, or its tRP still running? (R260) -/
def Seqr.serving (x : Seqr) (pc t rp : Nat) : Bool := x.served.any fun v => decide (v.pc = pc ∧ t < v.pre + rp)

/-- An autonomous refresh of one pseudo-channel: open banks closed first, on the first tick the timers allow (R257). -/
def State.refreshPc (s : State) (q pc : Nat) : State :=
  let t := s.ptime.toNat
  let x := s.seqr q
  let open' := (List.range 16).any fun b => (x.bank pc b).row.isSome
  if open' then (if s.breaks x 5 pc 0 = 0 then s.setSeqr q (x.closeAll pc t) else s)
  else if decide ((x.pc pc).nextRef ≤ t) && s.breaks x 6 pc 0 == 0 && !x.serving pc t (s.profLo 1) && s.gapAllows q (s.profHi 7) then
    s.setSeqr q (x.updPc pc fun p => { p with ref := some t, auto := true, nextRef := t + s.profHi 8 })
  else s

/-- AUTONOMOUS_REFRESH (R257): an idle or stopped sequencer refreshes by itself; DEBT is not changed. -/
def execAutonomousRefresh (q : Nat) (s : State) : Out :=
  if s.seqrIdle q && !(s.seqr q).inIteration then .next ((List.range 2).foldl (fun s pc => s.refreshPc q pc) s) else .next s

/-- Has an autonomous refresh work to do on this tick? -/
def State.refreshDue (s : State) (q : Nat) : Bool :=
  let x := s.seqr q
  let pcDue := fun pc => decide ((x.pc pc).nextRef ≤ s.ptime.toNat) || (List.range 16).any fun b => (x.bank pc b).row.isSome
  s.seqrIdle q && !x.inIteration && (pcDue 0 || pcDue 1)

/-- An autonomous refresh in progress keeps the hold it began in: one that began on a tick (R257). -/
def State.refreshHolds (s : State) (since q : Nat) : Bool :=
  let x := s.seqr q
  [x.pch.1, x.pch.2].any fun p => p.auto && p.ref.any (fun t => decide (since ≤ t)) && tooSoon s.ptime.toNat p.ref (s.profHi 7)

/-- CACHED_WINDOW_OPEN (R258, R259): every bank must be closed, with its tRP elapsed. Of two pseudo-channels in breach, pseudo-channel 0's alone is raised, and ahead of a command that falls on the same cycle. (DEDUCED: log 52; DESIGN CHOICE: log 122.) -/
def execCachedWindowOpen (q : Nat) (s : State) : Out :=
  let x := s.seqr q
  let c := (s.region (x.regKey q)).rtime
  if s.seqrLive q && x.run && decide (c % 1024 = 0) then
    let bad := fun pc => (List.range 16).find? fun b =>
      (x.bank pc b).row.isSome || tooSoon s.ptime.toNat (x.bank pc b).pre (s.profLo 1)
    match (List.range 2).findSome? fun pc => (bad pc).map fun b => (pc, b) with
    | some (pc, b) => .next (s.breach q 0x11 0x20 pc b 0 c)
    | none => .next s
  else .next s

end Sys2Proof.Machine
end

