-- ==== Sys2Proof/Machine/Mesh.lean ====
section
/-! DEFINITION. The on-die network: timed hops, receiving latches, the mesh injector and best-effort packets (13: R261 to R268, R272). -/

namespace Sys2Proof.Machine

/-! ## The torus (R261, R265) -/

/-- The neighbour of a node: directions 0 +x, 1 −x, 2 +y, 3 −y. -/
def neighbour (n dir : Nat) : Nat :=
  let x := n % 4
  let y := n / 4
  match dir with
  | 0 => (x + 1) % 4 + 4 * y
  | 1 => (x + 3) % 4 + 4 * y
  | 2 => x + 4 * ((y + 1) % 6)
  | _ => x + 4 * ((y + 5) % 6)

/-- The directions of the route from a node to another, x first, the shorter way, a tie toward increasing coordinate (R265). (DEDUCED: log 63.) -/
def routeDirs (a b : Nat) : List Nat :=
  let dx := (b % 4 + 4 - a % 4) % 4
  let dy := (b / 4 + 6 - a / 4) % 6
  (if dx ≤ 2 then List.replicate dx 0 else [1]) ++ (if dy ≤ 3 then List.replicate dy 2 else List.replicate (6 - dy) 3)

/-- The links of a route: each hop's node and direction. -/
def routeLinks : Nat → List Nat → List (Nat × Nat)
  | _, [] => []
  | n, d :: ds => (n, d) :: routeLinks (neighbour n d) ds

/-- One stage a timed line needs on a cycle (R265, R267, R268): the die, the node, the direction (4 ejection, 5 bridge) and, for an ejection the tile's port, for a bridge the far die. -/
structure Stop where
  die : Nat
  node : Nat
  dir : Nat
  sub : Nat
  deriving DecidableEq, Repr

/-- The stage a line from a tile to another needs `n` cycles after its issue, over the mesh of a die or over the bridge (R265, R267). -/
def hopAt (src dst : Nat) (die : Bool) (n : Nat) : Option Stop :=
  let sd := dieOf src
  let td := dieOf dst
  let link := fun (d a b i : Nat) => ((routeLinks a (routeDirs a b))[i]?).map fun l => Stop.mk d l.1 l.2 0
  if die then
    if n = 24 then some ⟨sd, 0, 5, td⟩
    else if n = 56 then some ⟨td, nodeOf dst, 4, 2 * inNode dst + 1⟩
    else if 32 ≤ n then link td 0 (nodeOf dst) (n - 32)
    else if 2 ≤ n then link sd (nodeOf src) 0 (n - 2) else none
  else if n = 24 then some ⟨td, nodeOf dst, 4, 2 * inNode dst⟩
  else if 2 ≤ n then link sd (nodeOf src) (nodeOf dst) (n - 2) else none

/-- The stage a transmission needs on a cycle, counted from its issue. -/
def Tx.stop (x : Tx) (n : Nat) : Option Stop := hopAt x.src x.dst x.die n

/-- Does region time of a region run on this tick? (R142) -/
def State.regionMoves (s : State) (r : Nat) : Bool :=
  let x := s.region r
  !x.held && match x.st with
    | .running => true
    | _ => false

/-- Does a region's time after its task go on: on a tick of the gap that is not held, and not in a park (R77, R142)? -/
def State.gapMoves (s : State) (r : Nat) : Bool :=
  !s.pkgHeld r && match (s.region r).st with
    | .frozen _ => false
    | .running => false
    | _ => true

/-- Does a transmission move on this tick: with its region's time or, once its task is over, on the ticks of the gap that are not held (R77, R265, R267, R271)? (DEDUCED: log 104.) -/
def State.txMoves (s : State) (x : Tx) : Bool :=
  match x.ended with
  | none => s.regionMoves x.region
  | some (t, held) =>
    if s.ptime.toNat ≤ t then !held
    else !s.pkgHeld x.region && match (s.region x.region).st with
      | .frozen _ => false
      | _ => true

/-- The stage a transmission needs on this tick, with its region cycle; a held region's lines wait in their stages (R271). -/
def State.txStop (s : State) (x : Tx) : Option (Stop × Nat) :=
  if !s.txMoves x || x.dropped.any (fun t => decide (t < s.ptime.toNat)) then none
  else (x.stop x.age).map fun p => (p, x.issue + x.age)

/-- The reference count of a region on a cycle (R262). -/
def Region.refCount (r : Region) (c : Nat) : Nat :=
  match r.exch with
  | some (_, start) => c - start
  | none => c

/-- Is a link or bridge cycle reserved to best-effort traffic? The ejection stage has none (R262). -/
def State.reservedCycle (s : State) (x : Tx) (p : Stop) (c : Nat) : Bool :=
  p.dir != 4 && decide (56 ≤ (if x.ended.isSome then c else (s.region x.region).refCount c) % 64)

/-- TADDR of SLOT_COLLISION (R268). -/
def slotAddr (p : Stop) (a b cyc : Nat) : W64 :=
  BitVec.ofNat 64 ((if p.dir = 5 then 0 else p.node) * 2 ^ 59 + p.dir * 2 ^ 56 + a * 2 ^ 47 + b * 2 ^ 38 + cyc % 2 ^ 32)

/-- The other transmissions that need a stage on this tick. -/
def State.txMates (s : State) (x : Tx) (p : Stop) : List Tx :=
  s.txs.filter fun y => y.id != x.id && (s.txStop y).any fun q => q.1 == p

/-- A transmission dropped on this tick, the cause raised on its sending tile (R268). -/
def State.dropTx (s : State) (x : Tx) (sid : BitVec 8) (addr : W64) : State :=
  ({ s with txs := s.txs.map fun (y : Tx) => if y.id = x.id then { y with dropped := some s.ptime.toNat } else y }).raiseExt x.src 0x0D
    sid addr

/-- A line crosses a link direction of a die: the router's count of timed or of best-effort lines, by node and direction (R383). -/
def State.countLine (s : State) (die node dir : Nat) (timed : Bool) : State :=
  s.updDie die fun d => { d with
    lineCounts := SMap.upd (0, 0) d.lineCounts (4 * node + dir) fun n => if timed then (n.1 + 1, n.2) else (n.1, n.2 + 1) }

/-- TIMED_HOP (R262, R265, R267, R268): a stage crossed, or SLOT_COLLISION on the sender. Sender A has the lower launch tile number. (DEDUCED: log 59.) -/
def execTimedHop (x : Nat) (s : State) : Out :=
  match s.txs.find? fun y => y.id == x with
  | none => .next s
  | some y =>
    match s.txStop y with
    | none => .next s
    | some (p, c) =>
      match sortBy (fun (a b : Tx) => decide (a.lt ≤ b.lt)) (s.txMates y p) with
      | m :: _ =>
        let a := if y.lt ≤ m.lt then y else m
        let b := if y.lt ≤ m.lt then m else y
        .next (s.dropTx y a.sid (slotAddr p a.lt b.lt (a.issue + a.age)))
      | [] => .next (if s.reservedCycle y p c then s.dropTx y y.sid (slotAddr p y.lt 0x1FF c)
          else if p.dir < 4 then s.countLine p.die p.node p.dir true else s)

/-! ## Latches and the mesh injector (R266, R272) -/

/-- Does the injector of a die drop a transmission? Its register afterwards (R272). -/
def minjStep (m : W64) (lt : Nat) (sid : BitVec 8) : W64 × Bool :=
  if m.getLsbD 63 && decide (field m.toNat 41 9 = lt) && decide (field m.toNat 33 8 = sid.toNat) then
    if field m.toNat 0 16 = 0 then ((m &&& ~~~ BitVec.twoPow 64 63) ||| BitVec.twoPow 64 62, true) else (m - 1, false)
  else (m, false)

/-- A latch of a port written. -/
def setLatch (p : Port) (sid : BitVec 8) (v : VReg) (tag : Tag) : Port := p.set (sid.setWidth 2).toNat (v, tag)

/-- TADDR of a double-bit error in a timed line, in the form of SLOT_COLLISION: the node and the ejection stage of the receiving port, the sender, what the form's last field says of the port and the latch, and the cycle (R261, R266, R268). (DESIGN CHOICE: log 110.) -/
def linkAddr (y : Tx) : W64 :=
  BitVec.ofNat 64 (nodeOf y.dst * 2 ^ 59 + 4 * 2 ^ 56 + y.lt * 2 ^ 47 +
    (Config.latchName (2 * inNode y.dst + if y.die then 1 else 0) (y.sid.setWidth 2)).toNat * 2 ^ 38 + (y.issue + y.age) % 2 ^ 32)

/-- A delivery: the injector may drop it, then the latch is written, or a double-bit error keeps it and raises UECC on the receiving tile; the transmission is over (R261, R266, R272). (DESIGN CHOICE: log 110.) -/
def State.deliver (s : State) (y : Tx) : State :=
  let m := minjStep (s.die (dieOf y.src)).minj y.lt y.sid
  let s := s.updDie (dieOf y.src) fun d => { d with minj := m.1 }
  let s := { s with txs := s.txs.filter fun z => z.id != y.id }
  if m.2 then s
  else if y.bad then (s.raiseExt y.dst 0x09 s.anyInfo (linkAddr y)).spend
  else s.updTile y.dst fun t =>
    if y.die then { t with dport := setLatch t.dport y.sid y.data y.tag } else { t with mport := setLatch t.mport y.sid y.data y.tag }

/-- A delivery on its cycle, `n` cycles after the issue, unless the transmission was dropped. -/
def State.latchWrite (s : State) (x n : Nat) (die : Bool) : Out :=
  match s.txs.find? fun y => y.id == x && y.die == die with
  | none => .next s
  | some y =>
    .next (if s.txMoves y && y.age == n && y.dropped.isNone then s.deliver y else s)

/-- MESH_LATCH_WRITE (R266). -/
def execMeshLatchWrite (x : Nat) (s : State) : Out := s.latchWrite x 24 false

/-- DIE_LATCH_WRITE (R267). -/
def execDieLatchWrite (x : Nat) (s : State) : Out := s.latchWrite x 56 true

/-- The steps of the transmissions on this tick: every stage, then every delivery. -/
def State.txSteps (s : State) : List Instr :=
  (s.txs.filterMap fun x => (s.txStop x).map fun _ => Instr.timedHop x.id) ++
  (s.txs.filterMap fun x => (s.txStop x).bind fun p =>
    if p.1.dir = 4 then some (if x.die then .dieLatchWrite x.id else .meshLatchWrite x.id) else none)

/-- The end of a tick: transmissions dropped on an earlier one are gone, and those that moved are a cycle older. -/
def State.clearTxs (s : State) : State :=
  { s with txs := (s.txs.filter fun x => !x.dropped.any fun t => decide (t < s.ptime.toNat)).map fun x =>
      if s.txMoves x then { x with age := x.age + 1 } else x }

/-- The transmissions of a region whose task is over go on in the gap (R77). (DEDUCED: log 104.) -/
def State.endTxs (s : State) (r : Nat) : State :=
  { s with txs := s.txs.map fun (x : Tx) =>
      if x.region = r ∧ x.ended = none then { x with ended := some (s.ptime.toNat, (s.region r).held) } else x }

/-! ## Best-effort packets (R262, R264) -/

/-- Send a packet from a node of a die to a node of a die, through an input of its router, `wait` ticks from now; what stands behind the four line buffers of an input that is no link waits where it comes from. (DEDUCED: log 63.) -/
def State.packet (s : State) (d1 n1 d2 n2 inp wait : Nat) (x : Parcel) : State :=
  State.fresh { s with packets := s.packets ++ [⟨s.nextId, d1, n1, inp, d2, n2, s.ptime.toNat + wait, x⟩] }

/-- A step carried from a node to another, on one die or over the bridge (R262, R264). (DEDUCED: log 63.) -/
def State.carry (s : State) (d1 n1 d2 n2 : Nat) (i : Instr) : State := s.packet d1 n1 d2 n2 4 0 (.step i)

/-- Is a link direction used on this tick, by a timed line or by a packet that has crossed it? -/
def State.linkBusy (s : State) (die node dir : Nat) : Bool :=
  (s.txs.any fun x => (s.txStop x).any fun p => p.1 == Stop.mk die node dir 0) ||
    s.packets.any fun k => decide (k.die = die ∧ k.node = neighbour node dir ∧ k.inp = dir ∧ k.moved = s.ptime.toNat)

/-- The packets in one input's four line buffers. -/
def State.bufferLoad (s : State) (die node inp : Nat) : Nat :=
  (s.packets.filter fun k => decide (k.die = die ∧ k.node = node ∧ k.inp = inp)).length

/-- The nodes of the ring a direction runs along. -/
def ringNodes (node dir : Nat) : List Nat :=
  if dir < 2 then (List.range 4).map fun x => x + 4 * (node / 4) else (List.range 6).map fun y => node % 4 + 4 * y

/-- How many buffers a ring has free in a direction. -/
def State.ringFree (s : State) (die node dir : Nat) : Nat :=
  ((ringNodes node dir).map fun n => 4 - s.bufferLoad die n dir).sum

/-- Is a packet the first of its input, and has it stood there since an earlier tick? So packets of one source and one destination keep their order. -/
def State.mayMove (s : State) (k : Packet) : Bool :=
  decide (k.moved < s.ptime.toNat) &&
    (s.packets.find? fun j => decide (j.die = k.die ∧ j.node = k.node ∧ j.inp = k.inp)).any fun j => j.id == k.id

/-- The ticks a line takes over the bridge, as a timed one does (R267). (DEDUCED: log 63.) -/
def bridgeTicks : Nat := 8

/-- Is the bridge between two dies used on this tick, by a timed line or by a packet that has started over it? (R262, R267) (DEDUCED: log 63.) -/
def State.bridgeBusy (s : State) (d1 d2 : Nat) : Bool :=
  (s.txs.any fun x => (s.txStop x).any fun p => p.1 == Stop.mk d1 0 5 d2) ||
    s.packets.any fun k => decide (k.die = d2 ∧ k.inp = 5 + d1 ∧ k.moved + 1 = s.ptime.toNat + bridgeTicks)

/-- May a packet cross its next link now? It may move, the next router has a buffer, the link is free, and a packet entering the ring leaves a bubble. -/
def State.mayHop (s : State) (k : Packet) (dir : Nat) : Bool :=
  s.mayMove k && !s.linkBusy k.die k.node dir &&
    decide (s.bufferLoad k.die (neighbour k.node dir) dir < 4) &&
    (k.inp == dir || decide (2 ≤ s.ringFree k.die k.node dir))

/-- Does a packet go to a miss handler? -/
def Packet.toPort (k : Packet) : Bool :=
  match k.parcel with
  | .port .. => true
  | .step _ => false

/-- Does a packet bring a CAUSAL update? -/
def Packet.isUpdate (k : Packet) : Bool :=
  match k.parcel with
  | .step (.causalUpdateArrive ..) => true
  | _ => false

/-- What a packet brings arrives (R262, R273). -/
def State.unpack (s : State) (x : Parcel) : State :=
  match x with
  | .step i => { s with agenda := (i, .none) :: s.agenda }
  | .port q k => s.updSeqr q fun y => { y with cached := y.cached ++ [k] }

/-- BE_PACKET_HOP (R264): one hop on the shortest way, to the bridge port at node 0 while the packet is on another die; the bridge, once the router behind it has a free buffer; or the delivery. (DEDUCED: log 63.) -/
def execBePacketHop (k : Nat) (s : State) : Out :=
  match s.packets.find? fun j => j.id == k with
  | none => .next s
  | some j =>
    match routeDirs j.node (if j.die = j.toDie then j.dst else 0) with
    | [] =>
      if !s.mayMove j then .next s
      else
        let rest := s.packets.filter fun (x : Packet) => x.id != k
        if j.die = j.toDie then .next (State.unpack { s with packets := rest } j.parcel)
        else if s.bridgeBusy j.die j.toDie || decide (4 ≤ s.bufferLoad j.toDie 0 (5 + j.die)) then .next s
        else .next { s with packets := rest ++
          [{ j with die := j.toDie, node := 0, inp := 5 + j.die, moved := s.ptime.toNat + bridgeTicks - 1 }] }
    | d :: _ =>
      if s.mayHop j d then
        .next ({ s with packets := s.packets.filter (fun (x : Packet) => x.id != k) ++
          [{ j with node := neighbour j.node d, inp := d, moved := s.ptime.toNat }] }.countLine j.die j.node d false)
      else .next s

end Sys2Proof.Machine
end

