-- ==== Sys2Proof/Machine/Cache.lean ====
section
/-! DEFINITION. The cache slices: buckets, sector states, misses and write-backs, the rebalancer, CAUSAL updates, the atomic home, range maintenance (13: R260, R273 to R281; 16: R331 to R334; 15: R317, R318). -/

namespace Sys2Proof.Machine

/-! ## Buckets and slices (R273, R275) -/

/-- The bucket of a physical address (R275). -/
def bucketOf (pa : Nat) : Nat := field pa 8 12 ^^^ field pa 20 12 ^^^ field pa 32 12 ^^^ (field pa 44 8 * 16) % 4096

/-- A bucket entry of a die; its reset value names the slice bucket mod 24. -/
def Die.bucket (x : Die) (b : Nat) : BitVec 16 := SMap.get (BitVec.ofNat 16 (b % 24)) x.buckets b

/-- Change a bucket entry. -/
def Die.setBucket (x : Die) (b : Nat) (v : BitVec 16) : Die :=
  { x with buckets := SMap.set (BitVec.ofNat 16 (b % 24)) x.buckets b v }

/-- The slice that serves a bucket. -/
def Die.sliceNo (x : Die) (b : Nat) : Nat := (x.bucket b).toNat % 32

/-- A slice of a die. -/
def Die.slice (x : Die) (n : Nat) : Slice := SMap.get Slice.reset x.slices n

/-- Change a slice. -/
def Die.updSlice (x : Die) (n : Nat) (f : Slice → Slice) : Die := { x with slices := SMap.upd Slice.reset x.slices n f }

/-- Is an address's bucket being moved on a die? (R276) -/
def State.bucketMoves (s : State) (d pa : Nat) : Bool := (s.die d).moving.any fun m => m.1 == bucketOf pa

/-- The slice of an address on a die. -/
def State.sliceOf (s : State) (d pa : Nat) : Nat := (s.die d).sliceNo (bucketOf pa)

/-- A line no slice has touched. -/
def CLine.blank (ln : Nat) : CLine := { line := ln, secs := Vector.replicate 4 .i, dirty := 0, data := 0, bad := 0 }

/-- The line of a slice, if held. -/
def Slice.find (x : Slice) (ln : Nat) : Option CLine := x.lines.find? fun l => l.line == ln

/-- A line put back as the most recently used; a line with no sector left goes. -/
def Slice.put (x : Slice) (l : CLine) : Slice :=
  let rest := x.lines.filter fun y => y.line != l.line
  { x with lines := if l.secs.toList.all fun q => q == .i then rest else l :: rest }

/-- The state of a sector. -/
def CLine.sec (l : CLine) (i : Nat) : SecSt := l.secs.toList.getD i .i

/-- Set the state of a sector. -/
def CLine.setSec (l : CLine) (i : Nat) (q : SecSt) : CLine := { l with secs := l.secs.setIfInBounds i q }

/-- The dirty mask of a sector: one bit for each of its 16 words. -/
def CLine.mask (l : CLine) (i : Nat) : BitVec 16 := l.dirty.extractLsb' (16 * i) 16

/-- Replace the dirty mask of a sector. -/
def CLine.setMask (l : CLine) (i : Nat) (m : BitVec 16) : CLine :=
  { l with dirty := BitVec.ofNat 64 ((List.range 4).foldr (fun j n => (if j = i then m else l.mask j).toNat + 65536 * n) 0) }

/-- The data of a sector. -/
def CLine.secData (l : CLine) (i : Nat) : BitVec 512 := l.data.extractLsb' (512 * i) 512

/-- The words of a mask, as bytes at their addresses. -/
def maskCells (base : Nat) (m : BitVec 16) (v : BitVec 512) : List Host.Cell :=
  ((List.range 16).filter fun w => m.getLsbD w).flatMap fun w =>
    (toBytes 4 (field v.toNat (32 * w) 32)).zipIdx.map fun b => (base + 4 * w + b.2, b.1)

/-- The 4-byte words of a sector that lie in an uncorrectable 8-byte word. -/
def CLine.badWords (l : CLine) (i : Nat) : BitVec 16 :=
  (List.range 16).foldl (fun m w => if l.bad.getLsbD (8 * i + w / 2) then m ||| BitVec.twoPow 16 w else m) 0

/-- The first uncorrectable word of a line that some of its bytes lie in, by its address (R297). -/
def CLine.badAt (l : CLine) (o n : Nat) : Option Nat :=
  ((List.range ((o + n - 1) / 8 - o / 8 + 1)).find? fun i => l.bad.getLsbD (o / 8 + i)).map fun i => 256 * l.line + 8 * (o / 8 + i)

/-- Bytes written into a line's data; an 8-byte word written whole has valid codes. -/
def CLine.write (l : CLine) (cs : List Host.Cell) : CLine :=
  { l with
    bad := (List.range 32).foldl (fun m w =>
      if l.bad.getLsbD w && (List.range 8).all fun i => cs.any fun c => c.1 % 256 == 8 * w + i then m &&& ~~~ BitVec.twoPow 32 w else m) l.bad
    data := cs.foldl (fun (v : VReg) c =>
      let sh := 8 * (c.1 % 256)
      (v &&& ~~~ ((0xFF : VReg) <<< sh)) ||| ((c.2.setWidth 2048 : VReg) <<< sh)) l.data }

/-- The words of a sector a list of bytes touches. -/
def wordsOf (cs : List Host.Cell) : BitVec 16 := cs.foldl (fun m c => m ||| BitVec.twoPow 16 (c.1 / 4 % 16)) 0

/-! ## The memory port (R260, R273) -/

/-- The sequencer whose channel holds the line of an address, its pseudo-channel and its bank: the spec does not lay the cached window out over the channels, so each is a free value (R260, R273). (DESIGN CHOICE: log 9.) -/
def portOf (pa : Nat) : Nat := Config.lineHome (pa / 256) % 384
def portPc (pa : Nat) : Nat := Config.lineHome (pa / 256) / 384 % 2
def portBank (pa : Nat) : Nat := Config.lineHome (pa / 256) / 768 % 16

/-- A miss or a write-back sent from the slice of a line to the memory port of its channel (R273). -/
def State.toPort (s : State) (d pa k : Nat) : State :=
  let q := portOf pa
  s.packet d (s.sliceOf d pa) (q / 96) (q % 96 / 4) 4 0 (.port q k)

/-- The misses of a die on sectors that a test picks will be fetched again: what memory answers them may have been overtaken (R331, R336). -/
def State.staleMisses (s : State) (d : Nat) (f : Nat → Bool) : State :=
  { s with misses := s.misses.map fun (x : Miss) => if x.die = d ∧ f x.sector then { x with stale := true } else x }

/-- A write-back sent to memory: the masked words of a sector, but for the uncorrectable ones, each of which leaves a record (R274, R365). -/
def State.writeBack (s : State) (d : Nat) (l : CLine) (i : Nat) (m : BitVec 16) (ranges : List Nat) (client : Client) : State :=
  let lost := m &&& l.badWords i
  let s := ((List.range 8).filter fun w => lost.getLsbD (2 * w) || lost.getLsbD (2 * w + 1)).foldl (fun s w =>
    s.warn d 0x05 0xFF 0x1FF (BitVec.ofNat 64 (l.line * 256 + 64 * i + 8 * w))) s
  let k := s.nextId
  let s := s.staleMisses d fun n => n == l.line * 4 + i
  (State.fresh { s with wbs := s.wbs ++ [⟨k, d, l.line * 4 + i, m &&& ~~~ lost, l.secData i, ranges, client⟩] }).toPort d (l.line * 256) k

/-- The later of two ticks, where there are any. -/
def later? (a : Option Nat) (b : Nat) : Option Nat := some (max (a.getD 0) b)

/-- The timers with the cached path's own accesses in them. Its commands bind each other, but no command of the program (R253, R260). (DEDUCED: log 54.) -/
def Seqr.withServed (x : Seqr) : Seqr :=
  x.served.foldl (fun x v =>
    (x.updBank v.pc v.bk fun b =>
      { b with act := later? b.act v.act, rd := later? b.rd v.rd, wr := v.wr.elim b.wr (later? b.wr), pre := later? b.pre v.pre }).updPc v.pc
      fun p => { p with acts := (sortBy (fun a b => decide (b ≤ a)) (v.act :: p.acts)).take 4 }) x

/-- How many ticks from now, `n` at least, a command meets every constraint (R253). -/
def State.soonest (s : State) (x : Seqr) (cmd pc bk n : Nat) : Nat :=
  ((List.range 128).find? fun k => decide (n ≤ k) && State.breaks { s with ptime := s.ptime + BitVec.ofNat 64 k } x cmd pc bk == 0).getD 128

/-- A closed-bank access started now: an ACT, a RD, a WR after it for a write-back, a PRE, each on the first tick it may (R260, R274). (DEDUCED: log 54.) -/
def State.accessPlan (s : State) (q pa : Nat) (wr : Bool) : Served :=
  let t := s.ptime.toNat
  let pc := portPc pa
  let bk := portBank pa
  let x := (s.seqr q).withServed.updBank pc bk fun b => { b with act := some t }
  let rd := s.soonest x 2 pc bk 1
  let x := x.updBank pc bk fun b => { b with rd := some (t + rd) }
  let w := s.soonest x 3 pc bk (rd + 1)
  let x := if wr then x.updBank pc bk fun b => { b with wr := some (t + w) } else x
  ⟨pc, bk, t, t + rd, if wr then some (t + w) else none, t + s.soonest x 4 pc bk ((if wr then w else rd) + 1)⟩

/-- May the miss handler start an access on this tick? In a window its PRE must come tRC before the window ends; while the sequencer is idle or stopped, any tick no refresh occupies will do, the next task's first left out (R257, R258, R260). (DEDUCED: log 54.) -/
def State.accessMay (s : State) (q pa : Nat) (wr : Bool) : Bool :=
  let x := s.seqr q
  let t := s.ptime.toNat
  let pc := portPc pa
  let c := (s.region (x.regKey q)).rtime % 1024
  let n := (s.accessPlan q pa wr).pre - t
  !x.serving pc t 0 && (List.range 16).all (fun b => (x.bank pc b).row.isNone) &&
    State.breaks s x.withServed 1 pc (portBank pa) == 0 &&
    if s.seqrIdle q && !x.inIteration then s.gapAllows q (n + s.profLo 1) else decide (c + n + s.profLo 2 ≤ 64)

/-- The miss handler starts an access: the first of its queue is taken. -/
def State.takeAccess (s : State) (q : Nat) (v : Served) : State :=
  s.updSeqr q fun x => { x with cached := x.cached.tail, served := (v :: x.served).take 4 }

/-- CACHED_PATH_ACCESS (R260): the first miss or write-back of a port's queue is served; a read burst goes to the slice. (DEDUCED: log 54.) -/
def execCachedPathAccess (q : Nat) (s : State) : Out :=
  match (s.seqr q).cached with
  | [] => .next s
  | k :: ks =>
    match s.misses.find? fun m => m.id == k with
    | some m =>
      let pa := m.sector * 64
      if s.accessMay q pa false then
        let v := s.accessPlan q pa false
        let a := (BitVec.ofNat 512 (readN s.mem pa 64), badMask s.merr pa, [])
        let s := { s with misses := s.misses.map fun (x : Miss) => if x.id = k then { x with answer := some a } else x }
        .next ((s.takeAccess q v).packet (q / 96) (q % 96 / 4) m.die (s.sliceOf m.die pa) 9
          (v.rd + s.profLo 8 - s.ptime.toNat) (.step (.sectorFill k)))
      else .next s
    | none =>
      match s.wbs.find? fun w => w.id == k with
      | some w =>
        if s.accessMay q (w.sector * 64) true then
          let s := s.takeAccess q (s.accessPlan q (w.sector * 64) true)
          .next { s with agenda := (.writebackApply k, .none) :: s.agenda }
        else .next s
      | none => .next (s.updSeqr q fun x => { x with cached := ks })

/-! ## Lines in and out (R274) -/

/-- The four sectors of a line in an order that is not fixed (R274). (DESIGN CHOICE: log 9.) -/
def State.sectorOrder (s : State) : List Nat :=
  sortBy (fun a b => decide (Config.anyOrder s.nfree a ≤ Config.anyOrder s.nfree b)) [0, 1, 2, 3]

/-- Write back the dirty sectors of a line that are chosen, leaving D sectors V and P sectors I. (DESIGN CHOICE: log 9.) -/
def State.flushLine (s : State) (d : Nat) (l : CLine) (pick : Nat → Bool) (ranges : List Nat) : State × CLine :=
  s.sectorOrder.foldl (fun (a : State × CLine) i =>
    let q := a.2.sec i
    if pick i && (q == .d || q == .p) then
      (a.1.writeBack d a.2 i (a.2.mask i) ranges .nobody, (a.2.setMask i 0).setSec i (if q == .d then .v else .i))
    else a) (s.spend, l)

/-- EVICTION: the least recently used line of a full set leaves the slice, its D and P sectors written back. -/
def State.makeRoom (s : State) (d n ln : Nat) : State :=
  let sl := (s.die d).slice n
  let set := sl.lines.filter fun l => l.line % 512 == ln % 512
  if set.length < 16 || set.any (fun l => l.line == ln) then s
  else match set.getLast? with
    | none => s
    | some old =>
      let r := s.flushLine d old (fun _ => true) []
      r.1.updDie d fun x => x.updSlice n fun sl => { sl with lines := sl.lines.filter fun l => l.line != old.line }

/-- Put a line into its slice, room made first. -/
def State.putCLine (s : State) (d n : Nat) (l : CLine) : State :=
  (s.makeRoom d n l.line).updDie d fun x => x.updSlice n fun sl => sl.put l

/-- Does an 8-byte word of the memory system, as a die's parties read it, hold an uncorrectable error? (R188, R274) -/
def State.peekBad (s : State) (d pa : Nat) : Bool :=
  match ((s.die d).slice (s.sliceOf d pa)).find (pa / 256) with
  | some l =>
    let i := pa / 64 % 4
    if l.sec i = .v ∨ l.sec i = .d ∨ (l.sec i = .p ∧ (l.mask i).getLsbD (pa / 4 % 16) = true) then (l.badAt (pa % 256) 8).isSome
    else SMap.get false s.merr (pa / 8)
  | none => SMap.get false s.merr (pa / 8)

/-- What a die's parties read at an address: the slice's valid words over memory (R331). -/
def State.peek (s : State) (d pa n : Nat) : Nat :=
  let sl := (s.die d).slice (s.sliceOf d pa)
  ofBytes ((List.range n).map fun i =>
    let a := pa + i
    match sl.find (a / 256) with
    | none => SMap.get 0 s.mem a
    | some l =>
      let j := a / 64 % 4
      match l.sec j with
      | .v | .d => byteOf l.data (a % 256)
      | .p => if (l.mask j).getLsbD (a / 4 % 16) then byteOf l.data (a % 256) else SMap.get 0 s.mem a
      | .i => SMap.get 0 s.mem a)

/-! ## Answers -/

/-- Change a copy of a tile by its slot. -/
def FarEngine.updCopy (x : FarEngine) (slot : Nat) (f : Copy → Copy) : FarEngine :=
  { x with copies := x.copies.map fun c => if c.slot = slot then f c else c }

/-- A copy of a tile by its slot. -/
def State.copyAt (s : State) (t slot : Nat) : Option Copy := (s.tile t).far.copies.find? fun c => c.slot == slot

/-- The record of a copy. -/
def State.recOf (s : State) (t : Nat) (c : Copy) : Option FarRec := (s.tile t).far.recs.find? fun r => r.id == c.rec_

/-- Run a step next on this tick. -/
def State.now (s : State) (i : Instr) : State := { s with agenda := (i, .none) :: s.agenda }

/-- Change a holding operation. -/
def State.updOp (s : State) (k : Nat) (f : HoldOp → HoldOp) : State :=
  { s with ops := s.ops.map fun o => if o.id = k then f o else o }

/-- How far past a 64-byte boundary of memory a copy's sectors begin (R287). -/
def Copy.shift (c : Copy) : Nat := c.e.toNat % 64

/-- The addresses of the bytes of a copy's sector, from the first (R287). -/
def Copy.byteAt (c : Copy) (sec i : Nat) : Nat :=
  let p := c.pas.getD sec (0, 0)
  if i < 64 - c.shift then p.1 + i else p.2 + (i - (64 - c.shift))

/-- The parts of a copy's sector in memory: which part, its address, its first byte and its length (R287). -/
def Copy.pieces (c : Copy) (sec : Nat) : List (Nat × Nat × Nat × Nat) :=
  let p := c.pas.getD sec (0, 0)
  (0, p.1, 0, 64 - c.shift) :: if c.shift = 0 then [] else [(1, p.2, 64 - c.shift, c.shift)]

/-- A step sent to a tile, from a node of a die, or over a free duration from beyond the dies (R262, R408). -/
def State.reply (s : State) (src : Option (Nat × Nat)) (t : Nat) (i : Instr) : State :=
  match src with
  | some h => s.carry h.1 h.2 (dieOf t) (nodeOf t) i
  | none => s.later i

/-- A part of a copy's sector has been read or written: the copy, and whether its sector is whole. -/
def Copy.part (c : Copy) (sec half : Nat) (v : BitVec 512) : Copy × Bool :=
  let had := SMap.get 0 c.parts sec
  let has := had ||| 2 ^ half
  let sh := if half = 1 then 8 * (64 - c.shift) else 0
  ({ c with parts := SMap.set 0 c.parts sec has,
            data := if c.toMem then c.data else SMap.set 0 c.data sec ((if had = 0 then 0 else SMap.get 0 c.data sec) ||| (v <<< sh)) },
   c.shift == 0 || has == 3)

/-- An answer on its way to whoever asked, from a node of a die or from beyond the dies, or with it the address of an uncorrectable word that it met (R169, R291, R297, R319). -/
def State.answer (s : State) (src : Option (Nat × Nat)) (c : Client) (v : BitVec 512) (err : Option Nat := none) : State :=
  match c with
  | .nobody => s
  | .stream t k =>
    match s.ops.find? fun o => o.id == k with
    | none => s
    | some o =>
      (s.updOp k fun o => { o with left := 0, err := err, result := o.result.map fun r => { r with value := v.setWidth 2048 } }).reply src t
        (match o.kind with
          | .atomic .. => .atomicReturn k
          | _ => .ldfReturn k)
  | .copy t slot sec half =>
    match s.copyAt t slot with
    | none => s
    | some c =>
      let b := BitVec.ofNat 6 slot
      let p := c.part sec half v
      let s := s.updTile t fun x => { x with far := x.far.updCopy slot fun _ =>
        { p.1 with errs := p.1.errs ++ (err.map fun a => (sec, a)).toList } }
      if p.2 then s.reply src t (if c.toMem then .visibilityEvent t b sec else .releaseEvent t b sec) else s

/-- Take a request off the list. -/
def State.dropReq (s : State) (k : Nat) : State := { s with creqs := s.creqs.filter fun r => r.id != k }

/-- Let a request wait. -/
def State.holdReq (s : State) (k : Nat) : State :=
  { s with creqs := s.creqs.map fun r => if r.id = k then { r with held := true } else r }

/-- The held requests that a test picks are taken up again, in their order. -/
def State.wakeReqs (s : State) (f : CReq → Bool) : State :=
  let ks := (s.creqs.filter fun r => r.held && f r).map fun r => r.id
  { s with creqs := s.creqs.map (fun r => if r.held && f r then { r with held := false } else r),
           agenda := ks.map (fun k => (.cacheRequest k, .none)) ++ s.agenda }

/-! ## CAUSAL lines (R278, R332 to R334) -/

/-- Does a clock cover another? -/
def covers (a b : List Nat) : Bool := (List.range 5).all fun i => decide (b.getD i 0 ≤ a.getD i 0)

/-- The clock of a compute die, or of the I/O die as number 4. -/
def State.clockOf (s : State) (d : Nat) : List Nat := if d < 4 then (s.die d).clock else s.iod.clock

/-- Set a clock. -/
def State.setClock (s : State) (d : Nat) (c : List Nat) : State :=
  if d < 4 then s.updDie d fun x => { x with clock := c } else { s with iod := { s.iod with clock := c } }

/-- Bytes written into the copies a die holds; nothing is allocated. A sector on its way to the die takes them when it comes, by the stamp of their writer (R332). -/
def State.updateCopies (s : State) (d : Nat) (cs : List Host.Cell) (w n : Nat) : State :=
  let s := { s with misses := s.misses.map fun (x : Miss) =>
    if x.die = d ∧ x.causal then
      match cs.filter fun c => c.1 / 64 == x.sector with
      | [] => x
      | ys => { x with newer := x.newer ++ [(w, n, ys)] }
    else x }
  cs.foldl (fun s c =>
    let n := s.sliceOf d c.1
    match ((s.die d).slice n).find (c.1 / 256) with
    | none => s
    | some l =>
      if l.sec (c.1 / 64 % 4) == .v then
        s.updDie d fun x => x.updSlice n fun sl => { sl with lines := sl.lines.map fun y => if y.line = l.line then y.write [c] else y }
      else s) s

/-- A CAUSAL write at a die, or by the I/O die (R278, R334): its clock entry rises, its own copy or memory changes, and an update goes to every other party. -/
def State.causalWrite (s : State) (d : Nat) (cs : List Host.Cell) (client : Client) : State :=
  let clk := (s.clockOf d).modify d (· + 1)
  let s := s.setClock d clk
  let s := if d < 4 then s.updateCopies d cs d (clk.getD d 0) else s.writeMemCells cs
  let k := s.nextId
  let s := State.fresh { s with updates := s.updates ++ [⟨k, d, cs, clk, (List.range 5).filter fun e => e != d, [], client⟩] }
  let pa := (cs.head?.map Prod.fst).getD 0
  ((List.range 5).filter fun e => e != d).foldl (fun s e =>
    if d < 4 ∧ e < 4 then s.carry d (s.sliceOf d pa) e (s.sliceOf e pa) (.causalUpdateArrive k e) else s.later (.causalUpdateArrive k e)) s

/-- Does a writer wait because an update of its own has found a full queue? (R278) -/
def State.writerWaits (s : State) (d : Nat) : Bool := s.updates.any fun u => u.src == d && !u.stuck.isEmpty

/-- The updates waiting at a party. -/
def State.updatesAt (s : State) (d : Nat) : List Update := if d < 4 then (s.die d).updates else s.iod.updates

/-- Change them. -/
def State.setUpdatesAt (s : State) (d : Nat) (us : List Update) : State :=
  if d < 4 then s.updDie d fun x => { x with updates := us } else { s with iod := { s.iod with updates := us } }

/-- May a party apply an update? (R278) -/
def canApply (own : List Nat) (u : Update) : Bool :=
  (List.range 5).all fun i =>
    if i = u.src then u.clock.getD i 0 == own.getD i 0 + 1 else decide (u.clock.getD i 0 ≤ own.getD i 0)

/-- Is an update the earliest of its writer that a party has still to receive? So the updates of one writer reach a party in the order sent (R264). -/
def State.inTurn (s : State) (u : Update) (d : Nat) : Bool :=
  (s.updates.find? fun y => y.src == u.src && y.left.contains d).any fun y => y.id == u.id

/-- CAUSAL_UPDATE_ARRIVE (R278): the update joins the receiver's queue of 256, unless it can be applied at once; a full queue makes it and its writer wait. -/
def execCausalUpdateArrive (k d : Nat) (s : State) : Out :=
  match s.updates.find? fun u => u.id == k with
  | none => .next s
  | some u =>
    if !u.left.contains d then .next s
    else if !s.inTurn u d then .next (s.later (.causalUpdateArrive k d))
    else if decide (256 ≤ (s.updatesAt d).length) && !canApply (s.clockOf d) u then
      .next (State.later { s with updates := s.updates.map fun (y : Update) =>
        if y.id = k ∧ d ∉ y.stuck then { y with stuck := d :: y.stuck } else y } (.causalUpdateArrive k d))
    else
      let s := s.setUpdatesAt d (s.updatesAt d ++ [u])
      let s := { s with updates := s.updates.filterMap fun (y : Update) =>
        if y.id = k then (if y.left = [d] then none else some { y with left := y.left.filter fun z => z != d, stuck := y.stuck.filter fun z => z != d }) else some y }
      .next (s.now (.causalUpdateApply d u.src))

/-- A step waits at a die for the end of a bucket move, behind those before it (R276). -/
def State.awaitMove (s : State) (d : Nat) (i : Instr) : State :=
  s.updDie d fun x => if x.waits.contains i then x else { x with waits := x.waits ++ [i] }

/-- CAUSAL_UPDATE_APPLY (R276, R278): the next update of a writer is applied when its clock allows, and those it frees follow; one whose bucket is being moved waits. -/
def execCausalUpdateApply (d w : Nat) (s : State) : Out :=
  match (s.updatesAt d).find? fun u => u.src == w && canApply (s.clockOf d) u with
  | none => .next s
  | some u =>
    if d < 4 && u.cells.any fun c => s.bucketMoves d c.1 then .next (s.awaitMove d (.causalUpdateApply d w)) else
    let s := s.setUpdatesAt d ((s.updatesAt d).filter fun y => y.id != u.id)
    let s := s.setClock d ((s.clockOf d).set w (u.clock.getD w 0))
    let s := if d < 4 then s.updateCopies d u.cells w (u.clock.getD w 0) else s.writeMemCells u.cells
    let s := if d < 4 then s
      else
        let waits := s.ops.filterMap fun o => match o.kind with
          | .range .. => some (Instr.rangePerformed o.id)
          | _ => none
        let waits := waits ++ s.misses.filterMap fun m => if m.causal && m.answer.isNone then some (.causalMissAnswer m.id) else none
        (waits.foldl State.now s).answer none u.client 0
    .next (((s.updatesAt d).map fun y => y.src).dedup.foldl (fun s w => s.now (.causalUpdateApply d w)) s)

/-- CAUSAL_MISS_ANSWER (R278, R333): the causal home answers once it has applied what the miss's clock covers; memory then holds every applied update. -/
def execCausalMissAnswer (k : Nat) (s : State) : Out :=
  match s.misses.find? fun m => m.id == k && m.answer.isNone with
  | none => .next s
  | some m =>
    if covers s.iod.clock m.clock then
      let a := (BitVec.ofNat 512 (readN s.mem (m.sector * 64) 64), badMask s.merr (m.sector * 64), s.iod.clock)
      .next (State.later { s with misses := s.misses.map fun (x : Miss) => if x.id = k then { x with answer := some a } else x }
        (.sectorFill k))
    else .next s

/-! ## Requests (R274) -/

/-- A sector fetched for a die's slice, once while it is on its way (R260, R278). -/
def State.fetchSector (s : State) (d sec : Nat) (causal : Bool) : State :=
  if s.misses.any fun m => m.die == d && m.sector == sec then s
  else
    let k := s.nextId
    let s := State.fresh { s with misses := s.misses ++ [⟨k, d, sec, causal, s.clockOf d, none, false, []⟩] }
    if causal then s.later (.causalMissAnswer k) else s.toPort d (sec * 64) k

/-- A miss: its sector is sent for, and the request waits; an atomic at a slice without the line fetches the line whole (R274, R318). (DEDUCED: log 75.) -/
def State.miss (s : State) (r : CReq) (absent : Bool) : State :=
  let s := (s.holdReq r.id).updDie r.die fun x => x.updSlice (s.sliceOf r.die r.pa) fun sl =>
    if r.met then sl else { sl with misses := sl.misses + 1 }
  let s := s.fetchSector r.die (r.pa / 64) r.causal
  match r.kind with
  | .amo .. => if absent then (List.range 4).foldl (fun s i => s.fetchSector r.die (r.pa / 256 * 4 + i) r.causal) s else s
  | _ => s

/-- A line written at a slice: the words take effect, their dirty bits are set, and the sector moves by R274. -/
def writeSector (l : CLine) (i : Nat) (cs : List Host.Cell) : CLine :=
  let l := (l.write cs).setMask i (l.mask i ||| wordsOf cs)
  l.setSec i (match l.sec i with
    | .i | .p => .p
    | .v | .d => .d)

/-- The scope a client's copy names: 3 and above is beyond the die (R292). -/
def State.clientWide (s : State) (c : Client) : Bool :=
  match c with
  | .copy t slot _ _ => ((s.copyAt t slot).bind (s.recOf t)).any fun r => decide (3 ≤ r.cmd.sc.toNat)
  | _ => false

/-- A write of bytes of one sector at a slice, performed at the client's scope (R274, R278, R292). -/
def State.writeReq (s : State) (r : CReq) (cs : List Host.Cell) : State :=
  let s := s.dropReq r.id
  let wide := s.clientWide r.client
  let n := s.sliceOf r.die r.pa
  if r.causal then
    if wide then s.causalWrite r.die cs r.client else (s.causalWrite r.die cs .nobody).answer (some (r.die, n)) r.client 0
  else
    let i := r.pa / 64 % 4
    let l := writeSector ((((s.die r.die).slice n).find (r.pa / 256)).getD (CLine.blank (r.pa / 256))) i cs
    if wide then
      let s := s.putCLine r.die n ((l.setMask i 0).setSec i (if l.sec i == .d then .v else .i))
      s.writeBack r.die l i (l.mask i) [] r.client
    else (s.putCLine r.die n l).answer (some (r.die, n)) r.client 0

/-- The old and the new word of an atomic as bytes (R317). -/
def amoCells (pa : Nat) (wide : Bool) (v : W64) : List Host.Cell :=
  (toBytes (if wide then 8 else 4) v.toNat).zipIdx.map fun b => (pa + b.2, b.1)

/-- How many bytes a request reads. -/
def CKind.reads : CKind → Nat
  | .read k => k
  | .amo _ _ wide _ _ => if wide then 8 else 4
  | .write _ => 0

/-- A request on a sector whose words are all valid: a read answered, an atomic performed; a word that is uncorrectable is not delivered, and an atomic does not write it (R297, R317, R319). (DEDUCED: log 75.) -/
def State.hitReq (s : State) (r : CReq) (n : Nat) (l : CLine) : State :=
  let s := (s.dropReq r.id).updDie r.die fun x => x.updSlice n fun sl => { sl.put l with hits := if r.met then sl.hits else sl.hits + 1 }
  match l.badAt (r.pa % 256) r.kind.reads, r.kind with
  | _, .write _ => s
  | some a, _ => s.answer (some (r.die, n)) r.client 0 (some a)
  | none, .read k => s.answer (some (r.die, n)) r.client (BitVec.ofNat 512 (field l.data.toNat (8 * (r.pa % 256)) (8 * k)))
  | none, .amo cas op wide b c =>
    let old : W64 := BitVec.ofNat 64 (field l.data.toNat (8 * (r.pa % 256)) (if wide then 64 else 32))
    let s := if atomicSets cas wide old c then
        s.putCLine r.die n (writeSector l (r.pa / 64 % 4) (amoCells r.pa wide (atomicNew cas op wide old b c)))
      else s
    s.answer (some (r.die, n)) r.client (old.setWidth 512)

/-- The answer to an operation waits until its die's clock covers what the home's write carries (R333 to R335). -/
def State.owe (s : State) (c : Client) (clk : List Nat) : State :=
  match c with
  | .stream _ k => s.updOp k fun o => { o with clock := clk }
  | _ => s

/-- A request of the atomic home (R317 to R319): the issuing die's slice gives the line up, its write-backs reach memory, then memory is changed; what the die is fetching of the sector is fetched again, and on a CAUSAL line the answer waits until the die has applied what the home had (R331 to R335). (DEDUCED: log 75.) -/
def State.homeReq (s : State) (r : CReq) : State :=
  let n := s.sliceOf r.die r.pa
  match ((s.die r.die).slice n).find (r.pa / 256) with
  | some l =>
    let a := s.flushLine r.die l (fun _ => true) []
    (a.1.updDie r.die fun x => x.updSlice n fun sl => { sl with lines := sl.lines.filter fun y => y.line != l.line }).later
      (.cacheRequest r.id)
  | none =>
    if (s.wbs.any fun w => w.die == r.die && w.sector / 4 == r.pa / 256) || r.causal && s.writerWaits 4 then s.later (.cacheRequest r.id)
    else match badWord s.merr r.pa r.kind.reads, r.kind with
      | none, .amo cas op wide b c =>
        let s := s.dropReq r.id
        let old : W64 := BitVec.ofNat 64 (readN s.mem r.pa (if wide then 8 else 4))
        let cs := amoCells r.pa wide (atomicNew cas op wide old b c)
        let s := if !atomicSets cas wide old c then s
          else if r.causal then s.causalWrite 4 cs .nobody
          else s.writeMemCells cs
        let s := s.staleMisses r.die fun x => x == r.pa / 64
        let s := if r.causal then s.owe r.client s.iod.clock else s
        s.answer none r.client (old.setWidth 512)
      | some a, .amo .. => (s.dropReq r.id).answer none r.client 0 (some a)
      | _, _ => s.dropReq r.id

/-- Does a write cover some word in part only that its slice does not hold? Its sector is fetched first, as for a read (R274). (DEDUCED: log 75.) -/
def State.writesPart (s : State) (r : CReq) (cs : List Host.Cell) : Bool :=
  let l := (((s.die r.die).slice (s.sliceOf r.die r.pa)).find (r.pa / 256)).getD (CLine.blank (r.pa / 256))
  let i := r.pa / 64 % 4
  let held := l.sec i == .v || l.sec i == .d
  !r.causal && !held && (List.range 16).any fun w =>
    (wordsOf cs).getLsbD w && !(l.mask i).getLsbD w && !(List.range 4).all fun j => cs.any fun c => c.1 % 64 == 4 * w + j

/-- Is a request to a CAUSAL line kept back: by a write of its party that waits for a queue, or until the writes an RDV orders before it have come (R278, R339)? (DEDUCED: log 111.) -/
def State.causalKeeps (s : State) (r : CReq) : Bool :=
  r.causal && (!covers (if r.home then s.iod.clock else (s.die r.die).clock) (s.die r.die).floor ||
    match r.kind with
    | .write _ => s.writerWaits r.die
    | _ => false)

/-- A request met by its slice for the first time counts toward its bucket (R276). -/
def State.meet (s : State) (r : CReq) : State :=
  if r.met then s
  else { s.updDie r.die (fun x => { x with counts := SMap.upd 0 x.counts (bucketOf r.pa) (· + 1) }) with
    creqs := s.creqs.map fun (y : CReq) => if y.id = r.id then { y with met := true } else y }

/-- CACHE_REQUEST (R273, R274, R276). -/
def execCacheRequest (k : Nat) (s : State) : Out :=
  match s.creqs.find? fun r => r.id == k && !r.held with
  | none => .next s
  | some r =>
    if s.bucketMoves r.die r.pa then .next ((s.holdReq k).awaitMove r.die (.cacheRequest k))
    else if s.causalKeeps r then .next (s.later (.cacheRequest k))
    else
      let s := s.meet r
      if r.home then .next (s.homeReq r)
      else match r.kind with
        | .write cs => .next (if s.writesPart r cs then s.miss r false else s.writeReq r cs)
        | _ =>
          let n := s.sliceOf r.die r.pa
          match ((s.die r.die).slice n).find (r.pa / 256) with
          | some l => .next (if l.sec (r.pa / 64 % 4) == .v || l.sec (r.pa / 64 % 4) == .d then s.hitReq r n l else s.miss r false)
          | none => .next (s.miss r true)

/-- A fetched sector installed: I becomes V, and P takes its unmasked words and becomes D (R274). -/
def fillSector (l : CLine) (i base : Nat) (v : BitVec 512) (bad : BitVec 8) : CLine :=
  let taint := fun (l : CLine) (m : BitVec 16) => { l with bad := (List.range 8).foldl (fun b w =>
    if bad.getLsbD w && (m.getLsbD (2 * w) || m.getLsbD (2 * w + 1)) then b ||| BitVec.twoPow 32 (8 * i + w) else b) l.bad }
  match l.sec i with
  | .i => (taint (l.write (maskCells base (BitVec.allOnes 16) v)) (BitVec.allOnes 16)).setSec i .v
  | .p => (taint (l.write (maskCells base (~~~ l.mask i) v)) (~~~ l.mask i)).setSec i .d
  | _ => l

/-- A CAUSAL answer with the writes over it that the die has applied since the first of them that the answer does not hold, in the die's order (R332, R333). -/
def Miss.merged (m : Miss) (v : BitVec 512) (clk : List Nat) : BitVec 512 :=
  (m.newer.dropWhile fun x => decide (x.2.1 ≤ clk.getD x.1 0)).foldl (fun v x =>
    x.2.2.foldl (fun (v : BitVec 512) c =>
      let sh := 8 * (c.1 % 64)
      (v &&& ~~~ ((0xFF : BitVec 512) <<< sh)) ||| ((c.2.setWidth 512 : BitVec 512) <<< sh)) v) v

/-- A miss sent for again (R331, R336). -/
def State.refetch (s : State) (m : Miss) : State :=
  let s := { s with misses := s.misses.map fun (x : Miss) => if x.id = m.id then { x with answer := none, stale := false, clock := s.clockOf m.die } else x }
  if m.causal then s.later (.causalMissAnswer m.id) else s.toPort m.die (m.sector * 64) m.id

/-- SECTOR_FILL (R274, R331 to R333): a CAUSAL answer waits until the die's clock covers its clock; an answer that has been overtaken is fetched again. -/
def execSectorFill (k : Nat) (s : State) : Out :=
  match s.misses.find? fun m => m.id == k with
  | none => .next s
  | some m =>
    match m.answer with
    | none => .next s
    | some (v, bad, clk) =>
      if m.stale then .next (s.refetch m)
      else if !covers (s.clockOf m.die) clk then .next (s.later (.sectorFill k))
      else
        let pa := m.sector * 64
        let s := { s with misses := s.misses.filter fun (x : Miss) => x.id != k }
        let n := s.sliceOf m.die pa
        let l := (((s.die m.die).slice n).find (pa / 256)).getD (CLine.blank (pa / 256))
        let s := if s.bucketMoves m.die pa then s else s.putCLine m.die n (fillSector l (m.sector % 4) pa (m.merged v clk) bad)
        .next (s.wakeReqs fun r => r.die == m.die && r.pa / 64 == m.sector)

/-- WRITEBACK_APPLY (R274): the earliest write-back of the slice to the sector is merged at memory. -/
def execWritebackApply (k : Nat) (s : State) : Out :=
  match s.wbs.find? fun w => w.id == k with
  | none => .next s
  | some w0 =>
    match s.wbs.find? fun w => w.die == w0.die && w.sector == w0.sector with
    | none => .next s
    | some w =>
      let s := s.writeMemCells (maskCells (w.sector * 64) w.mask w.data)
      let s := { s with wbs := s.wbs.filter fun (x : WBack) => x.id != w.id }
      let s := w.ranges.foldl (fun s o => s.now (.rangePerformed o)) s
      .next (s.answer (some (portOf (w.sector * 64) / 96, portOf (w.sector * 64) % 96 / 4)) w.client 0)

/-! ## The rebalancer (R276) -/

/-- The accesses a slice has served since the last look. -/
def Die.sliceCount (x : Die) (n : Nat) : Nat := ((x.counts.filter fun c => x.sliceNo c.1 == n).map fun c => c.2).sum

/-- The index of the first greatest, or the first least, of a list. (DEDUCED: log 58.) -/
def bestBy (le : Nat → Nat → Bool) (f : Nat → Nat) : List Nat → Option Nat
  | [] => none
  | x :: xs =>
    match bestBy le f xs with
    | none => some x
    | some y => some (if le (f y) (f x) then x else y)

/-- REBALANCE (R276): every 2^20 ticks, one bucket of an overloaded slice starts to move. (DEDUCED: log 58.) -/
def execRebalance (d : BitVec 2) (s : State) : Out :=
  let x := s.die d.toNat
  if s.ptime.toNat % 2 ^ 20 ≠ 0 then .next s
  else
    let s := s.updDie d.toNat fun x => { x with counts := [] }
    let ge := fun a b => decide (a ≤ b)
    let total := ((List.range 24).map x.sliceCount).sum
    match bestBy ge x.sliceCount (List.range 24), bestBy (fun a b => decide (b ≤ a)) x.sliceCount (List.range 24) with
    | some hot, some cold =>
      let bs := (x.counts.map fun c => c.1).filter fun b => x.sliceNo b == hot && !(x.bucket b).getLsbD 15
      if x.moving.isSome || decide (48 * x.sliceCount hot ≤ 3 * total) then .next s
      else match bestBy ge (fun b => SMap.get 0 x.counts b) bs with
        | none => .next s
        | some b =>
          let s := s.updDie d.toNat fun x => { x.setBucket b (x.bucket b ||| 0x4000) with moving := some (b, cold) }
          let ls := (x.slice hot).lines.filter fun l => bucketOf (l.line * 256) == b
          .next ((ls.foldl (fun s l =>
            let a := s.flushLine d.toNat l (fun _ => true) []
            a.1.updDie d.toNat fun x => x.updSlice hot fun sl => { sl with lines := sl.lines.map fun y => if y.line = l.line then a.2 else y }) s).later
            (.bucketMoveEnd d))
    | _, _ => .next s

/-- BUCKET_MOVE_END (R276): once memory holds every write-back of the bucket, its lines go, SLICE changes and what has waited goes on in the order it came. -/
def execBucketMoveEnd (d : BitVec 2) (s : State) : Out :=
  let x := s.die d.toNat
  match x.moving with
  | none => .next s
  | some (b, cold) =>
    if s.wbs.any fun w => w.die == d.toNat && bucketOf (w.sector * 64) == b then .next (s.later (.bucketMoveEnd d))
    else
      let old := x.sliceNo b
      let s := s.updDie d.toNat fun x =>
        { (x.updSlice old fun sl => { sl with moves := sl.moves + 1, lines := sl.lines.filter fun l => bucketOf (l.line * 256) != b }).setBucket b
            ((x.bucket b &&& 0x8000) ||| BitVec.ofNat 16 cold) with moving := none, waits := [] }
      .next { s with
        creqs := s.creqs.map fun (r : CReq) => if x.waits.contains (.cacheRequest r.id) then { r with held := false } else r
        agenda := x.waits.map (fun i => (i, .none)) ++ s.agenda }

/-! ## Range maintenance (R279, R280) -/

/-- One line of a range at the issuing die's slice: WBR 0, INVR 1, DISCR 2; what is on its way to an invalidated sector is fetched again, and WBR and INVR wait for the line's earlier write-backs too (R336). -/
def State.rangeLine (s : State) (d kind op : Nat) (causal : Bool) (x : Nat × Nat × Nat) : State :=
  let n := s.sliceOf d (x.1 * 256)
  let s := if kind = 0 then s else s.staleMisses d fun sec => sec / 4 == x.1
  let s := if kind = 2 then s else
    { s with wbs := s.wbs.map fun (w : WBack) => if w.die = d ∧ w.sector / 4 = x.1 then { w with ranges := w.ranges ++ [op] } else w }
  match ((s.die d).slice n).find x.1 with
  | none => s
  | some l =>
    let touch := fun (i : Nat) => decide (x.2.1 < 64 * i + 64) && decide (64 * i < x.2.2)
    let l := if kind = 2 && !causal then
        (List.range 4).foldl (fun (l : CLine) i =>
          let m := (List.range 16).foldl (fun (m : BitVec 16) w =>
            let a := 64 * i + 4 * w
            if x.2.1 ≤ a ∧ a < x.2.2 then m &&& ~~~ BitVec.twoPow 16 w else m) (l.mask i)
          l.setMask i m) l
      else l
    let r := s.flushLine d l (fun i => (kind != 2 || touch i) && l.mask i != 0) [op]
    let l := (List.range 4).foldl (fun (l : CLine) i =>
      if kind = 1 ∨ (kind = 2 ∧ (causal ∨ touch i)) then (l.setMask i 0).setSec i .i else l) r.2
    r.1.updDie d fun y => y.updSlice n fun sl => if l.secs.toList.all (fun q => q == .i)
      then { sl with lines := sl.lines.filter fun z => z.line != l.line }
      else { sl with lines := sl.lines.map fun z => if z.line = l.line then l else z }

/-- Are the die's own CAUSAL writes to the lines of a range applied at the causal home? -/
def State.rangeQuiet (s : State) (d : Nat) (ls : List (Nat × Nat × Nat)) : Bool :=
  !(s.updates ++ s.iod.updates).any fun u => u.src == d && decide (s.iod.clock.getD d 0 < u.clock.getD d 0) &&
    u.cells.any fun c => ls.any fun x => decide (c.1 / 256 = x.1 ∧ x.2.1 ≤ c.1 % 256 ∧ c.1 % 256 < x.2.2)

/-- The die, and whether the extent is CAUSAL, of a holding operation. -/
def State.opCausal (s : State) (o : HoldOp) : Bool := (s.extent o.tile (extIndex o.e)).any fun x => x.coh == 2

/-- RANGE_PERFORMED (R279): the lines that may be dealt with are; the range is performed when none is left and memory holds its write-backs. -/
def execRangePerformed (k : Nat) (s : State) : Out :=
  match s.ops.find? fun o => o.id == k with
  | none => .next s
  | some o =>
    match o.kind with
    | .range kind ls =>
      let d := dieOf o.tile
      let causal := s.opCausal o
      if causal && !s.rangeQuiet d ls then .next s
      else
        let may := ls.filter fun x => !s.bucketMoves d (x.1 * 256)
        let rest := ls.filter fun x => s.bucketMoves d (x.1 * 256)
        let s := may.foldl (fun s x => if causal && kind == 0 then s else s.rangeLine d kind k causal x) s
        let s := s.updOp k fun o => { o with kind := .range kind rest }
        let s := if rest.isEmpty then s else s.awaitMove d (.rangePerformed k)
        if rest.isEmpty && !s.wbs.any (fun w => w.ranges.contains k) then .next { s with ops := s.ops.filter fun o => o.id != k }
        else .next s
    | _ => .next s

/-- The physical lines of a byte range of a CACHED extent, each with its part (R279). -/
def State.rangeLines (s : State) (t : Nat) (e : W64) (n : Nat) : List (Nat × Nat × Nat) :=
  let o := extOffset e
  if n = 0 then []
  else (List.range ((o + n - 1) / 256 - o / 256 + 1)).filterMap fun i =>
    let ln := o / 256 + i
    (s.cachedPA t (extIndex e) (ln * 256)).map fun pa =>
      (pa / 256, (if i = 0 then o % 256 else 0), if (ln + 1) * 256 ≤ o + n then 256 else (o + n) % 256)

/-- A range instruction at its commit point: the hold lasts until it is performed, and there is none when nothing is left to do (R279, R280). -/
def State.startRange (s : State) (t : Nat) (c : Ctx) (k raised : Nat) (kind : Nat) (e n : W64) : State :=
  let s : State := { s with ops := s.ops ++
    [⟨k, t, c, .range kind (s.rangeLines t e n.toNat), none, e, none, none, s.ptime.toNat, raised, 0, 3, none, none, []⟩] }
  match execRangePerformed k s with
  | .next s => s
  | _ => s

end Sys2Proof.Machine
end

