-- ==== Sys2Proof/Machine/Translate.lean ====
section
/-! DEFINITION. Page tables, the TLB slices and their invalidation, and the holding far operations LDF, AMO and CAS with their faults (04: R79, R81, R87 to R93; 08: R169; 14: R294 to R296; 15: R319). -/

namespace Sys2Proof.Machine

/-! ## Page tables (R79, R81) -/

/-- What a walk finds: a leaf with its level, nothing valid, or a malformed entry with its level and address. -/
inductive WalkEnd where
  | leaf (w : W64) (level : Nat)
  | none
  | bad (level pa : Nat)
  deriving DecidableEq, Repr

/-- Is an entry malformed at a level? (R81) (DEDUCED: log 57; DESIGN CHOICE: log 99.) -/
def entryBad (w : W64) (level : Nat) : Bool :=
  decide (field w.toNat 52 5 ≠ 0) || (w.getLsbD 62 && decide (2 ≤ level)) || (!w.getLsbD 62 && level == 0)

/-- The walk from a table at a level downward; `rd` reads eight bytes. An entry with V = 0 ends it, whatever its other bits hold. (DEDUCED: log 57; DESIGN CHOICE: log 99.) -/
def walkFrom (rd : Nat → W64) (va : Nat) : Nat → Nat → WalkEnd
  | 0, tab =>
    let a := tab + 8 * field va 16 10
    let w := rd a
    if !w.getLsbD 63 then .none else if entryBad w 0 then .bad 0 a else .leaf w 0
  | n + 1, tab =>
    let a := tab + 8 * field va (26 + 10 * n) 10
    let w := rd a
    if !w.getLsbD 63 then .none
    else if entryBad w (n + 1) then .bad (n + 1) a
    else if w.getLsbD 62 then .leaf w (n + 1)
    else walkFrom rd va n (field w.toNat 16 36 * 65536)

/-- The walk of an address space, its reads made through a die's cached path (R79, R88). (DEDUCED: log 57, 92.) -/
def State.walk (s : State) (d : Nat) (asid : BitVec 16) (va : Nat) : WalkEnd :=
  let rd := fun (a : Nat) => if s.peekBad d a then (0 : W64) else BitVec.ofNat 64 (s.peek d a 8)
  let root := rd (s.iod.atbase.toNat + 8 * asid.toNat)
  if !root.getLsbD 63 then .none else walkFrom rd va 3 (field root.toNat 13 39 * 8192)

/-- Fields of a leaf (R81). -/
def leafKind (w : W64) : Nat := field w.toNat 60 2
def leafRead (w : W64) : Bool := w.getLsbD 59
def leafWrite (w : W64) : Bool := w.getLsbD 58
def leafAtomic (w : W64) : Bool := w.getLsbD 57

/-- The physical address a leaf gives. -/
def leafPA (w : W64) (big : Bool) (va : Nat) : Nat :=
  if big then field w.toNat 26 26 * 2 ^ 26 + va % 2 ^ 26 else field w.toNat 16 36 * 65536 + va % 65536

/-- Does an entry translate an address? -/
def TlbEntry.maps (x : TlbEntry) (asid : BitVec 16) (va : Nat) : Bool :=
  x.asid == asid && if x.big then x.page / 1024 == va / 2 ^ 26 else x.page == va / 65536

/-- The pages of a translation, in 64 KiB units. -/
def TlbEntry.span (e : TlbEntry) : Nat × Nat := (e.page, e.page + if e.big then 1024 else 1)

/-! ## Home slices (R87, R92) -/

/-- The bucket of an address space's address (R87). -/
def tlbBucket (asid : BitVec 16) (va : Nat) : Nat :=
  (field asid.toNat 0 12 ^^^ field va 26 12 ^^^ field va 38 12 ^^^ (field va 50 6 * 64)) % 4096

/-- An entry of the package bucket map: PRIMARY die [1:0] and slice [6:2], BACKUP die [9:8] and slice [14:10]; unlisted entries spread the buckets. (PRESUMED: log 64.) -/
def bucketMapReset (b : Nat) : BitVec 32 :=
  BitVec.ofNat 32 (b % 4 + b / 4 % 24 * 4 + (b + 1) % 4 * 256 + b / 4 % 24 * 1024)

/-- The home a bucket is served from, PRIMARY or, where that die has failed over, BACKUP (R92). (PRESUMED: log 64.) -/
def State.homeOf (s : State) (asid : BitVec 16) (va : Nat) : Nat × Nat :=
  let b := tlbBucket asid va
  let w := (SMap.get (bucketMapReset b) s.iod.bucketMap b).toNat
  if s.iod.failover.getLsbD (field w 0 2) then (field w 8 2, field w 10 5) else (field w 0 2, field w 2 5)

/-- The BACKUP home of a bucket that its PRIMARY serves; none while the bucket is failed over, and none on a die in reset (R88, R92). (PRESUMED: log 64.) -/
def State.backupOf (s : State) (asid : BitVec 16) (va : Nat) : Option (Nat × Nat) :=
  let b := tlbBucket asid va
  let w := (SMap.get (bucketMapReset b) s.iod.bucketMap b).toNat
  if s.iod.failover.getLsbD (field w 0 2) || s.iod.failover.getLsbD (field w 8 2) then none else some (field w 8 2, field w 10 5)

/-- Install a translation in a list of a given size, the newest first. (PRESUMED: log 55.) -/
def installTlb (n : Nat) (x : TlbEntry) (xs : List TlbEntry) : List TlbEntry := (x :: xs.filter fun y => y != x).take n

/-- The entries of a slice's TLB. -/
def State.tlbAt (s : State) (h : Nat × Nat) : List TlbEntry := SMap.get [] (s.die h.1).tlb h.2

/-- Install an entry in a slice's TLB of 2,048 entries. (PRESUMED: log 55.) -/
def State.installAt (s : State) (h : Nat × Nat) (x : TlbEntry) : State :=
  s.updDie h.1 fun d => { d with tlb := SMap.upd [] d.tlb h.2 (installTlb 2048 x) }

/-- A leaf that placement walks, installed at its home and at the BACKUP home (R84, R88). -/
def State.installBoth (s : State) (h : Nat × Nat) (va : Nat) (x : TlbEntry) : State :=
  let s := s.installAt h x
  match s.backupOf x.asid va with
  | some b => s.installAt b x
  | none => s

/-- Install an entry in a tile's micro-TLB of 64 entries (R294). -/
def State.installTile (s : State) (t : Nat) (x : TlbEntry) : State :=
  s.updTile t fun y => { y with far := { y.far with utlb := installTlb 64 x y.far.utlb } }

/-- The tile of a client. -/
def Client.tile : Client → Option Nat
  | .stream t _ => some t
  | .copy t _ _ _ => some t
  | .nobody => none

/-- A query sent to the home slice, once for a client and page (R88). -/
def State.ask (s : State) (t : Nat) (asid : BitVec 16) (va : Nat) (c : Client) : State :=
  if s.queries.any fun q => q.client == c && q.va / 65536 == va / 65536 then s
  else
    let k := s.nextId
    let h := s.homeOf asid va
    (State.fresh { s with queries := s.queries ++ [⟨k, h, false, .asks, asid, va, c⟩] }).carry (dieOf t) (nodeOf t) h.1 h.2 (.tlbQuery k)

/-! ## Far faults (R296) -/

/-- The cause of a far fault, for the next primary bundle that issues. -/
def State.farFault (s : State) (t : Nat) (code : BitVec 6) (info : BitVec 8) (addr : W64) (area : Bool := false) : State :=
  s.updTile t fun x => { x with after := x.after ++ [⟨code, 0, info, addr, true, area⟩] }

/-- TADDR of a far fault. -/
def farAddr (e : W64) (kind o : Nat) : W64 :=
  BitVec.ofNat 64 (extIndex e * 2 ^ 59 + (kind % 8) * 2 ^ 56 + o % 2 ^ 56)

/-- KIND of an operation. -/
def HoldKind.code : HoldKind → Nat
  | .ldf => 1
  | _ => 2

/-- An LDF or atomic ends faulted (R169, R319). -/
def State.faultOp (s : State) (o : HoldOp) (rsn : Nat) : State :=
  State.farFault { s with ops := s.ops.filter fun x => x.id != o.id } o.tile 0x16 (BitVec.ofNat 8 (rsn * 64))
    (farAddr o.e o.kind.code (extOffset o.e))

/-- A page request posted to the pager (R295, R365). (DEDUCED: log 56.) -/
def State.pageReq (s : State) (t requester : Nat) (write : Bool) (va : Nat) : State :=
  let x := s.tile t
  State.spend <| s.post { EvRec.warning s (dieOf t) with
    info := 0x04, lte := x.lte, ltile := BitVec.ofNat 9 (s.ltOf t), asid := (s.entry x.lte).asid,
    mask := if write then 1 else 0, rcyc := BitVec.ofNat 32 requester, addr := BitVec.ofNat 64 (va / 65536 * 65536) }

/-- The decoder that takes a pool address, the lowest where several do (R303). -/
def State.decoderOf (s : State) (pa : Nat) : Option Decoder := (s.iod.decoders.find? fun d => d.2.takes pa).map Prod.snd

/-- The route of an access through an extent: the peer, or the CXL port its decoder interleaves the address to. (DEDUCED: log 62; DESIGN CHOICE: log 113.) -/
def State.routeOf (s : State) (x : ExtentDecl) (pa : Nat) : Route :=
  match x.cls with
  | 3 => .fabric x.peer
  | _ => .cxl (((s.decoderOf pa).map fun d => d.portOf pa).getD 0)

/-- Is a pool address inside some decoder? (R303) -/
def State.decoded (s : State) (pa : Nat) : Bool := (s.decoderOf pa).isSome

/-- What a translated access meets at its leaf: the physical address, or a protection fault (R88, R303). -/
def State.leafUse (s : State) (x : ExtentDecl) (w : W64) (big : Bool) (va : Nat) (r wr am : Bool) : Option Nat :=
  let pa := leafPA w big va
  let ok := (!r || leafRead w) && (!wr || leafWrite w) && (!am || leafAtomic w) &&
    match x.cls with
    | 2 => leafKind w == 2 && s.decoded pa
    | 3 => leafKind w == 3
    | _ => false
  if ok then some pa else none

/-! ## LDF, AMO and CAS (R169, R319) -/

/-- The width of an operation's access. -/
def HoldKind.width : HoldKind → Nat
  | .atomic _ _ wide _ _ => if wide then 8 else 4
  | _ => 8

/-- The access another package is asked for. -/
def HoldOp.peer (o : HoldOp) (pa : Nat) : PeerAccess :=
  match o.kind with
  | .atomic true _ wide b c => .cas pa wide b c
  | .atomic false op wide b _ => .amo pa op wide b
  | _ => .read false pa 8

/-- An operation whose address is translated goes out: to the pool, or to the peer package; over a route that was not restored it ends faulted (R296). -/
def State.sendOp (s : State) (o : HoldOp) (x : ExtentDecl) (pa : Nat) (via : Nat × Nat) : State :=
  if s.iod.lost.contains (s.routeOf x pa) then s.faultOp o 3 else
  let s := s.updOp o.id fun o => { o with pa := some pa, parked := none, left := 0, via := some via }
  let back := match o.kind with
    | .atomic .. => Instr.atomicReturn o.id
    | _ => Instr.ldfReturn o.id
  let e := s.entry (s.tile o.tile).lte
  (if x.cls = 3 then s.say (.peer e.job x.peer (o.peer pa)) else s).later back

/-- An operation on a POOL or REMOTE extent translated afresh: by the micro-TLB, or by a query to the home slice (R88, R169). -/
def State.opStep (s : State) (k : Nat) : State :=
  match s.ops.find? fun o => o.id == k with
  | none => s
  | some o =>
    match s.extent o.tile (extIndex o.e) with
    | none => s
    | some x =>
      let va := x.vbase + extOffset o.e
      let asid := (s.entry (s.tile o.tile).lte).asid
      match (s.tile o.tile).far.utlb.find? fun y => y.maps asid va with
      | none => s.ask o.tile asid va (.stream o.tile k)
      | some y =>
        let am := match o.kind with
          | .atomic .. => true
          | _ => false
        match s.leafUse x y.leaf y.big va true am am with
        | none => s.faultOp o 0
        | some pa => s.sendOp o x pa y.span

/-- An LDF, AMO or CAS at its commit point: a CACHED one is sent to the slice or the atomic home, any other is translated (R169, R318, R319). -/
def State.startOp (s : State) (t : Nat) (c : Ctx) (k raised : Nat) (kind : HoldKind) (r : Result) (e : W64) (sc : BitVec 4) : State :=
  let x := s.extent t (extIndex e)
  let pa := s.cachedPA t (extIndex e) (extOffset e)
  let s : State := { s with ops := s.ops ++ [⟨k, t, c, kind, some r, e, pa, none, s.ptime.toNat, raised, 1, sc, none, none, []⟩] }
  if x.any fun x => x.cls == 1 then
    let a := pa.getD 0
    let causal := x.any fun x => x.coh == 2
    let ck : CKind := match kind with
      | .atomic cas op wide b c => .amo cas op wide b c
      | _ => .read 8
    let home := match kind with
      | .atomic .. => decide (3 ≤ sc.toNat)
      | _ => false
    let q := s.nextId
    (State.fresh { s with creqs := s.creqs ++ [⟨q, dieOf t, a, causal, home, ck, .stream t k, false, false⟩] }).carry (dieOf t) (nodeOf t)
      (dieOf t) (s.sliceOf (dieOf t) a) (.cacheRequest q)
  else s.opStep k

/-- The uncorrectable word another package's answer tells of, the n-th that comes: none, or one of the 8-byte words asked for (R297, R319). (DESIGN CHOICE: log 13.) -/
def peerBad (peer pa bytes n : Nat) : Option Nat :=
  (Config.peerError peer pa n).map fun k => 8 * (pa / 8 + k % ((pa + bytes - 1) / 8 - pa / 8 + 1))

/-- The uncorrectable word an operation's answer brings: one met in a slice or in HBM, a poisoned word of the pool, or one another package tells of (R169, R297, R319). (DESIGN CHOICE: log 13.) -/
def State.opErr (s : State) (o : HoldOp) : Option Nat :=
  match s.extent o.tile (extIndex o.e), o.pa with
  | some x, some pa =>
    if x.cls = 2 then badWord s.perr pa o.kind.width else if x.cls = 3 then peerBad x.peer pa o.kind.width s.nfree else o.err
  | _, _ => o.err

/-- The value an operation brings back from the pool or a peer, and the pool afterwards; a CAS that fails assigns nothing (R317). (DESIGN CHOICE: log 13.) -/
def State.opValue (s : State) (o : HoldOp) : State × W64 :=
  match s.extent o.tile (extIndex o.e), o.pa with
  | some x, some pa =>
    if x.cls = 3 then ({ s with nfree := s.nfree + 1 }, (Config.peerData x.peer pa s.nfree).setWidth 64 &&&
      if o.kind.width = 4 then 0xFFFFFFFF else BitVec.allOnes 64)
    else if x.cls = 2 then
      let old : W64 := BitVec.ofNat 64 (readN s.pool pa o.kind.width)
      match o.kind with
      | .atomic cas op wide b c =>
        (if atomicSets cas wide old c then s.writePool (amoCells pa wide (atomicNew cas op wide old b c)) else s, old)
      | _ => (s, old)
    else (s, ((o.result.map Result.value).getD 0).setWidth 64)
  | _, _ => (s, 0)

/-- The result of an operation in its register; a checkpoint that counts the operation among those of earlier blocks takes the result with it (R154). -/
def State.landOp (s : State) (o : HoldOp) (r : Result) : State :=
  s.updTile o.tile fun x =>
    let st := x.stream o.ctx
    let ck := st.ck.map fun (k : Checkpoint) => if k.ops.contains o.id then { k with inflight := k.inflight ++ [r] } else k
    x.setStream o.ctx { st with ck := ck, regs := st.regs.land r (o.ctx == .handler) }

/-- The answer reaches its stream: the register is written before the first bundle after the hold, or UECC waits for that bundle (R134, R169, R319); on a CAUSAL line only once its die has applied what the home had (R333). -/
def State.returnOp (s : State) (k : Nat) : Out :=
  match s.ops.find? fun o => o.id == k && o.left == 0 with
  | none => .next s
  | some o =>
    let down := match s.extent o.tile (extIndex o.e), o.pa with
      | some x, some pa => decide (x.cls ≠ 1) && (s.routeOf x pa) ∈ s.iod.down
      | _, _ => false
    if down || s.asleep o.tile || !covers (s.die (dieOf o.tile)).clock o.clock then .next (s.later (match o.kind with
      | .atomic .. => .atomicReturn k
      | _ => .ldfReturn k))
    else match s.opErr o with
    | some a => .next (State.spend (State.farFault { s with ops := s.ops.filter fun x => x.id != k } o.tile 0x09 s.anyInfo (BitVec.ofNat 64 a)))
    | none =>
      let v := s.opValue o
      let s := { v.1 with ops := v.1.ops.filter fun (x : HoldOp) => x.id != k }
      .next (match o.result with
        | none => s
        | some r => s.landOp o { r with value := v.2.setWidth 2048 })

/-- LDF_RETURN (R169). -/
def execLdfReturn (k : Nat) (s : State) : Out := s.returnOp k

/-- ATOMIC_RETURN (R319). -/
def execAtomicReturn (k : Nat) (s : State) : Out := s.returnOp k

/-- Whether an operation is a range instruction, which has no age limit. -/
def HoldOp.isRange (o : HoldOp) : Bool :=
  match o.kind with
  | .range .. => true
  | _ => false

/-- FAR_ANSWER_TIMEOUT (R169, R319): 2^24 ticks after issue with no answer. -/
def execFarAnswerTimeout (k : Nat) (s : State) : Out :=
  match s.ops.find? fun o => o.id == k && !o.isRange with
  | none => .next s
  | some o => .next (if o.issued + 2 ^ 24 ≤ s.ptime.toNat then s.faultOp o 1 else s)

/-! ## Copies that fault, park or are cancelled (R295, R296, R301) -/

/-- Is a step one of a slot of a tile? -/
def stepOfSlot (t slot : Nat) : Instr → Bool
  | .releaseEvent t' b _ => t' == t && b.toNat == slot
  | .visibilityEvent t' b _ => t' == t && b.toNat == slot
  | .fsigApply t' b => t' == t && b.toNat == slot
  | .fredSend t' b => t' == t && b.toNat == slot
  | .fredResultSector t' b _ _ => t' == t && b.toNat == slot
  | .copyAgeTimeout t' b => t' == t && b.toNat == slot
  | _ => false

/-- Does a packet bring a step of a slot of a tile? -/
def Packet.ofSlot (t slot : Nat) (k : Packet) : Bool :=
  match k.parcel with
  | .step i => stepOfSlot t slot i
  | .port .. => false

/-- A client that is gone. -/
def Client.unless (c : Client) (t slot : Nat) : Client :=
  match c with
  | .copy t' sl _ _ => if t' = t ∧ sl = slot then .nobody else c
  | _ => c

/-- A contribution whose slot is gone: its result goes to no tile. -/
def dropSlot (t slot : Nat) (c : Contribution) : Contribution :=
  if c.tile.any (fun p => p.1 == t && p.2.toNat == slot) then { c with tile := none } else c

/-- The same for a contribution on its way. -/
def dropExt (t slot : Nat) (x : Ext) : Ext :=
  match x with
  | .contribution c => .contribution (dropSlot t slot c)
  | x => x

/-- The stores of a copy that are on their way to the memory pool arrive: sectors read from scratchpad and not yet written (R301, R302). -/
def State.landPool (s : State) (t : Nat) (c : Copy) : State :=
  if c.toMem && c.st == .issued && (s.extent t (extIndex c.e)).any fun x => x.cls == 2 then
    (List.range (c.size / 64)).foldl (fun s i =>
      if SMap.get false c.relDone i && !SMap.get false c.visDone i then
        s.writePool ((toBytes 64 (SMap.get 0 c.data i).toNat).zipIdx.map fun b => (c.byteAt i b.2, b.1))
      else s) s
  else s

/-- A slot is freed: accesses it has begun are completed, no event of it follows (R301, R302). (DEDUCED: log 60.) -/
def State.freeSlot (s : State) (t slot : Nat) : State :=
  let s := match s.copyAt t slot with
    | some c => s.landPool t c
    | none => s
  { s.updTile t (fun x => { x with far := { x.far with copies := x.far.copies.filter fun c => c.slot != slot } }) with
    pending := (s.pending.filter fun p => !stepOfSlot t slot p.2.1).map fun p => (p.1, p.2.1, dropExt t slot p.2.2)
    agenda := (s.agenda.filter fun p => !stepOfSlot t slot p.1).map fun p => (p.1, dropExt t slot p.2)
    packets := s.packets.filter fun k => !k.ofSlot t slot
    creqs := s.creqs.map fun r => { r with client := r.client.unless t slot }
    wbs := s.wbs.map fun r => { r with client := r.client.unless t slot }
    updates := s.updates.map fun r => { r with client := r.client.unless t slot }
    queries := s.queries.filter fun q => q.client.unless t slot == q.client
    rounds := s.rounds.map fun r => { r with got := r.got.map (dropSlot t slot) } }

/-- Records none of whose slots is in use and which expand no further are freed (R284). -/
def FarEngine.tidy (x : FarEngine) : FarEngine :=
  { x with recs := x.recs.filter fun r => decide (r.next < r.total) || x.copies.any fun c => c.rec_ == r.id }

/-- The basins a record names. -/
def FarRec.basins (r : FarRec) : List BasinRef := [r.cmd.rel, r.cmd.vis].filter fun b => b != 0

/-- The launch tile of a tile as a remote basin reference (R289). -/
def State.remoteRef (s : State) (t : Nat) (b : BasinRef) : BasinRef :=
  if b.getLsbD 63 then b
  else BitVec.ofNat 64 (2 ^ 63 + (s.entry (s.tile t).lte).rank.toNat % 2 ^ 15 * 2 ^ 48 + s.ltOf t * 2 ^ 39 + b.toNat % 2 ^ 22)

/-- A decrement sent to a basin, with the clock it carries: a local one the die's clock covers is applied at once (R305, R335). (DEDUCED: log 91.) -/
def State.decrement (s : State) (t : Nat) (b : BasinRef) (sectors : Bool) (count : Nat) (tag : Tag) (clk : List Nat) : State :=
  if b = 0 ∨ count = 0 then s
  else if !b.getLsbD 63 && covers (s.die (dieOf t)).clock clk then
    s.updTile t fun x => x.queueBasin 4 (b.toNat % 2 ^ 22) (if sectors then .sector tag else .arrive count)
  else
    let e := s.entry (s.tile t).lte
    let b := s.remoteRef t b
    if field b.toNat 48 15 = e.rank.toNat then
      match s.physTile (s.tile t).lte (field b.toNat 39 9) with
      | some u => s.carry (dieOf t) (nodeOf t) (dieOf u) (nodeOf u) (.remoteDecrement e.job b sectors count tag clk)
      | none => s.later (.remoteDecrement e.job b sectors count tag clk)
    else s.say (.decrement e.job b sectors count tag)

/-- ERR set in a basin a record names (R296, R301). A local basin is marked at once, or, in a park, when its launch runs again; a remote one by the same road a decrement takes, as one of count 0. (DEDUCED: log 66, 91.) -/
def State.markErr (s : State) (t : Nat) (b : BasinRef) : State :=
  let e := s.entry (s.tile t).lte
  let mark := fun (b : BasinRef) => Instr.remoteDecrement e.job b false 0 0 []
  if !b.getLsbD 63 then
    if s.asleep t then s.later (mark (s.remoteRef t b)) else s.updTile t fun x => x.queueBasin 4 (b.toNat % 2 ^ 22) .err
  else if field b.toNat 48 15 = e.rank.toNat then
    match s.physTile (s.tile t).lte (field b.toNat 39 9) with
    | some u => s.carry (dieOf t) (nodeOf t) (dieOf u) (nodeOf u) (mark b)
    | none => s
  else s.say (.errMark e.job b)

/-- Every slot of a record cancelled, its expansion ended (R296, R301). (DEDUCED: log 60.) -/
def State.cancelRec (s : State) (t : Nat) (r : FarRec) : State :=
  let slots := ((s.tile t).far.copies.filter fun c => c.rec_ == r.id).map fun c => c.slot
  let s := slots.foldl (fun s sl => s.freeSlot t sl) s
  let s := s.updTile t fun x => { x with far := { x.far with recs := x.far.recs.filter fun y => y.id != r.id } }
  r.basins.foldl (fun s b => s.markErr t b) s

/-- A copy ends faulted: its record is cancelled and its cause waits for the next primary bundle that issues (R197, R296, R297); `area` when what it met lies in the handler area (R189). -/
def State.endCopy (s : State) (t : Nat) (c : Copy) (code : BitVec 6) (info : BitVec 8) (addr : W64) (area : Bool := false) : State :=
  (match s.recOf t c with
    | some r => s.cancelRec t r
    | none => s.freeSlot t c.slot).farFault t code info addr area

/-- UECC of a copy: INFO names its slot, and its reason is not stated (R296, R297). (DESIGN CHOICE: log 7.) -/
def State.ueccCopy (s : State) (t : Nat) (c : Copy) (addr : W64) (area : Bool) : State :=
  (s.endCopy t c 0x09 ((s.anyInfo &&& 0xC0) ||| BitVec.ofNat 8 c.slot) addr area).spend

/-- FAR_FAULT_FATAL of a copy, at a byte of its memory side (R296). -/
def State.faultCopy (s : State) (t : Nat) (c : Copy) (rsn o : Nat) : State :=
  s.endCopy t c 0x16 (BitVec.ofNat 8 (rsn * 64 + c.slot)) (BitVec.ofNat 64 (c.e.toNat + o))

/-- A copy parked on a page, an event from which it ages (R295, R296). -/
def State.parkCopy (s : State) (t : Nat) (c : Copy) (va : Nat) : State :=
  (s.updTile t fun x => { x with far := x.far.updCopy c.slot fun c => { c with st := .parked va, last := s.ptime.toNat } }).pageReq t c.slot c.toMem va

/-! ## Queries and walks (R88) -/

/-- A query answered: a leaf is installed in the tile's micro-TLB and the access goes on; without one it parks. -/
def State.tlbAnswer (s : State) (q : TlbQ) (x : Option TlbEntry) : State :=
  let s := { s with queries := s.queries.filter fun y => y.id != q.id }
  let s := match q.client.tile, x with
    | some t, some e => s.installTile t e
    | _, _ => s
  match q.client, x with
  | .stream _ k, some _ => s.opStep k
  | .stream t k, none =>
    match s.ops.find? fun o => o.id == k with
    | none => s
    | some o =>
      (s.updOp k fun o => { o with parked := some q.va }).pageReq t (if o.kind.code = 1 then 64 else 65) (o.kind.code == 2) q.va
  | .copy t slot _ _, some _ =>
    match s.copyAt t slot with
    | none => s
    | some c => s.now (.copyIssue t c.cls)
  | .copy t slot _ _, none =>
    match s.copyAt t slot with
    | none => s
    | some c => s.parkCopy t c q.va
  | .nobody, _ => s

/-- Does a query still wait for its answer at its home? -/
def TlbQ.waits (y : TlbQ) : Bool :=
  y.here && match y.leg with
    | .asks => true
    | .copies _ => true
    | .copied _ => true
    | _ => false

/-- The first of the queries that have arrived at a slice: they are answered in arrival order. -/
def State.queryAt (s : State) (h : Nat × Nat) : Option TlbQ := s.queries.find? fun y => y.waits && y.home == h

/-- The next query at a slice is taken up. -/
def State.nextQuery (s : State) (h : Nat × Nat) : State :=
  match s.queryAt h with
  | some y => s.now (.tlbQuery y.id)
  | none => s

/-- A query arrives at its home slice, behind those that have arrived before it. -/
def State.arriveQuery (s : State) (y : TlbQ) : State :=
  if y.here then s else { s with queries := (s.queries.filter fun x => x.id != y.id) ++ [{ y with here := true }] }

/-- A query takes its next leg. -/
def State.setLeg (s : State) (y : TlbQ) (l : TlbLeg) : State :=
  { s with queries := s.queries.map fun (x : TlbQ) => if x.id = y.id then { x with leg := l } else x }

/-- An answer leaves the home slice for the tile that asked, and the next query there is taken up (R88, R262). -/
def State.sendAnswer (s : State) (y : TlbQ) (x : Option TlbEntry) : State :=
  (match y.client.tile with
  | some t => (s.setLeg y (.answers x)).carry y.home.1 y.home.2 (dieOf t) (nodeOf t) (.tlbQuery y.id)
  | none => { s with queries := s.queries.filter fun (z : TlbQ) => z.id != y.id }).nextQuery y.home

/-- A walked leaf installed at its home and sent on to the BACKUP home; where there is none, the answer leaves (R88, R262). (PRESUMED: log 64.) -/
def State.installHome (s : State) (y : TlbQ) (x : TlbEntry) : State :=
  let s := s.installAt y.home x
  match s.backupOf x.asid y.va with
  | some b => (s.setLeg y (.copies x)).carry y.home.1 y.home.2 b.1 b.2 (.tlbQuery y.id)
  | none => s.sendAnswer y (some x)

/-- Does an invalidation cover a page? -/
def Inval.covers (x : Inval) (asid : BitVec 16) (lo hi : Nat) : Bool :=
  x.asid == asid && (x.all || (decide (lo < x.base + x.len) && decide (x.base < hi)))

/-- Does an invalidation match an entry? -/
def Inval.hits (x : Inval) (e : TlbEntry) : Bool := x.covers e.asid e.span.1 e.span.2

/-- Is an entry of a die's slice stale at another die: past its step 1 that takes no translation a TLBINV removes, and the slice's die has not come to its own step 1 (R90)? -/
def State.staleAt (s : State) (home d : Nat) (e : TlbEntry) : Bool :=
  s.iod.invals.any fun x => x.hits e && x.stepped.getLsbD d && !x.stepped.getLsbD home

/-- The same for the tile of a client: such a query is walked afresh. -/
def State.stale (s : State) (home : Nat) (c : Client) (e : TlbEntry) : Bool := c.tile.any fun t => s.staleAt home (dieOf t) e

/-- A query at its home slice: it waits its turn, is answered from the slice, or walks (R87, R88). -/
def State.homeQuery (s : State) (y : TlbQ) : State :=
  let s := s.arriveQuery y
  if (s.queryAt y.home).all (fun z => z.id != y.id) || s.walks.any (fun w => w.q.id == y.id) then s
  else
    match (s.tlbAt y.home).find? fun e => e.maps y.asid y.va && !s.stale y.home.1 y.client e with
    | some e => s.sendAnswer y (some e)
    | none =>
      let k := s.nextId
      (State.fresh { s with walks := s.walks ++ [⟨k, y, y.home.1, y.home.2⟩] }).later (.tlbWalkDone k)

/-- A query whose answer holds no longer is asked anew. -/
def State.askAgain (s : State) (y : TlbQ) : State :=
  let s := { s with queries := s.queries.filter fun (z : TlbQ) => z.id != y.id }
  match y.client.tile with
  | some t => s.ask t y.asid y.va y.client
  | none => s

/-- TLB_QUERY (R87, R88, R262): a leg of a query's way ends: at the home slice; at the BACKUP home, which takes the entry; at the home again; or at the tile with the answer. (PRESUMED: log 64.) -/
def execTlbQuery (q : Nat) (s : State) : Out :=
  match s.queries.find? fun y => y.id == q with
  | none => .next s
  | some y =>
    match y.leg with
    | .asks => .next (s.homeQuery y)
    | .copies e =>
      .next (match s.backupOf e.asid y.va with
        | some b => ((if s.staleAt y.home.1 b.1 e then s else s.installAt b e).setLeg y (.copied e)).carry b.1 b.2 y.home.1 y.home.2 (.tlbQuery q)
        | none => s.sendAnswer y (some e))
    | .copied e => .next (s.sendAnswer y (some e))
    | .answers x => .next (if x.any (s.stale y.home.1 y.client) then s.askAgain y else s.tlbAnswer y x)
    | .again => .next (s.askAgain y)

/-- TLB_WALK_DONE (R81, R88): the leaf is installed and goes to the BACKUP home before the query is answered; PT_BAD is warned of. -/
def execTlbWalkDone (w : Nat) (s : State) : Out :=
  match s.walks.find? fun x => x.id == w with
  | none => .next s
  | some x =>
    let s := { s with walks := s.walks.filter fun (y : Walk) => y.id != w }
    match s.walk x.die x.q.asid x.q.va with
    | .leaf l n =>
      let e : TlbEntry := ⟨x.q.asid, if n = 1 then x.q.va / 2 ^ 26 * 1024 else x.q.va / 65536, n == 1, l⟩
      .next (s.installHome x.q e)
    | .none => .next (s.sendAnswer x.q none)
    | .bad level pa =>
      let who := match x.q.client.tile with
        | some t => ((s.tile t).lte, BitVec.ofNat 9 (s.ltOf t))
        | none => (0xFF, 0x1FF)
      let s := State.spend <| s.post { EvRec.warning s x.die with
        info := 0x03, lte := who.1, ltile := who.2, asid := x.q.asid, mask := BitVec.ofNat 8 level,
        addr := BitVec.ofNat 64 pa }
      .next (s.sendAnswer x.q none)

/-! ## Invalidation (R89 to R93) -/

/-- Is an entry on its way to or from a BACKUP home that a test picks? -/
def TlbLeg.copy (l : TlbLeg) (f : TlbEntry → Bool) : Bool :=
  match l with
  | .copies e => f e
  | .copied e => f e
  | _ => false

/-- Is an answer on its way with an entry that a test picks? -/
def TlbLeg.answer (l : TlbLeg) (f : TlbEntry → Bool) : Bool :=
  match l with
  | .answers x => x.any f
  | _ => false

/-- The packets of queries that a test picks are lost. -/
def State.dropQueries (s : State) (f : TlbQ → Bool) : State :=
  let ks := (s.queries.filter f).map fun y => y.id
  { s with packets := s.packets.filter fun k => match k.parcel with
      | .step (.tlbQuery q) => !ks.contains q
      | _ => true }

/-- The entries of a die's slices that an invalidation removes are on their way in no query: those bound for a BACKUP home are walked afresh, those in an answer make their tile ask anew (R90). -/
def State.invalQueries (s : State) (x : Inval) (d : Nat) : State :=
  let old := fun (y : TlbQ) => y.home.1 == d && y.leg.copy x.hits
  let ks := (s.queries.filter old).map fun y => y.id
  let s := s.dropQueries old
  let turn := fun (y : TlbQ) =>
    if old y then { y with leg := .asks } else if y.home.1 == d && y.leg.answer x.hits then { y with leg := .again } else y
  let s := { s with queries := s.queries.map turn }
  ks.foldl (fun s k => s.later (.tlbQuery k)) s

/-- A die's step 1: every matching entry goes from its slices and from its tiles' micro-TLBs; its walks start again (R90). -/
def State.invalDie (s : State) (x : Inval) (d : Nat) : State :=
  let keep := fun (es : List TlbEntry) => es.filter fun e => !x.hits e
  let s := s.updDie d fun y => { y with tlb := SMap.mapV [] (fun _ es => keep es) y.tlb }
  let s := s.mapTiles fun t y => if dieOf t = d then { y with far := { y.far with utlb := keep y.far.utlb } } else y
  let s := s.invalQueries x d
  let old := s.walks.filter fun w => w.die == d && x.covers w.q.asid (w.q.va / 65536) (w.q.va / 65536 + 1)
  let s := { s with walks := s.walks.filter fun (w : Walk) => !old.contains w }
  old.foldl (fun s w =>
    let k := s.nextId
    (State.fresh { s with walks := s.walks ++ [{ w with id := k }] }).later (.tlbWalkDone k)) s

/-- The far copies of a die that have been translated through an entry that an invalidation removes (R90). -/
def State.oldCopies (s : State) (x : Inval) (d : Nat) : List (Nat × Nat × Nat) :=
  (s.tiles.filter fun p => dieOf p.1 == d && (s.entry p.2.lte).asid == x.asid).flatMap fun p =>
    (p.2.far.copies.filter fun (c : Copy) => c.st == .issued && c.via.any fun v => x.covers x.asid v.1 v.2).map fun c => (p.1, c.slot, c.rec_)

/-- The operations of a die's tiles that have been translated through such an entry. -/
def State.oldOps (s : State) (x : Inval) (d : Nat) : List Nat :=
  (s.ops.filter fun (o : HoldOp) => dieOf o.tile == d && (s.entry (s.tile o.tile).lte).asid == x.asid && o.pa.isSome &&
    o.via.any fun v => x.covers x.asid v.1 v.2).map fun o => o.id

/-- Has a die an access under way that was translated through a removed entry? (R90) -/
def State.invalWaits (s : State) (x : Inval) (d : Nat) : Bool :=
  (x.copies.any fun k => dieOf k.1 == d && (s.copyAt k.1 k.2.1).any fun c => c.rec_ == k.2.2 && c.st == .issued) ||
    s.ops.any fun (o : HoldOp) => x.ops.contains o.id && dieOf o.tile == d && o.pa.isSome

/-- A die takes its step 1, and what is under way through the removed entries is noted (R90). -/
def State.invalStep (s : State) (x : Inval) (d : Nat) : State :=
  if x.stepped.getLsbD d then s
  else
    let cs := s.oldCopies x d
    let os := s.oldOps x d
    let s := s.invalDie x d
    { s with iod := { s.iod with invals := s.iod.invals.map fun (y : Inval) =>
      if y.id = x.id then { y with stepped := y.stepped ||| BitVec.twoPow 4 d, copies := y.copies ++ cs, ops := y.ops ++ os } else y } }

/-- Completions of the invalidations that every die has acked, in the order accepted (R89, R90). -/
def State.invalDone (s : State) : State :=
  let done := s.iod.invals.takeWhile fun x => x.acks == 0
  let s := { s with iod := { s.iod with invals := s.iod.invals.dropWhile fun x => x.acks == 0 } }
  done.foldl (fun s x => s.say (.completion x.frame.seq 0 [])) s

/-- A die leaves an ack set (R90, R92). -/
def State.invalAck (s : State) (n d : Nat) : State :=
  State.invalDone { s with iod := { s.iod with invals := s.iod.invals.map fun (x : Inval) =>
    if x.id = n then { x with acks := x.acks &&& ~~~ BitVec.twoPow 4 d } else x } }

/-- TLBINV_ACK (R90): the die's steps, and the ack once no access under way uses the old translation. -/
def execTlbinvAck (n : Nat) (d : BitVec 2) (s : State) : Out :=
  match s.iod.invals.find? fun x => x.id == n && x.acks.getLsbD d.toNat with
  | none => .next s
  | some x =>
    let s := s.invalStep x d.toNat
    .next (if (s.iod.invals.find? fun y => y.id == n).any fun y => s.invalWaits y d.toNat then s.later (.tlbinvAck n d)
      else s.invalAck n d.toNat)

end Sys2Proof.Machine
end

