-- ==== Sys2Proof/Machine/Far.lean ====
section
/-! DEFINITION. The far copy engine: starts, expansion, release and visibility, signals, reductions, cancellation, links, and the accesses of other packages (14: R282 to R303; 15: R299, R320; 16: R334, R335). -/

namespace Sys2Proof.Machine

/-! ## Commands at their commit points (R288, R298, R299) -/

/-- The nest of a stream (R282). -/
def FarEngine.nestOf (x : FarEngine) (sec : Bool) : Nest := if sec then x.nest2 else x.nest

/-- Change a stream's nest. -/
def FarEngine.updNest (x : FarEngine) (sec : Bool) (f : Nest → Nest) : FarEngine :=
  if sec then { x with nest2 := f x.nest2 } else { x with nest := f x.nest }

/-- Change a tile's engine. -/
def State.updFar (s : State) (t : Nat) (f : FarEngine → FarEngine) : State := s.updTile t fun x => { x with far := f x.far }

/-- Must an FGO that would start on a cycle be refused? (R140) -/
def FarEngine.portLate (x : FarEngine) (start : Nat) : Bool := decide (4 ≤ x.port.length) || x.port.any fun c => decide (start < c.start)

/-- Are all descriptor records in use? -/
def FarEngine.full (x : FarEngine) : Bool := decide (16 ≤ x.recs.length)

/-- The ids of the records an FSIG of a stream waits for, its copies and FREDs (R298); a FRED waits for the copies alone, as R398 and R399 run it. (DEDUCED: log 39.) -/
def FarEngine.earlier (x : FarEngine) (sec freds : Bool) : List Nat :=
  (x.recs.filter fun r => r.cmd.sec == sec && match r.kind with
    | .fgo => true
    | .fsig _ => false
    | .fred .. => freds).map fun r => r.id

/-- A new record. -/
def FarEngine.addRec (x : FarEngine) (kind : FarKind) (cmd : FgoCmd) (total sectors : Nat) : FarEngine :=
  { x with nextId := x.nextId + 1,
           recs := x.recs ++ [⟨x.nextId, kind, cmd, 0, total, none, sectors, sectors,
             match kind with
             | .fgo => []
             | .fsig _ => x.earlier cmd.sec true
             | .fred .. => x.earlier cmd.sec false⟩] }

/-- A command with no nest of its own. -/
def plainCmd (start pc : Nat) (sec hm : Bool) (phase : BitVec 6) (rel vis : BasinRef) (sc : BitVec 4) (ls mask : BitVec 8) : FgoCmd :=
  { start := start, pc := pc, gate := none, sec := sec, hm := hm, phase := phase, nest := Nest.reset, rel := rel, vis := vis,
    sc := sc, ls := ls, mask := mask }

/-! ## Starting an FGO (R290) -/

/-- The sums of the least and of the greatest terms of levels, each with its count and stride (R287). -/
def spanOf (ls : List (Nat × Int)) : Int × Int :=
  ls.foldl (fun a l => let m := ((l.1 : Int) - 1) * l.2; (a.1 + Min.min 0 m, a.2 + Max.max 0 m)) (0, 0)

/-- How many copies a nest makes. -/
def Nest.count (n : Nest) : Nat := n.levels.foldl (fun a l => a * l.1) 1

/-- The index lanes as offsets. -/
def Nest.idxAt (n : Nest) (l : Nat) : Int := (lane n.idx l).toInt

/-- The span of the scratchpad side, and of the memory side (R287). -/
def Nest.spadSpan (n : Nest) : Int × Int := spanOf (n.levels.map fun l => (l.1, if n.ssp then l.2.1 else l.2.2))
def Nest.memSpan (n : Nest) : Int × Int :=
  let st := fun (l : Nat × Int × Int) => if n.ssp then l.2.2 else l.2.1
  match n.levels with
  | [] => (0, 0)
  | l :: ls =>
    let r := spanOf (ls.map fun l => (l.1, st l))
    if n.idxOn then
      let xs := (List.range l.1).map n.idxAt
      (r.1 + xs.foldl Min.min (xs.headD 0), r.2 + xs.foldl Max.max (xs.headD 0))
    else
      let m := spanOf [(l.1, st l)]
      (r.1 + m.1, r.2 + m.2)

/-- The memory-side extent address of a nest, and its scratchpad base. -/
def Nest.mem (n : Nest) : W64 := if n.ssp then n.dst else n.src
def Nest.spadBase (n : Nest) : Int := if n.ssp then (n.src.toNat : Int) else (n.dst.toNat : Int)

/-- The first failing check of an FGO at its start cycle: code, INFO and TADDR (R290). (DEDUCED: log 47.) -/
def State.fgoCheck (s : State) (t : Nat) (c : FgoCmd) : Option (BitVec 6 × BitVec 8 × W64) :=
  let n := c.nest
  let far := (s.tile t).far
  let cnt0 := (n.levels.headD (1, 0, 0)).1
  if n.idxOn && decide (64 < cnt0) then some (0x02, s.anyInfo, s.anyAddr)
  else if far.full || far.lastStart == some s.ptime.toNat then some (0x0E, s.anyInfo, BitVec.ofNat 64 c.pc)
  else if n.count = 0 then none
  else
    let sp := n.spadSpan
    let lo := n.spadBase + sp.1
    let hi := n.spadBase + sp.2 + n.size
    if lo < 0x10000 && !c.hm then some (0x19, s.anyInfo, BitVec.ofInt 64 lo)
    else if lo < 0 || 0x400000 < hi then some (0x06, setInfo 2 (!n.ssp) 1, BitVec.ofInt 64 (if lo < 0 then lo else hi - 1))
    else
      let ms := n.memSpan
      let o : Int := extOffset n.mem
      let bad := match s.extent t (extIndex n.mem) with
        | none => true
        | some x => !(decide (0 ≤ o + ms.1) && decide (o + ms.2 + n.size ≤ x.len) && x.cls != 0 && (if n.ssp then x.w else x.r) &&
            s.ownsPrivate t x)
      if bad then
        some (0x07, s.anyInfo, BitVec.ofNat 64 (extIndex n.mem * 2 ^ 59 + wrapN 59 (if o + ms.1 < 0 then o + ms.1 else o + ms.2)))
      else none

/-- The stream's most recently started FGO is this one, with no copy yet (R300). -/
def FarEngine.setNewest (x : FarEngine) (sec : Bool) : FarEngine :=
  if sec then { x with recent2 := none, newest2 := x.nextId } else { x with recent := none, newest := x.nextId }

/-- The first command of the FAR issue port starts: its gate, its checks, its record (R139, R288, R290). -/
def State.startFar (s : State) (t : Nat) : State :=
  match (s.tile t).far.port with
  | [] => s
  | c :: cs =>
    let s := s.updFar t fun x => { x with port := cs }
    match gateTrap ((s.tile t).gateState c.ctx c.start c.gate) with
    | some code =>
      let addr := if code = 0x09 then s.gateAddr (s.tile t) c.ctx c.start c.gate else BitVec.ofNat 64 c.pc
      (s.raiseExt t code s.anyInfo addr c.mask).spend
    | none =>
      match s.fgoCheck t c with
      | some (code, info, addr) => (s.raiseExt t code info addr c.mask).spend
      | none =>
        s.updFar t fun x =>
          let n := c.nest.count
          let x := { x.setNewest c.sec with lastStart := some s.ptime.toNat }
          if n = 0 then { x with nextId := x.nextId + 1 } else x.addRec .fgo c n (n * (c.nest.size / 64))

/-! ## Expansion (R283, R284, R287) -/

/-- The term of a level in copy number `i` for a side. -/
def nestTerm : List (Nat × Int) → Nat → Int
  | [], _ => 0
  | (n, st) :: ls, i => ((i % n : Nat) : Int) * st + nestTerm ls (i / n)

/-- The addresses of copy `i`: the scratchpad address and the memory-side extent address (R287). -/
def Nest.copyAddr (n : Nest) (i : Nat) : Nat × W64 :=
  let sp := n.spadBase + nestTerm (n.levels.map fun l => (l.1, if n.ssp then l.2.1 else l.2.2)) i
  let ml := n.levels.map fun l => (l.1, if n.ssp then l.2.2 else l.2.1)
  let m := match ml with
    | [] => 0
    | (c, st) :: ls => (if n.idxOn then n.idxAt (i % c) else ((i % c : Nat) : Int) * st) + nestTerm ls (i / c)
  (sp.toNat, BitVec.ofNat 64 (extIndex n.mem * 2 ^ 59 + ((extOffset n.mem : Int) + m).toNat))

/-- The class of an extent's copies: NEAR 0, FABRIC 1, POOL 2 (R283). -/
def copyClass (x : Option ExtentDecl) : BitVec 2 :=
  match (x.map fun x => x.cls).getD 1 with
  | 2 => 2
  | 3 => 1
  | _ => 0

/-- The lowest free slot (R284). -/
def FarEngine.freeSlot (x : FarEngine) : Option Nat := (List.range 64).find? fun i => !x.copies.any fun c => c.slot == i

/-- How many entries of a class queue are in use. -/
def FarEngine.queueLen (x : FarEngine) (cls : BitVec 2) : Nat := (x.copies.filter fun c => c.cls == cls && c.st == .queued).length

/-- Does a basin reference name a basin on a tile itself? The null reference names none (R283, R289). -/
def State.nearRef (s : State) (t : Nat) (b : BasinRef) : Bool :=
  if b.getLsbD 63 then
    decide (field b.toNat 48 15 = (s.entry (s.tile t).lte).rank.toNat) && s.physTile (s.tile t).lte (field b.toNat 39 9) == some t
  else b != 0

/-- The class of a record's next copy, its addresses, size and direction. -/
def State.nextCopy (s : State) (t : Nat) (r : FarRec) : BitVec 2 × Nat × W64 × Nat × Bool :=
  match r.kind with
  | .fgo =>
    let a := r.cmd.nest.copyAddr r.next
    (copyClass (s.extent t (extIndex a.2)), a.1, a.2, r.cmd.nest.size, r.cmd.nest.ssp)
  | .fsig _ => (if s.nearRef t r.cmd.vis then 0 else 1, 0, 0, 0, false)
  | .fred len _ _ _ chunk _ => (1, chunk, 0, 64 * len, true)

/-- COPY_EXPANSION (R284): one copy of the first record that has some left takes the lowest free slot and a queue entry. -/
def execCopyExpansion (t : Nat) (s : State) : Out :=
  let far := (s.tile t).far
  match far.recs.find? fun r => decide (r.next < r.total), far.freeSlot with
  | some r, some slot =>
    let n := s.nextCopy t r
    if 32 ≤ far.queueLen n.1 then .next s
    else .next (s.updFar t fun x =>
      let x := { x with
        recs := x.recs.map (fun y => if y.id = r.id then { y with next := y.next + 1, first := some (y.first.getD slot) } else y),
        copies := x.copies ++ [⟨slot, r.id, n.1, r.next, n.2.2.1, n.2.1, n.2.2.2.2, n.2.2.2.1, .queued, [], [], [], [], [], [], s.ptime.toNat, []⟩] }
      let isFgo := match r.kind with
        | .fgo => true
        | _ => false
      if isFgo && r.next == 0 then
        if r.cmd.sec then (if x.newest2 = r.id then { x with recent2 := some slot } else x)
        else if x.newest = r.id then { x with recent := some slot } else x
      else x)
  | _, _ => .next s

/-! ## Issue (R294, R295) -/

/-- The pages of the micro-TLB entries a copy's translation uses (R90). -/
def State.copyVia (s : State) (t : Nat) (c : Copy) (x : ExtentDecl) : List (Nat × Nat) :=
  let va := x.vbase + extOffset c.e
  let at_ := fun (a : Nat) => ((s.tile t).far.utlb.find? fun y => y.maps (s.entry (s.tile t).lte).asid a).map TlbEntry.span
  if x.cls = 1 then []
  else (((List.range (c.size / 64)).flatMap fun i => [va + 64 * i, va + 64 * i + if c.shift = 0 then 0 else 64 - c.shift]).filterMap at_).dedup

/-- The steps of a copy that goes to memory: sectors read first, in an order that is not fixed (R291). -/
def State.startCopy (s : State) (t : Nat) (c : Copy) (x : ExtentDecl) (pas : List (Nat × Nat)) : State :=
  let c := { c with st := .issued, pas := pas, parts := [], errs := [], via := s.copyVia t c x }
  let s := s.updFar t fun f => f.updCopy c.slot fun _ => c
  let b := BitVec.ofNat 6 c.slot
  let d := dieOf t
  (List.range (c.size / 64)).foldl (fun s i =>
    if SMap.get false c.visDone i then s
    else if SMap.get false c.relDone i then s.later (.visibilityEvent t b i)
    else if !c.toMem && x.cls == 1 then
      (c.pieces i).foldl (fun s p =>
        let k := s.nextId
        (State.fresh { s with creqs := s.creqs ++ [⟨k, d, p.2.1, x.coh == 2, false, .read p.2.2.2, .copy t c.slot i p.1, false, false⟩] }).carry
          d (nodeOf t) d (s.sliceOf d p.2.1) (.cacheRequest k)) s
    else
      let s := if !c.toMem && x.cls == 3 then (c.pieces i).foldl (fun s p =>
          s.say (.peer (s.entry (s.tile t).lte).job x.peer (.read false p.2.1 p.2.2.2))) s else s
      s.later (.releaseEvent t b i)) s

/-- The physical address of each sector of a copy, or the first page without a usable leaf: a page to ask for, or a protection fault with its byte. -/
def State.copyPages (s : State) (t : Nat) (c : Copy) (x : ExtentDecl) : Sum (Nat × Bool) (List (Nat × Nat)) :=
  let asid := (s.entry (s.tile t).lte).asid
  let va := x.vbase + extOffset c.e
  let at_ := fun (a : Nat) => match (s.tile t).far.utlb.find? fun y => y.maps asid a with
    | none => (.inl (a, false) : Sum (Nat × Bool) Nat)
    | some y => match s.leafUse x y.leaf y.big a (!c.toMem) c.toMem false with
      | none => .inl (a, true)
      | some pa => .inr pa
  (List.range (c.size / 64)).foldr (fun i (acc : Sum (Nat × Bool) (List (Nat × Nat))) =>
    let a := va + 64 * i
    match at_ a, at_ (if c.shift = 0 then a else a + 64 - c.shift), acc with
    | .inl q, _, _ => .inl q
    | _, .inl q, _ => .inl q
    | _, _, .inl q => .inl q
    | .inr p, .inr q, .inr ps => .inr ((p, q) :: ps)) (.inr [])

/-- The first byte of a copy, from its start, whose route a test picks (R296). (DEDUCED: log 62.) -/
def State.routeAt (s : State) (c : Copy) (x : ExtentDecl) (f : Route → Bool) : Option Nat :=
  (List.range (c.size / 64)).findSome? fun i => (c.pieces i).findSome? fun p => if f (s.routeOf x p.2.1) then some (64 * i + p.2.2.1) else none

/-- COPY_ISSUE (R283, R284, R294): the head of a class queue leaves it; POOL and REMOTE pages are translated first, every one before a byte moves; a route that was not restored ends the copy faulted (R296); a parked launch's copies stay in their queues (R302). -/
def execCopyIssue (t : Nat) (cls : BitVec 2) (s : State) : Out :=
  match (if s.asleep t then none else (s.tile t).far.copies.find? fun c => c.cls == cls && c.st == .queued) with
  | none => .next s
  | some c =>
    let isFgo := (s.recOf t c).any fun r => match r.kind with
      | .fgo => true
      | _ => false
    if !isFgo then .next (s.updFar t fun f => f.updCopy c.slot fun c => { c with st := .issued })
    else match s.extent t (extIndex c.e) with
      | none => .next s
      | some x =>
        if x.cls = 1 then
          let pa := fun (o : Nat) => (s.cachedPA t (extIndex c.e) o).getD 0
          let pas := (List.range (c.size / 64)).map fun i =>
            (pa (extOffset c.e + 64 * i), pa (extOffset c.e + 64 * i + if c.shift = 0 then 0 else 64 - c.shift))
          .next (s.startCopy t c x pas)
        else match s.copyPages t c x with
          | .inr pas =>
            match s.routeAt { c with pas := pas } x s.iod.lost.contains with
            | some o => .next (s.faultCopy t c 3 o)
            | none => .next (s.startCopy t c x pas)
          | .inl (va, true) => .next (s.faultCopy t c 0 (va - (x.vbase + extOffset c.e)))
          | .inl (va, false) => .next (s.ask t (s.entry (s.tile t).lte).asid va (.copy t c.slot 0 0))

/-! ## The scratchpad side (R192, R197) -/

/-- Is a bank port taken on this tick? An asynchronous access then waits (R192). -/
def State.portTaken (s : State) (t ln : Nat) (wr : Bool) : Bool :=
  (s.tile t).uses.any fun u => !u.acc && u.wr == wr && u.bank == ln % 32

/-- The port is taken by an asynchronous access (R192). (DEDUCED: log 35.) -/
def State.takeAsync (s : State) (t ln : Nat) (wr : Bool) : State :=
  s.updTile t fun x => { x with uses := x.uses ++ [⟨false, ln % 32, wr, ln, 9, 0, 256 * ln⟩] }

/-- SET_VIOLATION of a FAR access, against the sets of the phase its command committed in (R197). -/
def State.farSet (s : State) (t : Nat) (r : FarRec) (a : Nat) (wr : Bool) : Option (BitVec 8) :=
  if 0x400000 ≤ a then some (setInfo 2 wr 1)
  else if r.cmd.hm || inSet (s.thdr t) r.cmd.phase.toNat 2 wr (a / 256) then none else some (setInfo 2 wr 0)

/-- The tag of a delivery (R150). -/
def State.farTag (s : State) (t : Nat) (ls : BitVec 8) : Tag := 0x8000 ^^^ ls.setWidth 16 ^^^ epx16 (s.tile t).prim.regs.epoch

/-- Mark a sector's release, or its visibility. -/
def State.doneSector (s : State) (t slot sec : Nat) (vis : Bool) : State :=
  s.updFar t fun f =>
    let rid := (f.copies.find? fun c => c.slot == slot).map fun c => c.rec_
    let f := f.updCopy slot fun c =>
      if vis then { c with visDone := SMap.set false c.visDone sec true, last := s.ptime.toNat }
      else { c with relDone := SMap.set false c.relDone sec true, last := s.ptime.toNat }
    { f with recs := f.recs.map fun r => if some r.id = rid then
        (if vis then { r with visLeft := r.visLeft - 1 } else { r with relLeft := r.relLeft - 1 }) else r }

/-- The slot of a copy whose every sector has had both events is freed, and its record with the last (R284). -/
def State.finishCopy (s : State) (t slot : Nat) : State :=
  match s.copyAt t slot with
  | none => s
  | some c =>
    if c.relDone.length = c.size / 64 ∧ c.visDone.length = c.size / 64 then (s.freeSlot t slot).updFar t FarEngine.tidy else s

/-- Is the route of a copy down? -/
def State.copyDown (s : State) (t : Nat) (c : Copy) : Bool :=
  (s.extent t (extIndex c.e)).any fun x => x.cls != 1 && (s.routeAt c x s.iod.down.contains).isSome

/-! ## Release and visibility (R291 to R293) -/

/-- A sector on its way to memory: into the slice, to the pool, or to the peer package (R292). -/
def State.sendSector (s : State) (t : Nat) (c : Copy) (x : ExtentDecl) (sec : Nat) (bs : List Byte) : State :=
  let d := dieOf t
  let part := fun (p : Nat × Nat × Nat × Nat) => (bs.drop p.2.2.1).take p.2.2.2
  if x.cls = 1 then
    (c.pieces sec).foldl (fun s p =>
      let k := s.nextId
      (State.fresh { s with creqs := s.creqs ++ [⟨k, d, p.2.1, x.coh == 2, false, .write ((part p).zipIdx.map fun b => (p.2.1 + b.2, b.1)),
        .copy t c.slot sec p.1, false, false⟩] }).carry d (nodeOf t) d (s.sliceOf d p.2.1) (.cacheRequest k)) s
  else
    let s := if x.cls = 3 then (c.pieces sec).foldl (fun s p =>
        s.say (.peer (s.entry (s.tile t).lte).job x.peer (.write false p.2.1 (part p)))) s else s
    (s.updFar t fun f => f.updCopy c.slot fun c => { c with data := SMap.set 0 c.data sec (BitVec.ofNat 512 (ofBytes bs)) }).later
      (.visibilityEvent t (BitVec.ofNat 6 c.slot) sec)

/-- The uncorrectable word a sector of a copy has met in a slice or in HBM (R297). -/
def Copy.errAt (c : Copy) (sec : Nat) : Option Nat := (c.errs.find? fun y => y.1 == sec).map Prod.snd

/-- RELEASE_EVENT (R291, R297): the sector of the source has been read, or an uncorrectable word of it ends the copy. (DESIGN CHOICE: log 13; DEDUCED: log 77.) -/
def execReleaseEvent (t : Nat) (slot : BitVec 6) (sec : Nat) (s : State) : Out :=
  match s.copyAt t slot.toNat with
  | none => .next s
  | some c =>
    match s.recOf t c, s.extent t (extIndex c.e) with
    | some r, some x =>
      if c.st ≠ .issued ∨ SMap.get false c.relDone sec then .next s
      else if s.asleep t || s.copyDown t c then .next (s.later (.releaseEvent t slot sec))
      else if c.toMem then
        let a := c.spad + 64 * sec
        if s.portTaken t (a / 256) false then .next (s.after 1 (.releaseEvent t slot sec))
        else match s.farSet t r a false with
          | some i => .next (s.endCopy t c 0x06 i (BitVec.ofNat 64 a))
          | none =>
            if (s.tile t).before.uecc a 64 then
              .next (s.ueccCopy t c ((((s.tile t).before.ueccSector a).map (BitVec.ofNat 64)).getD s.anyAddr) (r.cmd.hm && decide (a < 0x10000)))
            else
              let bs := readBytes (s.tile t).still.spad a 64
              let s := (s.takeAsync t (a / 256) false).updTile t fun y => y.scrub (a / 256)
              let s := s.doneSector t slot.toNat sec false
              .next ((s.decrement t r.cmd.rel true 1 0 (s.die (dieOf t)).clock).sendSector t c x sec bs)
      else
        match ((c.pieces sec).findSome? fun p => if x.cls = 2 then badWord s.perr p.2.1 p.2.2.2
            else if x.cls = 3 then peerBad x.peer p.2.1 p.2.2.2 s.nfree else none) <|> c.errAt sec with
        | some a => .next (s.ueccCopy t c (BitVec.ofNat 64 a) false)
        | none =>
        let v : BitVec 512 := match x.cls with
          | 2 => BitVec.ofNat 512 (ofBytes ((c.pieces sec).flatMap fun p => readBytes s.pool p.2.1 p.2.2.2))
          | 3 => Config.peerData x.peer (c.byteAt sec 0) s.nfree
          | _ => SMap.get 0 c.data sec
        let s := s.updFar t fun f => f.updCopy c.slot fun c => { c with data := SMap.set 0 c.data sec v }
        let s := (s.doneSector t slot.toNat sec false).spend
        .next ((s.decrement t r.cmd.rel true 1 0 (s.die (dieOf t)).clock).later (.visibilityEvent t slot sec))
    | _, _ => .next s

/-- Is a sector the last of its copy's to land in a line? (R293) -/
def Copy.lastOfLine (c : Copy) (sec : Nat) : Bool :=
  (List.range (c.size / 64)).all fun j => j == sec || (c.spad / 64 + j) / 4 != (c.spad / 64 + sec) / 4 || SMap.get false c.visDone j

/-- A sector landed in scratchpad, with the tag once the line is covered (R150, R293). -/
def State.landSector (s : State) (t a : Nat) (v : BitVec 512) (tag : Tag) (whole : Bool) : State :=
  (s.takeAsync t (a / 256) true).updTile t fun y =>
    let y := y.putBytes a (toBytes 64 v.toNat)
    if whole then y.setTag (a / 256) tag else y

/-- The clock a visibility event's decrement carries (R335). -/
def State.visClock (s : State) (t : Nat) (x : ExtentDecl) (sc : Nat) : List Nat :=
  if x.cls = 1 ∧ x.coh = 2 ∧ 3 ≤ sc then s.iod.clock else (s.die (dieOf t)).clock

/-- VISIBILITY_EVENT (R292): the sector is visible at the copy's scope; the slot and the record are freed before the basin's update. (DEDUCED: log 77.) -/
def execVisibilityEvent (t : Nat) (slot : BitVec 6) (sec : Nat) (s : State) : Out :=
  match s.copyAt t slot.toNat with
  | none => .next s
  | some c =>
    match s.recOf t c, s.extent t (extIndex c.e) with
    | some r, some x =>
      if c.st ≠ .issued ∨ !SMap.get false c.relDone sec ∨ SMap.get false c.visDone sec then .next s
      else if s.asleep t || s.copyDown t c then .next (s.later (.visibilityEvent t slot sec))
      else if c.toMem then
        let s := if x.cls = 2 then s.writePool ((toBytes 64 (SMap.get 0 c.data sec).toNat).zipIdx.map fun b => (c.byteAt sec b.2, b.1)) else s
        let s := (s.doneSector t slot.toNat sec true).finishCopy t slot.toNat
        .next (s.decrement t r.cmd.vis true 1 0 (s.visClock t x r.cmd.sc.toNat))
      else
        let a := c.spad + 64 * sec
        if s.portTaken t (a / 256) true then .next (s.after 1 (.visibilityEvent t slot sec))
        else match s.farSet t r a true with
          | some i => .next (s.endCopy t c 0x06 i (BitVec.ofNat 64 a))
          | none =>
            let tag := s.farTag t r.cmd.ls
            let s := s.landSector t a (SMap.get 0 c.data sec) tag (c.lastOfLine sec)
            let s := (s.doneSector t slot.toNat sec true).finishCopy t slot.toNat
            .next (s.decrement t r.cmd.vis true 1 tag (s.die (dieOf t)).clock)
    | _, _ => .next s

/-- What a REMOTE_DECREMENT brings: a sector with its tag, arrivals, or, with a count of 0, the mark of a faulted or cancelled copy (R305). (DEDUCED: log 91.) -/
def broughtUpd (sectors : Bool) (count : Nat) (tag : Tag) : BasinUpd :=
  if sectors then .sector tag else if count = 0 then .err else .arrive count

/-- REMOTE_DECREMENT (R305, R335, R409): a decrement from another tile or package, applied once the die's clock covers the clock it carries; one that comes over the fabric takes the I/O die's clock as it arrives. (DEDUCED: log 66, 91.) -/
def execRemoteDecrement (job : BitVec 32) (b : W64) (sectors : Bool) (count : Nat) (tag : Tag) (clock : List Nat) (s : State) : Out :=
  let clock := if s.ext = .fabric then s.iod.clock else clock
  match s.entries.find? fun e => e.2.job == job && (e.2.st == .running || e.2.st == .parked) with
  | none => .next s
  | some (e, _) =>
    let lt := field b.toNat 39 9
    let a := b.toNat % 2 ^ 22
    match s.physTile (BitVec.ofNat 8 e) lt with
    | none => .next (s.warn 4 0x06 (BitVec.ofNat 8 e) (BitVec.ofNat 9 lt) (BitVec.ofNat 64 a))
    | some u =>
      if !s.asleep u && covers (s.die (dieOf u)).clock clock then
        .next (s.updTile u fun x => x.queueBasin 4 a (broughtUpd sectors count tag))
      else .next (s.later (.remoteDecrement job b sectors count tag clock))

/-- COPY_AGE_TIMEOUT (R296): a copy that has performed no event for 2^24 ticks. (DEDUCED: log 61.) -/
def execCopyAgeTimeout (t : Nat) (slot : BitVec 6) (s : State) : Out :=
  match s.copyAt t slot.toNat with
  | none => .next s
  | some c =>
    let o := ((List.range (c.size / 64)).find? fun i => !SMap.get false c.visDone i).getD 0
    .next (if c.last + 2 ^ 24 ≤ s.ptime.toNat then s.faultCopy t c 1 (64 * o) else s)

/-! ## Signals and reductions (R298, R299) -/

/-- Have the records an FSIG or FRED waits for performed every visibility event? (DEDUCED: log 39.) -/
def State.afterDone (s : State) (t : Nat) (r : FarRec) : Bool :=
  r.after.all fun i => ((s.tile t).far.recs.find? fun y => y.id == i).all fun y => y.visLeft == 0 && decide (y.total ≤ y.next)

/-- FSIG_APPLY (R298): the slot is freed, then ARRIVE of the basin falls by the count. -/
def execFsigApply (t : Nat) (slot : BitVec 6) (s : State) : Out :=
  match s.copyAt t slot.toNat with
  | none => .next s
  | some c =>
    match s.recOf t c with
    | some r =>
      match r.kind with
      | .fsig n =>
        if c.st = .issued ∧ s.afterDone t r then
          let s := (s.freeSlot t slot.toNat).updFar t FarEngine.tidy
          .next (s.decrement t r.cmd.vis false n 0 (s.die (dieOf t)).clock)
        else .next s
      | _ => .next s
    | none => .next s

/-- Where the round number of a rank's next FRED of a job's group is kept (R320). -/
def fredKey (job : BitVec 32) (grp : BitVec 16) (rank : Nat) : Nat := (job.toNat * 65536 + grp.toNat) * 65536 + rank

/-- What reading a chunk has come to: the engine goes on, or the FRED has ended. -/
abbrev ChunkRead := State × Bool

/-- A line of a FRED's chunk is read, unless its port is taken: its sets and its words are checked, and its sectors are released (R187, R192, R197, R297). -/
def State.readChunk (t : Nat) (r : FarRec) (c : Copy) (a : ChunkRead) (l : Nat × List Nat) : ChunkRead :=
  let s := a.1
  if !a.2 || s.portTaken t l.1 false then a
  else match l.2.findSome? fun i => (s.farSet t r (c.spad + 64 * i) false).map fun f => (f, c.spad + 64 * i) with
    | some (i, ad) => (s.endCopy t c 0x06 i (BitVec.ofNat 64 ad), false)
    | none =>
      let y := (s.tile t).before
      match l.2.find? fun i => y.uecc (c.spad + 64 * i) 64 with
      | some i => (s.ueccCopy t c (((y.ueccSector (c.spad + 64 * i)).map (BitVec.ofNat 64)).getD s.anyAddr)
          (r.cmd.hm && decide (c.spad + 64 * i < 0x10000)), false)
      | none =>
        let s := (s.takeAsync t l.1 false).updTile t fun y => y.scrub l.1
        (l.2.foldl (fun s i =>
          (s.updFar t fun f => f.updCopy c.slot fun c => { c with
            data := SMap.set 0 c.data i (BitVec.ofNat 512 (ofBytes (readBytes y.spad (c.spad + 64 * i) 64))) }).doneSector t c.slot i false) s,
          true)

/-- The sectors of a chunk still to be read, by line. -/
def Copy.unread (c : Copy) : List (Nat × List Nat) :=
  let is := (List.range (c.size / 64)).filter fun i => !SMap.get false c.relDone i
  ((is.map fun i => (c.spad + 64 * i) / 256).dedup).map fun ln => (ln, is.filter fun i => (c.spad + 64 * i) / 256 == ln)

/-- FRED_SEND (R299, R320): the chunk is read, a line of a bank a tick, which is its release; once all of it has been read, its contribution goes to the switches. -/
def execFredSend (t : Nat) (slot : BitVec 6) (s : State) : Out :=
  match s.copyAt t slot.toNat with
  | none => .next s
  | some c =>
    match s.recOf t c with
    | some r =>
      match r.kind with
      | .fred len grp count rank _ op =>
        if c.st = .issued ∧ c.relDone.length < len ∧ s.afterDone t r then
          let a := c.unread.foldl (State.readChunk t r c) (s, true)
          let s := a.1
          match (if a.2 then s.copyAt t slot.toNat else none) with
          | none => .next s
          | some c =>
            if c.relDone.length < len then .next s
            else
              let g := BitVec.ofNat 16 grp
              let job := (s.entry (s.tile t).lte).job
              let k := fredKey job g rank
              let con : Contribution := ⟨job, g, SMap.get 0 s.fredNo k, rank, count, len, op,
                (List.range len).flatMap (fun i => toBytes 64 (SMap.get 0 c.data i).toNat), some (t, slot)⟩
              let s := { s with fredNo := SMap.upd 0 s.fredNo k (· + 1) }
              .next (((s.after s.delay .contributionArrival (.contribution con)).spend).say (.contribution con))
        else .next s
      | _ => .next s
    | none => .next s

/-- FRED_RESULT_SECTOR (R299): a result sector lands over the chunk and decrements the chunk basin. -/
def execFredResultSector (t : Nat) (slot : BitVec 6) (sec : Nat) (data : BitVec 512) (s : State) : Out :=
  match s.copyAt t slot.toNat with
  | none => .next s
  | some c =>
    match s.recOf t c with
    | some r =>
      match r.kind with
      | .fred _ grp _ _ chunk _ =>
        let a := chunk + 64 * sec
        if SMap.get false c.visDone sec then .next s
        else if s.asleep t || s.portTaken t (a / 256) true then .next (s.after 1 (.fredResultSector t slot sec data))
        else match s.farSet t r a true with
          | some i => .next (s.endCopy t c 0x06 i (BitVec.ofNat 64 a))
          | none =>
            let tag := s.farTag t (BitVec.ofNat 8 grp)
            let s := s.landSector t a data tag (c.lastOfLine sec)
            let s := (s.doneSector t slot.toNat sec true).finishCopy t slot.toNat
            .next (s.decrement t r.cmd.vis true 1 tag (s.die (dieOf t)).clock)
      | _ => .next s
    | none => .next s

/-! ## Cancellation and aborts (R301, R302) -/

/-- A copy cancelled by FCAN: its record expands no further and its basins are marked. -/
def State.cancelSlot (s : State) (t : Nat) (c : Copy) : State :=
  let r := s.recOf t c
  let s := (s.freeSlot t c.slot).updFar t fun f =>
    FarEngine.tidy { f with recs := f.recs.map fun y => if y.id = c.rec_ then { y with total := Nat.min y.total y.next } else y }
  ((r.map FarRec.basins).getD []).foldl (fun s b => s.markErr t b) s

/-- FCAN at its commit point: one slot of the stream, or every copy of it, with what its records have still to expand; only a record that loses a slot marks its basins (R301). -/
def State.cancel (s : State) (t : Nat) (sec : Bool) (slot : Nat) (all : Bool) : State :=
  let mine := fun (r : FarRec) => r.cmd.sec == sec
  if all then ((s.tile t).far.recs.filter mine).foldl (fun s r =>
    if (s.tile t).far.copies.any fun c => c.rec_ == r.id then s.cancelRec t r
    else s.updFar t fun f => { f with recs := f.recs.filter fun y => y.id != r.id }) s
  else match s.copyAt t slot with
    | none => s
    | some c => if (s.recOf t c).any mine then s.cancelSlot t c else s

/-- A store copy that has issued completes its memory accesses: the sectors not yet read are read and written, but for those with an uncorrectable word (R297, R302). (DEDUCED: log 60.) -/
def State.finishStores (s : State) (t : Nat) (c : Copy) : State :=
  match s.recOf t c, s.extent t (extIndex c.e) with
  | some r, some x =>
    if c.toMem && c.st == .issued && r.kind == .fgo then
      (List.range (c.size / 64)).foldl (fun s i =>
        let a := c.spad + 64 * i
        if SMap.get false c.relDone i || (s.tile t).uecc a 64 || (s.farSet t r a false).isSome then s
        else (s.doneSector t c.slot i false).sendSector t c x i (readBytes (s.tile t).spad a 64)) s
    else s
  | _, _ => s

/-- A REPLAY or KILL empties the engine (R94, R302): the memory accesses of copies already issued are completed; deliveries and events are dropped. -/
def State.abortFar (s : State) (t : Nat) : State :=
  let cs := (s.tile t).far.copies
  let s := cs.foldl (fun s c => s.finishStores t c) s
  let s := (cs.map fun c => c.slot).foldl (fun s sl => s.freeSlot t sl) s
  s.updFar t fun f => { f with port := [], recs := [], copies := [] }

/-! ## Links and other packages (R296, R303, R318, R334) -/

/-- Is a physical address in a CAUSAL extent of a launch of the package? -/
def State.causalPA (s : State) (pa : Nat) : Bool :=
  s.entries.any fun e => match e.2.hdr with
    | none => false
    | some h => (List.range h.extents.length).any fun i =>
        (h.extents[i]?).any (fun x => x.coh == 2) && ((e.2.phys.getD i ⟨[], [], []⟩).runs.any fun r => decide (r.2.1 ≤ pa) && decide (pa < r.2.1 + r.2.2))

/-- A write that the I/O die makes at memory: a causal one on CAUSAL lines (R334). -/
def State.ioWrite (s : State) (pa : Nat) (cs : List Host.Cell) : State :=
  if s.causalPA pa then s.causalWrite 4 cs .nobody else s.writeMemCells cs

/-- An atomic of another package at this package's home: a CAS that fails assigns nothing, and an uncorrectable word is neither delivered nor written (R317 to R319). (DEDUCED: log 91.) -/
def State.peerAmo (s : State) (pa : Nat) (wide : Bool) (f : W64 → Option W64) : State :=
  let n := if wide then 8 else 4
  let old := readN s.mem pa n
  if (badWord s.merr pa n).isSome then s.say (.peerAnswer [])
  else (match f (BitVec.ofNat 64 old) with
    | some v => s.ioWrite pa (amoCells pa wide v)
    | none => s).say (.peerAnswer (toBytes n old))

/-- PEER_ACCESS_ARRIVAL (R278, R318, R334): an access of another package is applied here and acknowledged, once no causal write of the I/O die waits for a queue. (DEDUCED: log 91.) -/
def execPeerAccessArrival (s : State) : Out :=
  if s.writerWaits 4 then .next (s.after s.delay .peerAccessArrival s.ext).spend else
  match s.ext with
  | .peer (.write pool pa data) =>
    let cs := data.zipIdx.map fun b => (pa + b.2, b.1)
    .next ((if pool then (s.writePool cs).causalWrite 4 [] .nobody else s.ioWrite pa cs).say (.peerAnswer []))
  | .peer (.read pool pa n) => .next (s.say (.peerAnswer (if (badWord (if pool then s.perr else s.merr) pa n).isSome then []
      else readBytes (if pool then s.pool else s.mem) pa n)))
  | .peer (.amo pa op wide b) => .next (s.peerAmo pa wide fun old => some (atomicNew false op wide old b 0))
  | .peer (.cas pa wide b c) => .next (s.peerAmo pa wide fun old =>
      if atomicSets true wide old c then some (atomicNew true 0 wide old b c) else none)
  | _ => .next s

/-! ## The engine's own work on a tick -/

/-- The steps a tile's engine takes up by itself: expansion, issue, signals, reductions and aged copies. -/
def State.farSteps (s : State) (t : Nat) : List Instr :=
  let f := (s.tile t).far
  (if f.recs.any (fun r => decide (r.next < r.total)) && f.freeSlot.isSome then [.copyExpansion t] else []) ++
  (([0, 1, 2] : List (BitVec 2)).filterMap fun cls =>
    if f.copies.any fun c => c.cls == cls && c.st == .queued then some (.copyIssue t cls) else none) ++
  (f.copies.filterMap fun c =>
    let b := BitVec.ofNat 6 c.slot
    if c.last + 2 ^ 24 ≤ s.ptime.toNat && (s.recOf t c).any (fun r => r.kind == .fgo) then some (.copyAgeTimeout t b)
    else if c.st ≠ .issued then none
    else (s.recOf t c).bind fun r => match r.kind with
      | .fsig _ => if s.afterDone t r then some (.fsigApply t b) else none
      | .fred len .. => if decide (c.relDone.length < len) && s.afterDone t r then some (.fredSend t b) else none
      | .fgo => none)

end Sys2Proof.Machine
end

