-- ==== Sys2Proof/Machine/Launch.lean ====
section
/-! DEFINITION. The life of a launch: binding, release, tasks, retirement, KILL, REPLAY and PARK as they act on a launch (03: R69, R70; 04: R73 to R78, R94, R95, R97; 12: R244, R252; 17: R350; 18: R374, R384). -/

namespace Sys2Proof.Machine

/-! ## The regions and tiles of a launch -/

/-- The keys of a launch's regions. -/
def State.keysOf (s : State) (e : BitVec 8) : List Nat := (s.regions.filter fun r => r.2.entry == e).map fun r => r.1

/-- The tiles bound to a launch. -/
def State.tilesOf (s : State) (e : BitVec 8) : List Nat := (s.tiles.filter fun x => x.2.st == .bound && x.2.lte == e).map fun x => x.1

/-- The tiles that have worked for a launch: those bound to it, and those of its regions that have retired since (R384). -/
def State.workedFor (s : State) (e : BitVec 8) : List Nat :=
  s.tilesOf e ++ ((s.keysOf e).flatMap fun k => (s.region k).tiles ++ (s.region k).surplus).filter fun t => (s.tile t).st == .dead

/-- The sequencers that serve a launch. -/
def State.seqrsOf (s : State) (e : BitVec 8) : List Nat := (s.seqrs.filter fun x => x.2.entry == some e).map fun x => x.1

/-! ## Discarding (R94, R182, R302) -/

/-- A stream with nothing in its shadow, in flight or buffered. -/
def Stream.discard (x : Stream) : Stream :=
  { x with inflight := [], delayed := [], issued := none, jump := none, ck := none, sbuf := [], barr := [], rerun := none, fence := [], endt := false }

/-- What an abort leaves of a tile: committed stores stay; the engines, the buffers, the handler and every cause are gone. -/
def Tile.discard (x : Tile) : Tile :=
  { x with prim := x.prim.discard, sec := x.sec.discard, secRun := false, hm := none, enter := none, pend := [], after := [],
           defer := [], gateHeld := false, fenced := [], breads := [], mx := { x.mx.stop with rows := [] } }

/-- A launch's work in progress discarded (R94): stores not committed, far queues, timed transmissions, bursts not landed, holding operations. -/
def State.discard (s : State) (e : BitVec 8) : State :=
  let ts := s.workedFor e
  let s := ts.foldl (fun s t => (s.abortFar t).updTile t Tile.discard) s
  let qs := s.seqrsOf e
  let s := qs.foldl (fun s q => s.updSeqr q fun x => { x with bursts := [] }) s
  { s with txs := s.txs.filter (fun x => !ts.contains x.src), ops := s.ops.filter fun (o : HoldOp) => !ts.contains o.tile }

/-! ## Retirement of a launch (R65, R69, R74) -/

/-- Every tile bound to a launch goes free; a DEAD tile stays as it is (R74). -/
def State.freeTiles (s : State) (e : BitVec 8) : State :=
  s.mapTiles fun _ x => if x.st == .bound && x.lte == e then
    { x.discard with st := .free, lte := 0, reg := 0, lpos := 0, fails := 0, preq := false, ended := false } else x

/-- The sequencers of a launch let go: one in an iteration completes it, unless the launch was killed (R244, R252, R350). -/
def State.freeSeqrs (s : State) (e : BitVec 8) (killed : Bool) : State :=
  (s.seqrsOf e).foldl (fun s q => s.updSeqr q fun x => { if x.inIteration && !killed then x else x.halt with entry := none }) s

/-- Does an admitted dynamic launch wait for an entry to retire? -/
def Entry.waitsFor (x : Entry) (e : BitVec 8) : Bool := x.st == .admitted && x.ctl.getLsbD 1 && x.pred == e && x.predAt.isNone

/-- Dynamic launches that wait for an entry that has been killed or refused are refused with PREDFAIL, and so in turn are those that wait for them; `fuel` bounds the chain (R66, R69). (DEDUCED: log 102.) -/
def State.refuseAfter (s : State) : Nat → BitVec 8 → State
  | 0, _ => s
  | fuel + 1, e =>
    let victims := (s.entries.filter fun p => p.2.waitsFor e).map fun p => BitVec.ofNat 8 p.1
    let s := s.mapEntries fun _ x => if x.waitsFor e then { x with st := .refused, status := 0x08, hdr := none } else x
    victims.foldl (fun s v => s.refuseAfter fuel v) s

/-- The last launch of a job on the package has left: its rounds and the numbers of its FREDs are forgotten, since a group is its job's (R320). (DEDUCED: log 60.) -/
def State.endJob (s : State) (job : BitVec 32) : State :=
  if s.entries.any fun e => e.2.job == job && (e.2.st == .running || e.2.st == .parked || e.2.st == .admitted) then s
  else { s with rounds := s.rounds.filter (fun r => r.job != job),
                fredNo := s.fredNo.filter fun k => k.1 / 2 ^ 32 != job.toNat }

/-- An entry leaves the machine: its regions, tiles, sequencers and links are free, the steps it still had ahead are dropped, and dynamic launches that name it learn of its retirement. -/
def State.leave (s : State) (e : BitVec 8) (status : Byte) (killed : Bool) : State :=
  let s := (s.freeTiles e).freeSeqrs e killed
  let ks := s.keysOf e
  let mine := fun (i : Instr) => i == .contextSaveDone e || i == .contextRestoreDone e || i == .replacement e || i == .launchStart e ||
    ks.any fun k => i == .regionRelease k
  let s := s.dropRegions e
  let s := s.save e []
  let s := { s with pending := s.pending.filter (fun p => !mine p.2.1), agenda := s.agenda.filter fun p => !mine p.1 }
  let after := fun (x : Entry) => x.st == .admitted && x.ctl.getLsbD 1 && x.pred == e && !killed
  let s := s.mapEntries fun _ x => if after x then { x with predAt := some s.ptime.toNat } else x
  (s.updEntry e fun x => { x with st := .retired, status := status, killed := killed, saving := false, links := [] }).endJob (s.entry e).job

/-- KILL (R65, R74, R350): every region of the launch on the package ends. -/
def State.kill (s : State) (e : BitVec 8) : State := ((s.discard e).leave e 0x0B true).refuseAfter 256 e

/-- A launch's last region has retired (R74, R384). -/
def State.retire (s : State) (e : BitVec 8) : State := s.leave e 0 false

/-! ## REPLAY (R94, R95) -/

/-- The pages on which far copies and holding operations of a launch are parked. -/
def State.parkedPages (s : State) (e : BitVec 8) : List Nat :=
  (((s.workedFor e).flatMap fun t => (s.tile t).far.copies.filterMap fun (c : Copy) => match c.st with
      | .parked va => some (va / 65536)
      | _ => none) ++
    ((s.ops.filter fun (o : HoldOp) => (s.workedFor e).contains o.tile).filterMap fun (o : HoldOp) => o.parked.map fun va => va / 65536)).dedup

/-- Has a region a task under way, running or frozen, that an abort ends? -/
def Region.busy (r : Region) : Bool :=
  match r.st with
  | .running => true
  | .frozen 0 => true
  | _ => false

/-- A region's task aborted: it starts again, with the same SEQ, on a tick and once the pager has answered for its pages; its first RDV target is to lie behind that start (R95). -/
def Region.requeue (r : Region) (at_ : Nat) (pages : List Nat) : Region :=
  if r.busy then { r with st := .waiting at_, rdv := none, exch := none, held := false, awaits := pages, restart := some at_ }
  else { r with st := r.st.thaw }

/-- Every current task of a launch aborted and requeued; a launch that is parked, or on its way there, stays so (R65, R94, R95). -/
def State.requeue (s : State) (e : BitVec 8) (at_ : Nat) : State :=
  let ps := s.parkedPages e
  let stays := (s.entry e).saving || (s.entry e).st == .parked
  (s.discard e).mapRegions fun _ r =>
    if r.entry = e then (if stays then { r.requeue at_ ps with st := (r.requeue at_ ps).st.freeze } else r.requeue at_ ps) else r

/-- Is a REPLAY of a launch carried out as PARK: without IDEM, and where it would abort one task for the eighth time? (R20, R95) -/
def State.replayParks (s : State) (e : BitVec 8) : Bool :=
  !(s.hdrOf e).idem || (s.keysOf e).any fun k => (s.region k).busy && decide (7 ≤ (s.region k).aborts)

/-- REPLAY: carried out as PARK without IDEM and the eighth time. -/
def State.replay (s : State) (e : BitVec 8) : State :=
  if s.replayParks e then s.park e
  else
    let s := s.mapRegions fun _ r => if r.entry = e && r.busy then { r with aborts := r.aborts + 1 } else r
    s.requeue e (s.ptime.toNat + 256)

/-! ## Actions (R350) -/

/-- The order of the actions on one launch and tick: KILL, PARK, REPLAY. -/
def actRank (a : BitVec 3) : Nat :=
  match a with
  | 0 => 3
  | 2 => 2
  | 1 => 1
  | _ => 0

/-- An action carried out on a launch. -/
def State.carryOut (s : State) (e : BitVec 8) (a : BitVec 3) : State :=
  match a with
  | 0 => s.kill e
  | 1 => s.replay e
  | 2 => s.park e
  | _ => s

/-- The action table a package cause is looked up in: its die's, and die 0's for the I/O and trust dies (R348, R352). (PRESUMED: log 70.) -/
def State.packageEntry (s : State) (d : Nat) (code : BitVec 6) : BitVec 16 := s.action (if d < 4 then d else 0) code.toNat

/-- A package cause with its record ready: the record is posted, and its action carried out on the launch of LTE, or on every running launch (R352). -/
def State.packageAct (s : State) (d : Nat) (r : EvRec) : State :=
  let ent := s.packageEntry d r.code
  let act := ent.extractLsb' 0 3
  let parks := (if r.lte = 0xFF then (s.entries.filter fun e => e.2.st == .running).map fun e => BitVec.ofNat 8 e.1 else [r.lte])
  let s := s.post { r with act := if act = 1 && !parks.isEmpty && parks.all s.replayParks then 2 else act }
  let s := if ent.getLsbD 7 then s.snapTrigger 1 (r.code.setWidth 8) else s
  let run := (s.entries.filter fun e => e.2.st == .running).map fun e => BitVec.ofNat 8 e.1
  (if r.lte = 0xFF then run else [r.lte]).foldl (fun s e => s.carryOut e act) s

/-- A package cause (R352). -/
def State.packageCause (s : State) (d : Nat) (lte : BitVec 8) (code : BitVec 6) (info : BitVec 8) (addr : W64) : State :=
  State.spend <| s.packageAct d { EvRec.package s d with code := code, lte := lte, info := info, addr := addr }

/-- Does a region of a launch stand parked by PREEMPT with none left to run? (R370) -/
def State.allParked (s : State) (e : BitVec 8) : Bool :=
  let ks := s.keysOf e
  (ks.any fun k => match (s.region k).st with
    | .frozen _ => true
    | _ => false) && ks.all fun k => match (s.region k).st with
    | .frozen _ => true
    | .done => true
    | _ => false

/-- A region parks by PREEMPT; the save begins once none of the launch's regions runs (R370). -/
def State.parkRegion (s : State) (r : Nat) : State :=
  let e := (s.region r).entry
  let s := s.updRegion r s.freezeRegion
  if s.allParked e then s.park e else s

/-! ## Tasks (R77, R78) -/

/-- The physical tiles of a region that hold a logical position. -/
def State.logical (s : State) (r : Nat) : List Nat := (s.region r).tiles

/-- Is the work of a tile in its task over? (R77, R182, R229) (DEDUCED: log 65.) -/
def Tile.over (x : Tile) : Bool :=
  x.ended && x.mx.queue.isEmpty && x.mx.rows.isEmpty && x.far.port.isEmpty && x.far.recs.isEmpty

/-- The lines a list of ranges holds. -/
def rangesOf (ws : List Nat) (extra : List Nat) : List (Nat × Nat) :=
  (ws.filter fun w => w.testBit 28).map (fun w => (w % 2 ^ 14, field w 14 14)) ++ extra.map fun l => (l, l)

/-- The lowest line two lists of ranges share. -/
def sharedLine (a b : List (Nat × Nat)) : Option Nat :=
  let hits := a.flatMap fun x => b.filterMap fun y =>
    if max x.1 y.1 ≤ min x.2 y.2 then some (max x.1 y.1) else none
  match hits with
  | [] => none
  | h :: hs => some (hs.foldl min h)

/-- Does a record's set still count: the read set until its last release event, the write set until its last visibility event? (R198, R292) (DEDUCED: log 76.) -/
def FarRec.counts (r : FarRec) (write : Bool) : Bool :=
  match r.kind with
  | .fsig _ => false
  | _ => !r.cmd.hm && (decide (r.next < r.total) || (if write then r.visLeft else r.relLeft) != 0)

/-- The phases whose FAR read or write sets still count on a tile (R198). -/
def FarEngine.phases (x : FarEngine) (write : Bool) : List Nat :=
  ((x.port.filter fun c => !c.hm).map fun c => c.phase.toNat) ++ (x.recs.filter fun r => r.counts write).map fun r => r.cmd.phase.toNat

/-- An engine's effective set in a phase, with lines the buffers hold (R198). -/
def State.effSet (s : State) (t ph eng : Nat) (write : Bool) : List (Nat × Nat) :=
  let h := s.thdr t
  let x := s.tile t
  let base := setWords h ph eng write
  let far := if eng = 2 then (x.far.phases write).flatMap fun p => setWords h p 2 write else []
  let extra := if write && eng == 0 then bufferLines x.prim.sbuf else if write && eng == 5 then bufferLines x.sec.sbuf else []
  rangesOf (base ++ far) extra

/-- SET_OVERLAP of a phase: the first pair of engines that share a line, a writer with another, and the lowest line (R196, R198). -/
def State.overlap (s : State) (t ph : Nat) : Option (BitVec 8 × W64) :=
  ((List.range 6).flatMap fun w => (List.range 6).filterMap fun o => if w = o then none else some (w, o)).findSome? fun p =>
    (sharedLine (s.effSet t ph p.1 true) (s.effSet t ph p.2 true ++ s.effSet t ph p.2 false)).map fun l =>
      (BitVec.ofNat 8 (p.1 * 16 + p.2), BitVec.ofNat 64 (l * 256))

/-- A tile at region time 0: what R78 lists is set; a load that the task before has left in the LOADER and the decrements it has left waiting go on (R229, R312). (DEDUCED: log 65.) -/
def Tile.start (x : Tile) : Tile :=
  { x with prim := { Stream.reset with barr := x.prim.barr }, sec := { Stream.reset with barr := x.sec.barr }, ended := false, secRun := false, hm := none, enter := none, defer := [],
           pend := [], after := [], gateHeld := false, fenced := [], breads := [], mflags := 0, phase := 0,
           kept := Shadow.empty, kept2 := Shadow.empty, spring := 0, mx := { x.mx with queue := [], array := none, rows := [], acc := [], aecc := [], mag := [] } }

/-- A sequencer at region cycle 0 of a task: bursts still on their way land as many cycles on as they have left (R244, R252, R256). That the marks of REFPB start clear is the model's choice. (DESIGN CHOICE: log 121.) -/
def Seqr.start (x : Seqr) : Seqr :=
  { x with pos := 0, run := !x.code.isEmpty, failed := false, tail := none, cyc := 0, segStart := 0, nest := flatNest, tmpl := [], len := 0, total := 0,
           sid := 0, bursts := x.bursts.map fun b => { b with land := b.land - x.tail.getD 0 }, pch := ({ x.pch.1 with debt := 0, marks := 0 }, { x.pch.2 with debt := 0, marks := 0 }) }

/-- The sequencers of a region. -/
def State.regSeqrs (s : State) (r : Nat) : List Nat :=
  (s.seqrs.filter fun x => x.2.entry.isSome && x.2.regKey x.1 == r).map fun x => x.1

/-- May a region's next task start on this tick: its gap over and not held, its pages answered for, no refresh of its sequencers under way and no iteration of theirs that the task before has left? (R77, R95, R252, R257) (DEDUCED: log 52.) -/
def State.mayStart (s : State) (r : Nat) : Bool :=
  match (s.region r).st with
  | .waiting t => decide (t ≤ s.ptime.toNat) && (s.region r).awaits.isEmpty && !s.pkgHeld r &&
      !(s.die (s.region r).die).halted && !(s.regSeqrs r).any fun q => s.refreshHolds 0 q || (s.seqr q).run && (s.seqr q).inIteration
  | _ => false

/-- A tile's task starts: its state of R78, and the overlap check of phase 0, whose trap falls on the first bundle (R198). -/
def State.startTile (s : State) (t : Nat) : State :=
  let s := s.updTile t Tile.start
  match s.overlap t 0 with
  | none => s
  | some (i, a) => s.updTile t fun x => { x with after := x.after ++ [⟨0x05, 0, i, a, true, false⟩] }

/-- TASK_START (R77, R78): region time 0 of a task, on every bound tile of the region, surplus ones too. (DESIGN CHOICE: log 1.) -/
def execTaskStart (r : Nat) (s : State) : Out :=
  if !s.mayStart r then .next s
  else
    let s := (s.regSeqrs r).foldl (fun s q => s.updSeqr q Seqr.start) s
    let s := s.updRegion r fun x => { x with
      st := .running, rtime := 0, holdc := 0, held := false, rdv := none, exch := none
      restart := x.restart.map fun _ => s.ptime.toNat }
    let s := (s.region r).surplus.foldl (fun s t => s.updTile t fun x => if x.st == .dead then x else x.start) s
    .next (((s.region r).tiles.filter fun t => (s.tile t).st != .dead).foldl State.startTile s)

/-- Has every tile of a region that holds a logical position ended? A DEAD tile takes no part (R77). -/
def State.taskOver (s : State) (r : Nat) : Bool :=
  match (s.region r).st with
  | .running => (s.region r).tiles.all fun t => (s.tile t).st == .dead || (s.tile t).over
  | _ => false

/-- TASK_END (R77, R182, R384): the secondary streams stop, lines and bursts on their way go on in the gap; the next task follows 256 ticks later, or the region retires, and with the last region the launch. -/
def execTaskEnd (r : Nat) (s : State) : Out :=
  if !s.taskOver r then .next s
  else
    let x := s.region r
    let s := x.tiles.foldl (fun s t => s.updTile t fun y => { y with sec := { Stream.reset with barr := y.sec.barr }, secRun := false }) s
    let s := (s.regSeqrs r).foldl (fun s q => s.updSeqr q fun y => { y with tail := some x.rtime }) (s.endTxs r)
    let more := decide (x.seq + 1 < (s.hdrOf x.entry).tasks)
    let s := s.updRegion r fun x => { x with
      st := if more then .waiting (s.ptime.toNat + 256) else .done, seq := if more then x.seq + 1 else x.seq, rdv := none, exch := none, aborts := 0
      restart := none }
    let all := (s.keysOf x.entry).all fun k => match (s.region k).st with
      | .done => true
      | _ => false
    .next (if all then s.retire x.entry else if s.allParked x.entry then s.park x.entry else s)

/-! ## Release (R24, R69) -/

/-- A launch's regions released, each its stagger after region 0. (DEDUCED: log 103.) -/
def State.release (s : State) (e : BitVec 8) : State :=
  let st := (s.hdrOf e).stagger
  let s := s.updEntry e fun x => { x with st := .running }
  (s.keysOf e).reverse.foldl (fun s k =>
    let i := (s.region k).idx
    if st * i = 0 then s.now (.regionRelease k) else s.after (st * i) (.regionRelease k)) s

/-- A launch that a job hold holds before its regions are released: what is left of their staggers moves on with the hold; a thermal hold, which meets each region its stagger after region 0, leaves them (R24). (DEDUCED: log 103, 115.) -/
def State.stretchReleases (s : State) : State :=
  let held := fun (i : Instr) => match i with
    | .regionRelease k => s.jobHeld k
    | _ => false
  { s with pending := s.pending.map fun (p : Nat × Instr × Ext) => if held p.2.1 then (p.1 + 1, p.2.1, p.2.2) else p }

/-- LAUNCH_START (R69): PTIME reaches START of an admitted timed launch. -/
def execLaunchStart (e : BitVec 8) (s : State) : Out :=
  let x := s.entry e
  match x.st with
  | .admitted => .next (if !x.ctl.getLsbD 1 && decide (x.start = s.ptime) then s.release e else s)
  | _ => .next s

/-- REGION_RELEASE (R24, R69): region time 0 of the region's first task is this tick. -/
def execRegionRelease (r : Nat) (s : State) : Out :=
  if !s.regions.any (fun p => p.1 == r) then .next s
  else match (s.region r).st with
  | .placed => .next ((s.updRegion r fun x => { x with st := .waiting s.ptime.toNat }).now (.taskStart r))
  | .frozen 1 => .next (s.updRegion r fun x => { x with st := .frozen (s.ptime.toNat + 2) })
  | _ => .next s

end Sys2Proof.Machine
end

