-- ==== Sys2Proof/Machine/Commit.lean ====
section
/-! DEFINITION. The commit point: what a committing bundle does, the checks made there, which cause is taken, and the actions of a tick (07: R140, R152; 08: R158, R160, R171 to R185; 17: R343 to R363). -/

namespace Sys2Proof.Machine

/-! ## Checks made at the commit point -/

/-- TADDR of a TIMING_LATE raised at the commit point: the bundle's address. -/
def lateCause (s : State) (slot pc : Nat) : Cause := ⟨0x0E, slotBit slot, s.anyInfo, BitVec.ofNat 64 pc, false, false⟩

/-- UECC of a read of 16 bytes by a syllable (R188). -/
def State.basinUecc (s : State) (t a slot : Nat) : Option Cause :=
  if (s.tile t).uecc a 16 then
    some ⟨0x09, slotBit slot, s.anyInfo, (((s.tile t).ueccIn a 16).map (BitVec.ofNat 64)).getD s.anyAddr, false, false⟩ else none

/-- UECC of RETT, which reads the frame (R188, R189, R359). (DEDUCED: log 116.) -/
def State.frameUecc (s : State) (t : Nat) : Option Cause :=
  ((s.tile t).frameLines.find? (s.tile t).ueccLine).map fun ln =>
    ⟨0x09, slotBit 2, s.anyInfo, (((s.tile t).ueccWord ln).map (BitVec.ofNat 64)).getD s.anyAddr, false, true⟩

/-- The cause an effect raises at its bundle's commit point (R140, R188, R198, R298, R299, R310). -/
def State.effectCause (s : State) (t : Nat) (pc : Nat) : Effect → Option Cause
  | .phase ph => (s.overlap t ph.toNat).map fun o => ⟨0x05, slotBit 2, o.1, o.2, false, false⟩
  | .mcmd c slot =>
    let q := (s.tile t).mx.queue
    if decide (4 ≤ q.length) || q.any (fun m => decide (c.start < m.start)) then some (lateCause s slot pc) else none
  | .fgo start _ _ _ _ _ _ slot => if (s.tile t).far.portLate start then some (lateCause s slot pc) else none
  | .fsig _ _ _ slot => if (s.tile t).far.full then some (lateCause s slot pc) else none
  | .fred _ _ _ _ _ _ _ _ slot => if (s.tile t).far.full then some (lateCause s slot pc) else none
  | .rett => s.frameUecc t
  | .bread a r => s.basinUecc t a r.slot
  | .brearm a _ => s.basinUecc t a 3
  | .bexpect a n slot =>
    if (s.tile t).uecc a 16 then s.basinUecc t a slot
    else if 2 ^ 32 ≤ n.toNat ∨ 2 ^ 32 - 1 < basinSectors (basinAt (s.tile t).spad a) + n.toNat then
      some ⟨0x14, slotBit slot, s.anyInfo, s.anyAddr, false, false⟩ else none
  | _ => none

/-- The fault injector: armed for a syllable of this bundle (R363). -/
def tinjCause (x : Tile) (b : Issued) : Option Cause :=
  let n := x.tinj.toNat
  if x.tinj.getLsbD 63 && decide (n % 2 ^ 32 = b.pc) && b.slots.getLsbD (field n 53 3) then
    some ⟨BitVec.ofNat 6 (field n 56 6), slotBit (field n 53 3), 0, 0, false, false⟩ else none

/-- The injector after it has injected. -/
def tinjDone (x : Tile) : Tile :=
  { x with tinj := (x.tinj &&& ~~~ BitVec.twoPow 64 63) ||| BitVec.twoPow 64 62 }

/-! ## What a committing bundle does (R343) -/

/-- Are two contexts one stream of the memory model? Handler mode counts as the primary stream (R326). -/
def sameParty (a b : Ctx) : Bool := (a == .secondary) == (b == .secondary)

/-- Ids of the cached-path accesses of a stream that are not performed: those under way and those a FENCE keeps back. (DEDUCED: log 39.) -/
def State.outstanding (s : State) (t : Nat) (c : Ctx) : List Nat :=
  ((s.ops.filter fun o => o.tile == t && sameParty o.ctx c).map fun o => o.id) ++
    ((s.tile t).fenced.filter fun f => sameParty f.ctx c).map fun f => f.id

/-- Does a far operation of a context keep its own stream from issuing: from its commit on, a range instruction from the tick after it? (R169, R280, R319) (DEDUCED: log 28.) -/
def State.streamWaits (s : State) (t : Nat) (c : Ctx) : Bool :=
  (s.tile t).fenced.any (fun f => f.ctx == c) ||
    s.ops.any fun o => o.tile == t && o.ctx == c && (!o.isRange || decide (o.raised < s.ptime.toNat))

/-- Change the stream of a context. -/
def State.updStream (s : State) (t : Nat) (c : Ctx) (f : Stream → Stream) : State :=
  s.updTile t fun x => x.setStream c (f (x.stream c))

/-- Change the handler of a tile. -/
def State.updHm (s : State) (t : Nat) (f : Handler → Handler) : State := s.updTile t fun x => { x with hm := x.hm.map f }

/-- The result a far access brings to its registers: none once the task's ENDT has committed (R182). -/
def State.dropOps (s : State) (t : Nat) : State :=
  { s with ops := s.ops.map fun (o : HoldOp) => if o.tile = t then { o with result := none } else o }

/-- A cached-path access of a number and a commit tick goes out (R169, R279, R319). -/
def State.startAccess (s : State) (t : Nat) (c : Ctx) (k raised : Nat) (e : Effect) : State :=
  (fun u => if (s.tile t).ended then u.dropOps t else u) <| match e with
  | .ldf r a => s.startOp t c k raised .ldf r a 3
  | .atomic r cas op sc wide a b d => s.startOp t c k raised (.atomic cas op wide b d) r a sc
  | .range n a l => s.startRange t c k raised n a l
  | _ => s

/-- An access at its commit point: it goes out, unless a FENCE of its stream keeps it back (R179). -/
def State.access (s : State) (t : Nat) (c : Ctx) (e : Effect) : State :=
  let k := s.nextId
  let w := ((s.tile t).stream c).fence.filter fun k => (s.outstanding t c).contains k
  let s := s.fresh
  if w.isEmpty then s.startAccess t c k s.ptime.toNat e
  else s.updTile t fun x => { x with fenced := x.fenced ++ [⟨k, c, e, s.ptime.toNat, w⟩] }

/-- An FGO enters the FAR issue port with a copy of its stream's nest (R288). An ungated one with DELAY 0 starts on its commit point, a hold of that tick notwithstanding, when nothing is queued before it (R140, chapter 22's run); a handler's starts there whatever its DELAY. (DEDUCED: log 40.) -/
def State.enterFgo (s : State) (t : Nat) (c : Ctx) (cyc start pc : Nat) (gate : Option (BitVec 3 × Bool)) (rel vis : BasinRef) (sc : BitVec 4)
    (ls : BitVec 8) (mask : BitVec 8) : State :=
  let sec := c == .secondary
  let x := s.tile t
  let hm := c == .handler
  let cmd : FgoCmd :=
    { start := if hm then 0 else start, pc := pc, gate := gate, sec := sec, hm := hm, phase := x.phase,
      nest := x.far.nestOf sec, rel := rel, vis := vis, sc := sc, ls := ls, mask := mask }
  if hm || (start == cyc + 1 && gate.isNone && x.far.port.isEmpty) then
    ((s.updFar t fun f => { f with port := [cmd] }).startFar t).updFar t fun f => { f with port := x.far.port }
  else s.updFar t fun f => { f with port := f.port ++ [cmd] }

/-- A transmission leaves its tile (R265, R269). -/
def State.sendTx (s : State) (t cyc : Nat) (o : SendOp) : State :=
  State.fresh { s with txs := s.txs ++ [⟨s.nextId, s.regionOf t, t, s.ltOf t, o.dest, o.die, cyc, o.sid, o.data, o.tag, none, (s.region (s.regionOf t)).rtime - cyc, none, false⟩] }

/-- The causal writes every party has made: its own entry of its own clock (R278). -/
def State.ownClocks (s : State) : List Nat := (List.range 5).map fun w => (s.clockOf w).getD w 0

/-- The length of a package's own thermal hold among the amounts that have met their Tb: what a job hold from there on is the shorter by (R325, R381). -/
def Entry.hotPart (old new : Entry) : Nat := kindSum (old.waitTb.filter fun w => !new.waitTb.contains w) 4

/-- RDV at its commit point: Tʹ, the amounts that meet their Tb there, and the job holds that begin at it (R71, R95, R325, R377, R379). -/
def State.enterRdv (s : State) (t : Nat) (nominal : W64) : State :=
  let e := (s.tile t).lte
  let x := s.entry e
  let again := (s.region (s.regionOf t)).restart
  let r := x.rdvTarget again nominal.toNat
  let s := (s.setEntry e r.2.2).noteMove x.job (x.moved nominal.toNat) (r.2.2.pstr - x.pstr)
  let s := if again.isNone then s else s.mapRegions fun _ g => if g.entry = e then { g with restart := none } else g
  let s := if r.2.1 = 0 then s else s.say (.displacement x.job r.2.1)
  let due := s.jobHolds.filter fun h => h.job == x.job && h.tb.isNone && decide (h.dt + 131072 ≤ r.1)
  let s := { s with jobHolds := s.jobHolds.map fun (h : JobHold) => if due.contains h then { h with tb := some r.1, hl := h.hl - x.hotPart r.2.2 } else h }
  let s := if due.isEmpty then s else s.after (r.1 - s.ptime.toNat) (.jobHoldBegin x.job)
  s.updRegion (s.regionOf t) fun g => { g with rdv := some r.1, nominal := nominal.toNat, seen := s.ownClocks }

/-- A jump is made behind the signature bundle, `n` cycles after it; in handler mode at once (R133, R170). -/
def State.jumpTo (s : State) (t : Nat) (c : Ctx) (b : Issued) (target n : Nat) : State :=
  match c with
  | .handler => s.updHm t fun h => { h with pc := target, next := b.cycle + n + 1 }
  | c => s.updStream t c fun x => { x with jump := some (target, n) }

/-- A stream's nest as it stands is kept for a re-run of its block (R154, R282). (DEDUCED: log 37.) -/
def State.keepNest (s : State) (t : Nat) (c : Ctx) : State :=
  s.updTile t fun x => x.keep c fun k => { k with nest := k.nest <|> some (x.far.nestOf (c == .secondary)) }

/-- The results in flight to a tile's registers discarded, those of its secondary stream and of its samples among them (R182). -/
def Tile.dropResults (x : Tile) : Tile :=
  let keep := fun (d : Delayed) => match d.op with
    | .sample .. => false
    | .farQuery .. => false
    | _ => true
  { x with prim := { x.prim with inflight := [], delayed := x.prim.delayed.filter keep },
           sec := { x.sec with inflight := [], delayed := x.sec.delayed.filter keep }, breads := [] }

/-- One effect of a committing bundle (R343). -/
def State.applyEffect (s : State) (t : Nat) (c : Ctx) (b : Issued) (e : Effect) : State :=
  let regs := fun (f : Regs → Regs) => s.updStream t c fun x => { x with regs := f x.regs }
  match e with
  | .result r => match c with
    | .handler => s.updHm t fun h => { h with flight := h.flight ++ [r] }
    | c => s.updStream t c fun x => { x with inflight := x.inflight ++ [r] }
  | .delay d => match c with
    | .handler => s.updHm t fun h => { h with delayed := h.delayed ++ [d] }
    | c => s.updStream t c fun x => { x with delayed := x.delayed ++ [d] }
  | .store st => match c with
    | .handler => s.updTile t fun x => x.commitStore st
    | c => s.updStream t c fun x => { x with sbuf := x.sbuf ++ [st] }
  | .jump target => s.jumpTo t c b target 3
  | .push z => match c with
    | .handler => s.updHm t fun h => { h with rstack := z :: h.rstack }
    | c => s.updStream t c fun x => { x with rstack := z :: x.rstack }
  | .pop => match c with
    | .handler => s.updHm t fun h => { h with rstack := h.rstack.tail }
    | c => s.updStream t c fun x => { x with rstack := x.rstack.tail }
  | .loopStep =>
    let x := (s.tile t).stream c
    let r := stepLevels b.pc x.regs 0 x.loops
    let s := s.updStream t c fun x => { x with regs := r.1.regs, loops := r.1.loops }
    match r.2 with
    | some (start, _) => s.jumpTo t c b start (if c = .handler then 0 else 1)
    | none => s
  | .loopOpen l count => s.updStream t c fun x => { x with regs := iterStart l.fl (enterRotating l.fl count x.regs), loops := l :: x.loops }
  | .loopSkip count fl => regs (enterRotating fl count)
  | .brkl n => s.updStream t c fun x => { x with loops := x.loops.drop n }
  | .setlc lc ec => regs fun g => { g with lc := lc, ec := ec }
  | .phase ph => (s.updTile t fun x => { x.keep c fun k => { k with phase := k.phase <|> some x.phase } with phase := ph }).updRegion (s.regionOf t) fun r => { r with exch := none }
  | .epoch set v => regs fun g => { g with epoch := if set then v else g.epoch + v }
  | .gate i v => regs fun g => { g with g := wr g.g i v }
  | .rdv nominal => s.enterRdv t nominal
  | .fence sc => if sc.toNat < 2 then s else s.updStream t c fun x => { x with fence := s.outstanding t c }
  | .snap tag => s.snapTrigger 0 tag
  | .trapi code => s.updTile t fun x => { x with defer := x.defer ++ [⟨0x1A, slotBit 2, code, 0, false, false⟩] }
  | .rett => s.updHm t fun h => { h with leaving := true, next := 2 ^ 64 }
  | .waiti => s.updHm t fun h => { h with waiting := true }
  | .endt => match c with
    | .handler => (s.updTile t fun x => { x.dropResults with ended := true, hm := none, prim := x.prim.discard }).dropOps t
    | _ => s.updStream t c fun x => { x with endt := true }
  | .nopn n => match c with
    | .handler => s.updHm t fun h => { h with next := b.cycle + n }
    | c => s.updStream t c fun x => { x with nextIssue := b.cycle + n }
  | .inten set m => s.updTile t fun x => { x.keepIe c with ie := if set then x.ie ||| m.setWidth 2 else x.ie &&& ~~~ m.setWidth 2 }
  | .secs go => s.updTile t fun x => { x with secRun := go }
  | .mcmd m _ => s.updTile t fun x => { x with mx := { x.mx with queue := x.mx.queue ++ [m] } }
  | .send o _ => s.sendTx t b.cycle o
  | .fnest lv cnt ss ds => (s.keepNest t c).updFar t fun f => f.updNest (c == .secondary) fun n => { n with levels := n.levels.set lv (cnt, ss, ds) }
  | .fbase src dst size ssp dsp => (s.keepNest t c).updFar t fun f => f.updNest (c == .secondary) fun _ =>
      { Nest.reset with src := src, dst := dst, size := size, ssp := ssp, dsp := dsp }
  | .fidx idx => (s.keepNest t c).updFar t fun f => f.updNest (c == .secondary) fun n => { n with idxOn := true, idx := idx }
  | .fgo start pc gate rel vis sc ls slot => s.enterFgo t c b.cycle start pc gate rel vis sc ls (slotBit slot)
  | .fsig bs n sc slot => s.updFar t fun f =>
      f.addRec (.fsig n) (plainCmd 0 b.pc (c == .secondary) (c == .handler) (s.tile t).phase 0 bs sc 0 (slotBit slot)) 1 0
  | .fred len grp count rank chunk bs op sc slot => s.updFar t fun f =>
      f.addRec (.fred len grp count rank chunk op)
        (plainCmd 0 b.pc (c == .secondary) (c == .handler) (s.tile t).phase 0 bs sc 0 (slotBit slot)) 1 len
  | .fcan slot all => s.cancel t (c == .secondary) slot all
  | .ldf r a => s.access t c (.ldf r a)
  | .atomic r cas op sc w a x y => s.access t c (.atomic r cas op sc w a x y)
  | .range k a n => s.access t c (.range k a n)
  | .binit a n => s.updTile t fun x => x.queueBasin 2 a (.init n.toNat)
  | .brearm a n => s.updTile t fun x => x.queueBasin 2 a (.rearm n.toNat)
  | .barrive bs sc n =>
    let w := if sc.toNat < 2 then [] else s.outstanding t c
    s.updStream t c fun x => { x with barr := x.barr ++ [⟨bs, n, w, c == .handler⟩] }
  | .bexpect a n _ => s.updTile t fun x => x.queueBasin 2 a (.expect n.toNat)
  | .bread a r => s.updTile t fun x => { x with breads := x.breads ++ [(c, a, r)] }

/-- Every effect of a committing bundle, in order. -/
def State.applyAll (s : State) (t : Nat) (c : Ctx) (b : Issued) : State := b.effects.foldl (fun s e => s.applyEffect t c b e) s

/-- A lineage fold step (R151). -/
def foldTag (l : BitVec 32) (t : Tag) : BitVec 32 := rotl32 l 1 ^^^ t.setWidth 32

/-- What the stream keeps of a committed bundle: its fold entries, its mark; the block's end is a jump or Z, and the lines of a passing block commit (R120, R133, R151, R152, R182). -/
def Stream.settle (x : Stream) (b : Issued) : Stream :=
  let x := { x with issued := none, foldL := b.entries.foldl foldTag x.foldL, nrm := x.nrm || b.marks }
  if b.sig then
    let y := { x with fresh := true, nrm := false, ck := none, sbuf := [], jump := none,
                      barr := x.barr.map fun b => { b with free := true } }
    match x.jump with
    | some (target, n) => { y with pc := target, nextIssue := b.cycle + n }
    | none => y
  else x

/-- A store becomes part of the committed contents; one whose bank port is used only on the cycle of the commit leaves what its lines held, in case the port clashes (R152, R153, R191). -/
def Tile.commitFrom (x : Tile) (cyc : Nat) (st : Store) : Tile :=
  (if st.issue + 1 = cyc then
    { x with undo := x.undo ++ st.lines.map fun ln => (cyc + 1, ln, readBytes x.spad (256 * ln) 256, SMap.get 0 x.ltag ln) }
  else x).commitStore st

/-- The buffered lines of a passing block, whose signature bundle issued on a cycle, become the committed contents (R152, R153). -/
def State.commitLines (s : State) (t : Nat) (c : Ctx) (cyc : Nat) : State :=
  s.updTile t fun x => (x.stream c).sbuf.foldl (fun (x : Tile) st => if c = .primary then x.commitFrom cyc st else x.commitStore st) x

/-! ## Taking the cause of a commit point -/

/-- A bundle that does not commit, though its cause is not the one the tile takes: its stream issues it again (R343, R344). -/
def State.undoBundle (s : State) (t : Nat) (c : Ctx) : State :=
  s.updStream t c fun x => match x.issued with
    | none => x
    | some b => { x with issued := none, pc := b.pc, nextIssue := b.cycle + 1, foldH := b.fold }

/-- The causes of the secondary bundle at its commit point, which stand beside those of the primary bundle's (R344). -/
def State.secCauses (s : State) (t : Nat) : List Cause :=
  match (s.tile t).sec.issued with
  | none => []
  | some b => b.causes ++ b.effects.filterMap (s.effectCause t b.pc)

/-- Is the cause the tile takes one of the secondary bundle's? (R344) -/
def loses (cs rivals : List Cause) : Bool := !rivals.isEmpty && (chooseCause (cs ++ rivals)).any fun k => !cs.contains k

/-- A blocking cause taken at a commit point: the bundle is undone, the causes from outside that are not taken are posted (R310, R343, R344). -/
def State.takeBlocking (s : State) (t : Nat) (c : Ctx) (b : Option Issued) (cs : List Cause) (cyc : Nat) : State :=
  match chooseCause cs with
  | none => s
  | some k =>
    let mask := if k.code = 1 then 0 else allMask cs k
    let pc : Nat := match b with
      | some b => b.pc
      | none => match (s.tile t).hm with
        | some h => h.pc
        | none => ((s.tile t).stream c).pc
    let ovf := match b with
      | some b => if k.code = 0x14 then b.effects.findSome? (fun e => match e with
          | .bexpect a _ _ => some a
          | _ => none) else none
      | none => none
    let s := match ovf with
      | some a => s.updTile t fun x => x.queueBasin 2 a .ovf
      | none => s
    let s := match c with
      | .handler => s.updHm t fun h => { h with issued := none, next := 2 ^ 64 }
      | c => s.updStream t c fun x =>
          { x with issued := none, pc := (b.map Issued.pc).getD x.pc, nextIssue := cyc + 1, sbuf := if k.code ∈ [0x0A, 0x0B, 0x0C] then [] else x.sbuf,
                   barr := if k.code ∈ [0x0A, 0x0B, 0x0C] then x.barr.filter Barr.free else x.barr }
    let s := match b, c with
      | some _, .handler => s
      | some b, c => s.updStream t c fun x => { x with foldH := b.fold }
      | none, _ => s
    let area := k.code == 0x09 && k.area
    let nrf := (k.code == 0x0A || k.code == 0x0C) && ((s.tile t).stream c).nrm
    (s.supersede t cyc cs k).take t k mask pc cyc (c == Ctx.secondary) nrf area

/-- A primary bundle with no cause commits (R182, R343, R362). -/
def State.commitBundle (s : State) (t : Nat) (b : Issued) : State :=
  let s := s.applyAll t .primary b
  let s := if b.sig then s.commitLines t .primary b.cycle else s
  let endt := b.sig && (s.tile t).prim.endt
  let s := s.updTile t fun x =>
    let brk := x.dbgb.getLsbD 63 && decide (x.dbgb.toNat % 2 ^ 32 = b.pc)
    { x with prim := x.prim.settle b,
             spring := if b.pops then x.spring + 1 else x.spring, ended := x.ended || endt,
             dbgb := if brk then x.dbgb &&& ~~~ BitVec.twoPow 64 63 else x.dbgb,
             defer := if brk then ⟨0x1B, 0, 0, 0, false, false⟩ :: x.defer else x.defer }
  if endt then (s.updTile t Tile.dropResults).dropOps t else s

/-- The commit point of the primary stream: blocking causes first, then the bundle's effects; whether a bundle committed, with its PP. The secondary bundle's causes are weighed with them: a tile takes one (R343, R344). (DEDUCED: log 25.) -/
def State.commitPrimary (s : State) (t : Nat) : State × Option Bool :=
  let x := s.tile t
  let rivals := s.secCauses t
  match x.prim.issued with
  | none =>
    let cyc := match x.hm with
      | some h => h.cyc
      | none => s.cycleOf t - 1
    let u := s.updTile t fun x => { x with pend := [] }
    if x.pend.isEmpty then (s, none)
    else if loses x.pend rivals then (u.dropCauses t cyc x.pend, none)
    else
      let u := u.takeBlocking t .primary none x.pend cyc
      (if rivals.isEmpty then u else u.undoBundle t .secondary, none)
  | some b =>
    let tinj := tinjCause x b
    let s := if tinj.isSome then s.updTile t tinjDone else s
    let own := b.causes ++ b.effects.filterMap (s.effectCause t b.pc) ++ tinj.toList
    let cs := own ++ x.pend ++ x.after
    let u := s.updTile t fun x => { x with pend := [], after := [] }
    if cs.isEmpty then (s.commitBundle t b, some b.pp)
    else if loses cs rivals then
      let u := u.dropCauses t b.cycle cs
      if own.isEmpty then (u.commitBundle t b, some b.pp) else (u.undoBundle t .primary, none)
    else
      let u := u.takeBlocking t .primary (some b) cs b.cycle
      (if rivals.isEmpty then u else u.undoBundle t .secondary, none)

/-- The commit point of the secondary stream. -/
def State.commitSecondary (s : State) (t : Nat) : State :=
  match (s.tile t).sec.issued with
  | none => s
  | some b =>
    let cs := b.causes ++ b.effects.filterMap (s.effectCause t b.pc)
    if !cs.isEmpty then s.takeBlocking t .secondary (some b) cs b.cycle
    else
      let s := s.applyAll t .secondary b
      let s := if b.sig then s.commitLines t .secondary b.cycle else s
      let s := s.updTile t fun x => { x with sec := x.sec.settle b }
      if (s.tile t).ended then (s.updTile t Tile.dropResults).dropOps t else s

/-! ## Landings (R134, R135, R167) -/

/-- The MTSR writes of a stream that land on a cycle (R134, R167). (DEDUCED: log 27.) -/
def Tile.landSys (x : Tile) (c : Ctx) (cyc : Nat) : Tile :=
  ((x.stream c).delayed.filter fun d => decide (d.at_ ≤ cyc)).foldl (fun (x : Tile) d => match d.op with
    | .sysreg i v => x.sysWrite c i v
    | _ => x) x

/-- The register results of a stream that land on a cycle, in order and with their flags. (DEDUCED: log 27.) -/
def Tile.landResults (x : Tile) (c : Ctx) (cyc : Nat) : Tile :=
  let st := x.stream c
  let due := sortBy resultLe (st.inflight.filter fun r => decide (r.land ≤ cyc))
  let x := if due.all fun r => r.mf == 0 then x else x.keepM c
  let x := { x with mflags := due.foldl (fun (m : MFl) (r : Result) => m ||| r.mf) x.mflags }
  x.setStream c { st with
    regs := due.foldl (fun (g : Regs) r => g.land r false) st.regs
    inflight := st.inflight.filter fun r => !decide (r.land ≤ cyc)
    delayed := st.delayed.filter fun d => match d.op with
      | .sysreg .. => !decide (d.at_ ≤ cyc)
      | _ => true }

/-- Results and writes of a stream that land on a cycle: MTSR writes, then register results in order with their flags. (DEDUCED: log 27.) -/
def Tile.landStream (x : Tile) (c : Ctx) (cyc : Nat) : Tile := (x.landSys c cyc).landResults c cyc

/-- The same for the handler, whose cycles are ticks and whose writes leave the tags (R355). -/
def Tile.landHandler (x : Tile) (tick : Nat) : Tile :=
  match x.hm with
  | none => x
  | some h =>
    let x := (h.delayed.filter fun d => decide (d.at_ ≤ tick)).foldl (fun (x : Tile) d => match d.op with
      | .sysreg i v => x.sysWrite .handler i v
      | _ => x) x
    let due := sortBy resultLe (h.flight.filter fun r => decide (r.land ≤ tick))
    let g := due.foldl (fun (g : Regs) r => g.land r true) x.prim.regs
    let x := if due.all fun r => r.mf == 0 then x else x.keepM .handler
    { x with mflags := due.foldl (fun (m : MFl) (r : Result) => m ||| r.mf) x.mflags
             prim := { x.prim with regs := g }
             hm := some { h with
               flight := h.flight.filter fun r => !decide (r.land ≤ tick)
               delayed := h.delayed.filter fun d => match d.op with
                 | .sysreg .. => !decide (d.at_ ≤ tick)
                 | _ => true } }

/-! ## The commit point of a handler -/

/-- The commit point of a handler bundle (R152, R360). (DEDUCED: log 32.) -/
def State.commitHandler (s : State) (t : Nat) : State :=
  match (s.tile t).hm with
  | none => s
  | some h =>
    if h.leaving then
      ((s.updTile t fun x => x.landHandler (2 ^ 64)).leaveHandler t).updStream t .primary fun x => { x with nextIssue := h.cyc }
    else
      match h.issued with
      | none => s
      | some b =>
        let cs := b.causes ++ b.effects.filterMap (s.effectCause t b.pc) ++ (s.tile t).pend
        if !cs.isEmpty then (s.updTile t fun x => { x with pend := [] }).takeBlocking t .handler (some b) cs h.cyc
        else (s.applyAll t .handler b).updHm t fun h => { h with issued := none }

/-! ## Holds (R141) -/

/-- Is a tile in handler mode, or about to be, so that it holds its region until RETT? (R141) -/
def Tile.inHandler (x : Tile) : Bool := x.st != .dead && (x.hm.isSome || x.enter.isSome)

/-- Does a tile ask its region for a hold on this tick: a gate, a holding access of the primary stream, a re-run, a handler? A DEAD tile asks for nothing (R73, R75, R141). (DEDUCED: log 28.) -/
def State.asksHold (s : State) (t : Nat) : Bool :=
  let x := s.tile t
  x.st != .dead && (x.gateHeld || x.inHandler || x.prim.rerun.isSome || s.streamWaits t .primary)

/-- Does a request of the tile stand that it raised in an exchange window that opened on a tick? One raised before does not join other regions (R72, R143). -/
def State.spreadsHold (s : State) (w t : Nat) : Bool :=
  let x := s.tile t
  x.st != .dead && (x.gateHeld || x.prim.rerun.isSome || (x.hm.isSome && x.hm.any fun h => decide (w ≤ h.since)) || x.enter.isSome ||
    x.fenced.any (fun f => f.ctx == .primary && decide (w ≤ f.tick)) ||
    s.ops.any fun o => o.tile == t && o.ctx == .primary && decide (w ≤ o.raised) && (!o.isRange || decide (o.raised < s.ptime.toNat)))

/-- Does a refresh that a sequencer began in the present hold of its region, or in the RDV wait before it, keep that hold? (R257) (DESIGN CHOICE: log 123.) -/
def State.refreshKeeps (s : State) (r : Nat) : Bool :=
  (s.region r).held && (s.regSeqrs r).any (s.refreshHolds (s.region r).since)

/-- Do a region's own tiles ask for a hold, or does a refresh keep it? (DEDUCED: log 28.) -/
def State.ownHold (s : State) (r : Nat) : Bool := (s.region r).tiles.any s.asksHold || s.refreshKeeps r

/-- Does a region hold the regions joined to it: by a request raised in its exchange window, or a refresh begun in it? In an RDV wait it holds none (R71, R72, R143, R257). -/
def State.spreads (s : State) (k : Nat) : Bool :=
  match (s.region k).exch with
  | none => false
  | some (w, _) => !s.rdvWaits k && ((s.region k).tiles.any (s.spreadsHold w) ||
      ((s.region k).held && (s.regSeqrs k).any (s.refreshHolds (max w (s.region k).since))))

/-- Is a region held on this tick? (R141, R143) -/
def State.holds (s : State) (r : Nat) : Bool := s.pkgHeld r || s.ownHold r || (s.joined r).any s.spreads

/-! ## Causes taken after a commit (R345, R346, R362, R369) -/

/-- How many register results a trap now would capture (R358). (DEDUCED: log 29.) -/
def State.captured (s : State) (t c : Nat) : Nat :=
  let x := s.tile t
  (x.prim.inflight.filter fun r => decide (c ≤ r.land)).length + x.breads.length +
    (x.prim.delayed.filter fun d => match d.op with
      | .sample .. => true
      | .farQuery .. => true
      | _ => false).length

/-- May PREEMPT be taken at a PP bundle? The levels are those its commit leaves open. (R172, R242, R369) (DEDUCED: log 29; DESIGN CHOICE: log 130.) -/
def preemptOk (x : Tile) : Bool :=
  x.preq && x.prim.loops.all (fun l => l.fl.getLsbD 0) && x.mx.queue.isEmpty && x.mx.loader.isNone && x.mx.array.isNone && x.mx.rows.isEmpty

/-- May a trap be taken after a commit: outside handler mode, with no hold and no RDV wait on the tick, and at most 32 results in flight? (R346) (DEDUCED: log 29.) -/
def State.mayTrap (s : State) (t : Nat) : Bool :=
  (s.tile t).hm.isNone && !s.rdvWaits (s.regionOf t) && !s.holds (s.regionOf t) && decide (s.captured t (s.cycleOf t) ≤ 32)

/-- A cause that comes before PREEMPT after a commit: BREAK, TRAPI, INTERRUPT (R344). (DESIGN CHOICE: log 131.) -/
def Tile.deferred (x : Tile) : Option Cause :=
  match x.defer with
  | k :: _ => some k
  | [] => if x.ip &&& x.ie.setWidth 8 ≠ 0 then some ⟨0x1C, 0, 0, 0, false, false⟩ else none

/-- Does a region take PREEMPT on the tick: every tile of it at work has committed a PP bundle, may trap, and meets the conditions? `done` are the tiles whose bundle committed, with its PP (R369). (DEDUCED: log 29; DESIGN CHOICE: log 130.) -/
def State.preempts (s : State) (done : List (Nat × Bool)) (r : Nat) : Bool :=
  let ts := (s.region r).tiles.filter fun t => (s.tile t).st != .dead && !(s.tile t).ended
  !ts.isEmpty && ts.all fun t => done.contains (t, true) && s.mayTrap t && (s.tile t).deferred.isNone && preemptOk (s.tile t)

/-- The cause a tile takes after a commit, PREEMPT where its region takes it; its record shows the cycle of the bundle that committed. A TRAPI of the secondary stream is taken here too. (DEDUCED: log 29, 30; DESIGN CHOICE: log 131.) -/
def State.afterCommit (s : State) (t : Nat) (pre : Bool) : State :=
  let x := s.tile t
  match x.deferred <|> (if pre then some ⟨0x1E, 0, 0, 0, false, false⟩ else none) with
  | none => s
  | some k => (s.updTile t fun x => { x with defer := [] }).take t k k.mask x.prim.pc (s.cycleOf t - 1) false false false

/-- PREQ cleared on every tile of a region that takes PREEMPT (R369). (DEDUCED: log 29.) -/
def State.preempted (s : State) (r : Nat) : State :=
  ((s.region r).tiles ++ (s.region r).surplus).foldl (fun s t => s.updTile t fun x => { x with preq := false }) s

/-! ## The actions of a tick (R350) -/

/-- Is a cause taken after a commit? -/
def kindA (code : BitVec 6) : Bool := code == 0x1A || code == 0x1B || code == 0x1C || code == 0x1E

/-- The action carried out for a taken cause: FORWARD of a blocking one is PARK, REPLAY may be (R350). (DEDUCED: log 67.) -/
def State.actOf (s : State) (k : Taken) : BitVec 3 :=
  let e := (s.tile k.tile).lte
  if k.act = 3 && !kindA k.cause.code then 2
  else if k.act = 1 && s.replayParks e then 2 else k.act

/-- RETN of a launch (R18). -/
def retnOf (h : Header0) : Nat := if h.retn = 0 then 3 else h.retn

/-- Does a trap's HEALTH count retire its tile? (R348, R351, R384) (DEDUCED: log 72.) -/
def State.retires (s : State) (k : Taken) : Bool :=
  (s.action (dieOf k.tile) k.cause.code.toNat).getLsbD 6 && decide (retnOf (s.thdr k.tile) ≤ (s.tile k.tile).fails.toNat)

/-- One trap of the tick, given the strongest action on its launch: its record, and a handler entry (R350, R351). (DEDUCED: log 31, 67, 72.) -/
def State.settleTrap (s : State) (best : BitVec 3) (k : Taken) : State :=
  let a := s.actOf k
  let s := if s.retires k then
      (s.updTile k.tile fun x => { x with retiring := some (k.cause.code.setWidth 8, if k.hm then k.pc else k.pc + 1) }).now (.tileRetire k.tile)
    else s
  if a = 4 then
    if actRank best = 0 then s.updTile k.tile fun x => { x with enter := some (k.pc + 1) }
    else if k.cause.code = 0x1E then s.updTile k.tile fun x => { x with preq := true } else s
  else
    let r := s.trapRec k
    if actRank a < actRank best then s.post { r with superseded := true, act := k.act } else s.post { r with act := a }

/-- The strongest action among the traps of a launch, the TILE_RETIRED of a tile they retire among them. -/
def State.bestAct (s : State) (e : BitVec 8) : BitVec 3 :=
  let ks := s.taken.filter fun k => (s.tile k.tile).lte == e
  let acts := ks.map s.actOf ++ (ks.filter s.retires).map fun k => (s.packageEntry (dieOf k.tile) 0x20).extractLsb' 0 3
  acts.foldl (fun a b => if actRank a < actRank b then b else a) 3

/-- The traps of the tick acted on: one action for each launch (R350); PREEMPT alone parks its region (R370). -/
def State.resolve (s : State) : State :=
  let ks := s.taken
  let es := (ks.map fun k => (s.tile k.tile).lte).dedup
  let best := es.map fun e => (e, s.bestAct e)
  let s := ks.foldl (fun s k => s.settleTrap (((best.find? fun b => b.1 == (s.tile k.tile).lte).map fun b => b.2).getD 3) k) s
  let s := { s with taken := [] }
  best.foldl (fun s b =>
    let mine := ks.filter fun k => (s.tile k.tile).lte == b.1
    if b.2 = 2 && mine.all (fun k => k.cause.code == 0x1E || s.actOf k != 2) then
      ((mine.filter fun k => k.cause.code == 0x1E).map fun k => s.regionOf k.tile).dedup.foldl State.parkRegion s
    else s.carryOut b.1 b.2) s

end Sys2Proof.Machine
end

