-- ==== Sys2Proof/Machine/LoadStore.lean ====
section
/-! DEFINITION. The seven vector loads and stores (09: R200 to R203) and the six timed transfers (13: R269 to R271). -/

namespace Sys2Proof.Machine

/-! ## Vector loads and stores -/

/-- base of R200. -/
def State.baseAddr (s : State) (a : BitVec 6) (off : BitVec 32) : W64 := s.rs a + imm64 off

/-- The lane addresses of the forms of R200: consecutive words, whose sum is not narrowed (R9), offsets of a vector and a stride, which wrap, one word. (DEDUCED: log 42.) -/
def laneUnit (b : W64) (l : Nat) : Int := b.toNat + 4 * l
def laneIndex (b : W64) (v : VReg) (l : Nat) : Int := (b + (lane v l).signExtend 64).toNat
def laneStride (b st : W64) (l : Nat) : Int := (b + BitVec.ofNat 64 l * st).toNat

/-- The accesses of the active lanes, in lane order. -/
def laneAccess (m : BitVec 64) (f : Nat → Int) : List Access := (lanesOf m).map fun l => (l, f l)

/-- The alignment check of VLD and VST is on the base (R202). -/
def baseBad (b : W64) (_ : Access) : Bool := decide (b.toNat % 256 ≠ 0)

/-- The tag a load of several lines takes (R149, R201). -/
def foldTags (tg : SMap Tag) (ls : List (Nat × Nat)) : Tag := ls.foldl (fun t l => rotl16 t 3 ^^^ SMap.get 0 tg l.1) 0

/-- A load on the active lanes (R201). -/
def State.vload (s : State) (d : BitVec 6) (lat : Nat) (m : BitVec 64) (bad : Access → Bool) (f : Nat → Int) : State :=
  let xs := laneAccess m f
  if xs.isEmpty then s
  else
    let r := s.memAccess false true bad s.eng 0 xs
    if r.2 then
      let v := s.ctile.view s.cur.ctx s.cur.cycle
      let ls := touched xs
      r.1.resultV d (s.loadLat lat ls) m (ofLanes fun l => if m.getLsbD l then BitVec.ofNat 32 (readN v.spad (f l).toNat 4) else 0)
        (foldTags v.ltag ls) 0 0
    else r.1

/-- A store of the active lanes (R201). -/
def State.vstore (s : State) (v : BitVec 6) (op : Nat) (m : BitVec 64) (bad : Access → Bool) (f : Nat → Int) : State :=
  let xs := laneAccess m f
  if xs.isEmpty then s
  else
    let r := s.memAccess true true bad s.eng 0 xs
    if r.2 then
      let bytes := (lanesOf m).flatMap fun l =>
        (toBytes 4 (lane (s.rv v) l).toNat).zipIdx.map fun b => ((f l).toNat + b.2, b.1)
      r.1.bufferStore 3 bytes ((touched xs).map (·.1)) (s.tv v ^^^ opk 2 op) false
    else r.1

/-- VLD (R200, R201). -/
def execVld (p : BitVec 4) (vr a : BitVec 6) (q : BitVec 3) (off : BitVec 32) (s : State) : Out :=
  s.when p fun s => let b := s.baseAddr a off; s.vload vr 5 (s.rq q) (baseBad b) (laneUnit b)

/-- VST (R200, R201). -/
def execVst (p : BitVec 4) (vr a : BitVec 6) (q : BitVec 3) (off : BitVec 32) (s : State) : Out :=
  s.when p fun s => let b := s.baseAddr a off; s.vstore vr 2 (s.rq q) (baseBad b) (laneUnit b)

/-- VLDX (R200, R201). -/
def execVldx (p : BitVec 4) (vr a b : BitVec 6) (q : BitVec 3) (off : BitVec 32) (s : State) : Out :=
  s.when p fun s => s.vload vr 7 (s.rq q) (misaligned 4) (laneIndex (s.baseAddr a off) (s.rv b))

/-- VSTX (R200, R201). -/
def execVstx (p : BitVec 4) (vr a b : BitVec 6) (q : BitVec 3) (off : BitVec 32) (s : State) : Out :=
  s.when p fun s => s.vstore vr 4 (s.rq q) (misaligned 4) (laneIndex (s.baseAddr a off) (s.rv b))

/-- VLDB (R200, R201): one word to every lane. -/
def execVldb (p : BitVec 4) (vr a : BitVec 6) (off : BitVec 32) (s : State) : Out :=
  s.when p fun s => s.vload vr 5 (BitVec.allOnes 64) (misaligned 4) fun _ => ((s.baseAddr a off).toNat : Int)

/-- VLDS (R200, R201). -/
def execVlds (p : BitVec 4) (vr a b : BitVec 6) (q : BitVec 3) (off : BitVec 32) (s : State) : Out :=
  s.when p fun s => s.vload vr 7 (s.rq q) (misaligned 4) (laneStride (s.baseAddr a off) (s.rs b))

/-- VSTS (R200, R201). -/
def execVsts (p : BitVec 4) (vr a b : BitVec 6) (q : BitVec 3) (off : BitVec 32) (s : State) : Out :=
  s.when p fun s => s.vstore vr 7 (s.rq q) (misaligned 4) (laneStride (s.baseAddr a off) (s.rs b))

/-! ## Timed transfers -/

/-- The tile a die index of TGT stands for on a die, where the launch has one (R17, R28, R75, R270). -/
def State.target (s : State) (d tgt : Nat) : Option Nat :=
  let e := s.ctile.lte
  let h := s.hdrOf e
  if dieTiles h d ≤ tgt then none else s.physTile e (dieBase h d + tgt)

/-- Is the region of the tile at hand in an exchange window? (R143) -/
def State.inExchange (s : State) : Bool := (s.region (s.regionOf s.cur.tile)).exch.isSome

/-- The tag a transmission carries (R150). -/
def sendTag (tag : Tag) (sid epoch : BitVec 8) : Tag := rotl16 tag 5 ^^^ sid.setWidth 16 ^^^ epx16 epoch

/-- The checks 1 and 2 of R270 for SEND and LSEND. -/
def State.sendCheck (s : State) (tgt : BitVec 9) : Option (BitVec 6) × Nat :=
  match s.target (dieOf s.cur.tile) tgt.toNat with
  | none => (some 0x02, 0)
  | some t => (if s.regionOf t ≠ s.regionOf s.cur.tile && !s.inExchange then some 0x13 else none, t)

/-- SEND (R269, R270). -/
def execSend (p : BitVec 4) (vr : BitVec 6) (tgt : BitVec 9) (sid : BitVec 8) (s : State) : Out :=
  s.when p fun s =>
    match s.sendCheck tgt with
    | (some c, _) => s.raiseOpen c
    | (none, t) => (s.emit (.send ⟨false, t, sid, s.rv vr, sendTag (s.tv vr) sid s.regs.epoch⟩ s.cur.slot)).mark

/-- DSEND (R269, R270). -/
def execDsend (p : BitVec 4) (vr : BitVec 6) (tgt : BitVec 9) (sid : BitVec 8) (die : BitVec 2) (s : State) : Out :=
  s.when p fun s =>
    match (if die.toNat = dieOf s.cur.tile then none else s.target die.toNat tgt.toNat) with
    | none => s.raiseOpen 0x02
    | some t =>
      if !s.inExchange then s.raiseOpen 0x13
      else (s.emit (.send ⟨true, t, sid, s.rv vr, sendTag (s.tv vr) sid s.regs.epoch⟩ s.cur.slot)).mark

/-- The latch a receive reads (R266, R269). -/
def portLatch (x : Port) (sid : BitVec 8) : VReg × Tag := x.get (sid.setWidth 2).toFin

/-- RECV (R269): seen at issue, written at k + 2 with the latch's tag. -/
def execRecv (p : BitVec 4) (vr : BitVec 6) (sid : BitVec 8) (s : State) : Out :=
  s.when p fun s =>
    let l := portLatch s.ctile.mport sid
    s.resultV vr 2 (BitVec.allOnes 64) l.1 l.2 0 0

/-- DRECV (R269). -/
def execDrecv (p : BitVec 4) (vr : BitVec 6) (sid : BitVec 8) (s : State) : Out :=
  s.when p fun s =>
    let l := portLatch s.ctile.dport sid
    s.resultV vr 2 (BitVec.allOnes 64) l.1 l.2 0 0

/-- The line address of LSEND and LRECV: s[A] + OFF, not narrowed (R9, R269). -/
def State.lineAddr (s : State) (a : BitVec 6) (off : BitVec 22) : Int := (s.rs a).toNat + off.toInt

/-- LSEND (R269, R270): the committed line and its tag. -/
def execLsend (p : BitVec 4) (a : BitVec 6) (tgt : BitVec 9) (sid : BitVec 8) (off : BitVec 22) (s : State) : Out :=
  s.when p fun s =>
    match s.sendCheck tgt with
    | (some c, _) => s.raiseOpen c
    | (none, t) =>
      let x := s.lineAddr a off
      let r := s.memAccess false false (misaligned 256) (some 4) 6 [(0, x)]
      if r.2 then
        let ln := x.toNat / 256
        (r.1.emit (.send ⟨false, t, sid, readLine s.ctile.spad ln, sendTag (SMap.get 0 s.ctile.ltag ln) sid s.regs.epoch⟩
          s.cur.slot)).mark
      else r.1

/-- LRECV (R269, R270): the latch's line, buffered with the latch's tag. -/
def execLrecv (p : BitVec 4) (a : BitVec 6) (sid : BitVec 8) (off : BitVec 22) (s : State) : Out :=
  s.when p fun s =>
    let x := s.lineAddr a off
    let r := s.memAccess true false (misaligned 256) (some 4) 6 [(0, x)]
    if r.2 then
      let l := portLatch s.ctile.mport sid
      r.1.bufferStore 2 ((toBytes 256 l.1.toNat).zipIdx.map fun b => (x.toNat + b.2, b.1)) [x.toNat / 256] l.2 true
    else r.1

end Sys2Proof.Machine
end

