-- ==== Sys2Proof/Machine/Scalar.lean ====
section
/-! DEFINITION. The 45 S instructions (08: R158 to R169). -/

namespace Sys2Proof.Machine

/-- A two-source scalar operation (R161). -/
def State.alu2 (s : State) (p : BitVec 4) (op l : Nat) (d a b : BitVec 6) (f : W64 → W64 → W64) : Out :=
  s.when p fun s => s.resultS d l (f (s.rs a) (s.rs b)) (tagOf [s.ts a, s.ts b] (opk 0 op))

/-- A scalar operation with an immediate (R161). -/
def State.aluI (s : State) (p : BitVec 4) (op l : Nat) (d a : BitVec 6) (f : W64 → W64) : Out :=
  s.when p fun s => s.resultS d l (f (s.rs a)) (tagOf [s.ts a, immTag] (opk 0 op))

/-- A one-source scalar operation (R161). -/
def State.alu1 (s : State) (p : BitVec 4) (op l : Nat) (d a : BitVec 6) (f : W64 → W64) : Out :=
  s.when p fun s => s.resultS d l (f (s.rs a)) (tagOf [s.ts a] (opk 0 op))

/-- The shift count s[B][5:0] (R161). -/
def shCount (b : W64) : Nat := b.toNat % 64

/-- signed high product (R161). -/
def mulhS (a b : W64) : W64 := BitVec.ofInt 64 (Int.fdiv (a.toInt * b.toInt) (2 ^ 64))

/-- unsigned high product (R161). -/
def mulhU (a b : W64) : W64 := BitVec.ofNat 64 (a.toNat * b.toNat / 2 ^ 64)

/-- DIVU and REMU; a divisor of 0 gives all ones (R134, R161). -/
def divu (a b : W64) : W64 := if b = 0 then BitVec.allOnes 64 else a / b
def remu (a b : W64) : W64 := if b = 0 then BitVec.allOnes 64 else a % b

/-- ADDW's narrowing: the low 32 bits, sign-extended (R161). -/
def signW (x : W64) : W64 := (x.setWidth 32).signExtend 64

/-- BEXT (R161): bits above 63 read 0. -/
def bext (a b : W64) : W64 := BitVec.ofNat 64 (a.toNat / 2 ^ (b.toNat % 64) % 2 ^ field b.toNat 8 6)

/-- BINS (R161). -/
def bins (old a b : W64) : W64 :=
  let m : W64 := BitVec.ofNat 64 ((2 ^ field b.toNat 8 6 - 1) * 2 ^ (b.toNat % 64))
  (old &&& ~~~ m) ||| (BitVec.ofNat 64 (a.toNat * 2 ^ (b.toNat % 64)) &&& m)

def execAdd (p : BitVec 4) (d a b : BitVec 6) (s : State) : Out := s.alu2 p 0x01 1 d a b fun x y => x + y
def execSub (p : BitVec 4) (d a b : BitVec 6) (s : State) : Out := s.alu2 p 0x02 1 d a b fun x y => x - y
def execAddi (p : BitVec 4) (d a : BitVec 6) (imm : BitVec 9) (s : State) : Out := s.aluI p 0x03 1 d a fun x => x + imm64 imm
def execAnd (p : BitVec 4) (d a b : BitVec 6) (s : State) : Out := s.alu2 p 0x04 1 d a b fun x y => x &&& y
def execOr (p : BitVec 4) (d a b : BitVec 6) (s : State) : Out := s.alu2 p 0x05 1 d a b fun x y => x ||| y
def execXor (p : BitVec 4) (d a b : BitVec 6) (s : State) : Out := s.alu2 p 0x06 1 d a b fun x y => x ^^^ y
def execAndi (p : BitVec 4) (d a : BitVec 6) (imm : BitVec 9) (s : State) : Out := s.aluI p 0x07 1 d a fun x => x &&& imm64 imm
def execOri (p : BitVec 4) (d a : BitVec 6) (imm : BitVec 9) (s : State) : Out := s.aluI p 0x08 1 d a fun x => x ||| imm64 imm
def execXori (p : BitVec 4) (d a : BitVec 6) (imm : BitVec 9) (s : State) : Out := s.aluI p 0x09 1 d a fun x => x ^^^ imm64 imm
def execShl (p : BitVec 4) (d a b : BitVec 6) (s : State) : Out := s.alu2 p 0x0A 1 d a b fun x y => x <<< shCount y
def execShr (p : BitVec 4) (d a b : BitVec 6) (s : State) : Out := s.alu2 p 0x0B 1 d a b fun x y => x >>> shCount y
def execSra (p : BitVec 4) (d a b : BitVec 6) (s : State) : Out := s.alu2 p 0x0C 1 d a b fun x y => x.sshiftRight (shCount y)
def execShli (p : BitVec 4) (d a n : BitVec 6) (s : State) : Out := s.aluI p 0x0D 1 d a fun x => x <<< n.toNat
def execShri (p : BitVec 4) (d a n : BitVec 6) (s : State) : Out := s.aluI p 0x0E 1 d a fun x => x >>> n.toNat
def execSrai (p : BitVec 4) (d a n : BitVec 6) (s : State) : Out := s.aluI p 0x0F 1 d a fun x => x.sshiftRight n.toNat
def execMul (p : BitVec 4) (d a b : BitVec 6) (s : State) : Out := s.alu2 p 0x10 3 d a b fun x y => x * y
def execMulh (p : BitVec 4) (d a b : BitVec 6) (s : State) : Out := s.alu2 p 0x11 3 d a b mulhS
def execMulhu (p : BitVec 4) (d a b : BitVec 6) (s : State) : Out := s.alu2 p 0x12 3 d a b mulhU
def execDivu (p : BitVec 4) (d a b : BitVec 6) (s : State) : Out := s.alu2 p 0x13 18 d a b divu
def execRemu (p : BitVec 4) (d a b : BitVec 6) (s : State) : Out := s.alu2 p 0x14 18 d a b remu
def execMin (p : BitVec 4) (d a b : BitVec 6) (s : State) : Out := s.alu2 p 0x15 1 d a b fun x y => if x.sle y then x else y
def execMax (p : BitVec 4) (d a b : BitVec 6) (s : State) : Out := s.alu2 p 0x16 1 d a b fun x y => if x.sle y then y else x
def execMinu (p : BitVec 4) (d a b : BitVec 6) (s : State) : Out := s.alu2 p 0x17 1 d a b fun x y => if x.ule y then x else y
def execMaxu (p : BitVec 4) (d a b : BitVec 6) (s : State) : Out := s.alu2 p 0x18 1 d a b fun x y => if x.ule y then y else x
def execClz (p : BitVec 4) (d a : BitVec 6) (s : State) : Out := s.alu1 p 0x19 1 d a fun x => BitVec.ofNat 64 (clz 64 x.toNat)
def execPopc (p : BitVec 4) (d a : BitVec 6) (s : State) : Out := s.alu1 p 0x1A 1 d a fun x => BitVec.ofNat 64 (popc 64 x.toNat)
def execAddw (p : BitVec 4) (d a b : BitVec 6) (s : State) : Out := s.alu2 p 0x28 1 d a b fun x y => signW (x + y)
def execSubw (p : BitVec 4) (d a b : BitVec 6) (s : State) : Out := s.alu2 p 0x29 1 d a b fun x y => signW (x - y)
def execRotl (p : BitVec 4) (d a b : BitVec 6) (s : State) : Out := s.alu2 p 0x2A 1 d a b fun x y => x.rotateLeft (shCount y)
def execBext (p : BitVec 4) (d a b : BitVec 6) (s : State) : Out := s.alu2 p 0x2B 1 d a b bext
def execMuli (p : BitVec 4) (d a : BitVec 6) (imm : BitVec 9) (s : State) : Out := s.aluI p 0x2D 3 d a fun x => x * imm64 imm

/-- BINS reads s[D] as its third source (R161). -/
def execBins (p : BitVec 4) (d a b : BitVec 6) (s : State) : Out :=
  s.when p fun s => s.resultS d 1 (bins (s.rs d) (s.rs a) (s.rs b)) (tagOf [s.ts a, s.ts b, s.ts d] (opk 0 0x2C))

/-- MOVI (R162). -/
def execMovi (p : BitVec 4) (d : BitVec 6) (imm : BitVec 15) (s : State) : Out :=
  s.when p fun s => s.resultS d 1 (imm64 imm) (tagOf [immTag] (opk 0 0x1B))

/-- MOVSH (R162). -/
def execMovsh (p : BitVec 4) (d : BitVec 6) (imm : BitVec 15) (s : State) : Out :=
  s.when p fun s => s.resultS d 1 ((s.rs d <<< 15) ||| imm.setWidth 64) (tagOf [s.ts d, immTag] (opk 0 0x1C))

/-- SEL (R162). -/
def execSel (p : BitVec 4) (d a b : BitVec 6) (f : BitVec 3) (s : State) : Out :=
  s.when p fun s => s.resultS d 1 (if s.rp (f.setWidth 4) then s.rs a else s.rs b) (tagOf [s.ts a, s.ts b] (opk 0 0x1D))

/-- EXTF (R162): a WID field cut with the launch's widths. -/
def execExtf (p : BitVec 4) (d a : BitVec 6) (f : BitVec 3) (s : State) : Out :=
  s.when p fun s =>
    let w := (s.thdr s.cur.tile).widw
    s.resultS d 1 (BitVec.ofNat 64 ((s.rs a).toNat / 2 ^ widBase w f.toNat % 2 ^ w.getD f.toNat 0)) (tagOf [s.ts a] (opk 0 0x1E))

/-- LEA (R162): an offset of 2^59 or more saturates. -/
def execLea (p : BitVec 4) (d a : BitVec 6) (e : BitVec 5) (s : State) : Out :=
  s.when p fun s =>
    s.resultS d 1 (BitVec.ofNat 64 (e.toNat * 2 ^ 59 + min (s.rs a).toNat (2 ^ 59 - 1))) (tagOf [s.ts a, immTag] (opk 0 0x1F))

/-- CMP (R163). (DEDUCED: log 93.) -/
def execCmp (p d : BitVec 4) (a b : BitVec 6) (f : BitVec 3) (s : State) : Out :=
  s.when p fun s => s.resultP d 1 (condI f (s.rs a) (s.rs b))

/-- CMPI (R163). (DEDUCED: log 93.) -/
def execCmpi (p d : BitVec 4) (c : BitVec 2) (a : BitVec 6) (imm : BitVec 9) (s : State) : Out :=
  s.when p fun s => s.resultP d 1 (condImm c (s.rs a) (imm64 imm))

/-- PLOG (R163). (DEDUCED: log 93.) -/
def execPlog (p d a b : BitVec 4) (f : BitVec 3) (s : State) : Out :=
  s.when p fun s => s.resultP d 1 (plogOp f (s.rp a) (s.rp b))

/-- MFSR (R167): the register as it stands on k + 1, written at k + 2. -/
def execMfsr (p : BitVec 4) (d idx : BitVec 6) (s : State) : Out :=
  s.when p fun s =>
    let tag := tagOf [immTag] (opk 0 0x23)
    (s.emit (.delay ⟨s.landAt 1, s.cur.slot, .sample idx
      ⟨s.landAt 2, s.cur.cycle, s.cur.slot, .s d, 0, 0, tag, 0, 0⟩⟩)).entryTag tag

/-- MTSR (R167): PRIV, then ALIGN for a gate register; otherwise seen from k + 2. -/
def execMtsr (p : BitVec 4) (a idx : BitVec 6) (s : State) : Out :=
  s.when p fun s =>
    let v := s.rs a
    if privWrite (s.cur.ctx == .handler) idx then s.raiseOpen 0x19
    else if 0x18 ≤ idx.toNat ∧ idx.toNat < 0x20 ∧ v.toNat % 16 ≠ 0 then s.raiseOpen 0x08
    else s.emit (.delay ⟨s.landAt 2, s.cur.slot, .sysreg idx v⟩)

/-- The byte address of LDS and STS (R168). (DEDUCED: log 42.) -/
def State.ldsAddr (s : State) (a b : BitVec 6) (z : Nat) : Int := (s.rs a).toNat + b.toInt * z

/-- LDS (R168). -/
def execLds (p : BitVec 4) (d a b : BitVec 6) (f : BitVec 3) (s : State) : Out :=
  s.when p fun s =>
    let z := 2 ^ (f.toNat % 4)
    let x := s.ldsAddr a b z
    let r := s.memAccess false false (misaligned z) s.eng 0 [(0, x)]
    if r.2 then
      let v := s.ctile.view s.cur.ctx s.cur.cycle
      let n := readN v.spad x.toNat z
      let val : W64 := if f.getLsbD 2 then BitVec.ofInt 64 (sext n (8 * z)) else BitVec.ofNat 64 n
      r.1.resultS d (r.1.loadLat 4 [(x.toNat / 256, x.toNat)]) val (SMap.get 0 v.ltag (x.toNat / 256))
    else r.1

/-- STS (R168). -/
def execSts (p : BitVec 4) (d a b : BitVec 6) (f : BitVec 2) (s : State) : Out :=
  s.when p fun s =>
    let z := 2 ^ f.toNat
    let x := s.ldsAddr a b z
    let r := s.memAccess true false (misaligned z) s.eng 0 [(0, x)]
    if r.2 then
      let bs := (List.range z).zip (toBytes z (s.rs d).toNat) |>.map fun ib => (x.toNat + ib.1, ib.2)
      r.1.bufferStore 2 bs [x.toNat / 256] (s.ts d ^^^ opk 0 0x26) false
    else r.1

/-- LDF (R169): the checks at the commit point; the load itself starts when the bundle commits. (DEDUCED: log 46.) -/
def execLdf (p : BitVec 4) (d a : BitVec 6) (imm : BitVec 9) (s : State) : Out :=
  s.when p fun s =>
    let e := s.rs a
    let o : Int := extOffset e + imm.toInt * 8
    let addr : W64 := BitVec.ofInt 64 (extIndex e * 2 ^ 59 + o)
    let ok := match s.extent s.cur.tile (extIndex e) with
      | none => false
      | some x => x.covers o 8 true false && x.cls != 0 && s.ownsPrivate s.cur.tile x
    if !ok then s.raiseAt 0x07 addr
    else if extOffset e % 8 ≠ 0 then s.raiseAt 0x08 addr
    else
      let tag := tagOf [s.ts a, immTag] (opk 0 0x27)
      (s.emit (.ldf ⟨0, s.cur.cycle, s.cur.slot, .s d, 0, 0, tag, 0, 0⟩ addr)).entryTag tag

end Sys2Proof.Machine
end

