-- ==== Sys2Proof/Machine/Uses.lean ====
section
/-! DEFINITION. The registers a syllable reads and writes, for the interlock of the secondary stream and of handler mode (07: R146, R147, R159, R192). -/

namespace Sys2Proof.Machine

/-- Registers by file, as the fields name them, and system registers. -/
structure RegSet where
  s : List (BitVec 6) := []
  v : List (BitVec 6) := []
  p : List (BitVec 4) := []
  q : List (BitVec 3) := []
  sys : List (BitVec 6) := []
  deriving DecidableEq, Repr

/-- What a syllable reads, then what it writes. -/
abbrev Uses := RegSet × RegSet

/-- Scalar sources and a scalar destination. -/
def usesS (rs : List (BitVec 6)) (d : BitVec 6) : Uses := ({ s := rs }, { s := [d] })

/-- Vector sources under a lane mask and a vector destination; VB = 63 is the broadcast port and no register (R103). -/
def usesV (q : BitVec 3) (va : List (BitVec 6)) (vb : List (BitVec 6)) (d : BitVec 6) : Uses :=
  ({ v := va ++ vb.filter (· != 63), q := [q] }, { v := [d] })

/-- Registers read only. -/
def usesR (rs : List (BitVec 6)) : Uses := ({ s := rs }, {})

/-- The registers of an S syllable. -/
def scalarUses : Instr → Uses
  | .add _ d a b | .sub _ d a b | .and _ d a b | .or _ d a b | .xor _ d a b | .shl _ d a b | .shr _ d a b | .sra _ d a b
  | .mul _ d a b | .mulh _ d a b | .mulhu _ d a b | .divu _ d a b | .remu _ d a b | .min _ d a b | .max _ d a b
  | .minu _ d a b | .maxu _ d a b | .addw _ d a b | .subw _ d a b | .rotl _ d a b | .bext _ d a b => usesS [a, b] d
  | .bins _ d a b => usesS [a, b, d] d
  | .addi _ d a _ | .andi _ d a _ | .ori _ d a _ | .xori _ d a _ | .shli _ d a _ | .shri _ d a _ | .srai _ d a _
  | .clz _ d a | .popc _ d a | .extf _ d a _ | .lea _ d a _ | .muli _ d a _ | .lds _ d a _ _ | .ldf _ d a _ => usesS [a] d
  | .movi _ d _ => usesS [] d
  | .movsh _ d _ => usesS [d] d
  | .sel _ d a b f => ({ s := [a, b], p := [f.setWidth 4] }, { s := [d] })
  | .cmp _ d a b _ => ({ s := [a, b] }, { p := [d] })
  | .cmpi _ d _ a _ => ({ s := [a] }, { p := [d] })
  | .plog _ d a b _ => ({ p := [a, b] }, { p := [d] })
  | .mfsr _ d i => ({ sys := [i] }, { s := [d] })
  | .mtsr _ a i => ({ s := [a] }, { sys := [i] })
  | .sts _ d a _ _ => usesR [d, a]
  | _ => ({}, {})

/-- The system registers a loop level reads and steps: LC, EC, RRB and EPOCH (R148, R171). -/
def loopSys : List (BitVec 6) := [5, 6, 7, 8]

/-- The registers of a C syllable, the system registers it steps or writes among them (R148, R164). -/
def controlUses : Instr → Uses
  | .bri _ a | .rdv _ a _ => usesR [a]
  | .loop _ _ a _ => ({ s := [a] }, { sys := loopSys })
  | .loopi .. => ({}, { sys := loopSys })
  | .setlc _ a _ => ({ s := [a] }, { sys := [5, 6] })
  | .gateset _ g a _ _ => ({ s := [a] }, { sys := [BitVec.ofNat 6 (0x18 + g.toNat)] })
  | .epoch .. => ({}, { sys := [8] })
  | .inten .. => ({}, { sys := [0x0E] })
  | .sprng _ a => usesS [] a
  | _ => ({}, {})

/-- The registers of an L syllable. -/
def memoryUses : Instr → Uses
  | .vld _ d a q _ => ({ s := [a], q := [q] }, { v := [d] })
  | .vst _ d a q _ => ({ s := [a], v := [d], q := [q] }, {})
  | .vldx _ d a b q _ => ({ s := [a], v := [b], q := [q] }, { v := [d] })
  | .vstx _ d a b q _ => ({ s := [a], v := [d, b], q := [q] }, {})
  | .vldb _ d a _ => ({ s := [a] }, { v := [d] })
  | .vlds _ d a b q _ => ({ s := [a, b], q := [q] }, { v := [d] })
  | .vsts _ d a b q _ => ({ s := [a, b], v := [d], q := [q] }, {})
  | .fnest _ x a b _ | .fbase _ x a b | .fred _ x a b _ _ => usesR [x, a, b]
  | .fidx _ x => ({ v := [x] }, {})
  | .fgo _ a b _ _ _ | .fsig _ a b _ | .wbr _ a b _ | .invr _ a b _ | .discr _ a b _ | .bexpect _ a b => usesR [a, b]
  | .fqry _ x _ => usesS [] x
  | .amo _ d a b _ _ _ => usesS [a, b] d
  | .cas _ d a b c _ _ => usesS [a, b, c] d
  | .binit _ a _ | .barrive _ a _ _ | .brearm _ a _ => usesR [a]
  | .bread _ d a => usesS [a] d
  | _ => ({}, {})

/-- The registers of a V syllable. -/
def vectorUses : Instr → Uses
  | .vadd _ q d a b | .vsub _ q d a b | .vmul _ q d a b | .vand _ q d a b | .vor _ q d a b | .vxor _ q d a b
  | .vshl _ q d a b | .vshr _ q d a b | .vsra _ q d a b | .vmin _ q d a b | .vmax _ q d a b | .vminu _ q d a b
  | .vmaxu _ q d a b | .vadds _ q d a b | .vfmin _ q d a b | .vfmax _ q d a b | .vlmul _ q d a b | .vldiv _ q d a b
  | .vperm _ q d a b | .vmulh _ q d a b => usesV q [a] [b] d
  | .vfadd _ q d a b _ | .vfsub _ q d a b _ | .vfmul _ q d a b _ | .vbadd _ q d a b _ | .vbmul _ q d a b _ => usesV q [a] [b] d
  | .vfma _ q d a b c _ | .vfnma _ q d a b c _ | .vbfma _ q d a b c _ => usesV q [a, c] [b] d
  | .vcmp _ q d a b _ | .vfcmp _ q d a b _ => ({ v := [a] ++ [b].filter (· != 63), q := [q] }, { q := [d] })
  | .vfabs _ q d a | .vfneg _ q d a | .vlsqrt _ q d a | .vlinv _ q d a | .vclz _ q d a | .vpopc _ q d a => usesV q [a] [] d
  | .vfrnd _ q d a _ | .vexp2 _ q d a _ | .vlog2 _ q d a _ | .vrot _ q d a _ | .vunpk _ q d a _ => usesV q [a] [] d
  | .vcvt _ q d a _ _ _ _ => usesV q [a] [] d
  | .vred _ q d a _ _ _ => usesV q [a] [] d
  | .vmov _ q d b => usesV q [] [b] d
  | .vsel _ q d a b qc => ({ v := [a] ++ [b].filter (· != 63), q := [q, qc] }, { v := [d] })
  | .vext _ d a _ => ({ v := [a] }, { s := [d] })
  | .vins _ d b _ => usesV 0 [d] [b] d
  | .viota _ q d => usesV q [] [] d
  | .vpack _ d a b => usesV 0 [a] [b] d
  | .qlog _ d a b _ => ({ q := [a, b] }, { q := [d] })
  | .qset _ d => ({}, { q := [d] })
  | .qget _ d a => ({ q := [a] }, { s := [d] })
  | _ => ({}, {})

/-- The predicate of a syllable. -/
def predOf (slot w : Nat) : BitVec 4 := 
  if slot < 2 then fld w 21 4 else if slot = 2 then fld w 22 4 else if slot < 6 then fld w 53 4 else fld w 54 4

/-- The registers a syllable of a slot reads, its predicate among them, and writes. -/
def usesOf (slot w : Nat) (i : Instr) : Uses :=
  let u := match slotCls slot with
    | .scalar => scalarUses i
    | .control => controlUses i
    | .memory => memoryUses i
    | .vector => vectorUses i
    | _ => ({}, {})
  ({ u.1 with p := predOf slot w :: u.1.p }, u.2)

/-- RRB, when a field that it maps is named (R136, R148). -/
def RegSet.rotates (x : RegSet) : List (BitVec 6) :=
  if x.v.any (fun i => decide (32 ≤ i.toNat)) || x.p.any (fun i => decide (8 ≤ i.toNat)) then [7] else []

/-- The registers as physical destinations (R136). -/
def RegSet.dests (x : RegSet) (rrb : BitVec 5) : List Dest :=
  x.s.map Dest.s ++ x.v.map (fun i => Dest.v (physV rrb i)) ++ x.p.map (fun i => Dest.p (physP rrb i)) ++ x.q.map Dest.q

/-- The accesses of a load of the bundle at hand, in lane order (R168, R200). -/
def State.readAccesses (s : State) : Instr → List Access
  | .lds _ _ a b f => [(0, s.ldsAddr a b (2 ^ (f.toNat % 4)))]
  | .vld _ _ a q off => laneAccess (s.rq q) (laneUnit (s.baseAddr a off))
  | .vldx _ _ a b q off => laneAccess (s.rq q) (laneIndex (s.baseAddr a off) (s.rv b))
  | .vldb _ _ a off => laneAccess (BitVec.allOnes 64) fun _ => ((s.baseAddr a off).toNat : Int)
  | .vlds _ _ a b q off => laneAccess (s.rq q) (laneStride (s.baseAddr a off) (s.rs b))
  | _ => []

/-- The lines a load reads, in lane order, each with the lanes that take a word of it and their addresses (R200, R201). -/
def lineLanes (xs : List Access) : List (Nat × List (Nat × Nat)) :=
  (touched xs).map fun l => (l.1, (xs.filter fun x => x.2.toNat / 256 == l.1).map fun x => (x.1, x.2.toNat))

end Sys2Proof.Machine
end

