-- ==== Sys2Proof/Machine/Bundle.lean ====
section
/-! DEFINITION. Bundles: fetch and decode legality, issue, signature bundles and re-runs, the secondary stream, handler bundles, gates, engine command starts and the steps of a tile beside them (05: R97 to R102, R116 to R120; 06: R126, R127; 07: R132 to R159). -/

namespace Sys2Proof.Machine

/-! ## Samples (R167, R300) -/

/-- What FQRY reads (R300). -/
def FarEngine.query (f : FarEngine) (sel : BitVec 2) (sec : Bool) : W64 :=
  let mask := fun (p : Copy → Bool) => (f.copies.filter p).foldl (fun (m : W64) c => m ||| BitVec.twoPow 64 c.slot) 0
  match sel with
  | 0 => f.fstat
  | 1 => mask fun _ => true
  | 2 => mask fun (c : Copy) => match c.st with
    | .parked _ => true
    | _ => false
  | _ => BitVec.ofNat 64 ((if sec then f.recent2 else f.recent).getD 64)

/-- What a delayed sample reads, as a result. -/
def State.sampled (s : State) (t : Nat) (c : Ctx) (d : Delayed) : Option Result :=
  match d.op with
  | .sample i r => some { r with value := (s.sysRead t c i).setWidth 2048 }
  | .farQuery sel sec r => some { r with value := ((s.tile t).far.query sel sec).setWidth 2048 }
  | _ => none

/-- The samples of a list that fall due: the results they give, and what is left (R167, R300). -/
def State.takeSamples (s : State) (t : Nat) (c : Ctx) (cyc : Nat) (ds : List Delayed) : List Result × List Delayed :=
  let due := fun (d : Delayed) => decide (d.at_ ≤ cyc) && (s.sampled t c d).isSome
  ((ds.filter due).filterMap (s.sampled t c), ds.filter fun d => !due d)

/-- The samples of a stream on a cycle. -/
def State.sampleStream (s : State) (t : Nat) (c : Ctx) (cyc : Nat) : State :=
  s.updStream t c fun st =>
    let r := s.takeSamples t c cyc st.delayed
    { st with inflight := st.inflight ++ r.1, delayed := r.2 }

/-- The samples of a handler on a tick. -/
def State.sampleHandler (s : State) (t : Nat) : State :=
  s.updHm t fun h =>
    let r := s.takeSamples t .handler s.ptime.toNat h.delayed
    { h with flight := h.flight ++ r.1, delayed := r.2 }

/-- Every landing and sample of a stream on a cycle. (DEDUCED: log 27.) -/
def State.landAll (s : State) (t : Nat) (c : Ctx) (cyc : Nat) : State :=
  (s.updTile t fun x => x.landStream c cyc).sampleStream t c cyc

/-! ## Fetch and decode legality (R97 to R102, R116 to R119, R126) -/

/-- Is a syllable illegal in its context? (R117) The opcode alone says so; one the encoding version does not assign has a reserved code's fate instead (R118). -/
def illegalIn (encv : Nat) (c : Ctx) (i : Instr) : Bool :=
  encvOk encv i && match i with
  | .send .. | .recv .. | .lsend .. | .lrecv .. | .dsend .. | .drecv .. | .rdv .. | .phase .. | .secs .. => c != .primary
  | .endt .. | .inten .. => c == .secondary
  | .rett .. | .waiti .. => c != .handler
  | _ => false

/-- Is a syllable a control transfer? (R126) -/
def isTransfer : Instr → Bool
  | .br .. | .bri .. | .call .. | .ret .. | .loop .. | .loopi .. | .brkl .. | .endt .. => true
  | _ => false

/-- Must the last bundle of a loop body not hold it? (R172) -/
def notAtEnd : Instr → Bool
  | .brkl .. => false
  | i => isTransfer i

/-- The DELAY of an engine command (R140). -/
def engineDelay : Instr → Nat
  | .mldw _ d _ _ _ _ _ => d.toNat
  | .mswap _ d => d.toNat
  | .mstr _ _ d _ _ _ _ => d.toNat
  | .mstrz _ _ d _ _ _ _ => d.toNat
  | .mcbt _ d _ => d.toNat
  | .mscl _ d _ => d.toNat
  | .fgo _ _ _ d _ _ => d.toNat
  | _ => 0

/-- Is a syllable SPRNG, or a converter with RM = SR? (R57) -/
def draws : Instr → Bool
  | .sprng .. => true
  | .vcvt _ _ _ _ rm _ _ _ => rm == 3
  | .ard _ _ _ _ _ _ _ rm => rm == 3
  | .ardb _ _ _ _ _ _ rm => rm == 3
  | .ardl _ _ _ _ _ _ rm => rm == 3
  | .ardl8 _ _ _ _ _ _ rm _ => rm == 3
  | _ => false

/-- The syllable of a slot, under the launch's encoding version and phases (R107, R116, R118). -/
def syllable (h : Header0) (slot w : Nat) : Option Instr :=
  (decodeWord (slotCls slot) w).filter fun i => encvOk h.encv i && match i with
    | .phase _ ph => decide (ph.toNat < h.nphase)
    | _ => true

/-- A bundle as fetched: its header, the word after it, its syllables by slot, and the decode trap it takes, with TMASK. -/
structure Fetched where
  hdr : Header
  next : Nat
  code : List (Nat × Nat)
  instrs : List Instr
  fault : Option (BitVec 6 × BitVec 8)
  deriving DecidableEq, Repr

/-- Do an M and a K syllable name one bank? A K syllable names that of its ACC field whatever its opcode (R112, R113). -/
def sameBank (code : List (Nat × Nat)) : Bool :=
  let word := fun (slot : Nat) => (code.find? fun c => c.1 == slot).map fun c => c.2
  let mbank := (word 6).bind fun w => (rawMatrix w).bind bankNamed
  mbank.isSome && mbank == (word 7).map fun w => fld w 51 3

/-- Is a header legal in a context? (R102, R116, R117) -/
def headerIn (encv : Nat) (c : Ctx) (w : Nat) : Bool :=
  let h := decodeHeader w
  headerOk encv w && match c with
    | .primary => true
    | .secondary => !h.pp && decide (h.slots.toNat < 64)
    | .handler => !h.pp && !h.gv && !h.bcv && !h.sig && decide (h.slots.toNat < 64) && decide (popc 8 h.slots.toNat = 1)

/-- Fetch a bundle and check it (R116, R126): ILLEGAL_BUNDLE before ILLEGAL_OP. -/
def Tile.fetch (x : Tile) (h : Header0) (c : Ctx) (pc : Nat) : Fetched :=
  let w := x.word c pc
  let hd := decodeHeader w
  let next := pc + bundleLen hd
  let code := if hd.sig then [] else splitSlots (slotsOf hd.slots) ((List.range (next - pc - 1)).map fun i => x.word c (pc + 1 + i))
  let raw := code.filterMap fun (cw : Nat × Nat) => rawOf (slotCls cw.1) cw.2
  let ends := raw.any isTransfer || atEnd (x.stream c).loops pc
  let succ := x.word c (pc + 3)
  let sigNext := decide (next < x.words c) && (decodeHeader (x.word c next)).sig
  let bad := decide (x.words c < next) || !headerIn h.encv c w ||
    (hd.sig && (succ.testBit 31 || (!succ.testBit 28 && decide (field succ 14 14 ≠ 0)))) ||
    (!hd.bcv && code.any fun cw => (cw.1 == 4 || cw.1 == 5) && decide (field cw.2 32 6 = 63)) ||
    sameBank code || raw.any (illegalIn h.encv c) || (c != .handler && !hd.sig && ends && !sigNext)
  let ill := (code.filter fun (cw : Nat × Nat) => (syllable h cw.1 cw.2).isNone).foldl (fun (m : BitVec 8) cw => m ||| slotBit cw.1) 0
  { hdr := hd, next := next, code := code, instrs := code.filterMap fun cw => syllable h cw.1 cw.2,
    fault := if bad then some (0x01, 0) else if ill ≠ 0 then some (0x02, ill) else none }

/-- The bundle a context fetches next. -/
def State.fetchAt (s : State) (t : Nat) (c : Ctx) (pc : Nat) : Fetched := (s.tile t).fetch (s.thdr t) c pc

/-- The gate of a bundle: its register and GH (R139). -/
def gateOf (h : Header) : Option (BitVec 3 × Bool) := if h.gv then some (h.gr, h.gh) else none

/-- The gate a bundle is evaluated on at its issue: none when it holds an engine command with DELAY ≥ 1 (R139). -/
def Fetched.issueGate (f : Fetched) : Option (BitVec 3 × Bool) :=
  if f.instrs.any fun i => decide (1 ≤ engineDelay i) then none else gateOf f.hdr

/-- Does a gate keep what it gates waiting on this tick? (DEDUCED: log 34.) -/
def Tile.gateWaits (x : Tile) (c : Ctx) (cyc : Nat) (g : Option (BitVec 3 × Bool)) : Bool := x.gateState c cyc g == .hold

/-! ## Issue (R132, R134, R137, R151, R154) -/

/-- A bundle enters its shadow; the next one may issue on the cycle after. -/
def State.shadow (s : State) (t : Nat) (c : Ctx) (b : Issued) : State :=
  match c with
  | .handler => s.updHm t fun h => { h with issued := some b, pc := b.next, next := b.cycle + 1, started := true }
  | c => s.updStream t c fun x => { x with issued := some b, pc := b.next, nextIssue := b.cycle + 1 }

/-- Does a far access write a register? -/
def Effect.gives : Effect → Bool
  | .ldf .. => true
  | .atomic .. => true
  | _ => false

/-- The numbers of a stream's own far accesses that are not performed. -/
def State.ownAccesses (s : State) (t : Nat) (c : Ctx) : List Nat :=
  ((s.ops.filter fun o => o.tile == t && o.ctx == c).map fun o => o.id) ++
    ((s.tile t).fenced.filter fun f => f.ctx == c).map fun f => f.id

/-- How many results of earlier blocks are in flight. -/
def State.inFlight (s : State) (t : Nat) (c : Ctx) : Nat :=
  let x := (s.tile t).stream c
  x.inflight.length + (x.delayed.filterMap (s.sampled t c)).length + ((s.tile t).breads.filter fun b => b.1 == c).length +
    (s.ops.filter fun o => o.tile == t && o.ctx == c && o.result.isSome).length +
    ((s.tile t).fenced.filter fun f => f.ctx == c && f.eff.gives).length

/-- The first bundle of a block: folds at 0 and a checkpoint, or the mark when more than 32 results are in flight (R120, R127, R154). -/
def State.openBlock (s : State) (t : Nat) (c : Ctx) (cyc : Nat) : State :=
  if c = .handler ∨ !((s.tile t).stream c).fresh then s
  else
    let many := decide (32 < s.inFlight t c)
    let ops := s.ownAccesses t c
    s.updTile t fun y =>
      let x := y.stream c
      let ck : Checkpoint := ⟨x.pc, cyc, x.regs, x.loops, x.rstack, x.inflight, x.delayed, y.spring, ops⟩
      (y.keep c fun _ => Shadow.empty).setStream c { x with fresh := false, foldH := 0, foldL := 0, nrm := many, ck := if many then none else some ck }

/-- The control-flow fold of a bundle's words (R127). -/
def foldWords (h : BitVec 32) (ws : List Nat) : BitVec 32 := ws.foldl (fun h w => rotl32 (h ^^^ BitVec.ofNat 32 w) 7) h

/-- A bundle that raises a decode trap issues nothing; the trap is taken where it would have committed (R116). -/
def State.issueFault (s : State) (t : Nat) (c : Ctx) (pc cyc : Nat) (code : BitVec 6) (mask : BitVec 8) : State :=
  let b : Issued :=
    { pc := pc, next := pc, cycle := cyc, slots := 0, pp := false, pops := false, sig := false, effects := [],
      causes := [⟨code, mask, s.anyInfo, BitVec.ofNat 64 pc, false, false⟩], entries := [], marks := false, fold := ((s.tile t).stream c).foldH }
  (s.shadow t c b).spend

/-- What the bundle register holds of a bundle. -/
def State.cursor (s : State) (t : Nat) (c : Ctx) (pc cyc : Nat) (f : Fetched) : Cursor :=
  let x := s.tile t
  let g := (x.stream c).regs
  { tile := t, ctx := c, cycle := cyc, tick := s.ptime.toNat, slot := 0, code := f.code, bp := readP g g.rrb f.hdr.bp,
    bcv := f.hdr.bcv, bcs := rd g.s f.hdr.bcs, bctag := rd g.st f.hdr.bcs, rrb := g.rrb, pc := pc, word := s.springWord t,
    gate := if f.issueGate.isSome then none else gateOf f.hdr, seqr := 0 }

/-- What the sequencer does of itself at the last bundle of a loop body (R171, R172). (DEDUCED: log 26.) -/
def State.bodyEnd (s : State) (f : Fetched) : State :=
  if !atEnd s.loopsNow s.cur.pc then s
  else if f.instrs.any notAtEnd then { s with cur := { s.cur with slot := 2 } }.raiseOpen 0x02
  else if f.instrs.any fun i => match i with
    | .brkl p _ => s.on p
    | _ => false then s
  else s.loopEnd

/-- A bundle that passed its decode checks issues: its shadow, its fold, its gate, and its syllables in the bundle register. -/
def State.issueBundle (s : State) (t : Nat) (c : Ctx) (pc cyc : Nat) (f : Fetched) : State :=
  let s := s.openBlock t c cyc
  let pops := c == .primary && f.instrs.any draws
  let b : Issued :=
    { pc := pc, next := f.next, cycle := cyc, slots := f.hdr.slots, pp := f.hdr.pp, pops := pops, sig := false,
      effects := [], causes := [], entries := [], marks := false, fold := ((s.tile t).stream c).foldH }
  let s := s.shadow t c b
  let x := s.tile t
  let ws := (List.range (f.next - pc)).map fun i => x.word c (pc + i)
  let s := if c = .handler then s else s.updStream t c fun y => { y with foldH := foldWords y.foldH ws }
  let s := { s with cur := s.cursor t c pc cyc f }
  let s := match gateTrap (x.gateState c cyc f.issueGate) with
    | none => s
    | some k =>
      let a := if k = 0x09 then s.gateAddr x c cyc f.issueGate else s.anyAddr
      (s.updIssued fun b => { b with causes := b.causes ++ [Cause.mk k 0 s.anyInfo a false false] }).spend
  s.bodyEnd f

/-! ## Signature bundles and re-runs (R151, R155 to R157) -/

/-- An engine write of an earlier block, which a re-run leaves pending. -/
def Delayed.kept (d : Delayed) (first : Nat) : Bool :=
  match d.op with
  | .accRow .. => decide (d.at_ < first + 3)
  | .port .. => decide (d.at_ < first + 2)
  | _ => false

/-- A stream back at its checkpoint (R155). -/
def Stream.rewind (x : Stream) (k : Checkpoint) : Stream :=
  { x with regs := k.regs, pc := k.pc, loops := k.loops, rstack := k.rstack, inflight := k.inflight
           delayed := (k.delayed.filter fun d => match d.op with
             | .sysreg .. => true
             | .sample .. => true
             | .farQuery .. => true
             | _ => false) ++ x.delayed.filter fun d => d.kept k.cycle
           issued := none, jump := none, sbuf := [], fresh := true, nrm := false, ck := none, endt := false }

/-- A failed check of a block that may run again: FAILS rises, and the block re-runs or the tile retires (R155, R156). (DEDUCED: log 33, 124.) -/
def State.failCheck (s : State) (t : Nat) (c : Ctx) (cyc : Nat) (code : BitVec 6) (k : Checkpoint) : State :=
  let n := (s.tile t).fails.toNat + 1
  let s := s.updTile t fun x => { x with fails := BitVec.ofNat 4 (min 15 n) }
  if retnOf (s.thdr t) ≤ n then
    (s.updTile t fun x => { x with retiring := some (code.setWidth 8, cyc) }).now (.tileRetire t)
  else
    let s := (s.updTile t fun x => x.restoreKept c).updStream t c fun x => x.rewind k
    let s := { s with ops := s.ops.filter fun (o : HoldOp) => !(o.tile == t && o.ctx == c && o.result.isSome && !k.ops.contains o.id) }
    let s := s.updTile t fun x => { x with fenced := x.fenced.filter fun f => f.ctx != c || k.ops.contains f.id }
    match c with
    | .primary => s.updTile t fun x => { x with spring := k.spring, prim := { x.prim with nextIssue := k.cycle, rerun := some (Rerun.mk 8 k.cycle) } }
    | c => s.updStream t c fun x => { x with nextIssue := cyc + 9 }

/-- A signature bundle issues: both folds are compared (R127, R151, R156). (DEDUCED: log 33, 124; DESIGN CHOICE: log 94.) -/
def State.signature (s : State) (t : Nat) (c : Ctx) (pc cyc : Nat) : State :=
  let s := s.openBlock t c cyc
  let x := s.tile t
  let st := x.stream c
  let okH := st.foldH == BitVec.ofNat 32 (x.word c (pc + 1))
  let okL := st.foldL ^^^ epx32 st.regs.epoch == BitVec.ofNat 32 (x.word c (pc + 2))
  let b : Issued :=
    { pc := pc, next := pc + 4, cycle := cyc, slots := 0, pp := false, pops := false, sig := true, effects := [], causes := [],
      entries := [], marks := false, fold := ((s.tile t).stream c).foldH }
  let code : BitVec 6 := if okH then 0x0C else 0x0A
  if okH && okL then
    (s.shadow t c b).updTile t fun x =>
      let y := x.stream c
      { x.setStream c { y with rerun := none } with fails := 0 }
  else
    match (if (x.word c (pc + 3)).testBit 30 || st.nrm then none else st.ck) with
    | some k => s.failCheck t c cyc code k
    | none =>
      let b := { b with causes := [⟨code, 0, s.anyInfo, s.anyAddr, false, false⟩] }
      ((s.shadow t c b).updStream t c fun x => { x with rerun := none }).spend

/-- Issue what a stream fetches: a trap, a bundle or a signature bundle. -/
def State.issueNext (s : State) (t : Nat) (c : Ctx) (pc cyc : Nat) : State :=
  let f := s.fetchAt t c pc
  match f.fault with
  | some (code, mask) => s.issueFault t c pc cyc code mask
  | none => if f.hdr.sig then s.signature t c pc cyc else s.issueBundle t c pc cyc f

/-! ## The primary stream -/

/-- Is a die scheduler halted by a full mailbox? (R367) -/
def State.tileHalted (s : State) (t : Nat) : Bool := (s.die (dieOf t)).halted

/-- May the primary stream issue on this tick, holds and gates apart? (R132, R133) -/
def State.primReady (s : State) (t : Nat) : Bool :=
  let x := s.tile t
  x.st == .bound && !x.ended && x.hm.isNone && x.enter.isNone && x.prim.issued.isNone && x.retiring.isNone && !s.tileHalted t &&
    decide (x.prim.nextIssue ≤ s.cycleOf t) && match (s.region (s.regionOf t)).st with
      | .running => true
      | _ => false

/-- Would the primary stream issue a signature bundle? -/
def State.nextIsSig (s : State) (t : Nat) : Bool :=
  let x := s.tile t
  let f := s.fetchAt t .primary x.prim.pc
  f.hdr.sig && f.fault.isNone

/-- BUNDLE_ISSUE (R132): one primary bundle of a tile issues on an unheld tick. (DESIGN CHOICE: log 1.) -/
def execBundleIssue (t : Nat) (s : State) : Out :=
  .next (if s.primReady t && !(s.region (s.regionOf t)).held && !s.nextIsSig t then s.issueNext t .primary (s.tile t).prim.pc (s.cycleOf t)
    else s)

/-- SIGNATURE_BUNDLE (R151): the primary stream's signature bundle issues on an unheld tick. -/
def execSignatureBundle (t : Nat) (s : State) : Out :=
  .next (if s.primReady t && !(s.region (s.regionOf t)).held && s.nextIsSig t then s.signature t .primary (s.tile t).prim.pc (s.cycleOf t)
    else s)

/-- BLOCK_RERUN (R155): a tick of a re-run: of its rewind, or a cycle of the block issued again; a holding far access keeps it where it stands (R134, R141). (DEDUCED: log 36.) -/
def execBlockRerun (t : Nat) (s : State) : Out :=
  match (s.tile t).prim.rerun with
  | none => .next s
  | some r =>
    if 0 < r.rewind then .next (s.updTile t fun x => { x with prim := { x.prim with rerun := some ⟨r.rewind - 1, r.cyc⟩ } })
    else if s.streamWaits t .primary then .next s
    else
      let s := s.landAll t .primary r.cyc
      let x := s.tile t
      let f := s.fetchAt t .primary x.prim.pc
      if f.fault.isNone && x.gateWaits .primary r.cyc f.issueGate then .next s
      else
        let s := if s.primReady t then s.issueNext t .primary x.prim.pc r.cyc else s
        .next (s.updTile t fun x => { x with prim := { x.prim with rerun := x.prim.rerun.map fun (y : Rerun) =>
          if y.rewind = 0 then ⟨0, y.cyc + 1⟩ else y } })

/-! ## Interlocked issue (R146, R147, R159, R192) -/

/-- The results still to be written by what a context has issued. -/
def State.pendingResults (s : State) (t : Nat) (c : Ctx) : List Result :=
  let x := s.tile t
  let fl := match c with
    | .handler => (x.hm.map fun (h : Handler) => h.flight).getD []
    | c => (x.stream c).inflight
  let dl := match c with
    | .handler => (x.hm.map fun (h : Handler) => h.delayed).getD []
    | c => (x.stream c).delayed
  (fl ++ dl.filterMap (s.sampled t c) ++ (x.breads.filterMap fun b => if b.1 = c then some b.2.2 else none) ++
    (s.ops.filterMap fun o => if o.tile = t ∧ o.ctx = c then o.result else none) ++
    x.fenced.filterMap fun f => if f.ctx = c then (match f.eff with
      | .ldf r _ => some r
      | .atomic r .. => some r
      | _ => none) else none)

/-- The system registers a context's MTSRs are still to write after a cycle. -/
def Tile.pendingSys (x : Tile) (c : Ctx) (cyc : Nat) : List (BitVec 6) :=
  (match c with
    | .handler => (x.hm.map fun (h : Handler) => h.delayed).getD []
    | c => (x.stream c).delayed).filterMap fun (d : Delayed) => match d.op with
      | .sysreg i _ => if cyc < d.at_ then some i else none
      | _ => none

/-- The flag registers that results still to land write: 0x12 MFLAGS, 0x13 VFLAGS (R134, R159). -/
def pendingFlags (rs : List Result) : List (BitVec 6) :=
  (if rs.any fun r => r.mf != 0 then [0x12] else []) ++ if rs.any fun r => r.vf != 0 then [0x13] else []

/-- Are the operands of a fetched bundle ready, and its destinations free? -/
def State.operandsReady (s : State) (t : Nat) (c : Ctx) (f : Fetched) : Bool :=
  let x := s.tile t
  let cyc := if c = .handler then s.ptime.toNat else (s.region (s.regionOf t)).rtime
  let rrb := (x.stream c).regs.rrb
  let us := f.code.filterMap fun cw => (syllable (s.thdr t) cw.1 cw.2).map fun i => usesOf cw.1 cw.2 i
  let hd : RegSet := { s := if f.hdr.bcv then [f.hdr.bcs] else [], p := [f.hdr.bp],
                       sys := (if f.hdr.gv then [BitVec.ofNat 6 (0x18 + f.hdr.gr.toNat)] else []) ++
                         if atEnd (x.stream c).loops (x.stream c).pc then loopSys else [] }
  let all := hd :: us.flatMap fun u => [u.1, u.2]
  let pend := (s.pendingResults t c).filter fun r => decide (cyc < r.land) || !(x.stream c).inflight.contains r
  let pd := pend.map fun r => r.dest
  let ps := x.pendingSys c cyc
  let pf := pendingFlags pend
  all.all fun r => !((r.dests rrb).any fun d => pd.contains d) && !((r.sys ++ r.rotates).any fun i => ps.contains i) &&
    !(r.sys.any fun i => pf.contains i)

/-- A use of a bank port by an asynchronous access of a context waits its turn. -/
def State.addPort (s : State) (t : Nat) (c : Ctx) (d : Delayed) : State :=
  match c with
  | .handler => s.updHm t fun h => { h with delayed := h.delayed ++ [d] }
  | c => s.updStream t c fun x => { x with delayed := x.delayed ++ [d] }

/-- The port uses a context waits for. -/
def Tile.portsOf (x : Tile) (c : Ctx) : List Delayed :=
  ((match c with
    | .handler => (x.hm.map fun (h : Handler) => h.delayed).getD []
    | c => (x.stream c).delayed).filter Delayed.isPort)

/-- The results of an asynchronous access land after its last port use; a store is seen as much later as its port was (R192). (DEDUCED: log 35.) -/
def Tile.portLate (x : Tile) (c : Ctx) (d : Delayed) (issue : Nat) (wr served : Bool) (cyc : Nat) : Tile :=
  let land := fun (r : Result) => if r.slot = d.slot ∧ r.issue = issue then { r with land := max r.land (cyc + if served then 1 else 2) } else r
  match c with
  | .handler => { x with hm := x.hm.map fun h => { h with flight := h.flight.map land } }
  | c => x.setStream c { x.stream c with
      inflight := (x.stream c).inflight.map land
      sbuf := if wr && !served then (x.stream c).sbuf.map fun st =>
          if st.slot = d.slot ∧ st.issue = issue then { st with seen := st.seen + 1 } else st
        else (x.stream c).sbuf }

/-- The lanes a load takes from a line whose port it has on this cycle: what the line holds now, with the buffered stores its issue cycle lets it see (R134, R187, R192). (DEDUCED: log 35.) -/
def Tile.refill (x : Tile) (c : Ctx) (slot issue : Nat) (fill : List (Nat × Nat)) : Tile :=
  let v := x.view c issue
  let m := fill.foldl (fun (m : BitVec 64) k => m ||| BitVec.twoPow 64 k.1) 0
  let word := fun (l : Nat) => ((fill.find? fun k => k.1 == l).map fun k => BitVec.ofNat 32 (readN v.spad k.2 4)).getD 0
  let put := fun (r : Result) => match r.dest with
    | .v _ => if r.slot = slot ∧ r.issue = issue then { r with value := mergeLanes m (ofLanes word) r.value } else r
    | _ => r
  match c with
  | .handler => { x with hm := x.hm.map fun h => { h with flight := h.flight.map put } }
  | c => x.setStream c { x.stream c with inflight := (x.stream c).inflight.map put }

/-- One waiting port use: it takes its port, or waits for the next cycle (R192). (DEDUCED: log 35.) -/
def State.asyncPort (s : State) (t : Nat) (c : Ctx) (cyc : Nat) (d : Delayed) : State :=
  match d.op with
  | .aport wr ln issue fill =>
    if cyc < d.at_ then s.addPort t c d
    else if s.portTaken t ln wr then
      (s.updTile t fun x => x.portLate c d issue wr false cyc).addPort t c { d with at_ := cyc + 1 }
    else (s.takeAsync t ln wr).updTile t fun x => (x.refill c d.slot issue fill).portLate c d issue wr true cyc
  | _ => s

/-- The waiting port uses of a context, in order (R192). -/
def State.asyncPorts (s : State) (t : Nat) (c : Ctx) (cyc : Nat) : State :=
  let ds := (s.tile t).portsOf c
  if ds.isEmpty then s
  else
    let s := match c with
      | .handler => s.updHm t fun h => { h with delayed := h.delayed.filter fun d => !d.isPort }
      | c => s.updStream t c fun x => { x with delayed := x.delayed.filter fun d => !d.isPort }
    ds.foldl (fun s d => s.asyncPort t c cyc d) s

/-- One line a load reads through a bank's port: its turn there, its slot, the line, and the lanes it gives (R192). -/
structure PortTurn where
  turn : Nat
  slot : Nat
  ln : Nat
  fill : List (Nat × Nat)
  deriving DecidableEq, Repr

/-- The lines the active loads of a fetched bundle read, each with its slot and its lanes (R146). (DEDUCED: log 35.) -/
def State.bundleLines (s : State) (t : Nat) (c : Ctx) (pc cyc : Nat) (f : Fetched) : List (Nat × Nat × List (Nat × Nat)) :=
  let s := { s with cur := s.cursor t c pc cyc f }
  f.code.flatMap fun cw =>
    if s.on (predOf cw.1 cw.2) then
      (lineLanes (((syllable (s.thdr t) cw.1 cw.2).map s.readAccesses).getD [])).map fun l => (cw.1, l)
    else []

/-- The lines by their turn on their bank's port: one line a cycle, in ascending order (R192). (DEDUCED: log 35.) -/
def portTurns : List (Nat × Nat × List (Nat × Nat)) → List Nat → List PortTurn
  | [], _ => []
  | (slot, ln, fill) :: ls, seen => ⟨(seen.filter (· == ln % 32)).length, slot, ln, fill⟩ :: portTurns ls (ln % 32 :: seen)

/-- An interlocked bundle issues, taking the ports its loads read through; a signature bundle, which reads EPOCH, waits for a write of it (R147, R151). (DEDUCED: log 34.) -/
def State.issueInterlocked (s : State) (t : Nat) (c : Ctx) (pc cyc : Nat) : State :=
  let f := s.fetchAt t c pc
  let x := s.tile t
  if f.fault.isSome then s.issueNext t c pc cyc
  else if f.hdr.sig then (if (x.pendingSys c cyc).contains 0x08 then s else s.issueNext t c pc cyc)
  else
    let ls := portTurns (s.bundleLines t c pc cyc f) []
    if !s.operandsReady t c f || ls.any (fun l => s.portTaken t l.ln false) || x.gateWaits c cyc f.issueGate then s
    else
      let s := (ls.filter fun l => l.turn == 0).foldl (fun s l => s.takeAsync t l.ln false) s
      let s := (ls.filter fun l => l.turn != 0).foldl (fun s l => s.addPort t c ⟨cyc + l.turn, l.slot, .aport false l.ln cyc l.fill⟩) s
      s.issueBundle t c pc cyc f

/-- May the secondary stream issue on a cycle, its slots, ports, operands and gate apart? Not after the ENDT of the task, nor while a far operation holds it (R146, R169, R182). -/
def State.secReady (s : State) (t : Nat) (cyc : Nat) : Bool :=
  let x := s.tile t
  x.st == .bound && x.secRun && !x.ended && x.sec.issued.isNone && decide (x.sec.nextIssue ≤ cyc) && !s.streamWaits t .secondary &&
    !s.tileHalted t

/-- SECONDARY_ISSUE (R146, R147, R192): the port uses that wait are tried again, and the next secondary bundle issues when its slots, ports and operands are free. -/
def execSecondaryIssue (t : Nat) (s : State) : Out :=
  let r := s.regionOf t
  let cyc := (s.region r).rtime
  let s := if s.regionMoves r then s.asyncPorts t .secondary cyc else s
  let x := s.tile t
  let used : BitVec 8 := match x.prim.issued with
    | some b => b.slots
    | none => 0
  let f := s.fetchAt t .secondary x.sec.pc
  if s.secReady t cyc && s.regionMoves r && (f.fault.isSome || f.hdr.slots &&& used == 0) then
    .next (s.issueInterlocked t .secondary x.sec.pc cyc)
  else .next s

/-- The lines of the handler area a bundle is fetched from (R353). -/
def fetchLines (pc next : Nat) : List Nat := (List.range ((4 * next - 1) / 256 - 4 * pc / 256 + 1)).map (4 * pc / 256 + ·)

/-- A handler bundle fetched from a line that holds an uncorrectable word (R188, R189). -/
def State.issueUecc (s : State) (t pc next tick : Nat) : State :=
  let x := s.tile t
  let b : Issued :=
    { pc := pc, next := pc, cycle := tick, slots := 0, pp := false, pops := false, sig := false, effects := [],
      causes := [⟨0x09, 0, s.anyInfo, (((fetchLines pc next).findSome? x.ueccWord).map (BitVec.ofNat 64)).getD s.anyAddr, false, true⟩],
      entries := [], marks := false, fold := 0 }
  (s.shadow t .handler b).spend

/-- HANDLER_BUNDLE_ISSUE (R159, R188, R353, R354, R361): the next handler bundle, on the first tick its operands are ready; the first one raises DOUBLE when it is illegal or its lines hold an uncorrectable word. (DEDUCED: log 116.) -/
def execHandlerBundleIssue (t : Nat) (s : State) : Out :=
  match (s.tile t).hm with
  | none => .next s
  | some h =>
    let tick := s.ptime.toNat
    let s := s.asyncPorts t .handler tick
    if s.streamWaits t .handler then .next s
    else if decide (tick < h.next) || h.leaving || h.waiting || h.issued.isSome || s.tileHalted t then .next s
    else
      let f := s.fetchAt t .handler h.pc
      let ls := fetchLines h.pc f.next
      let bad := ls.any (s.tile t).ueccLine
      let s := s.updTile t fun x => ls.foldl (fun (x : Tile) ln => x.scrub ln) x
      if !h.started && (bad || f.fault.isSome) then .next (s.double t)
      else if bad then
        .next (s.issueUecc t h.pc f.next tick)
      else .next (s.issueInterlocked t .handler h.pc tick)

/-! ## Gates and engine commands (R139, R140) -/

/-- The gates a tile evaluates on this tick, each with its context: its next primary bundle's, that of the secondary bundle whose operands and slots are free, and those of the engine commands due (R139, R141). (DEDUCED: log 34.) -/
def State.gatesNow (s : State) (t : Nat) : List (Ctx × Option (BitVec 3 × Bool)) :=
  let x := s.tile t
  let c := (s.region (s.regionOf t)).rtime
  let f := s.fetchAt t .primary x.prim.pc
  let prim := s.primReady t && x.prim.rerun.isNone
  let f2 := s.fetchAt t .secondary x.sec.pc
  (if prim && f.fault.isNone then [(.primary, f.issueGate)] else []) ++
  (if s.secReady t c && f2.fault.isNone && f2.issueGate.isSome && (!prim || f2.hdr.slots &&& f.hdr.slots == 0) &&
      s.operandsReady t .secondary f2 then [(.secondary, f2.issueGate)] else []) ++
  (x.mx.queue.takeWhile fun m => decide (m.start ≤ c)).map (fun m => (.primary, m.gate)) ++
  (x.far.port.takeWhile fun m => decide (m.start ≤ c)).map fun m => (m.ctx, m.gate)

/-- Does a gate of a tile ask for a hold on this tick? -/
def State.gateAsks (s : State) (t : Nat) : Bool :=
  (s.gatesNow t).any fun g => (s.tile t).gateWaits g.1 (s.region (s.regionOf t)).rtime g.2

/-- GATE_HOLD_RELEASE (R139): a held gate has been evaluated again and no longer holds. -/
def execGateHoldRelease (t : Nat) (s : State) : Out :=
  .next (if s.gateAsks t then s else s.updTile t fun x => { x with gateHeld := false })

/-- How many commands of an engine start on this tick: those due at the front of its queue, when its region moves. (DEDUCED: log 79.) -/
def State.dueCommands (s : State) (t : Nat) (far : Bool) : Nat :=
  let x := s.tile t
  let r := s.regionOf t
  let c := (s.region r).rtime
  if !s.regionMoves r then 0
  else if far then (x.far.port.takeWhile fun m => decide (m.start ≤ c)).length
  else (x.mx.queue.takeWhile fun m => decide (m.start ≤ c)).length

/-- Is the head of an engine's queue due? (DEDUCED: log 40, 79.) -/
def State.commandDue (s : State) (t : Nat) (far : Bool) : Bool := decide (0 < s.dueCommands t far)

/-- ENGINE_COMMAND_START (R139, R140): the first command of the matrix queue, or of the FAR issue port, starts on its cycle. (DEDUCED: log 79.) -/
def execEngineCommandStart (t : Nat) (far : Bool) (s : State) : Out :=
  .next (if s.commandDue t far then (if far then s.startFar t else s.startMatrix t) else s)

/-! ## Holds, timers and the handler's wait -/

/-- The tiles bound to a launch whose context is on the die. -/
def State.awake (s : State) : List Nat := (s.tiles.filter fun t => t.2.st == .bound && !s.asleep t.1).map fun t => t.1

/-- The regions whose tasks run. -/
def State.runningRegions (s : State) : List Nat :=
  (s.regions.filter fun r => match r.2.st with
    | .running => true
    | _ => false).map fun r => r.1

/-- The tiles that hold a logical position of a running region. -/
def State.runningTiles (s : State) : List Nat := s.runningRegions.flatMap fun r => (s.region r).tiles

/-- The primary streams' commit points, with the tiles whose bundle committed and its PP. -/
def State.commitAll (s : State) : List Nat → State × List (Nat × Bool)
  | [] => (s, [])
  | t :: ts =>
    let a := s.commitPrimary t
    let r := a.1.commitAll ts
    (r.1, match a.2 with
      | some pp => (t, pp) :: r.2
      | none => r.2)

/-- Every commit point of the tick, with the tiles whose primary bundle committed (R343). (DEDUCED: log 25, 118.) -/
def State.commits (s : State) : State × List (Nat × Bool) :=
  let ts := s.awake
  let a := (ts.foldl State.commitHandler s).commitAll ts
  (ts.foldl State.commitSecondary a.1, a.2)

/-- Every tile of a running region says whether a gate of it asks for a hold on this tick (R139, R141). -/
def State.settleGates (s : State) : State := s.runningTiles.foldl (fun s t => s.updTile t fun x => { x with gateHeld := s.gateAsks t }) s

/-- The regions whose RDV wait ends on this tick in their exchange windows (R71, R143). -/
def State.openWindows (s : State) : State :=
  s.mapRegions fun _ r => match r.rdv with
    | some t => if t ≤ s.ptime.toNat then { r with rdv := none, exch := some (t, r.rtime) } else r
    | none => r

/-- What asks for a hold on this tick, seen from its commit points on (R141). (DEDUCED: log 118.) -/
def State.asksNow (s : State) : State := s.openWindows.settleGates

/-- Is a handler of the region, or of a region that holds it, at work on this tick? (R141, R143) -/
def State.handlerTick (s : State) (r : Nat) : Bool :=
  (s.region r).tiles.any (fun t => (s.tile t).inHandler) || (s.joined r).any fun k => match (s.region k).exch with
    | none => false
    | some (w, _) => (s.region k).tiles.any fun t => (s.tile t).enter.isSome || (s.tile t).hm.any fun h => decide (w ≤ h.since)

/-- Does HOLDC count a held tick? The waits for an RDV, handler ticks and package-wide holds are not counted, whatever else holds the region on them; every other held tick is, those of a refresh that keeps a hold among them (R145, R257). -/
def State.isCounted (s : State) (r : Nat) : Bool :=
  s.holds r && !s.rdvWaits r && !s.pkgHeld r && !s.handlerTick r

/-- Has a region spent its hold budget? (R25) -/
def State.budgetFull (s : State) (r : Nat) : Bool := decide ((s.hdrOf (s.region r).entry).holdb ≤ (s.region r).holdc.toNat)

/-- The regions that a hold of this tick would take above HOLDB (R25). (DEDUCED: log 118.) -/
def State.overBudget (s : State) : List Nat :=
  let full := s.runningRegions.filter s.budgetFull
  if full.isEmpty then [] else full.filter s.commits.1.asksNow.isCounted

/-- HOLD_BUDGET (R25, R145, R343): a hold of this tick would take HOLDC above HOLDB; the tile with the lowest logical position among those that ask for one is trapped at its commit point of the tick. (DEDUCED: log 118.) -/
def execHoldBudget (r : Nat) (s : State) : Out :=
  if !s.overBudget.contains r then .next s
  else
    match ((s.region r).tiles.find? s.commits.1.asksNow.asksHold) <|> (s.region r).tiles.head? with
    | none => .next s
    | some t => .next (s.raiseExt t 0x12 s.anyInfo s.anyAddr).spend

/-- TIMER_COMPARE (R166): PTIME equals TCMP. -/
def execTimerCompare (t : Nat) (s : State) : Out :=
  .next (if (s.tile t).tcmp = s.ptime then s.updTile t fun x => { x with ip := x.ip ||| 1 } else s)

/-- WAITI_WAKE (R181): IP and IE share a bit, and the handler goes on. -/
def execWaitiWake (t : Nat) (s : State) : Out :=
  let x := s.tile t
  .next (if x.ip &&& x.ie.setWidth 8 ≠ 0 then s.updHm t fun h => { h with waiting := false } else s)

/-! ## Basins and the event queue -/

/-- May a BARRIVE's decrement of a tile go? (R312) -/
def State.barrReady (s : State) (t : Nat) (b : Barr) : Bool :=
  b.free && !(b.waits.any fun k => (s.outstanding t .primary).contains k || (s.outstanding t .secondary).contains k)

/-- BARRIVE_RELEASE (R308, R312): the decrements of a stream whose conditions hold are applied, or travel. -/
def execBarriveRelease (t : Nat) (sec : Bool) (s : State) : Out :=
  let c : Ctx := if sec then .secondary else .primary
  let st := (s.tile t).stream c
  let go := st.barr.filter fun b => s.barrReady t b
  let s := s.updStream t c fun x => { x with barr := x.barr.filter fun b => !go.contains b }
  .next (go.foldl (fun s b =>
    if b.count = 0 ∨ b.ref = 0 then s
    else if b.ref.getLsbD 63 then s.decrement t b.ref false b.count.toNat 0 (s.die (dieOf t)).clock
    else s.updTile t fun x => x.queueBasin 3 (b.ref.toNat % 2 ^ 22) (.arrive b.count.toNat)) s)

/-- The holding FIFO of a source, and whether its next record shows LOST: dies 0 to 3, the I/O die, the trust die (R366). -/
def State.holding (s : State) (src : Nat) : List EvRec × Bool :=
  if src < 4 then ((s.die src).fifo, (s.die src).lostNext)
  else if src = 4 then (s.iod.fifo, s.iod.lostI) else (s.iod.tfifo, s.iod.lostT)

/-- Put a holding FIFO back, its LOST mark spent. -/
def State.setHolding (s : State) (src : Nat) (rs : List EvRec) : State :=
  if src < 4 then s.updDie src fun d => { d with fifo := rs, lostNext := false }
  else if src = 4 then { s with iod := { s.iod with fifo := rs, lostI := false } }
  else { s with iod := { s.iod with tfifo := rs, lostT := false } }

/-- The records of a holding FIFO, oldest first, that find a queue entry free. -/
def drainFifo (src : Nat) : List EvRec → Bool → List (Nat × EvRec) → List (Nat × EvRec) × List EvRec
  | [], _, q => (q, [])
  | r :: rs, lost, q =>
    match freeEntry q src with
    | none => (q, r :: rs)
    | some k => drainFifo src rs false (q ++ [(k, { r with lost := lost })])

/-- EVENT_FIFO_DRAIN (R366): a holding FIFO's oldest records take the queue entries that are free. -/
def execEventFifoDrain (src : Nat) (s : State) : Out :=
  let f := s.holding src
  match f.1 with
  | [] => .next s
  | _ =>
    if (freeEntry s.iod.queue src).isNone then .next s
    else
      let d := drainFifo src f.1 f.2 s.iod.queue
      .next ({ s with iod := { s.iod with queue := d.1 } }.setHolding src d.2)

end Sys2Proof.Machine
end

