-- ==== Sys2Proof/Machine/Collect.lean ====
section
/-! DEFINITION. Reduction rounds at the Glied switches (15: R320 to R323). -/

namespace Sys2Proof.Machine

/-! ## The left fold of a round (R321) -/

/-- The elements of a chunk: 4-byte words, or halfwords for a BF16 sum. -/
def elements (size : Nat) : Nat → List Byte → List Nat
  | 0, _ => []
  | n + 1, bs => ofBytes (bs.take size) :: elements size n (bs.drop size)

/-- The size of an operation's elements. -/
def elemSize (op : BitVec 4) : Nat := if op = 3 then 2 else 4

/-- An element as it enters the fold: a BF16 widened exactly, a NaN made canonical. -/
def enterElem (op : BitVec 4) (x : Nat) : BitVec 32 :=
  let f := fun (b : BitVec 32) => if (unF32 b).isNaN then 0x7FC00000 else b
  if op = 4 then BitVec.ofNat 32 x else if op = 3 then f (BitVec.ofNat 16 x ++ (0 : BitVec 16)) else f (BitVec.ofNat 32 x)

/-- One step of the fold. -/
def foldElem (op : BitVec 4) (a b : BitVec 32) : BitVec 32 :=
  match op with
  | 0 => faddBits a b
  | 1 => (minmaxF32 true a b).1
  | 2 => (minmaxF32 false a b).1
  | 3 => faddBits a b
  | _ => a + b

/-- The output of an element: a BF16 sum rounded once. -/
def leaveElem (op : BitVec 4) (x : BitVec 32) : Nat :=
  if op = 3 then (addIEEE .bf16 .rne (unF32 x) (unF32 0x80000000)).1.toNat else x.toNat

/-- The result of a round from its contributions in ascending rank (R321). -/
def reduceRound (op : BitVec 4) (len : Nat) (cs : List (List Byte)) : List Byte :=
  let z := elemSize op
  let n := 64 * len / z
  let rows := cs.map fun b => (elements z n b).map (enterElem op)
  match rows with
  | [] => []
  | r :: rs => ((rs.foldl (fun acc row => acc.zipWith (foldElem op) row) r).map fun x => toBytes z (leaveElem op x)).flatten

/-! ## Rounds (R320, R322, R323) -/

/-- A round by its job, group and number. -/
def State.round (s : State) (job : BitVec 32) (grp : BitVec 16) (n : Nat) : Round :=
  (s.rounds.find? fun r => r.job == job && r.grp == grp && r.n == n).getD
    { job := job, grp := grp, n := n, got := [], err := false, delivered := false, late := false }

/-- Put a round back. -/
def State.setRound (s : State) (r : Round) : State :=
  { s with rounds := (s.rounds.filter fun x => !(x.job == r.job && x.grp == r.grp && x.n == r.n)) ++ [r] }

/-- ERR in the chunk basin of a contributor; its FRED has no further event (R320, R323). (DEDUCED: log 60.) -/
def State.errContributor (s : State) (c : Contribution) : State :=
  match c.tile with
  | none => s
  | some (t, slot) => match (s.copyAt t slot.toNat).bind (s.recOf t) with
    | some r => s.cancelRec t r
    | none => s

/-- Does a contribution disagree with those before it, or repeat a rank? (R320) -/
def disagrees (c : Contribution) (got : List Contribution) : Bool :=
  got.any fun x => x.len != c.len || x.count != c.count || x.op != c.op || x.rank == c.rank

/-- A round's deadline as moved so far: every amount applied to the job, by whichever launch of it, at a Tb that is not after it moves it (R323). (DESIGN CHOICE: log 11; DEDUCED: log 69.) -/
def State.deadline (s : State) (job : BitVec 32) (grp : BitVec 16) (n : Nat) : Nat :=
  (sortBy (fun (a b : BitVec 32 × Nat × Nat) => decide (a.2.1 ≤ b.2.1)) (s.moved.filter fun m => m.1 == job)).foldl (fun d m => if m.2.1 ≤ d then d + m.2.2 else d) (Config.roundDeadline job grp n)

/-- The result on its way to every contributor of the package, each sector on its own (R299, R321). -/
def State.multicast (s : State) (r : Round) : State :=
  match r.got with
  | [] => s
  | c :: _ =>
    let data := reduceRound c.op c.len ((sortBy (fun (a b : Contribution) => decide (a.rank ≤ b.rank)) r.got).map fun x => x.data)
    r.got.foldl (fun s x => match x.tile with
      | none => s
      | some (t, slot) => (List.range x.len).foldl (fun s i =>
          s.later (.fredResultSector t slot i (BitVec.ofNat 512 (ofBytes ((data.drop (64 * i)).take 64))))) s) s

/-- CONTRIBUTION_ARRIVAL (R320 to R323): a contribution joins its round, makes it an error round, or comes too late. -/
def execContributionArrival (s : State) : Out :=
  match s.ext with
  | .contribution c =>
    let r := s.round c.job c.grp c.round
    let first := r.got.isEmpty && !r.err && !r.delivered && !r.late
    let due := s.deadline c.job c.grp c.round
    if r.delivered || r.late || decide (due < s.ptime.toNat) then .next (s.errContributor c)
    else if r.err then .next (s.errContributor c)
    else if disagrees c r.got then
      let s := (r.got ++ [c]).foldl State.errContributor s
      .next (s.setRound { r with got := [], err := true })
    else
      let r := { r with got := r.got ++ [c] }
      let s := if first then s.after (due - s.ptime.toNat) (.roundDeadline c.grp c.round) else s
      .next (if r.got.length = c.count then (s.setRound { r with got := [], delivered := true }).multicast r else s.setRound r)
  | _ => .next s

/-- A round that has not gathered by its deadline, as moved so far, ends (R323). -/
def State.endRound (s : State) (r : Round) : State :=
  if r.delivered || r.err || r.late || decide (s.ptime.toNat < s.deadline r.job r.grp r.n) then s
  else (r.got.foldl State.errContributor s).setRound { r with got := [], late := true }

/-- ROUND_DEADLINE (R323): the rounds of that number whose deadline has come end; of those it has moved away from, the first to come is looked at again then. -/
def execRoundDeadline (grp : BitVec 16) (n : Nat) (s : State) : Out :=
  let rs := s.rounds.filter fun r => r.grp == grp && r.n == n
  let s := rs.foldl State.endRound s
  let more := ((rs.filter fun r => !r.delivered && !r.err && !r.late).map fun r => s.deadline r.job grp n).filter fun d => decide (s.ptime.toNat < d)
  match more.min? with
  | none => .next s
  | some d => .next (s.after (d - s.ptime.toNat) (.roundDeadline grp n))

end Sys2Proof.Machine
end

