-- ==== Sys2Proof/Machine/Image.lean ====
section
/-! DEFINITION. Program images: the kernel header and its sections as they stand in HBM, and the two passes of checks over them (01: R14 to R34; 04: R96; 17: R353; 24: R407). -/

namespace Sys2Proof.Machine

/-- What refuses a launch: the status code and FOFF (R66, R67). -/
abbrev Fail := Byte × BitVec 32

/-- REFUSED at an offset. -/
def refusedAt (off : Nat) : Fail := (0x01, BitVec.ofNat 32 off)

/-- The first failure of a list of checks. -/
def firstFail (l : List (Option Fail)) : Option Fail := l.findSome? id

/-- A check that refuses the launch at an offset. -/
def must (ok : Bool) (off : Nat) : Option Fail := if ok then none else some (refusedAt off)

/-! ## Reading an image -/

/-- A number of the image: a place, an offset and a size. (DEDUCED: log 92.) -/
def State.img (s : State) (base off n : Nat) : Nat := readN s.mem (base + off) n

/-- An extent declaration as written (R31). -/
def State.imgExtent (s : State) (base i : Nat) : ExtentDecl :=
  let o := 0x100 + 32 * i
  let a := s.img base (o + 0x11) 1
  { vbase := s.img base o 8, len := s.img base (o + 8) 8, cls := BitVec.ofNat 2 (s.img base (o + 0x10) 1), r := a.testBit 0,
    w := a.testBit 1, a := a.testBit 2, coh := BitVec.ofNat 2 (field a 3 2), fmt := BitVec.ofNat 4 (s.img base (o + 0x12) 1),
    peer := s.img base (o + 0x14) 4 }

/-- Where the section directory begins (R18). -/
def dirBase (nphase : Nat) : Nat := 0x500 + 384 * nphase

/-- A section directory entry as written (R15). -/
def State.imgSection (s : State) (base nphase j : Nat) : Section :=
  let o := dirBase nphase + 16 * j
  { ty := s.img base o 1, var := s.img base (o + 1) 1, owner := s.img base (o + 2) 2, len := s.img base (o + 4) 4,
    off := s.img base (o + 8) 8 }

/-- The kernel header as written (R18). -/
def State.imgHeader (s : State) (base : Nat) : Header0 :=
  let u := s.img base
  let flags := u 0x007 1
  let np := u 0x00E 1
  { encv := u 0x006 1, idem := flags.testBit 0, spol := flags.testBit 1, tprof := u 0x008 4, nphase := np,
    widw := (List.range 6).map fun i => u (0x010 + i) 1, widb := (List.range 6).map fun i => u (0x016 + i) 1,
    tasks := u 0x01C 4, stagger := u 0x020 2, holdb := u 0x024 4, ppb := u 0x028 4, retn := u 0x02C 1,
    seed := BitVec.ofNat 64 (u 0x030 8), sbase := u 0x038 8, qstride := u 0x040 8, tstride := u 0x048 4, slen := u 0x050 8,
    regions := (List.range (u 0x00C 1)).map fun r => (BitVec.ofNat 4 (u (0x060 + 4 * r) 4 / 256), u (0x060 + 4 * r) 4 % 32),
    variants := (List.range (u 0x00F 1)).map fun v => u (0x080 + 8 * v) 2,
    extents := (List.range (u 0x00D 1)).map (s.imgExtent base), phases := (List.range (96 * np)).map fun i => u (0x500 + 4 * i) 4,
    sections := (List.range (u 0x022 2)).map (s.imgSection base np) }

/-! ## Pass 1 (R407): each field on its own -/

/-- Reserved bytes are 0, each a failure of its own offset (R18). -/
def State.zeroBytes (s : State) (base off n : Nat) : Option Fail :=
  firstFail ((List.range n).map fun i => must (s.img base (off + i) 1 == 0) (off + i))

/-- The reserved bits and bytes of an extent declaration (R31). -/
def State.extReserved (s : State) (base o : Nat) : List (Option Fail) :=
  [must (s.img base (o + 0x11) 1 / 32 == 0) (o + 0x11), must (s.img base (o + 0x12) 1 / 16 == 0) (o + 0x12),
   s.zeroBytes base (o + 0x13) 1, s.zeroBytes base (o + 0x18) 8]

/-- Pass 1, from byte 0 to the end of the directory (R18, R23, R27, R29, R31, R33). A reserved WIDB code fails here. (DEDUCED: log 80; DESIGN CHOICE: log 94, 98.) -/
def State.pass1 (s : State) (base : Nat) (h : Header0) : Option Fail :=
  let u := s.img base
  let within := fun (lo n hi : Nat) => decide (lo ≤ n) && decide (n ≤ hi)
  let widths := (List.range 6).map fun i => ((h.widw.take (i + 1)).sum, h.widw.getD i 0)
  firstFail (
    [must (u 0x000 4 == 0x44594B48) 0x000, must (u 0x004 2 != 0) 0x004,
     if within 1 h.encv 3 then none else some (0x02, 0x006), must (u 0x007 1 / 4 == 0) 0x007,
     if h.tprof = (s.iod.dprof.getD 0 0).toNat then none else some (0x03, 0x008),
     must (within 1 h.regions.length 8) 0x00C, must (within 0 h.extents.length 32) 0x00D, must (within 1 h.nphase 64) 0x00E,
     must (within 1 h.variants.length 16) 0x00F] ++
    (widths.mapIdx fun i w => must (decide (w.2 ≤ 64) && decide (w.1 ≤ 64)) (0x010 + i)) ++
    (h.widb.mapIdx fun i b => must (decide (b ≤ 6)) (0x016 + i)) ++
    [must (h.tasks != 0) 0x01C, must (u 0x022 2 != 0) 0x022, must (h.holdb != 0) 0x024, must (decide (h.retn ≤ 15)) 0x02C,
     s.zeroBytes base 0x02D 3, must (h.tstride != 0) 0x048, s.zeroBytes base 0x04C 4, s.zeroBytes base 0x058 8] ++
    ((List.range 8).map fun r => must (field (u (0x060 + 4 * r) 4) 12 20 == 0 && field (u (0x060 + 4 * r) 4) 5 3 == 0) (0x060 + 4 * r)) ++
    ((List.range 16).map fun v => s.zeroBytes base (0x082 + 8 * v) 6) ++
    ((List.range 32).flatMap fun i => s.extReserved base (0x100 + 32 * i)) ++
    (h.phases.mapIdx fun i w => must (w / 2 ^ 29 == 0) (0x500 + 4 * i)))

/-! ## Pass 2 (R407): the relations -/

/-- The launch tiles in order, each as die, region and logical position (R17). -/
def launchTiles (h : Header0) : List (Nat × Nat × Nat) :=
  (List.range 4).flatMap fun d => (h.regions.mapIdx fun i r => (i, r)).flatMap fun p =>
    if p.2.1.getLsbD d then (List.range (4 * p.2.2)).map fun l => (d, p.1, l) else []

/-- The nodes a launch's regions have on a die. -/
def dieNodes (h : Header0) (d : Nat) : Nat := (h.regions.map fun r => if r.1.getLsbD d then r.2 else 0).sum

/-- The nodes of the largest region. -/
def mostNodes (h : Header0) : Nat := (h.regions.map fun r => r.2).foldl max 0

/-- The highest die the regions name. -/
def topDie (h : Header0) : Nat := ((List.range 4).filter fun d => h.regions.any fun r => r.1.getLsbD d).foldl max 0

/-- The largest value a binding takes in a launch (R29). -/
def topBinding (h : Header0) (arg rank b : Nat) : Nat :=
  match b with
  | 1 => 4 * mostNodes h - 1
  | 2 => h.regions.length - 1
  | 3 => topDie h
  | 4 => rank
  | 5 => h.tasks - 1
  | 6 => arg
  | _ => 0

/-- Row 2: the fields of WID (R29, R30). (DEDUCED: log 80; DESIGN CHOICE: log 126.) -/
def widOk (h : Header0) (arg rank i : Nat) : Bool :=
  let b := h.widb.getD i 0
  let w := h.widw.getD i 0
  (decide (w = 0) == decide (b = 0)) && (b == 0 || !(h.widb.take i).contains b) && (b == 0 || decide (topBinding h arg rank b < 2 ^ w))

/-- Row 5: the nodes of the regions up to one (R23). -/
def regionOk (h : Header0) (r : Nat) : Bool :=
  let x := h.regions.getD r (0, 0)
  decide (1 ≤ x.2) && decide (x.2 ≤ 24) && (List.range 4).all fun d => decide (dieNodes { h with regions := h.regions.take (r + 1) } d ≤ 24)

/-- Row 6: LIVE of a variant (R27). -/
def variantOk (h : Header0) (v : Nat) : Bool :=
  let n := h.variants.getD v 0
  decide (1 ≤ n) && if v = 0 then decide (n = 4 * mostNodes h) else decide (n < h.variants.getD (v - 1) 0)

/-- Do two spans overlap? -/
def spansMeet (a n b m : Nat) : Bool := decide (a < b + m) && decide (b < a + n) && decide (0 < n) && decide (0 < m)

/-- Row 7: an extent by itself and against those before it (R31, R32). The class and COH are checked as whole bytes and fields. -/
def extentOk (h : Header0) (clsByte : Nat) (i : Nat) : Bool :=
  match h.extents[i]? with
  | none => true
  | some x =>
    decide (x.vbase < 2 ^ 56) && decide (x.vbase % 256 = 0) && decide (x.len ≠ 0) && decide (x.len % 256 = 0) &&
    decide (x.vbase + x.len ≤ 2 ^ 56) && decide (clsByte ≤ 3) && x.coh != 3 && (x.cls == 3 || x.peer == 0) &&
    !((h.extents.take i).any fun y => spansMeet x.vbase x.len y.vbase y.len) && (x.r || x.w) && (x.coh == 0 || x.cls == 1) &&
    !(x.a && x.cls == 0) && (decide (x.fmt.toNat < 7) || x.fmt == 15) && (x.fmt != 5 || h.encv == 3) &&
    (x.cls != 0 || decide (x.vbase % 2 ^ 26 = 0))

/-- Row 8: a word of the phase table (R33, R34). -/
def phaseWordOk (w : Nat) : Bool :=
  if w.testBit 28 then decide (w % 2 ^ 14 ≤ field w 14 14) && decide (256 ≤ w % 2 ^ 14) else w == 0

/-- Row 9: a directory entry (R14 to R16, R353). `addr` is the address a DATA section begins with. A channel program's node is one the launch has on its die, and a DATA section holds its address. (DEDUCED: log 80; DESIGN CHOICE: log 95, 96.) -/
def sectionOk (h : Header0) (hlen addr j : Nat) : Bool :=
  match h.sections[j]? with
  | none => true
  | some x =>
    decide (1 ≤ x.ty) && decide (x.ty ≤ 6) && (x.var == 255 || decide (x.var < h.variants.length)) && !(x.ty == 2 && h.encv == 1) &&
    (match x.ty with
      | 3 => decide (x.owner < 384) && decide (x.owner % 96 / 4 < dieNodes h (x.owner / 96))
      | 4 => decide (x.owner < 4)
      | _ => decide (x.owner < (launchTiles h).length)) &&
    decide (x.off % 256 = 0) && decide (256 * hlen ≤ x.off) &&
    !((h.sections.take j).any fun y => spansMeet x.off x.len y.off y.len) &&
    (x.ty != 6 || (decide (8 ≤ x.len) && decide (0x10000 ≤ addr)))

/-- Does a section belong to a variant? -/
def Section.forVar (x : Section) (v : Nat) : Bool := x.var == 255 || x.var == v

/-- The sections of a type for an owner and a variant, each with its place in the directory. -/
def sectionsOf (h : Header0) (ty owner v : Nat) : List (Nat × Section) :=
  (h.sections.mapIdx fun j x => (j, x)).filter fun p => p.2.ty == ty && p.2.owner == owner && p.2.forVar v

/-- Has a launch tile a logical position under a variant? (R28) -/
def hasPos (h : Header0) (v lt : Nat) : Bool :=
  match (launchTiles h)[lt]? with
  | none => false
  | some p => decide (p.2.2 < posCount (h.variants.getD v 0) ((h.regions.getD p.2.1 (0, 0)).2))

/-- Row 11: a variant lacks a stream, or has one too many (R17); the lacking one is reported first. (DEDUCED: log 80; DESIGN CHOICE: log 97.) -/
def streamsFail (h : Header0) (dir v : Nat) : Option Fail :=
  let n := (launchTiles h).length
  let lacks := (List.range n).any fun t => hasPos h v t && (sectionsOf h 1 t v).isEmpty
  if lacks then some (refusedAt (0x080 + 8 * v))
  else firstFail (h.sections.mapIdx fun j x =>
    if x.ty = 1 && x.forVar v && (!hasPos h v x.owner || ((sectionsOf h 1 x.owner v).head?.map Prod.fst) != some j) then
      some (refusedAt (dir + 16 * j))
    else none)

/-- The lengths of a launch tile's streams under a variant. -/
def streamBytes (h : Header0) (v lt : Nat) : Nat :=
  (((sectionsOf h 1 lt v).head?.map fun p => p.2.len).getD 0) + (((sectionsOf h 2 lt v).head?.map fun p => p.2.len).getD 0)

/-- Row 12: the streams of a launch tile fit its store (R96). -/
def storesFail (h : Header0) (dir v : Nat) : Option Fail :=
  (List.range (launchTiles h).length).findSome? fun t =>
    match (sectionsOf h 1 t v).head? with
    | some p => if 262144 < streamBytes h v t then some (refusedAt (dir + 16 * p.1)) else none
    | none => none

/-- Pass 2, row by row. (DEDUCED: log 80; DESIGN CHOICE: log 126.) -/
def State.pass2 (s : State) (base : Nat) (h : Header0) (arg rank : Nat) : Option Fail :=
  let u := s.img base
  let hlen := u 0x004 2
  let dir := dirBase h.nphase
  let stop := dir + 16 * h.sections.length
  let blank := fun (o n : Nat) => (List.range n).all fun i => u (o + i) 1 == 0
  firstFail (
    [must (decide (stop ≤ 256 * hlen)) 0x004] ++
    ((List.range 6).map fun i => must (widOk h arg rank i) (0x016 + i)) ++
    [must (decide (h.tstride * (launchTiles h).length ≤ h.qstride)) 0x048,
     must (decide (h.tasks * h.qstride ≤ h.slen) && decide (h.sbase + h.slen ≤ 2 ^ 64)) 0x050] ++
    ((List.range 8).map fun r => must (if r < h.regions.length then regionOk h r else blank (0x060 + 4 * r) 4) (0x060 + 4 * r)) ++
    ((List.range 16).map fun v => must (if v < h.variants.length then variantOk h v else blank (0x080 + 8 * v) 8) (0x080 + 8 * v)) ++
    ((List.range 32).map fun i =>
      let o := 0x100 + 32 * i
      must (if i < h.extents.length then extentOk h (u (o + 0x10) 1) i else blank o 32) o) ++
    (h.phases.mapIdx fun i w => must (phaseWordOk w) (0x500 + 4 * i)) ++
    (h.sections.mapIdx fun j x => must (sectionOk h hlen (u x.off 8) j) (dir + 16 * j)) ++
    [s.zeroBytes base stop (256 * hlen - stop)] ++
    ((List.range h.variants.length).map (streamsFail h dir)) ++
    ((List.range h.variants.length).map (storesFail h dir)))

end Sys2Proof.Machine
end

