-- ==== Sys2Proof/Machine/Place.lean ====
section
/-! DEFINITION. Placement: physical extent tables, the choice of bases and variant, the checks of channel programs, and binding a launch to its tiles and sequencers (04: R74 to R78, R82 to R84, R96; 12: R115, R245, R247, R249; 13: R262, R263; 18: R373, R385). -/

namespace Sys2Proof.Machine

/-! ## Physical extent tables (R83, R84, R373) -/

/-- A page translated for placement at its home slice, which walks on a miss and warns of a malformed entry (R81, R88). -/
def State.placeLeaf (s : State) (e : BitVec 8) (asid : BitVec 16) (va : Nat) : State × Option TlbEntry :=
  let h := s.homeOf asid va
  match (s.tlbAt h).find? fun x => x.maps asid va with
  | some x => (s, some x)
  | none =>
    match s.walk h.1 asid va with
    | .leaf l n =>
      let x : TlbEntry := ⟨asid, if n = 1 then va / 2 ^ 26 * 1024 else va / 65536, n == 1, l⟩
      (s.installBoth h va x, some x)
    | .none => (s, none)
    | .bad level pa =>
      (State.spend <| s.post { EvRec.warning s h.1 with
        info := 0x03, lte := e, asid := asid, mask := BitVec.ofNat 8 level, addr := BitVec.ofNat 64 pa }, none)

/-- Does a leaf grant at least an extent's attributes? (R84) -/
def leafGrants (x : ExtentDecl) (w : W64) : Bool := (!x.r || leafRead w) && (!x.w || leafWrite w) && (!x.a || leafAtomic w)

/-- The dies the regions of a launch name. -/
def namedDies (h : Header0) : List Nat := (List.range 4).filter fun d => h.regions.any fun r => r.1.getLsbD d

/-- The slab a leaf names for a SCHED extent, where R82, R84 and R373 accept it. (PRESUMED: log 22.) -/
def schedSlab (h : Header0) (x : ExtentDecl) (y : TlbEntry) : Option Nat :=
  let n := field y.leaf.toNat 16 14
  if y.big && leafKind y.leaf == 1 && leafGrants x y.leaf && field y.leaf.toNat 30 22 == 0 && decide (n < 12288) &&
    (namedDies h).contains (n / 3072) && decide (n % 16 ≠ 15) then some n else none

/-- The slabs of a SCHED extent from an address on. -/
def State.schedSlabs (s : State) (h : Header0) (e : BitVec 8) (asid : BitVec 16) (x : ExtentDecl) : Nat → Nat → State × Option (List Nat)
  | 0, _ => (s, some [])
  | n + 1, va =>
    let a := s.placeLeaf e asid va
    match a.2.bind (schedSlab h x) with
    | none => (a.1, none)
    | some k => let r := a.1.schedSlabs h e asid x n (va + 2 ^ 26); (r.1, r.2.map fun ks => k :: ks)

/-- A run put in front of the runs after it, joined where they are contiguous (R83). -/
def joinRun (r : Nat × Nat × Nat) : List (Nat × Nat × Nat) → List (Nat × Nat × Nat)
  | [] => [r]
  | q :: qs => if r.2.1 + r.2.2 = q.2.1 then (r.1, r.2.1, r.2.2 + q.2.2) :: qs else r :: q :: qs

/-- A page put in front of the pages after it, joined where they are contiguous. -/
def joinPage (r : Nat × Nat) : List (Nat × Nat) → List (Nat × Nat)
  | [] => [r]
  | q :: qs => if r.1 + r.2 = q.1 then (r.1, r.2 + q.2) :: qs else r :: q :: qs

/-- The runs and the pages of a CACHED extent from an offset on; `fuel` bounds the pages. -/
def State.cachedRuns (s : State) (e : BitVec 8) (asid : BitVec 16) (x : ExtentDecl) :
    Nat → Nat → State × Option (List (Nat × Nat × Nat) × List (Nat × Nat))
  | 0, _ => (s, some ([], []))
  | fuel + 1, o =>
    if x.len ≤ o then (s, some ([], []))
    else
      let va := x.vbase + o
      let a := s.placeLeaf e asid va
      match a.2 with
      | none => (a.1, none)
      | some y =>
        if leafKind y.leaf = 0 && leafGrants x y.leaf then
          let size := if y.big then 2 ^ 26 else 65536
          let n := min (x.len - o) (size - va % size)
          let r := a.1.cachedRuns e asid x fuel (o + n)
          (r.1, r.2.map fun k => (joinRun (o, leafPA y.leaf y.big va, n) k.1, joinPage (va / size * (size / 65536), size / 65536) k.2))
        else (a.1, none)

/-- The physical form of one extent. -/
def State.physExtent (s : State) (h : Header0) (e : BitVec 8) (x : ExtentDecl) : State × Option ExtentPhys :=
  let asid := (s.entry e).asid
  match x.cls with
  | 0 => let r := s.schedSlabs h e asid x ((x.len + 2 ^ 26 - 1) / 2 ^ 26) x.vbase; (r.1, r.2.map fun l => ⟨[(x.vbase / 65536, 1024 * l.length)], l, []⟩)
  | 1 => let r := s.cachedRuns e asid x (x.len / 65536 + 2) 0; (r.1, r.2.map fun l => ⟨l.2, [], l.1⟩)
  | _ => (s, some ⟨[], [], []⟩)

/-- The physical extent table from extent `i` on, with what is used of the 512 runs and slabs, or the first extent that fails. -/
def State.physTable (s : State) (h : Header0) (e : BitVec 8) : Nat → Nat → List ExtentDecl → State × Except Fail (List ExtentPhys)
  | _, _, [] => (s, .ok [])
  | i, used, x :: xs =>
    let a := s.physExtent h e x
    match a.2 with
    | none => (a.1, .error (refusedAt (0x100 + 32 * i)))
    | some p =>
      let n := used + p.slabs.length + p.runs.length
      if 512 < n then (a.1, .error (refusedAt (0x100 + 32 * i)))
      else let r := a.1.physTable h e (i + 1) n xs; (r.1, r.2.map fun ps => p :: ps)

/-! ## Bases and live tiles (R75, R76) -/

/-- The regions of a launch on a die, each with its index, its first logical node on the die and its nodes. -/
def dieRegions (h : Header0) (d : Nat) : List (Nat × Nat × Nat) :=
  (List.range h.regions.length).filterMap fun i =>
    let r := h.regions.getD i (0, 0)
    if r.1.getLsbD d then some (i, dieNodes { h with regions := h.regions.take i } d, r.2) else none

/-- The tiles of a run of nodes that are not DEAD, in the order of R75. -/
def State.liveTiles (s : State) (d node nodes : Nat) : List Nat :=
  ((List.range (4 * nodes)).map fun i => 96 * d + 4 * node + i).filter fun t => (s.tile t).st != .dead

/-- Does a launch hold its place on the package? (R65) -/
def Entry.live (x : Entry) : Bool := x.st == .admitted || x.st == .running || x.st == .parked

/-- Is a node free for a launch? `timed` asks only after nodes of timed launches, as step 4 of R67 does for a dynamic one (R67, R76). -/
def State.nodeFree (s : State) (e : BitVec 8) (timed : Bool) (d node : Nat) : Bool :=
  !(s.entries.any fun p => p.1 != e.toNat && p.2.live && !(timed && p.2.ctl.getLsbD 1) &&
    match p.2.hdr, p.2.bases.getD d none with
    | some h, some b => decide (b ≤ node) && decide (node < b + dieNodes h d)
    | _, _ => false)

/-- Is a variant usable on a die at a base? (R28) -/
def State.usableAt (s : State) (h : Header0) (v d b : Nat) : Bool :=
  (dieRegions h d).all fun r => decide (posCount (h.variants.getD v 0) r.2.2 ≤ (s.liveTiles d (b + r.2.1) r.2.2).length)

/-- The bases on a die that meet conditions 1 and 2, ascending. -/
def State.candidates (s : State) (e : BitVec 8) (h : Header0) (timed : Bool) (d : Nat) : List Nat :=
  (List.range (25 - dieNodes h d)).filter fun b =>
    ((List.range (dieNodes h d)).all fun i => s.nodeFree e timed d (b + i)) &&
      (List.range h.variants.length).any fun v => s.usableAt h v d b

/-! ## Channel programs (R115, R245, R247, R249) -/

/-- The 64-bit words of a section. -/
def State.chanWords (s : State) (base : Nat) (x : Section) : List Nat :=
  (List.range (x.len / 8)).map fun i => s.img base (x.off + 8 * i) 4 * 2 ^ 32 + s.img base (x.off + 8 * i + 4) 4

/-- A segment: where in its order of parts it stands, its levels, those named, and its template. -/
structure Seg where
  part : Nat
  begun : Bool
  nest : List (Nat × Int × Int × Int)
  named : List Nat
  tmpl : List Instr
  deriving DecidableEq, Repr

/-- A segment with no syllable yet. -/
def Seg.empty : Seg := { part := 0, begun := false, nest := flatNest, named := [], tmpl := [] }

/-- The segments of a program up to its THALT, each with its LEN; none when the structure of R247 or a count of R249 is broken, or a word is no syllable (R115). -/
def segments : List Nat → Seg → Option (List (Seg × Nat))
  | [], _ => none
  | w :: ws, g =>
    match decodeWord .channel w with
    | none => none
    | some .thalt => if g.begun then none else some []
    | some (.troute _) => if g.part = 0 then segments ws { g with begun := true } else none
    | some (.waitc n) => if g.part = 0 && n != 0 then segments ws { g with begun := true } else none
    | some (.tnest lv n rs cs ds) =>
      if g.part ≤ 1 && n != 0 && !g.named.contains lv.toNat then
        segments ws { g with part := 1, begun := true, named := lv.toNat :: g.named,
                             nest := g.nest.set lv.toNat (n.toNat, rs.toInt, cs.toInt, ds.toInt) }
      else none
    | some (.tend len) =>
      if len != 0 && !g.tmpl.isEmpty && decide (g.tmpl.length ≤ 256) then (segments ws Seg.empty).map fun r => (g, len.toNat) :: r
      else none
    | some i => segments ws { g with part := 2, begun := true, tmpl := g.tmpl ++ [i] }

/-- A command's pseudo-channel, OFS, and whether it takes the column bus. -/
def cmdPlace : Instr → Nat × Nat × Bool
  | .act pc o _ _ => (pc.toNat, o.toNat, false)
  | .rd pc o _ _ _ _ => (pc.toNat, o.toNat, true)
  | .wr pc o _ _ _ _ => (pc.toNat, o.toNat, true)
  | .pre pc o _ => (pc.toNat, o.toNat, false)
  | .prea pc o => (pc.toNat, o.toNat, false)
  | .ref pc o => (pc.toNat, o.toNat, false)
  | .refpb pc o _ => (pc.toNat, o.toNat, false)
  | _ => (0, 0, false)

/-- The banks open after a command, in OFS order; none where the sequence of R249 is broken. -/
def State.bankStep (s : State) (len : Nat) (opened : Option (List Nat)) (i : Instr) : Option (List Nat) :=
  opened.bind fun os =>
    let key := fun (pc : BitVec 1) (bk : BitVec 4) => pc.toNat * 16 + bk.toNat
    let fits := fun (o n : Nat) => decide (o + n ≤ len)
    match i with
    | .act pc _ bk _ => if os.contains (key pc bk) then none else some (key pc bk :: os)
    | .rd pc _ bk _ _ _ => if os.contains (key pc bk) then some os else none
    | .wr pc _ bk _ _ _ => if os.contains (key pc bk) then some os else none
    | .pre pc o bk => if os.contains (key pc bk) && fits o.toNat (s.profLo 1) then some (os.erase (key pc bk)) else none
    | .prea pc o =>
      let rest := os.filter fun k => k / 16 != pc.toNat
      if rest.length = os.length || fits o.toNat (s.profLo 1) then some rest else none
    | .ref pc o => if os.all (fun k => k / 16 != pc.toNat) && fits o.toNat (s.profHi 7) then some os else none
    | .refpb _ o _ => if fits o.toNat (s.profLo 7) then some os else none
    | _ => none

/-- The least and the greatest value an affine address takes over the levels (R249). -/
def corners (a : Int) (strides : List (Nat × Int)) : Int × Int :=
  strides.foldl (fun m x =>
    let d := (x.1 - 1 : Int) * x.2
    (m.1 + min 0 d, m.2 + max 0 d)) (a, a)

/-- Are a command's addresses within the limits at every corner? `slabs` counts the bound slabs of each pseudo-channel, `live` says which TL name live tiles of the node (R249). -/
def addrOk (nest : List (Nat × Int × Int × Int)) (slabs : Nat × Nat) (live : Nat → Bool) (i : Instr) : Bool :=
  let rows := nest.map fun n => (n.1, n.2.1)
  let cols := nest.map fun n => (n.1, n.2.2.1)
  let secs := nest.map fun n => (n.1, n.2.2.2)
  let inside := fun (c : Int × Int) (lo hi : Int) => decide (lo ≤ c.1) && decide (c.2 ≤ hi)
  let column := fun (col : BitVec 4) (tl : BitVec 2) (sec : BitVec 16) =>
    inside (corners col.toNat cols) 0 15 && inside (corners sec.toNat secs) 1024 65535 && live tl.toNat
  match i with
  | .act pc _ _ row =>
    let c := corners row.toNat rows
    inside c 0 65535 && decide (c.2 < 4096 * (if pc.toNat = 0 then slabs.1 else slabs.2 : Nat))
  | .rd _ _ _ col tl sec => column col tl sec
  | .wr _ _ _ col tl sec => column col tl sec
  | _ => true

/-- The checks of one segment (R249). -/
def State.segOk (s : State) (slabs : Nat × Nat) (live : Nat → Bool) (g : Seg × Nat) : Bool :=
  let cmds := sortBy (fun (a b : Instr) => decide ((cmdPlace a).2.1 ≤ (cmdPlace b).2.1)) g.1.tmpl
  let places := g.1.tmpl.map cmdPlace
  let reads := (g.1.tmpl.filter fun i => match i with
    | .rd .. => true
    | _ => false).length
  (places.all fun p => decide (p.2.1 < g.2)) && decide places.Nodup && cmds.foldl (s.bankStep g.2) (some []) == some [] &&
    decide (reads ≤ 128) && g.1.tmpl.all (addrOk g.1.nest slabs live)

/-- The physical slabs of a launch on a pseudo-channel, in ascending virtual address: logical slab ls is the one at ls (R82, R245). -/
def slabsOn (h : Header0) (phys : List ExtentPhys) (q pc : Nat) : List Nat :=
  let all := (h.extents.zip phys).flatMap fun p => p.2.slabs.mapIdx fun k n => (p.1.vbase + k * 2 ^ 26, n)
  let mine := all.filter fun x => x.2 / 16 == (seqStack q * 32 + seqChan q) * 2 + pc
  (sortBy (fun (a b : Nat × Nat) => decide (a.1 ≤ b.1)) mine).map fun x => x.2

/-- The region, its node, and the tiles of its logical positions that a logical node of a die stands for, at a base under a variant. -/
def State.nodeAt (s : State) (h : Header0) (d b v j : Nat) : Option (Nat × Nat × List Nat) :=
  ((dieRegions h d).find? fun r => decide (r.2.1 ≤ j) && decide (j < r.2.1 + r.2.2)).map fun r =>
    (r.1, j - r.2.1, (s.liveTiles d (b + r.2.1) r.2.2).take (posCount (h.variants.getD v 0) r.2.2))

/-- Condition 3 of R76 for one CHANPROG section. -/
def State.progOk (s : State) (base : Nat) (h : Header0) (phys : List ExtentPhys) (d b v : Nat) (x : Section) : Bool :=
  let j := x.owner % 96 / 4
  let q := 96 * d + 4 * (b + j) + x.owner % 4
  match s.nodeAt h d b v j, segments (s.chanWords base x) Seg.empty with
  | some (_, jr, ts), some gs =>
    let live := fun tl => (ts[4 * jr + tl]?).any fun t => nodeOf t == b + j
    gs.all (s.segOk ((slabsOn h phys q 0).length, (slabsOn h phys q 1).length) live)
  | _, _ => false

/-! ## Slot plans (R76, R262, R263, R265, R267) -/

/-- A link direction a planned line crosses: its node and direction, the exchange window, the cycle, and the sender's region. -/
structure PlanHop where
  node : Nat
  dir : Nat
  window : Nat
  cycle : Nat
  region : Nat
  deriving DecidableEq, Repr

/-- The tile a launch tile number stands for at a base of a die under a variant, with its region; one of another die stands for its leg's end at node 0 alone (R75, R267). -/
def State.planTile (s : State) (h : Header0) (d b v lt : Nat) : Option (Nat × Nat) :=
  ((launchTiles h)[lt]?).bind fun p =>
    if p.1 ≠ d then some (96 * p.1, p.2.1)
    else ((dieRegions h d).find? fun r => r.1 == p.2.1).bind fun r =>
      (((s.liveTiles d (b + r.2.1) r.2.2).take (posCount (h.variants.getD v 0) r.2.2))[p.2.2]?).map fun t => (t, p.2.1)

/-- The link directions of a die that a planned transmission crosses; none where a sender or receiver has no tile. (DESIGN CHOICE: log 10.) -/
def State.planHops (s : State) (h : Header0) (d b v : Nat) (x : Nat × Nat × Nat × Nat) : Option (List PlanHop) :=
  match s.planTile h d b v x.1, s.planTile h d b v x.2.1 with
  | some (src, r), some (dst, _) =>
    some ((List.range 56).filterMap fun n => (hopAt src dst (dieOf src != dieOf dst) n).bind fun p =>
      if p.die = d && decide (p.dir < 4) then some ⟨p.node, p.dir, x.2.2.2, x.2.2.1 + n, r⟩ else none)
  | _, _ => none

/-- Every hop of the slot plan of a die, for the variant and base at hand. (DESIGN CHOICE: log 10.) -/
def State.slotHops (s : State) (base : Nat) (h : Header0) (d b v : Nat) : Option (List PlanHop) :=
  let bytes := fun (x : Section) => (List.range x.len).map fun i => BitVec.ofNat 8 (s.img base (x.off + i) 1)
  let plans := ((sectionsOf h 4 d v).flatMap fun p => Config.slotPlan (bytes p.2)).map (s.planHops h d b v)
  if plans.all Option.isSome then some (plans.flatMap fun p => p.getD []) else none

/-- Do two hops of a plan clash: on one link direction in one cycle, or outside exchange windows from two regions? (R76, R263) -/
def PlanHop.clashes (a b : PlanHop) : Bool :=
  a.node == b.node && a.dir == b.dir &&
    (a.window == b.window && a.cycle == b.cycle || a.window == 0 && b.window == 0 && a.region != b.region)

/-- Are no two hops of a list at odds? -/
def hopsApart : List PlanHop → Bool
  | [] => true
  | x :: xs => !(xs.any x.clashes) && hopsApart xs

/-- Is a link direction of a die reserved to another launch? (R263) (DESIGN CHOICE: log 10.) -/
def State.linkTaken (s : State) (e : BitVec 8) (timed : Bool) (d : Nat) (x : PlanHop) : Bool :=
  s.entries.any fun p => p.1 != e.toNat && !(timed && p.2.ctl.getLsbD 1) && p.2.links.any fun l => l.die == d && l.node == x.node && l.dir == x.dir

/-- Condition 4 of R76: the plan resolved and routed, no two lines on a link direction in a cycle, none on a reserved cycle, no link of another launch or of two regions (R262, R263). (DESIGN CHOICE: log 10.) -/
def State.slotsOk (s : State) (e : BitVec 8) (timed : Bool) (base : Nat) (h : Header0) (d b v : Nat) : Bool :=
  match s.slotHops base h d b v with
  | none => false
  | some l => hopsApart l && l.all fun x => decide (x.cycle % 64 < 56) && !s.linkTaken e timed d x

/-- Conditions 3 and 4 of R76 on a die. -/
def State.dieOk (s : State) (e : BitVec 8) (timed : Bool) (base : Nat) (h : Header0) (phys : List ExtentPhys) (v d b : Nat) : Bool :=
  ((h.sections.filter fun x => x.ty == 3 && x.owner / 96 == d && x.forVar v).all fun x => s.progOk base h phys d b v x) &&
    s.slotsOk e timed base h d b v

/-- The first variant of a launch that meets a test; LIVE falls, so it has the largest LIVE (R27, R76). -/
def firstVariant (h : Header0) (ok : Nat → Bool) : Option Nat := (List.range h.variants.length).find? ok

/-- The choice of R76 from the candidates of each die: the variant and the base of each die. -/
def State.settle (s : State) (e : BitVec 8) (timed : Bool) (base : Nat) (h : Header0) (phys : List ExtentPhys) : Nat → List (Nat × List Nat) → Option (Nat × List (Nat × Nat))
  | 0, _ => none
  | fuel + 1, cands =>
    if cands.any fun c => c.2.isEmpty then none
    else
      let at_ := cands.map fun c => (c.1, c.2.headD 0)
      match firstVariant h fun v => at_.all fun p => s.usableAt h v p.1 p.2 with
      | none => none
      | some v =>
        let bad := fun (d b : Nat) => !s.dieOk e timed base h phys v d b
        if at_.all fun p => !bad p.1 p.2 then some (v, at_)
        else s.settle e timed base h phys fuel (cands.map fun c => if bad c.1 (c.2.headD 0) then (c.1, c.2.tail) else c)

/-- A placement of a launch, or none (R76); `timed` asks only after the nodes and the links of timed launches (R67). -/
def State.place (s : State) (e : BitVec 8) (h : Header0) (timed : Bool) (phys : List ExtentPhys) : Option (Nat × List (Nat × Nat)) :=
  s.settle e timed (s.entry e).image.toNat h phys 128 ((namedDies h).map fun d => (d, s.candidates e h timed d))

/-! ## Binding (R73, R75, R78, R96, R244) -/

/-- The words of the first section of a type for a launch tile under a variant. -/
def State.sectionWords (s : State) (base : Nat) (h : Header0) (ty lt v : Nat) : List Nat :=
  match (sectionsOf h ty lt v).head? with
  | none => []
  | some p => (List.range (p.2.len / 4)).map fun i => s.img base (p.2.off + 4 * i) 4

/-- A DATA section copied into a tile: bytes past the end of the scratchpad go nowhere, and the lines touched take tag 0 (R16). (DEDUCED: log 92.) -/
def State.copyData (s : State) (base : Nat) (x : Tile) (sec : Section) : Tile :=
  let a := s.img base sec.off 8
  let n := min (sec.len - 8) (0x400000 - a)
  let y := x.putBytes a ((List.range n).map fun i => BitVec.ofNat 8 (s.img base (sec.off + 8 + i) 1))
  if n = 0 then x else (List.range ((a + n - 1) / 256 - a / 256 + 1)).foldl (fun y i => y.setTag (a / 256 + i) 0) y

/-- A tile bound to a place of a launch, with its streams and successor table; `lt` is its launch tile number, none for a surplus tile. -/
def State.bindTile (s : State) (e : BitVec 8) (h : Header0) (v : Nat) (first : Bool) (idx pos : Nat) (lt : Option Nat) (t : Nat) : State :=
  let base := (s.entry e).image.toNat
  let ws := fun ty => (lt.map fun n => s.sectionWords base h ty n v).getD []
  let x := s.tile t
  let x := { x with
    st := .bound, lte := e, reg := BitVec.ofNat 3 idx, lpos := BitVec.ofNat 7 pos, fails := if first then 0 else x.fails,
    store := ws 1, sstore := ws 2, succ := ws 5, hasSec := lt.any fun n => !(sectionsOf h 2 n v).isEmpty }
  s.setTile t (if first then (lt.map fun n => (sectionsOf h 6 n v).foldl (fun x p => s.copyData base x p.2) x).getD x else x)

/-- A region placed on a die, its tiles bound (R28, R75). -/
def State.bindRegion (s : State) (e : BitVec 8) (h : Header0) (v : Nat) (first : Bool) (d b : Nat) (r : Nat × Nat × Nat) : State :=
  let live := s.liveTiles d (b + r.2.1) r.2.2
  let n := posCount (h.variants.getD v 0) r.2.2
  let key := e.toNat * 32 + d * 8 + r.1
  let old := if first then Region.reset else s.region key
  let s := s.setRegion key { old with entry := e, die := d, idx := r.1, tiles := live.take n, surplus := live.drop n }
  (live.mapIdx fun i t => (i, t)).foldl (fun s p =>
    s.bindTile e h v first r.1 p.1 (if p.1 < n then some (launchTile h d r.1 p.1) else none) p.2) s

/-- A sequencer given to a launch, with its program and its slabs (R244, R245). -/
def State.bindSeqr (s : State) (e : BitVec 8) (h : Header0) (phys : List ExtentPhys) (v d b j c : Nat) : State :=
  let q := 96 * d + 4 * (b + j) + c
  match s.nodeAt h d b v j with
  | none => s
  | some (idx, jr, _) =>
    let code := match (sectionsOf h 3 (96 * d + 4 * j + c) v).head? with
      | none => []
      | some p => s.chanWords (s.entry e).image.toNat p.2
    let tls := ((s.region (e.toNat * 32 + d * 8 + idx)).tiles.drop (4 * jr)).take 4
    s.updSeqr q fun x => { x with
      entry := some e, region := idx, node := jr, tls := tls, code := code, run := false, slabs := (slabsOn h phys q 0, slabsOn h phys q 1) }

/-- The link directions a placement reserves on a die, each to its region where a line crosses it outside exchange windows (R263). -/
def State.reserveLinks (s : State) (base : Nat) (h : Header0) (d b v : Nat) : List LinkUse :=
  let l := (s.slotHops base h d b v).getD []
  ((l.map fun x => (x.node, x.dir)).dedup).map fun k =>
    ⟨d, k.1, k.2, (l.find? fun x => x.node == k.1 && x.dir == k.2 && x.window == 0).map fun x => x.region⟩

/-- A launch bound at its bases under a variant. -/
def State.bind (s : State) (e : BitVec 8) (h : Header0) (phys : List ExtentPhys) (v : Nat) (bases : List (Nat × Nat)) (first : Bool) : State :=
  let s := s.updEntry e fun x => { x with
    variant := v, phys := phys, links := bases.flatMap fun p => s.reserveLinks x.image.toNat h p.1 p.2 v, bases := (List.range 4).map fun d => (bases.find? fun p => p.1 == d).map Prod.snd }
  bases.foldl (fun s p =>
    let s := (dieRegions h p.1).foldl (fun s r => s.bindRegion e h v first p.1 p.2 r) s
    (List.range (4 * dieNodes h p.1)).foldl (fun s i => s.bindSeqr e h phys v p.1 p.2 (i / 4) (i % 4)) s) s

end Sys2Proof.Machine
end

