-- ==== Sys2Proof/Machine/Admission.lean ====
section
/-! DEFINITION. Admission of a launch-table entry, release of a dynamic launch, and placement again after a retirement (03: R62, R67, R69, R70; 18: R385). -/

namespace Sys2Proof.Machine

/-- Step 1 of R67: reserved bits, ASID, and where the image lies. (DEDUCED: log 74.) -/
def State.step1 (s : State) (x : Entry) : Option Fail :=
  let a := x.image.toNat
  if !x.rsvd && x.asid != 0 && s.iod.agrant.contains x.asid.toNat && decide (s.iod.imageBase ≤ a) &&
    decide (a < s.iod.imageBase + s.iod.imageLen) && decide (a % 4096 = 0) then none else some (0x01, 0xFFFFFFFF)

/-- Does another live launch of the package use counters of a launch's range under its seed? (R21) -/
def State.springMeets (s : State) (e : BitVec 8) (h : Header0) : Bool :=
  s.entries.any fun p => p.1 != e.toNat && p.2.live && match p.2.hdr with
    | some o => o.seed == h.seed && spansMeet h.sbase h.slen o.sbase o.slen
    | none => false

/-- Step 6 of R67. -/
def latencyFail (x : Entry) (h : Header0) : Option Fail :=
  if x.plat ≠ 0 ∧ (h.ppb = 0 ∨ x.plat.toNat < h.ppb) then some (refusedAt 0x028) else none

/-- Is a predecessor accepted? (R67) -/
def State.predOk (s : State) (x : Entry) : Bool :=
  x.pred == 0xFF || match (s.entry x.pred).st with
    | .admitted => true
    | .running => true
    | .retired => !(s.entry x.pred).killed
    | _ => false

/-- Step 7 of R67. -/
def State.startFail (s : State) (x : Entry) : Option Fail :=
  if x.ctl.getLsbD 1 then (if s.predOk x then none else some (0x08, 0))
  else if x.tick + 524288 ≤ x.start.toNat then none else some (0x07, 0)

/-- An entry refused: STATUS, FOFF where stated, the dynamic launches that wait for it with it, and the VERSION record, whose DIE is the I/O die (R18, R66, R352). (DEDUCED: log 74; DESIGN CHOICE: log 100.) -/
def State.refuse (s : State) (e : BitVec 8) (f : Fail) : State :=
  let s := (s.updEntry e fun x => { x with st := .refused, status := f.1, foff := f.2, hdr := none }).refuseAfter 256 e
  if f.1 = 0x02 then
    let s := if (s.packageEntry 4 0x03).getLsbD 7 then s.snapTrigger 1 0x03 else s
    (s.post { EvRec.package s 4 with code := 0x03, lte := e, info := s.anyInfo, addr := s.anyAddr }).spend
  else s

/-- Steps 5 to 7 of R67, after a placement: the Spring ranges, the latency demanded, START or PRED. The warning of an overlap has the I/O die as its DIE. (DEDUCED: log 74; DESIGN CHOICE: log 100.) -/
def State.lastSteps (s : State) (e : BitVec 8) (h : Header0) : State × Option Fail :=
  let x := s.entry e
  if s.springMeets e h && !h.spol then (s, some (0x06, 0))
  else
    let s := if s.springMeets e h then s.warn 4 0x01 e 0x1FF s.anyAddr |>.spend else s
    (s, firstFail [latencyFail x h, s.startFail x])

/-- Is there some placement of a dynamic launch, its nodes free of every timed launch? Where its extents do not translate yet, conditions 3 and 4 are left to its release (R67, R76). (DEDUCED: log 101.) -/
def State.fitsLater (s : State) (e : BitVec 8) (h : Header0) : Bool :=
  (namedDies h).all (fun d => !(s.candidates e h true d).isEmpty) &&
    match (s.physTable h e 0 0 h.extents).2 with
    | .error _ => true
    | .ok phys => (s.place e h true phys).isSome

/-- Step 4 of R67 for a timed launch: conditions 1 and 2 of its placement, then its extent table, then the rest of its placement (R76, R84). (DESIGN CHOICE: log 119.) -/
def State.step4 (s : State) (e : BitVec 8) (h : Header0) : State × Except Fail (List ExtentPhys × Nat × List (Nat × Nat)) :=
  if (namedDies h).any fun d => (s.candidates e h false d).isEmpty then (s, .error (0x05, 0))
  else
    let a := s.physTable h e 0 0 h.extents
    match a.2 with
    | .error f => (a.1, .error f)
    | .ok phys =>
      match a.1.place e h false phys with
      | none => (a.1, .error (0x05, 0))
      | some p => (a.1, .ok (phys, p))

/-- An admitted entry; a dynamic launch with no predecessor, or one already retired, waits for none. -/
def State.accept (s : State) (e : BitVec 8) (h : Header0) : State :=
  s.updEntry e fun x =>
    let free := x.pred == 0xFF || (s.entry x.pred).st == .retired
    { x with st := .admitted, status := 0, hdr := some h, predAt := if free then some s.ptime.toNat else none }

/-- ADMISSION (R62, R67): the steps in order, the first failure refusing the launch. -/
def execAdmission (e : BitVec 8) (s : State) : Out :=
  let x := s.entry e
  if x.st ≠ .admitting then .next s
  else
    let base := x.image.toNat
    match s.step1 x with
    | some f => .next (s.refuse e f)
    | none =>
      let h := s.imgHeader base
      match firstFail [s.pass1 base h] with
      | some f => .next (s.refuse e f)
      | none =>
        match s.pass2 base h x.arg.toNat x.rank.toNat with
        | some f => .next (s.refuse e f)
        | none =>
          if x.ctl.getLsbD 1 then
            if !s.fitsLater e h then .next (s.refuse e (0x05, 0))
            else
              let a := s.lastSteps e h
              .next (match a.2 with
                | some f => a.1.refuse e f
                | none => a.1.accept e h)
          else if !s.iod.locked then .next (s.refuse e (0x04, 0))
          else
            let a := s.step4 e h
            match a.2 with
            | .error f => .next (a.1.refuse e f)
            | .ok (phys, v, bases) =>
              let b := a.1.lastSteps e h
              .next (match b.2 with
                | some f => b.1.refuse e f
                | none => ((b.1.accept e h).bind e h phys v bases true).after (x.start.toNat - s.ptime.toNat) (.launchStart e))

/-! ## Dynamic launches (R69, R70) -/

/-- Has a dynamic launch's predecessor, if it names one, retired before this tick? -/
def State.predDone (s : State) (x : Entry) : Bool :=
  x.predAt.any fun t => decide (t < s.ptime.toNat)

/-- DYNAMIC_RELEASE (R69): the regions placed on free nodes and released, on a multiple of 1,024 ticks and never before it; a launch that finds no nodes waits on, one of lower priority that fits going first; one that no placement fits, whatever nodes fall free, is refused (R70, R76). (DEDUCED: log 101; DESIGN CHOICE: log 112.) -/
def execDynamicRelease (e : BitVec 8) (s : State) : Out :=
  let x := s.entry e
  if x.st ≠ .admitted || !x.ctl.getLsbD 1 || decide (s.ptime.toNat % 1024 ≠ 0) || !s.predDone x then .next s
  else
    match x.hdr with
    | none => .next s
    | some h =>
      let a := s.step4 e h
      .next (match a.2 with
        | .ok (phys, v, bases) => (a.1.bind e h phys v bases true).release e
        | .error f => if f.1 = 0x05 && s.fitsLater e h then a.1 else a.1.refuse e f)

/-- Does a waiting dynamic launch come before another? Higher PRIO, then lower START, then lower index (R70). -/
def dynBefore (a b : Nat × Entry) : Bool :=
  let p := a.2.prio.toNat % 16
  let q := b.2.prio.toNat % 16
  if p ≠ q then decide (q < p) else if a.2.start ≠ b.2.start then decide (a.2.start < b.2.start) else decide (a.1 ≤ b.1)

/-- The dynamic launches that wait for their release, in the order they are served. (DESIGN CHOICE: log 112.) -/
def State.dynWaiting (s : State) : List (BitVec 8) :=
  (sortBy dynBefore (s.entries.filter fun p => p.2.st == .admitted && p.2.ctl.getLsbD 1)).map fun p => BitVec.ofNat 8 p.1

/-! ## Placement again (R385) -/

/-- The variant of a new placement at the bases a launch has (R76). -/
def State.replaced (s : State) (e : BitVec 8) (x : Entry) (h : Header0) : Option Nat :=
  let at_ := (List.range 4).filterMap fun d => (x.bases.getD d none).map fun b => (d, b)
  firstVariant h fun v => at_.all fun p => s.usableAt h v p.1 p.2 && s.dieOk e false x.image.toNat h x.phys v p.1 p.2

/-- REPLACEMENT (R385): after the context is saved, the launch moves to the variant that fits and its tasks start again on the tick the notice names, or it is killed; the notice takes 20 µs at most (R386). (DESIGN CHOICE: log 78.) -/
def execReplacement (e : BitVec 8) (s : State) : Out :=
  let x := s.entry e
  if x.saving then .next (s.within 32000000 (.replacement e))
  else if x.st ≠ .running && x.st ≠ .parked then .next s
  else
    let h := s.hdrOf e
    match s.replaced e x h with
    | none => .next (s.kill e)
    | some v =>
      let at_ := (List.range 4).filterMap fun d => (x.bases.getD d none).map fun b => (d, b)
      let t := s.ptime.toNat + 256 + Nat.min s.delay 16000
      let s := (s.spend.requeue e t).bind e h x.phys v at_ false
      let s := s.save e []
      .next ((s.updEntry e fun y => { y with st := .running }).say (.jobRelease x.job t))

end Sys2Proof.Machine
end

