-- ==== Sys2Proof/Machine/Mgmt.lean ====
section
/-! DEFINITION. What comes from outside the package: Mirhus frames, MCTP management commands and writes, SPDM, PTP, rails and die reset (03: R59 to R66; 04: R73, R79, R80, R89 to R92; 14: R295; 17: R349, R353, R362, R363, R366, R367; 18: R368, R375, R382, R387 to R390; 24: R410; 00: R12). -/

namespace Sys2Proof.Machine

/-! ## Frames (R63) -/

/-- Is the I/O die out of reset? It alone answers frames (R12, R91). -/
def State.ioLive (s : State) : Bool := field s.iod.dstate.toNat 8 2 == 2

/-- The completion of a frame. -/
def State.complete (s : State) (f : Frame) (status : Byte) (data : List Byte := []) : State := s.say (.completion f.seq status data)

/-- REFUSED, BUSY and BADFRAME (R66). -/
def State.refused (s : State) (f : Frame) : State := s.complete f 0x01
def State.busy (s : State) (f : Frame) : State := s.complete f 0x09
def State.badFrame (s : State) (f : Frame) : State := s.complete f 0x0A

/-- The steps an MCTP frame may bring: the management commands and writes, and the SPDM requests. -/
def mctpSteps : List Instr :=
  [.asidgrant, .asidrevoke, .tlbinv, .pagein, .pagedeny, .preemptRequest, .resume, .snapnow, .snapclr, .hostInterrupt,
   .getVersion, .getCapabilities, .negotiateAlgorithms, .getDigests, .getCertificate, .challenge, .getMeasurements, .keyExchange,
   .finish, .endSession, .spdmUnsupportedRequest, .mgmtRegisterWrite, .dbgbWrite, .tinjWrite, .minjWrite, .actionEntryWrite,
   .snapcmpWrite, .tileMapWrite, .handlerInstall]

/-- The header of a frame, its first 16 bytes, little-endian, and its payload (R63). (DEDUCED: log 106.) -/
def rawFrame (port : Bool) (bs : List Byte) : Frame :=
  let u := fun (o n : Nat) => ofBytes ((bs.drop o).take n)
  { port := port, ty := BitVec.ofNat 8 (u 0 1), flags := BitVec.ofNat 8 (u 1 1), seq := BitVec.ofNat 16 (u 2 2),
    len := BitVec.ofNat 32 (u 4 4), addr := BitVec.ofNat 64 (u 8 8), data := bs.drop 16, who := .firmware, reg := .tsync,
    a := 0, b := 0, c := 0, all := false, read := false }

/-- The step the TYPE of a frame selects, with the operands of a management command (R63). The bytes of a management command are not laid out: what they stand for is a free value. (DESIGN CHOICE: log 14; DEDUCED: log 106.) -/
def frameStep (f : Frame) : Instr × Frame :=
  match f.ty.toNat with
  | 1 => (.imgwr, f)
  | 2 => (.ltwr, f)
  | 3 => (if f.data.head? = some 2 then .ltctlClear else .ltctlKill, f)
  | 4 => (if f.addr.getLsbD 8 then .evrdMailbox else .evrd, f)
  | 5 => (.ptp, f)
  | 6 =>
    match Config.mctpStep f.data with
    | none => (.unknownFrame, f)
    | some k =>
      match mctpSteps[k]? with
      | none => (.unknownFrame, f)
      | some i =>
        let o := Config.mctpOperands f.data
        (i, { f with who := if o.monitor then .monitor else .firmware, reg := Config.mctpReg f.data, a := o.a, b := o.b, c := o.c,
                     all := o.all, read := o.read, data := o.value, addr := BitVec.ofNat 64 o.addr })
  | 7 => (.portsel, f)
  | _ => (.unknownFrame, f)

/-- A frame as it comes in, byte by byte: the header is read, and the step its TYPE selects is next (R63). (DEDUCED: log 106.) -/
def State.receive (s : State) (port : Bool) (bs : List Byte) : State :=
  let f := rawFrame port bs
  let k := if bs.length < 16 then (Instr.unknownFrame, f) else frameStep f
  { s with agenda := (k.1, .frame k.2) :: s.agenda }

/-- A frame taken in: a raw one goes to the step its TYPE selects; the standby port discards all but PTP and PORTSEL; non-zero FLAGS are answered BADFRAME. (DESIGN CHOICE: log 14.) -/
def State.framed (s : State) (standby : Bool) (g : Frame → State → State) : Out :=
  match s.ext with
  | .raw port bs => .next (s.receive port bs)
  | .frame f =>
    if !s.ioLive || (f.port != s.iod.port && !standby) then .next s
    else if f.flags ≠ 0 then .next (s.badFrame f)
    else .next (g f s)
  | _ => .next s

/-- Change the I/O die's registers. -/
def State.updIod (s : State) (f : Iod → Iod) : State := { s with iod := f s.iod }

/-- Where an image ends: past its header and its last section. -/
def State.imageEnd (s : State) (base : Nat) (h : Header0) : Nat :=
  base + (h.sections.map fun x => x.off + x.len).foldl max (256 * s.img base 0x004 2)

/-- Does a range touch the image of a live entry? -/
def State.imageInUse (s : State) (a n : Nat) : Bool :=
  s.entries.any fun p => p.2.live && match p.2.hdr with
    | some h => spansMeet a n p.2.image.toNat (s.imageEnd p.2.image.toNat h - p.2.image.toNat)
    | none => false

/-- IMGWR (R63). (DEDUCED: log 81.) -/
def execImgwr (s : State) : Out :=
  s.framed false fun f s =>
    let a := f.addr.toNat
    let n := f.len.toNat
    if a % 256 ≠ 0 ∨ f.data.length ≠ n then s.badFrame f
    else if a < s.iod.imageBase ∨ s.iod.imageBase + s.iod.imageLen < a + n then s.refused f
    else if s.imageInUse a n then s.busy f
    else (s.writeMem a f.data).complete f 0x00

/-- The entry a payload of LTWR describes; STATE, STATUS and FOFF are not taken from it, and reserved bits are not kept, only that some were set, which step 1 of R67 refuses (R8, R64). That includes the reserved bytes 0x07 and 0x30 to 0x3F. (DESIGN CHOICE: log 105.) -/
def entryOf (p : List Byte) (tick : Nat) : Entry :=
  let u := fun (o n : Nat) => ofBytes ((p.drop o).take n)
  { Entry.reset with
    ctl := BitVec.ofNat 8 (u 0 1) &&& 3, prio := BitVec.ofNat 8 (u 1 1) &&& 0x0F, asid := BitVec.ofNat 16 (u 2 2), pred := BitVec.ofNat 8 (u 4 1),
    image := BitVec.ofNat 64 (u 8 8), start := BitVec.ofNat 64 (u 0x10 8), arg := BitVec.ofNat 64 (u 0x18 8),
    rank := BitVec.ofNat 32 (u 0x20 4), plat := BitVec.ofNat 32 (u 0x24 4), job := BitVec.ofNat 32 (u 0x2C 4),
    rsvd := u 0 1 / 4 != 0 || u 1 1 / 16 != 0 || u 7 1 != 0 || u 0x30 16 != 0, tick := tick }

/-- May an LTWR write an entry? (R65) -/
def Entry.open_ (x : Entry) : Bool := x.st == .empty || x.st == .retired || x.st == .refused

/-- LTWR (R63, R65): the payload stored, and with VALID = 1 admission begun, which ends within 400,000 ticks (R67). (DESIGN CHOICE: log 6; DEDUCED: log 81.) -/
def execLtwr (s : State) : Out :=
  s.framed false fun f s =>
    let e : BitVec 8 := f.addr.setWidth 8
    if f.len ≠ 64 ∨ f.data.length ≠ 64 then s.badFrame f
    else if !(s.entry e).open_ then s.busy f
    else
      let x := entryOf f.data s.ptime.toNat
      let s := s.complete f 0x00
      if x.ctl.getLsbD 0 then ((s.setEntry e { x with st := .admitting }).after (min s.delay 399999) (.admission e)).spend
      else s.setEntry e x

/-- LTCTL: KILL or CLEAR, by payload byte 0 (R63, R65). (DEDUCED: log 82.) -/
def State.ltctl (s : State) : Out :=
  s.framed false fun f s =>
    let e : BitVec 8 := f.addr.setWidth 8
    let x := s.entry e
    match f.data.head? with
    | some 1 => if x.live then (s.kill e).complete f 0x0B else s.complete f 0x00
    | some 2 =>
      if x.st == .retired || x.st == .refused then (s.setEntry e Entry.reset).complete f 0x00
      else if x.st == .empty then s.complete f 0x00 else s.busy f
    | _ => s.badFrame f

/-- LTCTL with payload byte 1. -/
def execLtctlKill (s : State) : Out := s.ltctl

/-- LTCTL with payload byte 2. -/
def execLtctlClear (s : State) : Out := s.ltctl

/-- A frame of another TYPE: BADFRAME, with no effect; one not yet looked at is decoded and goes to the step of its TYPE (R63). -/
def execUnknownFrame (s : State) : Out := s.framed false fun f s => s.badFrame f

/-- The 32 bytes of an event record (R364). -/
def EvRec.bytes (r : EvRec) : List Byte :=
  let bit := fun (b : Bool) (i : Nat) => if b then 2 ^ i else 0
  toBytes 1 (bit r.fatal 7 + bit r.lost 6 + r.code.toNat) ++
  toBytes 1 (bit r.warn 7 + bit r.superseded 6 + bit r.harea 5 + bit r.hm 4 + bit r.nrforced 3 + r.act.toNat) ++
  toBytes 2 (min r.count 65535) ++ toBytes 1 r.die ++ toBytes 1 r.lte.toNat ++ toBytes 2 r.ltile.toNat ++ toBytes 1 r.info.toNat ++
  toBytes 1 r.mask.toNat ++ toBytes 2 r.asid.toNat ++ toBytes 4 r.rcyc.toNat ++ toBytes 8 r.ptime.toNat ++ toBytes 8 r.addr.toNat

/-- EVRD: the oldest records of the queue, or a die's mailbox, in a completion with status OK (R63, R364, R366, R367). -/
def State.evread (s : State) : Out :=
  s.framed false fun f s =>
    if f.addr.getLsbD 8 then
      let d := field f.addr.toNat 0 2
      let r := (s.die d).mailbox
      (s.updDie d fun x => { x with mailbox := none }).say (.completion f.seq 0 (r.toList.flatMap EvRec.bytes))
    else
      let n := f.len.toNat / 32
      (s.updIod fun i => { i with queue := i.queue.drop n }).say (.completion f.seq 0 ((s.iod.queue.take n).flatMap fun r => r.2.bytes))

/-- EVRD with ADDR[8] = 0. -/
def execEvrd (s : State) : Out := s.evread

/-- EVRD with ADDR[8] = 1. -/
def execEvrdMailbox (s : State) : Out := s.evread

/-- PORTSEL (R63): the port that received it becomes the active one. -/
def execPortsel (s : State) : Out :=
  s.framed true fun f s => (s.updIod fun i => { i with port := f.port }).complete f 0x00

/-! ## PTP (R59 to R62) -/

/-- Move a tick by a step of PTIME. -/
def movedTick (d : Int) (t : Nat) : Nat := (t + d).toNat

/-- The ticks of a bank's timers after a step. -/
def BankT.moved (b : BankT) (d : Int) : BankT :=
  let m := fun (x : Option Nat) => x.map (movedTick d)
  { row := b.row, act := m b.act, rd := m b.rd, wr := m b.wr, pre := m b.pre, refpb := m b.refpb }

/-- The ticks of a pseudo-channel's timers after a step. -/
def PchT.moved (p : PchT) (d : Int) : PchT :=
  { p with acts := p.acts.map (movedTick d), ref := p.ref.map (movedTick d), nextRef := movedTick d p.nextRef }

/-- PTIME stepped: no launch is live, and what counts ticks keeps its distances (R60). (DESIGN CHOICE: log 83.) -/
def State.stepTime (s : State) (t : W64) : State :=
  let d : Int := (t.toNat : Int) - s.ptime.toNat
  let s := s.mapSeqrs fun _ x => { x with
    banks := SMap.mapV BankT.reset (fun _ (b : BankT) => b.moved d) x.banks, pch := (x.pch.1.moved d, x.pch.2.moved d) }
  let s := { s with ptime := t }
  let s := { s with pending := s.pending.map fun (p : Nat × Instr × Ext) => (movedTick d p.1, p.2.1, p.2.2) }
  let s := { s with packets := s.packets.map fun (k : Packet) => { k with moved := movedTick d k.moved } }
  s.updIod fun i => { i with
    stepped := true, hot := i.hot.map (movedTick d), cooled := i.cooled.map fun w => (movedTick d w.1, movedTick d w.2), snapAt := i.snapAt.map fun (x : Nat × BitVec 3 × Byte) => (movedTick d x.1, x.2.1, x.2.2),
    invals := i.invals.map fun (x : Inval) => { x with tick := movedTick d x.tick },
    ptp := { i.ptp with sync := i.ptp.sync.map fun x => (x.1, x.2.1 + BitVec.ofInt 64 d, x.2.2), last := i.ptp.last + d } }

/-- An offset of PTIME from PTP time, saturated to 24 bits (R61). -/
def ptpOffset (ofs : Int) : Int := max (-(2 ^ 23)) (min (2 ^ 23 - 1) ofs)

/-- A number of a PTP message, most significant byte first. (PRESUMED: log 107.) -/
def ptpField (m : List Byte) (o n : Nat) : Nat := ofBytes ((m.drop o).take n).reverse

/-- A PTP time as a tick: seconds and nanoseconds with a correction in 2^-16 ns, times 800,000,000 a second, reduced to 64 bits (R60). -/
def ptpTick (sec ns : Nat) (corr : Int) : W64 := BitVec.ofInt 64 ((((sec * 10 ^ 9 + ns : Nat) : Int) * 65536 + corr) * 4 / (5 * 65536))

/-- The correction field and the time stamp of a PTP message. (PRESUMED: log 107.) -/
def ptpCorr (m : List Byte) : Int := sext (ptpField m 8 8) 64
def ptpStamp (m : List Byte) (corr : Int) : W64 := ptpTick (ptpField m 34 6) (ptpField m 40 4) corr

/-- LOCKED and OFS after an offset has been measured: LOCKED is set after 16 Sync intervals in a row within 4 ticks and cleared beyond 32 (R61, R62). -/
def State.measured (s : State) (ofs : Int) : State :=
  let good := if decide (-4 ≤ ofs) && decide (ofs ≤ 4) then s.iod.goodSyncs + 1 else 0
  let far := decide (ofs < -32) || decide (32 < ofs)
  let lost := s.iod.locked && far
  let s := s.updIod fun i => { i with ofs := ptpOffset ofs, goodSyncs := min good 16, locked := !far && (i.locked || decide (16 ≤ good)) }
  if lost then (s.warn 4 0x02 0xFF 0x1FF s.anyAddr).spend else s

/-- A Sync whose origin is known: arrived on tick `t2`, sent at the PTP tick `t1`. PTIME's offset is measured, PTIME stepped onto PTP time while no launch is live, and a Delay_Req sent (R60 to R62). (DESIGN CHOICE: log 83.) -/
def State.synced (s : State) (t2 t1 : W64) : State :=
  let ofs := (t2 - t1).toInt - s.iod.ptp.delay
  let s := s.updIod fun i => { i with ptp := { i.ptp with sync := none, last := (t2 - t1).toInt } }
  let s := if !(s.entries.any fun p => p.2.live) && ofs != 0 then s.stepTime (s.ptime - BitVec.ofInt 64 ofs) else s
  let k := s.iod.ptp.seq
  let s := s.updIod fun i => { i with ptp := { i.ptp with req := some (k, s.ptime), seq := (k + 1) % 65536 } }
  (s.measured ofs).say (.delayReq s.iod.ptpDomain k)

/-- PTP (R60 to R62): a slave-only ordinary clock with the end-to-end delay mechanism. A Sync, with its Follow_Up where it is two-step, gives the offset; a Delay_Resp the mean path delay. Messages of another domain or type, and of the standby port, change nothing. (PRESUMED: log 107; DESIGN CHOICE: log 105.) -/
def execPtp (s : State) : Out :=
  s.framed true fun f s =>
    let m := f.data
    let seq := ptpField m 30 2
    if m.length < 44 then s.badFrame f
    else if f.port != s.iod.port ∨ BitVec.ofNat 8 (ptpField m 4 1) ≠ s.iod.ptpDomain then s.complete f 0x00
    else
      let s := match ptpField m 0 1 % 16 with
        | 0 =>
          if (ptpField m 6 1).testBit 1 then s.updIod fun i => { i with ptp := { i.ptp with sync := some (seq, s.ptime, ptpCorr m) } }
          else s.synced s.ptime (ptpStamp m (ptpCorr m))
        | 8 =>
          match s.iod.ptp.sync with
          | some (k, t2, c) => if k = seq then s.synced t2 (ptpStamp m (c + ptpCorr m)) else s
          | none => s
        | 9 =>
          match s.iod.ptp.req with
          | some (k, t3) =>
            if k = seq then s.updIod fun i =>
              { i with ptp := { i.ptp with req := none, delay := (i.ptp.last + (ptpStamp m (- ptpCorr m) - t3).toInt) / 2 } }
            else s
          | none => s
        | _ => s
      s.complete f 0x00

/-! ## Address spaces (R80, R89, R295) -/

/-- ASIDGRANT (R80): inside an authenticated session; bit 0 is never set. (DEDUCED: log 81, 84.) -/
def execAsidgrant (s : State) : Out :=
  s.framed false fun f s =>
    if 65536 ≤ f.a then s.badFrame f
    else if !s.iod.session ∨ f.a = 0 then s.refused f
    else
      let g := s.iod.agrant
      (s.updIod fun i => { i with agrant := if g.contains f.a then g else insertBy (fun a b => decide (a ≤ b)) f.a g }).complete f 0x00

/-- Is an ASID named by an entry that is ADMITTING, ADMITTED, RUNNING or PARKED? -/
def State.asidInUse (s : State) (a : Nat) : Bool :=
  s.entries.any fun p => (p.2.live || p.2.st == .admitting) && p.2.asid.toNat == a

/-- ASIDREVOKE (R80). -/
def execAsidrevoke (s : State) : Out :=
  s.framed false fun f s =>
    if 65536 ≤ f.a then s.badFrame f
    else if !s.iod.session then s.refused f
    else if s.asidInUse f.a then s.busy f
    else (s.updIod fun i => { i with agrant := i.agrant.filter fun a => a != f.a }).complete f 0x00

/-- Does an invalidation cover a page pinned by a launch of its ASID: any part of a page that holds some of a SCHED or CACHED extent? (R84, R89) -/
def State.coversPinned (s : State) (x : Inval) : Bool :=
  s.entries.any fun p => p.2.live && p.2.phys.any fun y => y.pages.any fun g => x.covers p.2.asid g.1 (g.1 + g.2)

/-- The compute dies DSTATE shows as LIVE (R90, R91). -/
def State.liveDies (s : State) : List Nat := (List.range 4).filter fun d => field s.iod.dstate.toNat (2 * d) 2 == 2

/-- TLBINV (R89, R90): BUSY on a pinned page or with four outstanding; else every LIVE die is to ack. -/
def execTlbinv (s : State) : Out :=
  s.framed false fun f s =>
    let k := s.iod.nextInval
    let ds := s.liveDies
    let x : Inval := { id := k, frame := f, asid := BitVec.ofNat 16 f.a, base := f.b, len := f.c, all := f.all,
                       acks := ds.foldl (fun m d => m ||| BitVec.twoPow 4 d) 0, stepped := 0, copies := [], ops := [], tick := s.ptime.toNat }
    if s.coversPinned x || decide (4 ≤ s.iod.invals.length) then s.busy f
    else
      let s := s.updIod fun i => { i with invals := i.invals ++ [x], nextInval := k + 1 }
      (ds.foldl (fun (s : State) d =>
        (s.later (.tlbinvAck k (BitVec.ofNat 2 d))).after (2 ^ 20) (.invalTimeout k (BitVec.ofNat 2 d))) s).invalDone

/-- Does a page of an address space translate now? -/
def State.pageMaps (s : State) (asid : BitVec 16) (va : Nat) : Bool :=
  match s.walk (s.homeOf asid va).1 asid va with
  | .leaf _ _ => true
  | _ => false

/-- The virtual addresses of the pages of a copy. -/
def State.copyVAs (s : State) (t : Nat) (c : Copy) : List Nat :=
  let a := s.extVA t (extIndex c.e) (extOffset c.e)
  (List.range ((a + c.size - 1) / 65536 - a / 65536 + 1)).map fun i => (a / 65536 + i) * 65536

/-- The copies of an address space parked on a page a test picks, as tile and copy. -/
def State.parkedCopies (s : State) (asid : BitVec 16) (hit : Nat → Bool) : List (Nat × Copy) :=
  s.tiles.flatMap fun p => if p.2.st = .bound && (s.entry p.2.lte).asid == asid then
    (p.2.far.copies.filter fun (c : Copy) => match c.st with
      | .parked va => hit (va / 65536)
      | _ => false).map fun c => (p.1, c) else []

/-- The holding operations of an address space parked on such a page. -/
def State.parkedOps (s : State) (asid : BitVec 16) (hit : Nat → Bool) : List HoldOp :=
  s.ops.filter fun (o : HoldOp) => (s.entry (s.tile o.tile).lte).asid == asid && o.parked.any fun va => hit (va / 65536)

/-- The pager has answered for pages of an address space: requeued tasks wait for them no more (R95). -/
def State.pagesAnswered (s : State) (asid : BitVec 16) (hit : Nat → Bool) : State :=
  s.mapRegions fun _ r => if (s.entry r.entry).asid = asid then { r with awaits := r.awaits.filter fun p => !hit p } else r

/-- A parked copy goes back to the head of its queue and is translated afresh (R295). -/
def State.unpark (s : State) (p : Nat × Copy) : State :=
  let s := s.updFar p.1 fun f =>
    { f with copies := { p.2 with st := .queued } :: f.copies.filter fun (c : Copy) => c.slot != p.2.slot }
  if s.asleep p.1 then s else s.now (.copyIssue p.1 p.2.cls)

/-- PAGEIN (R295): every parked copy and operation of the address space whose pages now translate goes on, in slot order. -/
def execPagein (s : State) : Out :=
  s.framed false fun f s =>
    let asid := BitVec.ofNat 16 f.a
    let hit := fun p => decide (f.b ≤ p) && decide (p < f.b + f.c)
    let cs := (s.parkedCopies asid fun _ => true).filter fun c => (s.copyVAs c.1 c.2).all (s.pageMaps asid)
    let os := (s.parkedOps asid fun _ => true).filter fun o => o.parked.all (s.pageMaps asid)
    let s := (sortBy (fun (a b : Nat × Copy) => decide (b.2.slot ≤ a.2.slot)) cs).foldl State.unpark s
    let s := os.foldl (fun s o => (s.updOp o.id fun (x : HoldOp) => { x with parked := none }).opStep o.id) s
    (s.pagesAnswered asid hit).complete f 0x00

/-- PAGEDENY (R295, R296): they end faulted, with RSN 2, at the first byte of the page. -/
def execPagedeny (s : State) : Out :=
  s.framed false fun f s =>
    let asid := BitVec.ofNat 16 f.a
    let hit := fun p => decide (p = f.b)
    let os := s.parkedOps asid hit
    let s := (s.parkedCopies asid hit).foldl (fun s c =>
      if (s.copyAt c.1 c.2.slot).any fun (y : Copy) => y.rec_ == c.2.rec_ then
        s.faultCopy c.1 c.2 2 (f.b * 65536 - s.extVA c.1 (extIndex c.2.e) (extOffset c.2.e)) else s) s
    let s := os.foldl (fun s o => s.faultOp o 2) s
    (s.pagesAnswered asid hit).complete f 0x00

/-! ## Preemption, snapshots, interrupts (R165, R368, R375, R382, R383) -/

/-- PREEMPT (R368). -/
def execPreemptRequest (s : State) : Out :=
  s.framed false fun f s =>
    let e := BitVec.ofNat 8 f.a
    if (s.entry e).st ≠ .running ∨ (s.hdrOf e).ppb = 0 then s.refused f
    else (s.mapTiles fun _ x => if x.st == .bound && x.lte == e then { x with preq := true } else x).complete f 0x00

/-- RESUME (R375): the dies restore the contexts, in at most 44,000 ticks. (DESIGN CHOICE: log 6.) -/
def execResume (s : State) : Out :=
  s.framed false fun f s =>
    let e := BitVec.ofNat 8 f.a
    let x := s.entry e
    if x.st ≠ .parked ∨ x.saving then s.refused f
    else
      let s := s.updEntry e fun x => { x with saving := true }
      ((s.after (min s.delay 44000) (.contextRestoreDone e)).spend).complete f 0x00

/-- SNAPNOW (R382). -/
def execSnapnow (s : State) : Out := s.framed false fun f s => (s.snapTrigger 3 0).complete f 0x00

/-- SNAPCLR (R383): the held snapshot is let go. (DEDUCED: log 86.) -/
def execSnapclr (s : State) : Out :=
  s.framed false fun f s => (s.updIod fun i => { i with snapFull := false, missed := 0 }).complete f 0x00

/-- HOST_INTERRUPT (R165): the pending bit HOST of a tile. (DEDUCED: log 81.) -/
def execHostInterrupt (s : State) : Out :=
  s.framed false fun f s =>
    if 384 ≤ f.a then s.badFrame f else (s.updTile f.a fun x => { x with ip := x.ip ||| 2 }).complete f 0x00

/-! ## SPDM (R387, R388) -/

/-- An answer of the SPDM responder to a request code. (DESIGN CHOICE: log 12; PRESUMED: log 85.) -/
def State.spdm (s : State) (code : Byte) (f : Frame) (lead : List Byte := []) : State :=
  (s.updIod fun i => { i with spdmN := i.spdmN + 1 }).complete f 0x00 (lead ++ Config.spdmBody code s.iod.spdmN)

/-- VERSION: one version, 1.3 (R388). (PRESUMED: log 85.) -/
def spdmVersion : List Byte := [0x04, 0x01] ++ toBytes 2 0x1300

/-- ALGORITHMS: what a session signs with, hashes with and encrypts with, ECDSA P-384, SHA-384 and AES-256-GCM, each as the bit the SPDM standard gives it (R388). (PRESUMED: log 85.) -/
def spdmAlgorithms : List Byte := [0x63] ++ toBytes 4 (2 ^ 7) ++ toBytes 4 (2 ^ 1) ++ toBytes 2 (2 ^ 1)

/-- GET_VERSION. (PRESUMED: log 85.) -/
def execGetVersion (s : State) : Out := s.framed false fun f s => s.spdm 0x84 f spdmVersion

/-- GET_CAPABILITIES. -/
def execGetCapabilities (s : State) : Out := s.framed false fun f s => s.spdm 0xE1 f

/-- NEGOTIATE_ALGORITHMS. (PRESUMED: log 85.) -/
def execNegotiateAlgorithms (s : State) : Out := s.framed false fun f s => s.spdm 0xE3 f spdmAlgorithms

/-- GET_DIGESTS. -/
def execGetDigests (s : State) : Out := s.framed false fun f s => s.spdm 0x81 f

/-- GET_CERTIFICATE. -/
def execGetCertificate (s : State) : Out := s.framed false fun f s => s.spdm 0x82 f

/-- CHALLENGE. -/
def execChallenge (s : State) : Out := s.framed false fun f s => s.spdm 0x83 f

/-- The locked entries of a die's action table. -/
def State.lockedActions (s : State) (d : Nat) : List (BitVec 16) := ((List.range 64).map (s.action d)).filter fun w => w.getLsbD 15

/-- The measurements, index 8 as the locked entries and ATBASE now stand (R387). -/
def State.measurements (s : State) : List (BitVec 384) :=
  s.iod.measured ++ [Config.lockedMeasure ((List.range 4).map s.lockedActions) s.iod.atbase]

/-- GET_MEASUREMENTS: the measurements of indices 1 to 8. -/
def execGetMeasurements (s : State) : Out :=
  s.framed false fun f s => s.complete f 0x00 (s.measurements.flatMap fun m => toBytes 48 m.toNat)

/-- KEY_EXCHANGE: a session is opened. -/
def execKeyExchange (s : State) : Out := s.framed false fun f s => (s.updIod fun i => { i with keyed := true }).spdm 0xE4 f

/-- FINISH: an opened session becomes authenticated. -/
def execFinish (s : State) : Out :=
  s.framed false fun f s => (s.updIod fun i => { i with session := i.session || i.keyed }).spdm 0xE5 f

/-- END_SESSION. -/
def execEndSession (s : State) : Out :=
  s.framed false fun f s => (s.updIod fun i => { i with session := false, keyed := false }).spdm 0xEC f

/-- Any other request: ERROR UnsupportedRequest. (PRESUMED: log 85.) -/
def execSpdmUnsupportedRequest (s : State) : Out := s.framed false fun f s => s.complete f 0x00 [0x7F, 0x07]

/-! ## Management reads (R7, R8, R61, R64, R73, R80, R246, R272, R275, R348, R376, R379, R383) -/

/-- The place of an entry's state in the table of R65. -/
def EntrySt.place : EntrySt → Nat
  | .empty => 0
  | .admitting => 1
  | .admitted => 2
  | .running => 3
  | .parked => 4
  | .retired => 5
  | .refused => 6

/-- The 64 bytes of a launch-table entry; its reserved bits read 0 (R8, R64). (DESIGN CHOICE: log 108.) -/
def Entry.bytes (x : Entry) : List Byte :=
  [x.ctl &&& 3, x.prio &&& 0x0F] ++ toBytes 2 x.asid.toNat ++ [x.pred, Config.stateCode x.st.place, x.status, 0] ++
    toBytes 8 x.image.toNat ++ toBytes 8 x.start.toNat ++ toBytes 8 x.arg.toNat ++ toBytes 4 x.rank.toNat ++
    toBytes 4 x.plat.toNat ++ toBytes 4 x.foff.toNat ++ toBytes 4 x.job.toNat ++ toBytes 16 0

/-- TSYNC: LOCKED, STEPPED and OFS (R61). -/
def Iod.tsync (i : Iod) : Nat :=
  (if i.locked then 2 ^ 31 else 0) + (if i.stepped then 2 ^ 30 else 0) + (i.ofs % 2 ^ 24).toNat

/-- A tile-map entry: STATE, LTE, REG, LPOS and FAILS (R73). -/
def Tile.mapWord (x : Tile) : Nat :=
  (match x.st with
    | .free => 0
    | .bound => 2 ^ 30
    | .dead => 2 ^ 31) + (if x.st == .bound then x.lte.toNat * 2 ^ 16 + x.reg.toNat * 2 ^ 13 + x.lpos.toNat * 2 ^ 6 else 0) + x.fails.toNat

/-- SNAPSTAT: FULL, TAG, SRC and MISSED (R383). -/
def Iod.snapstat (i : Iod) : Nat :=
  (if i.snapFull then 2 ^ 63 else 0) + i.snapTag.toNat * 2 ^ 48 + i.snapSrc.toNat * 2 ^ 45 + i.missed.toNat

/-- Sixty-four bits of the map of granted address spaces (R80). -/
def Iod.agrantWord (i : Iod) (w : Nat) : Nat := ((i.agrant.filter fun a => a / 64 == w).map fun a => 2 ^ (a % 64)).sum

/-- The latched values of a tile, in the order R383 lists them. (DESIGN CHOICE: log 108.) -/
def TileSnap.bytes (x : TileSnap) : List Byte :=
  toBytes 4 x.pc ++ toBytes 8 x.rtime ++ toBytes 8 x.tstat.toNat ++ toBytes 4 x.holdc.toNat ++ [x.mflags.setWidth 8, x.vflags.setWidth 8] ++
    toBytes 8 x.fstat.toNat ++ [x.fails.setWidth 8, x.phase.setWidth 8]

/-- What a management frame reads; what nothing has latched reads 0. (DEDUCED: log 84; DESIGN CHOICE: log 108.) -/
def State.mgmtRead (s : State) : MgmtReg → List Byte
  | .tsync => toBytes 4 s.iod.tsync
  | .ptpDomain => [s.iod.ptpDomain]
  | .imageBase => toBytes 8 s.iod.imageBase
  | .imageLen => toBytes 8 s.iod.imageLen
  | .atbase => toBytes 8 s.iod.atbase.toNat
  | .agrant w => toBytes 8 (s.iod.agrantWord w)
  | .bucketMap b => toBytes 4 (SMap.get (bucketMapReset b) s.iod.bucketMap b).toNat
  | .dstate => toBytes 4 s.iod.dstate.toNat
  | .dprof i => toBytes 4 (s.iod.dprof.getD i 0).toNat
  | .dpwr d => toBytes 8 ((s.die d.toNat).plim.toNat * 2 ^ 48 + (s.die d.toNat).estep.toNat)
  | .temerg => toBytes 2 (s.iod.temerg % 65536).toNat
  | .pstr e => toBytes 8 (s.entry e).pstr
  | .snapstat => toBytes 8 s.iod.snapstat
  | .snapt => toBytes 8 s.iod.snapt.toNat
  | .snapcmp => toBytes 8 s.iod.snapcmp.toNat
  | .bucket d b => toBytes 2 ((s.die d.toNat).bucket b).toNat
  | .debugEnable d => [if (s.die d.toNat).debug then 1 else 0]
  | .injectEnable d => [if (s.die d.toNat).inject then 1 else 0]
  | .decoder i => let x := SMap.get Decoder.reset s.iod.decoders i; toBytes 8 x.base ++ toBytes 8 x.len ++ x.ports.map (·.setWidth 8)
  | .dieRelease d => [if (s.die d.toNat).halted then 1 else 0]
  | .entry e => (s.entry e).bytes
  | .tileMap t => toBytes 4 (s.tile t).mapWord
  | .soft t => toBytes 8 (s.tile t).soft
  | .dbgb t => toBytes 8 (s.tile t).dbgb.toNat
  | .tinj t => toBytes 8 (s.tile t).tinj.toNat
  | .minj d => toBytes 8 (s.die d.toNat).minj.toNat
  | .action d c => toBytes 2 (s.action d.toNat c).toNat
  | .powerStatus => [if s.iod.powerSeq then 1 else 0]
  | .snapTile t => (s.tile t).snap.bytes
  | .snapSeqr q =>
    let x := (s.seqr q).snap
    toBytes 4 x.1 ++ toBytes 2 (x.2.1 % 65536).toNat ++ toBytes 2 (x.2.2.1 % 65536).toNat ++ toBytes 4 x.2.2.2
  | .snapRouter d => (List.range 96).flatMap fun k =>
      let x := SMap.get (0, 0) ((s.die d.toNat).routerSnap) k
      toBytes 8 x.1 ++ toBytes 8 x.2
  | .snapSlice d i => let x := (SMap.get Slice.reset (s.die d.toNat).slices i).snap; toBytes 8 x.1 ++ toBytes 8 x.2.1 ++ toBytes 8 x.2.2
  | .snapTime => toBytes 8 s.iod.snapTime.1.toNat
  | .snapPstr e => toBytes 8 (s.iod.snapTime.2.getD e.toNat 0)

/-- A read through a management frame, answered with the bytes (R7). (DEDUCED: log 84.) -/
def State.answerRead (s : State) (f : Frame) (r : MgmtReg) : State := s.complete f 0x00 (s.mgmtRead r)

/-! ## Management writes (R7, R389, R410) -/

/-- The value a management write brings. -/
def frameValue (f : Frame) : Nat := ofBytes f.data

/-- A write only the trusted monitor makes: any other writer is answered REFUSED. (DEDUCED: log 84.) -/
def State.locked (s : State) (f : Frame) (g : State → State) : State :=
  match f.who with
  | .monitor => (g s).complete f 0x00
  | .firmware => s.refused f

/-- Is a bucket-map entry one R87 allows: two dies, slices below 24? (PRESUMED: log 64.) -/
def bucketOk (w : Nat) : Bool :=
  decide (field w 2 5 < 24) && decide (field w 10 5 < 24) && decide (field w 0 2 ≠ field w 8 2)

/-- The row that writes a register is next, with the same frame. -/
def State.handOver (s : State) (i : Instr) (f : Frame) : State := { s with agenda := (i, .frame f) :: s.agenda }

/-- MGMT_REGISTER_WRITE (R7, R410): per field access of the register's own rule, and the reads of every register; a register with a row of its own is written by that row. (DEDUCED: log 84; DESIGN CHOICE: log 129.) -/
def execMgmtRegisterWrite (s : State) : Out :=
  s.framed false fun f s =>
    let v := (frameValue f)
    if f.read then s.answerRead f f.reg
    else match f.reg with
    | .entry _ => s.complete f 0x00
    | .tileMap t => s.handOver .tileMapWrite { f with a := t }
    | .dbgb t => s.handOver .dbgbWrite { f with a := t }
    | .tinj t => s.handOver .tinjWrite { f with a := t }
    | .minj d => s.handOver .minjWrite { f with a := d.toNat }
    | .action d c => s.handOver .actionEntryWrite { f with a := d.toNat, b := c }
    | .snapcmp => s.handOver .snapcmpWrite f
    | .soft _ => s.complete f 0x00
    | .powerStatus => s.complete f 0x00
    | .snapTile _ => s.complete f 0x00
    | .snapSeqr _ => s.complete f 0x00
    | .snapRouter _ => s.complete f 0x00
    | .snapSlice _ _ => s.complete f 0x00
    | .snapTime => s.complete f 0x00
    | .snapPstr _ => s.complete f 0x00
    | .tsync => (s.updIod fun i => { i with stepped := i.stepped && !v.testBit 30 }).complete f 0x00
    | .ptpDomain => (s.updIod fun i => { i with ptpDomain := BitVec.ofNat 8 v }).complete f 0x00
    | .imageBase => (s.updIod fun i => { i with imageBase := v }).complete f 0x00
    | .imageLen => (s.updIod fun i => { i with imageLen := v }).complete f 0x00
    | .atbase => s.locked f fun s => s.updIod fun i => { i with atbase := BitVec.ofNat 64 (v / 65536 * 65536) }
    | .agrant _ => s.refused f
    | .bucketMap b =>
      if decide (b < 4096) && bucketOk v then
        s.locked f fun s => s.updIod fun i => { i with bucketMap := SMap.set (bucketMapReset b) i.bucketMap b (BitVec.ofNat 32 v) }
      else s.refused f
    | .dstate => s.locked f fun s => s.updIod fun i => { i with dstate := BitVec.ofNat 32 (v % 1024) }
    | .dprof _ => s.complete f 0x00
    | .dpwr d => (s.updDie d.toNat fun x => { x with plim := BitVec.ofNat 16 (v / 2 ^ 48) }).complete f 0x00
    | .temerg => s.locked f fun s => s.updIod fun i => { i with temerg := sext v 16 }
    | .pstr _ => s.complete f 0x00
    | .snapstat => s.complete f 0x00
    | .snapt => s.complete f 0x00
    | .bucket d b =>
      (s.updDie d.toNat fun x =>
        let w := x.bucket b
        let w := (w &&& 0x7FFF) ||| (if v.testBit 15 then 0x8000 else 0)
        { x with buckets := SMap.set (BitVec.ofNat 16 (b % 24)) x.buckets b w }).complete f 0x00
    | .debugEnable d => s.locked f fun s => s.updDie d.toNat fun x => { x with debug := v.testBit 0 }
    | .injectEnable d => s.locked f fun s => s.updDie d.toNat fun x => { x with inject := v.testBit 0 }
    | .decoder i =>
      if 4 ≤ i ∨ f.data.length ∉ [1, 2, 4] then s.badFrame f
      else (s.updIod fun x => { x with
        decoders := SMap.set Decoder.reset x.decoders i ⟨f.b, f.c, f.data.map (·.setWidth 2)⟩ }).complete f 0x00
    | .dieRelease d => s.locked f fun s => s.updDie d.toNat fun x => { x with halted := false }

/-- A field written one to clear: the old bit unless the write sets it. -/
def w1c (old new : W64) (bit : Nat) : W64 := if old.getLsbD bit && !new.getLsbD bit then BitVec.twoPow 64 bit else 0

/-- DBGB_WRITE (R362). -/
def execDbgbWrite (s : State) : Out :=
  s.framed false fun f s =>
    if 384 ≤ f.a then s.badFrame f
    else if f.read then s.answerRead f (.dbgb f.a)
    else if !(s.die (dieOf f.a)).debug then s.refused f
    else (s.updTile f.a fun x => { x with dbgb := BitVec.ofNat 64 (frameValue f) &&& 0x80000000FFFFFFFF }).complete f 0x00

/-- TINJ_WRITE (R363). -/
def execTinjWrite (s : State) : Out :=
  s.framed false fun f s =>
    let v : W64 := BitVec.ofNat 64 (frameValue f)
    let cause := field v.toNat 56 6
    if 384 ≤ f.a then s.badFrame f
    else if f.read then s.answerRead f (.tinj f.a)
    else if !(s.die (dieOf f.a)).debug ∨ cause < 6 ∨ 9 < cause then s.refused f
    else (s.updTile f.a fun x => { x with tinj := (v &&& 0xBFE00000FFFFFFFF) ||| w1c x.tinj v 62 }).complete f 0x00

/-- MINJ_WRITE (R272). -/
def execMinjWrite (s : State) : Out :=
  s.framed false fun f s =>
    let v : W64 := BitVec.ofNat 64 (frameValue f)
    if 4 ≤ f.a then s.badFrame f
    else if f.read then s.answerRead f (.minj (BitVec.ofNat 2 f.a))
    else if !(s.die f.a).inject then s.refused f
    else (s.updDie f.a fun x => { x with minj := (v &&& 0x8003FFFE0000FFFF) ||| w1c x.minj v 62 }).complete f 0x00

/-- Is a write to an action-table entry refused? (R349) -/
def actionRefused (who : Writer) (old : BitVec 16) (code v : Nat) : Bool :=
  let act := v % 8
  decide (5 ≤ act) || (act == 4 && !([0x1A, 0x1B, 0x1C, 0x1E].contains code)) ||
    match who with
    | .firmware => old.getLsbD 15
    | .monitor => [0x19, 0x1D, 0x23].contains code && act != 2 && act != 3

/-- ACTION_ENTRY_WRITE (R348, R349): firmware writes ACT, SNAP and HEALTH of unlocked entries, the monitor LOCK as well. (DEDUCED: log 71, 84.) -/
def execActionEntryWrite (s : State) : Out :=
  s.framed false fun f s =>
    let v := (frameValue f)
    let old := s.action f.a f.b
    if 4 ≤ f.a ∨ 64 ≤ f.b then s.badFrame f
    else if f.read then s.answerRead f (.action (BitVec.ofNat 2 f.a) f.b)
    else if actionRefused f.who old f.b v then s.refused f
    else if f.b = 0 ∨ 0x24 ≤ f.b then s.complete f 0x00
    else if f.who = .firmware ∧ v.testBit 15 then s.refused f
    else
      let w : BitVec 16 := BitVec.ofNat 16 v &&& 0x80C7
      (s.updDie f.a fun x => { x with actions := SMap.set (actionReset f.b) x.actions f.b w }).complete f 0x00

/-- SNAPCMP_WRITE (R383): the trigger is re-armed by each write. -/
def execSnapcmpWrite (s : State) : Out :=
  s.framed false fun f s =>
    if f.read then s.answerRead f .snapcmp
    else (s.updIod fun i => { i with snapcmp := BitVec.ofNat 64 (frameValue f) }).complete f 0x00

/-- Does a die hold a launch? -/
def State.dieHolds (s : State) (d : Nat) : Bool := s.entries.any fun p => p.2.live && (p.2.bases.getD d none).isSome

/-- TILE_MAP_WRITE (R73): the monitor returns a DEAD tile to FREE while the die holds no launch; every other write is refused. -/
def execTileMapWrite (s : State) : Out :=
  s.framed false fun f s =>
    if 384 ≤ f.a then s.badFrame f
    else if f.read then s.answerRead f (.tileMap f.a)
    else if f.who = .monitor ∧ (s.tile f.a).st = .dead ∧ field (frameValue f) 30 2 = 0 ∧ !s.dieHolds (dieOf f.a) then
      (s.updTile f.a fun x => { x with st := .free }).complete f 0x00
    else s.refused f

/-- HANDLER_INSTALL (R353, R389): the monitor writes into a tile's handler area. (DEDUCED: log 89.) -/
def execHandlerInstall (s : State) : Out :=
  s.framed false fun f s =>
    let a := f.addr.toNat
    if 384 ≤ f.a then s.badFrame f
    else if 0x10000 < a + f.data.length then s.refused f
    else s.locked f fun s => s.updTile f.a fun x => x.putBytes a f.data

/-! ## Power and reset (R12, R91, R92, R387, R390) -/

/-- The order of the rails. (DEDUCED: log 87.) -/
def railOrder : List Rail := [.vtrust, .vio, .vhbm, .vcore]

/-- POWER_UP (R12, R387): rails raised, in the order given; out of order, the trust die holds every other die in reset and reports POWER_SEQ; all four in order, it measures the firmware and releases the dies. (DEDUCED: log 87.) -/
def execPowerUp (s : State) : Out :=
  match s.ext with
  | .rails l =>
    let rs := s.iod.rails ++ l
    let bad := s.iod.powerSeq || rs != railOrder.take rs.length
    let up := !bad && rs.length == 4 && s.iod.rails != railOrder
    let s := s.updIod fun i => { i with
      rails := rs, powerSeq := bad, dstate := if bad then 0x155 else if up then 0x2AA else i.dstate,
      powerUps := if up then i.powerUps + 1 else i.powerUps }
    .next (if up then s.updIod fun i => { i with measured := (List.range 7).map fun k => Config.measurement (k + 1) i.powerUps } else s)
  | _ => .next s

/-- RAIL_REMOVAL (R12): without power no state is left, nor POWER_SEQ; what has left the package, and the count of power-ups, are history. (DEDUCED: log 87.) -/
def execRailRemoval (s : State) : Out :=
  .next { State.reset with
    nfree := s.nfree, nextId := s.nextId, out := s.out, iod := { Iod.reset with powerUps := s.iod.powerUps } }

/-- A tile after the reset of its die: DEAD stays DEAD with its map entry (R390). (DEDUCED: log 88.) -/
def Tile.dieReset (x : Tile) : Tile :=
  match x.st with
  | .dead => { Tile.reset with st := .dead, lte := x.lte, reg := x.reg, lpos := x.lpos, fails := x.fails }
  | _ => Tile.reset

/-- The queries a die has lost, on their way to it, waiting there or with their walk begun, are asked anew, at their BACKUP homes; its own tiles' are gone; and what was on its way between a home and it as BACKUP is done with (R88, R92). (PRESUMED: log 64; DEDUCED: log 88.) -/
def State.requery (s : State) (d : Nat) : State :=
  let s := { s with walks := s.walks.filter fun (w : Walk) => w.die != d }
  let s := { s with queries := s.queries.filter fun (y : TlbQ) => !y.client.tile.any fun t => dieOf t == d }
  let toBackup := fun (y : TlbQ) => y.home.1 != d && y.leg.copy fun e => (s.backupOf e.asid y.va).all fun b => b.1 == d
  let lost := s.queries.filter fun y => y.home.1 == d
  let done := s.queries.filter toBackup
  let s := s.dropQueries fun y => y.home.1 == d || toBackup y
  let s := lost.foldl State.askAgain s
  done.foldl (fun s y => match y.leg with
    | .copies e => s.sendAnswer y (some e)
    | .copied e => s.sendAnswer y (some e)
    | _ => s) s

/-- DIE_RESET (R92, R390): the die's launches are killed, its DSTATE is RESET, invalidations wait for it no more, its buckets fail over, its tiles and blocks are reset; records, the clock and the power registers stay. (DEDUCED: log 88.) -/
def execDieReset (d : BitVec 2) (s : State) : Out :=
  let n := d.toNat
  let s := (s.launchesOn n).foldl (fun s e => s.kill e) s
  let ds := s.iod.dstate.toNat
  let s := s.updIod fun i => { i with
    dstate := BitVec.ofNat 32 (ds - field ds (2 * n) 2 * 2 ^ (2 * n) + 2 ^ (2 * n)), failover := i.failover ||| BitVec.twoPow 4 n,
    invals := i.invals.map fun (x : Inval) => { x with acks := x.acks &&& ~~~ BitVec.twoPow 4 n } }
  let s := s.invalDone.mapTiles fun t x => if dieOf t = n then x.dieReset else x
  let s := s.mapSeqrs fun q x => if q / 96 = n then Seqr.reset else x
  let s := { s with creqs := s.creqs.filter fun (r : CReq) => r.die != n }
  let s := { s with misses := s.misses.filter fun (m : Miss) => m.die != n }
  let s := { s with packets := s.packets.filter fun (k : Packet) => k.toDie != n || k.toPort || k.isUpdate }
  let s := { s with taken := s.taken.filter fun (k : Taken) => dieOf k.tile != n }
  let s := s.updDie n fun x => { Die.reset with
    mailbox := x.mailbox, fifo := x.fifo, lostNext := x.lostNext, clock := x.clock, updates := x.updates, plim := x.plim, estep := x.estep }
  let s := { s with pending := s.pending.filter fun (p : Nat × Instr × Ext) => p.2.1 != Instr.dieLive d }
  .next (s.requery n)

/-- DIE_LIVE (R92, R387): re-measured, the die is LIVE; its buckets go back to PRIMARY once no TLBINV is outstanding. (DEDUCED: log 88.) -/
def execDieLive (d : BitVec 2) (s : State) : Out :=
  let n := d.toNat
  if s.iod.powerSeq ∨ s.iod.rails ≠ railOrder then .next s
  else
    let ds := s.iod.dstate.toNat
    let s := s.updIod fun i => { i with
      dstate := BitVec.ofNat 32 (ds - field ds (2 * n) 2 * 2 ^ (2 * n) + 2 * 2 ^ (2 * n)),
      measured := i.measured.set (3 + n) (Config.measurement (4 + n) i.powerUps) }
    .next (if s.iod.invals.isEmpty then s.updIod fun i => { i with failover := i.failover &&& ~~~ BitVec.twoPow 4 n }
      else s.later (.dieLive d))

end Sys2Proof.Machine
end

