-- ==== Sys2Proof/Machine/Context.lean ====
section
/-! DEFINITION. The context slabs of HBM: where the saved context of a parked tile lies, what it holds, and what a restore takes from it (18: R373, R374). -/

namespace Sys2Proof.Machine

/-- The physical address of a byte of a tile's context: its 64-byte bursts go round the eight context slabs of its node's sequencers, and in each slab on through the columns, the banks and the rows, from row 1,280 × t (R82, R373). (DESIGN CHOICE: log 125.) -/
def contextPA (t o : Nat) : Nat :=
  ((t / 4 * 8 + o / 64 % 8) * 16 + 15) * 2 ^ 26 + o / 8192 % 16 * 2 ^ 22 + (1280 * (t % 4) + o / 131072) * 2 ^ 10 +
    o / 512 % 16 * 64 + o % 64

/-- The place of a physical address in a tile's context of 5 MiB, if it lies there. (DESIGN CHOICE: log 125.) -/
def contextOff (t pa : Nat) : Option Nat :=
  let row := pa / 2 ^ 10 % 4096
  if pa / 2 ^ 26 % 16 = 15 ∧ pa / 2 ^ 33 = t / 4 ∧ 1280 * (t % 4) ≤ row ∧ row < 1280 * (t % 4) + 40 then
    some ((row - 1280 * (t % 4)) * 131072 + pa / 2 ^ 22 % 16 * 8192 + pa / 64 % 16 * 512 + pa / 2 ^ 30 % 8 * 64 + pa % 64)
  else none

/-- Is a place of a context written by a save? Past the tags of the lines, and from 0x4F_0000 on, the table gives nothing (R374). -/
def contextWritten (o : Nat) : Bool := decide (o < 0x3F7E00) || (decide (0x400000 ≤ o) && decide (o < 0x4F0000))

/-- Bytes from a place on. -/
def cellsAt (o : Nat) (bs : List Byte) : List Host.Cell := bs.zipIdx.map fun b => (o + b.2, b.1)

/-- The in-flight register records of a context, in the form of R357, with the value slots behind them as in the trap frame (R374). (DESIGN CHOICE: log 125.) -/
def contextRecords (x : Tile) (c : Nat) : List Host.Cell :=
  (captureAll x.prim.regs c ((sortBy resultLe (x.prim.inflight.filter fun r => decide (c ≤ r.land))).take 32) 0 []).map
    fun b => (0x4C8000 + (b.1 - 0x200), b.2)

/-- What a tile's context holds, by place: lines 256 on, their tags, the accumulators, the planes, the records; the rest of what is saved has no layout, and is free (R374). (DESIGN CHOICE: log 125.) -/
def contextCells (x : Tile) (c n : Nat) : List Host.Cell :=
  (x.spad.filterMap fun b => if 0x10000 ≤ b.1 then some (b.1 - 0x10000, b.2) else none) ++
  (x.ltag.flatMap fun l => if 256 ≤ l.1 then cellsAt (0x3F0000 + 2 * (l.1 - 256)) (toBytes 2 l.2.toNat) else []) ++
  (x.mx.acc.flatMap fun r => r.2.flatMap fun v => cellsAt (0x400000 + 5 * (128 * r.1 + v.1)) (toBytes 5 v.2.toNat)) ++
  ([false, true].flatMap fun b => (List.range 128).flatMap fun j => (List.range 256).flatMap fun k =>
    cellsAt (0x4A0000 + (if b then 0x10000 else 0) + 512 * j + 2 * k)
      (toBytes 2 (SMap.get flZero (SMap.get [] (x.mx.plane b).rows j) k).toNat)) ++
  contextRecords x c ++
  ((List.range 0x30000).filterMap fun i =>
    if 0x8000 ≤ i ∧ i < 0xA400 then none else some (0x4C0000 + i, Config.contextByte n i))

/-- A tile's context written to its context slabs; the words written have valid codes (R373, R374). (DEDUCED: log 50; DESIGN CHOICE: log 125.) -/
def State.writeContext (s : State) (t : Nat) : State :=
  let x := s.tile t
  let keeps := fun (pa : Nat) => !(contextOff t pa).any contextWritten
  { s.spend with
    mem := writeCells (s.mem.filter fun c => keeps c.1)
      ((contextCells x (s.region (s.regionOf t)).rtime s.nfree).map fun c => (contextPA t c.1, c.2))
    merr := s.merr.filter fun e => keeps (8 * e.1) }

/-- A byte of a word replaced. -/
def putByte {w : Nat} (v : BitVec w) (i : Nat) (b : Byte) : BitVec w :=
  (v &&& ~~~ ((0xFF : BitVec w) <<< (8 * i))) ||| (b.setWidth w <<< (8 * i))

/-- A byte of a saved context put where it came from (R374). -/
def Tile.putContext (x : Tile) (o : Nat) (b : Byte) : Tile :=
  if o < 0x3F0000 then { x with spad := SMap.set 0 x.spad (0x10000 + o) b }
  else if o < 0x3F7E00 then { x with ltag := SMap.upd 0 x.ltag (256 + (o - 0x3F0000) / 2) fun v => putByte v (o % 2) b }
  else if o < 0x400000 then x
  else if o < 0x4A0000 then
    let e := (o - 0x400000) / 5
    { x with mx := { x.mx with acc := SMap.upd [] x.mx.acc (e / 128) fun r => SMap.upd 0 r (e % 128) fun v => putByte v ((o - 0x400000) % 5) b } }
  else if o < 0x4C0000 then
    let p := o - 0x4A0000
    let pl := x.mx.plane (decide (0x10000 ≤ p))
    let rows := SMap.upd [] pl.rows (p / 512 % 128) fun r => SMap.upd flZero r (p / 2 % 256) fun v => putByte v (p % 2) b
    { x with mx := x.mx.setPlane (decide (0x10000 ≤ p)) { pl with rows := rows } }
  else x

/-- A tile whose lines, tags, accumulators and planes hold zero bytes. -/
def Tile.zeroContext (x : Tile) : Tile :=
  let z := fun (p : Plane) => { p with rows := (List.range 128).map fun j => (j, planeRow fun _ => 0) }
  { x with spad := [], ltag := [], mx := { x.mx with acc := [], planes := (z x.mx.planes.1, z x.mx.planes.2) } }

/-- A saved tile with its lines, their tags, the accumulators and the planes as the context slabs hold them (R374, R375). (DEDUCED: log 50; DESIGN CHOICE: log 125.) -/
def State.readContext (s : State) (t : Nat) (y : Tile) : Tile :=
  (s.mem.filterMap fun c => (contextOff t c.1).map fun o => (o, c.2)).foldl (fun x c => x.putContext c.1 c.2) y.zeroContext

end Sys2Proof.Machine
end

