-- ==== Sys2Proof/Machine/Power.lean ====
section
/-! DEFINITION. Package causes and package time: rendezvous leaves, stretches, thermal and fabric holds, context save and restore, snapshots and tile retirement (03: R71, R72; 04: R93; 14: R296; 15: R325; 18: R370 to R384). -/

namespace Sys2Proof.Machine

/-! ## Package causes (R93, R296, R352) -/

/-- INVAL_TIMEOUT (R93): a die that has not acked 2^20 ticks after the command was accepted. -/
def execInvalTimeout (n : Nat) (d : BitVec 2) (s : State) : Out :=
  match s.iod.invals.find? fun x => x.id == n && x.acks.getLsbD d.toNat with
  | none => .next s
  | some x =>
    .next (if x.tick + 2 ^ 20 ≤ s.ptime.toNat then s.packageCause 4 0xFF 0x23 (BitVec.ofNat 8 d.toNat) (x.frame.seq.setWidth 64) else s)

/-- LINK_DOWN (R296, R352): the route is down, with a record; taken up again with the route still down, it was not restored and ends what waits on it. (DEDUCED: log 62.) -/
def execLinkDown (route : Route) (s : State) : Out :=
  if route ∈ s.iod.down then
    let hit := fun (t : Nat) (c : Copy) =>
      if (s.recOf t c).any fun r => r.kind == .fgo then (s.extent t (extIndex c.e)).bind fun x =>
        if x.cls = 1 then none
        else s.routeAt c x fun y => y == route
      else none
    let cs := s.tiles.flatMap fun p => p.2.far.copies.filterMap fun c => (hit p.1 c).map fun i => (p.1, c, i)
    let os := s.ops.filter fun o => (s.extent o.tile (extIndex o.e)).any fun x => x.cls != 1 &&
      (o.pa.any (fun pa => s.routeOf x pa == route) || (x.cls == 3 && route == .fabric x.peer))
    let s := { s with iod := { s.iod with lost := route :: s.iod.lost } }
    let s := cs.foldl (fun s c =>
      if (s.copyAt c.1 c.2.1.slot).any (fun y => y.rec_ == c.2.1.rec_) then s.faultCopy c.1 c.2.1 3 c.2.2 else s) s
    .next (os.foldl (fun s o => s.faultOp o 3) s)
  else
    let s := s.packageCause 4 0xFF 0x21 s.anyInfo s.anyAddr
    .next (State.later { s.spend with iod := { s.iod with down := route :: s.iod.down } } (.linkDown route))

/-- LINK_RESTORED (R296): what waits on the route goes on. (DEDUCED: log 62.) -/
def execLinkRestored (route : Route) (s : State) : Out :=
  .next { s with iod := { s.iod with down := s.iod.down.filter (fun r => r != route), lost := s.iod.lost.filter fun r => r != route },
                 pending := s.pending.filter fun p => p.2.1 != .linkDown route }

/-! ## Rendezvous and stretches (R71, R376 to R379) -/

/-- The launches of a job that hold a place on the package. -/
def State.jobEntries (s : State) (job : BitVec 32) : List (BitVec 8) :=
  (s.entries.filter fun e => e.2.job == job && (e.2.st == .running || e.2.st == .parked || e.2.st == .admitted)).map fun e => BitVec.ofNat 8 e.1

/-- The stretch a die asks for: the least multiple of 1,024 ticks that brings its power within PLIM, at most 2^20 (R377). -/
def stretchOf (plim energy span : Nat) : Nat :=
  if plim = 0 ∨ energy * 800 ≤ plim * span then 0
  else
    let need := (energy * 800 + plim - 1) / plim - span
    min (2 ^ 20) ((need + 1023) / 1024 * 1024)

/-- A launch leaves an RDV: each die measures its superstep, and the largest request goes up the tree (R376, R377). (DESIGN CHOICE: log 12.) -/
def State.superstep (s : State) (e : BitVec 8) (t : Nat) : State :=
  let x := s.entry e
  let s := s.updEntry e fun y => { y with lastRdv := some t }
  match x.lastRdv with
  | none => s
  | some t0 =>
    let s := (List.range 4).foldl (fun s d => s.updDie d fun y => { y with estep := Config.energy d t0 t }) s
    let ask := ((List.range 4).map fun d => stretchOf (s.die d).plim.toNat (s.die d).estep.toNat (t - t0)).foldl max 0
    if ask = 0 then s else s.say (.stretch x.job ask)

/-- Two clocks joined. -/
def joinClock (a b : List Nat) : List Nat := (List.range 5).map fun i => max (a.getD i 0) (b.getD i 0)

/-- A region that leaves an RDV: its die's accesses to CAUSAL lines wait for the writes that came before an RDV of the job with that target, those that other packages had the I/O die make among them (R339). (DEDUCED: log 111.) -/
def State.meetClocks (s : State) (r t : Nat) : State :=
  let x := s.region r
  let job := (s.entry x.entry).job
  let at_ := fun (y : Region) => y.rdv == some t || y.exch.any fun w => w.1 == t
  let c := (s.regions.filter fun k => (s.entry k.2.entry).job == job && at_ k.2).foldl (fun c k => joinClock c k.2.seen) (joinClock x.seen s.iod.clock)
  s.updDie x.die fun d => { d with floor := joinClock d.floor c }

/-- RDV_LEAVE (R71, R72, R143, R339): an RDV wait ends on tick Tʹ, and the exchange window begins; a parked region's wait goes on (R375). -/
def execRdvLeave (r : Nat) (s : State) : Out :=
  let x := s.region r
  match x.rdv with
  | none => .next s
  | some t =>
    if s.ptime.toNat < t || !x.runs then .next s
    else
      let s := (s.meetClocks r t).updRegion r fun x => { x with rdv := none, exch := some (t, x.rtime) }
      .next (if (s.entry x.entry).lastRdv == some t then s else s.superstep x.entry t)

/-- The earliest target from a tick on that a region of a launch waits for already, as moved and as named. -/
def State.waitedFrom (s : State) (e : BitVec 8) (tb : Nat) : Option (Nat × Nat) :=
  (s.keysOf e).foldl (fun m k => match (s.region k).rdv with
    | none => m
    | some t => if t < tb || m.any (fun x => decide (x.1 ≤ t)) then m else some (t, (s.region k).nominal)) none

/-- Amounts whose Tb is a target that regions of the launch wait for already: that target and those after it move at once, with a job hold that begins there (R325, R377, R378). (DEDUCED: log 69.) -/
def State.meetWaiting (s : State) (e : BitVec 8) (tb : Nat) : State :=
  match s.waitedFrom e tb with
  | none => s
  | some (t, nominal) =>
    let x := s.entry e
    let m := x.meets nominal t 0
    let later := m.2.pstr - x.pstr
    let s := (s.setEntry e m.2).noteMove x.job t later
    let s := s.mapRegions fun _ r => if r.entry = e then
      { r with rdv := r.rdv.map fun u => if u < t then u else if u = t then u + m.1 else u + later } else r
    let moved := fun (h : JobHold) => h.job == x.job && !h.active && h.tb == some t
    if m.1 = 0 ∨ !s.jobHolds.any moved then s
    else
      let s := { s with jobHolds := s.jobHolds.map fun h => if moved h then { h with tb := some (t + m.1), hl := h.hl - x.hotPart m.2 } else h }
      s.after (t + m.1 - s.ptime.toNat) (.jobHoldBegin x.job)

/-- An amount of ticks for every target of a job from its Tb on: kind 0 a stretch, 1 a hold's length, 2 a replay and 3 a resume displacement, 4 the length of this package's own thermal hold. (DEDUCED: log 69.) -/
def State.amount (s : State) (job : BitVec 32) (tick kind n : Nat) : State :=
  if n = 0 then s
  else (s.jobEntries job).foldl (fun s e =>
    (s.updEntry e fun x => { x with waitTb := x.waitTb ++ [(tick + 131072, kind, n)] }).meetWaiting e (tick + 131072)) s

/-- STRETCH_RESULT (R377): the tree's answer, with the request tick. -/
def execStretchResult (s : State) : Out :=
  match s.ext with
  | .notice n => .next (s.amount n.job n.tick 0 n.amount)
  | _ => .next s

/-- DISPLACEMENT_NOTICE (R95, R375): a replay displacement (in time set) or a resume displacement of another package. -/
def execDisplacementNotice (s : State) : Out :=
  match s.ext with
  | .notice n => .next (s.amount n.job n.tick (if n.inTime then 2 else 3) n.amount)
  | _ => .next s

/-! ## Job holds (R325, R384) -/

/-- FLIT_RETRY (R325): a flit sent again in a slack slot; one that cannot arrive in time is a fabric overrun, and the switch sends its notice. (DESIGN CHOICE: log 49.) -/
def execFlitRetry (s : State) : Out :=
  match s.ext with
  | .notice n => .next (if n.inTime then s else (s.after s.delay .overrunNotice (.notice n)).spend)
  | _ => .next s

/-- A hold that waits for its Tb, which may be a target that regions of the job wait for already (R325). -/
def State.addJobHold (s : State) (job : BitVec 32) (dt hl : Nat) (opened : Bool) : State :=
  let tb := (((s.jobEntries job).filterMap fun e => s.waitedFrom e (dt + 131072)).map fun x => x.1).min?
  let s := { s with jobHolds := s.jobHolds ++ [⟨job, tb, dt, hl, none, opened, false⟩] }
  match tb with
  | none => s
  | some t => s.after (t - s.ptime.toNat) (.jobHoldBegin job)

/-- OVERRUN_NOTICE (R325): the record, the hold from Tb, and HL for every later target. -/
def execOverrunNotice (s : State) : Out :=
  match s.ext with
  | .notice n =>
    let s := (s.jobEntries n.job).foldl (fun s e => (s.packageCause 4 e 0x22 s.anyInfo s.anyAddr).spend) s
    let s := s.addJobHold n.job n.tick n.amount false
    .next (s.amount n.job n.tick 1 n.amount)
  | _ => .next s

/-- JOB_HOLD_BEGIN (R325, R384): the holds of a job whose Tb is now. -/
def execJobHoldBegin (job : BitVec 32) (s : State) : Out :=
  let now := s.ptime.toNat
  let due := s.jobHolds.filter fun h => h.job == job && !h.active && h.tb.any fun t => decide (t ≤ now)
  let hl := due.foldl (fun m h => if h.open_ then m else max m h.hl) 0
  let begin_ := fun (h : JobHold) => if due.contains h then
    { h with active := true, until_ := if h.open_ then none else some (now + hl) } else h
  let s := { s with jobHolds := s.jobHolds.map begin_ }
  .next (if hl = 0 then s else s.after hl (.jobHoldEnd job))

/-- JOB_HOLD_END (R325): a hold's length is over. -/
def execJobHoldEnd (job : BitVec 32) (s : State) : Out :=
  .next { s with jobHolds := s.jobHolds.filter fun h => !(h.job == job && h.active && h.until_.any fun t => decide (t ≤ s.ptime.toNat)) }

/-- JOB_HOLD_NOTICE (R384): another package of the job retires a tile; the job holds here from its Tb. -/
def execJobHoldNotice (s : State) : Out :=
  match s.ext with
  | .notice n => .next (s.addJobHold n.job n.tick 0 true)
  | _ => .next s

/-- JOB_RELEASE_NOTICE (R385): every package aborts its current tasks of the job as REPLAY does; they start again on the tick the notice names, those of a parked launch once it is resumed, with nothing of its saved context. -/
def execJobReleaseNotice (s : State) : Out :=
  match s.ext with
  | .notice n =>
    let s := { s with jobHolds := s.jobHolds.filter fun h => !(h.job == n.job && h.open_) }
    let es := (s.jobEntries n.job).filter fun e => (s.entry e).st == .running || (s.entry e).st == .parked
    .next (es.foldl (fun s e => (s.requeue e (max n.tick s.ptime.toNat)).save e []) s)
  | _ => .next s

/-! ## Thermal holds (R380, R381) -/

/-- The index of the first reading above a limit. -/
def firstAbove (l : List Int) (m : Int) : Nat := (l.findIdx? fun x => decide (m < x)).getD 0

/-- The record of a thermal hold, and its action, on the hold's first tick (R352, R380). -/
def State.thermalNews (s : State) : State :=
  match s.iod.hotNews with
  | none => s
  | some (die, top) =>
    if s.iod.hot.all fun b => decide (s.ptime.toNat < b) then s
    else
      let s := { s with iod := { s.iod with hotNews := none } }
      (s.packageAct 5 { EvRec.package s 5 with code := 0x1F, info := BitVec.ofNat 8 die, addr := BitVec.ofInt 64 top }).spend

/-- The sensors compared with TEMERG on a multiple of 1,024 ticks: a hold from the next tick on, or the end of one that has lasted 16,384 ticks, this tick being its last (R380, R381). (DESIGN CHOICE: log 120.) -/
def State.sensorTick (s : State) : State :=
  let now := s.ptime.toNat
  let l := s.iod.temps
  if now % 1024 ≠ 0 then s
  else
    match s.iod.hot with
    | none =>
      if l.all fun x => decide (x ≤ s.iod.temerg) then s
      else ({ s with iod := { s.iod with hot := some (now + 1), hotNews := some (firstAbove l s.iod.temerg, l.foldl max 0) } }).after 1 .sensorRead
    | some b =>
      if b + 16384 ≤ now && l.all fun x => decide (x ≤ s.iod.temerg - 5) then
        let hl := (now + 1 - b + 1023) / 1024 * 1024
        let jobs := ((s.entries.filter fun e => e.2.st == .running).map fun e => e.2.job).dedup
        let s := { s with iod := { s.iod with hot := none, cooled := s.iod.cooled ++ [(b, now + 1)] } }
        jobs.foldl (fun s j => (s.amount j now 4 hl).say (.overrun j now hl)) s
      else s

/-- SENSOR_READ (R352, R380, R381): the sensors of the five dies take the readings that come from outside, are compared every 1,024 ticks, and a hold that begins on this tick is recorded. (DESIGN CHOICE: log 120.) -/
def execSensorRead (s : State) : Out :=
  let s := match s.ext with
    | .temps l => { s with iod := { s.iod with temps := l } }
    | _ => s
  .next s.thermalNews.sensorTick

/-! ## Saved context (R302, R370 to R375) -/

/-- A copy beyond the package that is under way goes back to its queue for the sectors it has left (R302). (DEDUCED: log 50.) -/
def Copy.requeued (c : Copy) : Copy :=
  { c with st := .queued, pas := [], parts := [], errs := [], via := [] }

/-- Does a copy wait for a page? -/
def Copy.onPage (c : Copy) : Bool :=
  match c.st with
  | .parked _ => true
  | _ => false

/-- The copies of a launch that wait for a page are translated afresh when it runs again (R302). (DEDUCED: log 50.) -/
def State.requeuePaged (s : State) (e : BitVec 8) : State :=
  (s.tilesOf e).foldl (fun s t => s.updFar t fun f => { f with copies := f.copies.map fun c => if c.onPage then c.requeued else c }) s

/-- CONTEXT_SAVE_DONE (R370, R373, R374): the contexts are saved, in the context slabs too, and the entry is PARKED. (DEDUCED: log 50; DESIGN CHOICE: log 125.) -/
def execContextSaveDone (e : BitVec 8) (s : State) : Out :=
  let x := s.entry e
  if !x.saving ∨ x.st ≠ .running then .next s
  else
    let ts := s.tilesOf e
    let moves := fun (t : Nat) (c : Copy) => c.cls != 0 && c.st == .issued && (s.recOf t c).any fun r => r.kind == .fgo
    let away := ts.flatMap fun t => ((s.tile t).far.copies.filter (moves t)).map fun c => (t, c.slot)
    let s := { s with pending := s.pending.filter fun p => !away.any fun a => stepOfSlot a.1 a.2 p.2.1 }
    let s := ts.foldl (fun s t => s.updFar t fun f => { f with copies := f.copies.map fun c => if moves t c then c.requeued else c }) s
    let s := (ts.foldl State.writeContext s).save e (ts.map s.tile)
    .next (s.updEntry e fun y => { y with st := .parked, saving := false })

/-- A tile's context as saved, over what a context does not hold: the handler area, the tile map, the pending bits and the trap registers; the far engine's saved copies have met the pager's answers and the data that came meanwhile (R302, R374). (DEDUCED: log 50.) -/
def restoreTile (x y : Tile) : Tile :=
  { y with
    spad := (x.spad.filter fun c => decide (c.1 < 0x10000)) ++ y.spad.filter fun c => decide (0x10000 ≤ c.1)
    ltag := (x.ltag.filter fun c => decide (c.1 < 256)) ++ y.ltag.filter fun c => decide (256 ≤ c.1)
    ecc := (x.ecc.filter fun c => decide (c.1 < 8192)) ++ y.ecc.filter fun c => decide (8192 ≤ c.1)
    tecc := (x.tecc.filter fun c => decide (c.1 < 256)) ++ y.tecc.filter fun c => decide (256 ≤ c.1)
    spad0 := x.spad0, ip := x.ip, preq := x.preq, ie := x.ie, tcause := x.tcause, tpc := x.tpc, tmask := x.tmask, taddr := x.taddr
    tcmp := x.tcmp, dbgb := x.dbgb, tinj := x.tinj, soft := x.soft, st := x.st, lte := x.lte, reg := x.reg, lpos := x.lpos
    fails := x.fails, snap := x.snap, uses := x.uses, retiring := x.retiring, far := x.far, after := x.after, still := x.still, undo := x.undo }

/-- The resume displacement of a launch whose region waits at an RDV (R375). -/
def resumeShift (now t : Nat) : Nat := if now + 256 ≤ t then 0 else (now + 256 - t + 1023) / 1024 * 1024

/-- CONTEXT_RESTORE_DONE (R302, R375): the contexts are back from the context slabs, the copies that waited for a page are to be translated afresh, the regions go on at their cycles, and the next RDV target lies 256 ticks off at least. (DEDUCED: log 50.) -/
def execContextRestoreDone (e : BitVec 8) (s : State) : Out :=
  let x := s.entry e
  if x.st ≠ .parked then .next s
  else
    let now := s.ptime.toNat
    let back := (s.tilesOf e).zip (SMap.get [] s.saved e.toNat)
    let s := back.foldl (fun s p => s.setTile p.1 (restoreTile (s.tile p.1) (s.readContext p.1 p.2))) s
    let s := (s.save e []).requeuePaged e
    let s := s.mapRegions fun _ r => if r.entry = e then { r with st := r.st.thaw } else r
    let waits := (s.keysOf e).filterMap fun k => (s.region k).rdv
    let s := s.updEntry e fun y => { y with st := .running, saving := false }
    match waits with
    | [] => .next (s.updEntry e fun y => { y with restart := some now })
    | t :: ts =>
      let d := resumeShift now (ts.foldl min t)
      if d = 0 then .next s
      else
        let s := s.mapRegions fun _ r => if r.entry = e then { r with rdv := r.rdv.map (· + d) } else r
        let s := s.updEntry e fun y => { y with applied := y.applied ++ [(0, false, d)], pstr := y.pstr + d }
        .next ((s.noteMove x.job (ts.foldl min t) d).say (.displacement x.job d))

/-! ## Snapshots (R382, R383) -/

/-- SNAPCMP_MATCH (R382): PTIME equals SNAPCMP. -/
def execSnapcmpMatch (s : State) : Out := .next (if s.iod.snapcmp = s.ptime then s.snapTrigger 2 0 else s)

/-- What a tile latches; one that is bound to no region has its RTIME and HOLDC at 0 (R383). (DESIGN CHOICE: log 114.) -/
def State.tileSnap (s : State) (t : Nat) : TileSnap :=
  let x := s.tile t
  let r := if x.st == .bound then s.region (s.regionOf t) else Region.reset
  { pc := x.prim.pc, rtime := r.rtime, tstat := x.tstat, holdc := r.holdc, mflags := x.mflags, vflags := x.prim.regs.vflags,
    fstat := x.far.fstat, fails := x.fails, phase := x.phase }

/-- How many banks of a sequencer are open. -/
def Seqr.openBanks (x : Seqr) : Nat := (x.banks.filter fun b => b.2.row.isSome).foldl (fun n b => n + 2 ^ b.1) 0

/-- SNAPSHOT_LATCH (R382, R383): 64 ticks after the trigger, every block latches. (DEDUCED: log 68.) -/
def execSnapshotLatch (s : State) : Out :=
  match s.iod.snapAt with
  | none => .next s
  | some (t, src, tag) =>
    if s.ptime.toNat < t + 64 then .next s
    else
      let s := s.mapTiles fun i x => { x with snap := s.tileSnap i }
      let s := s.mapSeqrs fun _ x => { x with snap := (x.pos, x.pch.1.debt, x.pch.2.debt, x.openBanks) }
      let sl := fun (d : Die) => SMap.mapV Slice.reset (fun _ (y : Slice) => { y with snap := (y.hits, y.misses, y.moves) }) d.slices
      let s := (List.range 4).foldl (fun s d => s.updDie d fun y => { y with routerSnap := y.lineCounts, slices := sl y }) s
      let ps := (List.range 256).map fun e => (s.entry (BitVec.ofNat 8 e)).pstr
      .next { s with iod := { s.iod with snapFull := true, snapTag := tag, snapSrc := src, snapt := BitVec.ofNat 64 (t + 64), snapAt := none,
                                         snapTime := (s.ptime, ps) } }

/-! ## Retirement of a tile (R384) -/

/-- TILE_RETIRE (R384): the tile is DEAD, TILE_RETIRED is raised, the job is told, and the die scheduler looks for a new placement, within 40 ms (R386). (DEDUCED: log 31; DESIGN CHOICE: log 6.) -/
def execTileRetire (t : Nat) (s : State) : Out :=
  match (s.tile t).retiring with
  | none => .next s
  | some (why, cyc) =>
    let e := (s.tile t).lte
    let s := s.updTile t fun x => { x with st := .dead, retiring := none }
    let r := { EvRec.base s (dieOf t) with code := 0x20, lte := e, info := why, rcyc := BitVec.ofNat 32 cyc,
                                           addr := BitVec.ofNat 64 t }
    .next (((s.packageAct (dieOf t) r).say (.jobHold (s.entry e).job)).within 32000000 (.replacement e))

end Sys2Proof.Machine
end

