-- ==== Sys2Proof/Machine/Clock.lean ====
section
/-! DEFINITION. The tick: the parts it falls into, and the steps each part puts on the agenda (03: R61, R71; 07: R132, R134, R141 to R146; 12: R252; 17: R343 to R350; 95). The order of the parts, and of the agenda within one, is the model's own schedule where the spec orders nothing. -/

namespace Sys2Proof.Machine

/-- A list of steps with no input, put on the agenda. (DEDUCED: log 2.) -/
def State.plan (s : State) (is : List Instr) : State := { s with agenda := s.agenda ++ is.map fun i => (i, Ext.none) }

/-! ## The start of a tick: time (R59, R60, R142) -/

/-- Region time goes on where the tick that ends was not held; PTIME goes on. -/
def State.nextTick (s : State) : State :=
  let s := s.mapRegions fun _ (r : Region) => match r.st with
    | .running => if r.held then r else { r with rtime := r.rtime + 1 }
    | _ => r
  let s := s.mapTiles fun _ (x : Tile) => { x with spad0 := x.spad, uses := [] }
  let s := { s.tickTails.clearTxs with ptime := s.ptime + 1, stage := .commit }
  s.plan (s.overBudget.map Instr.holdBudget)

/-! ## Commit points (R343 to R350) -/

/-- Is a step one that a request or an answer under way brings about? It belongs to the end of the tick. -/
def lateStep : Instr → Bool
  | .tlbQuery .. | .tlbWalkDone .. | .tlbinvAck .. | .invalTimeout .. | .cacheRequest .. | .sectorFill .. | .writebackApply ..
  | .bucketMoveEnd .. | .causalUpdateArrive .. | .causalUpdateApply .. | .causalMissAnswer .. | .rangePerformed ..
  | .releaseEvent .. | .visibilityEvent .. | .remoteDecrement .. | .fredSend .. | .fredResultSector .. | .ldfReturn ..
  | .atomicReturn .. | .roundDeadline .. | .linkDown .. | .linkRestored .. | .contributionArrival | .peerAccessArrival
  | .sensorRead => true
  | _ => false

/-- The scheduled steps that are due, of those a test picks, and the state without them. -/
def State.takeDue (s : State) (pick : Instr → Bool) : State × List (Instr × Ext) :=
  let due := fun (p : Nat × Instr × Ext) => decide (p.1 ≤ s.ptime.toNat) && pick p.2.1
  ({ s with pending := s.pending.filter fun p => !due p }, (s.pending.filter due).map fun p => p.2)

/-- The tiles whose TCMP equals PTIME, bound or not, held or not (R166). -/
def State.timerTiles (s : State) : List Nat :=
  if s.ptime = BitVec.allOnes 64 then (List.range 384).filter fun t => (s.tile t).tcmp == s.ptime
  else (s.tiles.filter fun t => t.2.tcmp == s.ptime).map fun t => t.1

/-- Every commit point of the tick, the causes taken after them, and the actions; then what falls due: management, launches, waits that end. (DEDUCED: log 2, 25.) -/
def State.commitTick (s : State) : State :=
  let a := s.commits
  let now := a.1.asksNow
  let pre := a.1.runningRegions.filter (now.preempts a.2)
  let s := (a.2.filter fun p => now.mayTrap p.1).foldl (fun s p => s.afterCommit p.1 (pre.contains (s.regionOf p.1))) a.1
  let s := (pre.foldl State.preempted s).resolve
  let d := s.takeDue fun i => !lateStep i
  let s := d.1
  let own : List Instr :=
    (if s.iod.snapcmp = s.ptime then [.snapcmpMatch] else []) ++
    s.timerTiles.map Instr.timerCompare ++
    (if s.ptime.toNat % 1024 = 0 then s.dynWaiting.map Instr.dynamicRelease else []) ++
    ((s.regions.filter fun r => r.2.runs && r.2.rdv.any fun t => decide (t ≤ s.ptime.toNat)).map fun r => Instr.rdvLeave r.1) ++
    ((s.awake.filter fun t => (s.tile t).gateHeld && !s.gateAsks t).map Instr.gateHoldRelease) ++
    ((s.regions.filter fun r => s.mayStart r.1).map fun r => Instr.taskStart r.1)
  { s with agenda := s.agenda ++ d.2 ++ own.map (fun i => (i, Ext.none)), stage := .issue }

/-! ## Holds, landings and issue (R132, R134, R139, R141 to R145) -/

/-- Is a region held on this tick: by a wait for its RDV, or by a hold? (R71, R141) -/
def State.isHeld (s : State) (r : Nat) : Bool := s.rdvWaits r || s.holds r

/-- The landings of a tile's two streams on a cycle: every MTSR, then the results with their flags, then the samples (R134, R167). (DEDUCED: log 27.) -/
def State.landBoth (s : State) (t c : Nat) : State :=
  let s := s.updTile t fun x => (((x.landSys .primary c).landSys .secondary c).landResults .primary c).landResults .secondary c
  (s.sampleStream t .primary c).sampleStream t .secondary c

/-- The landings of a region's streams on its cycle. -/
def State.landRegion (s : State) (r : Nat) : State :=
  if (s.region r).held then s
  else (s.region r).tiles.foldl (fun s t => s.landBoth t (s.region r).rtime) s

/-- The reads of the basins that gates are evaluated on correct their single-bit errors (R139, R188). -/
def State.scrubGates (s : State) : State :=
  s.runningTiles.foldl (fun s t => s.updTile t fun x =>
    ((s.gatesNow t).filterMap fun g => x.gateBasin g.1 (s.region (s.regionOf t)).rtime g.2).foldl (fun (x : Tile) a => x.scrub (a / 256)) x) s

/-- What a tile issues on the tick. -/
def State.issueStep (s : State) (t : Nat) : Option Instr :=
  if (s.tile t).prim.rerun.isSome then some (.blockRerun t)
  else if (s.region (s.regionOf t)).held || !s.primReady t then none
  else if s.nextIsSig t then some (.signatureBundle t) else some (.bundleIssue t)

/-- The holds of the tick are settled, results land, and the streams issue. (DEDUCED: log 2.) -/
def State.issueTick (s : State) : State :=
  let timed := s.timerTiles
  let s := s.stretchReleases.mapTiles fun _ x => x.settled
  let s := s.settleGates.scrubGates
  let run := s.runningRegions
  let hs := run.map fun r => (r, s.isHeld r, s.isCounted r && !s.budgetFull r)
  let s := hs.foldl (fun s h => s.updRegion h.1 fun r =>
    { r with since := if h.2.1 && !r.held then s.ptime.toNat else r.since, held := h.2.1, holdc := if h.2.2 then r.holdc + 1 else r.holdc }) s
  let s := run.foldl State.landRegion s
  let hm := s.awake.filter fun t => (s.tile t).hm.isSome
  let s := hm.foldl (fun s t => (s.updTile t fun x => x.landHandler s.ptime.toNat).sampleHandler t) s
  let ts := s.runningTiles
  { s.plan ((s.timerTiles.filter fun t => !timed.contains t).map Instr.timerCompare ++
      (ts.flatMap fun t => List.replicate (s.dueCommands t false) (Instr.engineCommandStart t false)) ++
      (ts.flatMap fun t => List.replicate (s.dueCommands t true) (Instr.engineCommandStart t true)) ++
      s.txSteps ++ ts.filterMap s.issueStep) with stage := .engines }

/-! ## The ports, the matrix engines and the sequencers (R190 to R195, R226, R244) -/

/-- The port use of a write a bundle left for a later cycle (R134, R194). -/
def Delayed.portUse (d : Delayed) : Option PortUse :=
  match d.op with
  | .port code ln addr => some ⟨false, ln % 32, true, ln, code, 0, addr⟩
  | .accRow bank row _ _ => some (accUse true 7 bank row 0)
  | _ => none

/-- Is it due on a cycle? -/
def Delayed.writesOn (d : Delayed) (c : Nat) : Bool := decide (d.at_ ≤ c) && d.portUse.isSome

/-- The cycle of the primary stream's writes on this tick: the region's, or the one a re-run has just done. -/
def State.writeCycle (s : State) (t : Nat) : Option Nat :=
  match (s.tile t).prim.rerun with
  | some r => if r.rewind = 0 then some (r.cyc - 1) else none
  | none => if s.regionMoves (s.regionOf t) then some (s.region (s.regionOf t)).rtime else none

/-- Does a tile's matrix engine run on the tick: with its region's time, or in the gap behind a task that has left a load in the LOADER (R226, R229)? (DEDUCED: log 65.) -/
def State.matrixMoves (s : State) (t : Nat) : Bool :=
  s.regionMoves (s.regionOf t) || ((s.tile t).mx.loader.isSome && s.gapMoves (s.regionOf t))

/-- The ports a tile's engine and its primary stream's writes use on the tick. -/
def State.tileUses (s : State) (t : Nat) : List PortUse :=
  let x := s.tile t
  let r := s.regionOf t
  (if s.matrixMoves t then s.engineUses t (s.region r).rtime else []) ++
  match s.writeCycle t with
  | some c => (x.prim.delayed.filter fun (d : Delayed) => d.writesOn c).filterMap Delayed.portUse
  | none => []

/-- Record a use of a tile's ports. -/
def State.addUse (s : State) (t : Nat) (u : PortUse) : State := s.updTile t fun x => { x with uses := x.uses ++ [u] }

/-- A store loses a line. -/
def Store.without (st : Store) (ln : Nat) : Store :=
  { st with bytes := st.bytes.filter fun c => c.1 / 256 != ln, lines := st.lines.filter (· != ln) }

/-- The line of a store whose port use on a cycle clashed: the access is not made, in the buffer or, where its block has just committed, in the contents (R153, R191). -/
def Tile.unstore (x : Tile) (at_ slot ln : Nat) : Tile :=
  let x : Tile := { x with prim := { x.prim with sbuf := x.prim.sbuf.map fun (st : Store) =>
    if st.slot = slot ∧ st.issue + 2 = at_ then st.without ln else st } }
  match x.undo.find? fun u => u.1 == at_ && u.2.1 == ln with
  | none => x
  | some u => ({ x with spad := writeBytes x.spad (256 * ln) u.2.2.1 }).setTag ln u.2.2.2

/-- A delayed accumulator write, unless its port clashes; a store whose port clashes is not made (R191, R241). -/
def Tile.accWrite (x : Tile) (d : Delayed) : Tile :=
  match d.op with
  | .accRow bank row cells mf =>
    if clashes x.uses (accUse true 7 bank row 0) then x else { x with mx := x.mx.putRow bank row cells }.orM mf
  | .port code ln addr =>
    if clashes x.uses ⟨false, ln % 32, true, ln, code, 0, addr⟩ then x.unstore d.at_ d.slot ln else x
  | _ => x

/-- The port writes of a tile that are over. -/
def Tile.dropWrites (x : Tile) (c : Nat) : Tile :=
  { x with prim := { x.prim with delayed := x.prim.delayed.filter fun (d : Delayed) => !d.writesOn c },
           undo := x.undo.filter fun u => decide (c < u.1) }

/-- The delayed writes of a tile's bundles, after the clashes are known. -/
def State.tileWrites (s : State) (t : Nat) : State :=
  let s := match s.writeCycle t with
    | none => s
    | some c => s.updTile t fun x => ((x.prim.delayed.filter fun (d : Delayed) => d.writesOn c).foldl Tile.accWrite x).dropWrites c
  let s := if s.regionMoves (s.regionOf t) then
      s.updTile t fun x => { x with sec := { x.sec with delayed := x.sec.delayed.filter fun (d : Delayed) => !d.writesOn (s.region (s.regionOf t)).rtime } }
    else s
  s.updHm t fun h => { h with delayed := h.delayed.filter fun (d : Delayed) => !d.writesOn s.ptime.toNat }

/-- The uses, the clashes, the engines and the sequencers of the tick; the commands of the sequencers go into the bundle register. (DEDUCED: log 2.) -/
def State.enginesTick (s : State) : State :=
  let ts := s.awake
  let qs := s.seqrs.map fun q => q.1
  let s := ts.foldl (fun s t => s.updTile t fun x => { x with uses := x.uses ++ s.tileUses t }) s
  let s := qs.foldl (fun s q => ((s.dueBursts q false ++ s.dueBursts q true).filter s.burstMade).foldl (fun s b => s.addUse b.tile (chanUse q true b.sec)) s) s
  let p := s.programs qs
  let s := p.2.foldl (fun s cw => match p.1.wordUse cw with
    | some u => s.addUse u.1 u.2
    | none => s) p.1
  let s := ts.foldl (fun s t => s.updTile t Tile.settlePorts) s
  let s := ts.foldl (fun s t =>
    let r := s.regionOf t
    let s := if s.matrixMoves t then s.matrixTick t (s.region r).rtime (s.tile t).uses else s
    s.tileWrites t) s
  let s := qs.foldl State.parkBursts s
  let c := fun (q : Nat) => (s.region ((s.seqr q).regKey q)).rtime
  let s := s.plan (qs.flatMap fun q =>
    (if (s.dueBursts q false).isEmpty then [] else [.rdBurstLanding q]) ++
    (if (s.dueBursts q true).isEmpty then [] else [.parkedBurstWrite q]) ++
    (if s.seqrLive q && decide (0 < c q) && decide (c q % s.profHi 8 = 0) then [.refreshDebtRise q] else []) ++
    (if s.seqrLive q && (s.seqr q).run && decide (c q % 1024 = 0) then [.cachedWindowOpen q] else []))
  { s with cur := { Cursor.empty with code := p.2 }, stage := .late }

/-! ## The rest of the package -/

/-- An access a FENCE kept back goes out, when what it waits for is done (R179). (DEDUCED: log 39.) -/
def State.unfence (s : State) (t : Nat) : State :=
  let waits := fun (f : Fenced) => f.waits.any fun k => (s.outstanding t f.ctx).contains k
  let go := (s.tile t).fenced.filter fun f => !waits f
  let s := if go.isEmpty then s else s.updTile t fun x => { x with fenced := x.fenced.filter waits }
  go.foldl (fun s f => s.startAccess t f.ctx f.id f.tick f.eff) s

/-- The steps of the tiles' far engines, basins, secondary streams and handlers. -/
def State.tileSteps (s : State) (t : Nat) : List Instr :=
  let x := s.tile t
  s.farSteps t ++
  (if x.hm.any (fun h => h.waiting) && x.ip &&& x.ie.setWidth 8 != 0 then [.waitiWake t] else []) ++
  (if x.prim.barr.any (s.barrReady t) then [.barriveRelease t false] else []) ++
  (if x.sec.barr.any (s.barrReady t) then [.barriveRelease t true] else []) ++
  (if x.hm.isSome then [.handlerBundleIssue t] else []) ++
  if x.secRun || x.sec.delayed.any Delayed.isPort then [.secondaryIssue t] else []

/-- The sequencers of the live dies. -/
def State.liveSeqrs (s : State) : List Nat := s.liveDies.flatMap fun d => (List.range 96).map fun i => 96 * d + i

/-- A record waits in the FIFO of a source, with an entry free for it. -/
def State.mayDrain (s : State) (src : Nat) : Bool :=
  let fifo := if src < 4 then (s.die src).fifo else if src = 4 then s.iod.fifo else s.iod.tfifo
  !fifo.isEmpty && (freeEntry s.iod.queue src).isSome

/-- Does a step deliver a sector of a cache slice to a tile's scratchpad? Such deliveries come first at the bank ports (R192). -/
def State.fromSlice (s : State) (i : Instr) : Bool :=
  match i with
  | .visibilityEvent t slot _ => (s.copyAt t slot.toNat).any fun c => c.cls == 1 && !c.toMem
  | _ => false

/-- What the tiles, the caches, the network and the translation have due. (DEDUCED: log 2.) -/
def State.lateTick (s : State) : State :=
  let s := s.awake.foldl State.unfence s
  let d := s.takeDue lateStep
  let s := d.1
  let due := (d.2.filter fun i => s.fromSlice i.1) ++ d.2.filter fun i => !s.fromSlice i.1
  let aged := s.ops.filter fun o => !o.isRange && decide (o.issued + 2 ^ 24 ≤ s.ptime.toNat)
  let own : List Instr :=
    ((s.liveSeqrs.filter s.refreshDue).map Instr.autonomousRefresh) ++
    ((s.seqrs.filter fun q => !q.2.cached.isEmpty).map fun q => Instr.cachedPathAccess q.1) ++
    (aged.map fun o => Instr.farAnswerTimeout o.id) ++
    (s.packets.map fun k => Instr.bePacketHop k.id) ++
    (((List.range 6).filter s.mayDrain).map Instr.eventFifoDrain) ++
    (if s.ptime.toNat % 2 ^ 20 = 0 then s.liveDies.map fun d => Instr.rebalance (BitVec.ofNat 2 d) else []) ++
    (if s.ptime.toNat % 1024 = 0 then [.sensorRead] else []) ++
    s.awake.flatMap s.tileSteps
  { s with agenda := s.agenda ++ due ++ own.map (fun i => (i, Ext.none)), stage := .close }

/-! ## The end of the tick -/

/-- BREAD samples the basin after the tick's updates, its single-bit errors corrected (R188, R311). -/
def Tile.sampleBasins (x : Tile) : Tile :=
  let x := x.breads.foldl (fun (x : Tile) b =>
    let x := x.scrub (b.2.1 / 256)
    let r : Result := { b.2.2 with value := BitVec.ofNat 2048 (readN x.spad b.2.1 8) }
    match b.1 with
    | .handler => { x with hm := x.hm.map fun h => { h with flight := h.flight ++ [r] } }
    | c => x.setStream c { x.stream c with inflight := (x.stream c).inflight ++ [r] }) x
  { x with breads := [] }

/-- A tile that took a trap on the tick with HANDLE enters handler mode, its samples taken (R353, R354, R358). -/
def State.enterNow (s : State) (t : Nat) : State :=
  match (s.tile t).enter with
  | none => s
  | some c => ((s.sampleStream t .primary (2 ^ 64)).updTile t fun x => { x with enter := none }).enterHandler t c

/-- Basins take their updates, handlers are entered, and tasks that are over end. (DEDUCED: log 2.) -/
def State.closeTick (s : State) : State :=
  let s := { s.mapTiles fun i x => (x.runBasins (Config.trapInfo (s.nfree + i)) (Config.trapAddr (s.nfree + i))).sampleBasins with nfree := s.nfree + 384 }
  let s := s.awake.foldl State.enterNow s
  { s.plan ((s.runningRegions.filter s.taskOver).map Instr.taskEnd) with stage := .next }

/-! ## One step of the clock -/

/-- The next part of the tick, or the next tick. (DESIGN CHOICE: log 1; DEDUCED: log 2.) -/
def State.clock (s : State) : State :=
  match s.stage with
  | .next => s.nextTick
  | .commit => s.commitTick
  | .issue => s.issueTick
  | .engines => s.enginesTick
  | .late => s.lateTick
  | .close => s.closeTick

end Sys2Proof.Machine
end

