-- ==== Sys2Proof/Machine/Vector.lean ====
section
/-! DEFINITION. The 52 V instructions (10: R204 to R221). -/

namespace Sys2Proof.Machine

/-! ## The shared frame (R205, R206) -/

/-- Source B of a lane: v[VB], or the broadcast port when VB = 63 (R103, R137, R206). -/
def State.vb (s : State) (b : BitVec 6) (l : Nat) : BitVec 32 := if b = 63 then s.cur.bcs.setWidth 32 else lane (s.rv b) l

/-- The tag of source B. -/
def State.tvb (s : State) (b : BitVec 6) : Tag := if b = 63 then s.cur.bctag else s.tv b

/-- A vector result on the active lanes, nothing with none active (R205, R206). -/
def State.vmap (s : State) (d : BitVec 6) (op lat : Nat) (q : BitVec 3) (tags : List Tag) (f : Nat → BitVec 32 × VFl) : State :=
  let m := s.rq q
  if m = 0 then s
  else s.resultV d lat m (ofLanes fun l => if m.getLsbD l then (f l).1 else 0) (tagOf tags (opk 3 op)) (lanesFlags m fun l => (f l).2) 0

/-- A mask result on the active lanes (R205). -/
def State.vmask (s : State) (d : BitVec 3) (lat : Nat) (q : BitVec 3) (f : Nat → Bool × VFl) : State :=
  let m := s.rq q
  if m = 0 then s
  else s.resultQ d lat m (ofMask fun l => m.getLsbD l && (f l).1) (lanesFlags m fun l => (f l).2)

/-- An integer operation on two sources, with no flag (R209). -/
def State.vint2 (s : State) (p : BitVec 4) (q : BitVec 3) (op lat : Nat) (d a b : BitVec 6) (f : BitVec 32 → BitVec 32 → BitVec 32) :
    Out :=
  s.when p fun s => s.vmap d op lat q [s.tv a, s.tvb b] fun l => (f (lane (s.rv a) l) (s.vb b l), 0)

/-- An integer operation on one source (R209). -/
def State.vint1 (s : State) (p : BitVec 4) (q : BitVec 3) (op lat : Nat) (d a : BitVec 6) (f : BitVec 32 → BitVec 32) : Out :=
  s.when p fun s => s.vmap d op lat q [s.tv a] fun l => (f (lane (s.rv a) l), 0)

/-- A two-source operation with flags on F32, BF16 or FL16 elements (R206). -/
def State.vop2 (s : State) (p : BitVec 4) (q : BitVec 3) (op lat : Nat) (d a b : BitVec 6)
    (f : BitVec 32 → BitVec 32 → BitVec 32 × VFl) : Out :=
  s.when p fun s => s.vmap d op lat q [s.tv a, s.tvb b] fun l => f (lane (s.rv a) l) (s.vb b l)

/-- A three-source operation with flags (R206). -/
def State.vop3 (s : State) (p : BitVec 4) (q : BitVec 3) (op lat : Nat) (d a b c : BitVec 6)
    (f : BitVec 32 → BitVec 32 → BitVec 32 → BitVec 32 × VFl) : Out :=
  s.when p fun s => s.vmap d op lat q [s.tv a, s.tvb b, s.tv c] fun l => f (lane (s.rv a) l) (s.vb b l) (lane (s.rv c) l)

/-- A one-source operation with flags (R206). -/
def State.vop1 (s : State) (p : BitVec 4) (q : BitVec 3) (op lat : Nat) (d a : BitVec 6) (f : BitVec 32 → BitVec 32 × VFl) : Out :=
  s.when p fun s => s.vmap d op lat q [s.tv a] fun l => f (lane (s.rv a) l)

/-! ## Integer lanes (R209) -/

/-- VADDS: signed saturating addition. -/
def addSat (a b : BitVec 32) : BitVec 32 :=
  let x := a.toInt + b.toInt
  if 2147483647 < x then 0x7FFFFFFF else if x < -2147483648 then 0x80000000 else BitVec.ofInt 32 x

/-- The shift count b[4:0]. -/
def vcount (b : BitVec 32) : Nat := b.toNat % 32

def execVadd (p : BitVec 4) (q : BitVec 3) (d a b : BitVec 6) (s : State) : Out := s.vint2 p q 0x01 2 d a b fun x y => x + y
def execVsub (p : BitVec 4) (q : BitVec 3) (d a b : BitVec 6) (s : State) : Out := s.vint2 p q 0x02 2 d a b fun x y => x - y
def execVmul (p : BitVec 4) (q : BitVec 3) (d a b : BitVec 6) (s : State) : Out := s.vint2 p q 0x03 3 d a b fun x y => x * y
def execVand (p : BitVec 4) (q : BitVec 3) (d a b : BitVec 6) (s : State) : Out := s.vint2 p q 0x04 2 d a b fun x y => x &&& y
def execVor (p : BitVec 4) (q : BitVec 3) (d a b : BitVec 6) (s : State) : Out := s.vint2 p q 0x05 2 d a b fun x y => x ||| y
def execVxor (p : BitVec 4) (q : BitVec 3) (d a b : BitVec 6) (s : State) : Out := s.vint2 p q 0x06 2 d a b fun x y => x ^^^ y
def execVshl (p : BitVec 4) (q : BitVec 3) (d a b : BitVec 6) (s : State) : Out :=
  s.vint2 p q 0x07 2 d a b fun x y => x <<< vcount y
def execVshr (p : BitVec 4) (q : BitVec 3) (d a b : BitVec 6) (s : State) : Out :=
  s.vint2 p q 0x08 2 d a b fun x y => x >>> vcount y
def execVsra (p : BitVec 4) (q : BitVec 3) (d a b : BitVec 6) (s : State) : Out :=
  s.vint2 p q 0x09 2 d a b fun x y => x.sshiftRight (vcount y)
def execVmin (p : BitVec 4) (q : BitVec 3) (d a b : BitVec 6) (s : State) : Out :=
  s.vint2 p q 0x0A 2 d a b fun x y => if x.sle y then x else y
def execVmax (p : BitVec 4) (q : BitVec 3) (d a b : BitVec 6) (s : State) : Out :=
  s.vint2 p q 0x0B 2 d a b fun x y => if x.sle y then y else x
def execVminu (p : BitVec 4) (q : BitVec 3) (d a b : BitVec 6) (s : State) : Out :=
  s.vint2 p q 0x0C 2 d a b fun x y => if x.ule y then x else y
def execVmaxu (p : BitVec 4) (q : BitVec 3) (d a b : BitVec 6) (s : State) : Out :=
  s.vint2 p q 0x0D 2 d a b fun x y => if x.ule y then y else x
def execVadds (p : BitVec 4) (q : BitVec 3) (d a b : BitVec 6) (s : State) : Out := s.vint2 p q 0x0F 2 d a b addSat
def execVmulh (p : BitVec 4) (q : BitVec 3) (d a b : BitVec 6) (s : State) : Out :=
  s.vint2 p q 0x3F 3 d a b fun x y => BitVec.ofInt 32 (Int.fdiv (x.toInt * y.toInt) (2 ^ 32))
def execVclz (p : BitVec 4) (q : BitVec 3) (d a : BitVec 6) (s : State) : Out :=
  s.vint1 p q 0x3D 2 d a fun x => BitVec.ofNat 32 (clz 32 x.toNat)
def execVpopc (p : BitVec 4) (q : BitVec 3) (d a : BitVec 6) (s : State) : Out :=
  s.vint1 p q 0x3E 2 d a fun x => BitVec.ofNat 32 (popc 32 x.toNat)

/-- VCMP: a lane bit of q[VD]. (DEDUCED: log 93.) -/
def execVcmp (p : BitVec 4) (q d : BitVec 3) (a b : BitVec 6) (f : BitVec 3) (s : State) : Out :=
  s.when p fun s => s.vmask d 2 q fun l => (condI f (lane (s.rv a) l) (s.vb b l), 0)

/-! ## F32 and BF16 lanes (R210 to R213) -/

/-- The mode of an instruction that never takes SR (R207). -/
def plainMode (rm : BitVec 2) : Mode := Mode.ofRM rm 0

/-- The low halfword of a lane. -/
def low16 (x : BitVec 32) : BitVec 16 := x.setWidth 16

def execVfadd (p : BitVec 4) (q : BitVec 3) (d a b : BitVec 6) (rm : BitVec 2) (s : State) : Out :=
  s.vop2 p q 0x10 4 d a b fun x y => addIEEE .f32 (plainMode rm) (unF32 x) (unF32 y)
def execVfsub (p : BitVec 4) (q : BitVec 3) (d a b : BitVec 6) (rm : BitVec 2) (s : State) : Out :=
  s.vop2 p q 0x11 4 d a b fun x y => addIEEE .f32 (plainMode rm) (unF32 x) (unF32 y).neg
def execVfmul (p : BitVec 4) (q : BitVec 3) (d a b : BitVec 6) (rm : BitVec 2) (s : State) : Out :=
  s.vop2 p q 0x12 4 d a b fun x y => mulIEEE .f32 (plainMode rm) (unF32 x) (unF32 y)
def execVfma (p : BitVec 4) (q : BitVec 3) (d a b c : BitVec 6) (rm : BitVec 2) (s : State) : Out :=
  s.vop3 p q 0x13 4 d a b c fun x y z => fmaIEEE .f32 (plainMode rm) (unF32 x) (unF32 y) (unF32 z)
def execVfnma (p : BitVec 4) (q : BitVec 3) (d a b c : BitVec 6) (rm : BitVec 2) (s : State) : Out :=
  s.vop3 p q 0x14 4 d a b c fun x y z => fmaIEEE .f32 (plainMode rm) (unF32 x).neg (unF32 y) (unF32 z)
def execVfmin (p : BitVec 4) (q : BitVec 3) (d a b : BitVec 6) (s : State) : Out := s.vop2 p q 0x15 4 d a b (minmaxF32 false)
def execVfmax (p : BitVec 4) (q : BitVec 3) (d a b : BitVec 6) (s : State) : Out := s.vop2 p q 0x16 4 d a b (minmaxF32 true)

/-- VFCMP: a lane bit of q[VD] (R211). -/
def execVfcmp (p : BitVec 4) (q d : BitVec 3) (a b : BitVec 6) (f : BitVec 3) (s : State) : Out :=
  s.when p fun s => s.vmask d 4 q fun l => condF32 f (lane (s.rv a) l) (s.vb b l)

/-- VFABS and VFNEG: bit 31 cleared or inverted; a NaN becomes canonical (R211). -/
def signF32 (neg : Bool) (x : BitVec 32) : BitVec 32 × VFl :=
  (if (unF32 x).isNaN then 0x7FC00000 else if neg then x ^^^ 0x80000000 else x &&& 0x7FFFFFFF, 0)

def execVfabs (p : BitVec 4) (q : BitVec 3) (d a : BitVec 6) (s : State) : Out := s.vop1 p q 0x18 4 d a (signF32 false)
def execVfneg (p : BitVec 4) (q : BitVec 3) (d a : BitVec 6) (s : State) : Out := s.vop1 p q 0x19 4 d a (signF32 true)
def execVbadd (p : BitVec 4) (q : BitVec 3) (d a b : BitVec 6) (rm : BitVec 2) (s : State) : Out :=
  s.vop2 p q 0x1A 4 d a b fun x y => addIEEE .bf16 (plainMode rm) (unBF16 (low16 x)) (unBF16 (low16 y))
def execVbmul (p : BitVec 4) (q : BitVec 3) (d a b : BitVec 6) (rm : BitVec 2) (s : State) : Out :=
  s.vop2 p q 0x1B 4 d a b fun x y => mulIEEE .bf16 (plainMode rm) (unBF16 (low16 x)) (unBF16 (low16 y))
def execVbfma (p : BitVec 4) (q : BitVec 3) (d a b c : BitVec 6) (rm : BitVec 2) (s : State) : Out :=
  s.vop3 p q 0x1C 4 d a b c fun x y z =>
    fmaIEEE .bf16 (plainMode rm) (unBF16 (low16 x)) (unBF16 (low16 y)) (unBF16 (low16 z))
def execVfrnd (p : BitVec 4) (q : BitVec 3) (d a : BitVec 6) (rm : BitVec 2) (s : State) : Out :=
  s.vop1 p q 0x1D 4 d a (rndF32 (plainMode rm))
def execVexp2 (p : BitVec 4) (q : BitVec 3) (d a : BitVec 6) (rm : BitVec 2) (s : State) : Out :=
  s.vop1 p q 0x29 5 d a (exp2F32 (plainMode rm))
def execVlog2 (p : BitVec 4) (q : BitVec 3) (d a : BitVec 6) (rm : BitVec 2) (s : State) : Out :=
  s.vop1 p q 0x2A 5 d a (log2F32 (plainMode rm))

/-! ## Log-domain lanes (R214) -/

/-- An FL16 result in its lane. -/
def lane16 (x : BitVec 16 × VFl) : BitVec 32 × VFl := (x.1.setWidth 32, x.2)

/-- VLMUL. -/
def flMul (a b : BitVec 16) : BitVec 16 × VFl :=
  if a = flNaR ∨ b = flNaR then (flNaR, 0) else if a = flZero ∨ b = flZero then (flZero, 0)
  else flPack (a.getLsbD 15 != b.getLsbD 15) (flL a + flL b)

/-- VLDIV. -/
def flDiv (a b : BitVec 16) : BitVec 16 × VFl :=
  if a = flNaR ∨ b = flNaR then (flNaR, 0)
  else if b = flZero then (flNaR, if a = flZero then fNV else fDZ)
  else if a = flZero then (flZero, 0)
  else flPack (a.getLsbD 15 != b.getLsbD 15) (flL a - flL b)

/-- The nearest integer to half of an integer, ties to even. -/
def halfEven (x : Int) : Int :=
  let q := Int.fdiv x 2
  if x % 2 = 0 ∨ q % 2 = 0 then q else q + 1

/-- VLSQRT. -/
def flSqrt (a : BitVec 16) : BitVec 16 × VFl :=
  if a = flNaR then (flNaR, 0) else if a = flZero then (flZero, 0)
  else if a.getLsbD 15 then (flNaR, fNV) else flPack false (halfEven (flL a))

/-- VLINV. -/
def flInv (a : BitVec 16) : BitVec 16 × VFl :=
  if a = flNaR then (flNaR, 0) else if a = flZero then (flNaR, fDZ) else flPack (a.getLsbD 15) (-flL a)

def execVlmul (p : BitVec 4) (q : BitVec 3) (d a b : BitVec 6) (s : State) : Out :=
  s.vop2 p q 0x20 2 d a b fun x y => lane16 (flMul (low16 x) (low16 y))
def execVldiv (p : BitVec 4) (q : BitVec 3) (d a b : BitVec 6) (s : State) : Out :=
  s.vop2 p q 0x21 2 d a b fun x y => lane16 (flDiv (low16 x) (low16 y))
def execVlsqrt (p : BitVec 4) (q : BitVec 3) (d a : BitVec 6) (s : State) : Out :=
  s.vop1 p q 0x22 2 d a fun x => lane16 (flSqrt (low16 x))
def execVlinv (p : BitVec 4) (q : BitVec 3) (d a : BitVec 6) (s : State) : Out :=
  s.vop1 p q 0x23 2 d a fun x => lane16 (flInv (low16 x))

/-! ## Format conversion (R215, R216) -/

/-- A source element as a linear value, an FL8 one first widened with its flags (R215). -/
def cvtSource (fmt : BitVec 4) (c : Int) (x : BitVec 32) : Lin × VFl :=
  match fmt with
  | 0 => (linInt x.toInt, 0)
  | 1 => ((unF32 x).lin, 0)
  | 2 => ((unBF16 (low16 x)).lin, 0)
  | 3 => (flLin (low16 x), 0)
  | _ => let w := widen8 (x.setWidth 8) c; (flLin w.1, w.2)

/-- One element converted (R215). -/
def convert (fmt tgt : BitVec 4) (c8 : BitVec 8) (mode : Mode) (x : BitVec 32) : BitVec 32 × VFl :=
  let c := c8.toInt
  let src := cvtSource fmt c x
  let r : BitVec 32 × VFl := match tgt with
    | 0 => toI32 mode src.1
    | 1 => toIEEE .f32 mode src.1
    | 2 => toIEEE .bf16 mode src.1
    | 3 => if fmt = 4 then ((widen8 (x.setWidth 8) c).1.setWidth 32, 0) else lane16 (toFL16 mode src.1)
    | _ => let y := toFL8 mode c src.1; (y.1.setWidth 32, y.2)
  (r.1, r.2 ||| src.2)

/-- The mode a lane of a converter rounds in: SR draws in the primary stream and is RNE elsewhere (R58, R207, R216). -/
def State.cvtMode (s : State) (rm : BitVec 2) (l : Nat) : Mode :=
  if rm = 3 then (if s.cur.ctx = .primary then .sr (draw s.cur.word s.cur.slot l) else .rne) else plainMode rm

/-- VCVT. -/
def execVcvt (p : BitVec 4) (q : BitVec 3) (d a : BitVec 6) (rm : BitVec 2) (fmt tgt : BitVec 4) (c8 : BitVec 8) (s : State) : Out :=
  s.when p fun s => s.vmap d 0x28 3 q [s.tv a] fun l => convert fmt tgt c8 (s.cvtMode rm l) (lane (s.rv a) l)

/-! ## Lane operations (R219) -/

def execVmov (p : BitVec 4) (q : BitVec 3) (d b : BitVec 6) (s : State) : Out :=
  s.when p fun s => s.vmap d 0x30 2 q [s.tvb b] fun l => (s.vb b l, 0)
def execVsel (p : BitVec 4) (q : BitVec 3) (d a b : BitVec 6) (qc : BitVec 3) (s : State) : Out :=
  s.when p fun s => s.vmap d 0x31 2 q [s.tv a, s.tvb b, 0] fun l =>
    (if (s.rq qc).getLsbD l then lane (s.rv a) l else s.vb b l, 0)
def execVperm (p : BitVec 4) (q : BitVec 3) (d a b : BitVec 6) (s : State) : Out :=
  s.when p fun s => s.vmap d 0x32 3 q [s.tv a, s.tvb b] fun l => (lane (s.rv a) ((s.vb b l).toNat % 64), 0)
def execVrot (p : BitVec 4) (q : BitVec 3) (d a n : BitVec 6) (s : State) : Out :=
  s.when p fun s => s.vmap d 0x33 3 q [s.tv a, immTag] fun l => (lane (s.rv a) ((l + n.toNat) % 64), 0)
def execVext (p : BitVec 4) (d a n : BitVec 6) (s : State) : Out :=
  s.when p fun s => s.resultS d 3 ((lane (s.rv a) n.toNat).setWidth 64) (tagOf [s.tv a, immTag] (opk 3 0x35))
def execVins (p : BitVec 4) (d b n : BitVec 6) (s : State) : Out :=
  s.when p fun s =>
    s.resultV d 2 (BitVec.twoPow 64 n.toNat) (ofLanes fun _ => s.vb b 0) (tagOf [s.tv d, s.tvb b, immTag] (opk 3 0x36)) 0 0
def execViota (p : BitVec 4) (q : BitVec 3) (d : BitVec 6) (s : State) : Out :=
  s.when p fun s => s.vmap d 0x37 2 q [] fun l => (BitVec.ofNat 32 l, 0)
def execVpack (p : BitVec 4) (d a b : BitVec 6) (s : State) : Out :=
  s.when p fun s => s.resultV d 3 (BitVec.allOnes 64)
    (ofHalves fun j => if j < 64 then low16 (lane (s.rv a) j) else low16 (s.vb b (j - 64))) (tagOf [s.tv a, s.tvb b] (opk 3 0x38)) 0 0
def execVunpk (p : BitVec 4) (q : BitVec 3) (d a : BitVec 6) (h : BitVec 1) (s : State) : Out :=
  s.when p fun s => s.vmap d 0x39 3 q [s.tv a, immTag] fun l => ((half (s.rv a) (64 * h.toNat + l)).setWidth 32, 0)

/-! ## VRED (R220) -/

/-- The identity of a reduction: I32 or F32; ADD, MAX, MIN. -/
def redIdentity (f32 : Bool) (f : BitVec 3) : BitVec 32 :=
  match f with
  | 0 => if f32 then 0x80000000 else 0
  | 1 => if f32 then 0xFF800000 else 0x80000000
  | _ => if f32 then 0x7F800000 else 0x7FFFFFFF

/-- One operation of the tree. -/
def redOp (f32 : Bool) (f : BitVec 3) (mode : Mode) (a b : BitVec 32) : BitVec 32 × VFl :=
  if f32 then
    match f with
    | 0 => addIEEE .f32 mode (unF32 a) (unF32 b)
    | 1 => minmaxF32 true a b
    | _ => minmaxF32 false a b
  else
    (match f with
    | 0 => a + b
    | 1 => if a.sle b then b else a
    | _ => if a.sle b then a else b, 0)

/-- One level of the tree: neighbours combined, flags gathered. -/
def redLevel (op : BitVec 32 → BitVec 32 → BitVec 32 × VFl) : List (BitVec 32) → List (BitVec 32) × VFl
  | a :: b :: xs =>
    let r := op a b
    let t := redLevel op xs
    (r.1 :: t.1, r.2 ||| t.2)
  | xs => (xs, 0)

/-- `n` levels. -/
def redTree (op : BitVec 32 → BitVec 32 → BitVec 32 × VFl) : Nat → List (BitVec 32) × VFl → List (BitVec 32) × VFl
  | 0, x => x
  | n + 1, x => let y := redLevel op x.1; redTree op n (y.1, x.2 ||| y.2)

/-- VRED writes even with no active lane. (DEDUCED: log 93.) -/
def execVred (p : BitVec 4) (q : BitVec 3) (d a : BitVec 6) (rm : BitVec 2) (fmt : BitVec 4) (f : BitVec 3) (s : State) : Out :=
  s.when p fun s =>
    let f32 := fmt == 1
    let m := s.rq q
    let xs := (List.range 64).map fun l => if m.getLsbD l then lane (s.rv a) l else redIdentity f32 f
    let r := redTree (redOp f32 f (plainMode rm)) 6 (xs, 0)
    s.resultV d 6 (BitVec.allOnes 64) (ofLanes fun l => if l = 0 then r.1.headD 0 else 0) (tagOf [s.tv a] (opk 3 0x34)) r.2 0

/-! ## Mask registers (R221) -/

def execQlog (p : BitVec 4) (d a b f : BitVec 3) (s : State) : Out :=
  s.when p fun s => s.resultQ d 2 (BitVec.allOnes 64) (qlogOp f (s.rq a) (s.rq b)) 0
def execQset (p : BitVec 4) (d : BitVec 3) (s : State) : Out :=
  s.when p fun s => s.resultQ d 2 (BitVec.allOnes 64) s.cur.bcs 0
def execQget (p : BitVec 4) (d : BitVec 6) (a : BitVec 3) (s : State) : Out :=
  s.when p fun s => s.resultS d 3 (s.rq a) (tagOf [0] (opk 3 0x3C))

end Sys2Proof.Machine
end

