-- ==== Sys2Proof/Machine/Dispatch.lean ====
section
/-! DEFINITION. One arm per constructor of Instr: the meaning of each step. -/

namespace Sys2Proof.Machine

/-- The meaning of a step. -/
def exec (i : Instr) (s : State) : Host.Outcome State Fault Refusal :=
  match i with
  | .powerUp => Sys2Proof.Machine.execPowerUp s
  | .imgwr => Sys2Proof.Machine.execImgwr s
  | .ltwr => Sys2Proof.Machine.execLtwr s
  | .ltctlKill => Sys2Proof.Machine.execLtctlKill s
  | .ltctlClear => Sys2Proof.Machine.execLtctlClear s
  | .unknownFrame => Sys2Proof.Machine.execUnknownFrame s
  | .evrd => Sys2Proof.Machine.execEvrd s
  | .evrdMailbox => Sys2Proof.Machine.execEvrdMailbox s
  | .ptp => Sys2Proof.Machine.execPtp s
  | .portsel => Sys2Proof.Machine.execPortsel s
  | .asidgrant => Sys2Proof.Machine.execAsidgrant s
  | .asidrevoke => Sys2Proof.Machine.execAsidrevoke s
  | .tlbinv => Sys2Proof.Machine.execTlbinv s
  | .pagein => Sys2Proof.Machine.execPagein s
  | .pagedeny => Sys2Proof.Machine.execPagedeny s
  | .preemptRequest => Sys2Proof.Machine.execPreemptRequest s
  | .resume => Sys2Proof.Machine.execResume s
  | .snapnow => Sys2Proof.Machine.execSnapnow s
  | .snapclr => Sys2Proof.Machine.execSnapclr s
  | .dieReset d => Sys2Proof.Machine.execDieReset d s
  | .dieLive d => Sys2Proof.Machine.execDieLive d s
  | .hostInterrupt => Sys2Proof.Machine.execHostInterrupt s
  | .getVersion => Sys2Proof.Machine.execGetVersion s
  | .getCapabilities => Sys2Proof.Machine.execGetCapabilities s
  | .negotiateAlgorithms => Sys2Proof.Machine.execNegotiateAlgorithms s
  | .getDigests => Sys2Proof.Machine.execGetDigests s
  | .getCertificate => Sys2Proof.Machine.execGetCertificate s
  | .challenge => Sys2Proof.Machine.execChallenge s
  | .getMeasurements => Sys2Proof.Machine.execGetMeasurements s
  | .keyExchange => Sys2Proof.Machine.execKeyExchange s
  | .finish => Sys2Proof.Machine.execFinish s
  | .endSession => Sys2Proof.Machine.execEndSession s
  | .spdmUnsupportedRequest => Sys2Proof.Machine.execSpdmUnsupportedRequest s
  | .mgmtRegisterWrite => Sys2Proof.Machine.execMgmtRegisterWrite s
  | .dbgbWrite => Sys2Proof.Machine.execDbgbWrite s
  | .tinjWrite => Sys2Proof.Machine.execTinjWrite s
  | .minjWrite => Sys2Proof.Machine.execMinjWrite s
  | .actionEntryWrite => Sys2Proof.Machine.execActionEntryWrite s
  | .snapcmpWrite => Sys2Proof.Machine.execSnapcmpWrite s
  | .tileMapWrite => Sys2Proof.Machine.execTileMapWrite s
  | .admission e => Sys2Proof.Machine.execAdmission e s
  | .launchStart e => Sys2Proof.Machine.execLaunchStart e s
  | .dynamicRelease e => Sys2Proof.Machine.execDynamicRelease e s
  | .regionRelease r => Sys2Proof.Machine.execRegionRelease r s
  | .taskStart r => Sys2Proof.Machine.execTaskStart r s
  | .taskEnd r => Sys2Proof.Machine.execTaskEnd r s
  | .bundleIssue t => Sys2Proof.Machine.execBundleIssue t s
  | .signatureBundle t => Sys2Proof.Machine.execSignatureBundle t s
  | .blockRerun t => Sys2Proof.Machine.execBlockRerun t s
  | .tileRetire t => Sys2Proof.Machine.execTileRetire t s
  | .secondaryIssue t => Sys2Proof.Machine.execSecondaryIssue t s
  | .handlerBundleIssue t => Sys2Proof.Machine.execHandlerBundleIssue t s
  | .gateHoldRelease t => Sys2Proof.Machine.execGateHoldRelease t s
  | .engineCommandStart t far => Sys2Proof.Machine.execEngineCommandStart t far s
  | .holdBudget r => Sys2Proof.Machine.execHoldBudget r s
  | .rdvLeave r => Sys2Proof.Machine.execRdvLeave r s
  | .stretchResult => Sys2Proof.Machine.execStretchResult s
  | .timerCompare t => Sys2Proof.Machine.execTimerCompare t s
  | .waitiWake t => Sys2Proof.Machine.execWaitiWake t s
  | .eventFifoDrain src => Sys2Proof.Machine.execEventFifoDrain src s
  | .tlbQuery q => Sys2Proof.Machine.execTlbQuery q s
  | .tlbWalkDone w => Sys2Proof.Machine.execTlbWalkDone w s
  | .tlbinvAck n d => Sys2Proof.Machine.execTlbinvAck n d s
  | .invalTimeout n d => Sys2Proof.Machine.execInvalTimeout n d s
  | .rdBurstLanding q => Sys2Proof.Machine.execRdBurstLanding q s
  | .parkedBurstWrite q => Sys2Proof.Machine.execParkedBurstWrite q s
  | .refreshDebtRise q => Sys2Proof.Machine.execRefreshDebtRise q s
  | .autonomousRefresh q => Sys2Proof.Machine.execAutonomousRefresh q s
  | .cachedWindowOpen q => Sys2Proof.Machine.execCachedWindowOpen q s
  | .cachedPathAccess q => Sys2Proof.Machine.execCachedPathAccess q s
  | .timedHop x => Sys2Proof.Machine.execTimedHop x s
  | .meshLatchWrite x => Sys2Proof.Machine.execMeshLatchWrite x s
  | .dieLatchWrite x => Sys2Proof.Machine.execDieLatchWrite x s
  | .bePacketHop k => Sys2Proof.Machine.execBePacketHop k s
  | .cacheRequest k => Sys2Proof.Machine.execCacheRequest k s
  | .sectorFill k => Sys2Proof.Machine.execSectorFill k s
  | .writebackApply k => Sys2Proof.Machine.execWritebackApply k s
  | .rebalance d => Sys2Proof.Machine.execRebalance d s
  | .bucketMoveEnd d => Sys2Proof.Machine.execBucketMoveEnd d s
  | .causalUpdateArrive k d => Sys2Proof.Machine.execCausalUpdateArrive k d s
  | .causalUpdateApply d w => Sys2Proof.Machine.execCausalUpdateApply d w s
  | .causalMissAnswer k => Sys2Proof.Machine.execCausalMissAnswer k s
  | .rangePerformed k => Sys2Proof.Machine.execRangePerformed k s
  | .copyExpansion t => Sys2Proof.Machine.execCopyExpansion t s
  | .copyIssue t cls => Sys2Proof.Machine.execCopyIssue t cls s
  | .releaseEvent t slot sec => Sys2Proof.Machine.execReleaseEvent t slot sec s
  | .visibilityEvent t slot sec => Sys2Proof.Machine.execVisibilityEvent t slot sec s
  | .remoteDecrement job b sectors count tag clock => Sys2Proof.Machine.execRemoteDecrement job b sectors count tag clock s
  | .copyAgeTimeout t slot => Sys2Proof.Machine.execCopyAgeTimeout t slot s
  | .linkDown route => Sys2Proof.Machine.execLinkDown route s
  | .fsigApply t slot => Sys2Proof.Machine.execFsigApply t slot s
  | .fredSend t slot => Sys2Proof.Machine.execFredSend t slot s
  | .fredResultSector t slot sec data => Sys2Proof.Machine.execFredResultSector t slot sec data s
  | .ldfReturn k => Sys2Proof.Machine.execLdfReturn k s
  | .atomicReturn k => Sys2Proof.Machine.execAtomicReturn k s
  | .farAnswerTimeout k => Sys2Proof.Machine.execFarAnswerTimeout k s
  | .barriveRelease t sec => Sys2Proof.Machine.execBarriveRelease t sec s
  | .contributionArrival => Sys2Proof.Machine.execContributionArrival s
  | .roundDeadline grp n => Sys2Proof.Machine.execRoundDeadline grp n s
  | .flitRetry => Sys2Proof.Machine.execFlitRetry s
  | .overrunNotice => Sys2Proof.Machine.execOverrunNotice s
  | .jobHoldBegin job => Sys2Proof.Machine.execJobHoldBegin job s
  | .jobHoldEnd job => Sys2Proof.Machine.execJobHoldEnd job s
  | .sensorRead => Sys2Proof.Machine.execSensorRead s
  | .contextSaveDone e => Sys2Proof.Machine.execContextSaveDone e s
  | .contextRestoreDone e => Sys2Proof.Machine.execContextRestoreDone e s
  | .snapcmpMatch => Sys2Proof.Machine.execSnapcmpMatch s
  | .snapshotLatch => Sys2Proof.Machine.execSnapshotLatch s
  | .jobHoldNotice => Sys2Proof.Machine.execJobHoldNotice s
  | .replacement e => Sys2Proof.Machine.execReplacement e s
  | .jobReleaseNotice => Sys2Proof.Machine.execJobReleaseNotice s
  | .add p d a b => Sys2Proof.Machine.execAdd p d a b s
  | .sub p d a b => Sys2Proof.Machine.execSub p d a b s
  | .addi p d a imm => Sys2Proof.Machine.execAddi p d a imm s
  | .and p d a b => Sys2Proof.Machine.execAnd p d a b s
  | .or p d a b => Sys2Proof.Machine.execOr p d a b s
  | .xor p d a b => Sys2Proof.Machine.execXor p d a b s
  | .andi p d a imm => Sys2Proof.Machine.execAndi p d a imm s
  | .ori p d a imm => Sys2Proof.Machine.execOri p d a imm s
  | .xori p d a imm => Sys2Proof.Machine.execXori p d a imm s
  | .shl p d a b => Sys2Proof.Machine.execShl p d a b s
  | .shr p d a b => Sys2Proof.Machine.execShr p d a b s
  | .sra p d a b => Sys2Proof.Machine.execSra p d a b s
  | .shli p d a n => Sys2Proof.Machine.execShli p d a n s
  | .shri p d a n => Sys2Proof.Machine.execShri p d a n s
  | .srai p d a n => Sys2Proof.Machine.execSrai p d a n s
  | .mul p d a b => Sys2Proof.Machine.execMul p d a b s
  | .mulh p d a b => Sys2Proof.Machine.execMulh p d a b s
  | .mulhu p d a b => Sys2Proof.Machine.execMulhu p d a b s
  | .divu p d a b => Sys2Proof.Machine.execDivu p d a b s
  | .remu p d a b => Sys2Proof.Machine.execRemu p d a b s
  | .min p d a b => Sys2Proof.Machine.execMin p d a b s
  | .max p d a b => Sys2Proof.Machine.execMax p d a b s
  | .minu p d a b => Sys2Proof.Machine.execMinu p d a b s
  | .maxu p d a b => Sys2Proof.Machine.execMaxu p d a b s
  | .clz p d a => Sys2Proof.Machine.execClz p d a s
  | .popc p d a => Sys2Proof.Machine.execPopc p d a s
  | .movi p d imm => Sys2Proof.Machine.execMovi p d imm s
  | .movsh p d imm => Sys2Proof.Machine.execMovsh p d imm s
  | .sel p d a b f => Sys2Proof.Machine.execSel p d a b f s
  | .extf p d a f => Sys2Proof.Machine.execExtf p d a f s
  | .lea p d a e => Sys2Proof.Machine.execLea p d a e s
  | .cmp p d a b f => Sys2Proof.Machine.execCmp p d a b f s
  | .cmpi p d c a imm => Sys2Proof.Machine.execCmpi p d c a imm s
  | .plog p d a b f => Sys2Proof.Machine.execPlog p d a b f s
  | .mfsr p d idx => Sys2Proof.Machine.execMfsr p d idx s
  | .mtsr p a idx => Sys2Proof.Machine.execMtsr p a idx s
  | .lds p d a b f => Sys2Proof.Machine.execLds p d a b f s
  | .sts p d a b f => Sys2Proof.Machine.execSts p d a b f s
  | .ldf p d a imm => Sys2Proof.Machine.execLdf p d a imm s
  | .addw p d a b => Sys2Proof.Machine.execAddw p d a b s
  | .subw p d a b => Sys2Proof.Machine.execSubw p d a b s
  | .rotl p d a b => Sys2Proof.Machine.execRotl p d a b s
  | .bext p d a b => Sys2Proof.Machine.execBext p d a b s
  | .bins p d a b => Sys2Proof.Machine.execBins p d a b s
  | .muli p d a imm => Sys2Proof.Machine.execMuli p d a imm s
  | .br p disp => Sys2Proof.Machine.execBr p disp s
  | .bri p a => Sys2Proof.Machine.execBri p a s
  | .call p disp => Sys2Proof.Machine.execCall p disp s
  | .ret p => Sys2Proof.Machine.execRet p s
  | .loop p fl a last => Sys2Proof.Machine.execLoop p fl a last s
  | .loopi p fl cnt last => Sys2Proof.Machine.execLoopi p fl cnt last s
  | .brkl p lv => Sys2Proof.Machine.execBrkl p lv s
  | .setlc p a ec => Sys2Proof.Machine.execSetlc p a ec s
  | .phase p ph => Sys2Proof.Machine.execPhase p ph s
  | .epoch p md val => Sys2Proof.Machine.execEpoch p md val s
  | .gateset p g a ph en => Sys2Proof.Machine.execGateset p g a ph en s
  | .rdv p a imm => Sys2Proof.Machine.execRdv p a imm s
  | .fence p sc => Sys2Proof.Machine.execFence p sc s
  | .snap p tag => Sys2Proof.Machine.execSnap p tag s
  | .trapi p code => Sys2Proof.Machine.execTrapi p code s
  | .rett p => Sys2Proof.Machine.execRett p s
  | .waiti p => Sys2Proof.Machine.execWaiti p s
  | .endt p => Sys2Proof.Machine.execEndt p s
  | .nopn p n => Sys2Proof.Machine.execNopn p n s
  | .sprng p a => Sys2Proof.Machine.execSprng p a s
  | .inten p md mask => Sys2Proof.Machine.execInten p md mask s
  | .secs p go => Sys2Proof.Machine.execSecs p go s
  | .vld p vr a q off => Sys2Proof.Machine.execVld p vr a q off s
  | .vst p vr a q off => Sys2Proof.Machine.execVst p vr a q off s
  | .vldx p vr a b q off => Sys2Proof.Machine.execVldx p vr a b q off s
  | .vstx p vr a b q off => Sys2Proof.Machine.execVstx p vr a b q off s
  | .vldb p vr a off => Sys2Proof.Machine.execVldb p vr a off s
  | .vlds p vr a b q off => Sys2Proof.Machine.execVlds p vr a b q off s
  | .vsts p vr a b q off => Sys2Proof.Machine.execVsts p vr a b q off s
  | .send p vr tgt sid => Sys2Proof.Machine.execSend p vr tgt sid s
  | .recv p vr sid => Sys2Proof.Machine.execRecv p vr sid s
  | .lsend p a tgt sid off => Sys2Proof.Machine.execLsend p a tgt sid off s
  | .lrecv p a sid off => Sys2Proof.Machine.execLrecv p a sid off s
  | .dsend p vr tgt sid die => Sys2Proof.Machine.execDsend p vr tgt sid die s
  | .drecv p vr sid => Sys2Proof.Machine.execDrecv p vr sid s
  | .fnest p x a b lv => Sys2Proof.Machine.execFnest p x a b lv s
  | .fbase p x a b => Sys2Proof.Machine.execFbase p x a b s
  | .fidx p x => Sys2Proof.Machine.execFidx p x s
  | .fgo p a b delay sc ls => Sys2Proof.Machine.execFgo p a b delay sc ls s
  | .fsig p a b sc => Sys2Proof.Machine.execFsig p a b sc s
  | .fred p x a b f sc => Sys2Proof.Machine.execFred p x a b f sc s
  | .fqry p x sel => Sys2Proof.Machine.execFqry p x sel s
  | .fcan p slot all => Sys2Proof.Machine.execFcan p slot all s
  | .wbr p a b sc => Sys2Proof.Machine.execWbr p a b sc s
  | .invr p a b sc => Sys2Proof.Machine.execInvr p a b sc s
  | .discr p a b sc => Sys2Proof.Machine.execDiscr p a b sc s
  | .amo p d a b f sc w => Sys2Proof.Machine.execAmo p d a b f sc w s
  | .cas p d a b c sc w => Sys2Proof.Machine.execCas p d a b c sc w s
  | .binit p a imm => Sys2Proof.Machine.execBinit p a imm s
  | .barrive p a sc imm => Sys2Proof.Machine.execBarrive p a sc imm s
  | .bexpect p a b => Sys2Proof.Machine.execBexpect p a b s
  | .bread p d a => Sys2Proof.Machine.execBread p d a s
  | .brearm p a imm => Sys2Proof.Machine.execBrearm p a imm s
  | .vadd p q d a b => Sys2Proof.Machine.execVadd p q d a b s
  | .vsub p q d a b => Sys2Proof.Machine.execVsub p q d a b s
  | .vmul p q d a b => Sys2Proof.Machine.execVmul p q d a b s
  | .vand p q d a b => Sys2Proof.Machine.execVand p q d a b s
  | .vor p q d a b => Sys2Proof.Machine.execVor p q d a b s
  | .vxor p q d a b => Sys2Proof.Machine.execVxor p q d a b s
  | .vshl p q d a b => Sys2Proof.Machine.execVshl p q d a b s
  | .vshr p q d a b => Sys2Proof.Machine.execVshr p q d a b s
  | .vsra p q d a b => Sys2Proof.Machine.execVsra p q d a b s
  | .vmin p q d a b => Sys2Proof.Machine.execVmin p q d a b s
  | .vmax p q d a b => Sys2Proof.Machine.execVmax p q d a b s
  | .vminu p q d a b => Sys2Proof.Machine.execVminu p q d a b s
  | .vmaxu p q d a b => Sys2Proof.Machine.execVmaxu p q d a b s
  | .vcmp p q d a b f => Sys2Proof.Machine.execVcmp p q d a b f s
  | .vadds p q d a b => Sys2Proof.Machine.execVadds p q d a b s
  | .vfadd p q d a b rm => Sys2Proof.Machine.execVfadd p q d a b rm s
  | .vfsub p q d a b rm => Sys2Proof.Machine.execVfsub p q d a b rm s
  | .vfmul p q d a b rm => Sys2Proof.Machine.execVfmul p q d a b rm s
  | .vfma p q d a b c rm => Sys2Proof.Machine.execVfma p q d a b c rm s
  | .vfnma p q d a b c rm => Sys2Proof.Machine.execVfnma p q d a b c rm s
  | .vfmin p q d a b => Sys2Proof.Machine.execVfmin p q d a b s
  | .vfmax p q d a b => Sys2Proof.Machine.execVfmax p q d a b s
  | .vfcmp p q d a b f => Sys2Proof.Machine.execVfcmp p q d a b f s
  | .vfabs p q d a => Sys2Proof.Machine.execVfabs p q d a s
  | .vfneg p q d a => Sys2Proof.Machine.execVfneg p q d a s
  | .vbadd p q d a b rm => Sys2Proof.Machine.execVbadd p q d a b rm s
  | .vbmul p q d a b rm => Sys2Proof.Machine.execVbmul p q d a b rm s
  | .vbfma p q d a b c rm => Sys2Proof.Machine.execVbfma p q d a b c rm s
  | .vfrnd p q d a rm => Sys2Proof.Machine.execVfrnd p q d a rm s
  | .vlmul p q d a b => Sys2Proof.Machine.execVlmul p q d a b s
  | .vldiv p q d a b => Sys2Proof.Machine.execVldiv p q d a b s
  | .vlsqrt p q d a => Sys2Proof.Machine.execVlsqrt p q d a s
  | .vlinv p q d a => Sys2Proof.Machine.execVlinv p q d a s
  | .vcvt p q d a rm fmt tgt c8 => Sys2Proof.Machine.execVcvt p q d a rm fmt tgt c8 s
  | .vexp2 p q d a rm => Sys2Proof.Machine.execVexp2 p q d a rm s
  | .vlog2 p q d a rm => Sys2Proof.Machine.execVlog2 p q d a rm s
  | .vmov p q d b => Sys2Proof.Machine.execVmov p q d b s
  | .vsel p q d a b qc => Sys2Proof.Machine.execVsel p q d a b qc s
  | .vperm p q d a b => Sys2Proof.Machine.execVperm p q d a b s
  | .vrot p q d a n => Sys2Proof.Machine.execVrot p q d a n s
  | .vred p q d a rm fmt f => Sys2Proof.Machine.execVred p q d a rm fmt f s
  | .vext p d a n => Sys2Proof.Machine.execVext p d a n s
  | .vins p d b n => Sys2Proof.Machine.execVins p d b n s
  | .viota p q d => Sys2Proof.Machine.execViota p q d s
  | .vpack p d a b => Sys2Proof.Machine.execVpack p d a b s
  | .vunpk p q d a h => Sys2Proof.Machine.execVunpk p q d a h s
  | .qlog p d a b f => Sys2Proof.Machine.execQlog p d a b f s
  | .qset p d => Sys2Proof.Machine.execQset p d s
  | .qget p d a => Sys2Proof.Machine.execQget p d a s
  | .vclz p q d a => Sys2Proof.Machine.execVclz p q d a s
  | .vpopc p q d a => Sys2Proof.Machine.execVpopc p q d a s
  | .vmulh p q d a b => Sys2Proof.Machine.execVmulh p q d a b s
  | .mldw p delay a b vs nr wf => Sys2Proof.Machine.execMldw p delay a b vs nr wf s
  | .mswap p delay => Sys2Proof.Machine.execMswap p delay s
  | .mstr p acc delay a b nr wf => Sys2Proof.Machine.execMstr p acc delay a b nr wf s
  | .mstrz p acc delay a b nr wf => Sys2Proof.Machine.execMstrz p acc delay a b nr wf s
  | .mcbt p delay a => Sys2Proof.Machine.execMcbt p delay a s
  | .mscl p delay vs => Sys2Proof.Machine.execMscl p delay vs s
  | .ard p acc row h v ae a rm => Sys2Proof.Machine.execArd p acc row h v ae a rm s
  | .ardb p acc row v ae a rm => Sys2Proof.Machine.execArdb p acc row v ae a rm s
  | .ardl p acc row v ae a rm => Sys2Proof.Machine.execArdl p acc row v ae a rm s
  | .ardl8 p acc row v ae a rm c8 => Sys2Proof.Machine.execArdl8 p acc row v ae a rm c8 s
  | .awr p acc row h v ae a => Sys2Proof.Machine.execAwr p acc row h v ae a s
  | .awrb p acc row v ae a => Sys2Proof.Machine.execAwrb p acc row v ae a s
  | .aclr p acc row ae a => Sys2Proof.Machine.execAclr p acc row ae a s
  | .aadd p acc row v ae a => Sys2Proof.Machine.execAadd p acc row v ae a s
  | .act pc ofs bk row => Sys2Proof.Machine.execAct pc ofs bk row s
  | .rd pc ofs bk col tl sec => Sys2Proof.Machine.execRd pc ofs bk col tl sec s
  | .wr pc ofs bk col tl sec => Sys2Proof.Machine.execWr pc ofs bk col tl sec s
  | .pre pc ofs bk => Sys2Proof.Machine.execPre pc ofs bk s
  | .prea pc ofs => Sys2Proof.Machine.execPrea pc ofs s
  | .ref pc ofs => Sys2Proof.Machine.execRef pc ofs s
  | .refpb pc ofs bk => Sys2Proof.Machine.execRefpb pc ofs bk s
  | .waitc cnt => Sys2Proof.Machine.execWaitc cnt s
  | .tnest lv cnt rs cs ds => Sys2Proof.Machine.execTnest lv cnt rs cs ds s
  | .tend len => Sys2Proof.Machine.execTend len s
  | .troute sid => Sys2Proof.Machine.execTroute sid s
  | .thalt => Sys2Proof.Machine.execThalt s
  | .railRemoval => Sys2Proof.Machine.execRailRemoval s
  | .linkRestored route => Sys2Proof.Machine.execLinkRestored route s
  | .peerAccessArrival => Sys2Proof.Machine.execPeerAccessArrival s
  | .displacementNotice => Sys2Proof.Machine.execDisplacementNotice s
  | .handlerInstall => Sys2Proof.Machine.execHandlerInstall s

end Sys2Proof.Machine
end

