-- ==== Sys2Proof/Machine/Fetch.lean ====
section
/-! DEFINITION. What a step takes up next: a syllable of the bundle register, a step of the agenda, or the next part of the tick; and how a syllable is laid into the bundle register (05: R97, R100; 95). -/

namespace Sys2Proof.Machine

/-- The class of the words at a place of the bundle register: slots 0 to 7 of a bundle, then one place for each sequencer. -/
def placeCls (place : Nat) : Cls := if place < 8 then slotCls place else .channel

/-- The state with the next syllable taken from the bundle register: its slot, or its sequencer, is the current one. -/
def State.takeWord (s : State) (place : Nat) (rest : List (Nat × Nat)) : State :=
  { s with cur := { s.cur with code := rest, slot := place, seqr := place - 8 } }

/-- The state with a step taken from the agenda, its input at hand. (DESIGN CHOICE: log 14.) -/
def State.takeStep (s : State) (x : Ext) (rest : List (Instr × Ext)) : State := { s with agenda := rest, ext := x }

/-- A bundle in its shadow with nothing issued yet, for a syllable laid into the bundle register from outside. (DESIGN CHOICE: log 1.) -/
def Issued.bare : Issued :=
  { pc := 0, next := 0, cycle := 0, slots := 0, pp := false, pops := false, sig := false, effects := [], causes := [],
    entries := [], marks := false, fold := 0 }

/-- The bundle register holding one syllable of a class, for the primary stream of tile 0 with a bundle in its shadow, or for sequencer 0 with its program running. (DESIGN CHOICE: log 1.) -/
def State.layWord (s : State) (c : Cls) (w : Nat) : State :=
  let s := { s with cur := { Cursor.empty with code := [(clsSlot c, w)], bp := true } }
  if c = .channel then s.updSeqr 0 fun x => { x with run := true }
  else s.updTile 0 fun x => { x with prim := { x.prim with issued := some Issued.bare } }

end Sys2Proof.Machine
end

