-- ==== Sys2Proof/Machine/Step.lean ====
section
/-! DEFINITION. The step function, and the placing of one syllable where it fetches. -/

namespace Sys2Proof.Machine

/-- One step: the next syllable of the bundle register; else the next step of the agenda; else the next part of the tick. (DESIGN CHOICE: log 1, 90.) -/
def step (s : State) : Host.Outcome State Fault Refusal :=
  match s.cur.code with
  | (place, w) :: rest =>
    match decodeWord (placeCls place) w with
    | some i => exec i (s.takeWord place rest)
    | none => .refused .illegalWord
  | [] =>
    match s.agenda with
    | (i, x) :: rest => exec i (s.takeStep x rest)
    | [] => .next s.clock

/-- The syllable of the opcode table laid into the bundle register, the place a step fetches from first (R97, R100). (DESIGN CHOICE: log 1.) -/
def State.withFetchWord (s : State) (nbits w : Nat) : State :=
  let x := if nbits = 64 then w % 2 ^ 32 * 2 ^ 32 + w / 2 ^ 32 else w
  match firstCls x (clsOfWidth nbits) with
  | some (c, _) => s.layWord c x
  | none => s.layWord (if nbits = 64 then .memory else .scalar) x

end Sys2Proof.Machine
end

