-- ==== Sys2Proof/Safety.lean ====
section
/-! DEFINITION. The words claims are stated in: what a safe run is, and what it is for a state to be well kept. -/

namespace Sys2Proof.Safety

/-- A run of `n` steps from a state that meets no fault and no refusal. -/
def RunsFor (n : Nat) (s : Machine.State) : Prop := ∃ t, Sys2Proof.core.run n s = .next t

/-- One step from a state answers a next state. -/
def Goes (s : Machine.State) : Prop := ∃ t, Machine.step s = .next t

end Sys2Proof.Safety

namespace Sys2Proof.Machine

/-- Every tile's scratchpad is in canonical form. -/
def tilesOk (m : SMap Tile) : Prop := ∀ p ∈ m, Memory.wf p.2.spad = true

/-- Every scratchpad kept by a saved context is in canonical form. -/
def savedOk (m : SMap (List Tile)) : Prop := ∀ p ∈ m, ∀ x ∈ p.2, Memory.wf x.spad = true

/-- Every memory and every table of the machine is in canonical form: keys strictly rising, and no entry equal to what an
unlisted key reads as, so that equal memories are equal data. -/
structure State.Canon (s : State) : Prop where
  tiles : SMap.wf Tile.reset s.tiles = true
  regions : SMap.wf Region.reset s.regions = true
  entries : SMap.wf Entry.reset s.entries = true
  seqrs : SMap.wf Seqr.reset s.seqrs = true
  dies : SMap.wf Die.reset s.dies = true
  mem : Memory.wf s.mem = true
  pool : Memory.wf s.pool = true
  spads : tilesOk s.tiles
  saved : savedOk s.saved

/-! ## Shapes of statements -/

/-- What a syllable of predicate `p` leaves when its effect leaves `t`: `t` where p[BP] and p[PR] hold, the state as it was elsewhere (R101). -/
def State.guarded (s : State) (p : BitVec 4) (t : State) : State := if s.on p = true then t else s

/-- The tag of a scalar operation on registers A and B (R149). -/
def State.tagAB (s : State) (a b : BitVec 6) (op : Nat) : Tag := tagOf [s.ts a, s.ts b] (opk 0 op)

/-- The tag of a scalar operation on register A and an immediate (R149). -/
def State.tagAI (s : State) (a : BitVec 6) (op : Nat) : Tag := tagOf [s.ts a, immTag] (opk 0 op)

/-- A scalar instruction on s[A] and s[B]: its value goes to s[D], `l` cycles on, with the tag of its sources and opcode. -/
def ScalarAB (i : BitVec 4 → BitVec 6 → BitVec 6 → BitVec 6 → Instr) (op l : Nat) (f : W64 → W64 → W64) : Prop :=
  ∀ p d a b s, exec (i p d a b) s = .next (s.guarded p (s.resultS d l (f (s.rs a) (s.rs b)) (s.tagAB a b op)))

/-- A scalar instruction on s[A] and the sign-extended IMM9. -/
def ScalarAI (i : BitVec 4 → BitVec 6 → BitVec 6 → BitVec 9 → Instr) (op l : Nat) (f : W64 → W64 → W64) : Prop :=
  ∀ p d a n s, exec (i p d a n) s = .next (s.guarded p (s.resultS d l (f (s.rs a) (BitVec.ofInt 64 n.toInt)) (s.tagAI a op)))

/-- A scalar shift of s[A] by an immediate count. -/
def ScalarShift (i : BitVec 4 → BitVec 6 → BitVec 6 → BitVec 6 → Instr) (op : Nat) (f : W64 → Nat → W64) : Prop :=
  ∀ p d a n s, exec (i p d a n) s = .next (s.guarded p (s.resultS d 1 (f (s.rs a) n.toNat) (s.tagAI a op)))

/-- A scalar instruction on s[A] alone. -/
def ScalarA (i : BitVec 4 → BitVec 6 → BitVec 6 → Instr) (op : Nat) (f : W64 → W64) : Prop :=
  ∀ p d a s, exec (i p d a) s = .next (s.guarded p (s.resultS d 1 (f (s.rs a)) (tagOf [s.ts a] (opk 0 op))))

/-- `wrap64` of R9. -/
def wrap64 (x : Int) : W64 := BitVec.ofInt 64 x

/-- A number in 64 bits, the bits above dropped. -/
def low64 (x : Nat) : W64 := BitVec.ofNat 64 x

/-- The count b[5:0] of the SR forms (R161). -/
def countOf (b : W64) : Nat := b.toNat % 64

/-- The mask m of BINS (R161): w ones from bit p up, cut at bit 63. -/
def binsMask (b : W64) : W64 := low64 ((2 ^ (b.toNat / 256 % 64) - 1) * 2 ^ (b.toNat % 64))

/-- A vector instruction whose lane `l` of the result is `f` of the lanes `l` of its sources A and B, with no flag. -/
def VectorAB (i : BitVec 4 → BitVec 3 → BitVec 6 → BitVec 6 → BitVec 6 → Instr) (op l : Nat) (f : BitVec 32 → BitVec 32 → BitVec 32) :
    Prop :=
  ∀ p q d a b s, exec (i p q d a b) s =
    .next (s.guarded p (s.vmap d op l q [s.tv a, s.tvb b] fun n => (f (lane (s.rv a) n) (s.vb b n), 0)))

/-- The same with flags. -/
def VectorFlagsAB (i : BitVec 4 → BitVec 3 → BitVec 6 → BitVec 6 → BitVec 6 → Instr) (op l : Nat)
    (f : BitVec 32 → BitVec 32 → BitVec 32 × VFl) : Prop :=
  ∀ p q d a b s, exec (i p q d a b) s =
    .next (s.guarded p (s.vmap d op l q [s.tv a, s.tvb b] fun n => f (lane (s.rv a) n) (s.vb b n)))

/-- The same on source A alone. -/
def VectorFlagsA (i : BitVec 4 → BitVec 3 → BitVec 6 → BitVec 6 → Instr) (op l : Nat) (f : BitVec 32 → BitVec 32 × VFl) : Prop :=
  ∀ p q d a s, exec (i p q d a) s = .next (s.guarded p (s.vmap d op l q [s.tv a] fun n => f (lane (s.rv a) n)))

/-- A rounding instruction on A and B, by its RM field. -/
def VectorRoundAB (i : BitVec 4 → BitVec 3 → BitVec 6 → BitVec 6 → BitVec 6 → BitVec 2 → Instr) (op l : Nat)
    (f : Mode → BitVec 32 → BitVec 32 → BitVec 32 × VFl) : Prop :=
  ∀ p q d a b rm s, exec (i p q d a b rm) s =
    .next (s.guarded p (s.vmap d op l q [s.tv a, s.tvb b] fun n => f (Mode.ofRM rm 0) (lane (s.rv a) n) (s.vb b n)))

/-- A rounding instruction on A, B and C. -/
def VectorRoundABC (i : BitVec 4 → BitVec 3 → BitVec 6 → BitVec 6 → BitVec 6 → BitVec 6 → BitVec 2 → Instr) (op l : Nat)
    (f : Mode → BitVec 32 → BitVec 32 → BitVec 32 → BitVec 32 × VFl) : Prop :=
  ∀ p q d a b c rm s, exec (i p q d a b c rm) s =
    .next (s.guarded p (s.vmap d op l q [s.tv a, s.tvb b, s.tv c] fun n =>
      f (Mode.ofRM rm 0) (lane (s.rv a) n) (s.vb b n) (lane (s.rv c) n)))

/-- A rounding instruction on A. -/
def VectorRoundA (i : BitVec 4 → BitVec 3 → BitVec 6 → BitVec 6 → BitVec 2 → Instr) (op l : Nat)
    (f : Mode → BitVec 32 → BitVec 32 × VFl) : Prop :=
  ∀ p q d a rm s, exec (i p q d a rm) s =
    .next (s.guarded p (s.vmap d op l q [s.tv a] fun n => f (Mode.ofRM rm 0) (lane (s.rv a) n)))

/-- A 32-bit result in the Int arithmetic of R9. -/
def wrap32 (x : Int) : BitVec 32 := BitVec.ofInt 32 x

/-- A tile without what a bundle's syllables work on before its commit point: its shadow, the ports it has taken on this
tick, and the single-bit errors its reads have corrected. -/
def Tile.bare (x : Tile) : Tile :=
  { x with uses := [], ecc := [], tecc := [], soft := 0
           prim := { x.prim with issued := none }
           sec := { x.sec with issued := none }
           hm := x.hm.map fun h => { h with issued := none } }

/-- The registers, memories and every other part of the state are as before, but for the shadow, the ports and the corrected
errors of one tile, and the count of free values used. -/
structure State.SameBut (s t : State) (n : Nat) : Prop where
  rest : { t with tiles := s.tiles, nfree := s.nfree } = s
  others : ∀ u, u ≠ n → t.tile u = s.tile u
  here : (t.tile n).bare = (s.tile n).bare

/-- A management frame (R63): taken in while the I/O die is out of reset, and from the active port alone unless the command is one of
those the standby port takes too; non-zero FLAGS are answered BADFRAME; else it has its effect `g`. The bytes of a frame as a port
hands them in are decoded into the frame and its step. -/
def OnFrame (i : Instr) (standby : Bool) (g : Frame → State → State) : Prop :=
  (∀ s, (∀ f, s.ext ≠ .frame f) → (∀ q bs, s.ext ≠ .raw q bs) → exec i s = .next s) ∧
  (∀ s q bs, s.ext = .raw q bs → exec i s = .next (s.receive q bs)) ∧
  ∀ s f, s.ext = .frame f →
    (s.ioLive = false ∨ (f.port ≠ s.iod.port ∧ standby = false) → exec i s = .next s) ∧
    (s.ioLive = true → f.port = s.iod.port ∨ standby = true → f.flags ≠ 0 →
      exec i s = .next (s.say (.completion f.seq 0x0A []))) ∧
    (s.ioLive = true → f.port = s.iod.port ∨ standby = true → f.flags = 0 → exec i s = .next (g f s))

/-- An SPDM response: its code, the bytes it begins with, and those Config gives the rest of its body (R387, R388). -/
def OnSpdm (i : Instr) (code : Byte) (g : Iod → Iod) (lead : List Byte := []) : Prop :=
  OnFrame i false fun f s => { s with iod := g s.iod }.spdm code f lead

end Sys2Proof.Machine
end

