-- ==== Sys2Proof/Certificates/Slice0/Obligations.lean ====
section
/-! DEFINITION. The statements for the provers. -/

open Sys2Proof Sys2Proof.Machine

/-! ## Encoding and the step -/

/-- Every word `encode` writes for a well-formed syllable decodes, in its class, to that syllable (05: R99 to R118; 12: R245). -/
def Obligations.EncodeDecode : Prop :=
  ∀ i : Instr, i.cls ≠ .event → WellFormed i = true → decodeWord i.cls (encode i) = some i

/-- Words the spec's worked examples write out decode to the syllables they stand for (05, 06, 08, 10, 11, 12, 14, 15, 16). That a word is
read in the class of its slot is log 44 (DESIGN CHOICE) where decodeTableWord must guess; here the class is given. -/
def Obligations.DecodeWords : Prop :=
  decodeWord .scalar 0x06028A80 = some (.addi 0 5 5 0x080) ∧
  decodeWord .scalar 0x46030002 = some (.mfsr 0 6 2) ∧
  decodeWord .control 0x04800012 = some (.br 2 18) ∧
  decodeWord .control 0x1801900A = some (.loopi 0 0 100 10) ∧
  decodeWord .memory 0x0210880000000200 = some (.vld 0 33 4 0 512) ∧
  decodeWord .memory 0x46002EC013000002 = some (.fgo 0 23 24 2 0 0x13) ∧
  decodeWord .memory 0x6004883001200000 = some (.amo 0 9 4 6 0 9 0) ∧
  decodeWord .vector 0x26028862A0100000 = some (.vfma 0 0 40 33 34 40 0) ∧
  decodeWord .vector 0x5000C28003100003 = some (.vcvt 0 0 12 10 3 1 3 0) ∧
  decodeWord .matrix 0x0400000028ABDFCC = some (.mldw 0 0 20 21 30 127 3) ∧
  decodeWord .matrix 0x0800003F80000000 = some (.mswap 0 127) ∧
  decodeWord .accum 0x0C18712000000000 = some (.ardl 0 3 7 9 0 0 0) ∧
  decodeWord .channel 0x2000100000000000 = some (.waitc 64) ∧
  decodeWord .channel 0x2400080008000800 = some (.tnest 0 16 1 0 16) ∧
  decodeWord .channel 0x2C84000000000000 = some (.troute 0x21)

/-- A syllable in the bundle register runs as what it decodes to, its slot and sequencer made the current ones and its word taken out (05:
R97, R100; 95); a word that decodes to nothing is refused by name. With the bundle register empty, a step runs the first event of the
agenda with its input at hand, and with none there the clock's next part of the tick (95; 07: R132). The bundle register and the agenda
are the model's own schedule (DESIGN CHOICE: log 1, 4), and so is the refusal of a word that decodes to nothing (DESIGN CHOICE: log 90). -/
def Obligations.StepRuns : Prop :=
  (∀ (s : State) (place w : Nat) (rest : List (Nat × Nat)), s.cur.code = (place, w) :: rest →
    (∀ i, decodeWord (placeCls place) w = some i →
      step s = exec i { s with cur := { s.cur with code := rest, slot := place, seqr := place - 8 } }) ∧
    (decodeWord (placeCls place) w = none → step s = .refused .illegalWord)) ∧
  (∀ s : State, s.cur.code = [] →
    (∀ i x rest, s.agenda = (i, x) :: rest → step s = exec i { s with agenda := rest, ext := x }) ∧
    (s.agenda = [] → step s = .next s.clock))

/-- No instruction and no event faults or is refused, in any state. This is the model's choice (DESIGN CHOICE: log 90), and says nothing of
what the next state holds: the statements of each instruction say that. -/
def Obligations.ExecAnswers : Prop :=
 ∀ (i : Instr) (s : State), ∃ t, exec i s = .next t

/-- A step that answers a next state keeps the canonical form of every memory and table. -/
def Obligations.StepKeepsCanon : Prop :=
 ∀ s t : State, s.Canon → step s = .next t → t.Canon

/-- What the spec says reset leaves in a tile and in the package: region time 0's registers (R78), TCMP all ones (R164), no pending bit
and no enable (R165), the injector, the breakpoint and the gates off (R138, R362, R363), D8 in MAG (R44), no launch (R65), no LOCK (R61),
no snapshot held (R383). The state after reset is in canonical form. -/
def Obligations.ResetState : Prop :=
  ((∀ t, (State.reset.tile t).prim.regs = Regs.reset ∧ (State.reset.tile t).sec.regs = Regs.reset ∧
    (State.reset.tile t).tcmp = BitVec.allOnes 64 ∧ (State.reset.tile t).ip = 0 ∧ (State.reset.tile t).ie = 0 ∧
    (State.reset.tile t).dbgb = 0 ∧ (State.reset.tile t).tinj = 0 ∧ (State.reset.tile t).mflags = 0 ∧
    (State.reset.tile t).hm = none ∧ (State.reset.tile t).phase = 0) ∧
  (∀ t m j, (State.reset.tile t).mx.magAt m j = magD8 m j) ∧
  (∀ e, (State.reset.entry e).st = .empty) ∧ State.reset.iod.locked = false ∧ State.reset.iod.snapFull = false ∧
  State.reset.iod.snapcmp = BitVec.allOnes 64) ∧
  (State.reset.Canon)

/-! ## What a syllable leaves alone -/

/-- A syllable, whatever its class, changes nothing before its bundle's commit point but the shadow of that bundle, the ports it takes on
the tick and the single-bit errors its reads correct, all in the tile of its bundle, and the count of free values used: every register,
flag, special register and accumulator, every byte of every memory, every other tile and the rest of the package stay as they were (07:
R134, R152; 08: R158; 17: R343). -/
def Obligations.SyllableFrame : Prop :=
  ∀ (i : Instr) (s t : State), i.cls ≠ .event → i.cls ≠ .channel → s.Canon → exec i s = .next t → s.SameBut t s.cur.tile

/-- A syllable whose own predicate is false, or whose bundle's predicate is, does nothing: the predicate field of its word is bits 24 to 21
of an S syllable, 25 to 22 of a C syllable, and of the first word of an L or V syllable bits 24 to 21, of an M or K syllable bits 25 to 22
(R101, R105 to R114, R158). The syllables with a predicate are all but the sequencers' commands and the events. -/
def Obligations.PredicatedOff : Prop :=
  (∀ (c : Cls) (w : Nat) (i : Instr) (s : State), decodeWord c w = some i → c ≠ .channel →
    (s.cur.bp = false ∨ s.rp (fld w (match c with
      | .scalar => 21
      | .control => 22
      | .memory => 53
      | .vector => 53
      | _ => 54) 4) = false) → exec i s = .next s) ∧
  (∀ (i : Instr) (s : State), i.cls ≠ .event → i.cls ≠ .channel → (∀ p, s.on p = false) → exec i s = .next s)

/-- p0 reads true and q0 reads all lanes set (R103); a write to p0 or to q0 is discarded (R103). -/
def Obligations.HardwiredRegisters : Prop :=
  (∀ (g : Regs) (rrb : BitVec 5), readP g rrb 0 = true) ∧ (∀ g : Regs, readQ g 0 = BitVec.allOnes 64) ∧
  (∀ (s : State) (l : Nat) (v : Bool), s.resultP 0 l v = s) ∧
  (∀ (g : Regs) (r : Result) (k : Bool), r.dest = .p 0 → (g.land r k).p = g.p) ∧
  (∀ (g : Regs) (r : Result) (k : Bool), r.dest = .q 0 → (g.land r k).q = g.q)

/-! ## Results in flight -/

/-- A result lands in the register named at issue and nowhere else: a scalar and a vector register take their value and, outside handler
mode, their tag, a vector register lane by lane under its mask, a predicate its bit, a mask the active lanes' bits; the flags are ORed in
(R134, R136, R205, R206, R355). -/
def Obligations.ResultsLand : Prop :=
  ∀ (g : Regs) (r : Result) (k : Bool),
    let h := g.land r k
    h.vflags = g.vflags ||| r.vf ∧ h.g = g.g ∧ h.lc = g.lc ∧ h.ec = g.ec ∧ h.rrb = g.rrb ∧ h.epoch = g.epoch ∧
    (match r.dest with
      | .s d => (∀ i, rd h.s i = if i = d then r.value.setWidth 64 else rd g.s i) ∧
          (∀ i, rd h.st i = if i = d ∧ k = false then r.tag else rd g.st i) ∧ h.v = g.v ∧ h.vt = g.vt ∧ h.p = g.p ∧ h.q = g.q
      | .v d => (∀ i, i ≠ d → rd h.v i = rd g.v i) ∧
          (∀ l, l < 64 → lane (rd h.v d) l = if r.lanes.getLsbD l then lane r.value l else lane (rd g.v d) l) ∧
          (∀ i, rd h.vt i = if i = d ∧ k = false then r.tag else rd g.vt i) ∧ h.s = g.s ∧ h.st = g.st ∧ h.p = g.p ∧ h.q = g.q
      | .p d => (∀ i : Nat, i < 16 → h.p.getLsbD i = if i = d.toNat ∧ d ≠ 0 then r.value.getLsbD 0 else g.p.getLsbD i) ∧
          h.s = g.s ∧ h.st = g.st ∧ h.v = g.v ∧ h.vt = g.vt ∧ h.q = g.q
      | .q d => (∀ i, i ≠ d → rd h.q i = rd g.q i) ∧
          (d ≠ 0 → ∀ l, l < 64 → (rd h.q d).getLsbD l = if r.lanes.getLsbD l then r.value.getLsbD l else (rd g.q d).getLsbD l) ∧
          h.s = g.s ∧ h.st = g.st ∧ h.v = g.v ∧ h.vt = g.vt ∧ h.p = g.p)

/-! ## Scalar instructions -/

/-- The arithmetic and logic of R161, each value in the integer arithmetic of R9, with its latency and its tag sources. -/
def Obligations.ScalarArithmetic : Prop :=
  ScalarAB .add 0x01 1 (fun a b => low64 (a.toNat + b.toNat)) ∧
  ScalarAB .sub 0x02 1 (fun a b => wrap64 (a.toInt - b.toInt)) ∧
  ScalarAI .addi 0x03 1 (fun a i => low64 (a.toNat + i.toNat)) ∧
  ScalarAB .and 0x04 1 (fun a b => a &&& b) ∧ ScalarAB .or 0x05 1 (fun a b => a ||| b) ∧ ScalarAB .xor 0x06 1 (fun a b => a ^^^ b) ∧
  ScalarAI .andi 0x07 1 (fun a i => a &&& i) ∧ ScalarAI .ori 0x08 1 (fun a i => a ||| i) ∧ ScalarAI .xori 0x09 1 (fun a i => a ^^^ i) ∧
  ScalarAB .shl 0x0A 1 (fun a b => low64 (a.toNat * 2 ^ countOf b)) ∧
  ScalarAB .shr 0x0B 1 (fun a b => low64 (a.toNat / 2 ^ countOf b)) ∧
  ScalarAB .sra 0x0C 1 (fun a b => wrap64 (a.toInt / 2 ^ countOf b)) ∧
  ScalarShift .shli 0x0D (fun a n => low64 (a.toNat * 2 ^ n)) ∧
  ScalarShift .shri 0x0E (fun a n => low64 (a.toNat / 2 ^ n)) ∧
  ScalarShift .srai 0x0F (fun a n => wrap64 (a.toInt / 2 ^ n)) ∧
  ScalarAB .mul 0x10 3 (fun a b => low64 (a.toNat * b.toNat)) ∧
  ScalarAB .mulh 0x11 3 (fun a b => wrap64 (a.toInt * b.toInt / 2 ^ 64)) ∧
  ScalarAB .mulhu 0x12 3 (fun a b => low64 (a.toNat * b.toNat / 2 ^ 64)) ∧
  ScalarAB .divu 0x13 18 (fun a b => if b = 0 then BitVec.allOnes 64 else low64 (a.toNat / b.toNat)) ∧
  ScalarAB .remu 0x14 18 (fun a b => if b = 0 then BitVec.allOnes 64 else low64 (a.toNat - b.toNat * (a.toNat / b.toNat))) ∧
  ScalarAB .min 0x15 1 (fun a b => wrap64 (min a.toInt b.toInt)) ∧ ScalarAB .max 0x16 1 (fun a b => wrap64 (max a.toInt b.toInt)) ∧
  ScalarAB .minu 0x17 1 (fun a b => low64 (min a.toNat b.toNat)) ∧ ScalarAB .maxu 0x18 1 (fun a b => low64 (max a.toNat b.toNat)) ∧
  ScalarA .clz 0x19 (fun a => low64 (if a = 0 then 64 else 63 - Nat.log2 a.toNat)) ∧
  ScalarA .popc 0x1A (fun a => low64 ((List.range 64).filter fun i => a.getLsbD i).length) ∧
  ScalarAB .addw 0x28 1 (fun a b => wrap64 ((wrap32 (a.toInt + b.toInt)).toInt)) ∧
  ScalarAB .subw 0x29 1 (fun a b => wrap64 ((wrap32 (a.toInt - b.toInt)).toInt)) ∧
  ScalarAB .rotl 0x2A 1 (fun a b => low64 (a.toNat * 2 ^ countOf b) ||| low64 (a.toNat / 2 ^ (64 - countOf b))) ∧
  ScalarAB .bext 0x2B 1 (fun a b => low64 (a.toNat / 2 ^ (b.toNat % 64) % 2 ^ (b.toNat / 256 % 64))) ∧
  ScalarAI .muli 0x2D 3 (fun a i => wrap64 (a.toInt * i.toInt)) ∧
  (∀ p d a b s, exec (.bins p d a b) s = .next (s.guarded p (s.resultS d 1
    ((s.rs d &&& ~~~ binsMask (s.rs b)) ||| (low64 ((s.rs a).toNat * 2 ^ ((s.rs b).toNat % 64)) &&& binsMask (s.rs b)))
    (tagOf [s.ts a, s.ts b, s.ts d] (opk 0 0x2C)))))

/-- Constants, selection and addresses (R162), each written at k + 1. LDS, STS and LDF: their address and their checks, what a load reads
and what a store buffers (R168, R169). That the address of LDS and STS is not wrapped before its checks, and that the TADDR of LDF's
EXTENT_BOUND is the extent address, are the model's readings (DEDUCED: logs 42, 46). -/
def Obligations.ScalarConstantsAndMemory : Prop :=
  ((∀ p d imm s, exec (.movi p d imm) s = .next (s.guarded p (s.resultS d 1 (wrap64 imm.toInt) (tagOf [immTag] (opk 0 0x1B))))) ∧
  (∀ p d imm s, exec (.movsh p d imm) s = .next (s.guarded p (s.resultS d 1
    (low64 ((s.rs d).toNat * 2 ^ 15) ||| low64 imm.toNat) (tagOf [s.ts d, immTag] (opk 0 0x1C))))) ∧
  (∀ p d a b f s, exec (.sel p d a b f) s = .next (s.guarded p (s.resultS d 1
    (if s.rp (f.setWidth 4) = true then s.rs a else s.rs b) (s.tagAB a b 0x1D)))) ∧
  (∀ p d a f s, exec (.extf p d a f) s = .next (s.guarded p (s.resultS d 1
    (let w := (s.thdr s.cur.tile).widw
     low64 ((s.rs a).toNat / 2 ^ (w.take f.toNat).sum % 2 ^ w.getD f.toNat 0)) (tagOf [s.ts a] (opk 0 0x1E))))) ∧
  (∀ p d a e s, exec (.lea p d a e) s = .next (s.guarded p (s.resultS d 1
    (low64 (e.toNat * 2 ^ 59 + if (s.rs a).toNat < 2 ^ 59 then (s.rs a).toNat else 2 ^ 59 - 1)) (s.tagAI a 0x1F))))) ∧
  ((∀ p d a b f s, exec (.lds p d a b f) s = .next (s.guarded p
    (let z : Nat := 2 ^ (f.toNat % 4)
     let x : Int := (s.rs a).toNat + b.toInt * z
     let r := s.memAccess false false (misaligned z) s.eng 0 [(0, x)]
     let v := s.ctile.view s.cur.ctx s.cur.cycle
     let n := readN v.spad x.toNat z
     if r.2 = true then r.1.resultS d (r.1.loadLat 4 [(x.toNat / 256, x.toNat)])
       (if 4 ≤ f.toNat then wrap64 (sext n (8 * z)) else low64 n) (SMap.get 0 v.ltag (x.toNat / 256))
     else r.1))) ∧
  (∀ p d a b f s, exec (.sts p d a b f) s = .next (s.guarded p
    (let z : Nat := 2 ^ f.toNat
     let x : Int := (s.rs a).toNat + b.toInt * z
     let r := s.memAccess true false (misaligned z) s.eng 0 [(0, x)]
     if r.2 = true then
       r.1.bufferStore 2 (((List.range z).zip (toBytes z (s.rs d).toNat)).map fun ib => (x.toNat + ib.1, ib.2)) [x.toNat / 256]
         (s.ts d ^^^ opk 0 0x26) false
     else r.1))) ∧
  (∀ p d a n s, exec (.ldf p d a n) s = .next (s.guarded p
    (let i : Nat := (s.rs a).toNat / 2 ^ 59
     let o : Int := ((s.rs a).toNat % 2 ^ 59 : Nat) + n.toInt * 8
     let addr := wrap64 ((i * 2 ^ 59 : Nat) + o)
     let tag := tagOf [s.ts a, immTag] (opk 0 0x27)
     if ¬ ∃ x, s.extent s.cur.tile i = some x ∧ x.covers o 8 true false = true ∧ x.cls ≠ 0 ∧ s.ownsPrivate s.cur.tile x = true then
       s.raiseAt 0x07 addr
     else if (s.rs a).toNat % 2 ^ 59 % 8 ≠ 0 then s.raiseAt 0x08 addr
     else (s.emit (.ldf ⟨0, s.cur.cycle, s.cur.slot, .s d, 0, 0, tag, 0, 0⟩ addr)).entryTag tag))))

/-- The conditions of CMP, CMPI and PLOG and the predicate each writes at k + 1: a write to p0 is discarded, and no write carries a tag or
adds to the lineage fold; decode refuses a code above those named, and NOT and MOV with B other than 0 (R163). A code that
decode refuses has here the effect of the last one named, which no run meets (DEDUCED: log 93). -/
def Obligations.ScalarCompares : Prop :=
  (∀ p d a b f s, exec (.cmp p d a b f) s = .next (s.guarded p (s.resultP d 1
    (match f with
      | 0 => decide ((s.rs a).toNat = (s.rs b).toNat)
      | 1 => decide ((s.rs a).toNat ≠ (s.rs b).toNat)
      | 2 => decide ((s.rs a).toInt < (s.rs b).toInt)
      | 3 => decide ((s.rs a).toNat < (s.rs b).toNat)
      | 4 => decide ((s.rs b).toInt ≤ (s.rs a).toInt)
      | _ => decide ((s.rs b).toNat ≤ (s.rs a).toNat))))) ∧
  (∀ p d c a n s, exec (.cmpi p d c a n) s = .next (s.guarded p (s.resultP d 1
    (match c with
      | 0 => decide ((s.rs a).toInt = n.toInt)
      | 1 => decide ((s.rs a).toInt ≠ n.toInt)
      | 2 => decide ((s.rs a).toInt < n.toInt)
      | _ => decide (n.toInt ≤ (s.rs a).toInt))))) ∧
  (∀ p d a b f s, exec (.plog p d a b f) s = .next (s.guarded p (s.resultP d 1
    (match f with
      | 0 => s.rp a && s.rp b
      | 1 => s.rp a || s.rp b
      | 2 => xor (s.rp a) (s.rp b)
      | 3 => s.rp a && !s.rp b
      | 4 => !s.rp a
      | _ => s.rp a)))) ∧
  (∀ l v (s : State), s.resultP 0 l v = s) ∧
  (∀ d l v (s : State), d ≠ 0 → s.resultP d l v =
    s.emit (.result ⟨s.landAt l, s.cur.cycle, s.cur.slot, .p (physP s.cur.rrb d), if v = true then 1 else 0, 0, 0, 0, 0⟩)) ∧
  (∀ w p d a b f, decodeWord .scalar w = some (.cmp p d a b f) → f.toNat ≤ 5) ∧
  (∀ w p d a b f, decodeWord .scalar w = some (.plog p d a b f) → f.toNat ≤ 5 ∧ (4 ≤ f.toNat → b = 0))

/-! ## System registers, scratchpad access, control -/

/-- MFSR samples the register on the next cycle, as it then stands, and writes it on the one after; MTSR raises PRIV for a register with no field its context
may write, ALIGN for a gate register with a misaligned address, and writes two cycles on, when its
write is made; the registers with such fields are those R164 and R165 name (0x17 among them, which decode refuses) (R167). What MTSR has written is what MFSR reads: each register keeps its fields and
reads 0 elsewhere (R164, R167). -/
def Obligations.SystemRegisters : Prop :=
  ((∀ p d x s, exec (.mfsr p d x) s = .next (s.guarded p (let tag := tagOf [immTag] (opk 0 0x23)
    (s.emit (.delay ⟨s.cur.cycle + 1, s.cur.slot, .sample x
      ⟨s.cur.cycle + 2, s.cur.cycle, s.cur.slot, .s d, 0, 0, tag, 0, 0⟩⟩)).entryTag tag))) ∧
  (∀ p a x s, exec (.mtsr p a x) s = .next (s.guarded p
    (if privWrite (s.cur.ctx == .handler) x = true then s.raiseOpen 0x19
     else if 0x18 ≤ x.toNat ∧ x.toNat ≤ 0x1F ∧ (s.rs a).toNat % 16 ≠ 0 then s.raiseOpen 0x08
     else s.emit (.delay ⟨s.cur.cycle + 2, s.cur.slot, .sysreg x (s.rs a)⟩)))) ∧
  (∀ x : BitVec 6, privWrite true x = false ↔ x.toNat ∈ [0x05, 0x06, 0x07, 0x08, 0x09, 0x0A, 0x0B, 0x0C, 0x0D, 0x0E, 0x0F, 0x12, 0x13,
    0x17, 0x18, 0x19, 0x1A, 0x1B, 0x1C, 0x1D, 0x1E, 0x1F]) ∧
  (∀ x : BitVec 6, privWrite false x = false ↔ x.toNat ∈ [0x05, 0x06, 0x07, 0x08, 0x0E, 0x0F, 0x12, 0x13, 0x17, 0x18, 0x19, 0x1A, 0x1B,
    0x1C, 0x1D, 0x1E, 0x1F])) ∧
  (∀ (s : State) (t : Nat) (c : Ctx) (x : BitVec 6) (v : W64), s.Canon →
    let r := (s.updTile t fun y => y.sysWrite c x v).sysRead t c x
    (x.toNat = 0x05 ∨ x.toNat = 0x0D ∨ x.toNat = 0x0F → r = v) ∧
    (x.toNat = 0x06 ∨ x.toNat = 0x08 ∨ x.toNat = 0x0C → r = v &&& 0xFF) ∧
    (x.toNat = 0x07 → r = v &&& 0x1F) ∧ (x.toNat = 0x0A → r = v &&& 0xFF3F) ∧ (x.toNat = 0x0B → r = v &&& 0x1FFFFFFFF) ∧
    (x.toNat = 0x0E → r = v &&& 3) ∧ (x.toNat = 0x12 → r = v &&& 0xF) ∧ (x.toNat = 0x13 → r = v &&& 0x7F) ∧
    (0x18 ≤ x.toNat ∧ x.toNat < 0x20 → r = v &&& 0x80F00000003FFFFF) ∧
    (x.toNat = 0x09 → r = s.sysRead t c x &&& ~~~ (if c = .handler then v &&& 0xFF00 else 0))) ∧
  (∀ (s : State) t (c : Ctx) (cyc : Nat) (d : Delayed) x r, s.Canon → c ≠ .handler → d ∈ ((s.tile t).stream c).delayed → d.at_ ≤ cyc →
    d.op = .sample x r → { r with value := (s.sysRead t c x).setWidth 2048 } ∈ (((s.sampleStream t c cyc).tile t).stream c).inflight) ∧
  (∀ (y : Tile) (c : Ctx) (cyc k sl : Nat) x v, (y.stream c).delayed = [⟨k, sl, .sysreg x v⟩] → (y.stream c).inflight = [] → k ≤ cyc →
    let z := y.sysWrite c x v
    y.landStream c cyc = z.setStream c { z.stream c with inflight := [], delayed := [] })

/-- The order of the checks of a scratchpad access: outside handler mode no access below 0x1_0000, then alignment, then in access order the
bound, the set of the phase the access falls in and, for a store outside handler mode, the 64 distinct lines its block may touch (a line
buffered already, or touched by an earlier lane, counts once); each raises its cause with the first failing access, and the bundle's access
ends there. An access that passes takes its ports: in the primary stream two lines of one bank, or a line of a bank another syllable of the
bundle has taken, raise BANK_CONFLICT with the masks of both slots; then a load that reads an uncorrectable line raises UECC (R152, R168,
R188, R191, R202). That a store's phase is the one its own bundle makes current is the model's reading (DEDUCED: logs 42, 117); whose
address BANK_CONFLICT gives where both syllables are of the core's own ports is the model's choice (DESIGN CHOICE: log 132). -/
def Obligations.ScratchpadChecks : Prop :=
  ∀ (s : State) (write vec : Bool) (bad : Access → Bool) (eng : Option Nat) (code : Nat) (xs : List Access),
    let hm := s.cur.ctx == .handler
    let adr := fun (x : Access) => wrap64 x.2
    let line := fun (x : Access) => x.2.toNat / 256
    let held := bufferLines s.buffered
    let why := fun (earlier : List Access) (x : Access) =>
      if x.2 < 0 ∨ 0x400000 ≤ x.2 then some 1
      else if eng.any (fun e => !inSet (s.thdr s.cur.tile) (s.accessPhase write) e write (line x)) then some 0
      else if write = true ∧ hm = false ∧ line x ∉ held ∧ line x ∉ earlier.map line ∧
        64 ≤ held.length + ((earlier.map line).filter fun l => decide (l ∉ held)).dedup.length then some 2
      else none
    let seen := if code = 6 then s.ctile else s.ctile.view s.cur.ctx s.cur.cycle
    let bank := fun (x : Nat × Nat) => x.1 % 32
    let apart := ((touched xs).map bank).Nodup
    let free := s.cur.ctx = .primary → apart ∧ ∀ x ∈ touched xs, s.clashWith write (bank x) = none
    (∀ x, hm = false → xs.find? (fun y => decide (y.2 < 0x10000)) = some x →
      s.memAccess write vec bad eng code xs = (s.raiseAt 0x19 (adr x), false)) ∧
    ((hm = true ∨ ∀ y ∈ xs, (0x10000 : Int) ≤ y.2) →
      (∀ x, xs.find? bad = some x → s.memAccess write vec bad eng code xs = (s.raiseAt 0x08 (adr x), false)) ∧
      (xs.find? bad = none →
        (∀ ys x zs reason, xs = ys ++ x :: zs → (∀ us u vs, ys = us ++ u :: vs → why us u = none) → why ys x = some reason →
          s.memAccess write vec bad eng code xs = (s.raise 0x06 (setInfo (eng.getD 0) write reason) (adr x), false)) ∧
        ((∀ us u vs, xs = us ++ u :: vs → why us u = none) →
          (∀ ys x zs, s.cur.ctx = .primary → touched xs = ys ++ x :: zs → (ys.map bank).Nodup → bank x ∈ ys.map bank →
            s.memAccess write vec bad eng code xs = (s.raise 0x04 (BitVec.ofNat 8 (code * 17)) (bankAddr write x.2), false)) ∧
          (∀ ys x zs m c a, s.cur.ctx = .primary → apart → touched xs = ys ++ x :: zs →
            (∀ y ∈ ys, s.clashWith write (bank y) = none) → s.clashWith write (bank x) = some (m, c, a) →
            s.memAccess write vec bad eng code xs = (s.updIssued fun b => { b with causes := b.causes ++
              [⟨0x04, slotBit s.cur.slot ||| m, BitVec.ofNat 8 (min code c * 16 + max code c),
                bankAddr write (if c = 0 ∨ c < code then a else x.2), false, false⟩] }, false)) ∧
          (free →
            ((write = true ∨ ∀ x ∈ xs, seen.ueccLine (line x) = false) → (s.memAccess write vec bad eng code xs).2 = true) ∧
            ((write = false ∧ ∃ x ∈ xs, seen.ueccLine (line x) = true) → (s.memAccess write vec bad eng code xs).2 = false)) ∧
          (∀ x, s.cur.ctx ≠ .primary → write = false → xs.find? (fun y => seen.ueccLine (line y)) = some x →
            s.memAccess write vec bad eng code xs = (s.raiseUecc (if vec = true then adr x
              else ((seen.ueccWord (line x)).map (BitVec.ofNat 64)).getD s.anyAddr) (decide (x.2 < 0x10000)), false)))))

/-- BR, BRI, CALL and RET: the target, the successor it must be outside handler mode, and the return stack of eight; and what each leaves at
its commit: the jump, which its stream makes three cycles after the signature bundle and handler mode at once, with the next bundle four
ticks on, the address CALL pushes and the one RET takes off (R133, R170). -/
def Obligations.Transfers : Prop :=
  (∀ p disp s, exec (.br p disp) s = .next (s.guarded p
    (let t := wrapN 32 (s.cur.pc + disp.toInt)
     if s.cur.ctx = .handler ∨ t = s.succA ∨ s.succB = some t then s.emit (.jump t) else s.raise 0x0B 0 (low64 t)))) ∧
  (∀ p a s, exec (.bri p a) s = .next (s.guarded p
    (let v := (s.rs a).toNat
     if s.cur.ctx = .handler ∨ (v < 2 ^ 32 ∧ (if field s.succWord 29 1 = 1 then inGroup s.ctile.succ (field s.succWord 0 14) v = true
         else v = s.succA ∨ s.succB = some v)) then s.emit (.jump v) else s.raise 0x0B 0 (s.rs a)))) ∧
  (∀ p disp s, exec (.call p disp) s = .next (s.guarded p
    (let t := wrapN 32 (s.cur.pc + disp.toInt)
     if 8 ≤ s.rstackNow.length then s.raiseOpen 0x02
     else (if s.cur.ctx = .handler ∨ t = s.succA then s.emit (.jump t) else s.raise 0x0B 0 (low64 t)).emit (.push s.zAddr)))) ∧
  (∀ p s, exec (.ret p) s = .next (s.guarded p
    (match s.rstackNow with
      | [] => s.raiseOpen 0x02
      | z :: _ => (s.emit (.jump z)).emit .pop))) ∧
  (∀ (s : State) t (c : Ctx) (b : Issued) target z, s.Canon → c ≠ .handler →
    let x := (s.tile t).stream c
    let y := fun e => ((s.applyEffect t c b e).tile t).stream c
    (y (.jump target)).jump = some (target, 3) ∧ (y (.push z)).rstack = z :: x.rstack ∧ (y .pop).rstack = x.rstack.tail ∧
    (y (.push z)).jump = x.jump ∧ (y .pop).jump = x.jump) ∧
  (∀ (x : Stream) (b : Issued) target n, b.sig = true → x.jump = some (target, n) →
    (x.settle b).pc = target ∧ (x.settle b).nextIssue = b.cycle + n ∧ (x.settle b).jump = none) ∧
  (∀ (s : State) t (b : Issued) h target z, s.Canon → (s.tile t).hm = some h →
    let y := fun e => ((s.applyEffect t .handler b e).tile t).hm
    y (.jump target) = some { h with pc := target, next := b.cycle + 4 } ∧
    y (.push z) = some { h with rstack := z :: h.rstack } ∧ y .pop = some { h with rstack := h.rstack.tail })

/-- LOOP and LOOPI: the checks of R171 in their order, a level opened, or with no iteration the jump to A; BRKL's levels and its target
(R171, R173); SETLC (R174). The steps of the loop levels that end at an address: a level whose count is not reached repeats from its START
with its INDEX one higher; a level that is done is closed and the next one steps if it ends there too (R171; the rotating steps R148).
What each leaves at its commit: the level opened or the levels closed, LC and EC, and for a rotating loop LC, RRB, p8 to p15 and the
first step. That a level's own step comes before the bundle's effects is the model's reading (DEDUCED: log 26); no clause rests on it. -/
def Obligations.LoopsAndLevels : Prop :=
  ((∀ p fl a last s, exec (.loop p fl a last) s = .next (s.guarded p (s.openLoop fl (s.rs a) last.toNat))) ∧
  (∀ p fl n last s, exec (.loopi p fl n last) s = .next (s.guarded p (s.openLoop fl (low64 n.toNat) last.toNat))) ∧
  (∀ (s : State) (fl : BitVec 3) (count : W64) (off : Nat),
    let last := s.cur.pc + off
    let rotating := fl.getLsbD 1 = true
    let none' := if rotating then count = 0 ∧ s.regs.ec = 0 else count = 0
    s.openLoop fl count off =
      if s.loopsNow.length ≥ 6 ∨ last ≤ (if s.cur.ctx = .handler then s.cur.pc else s.sigAt) ∨ (∃ l ∈ s.loopsNow, l.last < last) ∨
          (rotating ∧ ∃ l ∈ s.loopsNow, l.fl.getLsbD 1 = true) then s.raiseOpen 0x02
      else if none' then (s.emit (.loopSkip count fl)).emit (.jump (if s.cur.ctx = .handler then s.zOfEnd last else s.succA))
      else s.emit (.loopOpen { start := s.zAddr, last := last, count := count, index := 0, fl := fl } count)) ∧
  (∀ p lv s, exec (.brkl p lv) s = .next (s.guarded p
    (match s.loopsNow[lv.toNat - 1]? with
      | none => s.raiseOpen 0x02
      | some l => (if s.cur.ctx = .handler ∨ s.zOfEnd l.last = s.succA then s.emit (.jump (s.zOfEnd l.last))
          else s.raise 0x0B 0 (low64 (s.zOfEnd l.last))).emit (.brkl lv.toNat)))) ∧
  (∀ p a ec s, exec (.setlc p a ec) s = .next (s.guarded p (s.emit (.setlc (s.rs a) ec))))) ∧
  (∀ (pc : Nat) (g : Regs) (n : Nat) (l : Level) (ls : List Level), l.last = pc →
    let l' := { l with index := l.index + 1 }
    (l.fl.getLsbD 1 = false → (l.index + 1).toNat < l.count.toNat →
      stepLevels pc g n (l :: ls) = (⟨{ g with epoch := if l.fl.getLsbD 2 then g.epoch + 1 else g.epoch }, l' :: ls⟩, some (l.start, n))) ∧
    (l.fl.getLsbD 1 = false → l.count.toNat ≤ (l.index + 1).toNat → stepLevels pc g n (l :: ls) = stepLevels pc g (n + 1) ls) ∧
    (l.fl.getLsbD 1 = true → g.lc ≠ 0 → ∃ h, stepLevels pc g n (l :: ls) = (⟨h, l' :: ls⟩, some (l.start, n)) ∧
      h.lc = g.lc - 1 ∧ h.ec = g.ec ∧ h.rrb = g.rrb - 1 ∧ readP h h.rrb 8 = true) ∧
    (l.fl.getLsbD 1 = true → g.lc = 0 → g.ec ≠ 0 → ∃ h, stepLevels pc g n (l :: ls) = (⟨h, l' :: ls⟩, some (l.start, n)) ∧
      h.lc = 0 ∧ h.ec = g.ec - 1 ∧ h.rrb = g.rrb - 1 ∧ readP h h.rrb 8 = false) ∧
    (l.fl.getLsbD 1 = true → g.lc = 0 → g.ec = 0 → stepLevels pc g n (l :: ls) = stepLevels pc g (n + 1) ls)) ∧
  (∀ (s : State) t (c : Ctx) (b : Issued), s.Canon →
    let x := (s.tile t).stream c
    let y := fun e => ((s.applyEffect t c b e).tile t).stream c
    (∀ lc ec, (y (.setlc lc ec)).regs = { x.regs with lc := lc, ec := ec } ∧ (y (.setlc lc ec)).loops = x.loops) ∧
    (∀ n, (y (.brkl n)).loops = x.loops.drop n ∧ (y (.brkl n)).regs = x.regs) ∧
    (∀ l n, (y (.loopOpen l n)).loops = l :: x.loops ∧
      (l.fl.getLsbD 1 = false → (y (.loopOpen l n)).regs =
        { x.regs with epoch := if l.fl.getLsbD 2 then x.regs.epoch + 1 else x.regs.epoch }) ∧
      (l.fl.getLsbD 1 = true → let g := (y (.loopOpen l n)).regs
        g.lc = (if n = 0 then 0 else n - 1) ∧ g.ec = (if n = 0 then x.regs.ec - 1 else x.regs.ec) ∧ g.rrb = 31 ∧
        (∀ r : BitVec 4, readP g g.rrb r = if r.toNat < 8 then readP x.regs x.regs.rrb r else decide (r = 8 ∧ n ≠ 0)))) ∧
    (∀ n fl, fl.getLsbD 1 = true → (y (.loopSkip n fl)).regs = { x.regs with lc := n, rrb := 0, p := x.regs.p &&& 0x00FF }) ∧
    (∀ n fl, fl.getLsbD 1 = false → (y (.loopSkip n fl)).regs = x.regs) ∧
    (stepLevels b.pc x.regs 0 x.loops).1.regs = (y .loopStep).regs ∧ (stepLevels b.pc x.regs 0 x.loops).1.loops = (y .loopStep).loops)

/-- The services of the control slot, each an effect of its bundle's commit or the trap its rule names (R175 to R185). -/
def Obligations.ControlServices : Prop :=
  (∀ p ph s, exec (.phase p ph) s = .next (s.guarded p (s.emit (.phase ph)))) ∧
  (∀ p md v s, exec (.epoch p md v) s = .next (s.guarded p (s.emit (.epoch (md == 1) v)))) ∧
  (∀ p g a ph en s, exec (.gateset p g a ph en) s = .next (s.guarded p
    (if (s.rs a).toNat / 2 ^ 22 ≠ 0 ∨ (s.rs a).toNat % 16 ≠ 0 then s.raiseOpen 0x08
     else s.emit (.gate g (low64 (en.toNat * 2 ^ 63 + ph.toNat * 2 ^ 52 + (s.rs a).toNat)))))) ∧
  (∀ p a n s, exec (.rdv p a n) s = .next (s.guarded p
    (let t := low64 ((s.rs a).toNat + n.toNat)
     if ((s.entry s.ctile.lte).rdvTarget (s.region (s.regionOf s.cur.tile)).restart t.toNat).1 ≤ s.ptime.toNat then s.raiseOpen 0x13 else (s.emit (.rdv t)).mark))) ∧
  (∀ p sc s, exec (.fence p sc) s = .next (s.guarded p (if sc = 0 ∨ sc = 1 then s else s.emit (.fence sc)))) ∧
  (∀ p tag s, exec (.snap p tag) s = .next (s.guarded p (s.emit (.snap tag)))) ∧
  (∀ p code s, exec (.trapi p code) s = .next (s.guarded p
    (if s.cur.ctx = .handler then s.raiseOpen 0x1D else s.emit (.trapi code)))) ∧
  (∀ p s, exec (.rett p) s = .next (s.guarded p (s.emit .rett))) ∧
  (∀ p s, exec (.waiti p) s = .next (s.guarded p (s.emit .waiti))) ∧
  (∀ p s, exec (.endt p) s = .next (s.guarded p (s.emit .endt))) ∧
  (∀ p n s, exec (.nopn p n) s = .next (s.guarded p (s.emit (.nopn n.toNat)))) ∧
  (∀ p a s, exec (.sprng p a) s = .next (s.guarded p (s.resultS a 1 (low64 s.cur.word.toNat) (opk 1 0x14)))) ∧
  (∀ p md m s, exec (.inten p md m) s = .next (s.guarded p (s.emit (.inten (md == 1) m)))) ∧
  (∀ p go s, exec (.secs p go) s = .next (s.guarded p
    (if go = 1 ∧ s.ctile.hasSec = false then s.raiseOpen 0x02 else s.emit (.secs (go == 1)))))

/-! ## The commit point -/

/-- What the effects of a bundle leave when it commits: register results join those in flight and stores the block's buffer (in handler mode
they are made at once); GATESET, PHASE, EPOCH, INTEN, SECS and TRAPI write what they name; RDV sets its region's target; a FENCE of a wide
scope notes the accesses under way, one of .tile or .rgn nothing; SNAP raises the trigger; NOPN puts off the next issue; RETT, WAITI and
ENDT end or stop their stream; a transmission leaves with its data and tag, and a matrix command joins the queue (R134, R152, R175 to R183,
R185). In handler mode ENDT acts at once (R182).
PHASE raises SET_OVERLAP where the effective sets of the new phase share a line: the first pair by writing and other engine names it, at its
lowest shared line, and as a cause at the commit point it leaves the phase as it was (R175, R198, R343; BlockingCommitsNothing). -/
def Obligations.CommitEffects : Prop :=
  ∀ (s : State) (t : Nat) (c : Ctx) (b : Issued), s.Canon →
    let x := s.tile t
    let u := fun e => s.applyEffect t c b e
    let y := fun e => (u e).tile t
    let g := fun e => ((y e).stream c).regs
    (∀ set v, (g (.epoch set v)).epoch.toNat = if set = true then v.toNat else ((x.stream c).regs.epoch.toNat + v.toNat) % 256) ∧
    (∀ i v j, rd (g (.gate i v)).g j = if j = i then v else rd (x.stream c).regs.g j) ∧
    (∀ ph, (y (.phase ph)).phase = ph ∧ ((u (.phase ph)).region (s.regionOf t)).exch = none) ∧
    (∀ set m i, i < 2 → (y (.inten set m)).ie.getLsbD i = if m.getLsbD i = true then set else x.ie.getLsbD i) ∧
    (∀ go, (y (.secs go)).secRun = go) ∧
    (∀ code, (y (.trapi code)).defer = x.defer ++ [⟨0x1A, 0x04, code, 0, false, false⟩]) ∧
    (∀ n, c ≠ .handler → ((y (.nopn n)).stream c).nextIssue = b.cycle + n) ∧
    (∀ t', (y (.rdv t')) = x ∧ ((u (.rdv t')).region (s.regionOf t)).nominal = t'.toNat ∧
      ((u (.rdv t')).region (s.regionOf t)).rdv = some ((s.entry x.lte).rdvTarget (s.region (s.regionOf t)).restart t'.toNat).1) ∧
    (∀ sc, (sc = 0 ∨ sc = 1 → u (.fence sc) = s) ∧ (sc ≠ 0 → sc ≠ 1 → ((y (.fence sc)).stream c).fence = s.outstanding t c)) ∧
    (∀ tag, s.iod.snapFull = false → s.iod.snapAt = none → (u (.snap tag)).iod.snapAt = some (s.ptime.toNat, 0, tag) ∧
      (s.ptime.toNat + 64, .snapshotLatch, .none) ∈ (u (.snap tag)).pending) ∧
    (∀ r, c ≠ .handler → ((y (.result r)).stream c).inflight = (x.stream c).inflight ++ [r]) ∧
    (∀ d, c ≠ .handler → ((y (.delay d)).stream c).delayed = (x.stream c).delayed ++ [d]) ∧
    (∀ st, c ≠ .handler → ((y (.store st)).stream c).sbuf = (x.stream c).sbuf ++ [st] ∧ (y (.store st)).spad = x.spad) ∧
    (c ≠ .handler → ((y .endt).stream c).endt = true ∧ (y .endt).ended = x.ended) ∧
    (∀ h, c = .handler → x.hm = some h →
      (∃ k, (y .rett).hm = some k ∧ k.leaving = true) ∧ (∃ k, (y .waiti).hm = some k ∧ k.waiting = true) ∧
      (y .endt).hm = none ∧ (y .endt).ended = true ∧ (y .endt).prim.inflight = [] ∧
      (∀ n, ∃ k, (y (.nopn n)).hm = some k ∧ k.next = b.cycle + n) ∧
      (∀ r, ∃ k, (y (.result r)).hm = some k ∧ k.flight = h.flight ++ [r]) ∧
      (∀ d, ∃ k, (y (.delay d)).hm = some k ∧ k.delayed = h.delayed ++ [d]) ∧
      (∀ st, y (.store st) = x.commitStore st)) ∧
    (∀ o slot, (u (.send o slot)).txs = s.txs ++ [⟨s.nextId, s.regionOf t, t, s.ltOf t, o.dest, o.die, b.cycle, o.sid, o.data, o.tag, none,
      (s.region (s.regionOf t)).rtime - b.cycle, none, false⟩]) ∧
    (∀ m slot, y (.mcmd m slot) = { x with mx := { x.mx with queue := x.mx.queue ++ [m] } }) ∧
    (∀ ph pc, s.effectCause t pc (.phase ph) = (s.overlap t ph.toNat).map fun o => ⟨0x05, 0x04, o.1, o.2, false, false⟩) ∧
    (∀ ph : Nat,
      let clash := fun (w o l : Nat) => w < 6 ∧ o < 6 ∧ w ≠ o ∧ (∃ r ∈ s.effSet t ph w true, r.1 ≤ l ∧ l ≤ r.2) ∧
        ∃ r ∈ s.effSet t ph o true ++ s.effSet t ph o false, r.1 ≤ l ∧ l ≤ r.2
      (s.overlap t ph = none ↔ ∀ w o l, ¬ clash w o l) ∧
      ∀ info addr, s.overlap t ph = some (info, addr) → ∃ w o l, clash w o l ∧ info = BitVec.ofNat 8 (16 * w + o) ∧ addr = low64 (256 * l) ∧
        (∀ l', clash w o l' → l ≤ l') ∧ ∀ w' o' l', clash w' o' l' → w < w' ∨ w = w' ∧ o ≤ o')

/-! ## Traps -/

/-- The cause taken among those of a commit point: ILLEGAL_BUNDLE where one is; otherwise one whose lowest slot no other is below, TMASK 0
counted as after K, and of those the lowest code. TMASK holds the slots of the cause taken and every slot of the bundle that raised any (R344). The action table at reset: ACT, LOCK,
SNAP and HEALTH of every cause (R347). -/
def Obligations.CauseChoice : Prop :=
  (∀ cs : List Cause,
    (chooseCause cs = none ↔ cs = []) ∧
    (∀ k, chooseCause cs = some k → k ∈ cs ∧
      ((∃ d ∈ cs, d.code = 1) → k.code = 1) ∧
      ((∀ d ∈ cs, d.code ≠ 1) → ∀ d ∈ cs, lowSlot k.mask ≤ lowSlot d.mask ∧
        (lowSlot d.mask = lowSlot k.mask → k.code.toNat ≤ d.code.toNat))) ∧
    (∀ k i, (allMask cs k).getLsbD i = true ↔ k.mask.getLsbD i = true ∨ ∃ d ∈ cs, d.ext = false ∧ d.mask.getLsbD i = true)) ∧
  (∀ d : Nat, ((List.range 64).map fun code => (State.reset.action d code).toNat) =
    [0, 0, 0, 3, 0x82, 0x82, 0x82, 0, 0, 0x41, 0x41, 0x41, 0x41, 0x82, 0x82, 1, 0x82, 0x82, 1, 1, 0, 1, 0, 0, 0, 0x8082, 4, 0x84, 4,
      0x8082, 2, 3, 0x82, 3, 3, 0x8003] ++ List.replicate 28 0)

/-- A bundle of the primary stream with a cause at its commit point commits nothing: no register, no tag, no result in flight, no store, no
queue, no basin update, no arrival, no fence, no transmission, no access and no system register of its tile but the trap's own changes, and
nothing of another tile or of memory; the stream goes back to the bundle, which is no longer in its shadow (R343). The block's stores go
where the cause is a failed check (R155), and BASIN_OVERFLOW leaves its mark in its basin (R311). -/
def Obligations.BlockingCommitsNothing : Prop :=
  ∀ (s : State) (t : Nat) (b : Issued), s.Canon → (s.tile t).prim.issued = some b →
    let x := s.tile t
    let own := b.causes ++ b.effects.filterMap (s.effectCause t b.pc)
    let cs := own ++ (tinjCause x b).toList ++ x.pend ++ x.after
    own ≠ [] →
    let v := (s.commitPrimary t).1
    let y := v.tile t
    (s.commitPrimary t).2 = none ∧ y.prim.issued = none ∧ y.prim.pc = b.pc ∧ y.prim.regs = x.prim.regs ∧
    y.prim.inflight = x.prim.inflight ∧ y.prim.delayed = x.prim.delayed ∧ y.prim.loops = x.prim.loops ∧
    y.prim.rstack = x.prim.rstack ∧ y.prim.fence = x.prim.fence ∧ y.spad = x.spad ∧ y.ltag = x.ltag ∧ y.mx = x.mx ∧ y.far = x.far ∧
    y.spring = x.spring ∧ y.phase = x.phase ∧ y.ie = x.ie ∧ y.tcmp = x.tcmp ∧ y.mflags = x.mflags ∧ y.secRun = x.secRun ∧
    y.breads = x.breads ∧ y.hm = x.hm ∧ y.ended = x.ended ∧ y.sec.regs = x.sec.regs ∧ y.sec.inflight = x.sec.inflight ∧
    y.sec.sbuf = x.sec.sbuf ∧ v.txs = s.txs ∧ v.ops = s.ops ∧ v.mem = s.mem ∧ v.pool = s.pool ∧
    (∀ z, z ≠ t → v.tile z = s.tile z) ∧
    ((∀ c ∈ cs, c.code ∉ [(0x0A : BitVec 6), 0x0B, 0x0C]) → y.prim.sbuf = x.prim.sbuf ∧ y.prim.barr = x.prim.barr) ∧
    ((∀ c ∈ cs, c.code ≠ 0x14) → y.basinOps = x.basinOps) ∧
    (y.basinOps = x.basinOps ∨ ∃ a, y.basinOps = x.basinOps ++ [(2, a, .ovf)]) ∧
    (s.secCauses t = [] → y.sec = x.sec ∧ y.tpc = BitVec.ofNat 33 b.pc ∧
      ∃ k, chooseCause cs = some k ∧ y.tcause = low64 (k.info.toNat * 256 + k.code.toNat) ∧ y.taddr = k.addr)

/-- Taking a trap writes TCAUSE, TPC, TMASK and TADDR of its tile, counts HEALTH, raises the snapshot trigger, with source 1 and the cause's code, where the entry says so, and
keeps the trap with its entry's action for the end of the tick; every other tile is as before (R344, R347, R348, R351, R382). INFO and TADDR,
where no rule gives them, are free values (DESIGN CHOICE: log 7). -/
def Obligations.TakeTrap : Prop :=
  ∀ (s : State) (t : Nat) (c : Cause) (mask : BitVec 8) (pc cyc : Nat) (sec nrforced harea : Bool), s.Canon →
    let ent := s.action (dieOf t) (if harea = true then 0x1D else c.code.toNat)
    let x := s.tile t
    let u := s.take t c mask pc cyc sec nrforced harea
    u.tile t = { x with
      tcause := low64 (c.info.toNat * 256 + c.code.toNat), tpc := BitVec.ofNat 33 ((if sec then 2 ^ 32 else 0) + pc), tmask := mask,
      taddr := c.addr, fails := if ent.getLsbD 6 = true ∧ x.fails ≠ 15 then x.fails + 1 else x.fails } ∧
    (∀ v, v ≠ t → u.tile v = s.tile v) ∧
    (∃ k : Taken, u.taken = s.taken ++ [k] ∧ k.tile = t ∧ k.act = ent.extractLsb' 0 3 ∧ k.cause = { c with mask := mask }) ∧
    (ent.getLsbD 7 = false → u.iod = s.iod ∧ u.pending = s.pending) ∧
    (ent.getLsbD 7 = true → let code := BitVec.ofNat 8 c.code.toNat
      u.iod = (s.snapTrigger 1 code).iod ∧ u.pending = (s.snapTrigger 1 code).pending ∧
      (s.iod.snapFull = false → s.iod.snapAt = none → u.iod.snapAt = some (s.ptime.toNat, 1, code) ∧
        u.pending = s.pending ++ [(s.ptime.toNat + 64, .snapshotLatch, .none)]))

/-- Entering handler mode: the frame at 0x0100 with its header, the loop levels innermost first, s60 to s63 and their tags; a record for each
result in flight, in the order of landing cycle, issue cycle and slot, with its value slot where it is a vector, and V = 0 in the records
behind; no loop level, LC, EC and RRB zero, an empty return stack, and the first bundle at the cause's vector on tick T + 9 + NREC; other
scratchpad bytes are as they were (R354 to R358). The merge of lanes into one record is the model's reading (DEDUCED: log 45). -/
def Obligations.EnterHandler : Prop :=
  ∀ (s : State) (t c : Nat), s.Canon →
    let x := s.tile t
    let g := x.prim.regs
    let rs := x.prim.inflight.filter fun r => decide (c ≤ r.land)
    let sorted := sortBy resultLe rs
    let y := (s.enterHandler t c).tile t
    rs.length ≤ 32 → x.prim.loops.length ≤ 6 →
    (∃ h, y.hm = some h ∧ h.cyc = c ∧ h.first = s.ptime.toNat + 9 + rs.length ∧ h.rstack = [] ∧ h.issued = none ∧ h.flight = [] ∧
      h.pc = readN x.spad (let code := x.tcause.toNat % 64
        if code = 0x1A then 0 else if code = 0x1B then 4 else if code = 0x1C then 8 else 12) 4 / 4) ∧
    y.prim.loops = [] ∧ y.prim.regs = { g with lc := 0, ec := 0, rrb := 0 } ∧
    y.prim.inflight = x.prim.inflight.filter (fun r => decide (r.land < c)) ∧
    readN y.spad 0x100 8 = x.tcause.toNat ∧ readN y.spad 0x108 8 = x.tpc.toNat ∧ readN y.spad 0x110 8 = x.tmask.toNat ∧
    readN y.spad 0x118 8 = x.taddr.toNat ∧ readN y.spad 0x120 8 = c % 2 ^ 64 ∧ readN y.spad 0x128 8 = s.ptime.toNat ∧
    readN y.spad 0x130 8 = g.lc.toNat ∧
    readN y.spad 0x138 4 = g.ec.toNat + g.rrb.toNat * 2 ^ 8 + g.epoch.toNat * 2 ^ 16 + x.prim.loops.length * 2 ^ 24 ∧
    readN y.spad 0x13C 4 = rs.length ∧
    (∀ i l, x.prim.loops[i]? = some l → let a := 0x140 + 24 * i
      readN y.spad a 4 = l.start % 2 ^ 32 ∧ readN y.spad (a + 4) 4 = l.fl.toNat * 2 ^ 29 + l.last % 2 ^ 29 ∧
      readN y.spad (a + 8) 8 = l.count.toNat ∧ readN y.spad (a + 16) 8 = l.index.toNat) ∧
    (∀ i, x.prim.loops.length ≤ i → i < 6 → readN y.spad (0x140 + 24 * i) 24 = 0) ∧
    (∀ i < 4, readN y.spad (0x1D0 + 8 * i) 8 = (rd g.s (BitVec.ofNat 6 (60 + i))).toNat ∧
      readN y.spad (0x1F0 + 2 * i) 2 = (rd g.st (BitVec.ofNat 6 (60 + i))).toNat) ∧
    readN y.spad 0x1F8 8 = 0 ∧
    sorted.Perm rs ∧ (sorted.Pairwise fun a b =>
      a.land < b.land ∨ a.land = b.land ∧ (a.issue < b.issue ∨ a.issue = b.issue ∧ a.slot ≤ b.slot)) ∧
    (∀ i r, sorted[i]? = some r →
      let a := 0x200 + 32 * i
      let gi := (sorted.take (i + 1)).foldl (fun g r => g.land r false) g
      let written := fun (kind reg tag value : Nat) =>
        readN y.spad a 4 = 2 ^ 31 + kind * 2 ^ 28 + reg * 2 ^ 22 + r.vf.toNat * 2 ^ 15 + r.mf.toNat * 2 ^ 11 ∧
        readN y.spad (a + 4) 2 = tag ∧ readN y.spad (a + 6) 2 = (r.land - c) % 2 ^ 16 ∧ readN y.spad (a + 8) 8 = value ∧
        readN y.spad (a + 16) 16 = 0
      match r.dest with
      | .s d => written 0 d.toNat r.tag.toNat (r.value.toNat % 2 ^ 64)
      | .v d => written 1 d.toNat r.tag.toNat 0 ∧ readN y.spad (0x600 + 256 * i) 256 = (rd gi.v d).toNat
      | .p d => written 2 d.toNat 0 (r.value.toNat % 2 ^ 64)
      | .q d => written 3 d.toNat 0 (if d = 0 then r.value.toNat % 2 ^ 64 else (rd gi.q d).toNat)) ∧
    (∀ i, rs.length ≤ i → i < 32 → readN y.spad (0x200 + 32 * i) 32 = 0) ∧
    (∀ i < 32, (∀ r d, sorted[i]? = some r → r.dest ≠ .v d) →
      ∀ b < 256, SMap.get 0 y.spad (0x600 + 256 * i + b) = SMap.get 0 x.spad (0x600 + 256 * i + b)) ∧
    (∀ a, a < 0x100 ∨ 0x2600 ≤ a → SMap.get 0 y.spad a = SMap.get 0 x.spad a)

/-- Leaving handler mode: LC, EC, RRB, EPOCH, the loop levels, and s60 to s63 with their tags come from the frame, the stream goes on at TPC,
and each record with V = 1 and a kind of its own is a result that lands REMAIN cycles after C in its register, with its value, whole, its tag
and its flags; no other result is added (R359). The tick on which RETT acts is the model's reading (DEDUCED: log 32); the statement rests on no
value of it. -/
def Obligations.LeaveHandler : Prop :=
  ∀ (s : State) (t : Nat) (h : Handler), s.Canon → (s.tile t).hm = some h →
    let x := s.tile t
    let m := x.spad
    let stw := readN m 0x138 4
    let y := (s.leaveHandler t).tile t
    y.hm = none ∧ y.prim.pc = x.tpc.toNat % 2 ^ 32 ∧ y.prim.regs.lc.toNat = readN m 0x130 8 ∧ y.prim.regs.ec.toNat = stw % 256 ∧
    y.prim.regs.rrb.toNat = stw / 2 ^ 8 % 32 ∧ y.prim.regs.epoch.toNat = stw / 2 ^ 16 % 256 ∧
    y.prim.loops.length = min 6 (stw / 2 ^ 24 % 8) ∧
    (∀ i l, y.prim.loops[i]? = some l → let a := 0x140 + 24 * i
      l.start = readN m a 4 ∧ l.last = readN m (a + 4) 4 % 2 ^ 29 ∧ l.fl.toNat = readN m (a + 4) 4 / 2 ^ 29 ∧
      l.count.toNat = readN m (a + 8) 8 ∧ l.index.toNat = readN m (a + 16) 8) ∧
    (∀ i, i < 4 → (rd y.prim.regs.s (BitVec.ofNat 6 (60 + i))).toNat = readN m (0x1D0 + 8 * i) 8 ∧
      (rd y.prim.regs.st (BitVec.ofNat 6 (60 + i))).toNat = readN m (0x1F0 + 2 * i) 2) ∧
    (∀ i : BitVec 6, i.toNat < 60 → rd y.prim.regs.s i = rd x.prim.regs.s i ∧ rd y.prim.regs.st i = rd x.prim.regs.st i) ∧
    y.prim.regs.v = x.prim.regs.v ∧ y.prim.regs.p = x.prim.regs.p ∧ y.prim.regs.q = x.prim.regs.q ∧ y.spad = m ∧
    (∃ rs, y.prim.inflight = x.prim.inflight ++ rs ∧
      (∀ i, i < 32 → let a := 0x200 + 32 * i
        let w := readN m a 4
        w / 2 ^ 31 = 1 → w / 2 ^ 28 % 8 < 4 →
        ∃ r ∈ rs, r.slot = i ∧ r.land = h.cyc + readN m (a + 6) 2 ∧ r.tag.toNat = readN m (a + 4) 2 ∧
          r.vf.toNat = w / 2 ^ 15 % 2 ^ 7 ∧ r.mf.toNat = w / 2 ^ 11 % 2 ^ 4 ∧ (∀ l < 64, r.lanes.getLsbD l = true) ∧
          (w / 2 ^ 28 % 8 = 0 → r.dest = .s (fld w 22 6) ∧ r.value.toNat = readN m (a + 8) 8) ∧
          (w / 2 ^ 28 % 8 = 1 → r.dest = .v (fld w 22 6) ∧ r.value.toNat = readN m (0x600 + 256 * i) 256) ∧
          (w / 2 ^ 28 % 8 = 2 → r.dest = .p (fld w 22 4) ∧ r.value.toNat = readN m (a + 8) 8 % 2) ∧
          (w / 2 ^ 28 % 8 = 3 → r.dest = .q (fld w 22 3) ∧ r.value.toNat = readN m (a + 8) 8)) ∧
      (∀ r ∈ rs, r.slot < 32 ∧ readN m (0x200 + 32 * r.slot) 4 / 2 ^ 31 = 1 ∧ readN m (0x200 + 32 * r.slot) 4 / 2 ^ 28 % 8 < 4) ∧
      (rs.map fun r => r.slot).Nodup)

/-! ## Vector loads and stores, transmissions -/

/-- The lane addresses of the vector loads and stores, their latencies and their alignment (R200, R202); base + 4l of VLD and VST is not
narrowed, so that a lane past the top of the addresses is out of bounds (R9; DEDUCED: log 42). What a load that passes its
checks writes, lane by lane, and what a store buffers: the lanes' bytes in lane order, so that of two lanes with one address the higher is
kept; a syllable with no active lane makes no access (R201). -/
def Obligations.VectorMemoryAndMoves : Prop :=
  ((∀ p v a q off s, exec (.vld p v a q off) s = .next (s.guarded p
    (let b := low64 ((s.rs a).toNat + (off.signExtend 64).toNat)
     s.vload v 5 (s.rq q) (fun _ => decide (b.toNat % 256 ≠ 0)) fun l => (b.toNat : Int) + 4 * l))) ∧
  (∀ p v a q off s, exec (.vst p v a q off) s = .next (s.guarded p
    (let b := low64 ((s.rs a).toNat + (off.signExtend 64).toNat)
     s.vstore v 0x02 (s.rq q) (fun _ => decide (b.toNat % 256 ≠ 0)) fun l => (b.toNat : Int) + 4 * l))) ∧
  (∀ p v a b q off s, exec (.vldx p v a b q off) s = .next (s.guarded p
    (s.vload v 7 (s.rq q) (misaligned 4) fun l => ((s.rs a + off.signExtend 64 + (lane (s.rv b) l).signExtend 64).toNat : Int)))) ∧
  (∀ p v a b q off s, exec (.vstx p v a b q off) s = .next (s.guarded p
    (s.vstore v 0x04 (s.rq q) (misaligned 4) fun l => ((s.rs a + off.signExtend 64 + (lane (s.rv b) l).signExtend 64).toNat : Int)))) ∧
  (∀ p v a off s, exec (.vldb p v a off) s = .next (s.guarded p
    (s.vload v 5 (BitVec.allOnes 64) (misaligned 4) fun _ => ((s.rs a + off.signExtend 64).toNat : Int)))) ∧
  (∀ p v a b q off s, exec (.vlds p v a b q off) s = .next (s.guarded p
    (s.vload v 7 (s.rq q) (misaligned 4) fun l => ((low64 ((s.rs a + off.signExtend 64).toNat + l * (s.rs b).toNat)).toNat : Int)))) ∧
  (∀ p v a b q off s, exec (.vsts p v a b q off) s = .next (s.guarded p
    (s.vstore v 0x07 (s.rq q) (misaligned 4) fun l => ((low64 ((s.rs a + off.signExtend 64).toNat + l * (s.rs b).toNat)).toNat : Int))))) ∧
  (∀ (s : State) (v : BitVec 6) (lat op : Nat) (m : BitVec 64) (bad : Access → Bool) (f : Nat → Int),
    let xs : List Access := ((List.range 64).filter fun l => m.getLsbD l).map fun l => (l, f l)
    let see := s.ctile.view s.cur.ctx s.cur.cycle
    (m = 0 → s.vload v lat m bad f = s ∧ s.vstore v op m bad f = s) ∧
    (m ≠ 0 → ∀ t, s.memAccess false true bad s.eng 0 xs = (t, true) → ∃ r,
      s.vload v lat m bad f = t.resultV v (s.loadLat lat (touched xs)) m r
        ((touched xs).foldl (fun (g : Tag) x => rotl16 g 3 ^^^ SMap.get 0 see.ltag x.1) 0) 0 0 ∧
      ∀ l, l < 64 → m.getLsbD l = true → (lane r l).toNat = readN see.spad (f l).toNat 4) ∧
    (m ≠ 0 → ∀ t, s.memAccess true true bad s.eng 0 xs = (t, true) → ∃ bs,
      s.vstore v op m bad f = t.bufferStore 3 bs ((touched xs).map fun x => x.1) (s.tv v ^^^ opk 2 op) false ∧
      ∀ a, (bs.reverse.find? fun c => c.1 == a).map (fun c => c.2) =
        ((List.range 64).reverse.find? fun l => m.getLsbD l && decide ((f l).toNat ≤ a) && decide (a < (f l).toNat + 4)).map
          fun l => BitVec.ofNat 8 ((lane (s.rv v) l).toNat / 2 ^ (8 * (a - (f l).toNat)))) ∧
    (m ≠ 0 → ∀ t, s.memAccess false true bad s.eng 0 xs = (t, false) → s.vload v lat m bad f = t) ∧
    (m ≠ 0 → ∀ t, s.memAccess true true bad s.eng 0 xs = (t, false) → s.vstore v op m bad f = t))

/-- The transmissions: SEND, DSEND and LSEND check their target and the window, carry the data with the tag of R150 and mark their block;
RECV, DRECV and LRECV read the latch SID names at issue (R150, R266, R269, R270). -/
def Obligations.TimedTransfers : Prop :=
  (∀ p v tgt sid s, exec (.send p v tgt sid) s = .next (s.guarded p
    (match s.target (dieOf s.cur.tile) tgt.toNat with
      | none => s.raiseOpen 0x02
      | some t =>
        if s.regionOf t ≠ s.regionOf s.cur.tile ∧ s.inExchange = false then s.raiseOpen 0x13
        else (s.emit (.send ⟨false, t, sid, s.rv v, rotl16 (s.tv v) 5 ^^^ sid.setWidth 16 ^^^ epx16 s.regs.epoch⟩ s.cur.slot)).mark))) ∧
  (∀ p v tgt sid d s, exec (.dsend p v tgt sid d) s = .next (s.guarded p
    (match (if d.toNat = dieOf s.cur.tile then none else s.target d.toNat tgt.toNat) with
      | none => s.raiseOpen 0x02
      | some t =>
        if s.inExchange = false then s.raiseOpen 0x13
        else (s.emit (.send ⟨true, t, sid, s.rv v, rotl16 (s.tv v) 5 ^^^ sid.setWidth 16 ^^^ epx16 s.regs.epoch⟩ s.cur.slot)).mark))) ∧
  (∀ p v sid s, exec (.recv p v sid) s = .next (s.guarded p
    (s.resultV v 2 (BitVec.allOnes 64) (portLatch s.ctile.mport sid).1 (portLatch s.ctile.mport sid).2 0 0))) ∧
  (∀ p v sid s, exec (.drecv p v sid) s = .next (s.guarded p
    (s.resultV v 2 (BitVec.allOnes 64) (portLatch s.ctile.dport sid).1 (portLatch s.ctile.dport sid).2 0 0))) ∧
  (∀ p a tgt sid off s, exec (.lsend p a tgt sid off) s = .next (s.guarded p
    (let x : Int := (s.rs a).toNat + off.toInt
     let r := s.memAccess false false (misaligned 256) (some 4) 6 [(0, x)]
     match s.target (dieOf s.cur.tile) tgt.toNat with
      | none => s.raiseOpen 0x02
      | some t =>
        if s.regionOf t ≠ s.regionOf s.cur.tile ∧ s.inExchange = false then s.raiseOpen 0x13
        else if r.2 = true then
          (r.1.emit (.send ⟨false, t, sid, readLine s.ctile.spad (x.toNat / 256),
            rotl16 (SMap.get 0 s.ctile.ltag (x.toNat / 256)) 5 ^^^ sid.setWidth 16 ^^^ epx16 s.regs.epoch⟩ s.cur.slot)).mark
        else r.1))) ∧
  (∀ p a sid off s, exec (.lrecv p a sid off) s = .next (s.guarded p
    (let x : Int := (s.rs a).toNat + off.toInt
     let r := s.memAccess true false (misaligned 256) (some 4) 6 [(0, x)]
     let l := portLatch s.ctile.mport sid
     if r.2 = true then
       r.1.bufferStore 2 ((toBytes 256 l.1.toNat).zipIdx.map fun b => (x.toNat + b.2, b.1)) [x.toNat / 256] l.2 true
     else r.1)))

/-! ## Far commands, ranges, atomics and basins -/

/-- The copy nest and the far commands: the checks of each in their order and the effect it enters (R286, R288, R298 to R301); and what that
effect leaves when it commits: the nest of its stream described, a record for an FSIG or FRED, an FGO in the issue port with its stream's
nest, or started at once, the copy of its slot cancelled; FQRY's answer is read a cycle on. An FGO that starts becomes a record of as many
copies as its nest counts (R282, R288). That an ungated FGO with DELAY 0 starts on its commit tick is the model's reading (DEDUCED: log
40). -/
def Obligations.FarCommands : Prop :=
  (∀ p x a b lv s, exec (.fnest p x a b lv) s = .next (s.guarded p
    (if 65535 < (s.rs a).toNat then s.raiseOpen 0x02
     else if (s.rs b).toNat % 64 ≠ 0 ∨ (s.rs x).toNat % 64 ≠ 0 then s.raiseOpen 0x08
     else s.emit (.fnest lv.toNat (s.rs a).toNat (s.rs b).toInt (s.rs x).toInt)))) ∧
  (∀ p x a b s, exec (.fbase p x a b) s = .next (s.guarded p
    (let w := (s.rs x).toNat
     let size := w % 2 ^ 17
     let ssp := w / 2 ^ 62 % 2 = 1
     let dsp := w / 2 ^ 63 = 1
     if (ssp ↔ dsp) ∨ w / 2 ^ 17 % 2 ^ 45 ≠ 0 ∨ size < 64 ∨ 65536 < size then s.raiseOpen 0x02
     else if size % 64 ≠ 0 ∨ (if ssp then s.rs a else s.rs b).toNat % 64 ≠ 0 then s.raiseOpen 0x08
     else s.emit (.fbase (s.rs a) (s.rs b) size (decide ssp) (decide dsp))))) ∧
  (∀ p x s, exec (.fidx p x) s = .next (s.guarded p
    (if ∃ l : Fin 64, (lane (s.rv x) l).toNat % 64 ≠ 0 then s.raiseOpen 0x08 else s.emit (.fidx (s.rv x))))) ∧
  (∀ p a b dl sc ls s, exec (.fgo p a b dl sc ls) s = .next (s.guarded p
    (if s.badRef s.cur.tile (s.rs a) true = true ∨ s.badRef s.cur.tile (s.rs b) false = true then s.raiseOpen 0x02
     else (s.emit (.fgo (s.cur.cycle + 1 + dl.toNat) s.cur.pc s.cur.gate (s.rs a) (s.rs b) sc ls s.cur.slot)).mark))) ∧
  (∀ p a b sc s, exec (.fsig p a b sc) s = .next (s.guarded p
    (if s.badRef s.cur.tile (s.rs a) false = true ∨ 2 ^ 24 ≤ (s.rs b).toNat then s.raiseOpen 0x02
     else (s.emit (.fsig (s.rs a) (s.rs b).toNat sc s.cur.slot)).mark))) ∧
  (∀ p x a b f sc s, exec (.fred p x a b f sc) s = .next (s.guarded p
    (let g := (s.rs a).toNat
     let len := g / 2 ^ 48
     let count := g / 2 ^ 16 % 2 ^ 16
     let rank := g % 2 ^ 16
     if 4 < f.toNat ∨ len = 0 ∨ 1024 < len ∨ s.badRef s.cur.tile (s.rs x) true = true then s.raiseOpen 0x02
     else if count = 0 ∨ count ≤ rank then s.raiseOpen 0x18
     else if (s.rs b).toNat % 64 ≠ 0 then s.raiseOpen 0x08
     else match s.chunkCheck (s.rs b) len with
       | some k => s.raise k.1 k.2.1 k.2.2
       | none => (s.emit (.fred len (g / 2 ^ 32 % 2 ^ 16) count rank (s.rs b).toNat (s.rs x) f sc s.cur.slot)).mark))) ∧
  (∀ p x sel s, exec (.fqry p x sel) s = .next (s.guarded p (let tag := tagOf [immTag] (opk 2 0x26)
    (s.emit (.delay ⟨s.cur.cycle + 1, s.cur.slot, .farQuery sel (s.cur.ctx == .secondary)
      ⟨s.cur.cycle + 2, s.cur.cycle, s.cur.slot, .s x, 0, 0, tag, 0, 0⟩⟩)).entryTag tag))) ∧
  (∀ p n al s, exec (.fcan p n al) s = .next (s.guarded p (s.emit (.fcan n.toNat (al == 1))))) ∧
  (∀ (s : State) t (c : Ctx) (b : Issued), s.Canon →
    let x := (s.tile t).far
    let sec := c == .secondary
    let u := fun e => s.applyEffect t c b e
    let y := fun e => ((u e).tile t).far
    (∀ lv n ss ds, (y (.fnest lv n ss ds)).nestOf sec = { x.nestOf sec with levels := (x.nestOf sec).levels.set lv (n, ss, ds) }) ∧
    (∀ src dst n ssp dsp, (y (.fbase src dst n ssp dsp)).nestOf sec =
      { src := src, dst := dst, size := n, ssp := ssp, dsp := dsp, levels := List.replicate 6 (1, 0, 0), idxOn := false, idx := 0 }) ∧
    (∀ v, (y (.fidx v)).nestOf sec = { x.nestOf sec with idxOn := true, idx := v }) ∧
    (∀ v n sc slot, ∃ r, (y (.fsig v n sc slot)).recs = x.recs ++ [r] ∧ r.kind = .fsig n ∧ r.cmd.vis = v ∧ r.cmd.sec = sec ∧
      r.next = 0 ∧ r.total = 1) ∧
    (∀ len grp count rank chunk v op sc slot, ∃ r, (y (.fred len grp count rank chunk v op sc slot)).recs = x.recs ++ [r] ∧
      r.kind = .fred len grp count rank chunk op ∧ r.cmd.vis = v ∧ r.cmd.sec = sec ∧ r.next = 0 ∧ r.total = 1) ∧
    (∀ start pc gate rel vis sc ls slot, ∃ k : FgoCmd,
      k.nest = x.nestOf sec ∧ k.rel = rel ∧ k.vis = vis ∧ k.sc = sc ∧ k.ls = ls ∧ k.sec = sec ∧ k.gate = gate ∧
      (if c = .handler ∨ (start = b.cycle + 1 ∧ gate = none ∧ x.port = []) then
         let v := (s.updTile t fun z => { z with far := { z.far with port := [k] } }).startFar t
         y (.fgo start pc gate rel vis sc ls slot) = { (v.tile t).far with port := x.port }
       else k.start = start ∧ y (.fgo start pc gate rel vis sc ls slot) = { x with port := x.port ++ [k] })) ∧
    (∀ n, s.copyAt t n = none → u (.fcan n false) = s) ∧
    (∀ n d r, s.copyAt t n = some d → s.recOf t d = some r → r.cmd.sec = sec → (u (.fcan n false)).copyAt t n = none)) ∧
  (∀ (s : State) t k ks, s.Canon → (s.tile t).far.port = k :: ks → gateTrap ((s.tile t).gateState k.ctx k.start k.gate) = none →
    (s.updFar t fun f => { f with port := ks }).fgoCheck t k = none → 0 < k.nest.count →
    let y := ((s.startFar t).tile t).far
    y.port = ks ∧ ∃ r, y.recs = (s.tile t).far.recs ++ [r] ∧ r.kind = .fgo ∧ r.cmd = k ∧ r.next = 0 ∧ r.total = k.nest.count) ∧
  (∀ (s : State) t (c : Ctx) (cyc : Nat) (d : Delayed) sel sec r, s.Canon → c ≠ .handler → d ∈ ((s.tile t).stream c).delayed →
    d.at_ ≤ cyc → d.op = .farQuery sel sec r →
    { r with value := ((s.tile t).far.query sel sec).setWidth 2048 } ∈ (((s.sampleStream t c cyc).tile t).stream c).inflight)

/-- Range maintenance and atomics: EXTENT_BOUND, ALIGN and ATOMIC_ROUTE in that order, then the operation entered at the commit (R279,
R280, R316 to R319). What that leaves: where a FENCE of the stream still waits for an access, the operation is kept back with those it waits
for; else a range goes out line by line, and an LDF or atomic of a CACHED extent goes to the slice of its line as a request that reads or
combines there, its answer due to the stream unless its task has ended (R169, R179, R182, R273). The new value of an AMO and of a CAS on a word of z bytes (R317). The TADDR of
EXTENT_BOUND and of the atomics' causes is s[A] (DEDUCED: log 46). -/
def Obligations.RangesAndAtomics : Prop :=
  ((∀ p a b sc s, exec (.wbr p a b sc) s = .next (s.guarded p (s.rangeOp 0 a b))) ∧
  (∀ p a b sc s, exec (.invr p a b sc) s = .next (s.guarded p (s.rangeOp 1 a b))) ∧
  (∀ p a b sc s, exec (.discr p a b sc) s = .next (s.guarded p (s.rangeOp 2 a b))) ∧
  (∀ p d a b f sc w s, exec (.amo p d a b f sc w) s = .next (s.guarded p
    (s.atomicOp false f d a b 0 sc w (tagOf [s.ts a, s.ts b] (opk 2 0x30))))) ∧
  (∀ p d a b c sc w s, exec (.cas p d a b c sc w) s = .next (s.guarded p
    (s.atomicOp true 0 d a b c sc w (tagOf [s.ts a, s.ts b, s.ts c] (opk 2 0x31))))) ∧
  (∀ (s : State) (kind : Nat) (a b : BitVec 6),
    let i := (s.rs a).toNat / 2 ^ 59
    let o := (s.rs a).toNat % 2 ^ 59
    let n := (s.rs b).toNat
    s.rangeOp kind a b =
      if ¬ ∃ x, s.extent s.cur.tile i = some x ∧ x.cls = 1 ∧ (n = 0 ∨ o + n ≤ x.len) ∧ (kind = 2 → x.w = true) ∧
          s.ownsPrivate s.cur.tile x = true then s.raiseAt 0x07 (s.rs a)
      else if o % 4 ≠ 0 ∨ n % 4 ≠ 0 then s.raiseAt 0x08 (s.rs a) else s.emit (.range kind (s.rs a) (s.rs b))) ∧
  (∀ (s : State) (cas : Bool) (op : BitVec 4) (d a b c : BitVec 6) (sc : BitVec 4) (w : BitVec 1) (tag : Tag),
    let i := (s.rs a).toNat / 2 ^ 59
    let o := (s.rs a).toNat % 2 ^ 59
    let z := if w = 1 then 8 else 4
    s.atomicOp cas op d a b c sc w tag = match s.extent s.cur.tile i with
      | none => s.raiseAt 0x07 (s.rs a)
      | some x =>
        if x.cls = 0 ∨ x.len < o + z ∨ x.r = false ∨ x.w = false ∨ s.ownsPrivate s.cur.tile x = false then s.raiseAt 0x07 (s.rs a)
        else if o % z ≠ 0 then s.raiseAt 0x08 (s.rs a)
        else if s.routeOk x sc.toNat = false then
          s.raise 0x17 (BitVec.ofNat 8 (x.cls.toNat * 64 + x.coh.toNat * 16 + sc.toNat)) (s.rs a)
        else ((s.emit (.atomic ⟨0, s.cur.cycle, s.cur.slot, .s d, 0, 0, tag, 0, 0⟩ cas op sc (w == 1) (s.rs a) (s.rs b)
          (s.rs c))).entryTag tag).mark)) ∧
  (∀ (s : State) t (c : Ctx) (b : Issued), s.Canon →
    let ws := ((s.tile t).stream c).fence.filter fun k => (s.outstanding t c).contains k
    let k := s.nextId
    let now := s.ptime.toNat
    let op : HoldKind → Option Result → W64 → Option Nat → Nat → BitVec 4 → HoldOp := fun kind r e pa left sc =>
      ⟨k, t, c, kind, r, e, pa, none, now, now, left, sc, none, none, []⟩
    let ask := fun (kind : HoldKind) (want : CKind) (home : Bool) (r : Result) (e : W64) (sc : BitVec 4) (v : State) => ∀ x pa,
      s.extent t (e.toNat / 2 ^ 59) = some x → x.cls = 1 → s.cachedPA t (e.toNat / 2 ^ 59) (e.toNat % 2 ^ 59) = some pa →
      v.ops = s.ops ++ [op kind (some r) e (some pa) 1 sc] ∧
      v.creqs = s.creqs ++ [⟨k + 1, dieOf t, pa, x.coh == 2, home, want, .stream t k, false, false⟩] ∧
      v.packets = s.packets ++
        [⟨k + 2, dieOf t, nodeOf t, 4, dieOf t, s.sliceOf (dieOf t) pa, now, .step (.cacheRequest (k + 1))⟩]
    (ws ≠ [] → ∀ e, (∃ r a, e = .ldf r a) ∨ (∃ r cas o sc w a x y, e = .atomic r cas o sc w a x y) ∨ (∃ n a l, e = .range n a l) →
      ((s.applyEffect t c b e).tile t).fenced = (s.tile t).fenced ++ [⟨k, c, e, now, ws⟩] ∧ (s.applyEffect t c b e).ops = s.ops) ∧
    (ws = [] → (s.tile t).ended = true → ∀ e, (∃ r a, e = .ldf r a) ∨ (∃ r cas o sc w a x y, e = .atomic r cas o sc w a x y) →
      ∀ o ∈ (s.applyEffect t c b e).ops, o.tile = t → o.result = none) ∧
    (ws = [] → (s.tile t).ended = false →
      (∀ r e, ask .ldf (.read 8) false r e 3 (s.applyEffect t c b (.ldf r e))) ∧
      (∀ r cas o sc w e x y, ask (.atomic cas o w x y) (.amo cas o w x y) (decide (3 ≤ sc.toNat)) r e sc
        (s.applyEffect t c b (.atomic r cas o sc w e x y))) ∧
      (∀ n e l, exec (.rangePerformed k) { s with
          nextId := k + 1, ops := s.ops ++ [op (.range n (s.rangeLines t e l.toNat)) none e none 0 3] } =
        .next (s.applyEffect t c b (.range n e l))))) ∧
  (∀ (old b c : W64) (wide : Bool), let n := if wide = true then 64 else 32
    let lo := fun (x : W64) => low64 (x.toNat % 2 ^ n)
    old.toNat < 2 ^ n →
    atomicNew false 0 wide old b c = low64 ((old.toNat + b.toNat) % 2 ^ n) ∧
    atomicNew false 2 wide old b c = low64 (if sext old.toNat n ≤ sext b.toNat n then old.toNat else b.toNat % 2 ^ n) ∧
    atomicNew false 3 wide old b c = low64 (if sext old.toNat n ≤ sext b.toNat n then b.toNat % 2 ^ n else old.toNat) ∧
    atomicNew false 4 wide old b c = low64 (min old.toNat (b.toNat % 2 ^ n)) ∧
    atomicNew false 5 wide old b c = low64 (max old.toNat (b.toNat % 2 ^ n)) ∧
    atomicNew false 6 wide old b c = lo b ∧ atomicNew false 7 wide old b c = lo (old &&& b) ∧
    atomicNew false 8 wide old b c = lo (old ||| b) ∧ atomicNew false 9 wide old b c = lo (old ^^^ b) ∧
    atomicNew true 0 wide old b c = (if old = lo c then lo b else old) ∧
    atomicNew false 1 false old b c = low64 (faddBits (BitVec.ofNat 32 old.toNat) (BitVec.ofNat 32 b.toNat)).toNat)

/-- The basin instructions: their checks in the order of R310 and the update each enters at its commit (R309 to R312); what that leaves: an
update for the end of the tick, a sample of the basin's word, or for BARRIVE its decrement with the accesses it comes after. The updates of a
tick are applied one by one, each to the whole basin and to no other byte (R305); one that meets an uncorrectable word changes nothing and raises UECC (R188). The updates of a basin, field by field: a decrement of an unarmed basin or one larger than its count is not applied; a decrement that leaves both counts at
zero, with no error, flips the phase in the same step; an expectation or an initialisation never flips (R304 to R307, R311). -/
def Obligations.BasinOperations : Prop :=
  ((∀ (s : State) (a : W64) (f : State → State), s.basinOp a f =
    if a.toNat / 2 ^ 22 ≠ 0 ∨ a.toNat % 16 ≠ 0 then s.raiseOpen 0x08
    else if a.toNat < 0x10000 ∧ s.cur.ctx ≠ .handler then s.raiseAt 0x19 a else f s) ∧
  (∀ p a n s, exec (.binit p a n) s = .next (s.guarded p
    (s.basinOp (s.rs a) fun s => (s.emit (.binit (s.rs a).toNat n)).mark))) ∧
  (∀ p a n s, exec (.brearm p a n) s = .next (s.guarded p
    (s.basinOp (s.rs a) fun s => (s.emit (.brearm (s.rs a).toNat n)).mark))) ∧
  (∀ p a b s, exec (.bexpect p a b) s = .next (s.guarded p
    (s.basinOp (s.rs a) fun s => (s.emit (.bexpect (s.rs a).toNat (s.rs b) s.cur.slot)).mark))) ∧
  (∀ p d a s, exec (.bread p d a) s = .next (s.guarded p
    (s.basinOp (s.rs a) fun s => let tag := tagOf [s.ts a] (opk 2 0x3B)
      ((s.emit (.bread (s.rs a).toNat ⟨s.cur.cycle + 4, s.cur.cycle, s.cur.slot, .s d, 0, 0, tag, 0, 0⟩)).entryTag tag).mark))) ∧
  (∀ p a sc n s, exec (.barrive p a sc n) s = .next (s.guarded p
    (if s.badRef s.cur.tile (s.rs a) false = true then s.raiseOpen 0x02 else (s.emit (.barrive (s.rs a) sc n)).mark)))) ∧
  (∀ (s : State) t (c : Ctx) (b : Issued), s.Canon →
    let x := s.tile t
    let y := fun e => (s.applyEffect t c b e).tile t
    (∀ a n, y (.binit a n) = { x with basinOps := x.basinOps ++ [(2, a, .init n.toNat)] }) ∧
    (∀ a n, y (.brearm a n) = { x with basinOps := x.basinOps ++ [(2, a, .rearm n.toNat)] }) ∧
    (∀ a n slot, y (.bexpect a n slot) = { x with basinOps := x.basinOps ++ [(2, a, .expect n.toNat)] }) ∧
    (∀ a r, y (.bread a r) = { x with breads := x.breads ++ [(c, a, r)] }) ∧
    (∀ a sc n, ((y (.barrive a sc n)).stream c).barr =
      (x.stream c).barr ++ [⟨a, n, if sc = 0 ∨ sc = 1 then [] else s.outstanding t c, c == .handler⟩])) ∧
  (∀ (x : Tile) o a u info ad, x.basinOps = [(o, a, u)] → Memory.wf x.spad = true → basinUpdate (readN x.spad a 16) u < 2 ^ 128 →
    let y := x.runBasins info ad
    y.basinOps = [] ∧
    (((∃ n, u = .init n) ∨ x.uecc a 16 = false) → readN y.spad a 16 = basinUpdate (readN x.spad a 16) u ∧
      ∀ i, i < a ∨ a + 16 ≤ i → SMap.get 0 y.spad i = SMap.get 0 x.spad i) ∧
    ((∀ n, u ≠ .init n) → x.uecc a 16 = true → y.spad = x.spad ∧
      y.pend = x.pend ++ [⟨0x09, 0, info, ((x.ueccIn a 16).map (BitVec.ofNat 64)).getD ad, true, false⟩])) ∧
  (∀ (x : Tile) (c : Ctx) a r, c ≠ .handler → x.breads = [(c, a, r)] → (x.sampleBasins.stream c).inflight =
    (x.stream c).inflight ++ [{ r with value := BitVec.ofNat 2048 (readN x.spad a 8) }]) ∧
  (∀ b : Nat,
    let ph := b % 16
    let ar := b / 2 ^ 8 % 2 ^ 24
    let se := b / 2 ^ 32 % 2 ^ 32
    let lf := b / 2 ^ 64 % 2 ^ 16
    let it := b / 2 ^ 80 % 2 ^ 24
    let bad := b.testBit 4 || b.testBit 5
    let ng := b.testBit 6
    let armed := b.testBit 7
    let mk := fun p o e g r v s l i => basinOf p o e g r v s l i + b / 2 ^ 104 * 2 ^ 104
    b = mk ph (b.testBit 4) (b.testBit 5) ng armed ar se lf it ∧
    (∀ n, 0 < n → armed = false → basinUpdate b (.arrive n) = mk ph (b.testBit 4) true ng armed ar se lf it ∧
      basinUpdate b (.expect n) = mk ph (b.testBit 4) true ng armed ar se lf it) ∧
    (∀ t, armed = false → basinUpdate b (.sector t) = mk ph (b.testBit 4) true ng armed ar se lf it) ∧
    basinUpdate b (.arrive 0) = b ∧ basinUpdate b (.expect 0) = b ∧
    (∀ n, armed = true → ar < n → basinUpdate b (.arrive n) = mk ph (b.testBit 4) true true armed ar se lf it) ∧
    (∀ t, armed = true → se = 0 → basinUpdate b (.sector t) = mk ph (b.testBit 4) true true armed ar se lf it) ∧
    (∀ n, armed = true → 0 < n → n ≤ ar → basinUpdate b (.arrive n) =
      if ar = n ∧ se = 0 ∧ bad = false then mk ((ph + 1) % 16) false false ng true it 0 0 it
      else mk ph (b.testBit 4) (b.testBit 5) ng true (ar - n) se lf it) ∧
    (∀ t, armed = true → 0 < se → basinUpdate b (.sector t) =
      if se = 1 ∧ ar = 0 ∧ bad = false then mk ((ph + 1) % 16) false false ng true it 0 0 it
      else mk ph (b.testBit 4) (b.testBit 5) ng true ar (se - 1) ((lf + t.toNat) % 2 ^ 16) it) ∧
    (∀ n, armed = true → se + n < 2 ^ 32 → basinUpdate b (.expect n) = mk ph (b.testBit 4) (b.testBit 5) ng true ar (se + n) lf it) ∧
    (∀ n, basinUpdate b (.init n) = basinOf 0 false false false true n 0 0 n ∧
      basinUpdate b (.rearm n) = basinOf ph false false false true n 0 0 n) ∧
    basinUpdate b .err = mk ph (b.testBit 4) true ng armed ar se lf it ∧
    basinUpdate b .ovf = mk ph true (b.testBit 5) ng armed ar se lf it)

/-! ## Vector instructions -/

/-- The frame of a V instruction: with no active lane nothing; otherwise one result on the active lanes, each lane its element function,
the flags the OR of the active lanes', the tag of R149 (R205, R206). -/
def Obligations.VectorFrame : Prop :=
  ∀ (s : State) (lat op : Nat) (q : BitVec 3),
    (s.rq q = 0 → (∀ d tags f, s.vmap d op lat q tags f = s) ∧ ∀ d f, s.vmask d lat q f = s) ∧
    (s.rq q ≠ 0 →
      (∀ d tags f, ∃ r fl, s.vmap d op lat q tags f = s.resultV d lat (s.rq q) r (tagOf tags (opk 3 op)) fl 0 ∧
        (∀ l, l < 64 → (s.rq q).getLsbD l = true → lane r l = (f l).1) ∧
        ∀ i, fl.getLsbD i = true ↔ ∃ l, l < 64 ∧ (s.rq q).getLsbD l = true ∧ (f l).2.getLsbD i = true) ∧
      (∀ d f, ∃ r fl, s.vmask d lat q f = s.resultQ d lat (s.rq q) r fl ∧
        (∀ l, l < 64 → (s.rq q).getLsbD l = true → r.getLsbD l = (f l).1) ∧
        ∀ i, fl.getLsbD i = true ↔ ∃ l, l < 64 ∧ (s.rq q).getLsbD l = true ∧ (f l).2.getLsbD i = true)) ∧
    (∀ b l, s.vb b l = if b = 63 then s.cur.bcs.setWidth 32 else lane (s.rv b) l) ∧
    (∀ b, s.tvb b = if b = 63 then s.cur.bctag else s.tv b) ∧ s.rq 0 = BitVec.allOnes 64

/-- The I32 group, each element in the integer arithmetic of R9 and with no flag (R209). A condition
of VCMP that decode refuses has here the effect of the last one named, which no run meets (DEDUCED: log 93). -/
def Obligations.VectorInteger : Prop :=
  VectorAB .vadd 0x01 2 (fun a b => wrap32 (a.toNat + b.toNat)) ∧ VectorAB .vsub 0x02 2 (fun a b => wrap32 (a.toInt - b.toInt)) ∧
  VectorAB .vmul 0x03 3 (fun a b => wrap32 (a.toNat * b.toNat)) ∧
  VectorAB .vand 0x04 2 (fun a b => a &&& b) ∧ VectorAB .vor 0x05 2 (fun a b => a ||| b) ∧ VectorAB .vxor 0x06 2 (fun a b => a ^^^ b) ∧
  VectorAB .vshl 0x07 2 (fun a b => wrap32 (a.toNat * 2 ^ (b.toNat % 32))) ∧
  VectorAB .vshr 0x08 2 (fun a b => wrap32 ((a.toNat / 2 ^ (b.toNat % 32) : Nat))) ∧
  VectorAB .vsra 0x09 2 (fun a b => wrap32 (a.toInt / 2 ^ (b.toNat % 32))) ∧
  VectorAB .vmin 0x0A 2 (fun a b => wrap32 (min a.toInt b.toInt)) ∧ VectorAB .vmax 0x0B 2 (fun a b => wrap32 (max a.toInt b.toInt)) ∧
  VectorAB .vminu 0x0C 2 (fun a b => wrap32 (min a.toNat b.toNat : Nat)) ∧
  VectorAB .vmaxu 0x0D 2 (fun a b => wrap32 (max a.toNat b.toNat : Nat)) ∧
  VectorAB .vadds 0x0F 2 (fun a b => wrap32 (max (-2147483648) (min 2147483647 (a.toInt + b.toInt)))) ∧
  VectorAB .vmulh 0x3F 3 (fun a b => wrap32 (a.toInt * b.toInt / 2 ^ 32)) ∧
  VectorFlagsA .vclz 0x3D 2 (fun a => (wrap32 (if a = 0 then 32 else 31 - Nat.log2 a.toNat : Nat), 0)) ∧
  VectorFlagsA .vpopc 0x3E 2 (fun a => (wrap32 ((List.range 32).filter fun i => a.getLsbD i).length, 0)) ∧
  (∀ p q d a b f s, exec (.vcmp p q d a b f) s = .next (s.guarded p (s.vmask d 2 q fun n =>
    let x := lane (s.rv a) n
    let y := s.vb b n
    (match f with
      | 0 => decide (x.toNat = y.toNat)
      | 1 => decide (x.toNat ≠ y.toNat)
      | 2 => decide (x.toInt < y.toInt)
      | 3 => decide (x.toNat < y.toNat)
      | 4 => decide (y.toInt ≤ x.toInt)
      | _ => decide (y.toNat ≤ x.toNat), 0))))

/-- The F32 and BF16 lanes: the exact result of each rounded once under RM, and the instructions that return no rounded result (R210 to
R213, R217, R218). The flags of a number above the largest finite one that rounds back to it, and UF of VEXP2, are the model's reading
(DEDUCED: log 127, 128). -/
def Obligations.VectorFloat : Prop :=
  VectorRoundAB .vfadd 0x10 4 (fun m a b => addIEEE .f32 m (unF32 a) (unF32 b)) ∧
  VectorRoundAB .vfsub 0x11 4 (fun m a b => addIEEE .f32 m (unF32 a) (unF32 b).neg) ∧
  VectorRoundAB .vfmul 0x12 4 (fun m a b => mulIEEE .f32 m (unF32 a) (unF32 b)) ∧
  VectorRoundABC .vfma 0x13 4 (fun m a b c => fmaIEEE .f32 m (unF32 a) (unF32 b) (unF32 c)) ∧
  VectorRoundABC .vfnma 0x14 4 (fun m a b c => fmaIEEE .f32 m (unF32 a).neg (unF32 b) (unF32 c)) ∧
  VectorFlagsAB .vfmin 0x15 4 (minmaxF32 false) ∧ VectorFlagsAB .vfmax 0x16 4 (minmaxF32 true) ∧
  (∀ p q d a b f s, exec (.vfcmp p q d a b f) s =
    .next (s.guarded p (s.vmask d 4 q fun n => condF32 f (lane (s.rv a) n) (s.vb b n)))) ∧
  VectorFlagsA .vfabs 0x18 4 (fun a => (if (unF32 a).isNaN = true then 0x7FC00000 else a &&& 0x7FFFFFFF, 0)) ∧
  VectorFlagsA .vfneg 0x19 4 (fun a => (if (unF32 a).isNaN = true then 0x7FC00000 else a ^^^ 0x80000000, 0)) ∧
  VectorRoundAB .vbadd 0x1A 4 (fun m a b => addIEEE .bf16 m (unBF16 (a.setWidth 16)) (unBF16 (b.setWidth 16))) ∧
  VectorRoundAB .vbmul 0x1B 4 (fun m a b => mulIEEE .bf16 m (unBF16 (a.setWidth 16)) (unBF16 (b.setWidth 16))) ∧
  VectorRoundABC .vbfma 0x1C 4 (fun m a b c =>
    fmaIEEE .bf16 m (unBF16 (a.setWidth 16)) (unBF16 (b.setWidth 16)) (unBF16 (c.setWidth 16))) ∧
  VectorRoundA .vfrnd 0x1D 4 rndF32 ∧ VectorRoundA .vexp2 0x29 5 exp2F32 ∧ VectorRoundA .vlog2 0x2A 5 log2F32

/-- A magnitude rounded to a multiple of 2^q: exact when it is one; otherwise toward zero under RZ, downward under RDN, to the nearest
with ties to even under RNE, and under SR up where the draw is below the remainder's share; inexact says whether it changed (R52, R210). -/
def Obligations.Rounding : Prop :=
  ∀ (mode : Mode) (neg : Bool) (m : Nat) (e q : Int),
    let r := roundMag mode neg m e q
    (q ≤ e → r = (m * 2 ^ (e - q).toNat, false)) ∧
    (e < q → let d := 2 ^ (q - e).toNat
      r.2 = decide (m % d ≠ 0) ∧ (r.1 = m / d ∨ (r.1 = m / d + 1 ∧ m % d ≠ 0)) ∧
      (mode = .rz → r.1 = m / d) ∧
      (mode = .rdn → neg = false → r.1 = m / d) ∧ (mode = .rdn → neg = true → m ≤ r.1 * d) ∧
      (mode = .rne → 2 * r.1 * d ≤ 2 * m + d ∧ 2 * m ≤ 2 * r.1 * d + d ∧
        (2 * r.1 * d = 2 * m + d ∨ 2 * m = 2 * r.1 * d + d → r.1 % 2 = 0)) ∧
      (∀ w, mode = .sr w → (r.1 = m / d + 1 ↔ w * d < m % d * 65536)))

/-- The log-domain lanes: integer arithmetic on the L fields, saturated with LSAT_HI and LSAT_LO, zero and NaR apart (R214). -/
def Obligations.VectorLog : Prop :=
  let low := fun (x : BitVec 32) => (x.setWidth 16 : BitVec 16)
  let z := fun (x : BitVec 32) => low x = 0x4000
  let n := fun (x : BitVec 32) => low x = 0xC000
  let L := fun (x : BitVec 32) => ((low x).setWidth 15).toInt
  let sg := fun (x : BitVec 32) => (low x).getLsbD 15
  let pack : Bool → Int → BitVec 32 × VFl := fun s l =>
    if 16383 < l then (if s then 0xBFFF else 0x3FFF, 0x20)
    else if l < -16383 then (0x4000, 0x40)
    else (BitVec.ofNat 32 ((if s then 0x8000 else 0) + (l % 32768).toNat), 0)
  VectorFlagsAB .vlmul 0x20 2 (fun a b =>
    if n a ∨ n b then (0xC000, 0) else if z a ∨ z b then (0x4000, 0) else pack (sg a ^^ sg b) (L a + L b)) ∧
  VectorFlagsAB .vldiv 0x21 2 (fun a b =>
    if n a ∨ n b then (0xC000, 0) else if z b then (0xC000, if z a then 0x01 else 0x02)
    else if z a then (0x4000, 0) else pack (sg a ^^ sg b) (L a - L b)) ∧
  VectorFlagsA .vlsqrt 0x22 2 (fun a =>
    if n a then (0xC000, 0) else if z a then (0x4000, 0) else if sg a = true then (0xC000, 0x01)
    else pack false (if L a % 2 = 0 ∨ L a % 4 = 1 then L a / 2 else L a / 2 + 1)) ∧
  VectorFlagsA .vlinv 0x23 2 (fun a =>
    if n a then (0xC000, 0) else if z a then (0xC000, 0x02) else pack (sg a) (-L a)) ∧
  (∀ a b, ¬ n a → ¬ n b → ¬ z a → ¬ z b → -16383 ≤ L a + L b → L a + L b ≤ 16383 →
    acProduct (low a) (low b) = (rne30 (flValue (low (pack (sg a ^^ sg b) (L a + L b)).1))).1)

/-- Conversion, the lane operations and the reduction tree (R215, R216, R219, R220). The reduction tree on 64 lanes: level by level the
left operand first; for integer addition it is the sum in 32 bits (R220). The flags of a number above the largest
finite one that rounds back to it are the model's reading (DEDUCED: log 127). -/
def Obligations.VectorLanes : Prop :=
  ((∀ p q d a rm fmt tgt c s, exec (.vcvt p q d a rm fmt tgt c) s = .next (s.guarded p (s.vmap d 0x28 3 q [s.tv a] fun l =>
    convert fmt tgt c (if rm = 3 then (if s.cur.ctx = .primary then .sr (draw s.cur.word s.cur.slot l) else .rne)
      else Mode.ofRM rm 0) (lane (s.rv a) l)))) ∧
  (∀ p q d b s, exec (.vmov p q d b) s = .next (s.guarded p (s.vmap d 0x30 2 q [s.tvb b] fun l => (s.vb b l, 0)))) ∧
  (∀ p q d a b c s, exec (.vsel p q d a b c) s = .next (s.guarded p (s.vmap d 0x31 2 q [s.tv a, s.tvb b, 0] fun l =>
    (if (s.rq c).getLsbD l = true then lane (s.rv a) l else s.vb b l, 0)))) ∧
  (∀ p q d a b s, exec (.vperm p q d a b) s = .next (s.guarded p (s.vmap d 0x32 3 q [s.tv a, s.tvb b] fun l =>
    (lane (s.rv a) ((s.vb b l).toNat % 64), 0)))) ∧
  (∀ p q d a n s, exec (.vrot p q d a n) s = .next (s.guarded p (s.vmap d 0x33 3 q [s.tv a, immTag] fun l =>
    (lane (s.rv a) ((l + n.toNat) % 64), 0)))) ∧
  (∀ p d a n s, exec (.vext p d a n) s = .next (s.guarded p (s.resultS d 3 (low64 (lane (s.rv a) n.toNat).toNat)
    (tagOf [s.tv a, immTag] (opk 3 0x35))))) ∧
  (∀ p d b n s, exec (.vins p d b n) s = .next (s.guarded p (s.resultV d 2 (BitVec.twoPow 64 n.toNat) (ofLanes fun _ => s.vb b 0)
    (tagOf [s.tv d, s.tvb b, immTag] (opk 3 0x36)) 0 0))) ∧
  (∀ p q d s, exec (.viota p q d) s = .next (s.guarded p (s.vmap d 0x37 2 q [] fun l => (BitVec.ofNat 32 l, 0)))) ∧
  (∀ p d a b s, exec (.vpack p d a b) s = .next (s.guarded p (s.resultV d 3 (BitVec.allOnes 64)
    (ofHalves fun j => if j < 64 then (lane (s.rv a) j).setWidth 16 else (s.vb b (j - 64)).setWidth 16)
    (tagOf [s.tv a, s.tvb b] (opk 3 0x38)) 0 0))) ∧
  (∀ p q d a h s, exec (.vunpk p q d a h) s = .next (s.guarded p (s.vmap d 0x39 3 q [s.tv a, immTag] fun l =>
    ((half (s.rv a) (64 * h.toNat + l)).setWidth 32, 0)))) ∧
  (∀ p q d a rm fmt f s, exec (.vred p q d a rm fmt f) s = .next (s.guarded p
    (let xs := (List.range 64).map fun l => if (s.rq q).getLsbD l = true then lane (s.rv a) l else redIdentity (fmt == 1) f
     let r := redTree (redOp (fmt == 1) f (Mode.ofRM rm 0)) 6 (xs, 0)
     s.resultV d 6 (BitVec.allOnes 64) (ofLanes fun l => if l = 0 then r.1.headD 0 else 0) (tagOf [s.tv a] (opk 3 0x34)) r.2 0)))) ∧
  ((∀ (op : BitVec 32 → BitVec 32 → BitVec 32 × VFl) (xs : List (BitVec 32)) (i : Nat), 2 * i + 1 < xs.length →
    (redLevel op xs).1[i]? = some (op (xs.getD (2 * i) 0) (xs.getD (2 * i + 1) 0)).1) ∧
  (∀ (m : Mode) (xs : List (BitVec 32)), xs.length = 64 →
    (redTree (redOp false 0 m) 6 (xs, 0)).1 = [BitVec.ofNat 32 (xs.map BitVec.toNat).sum] ∧ (redTree (redOp false 0 m) 6 (xs, 0)).2 = 0))

/-- QLOG, QSET and QGET; a write to q0 is discarded when it lands (R103, R221). A code of QLOG that decode refuses has here
the effect of MOV, which no run meets (DEDUCED: log 93). -/
def Obligations.MaskInstructions : Prop :=
  (∀ p d a b f s, exec (.qlog p d a b f) s = .next (s.guarded p (s.resultQ d 2 (BitVec.allOnes 64)
    (match f with
      | 0 => s.rq a &&& s.rq b
      | 1 => s.rq a ||| s.rq b
      | 2 => s.rq a ^^^ s.rq b
      | 3 => s.rq a &&& ~~~ s.rq b
      | 4 => ~~~ s.rq a
      | _ => s.rq a) 0))) ∧
  (∀ p d s, exec (.qset p d) s = .next (s.guarded p (s.resultQ d 2 (BitVec.allOnes 64) s.cur.bcs 0))) ∧
  (∀ p d a s, exec (.qget p d a) s = .next (s.guarded p (s.resultS d 3 (s.rq a) (tagOf [0] (opk 3 0x3C)))))

/-! ## The matrix engine and the accumulator port -/

/-- The M instructions: the alignment of their base and stride, and the command each enters, with its start cycle k + 1 + DELAY, its
bundle's gate and the sources read at issue (R226, R232 to R239). What an M command does on its start cycle: MSWAP exchanges the planes,
MSCL loads the row scales, a load takes the shadow plane and sets its mode, a pass takes the active plane's mode; a busy resource is
TIMING_LATE (R226, R227, R232, R235 to R239). -/
def Obligations.MatrixCommands : Prop :=
  (let cmd := fun (s : State) (op : Nat) (dl : BitVec 20) (base row : Nat) (stride : Int) (sc : VReg) (n wf acc : Nat) =>
    (s.emit (.mcmd { op := op, start := s.cur.cycle + 1 + dl.toNat, pc := s.cur.pc, gate := s.cur.gate, base := base, row0 := row,
                     stride := stride, scales := sc, rows := n, wf := wf, acc := acc,
                     cb := if s.cur.bcv = true then ((s.cur.bcs.setWidth 8 : BitVec 8)).toInt else 0 } s.cur.slot)).mark
  let pass := fun (s : State) (op : Nat) (acc : BitVec 3) (dl : BitVec 20) (a b : BitVec 6) (n : BitVec 7) (wf : BitVec 4) =>
    let al : Nat := if wf = 3 then 256 else 128
    if (s.rs a).toNat % 2 ^ 22 % al = 0 ∧ (s.rs b).toInt % (al : Int) = 0 then
      cmd s op dl ((s.rs a).toNat % 2 ^ 22) ((s.rs a).toNat / 2 ^ 24 % 128) (s.rs b).toInt 0 (n.toNat + 1) wf.toNat acc.toNat
    else s.raiseOpen 0x08
  (∀ p dl a b v n wf s, exec (.mldw p dl a b v n wf) s = .next (s.guarded p
    (let al : Nat := if wf = 5 then 64 else 256
     if (s.rs a).toNat % 2 ^ 22 % al = 0 ∧ (s.rs b).toInt % (al : Int) = 0 then
       cmd s 1 dl ((s.rs a).toNat % 2 ^ 22) 0 (s.rs b).toInt (s.rv v) (n.toNat + 1) wf.toNat 0
     else s.raiseOpen 0x08))) ∧
  (∀ p dl s, exec (.mswap p dl) s = .next (s.guarded p (cmd s 2 dl 0 0 0 0 0 0 0))) ∧
  (∀ p acc dl a b n wf s, exec (.mstr p acc dl a b n wf) s = .next (s.guarded p (pass s 3 acc dl a b n wf))) ∧
  (∀ p acc dl a b n wf s, exec (.mstrz p acc dl a b n wf) s = .next (s.guarded p (pass s 4 acc dl a b n wf))) ∧
  (∀ p dl a s, exec (.mcbt p dl a) s = .next (s.guarded p
    (if (s.rs a).toNat % 2 ^ 22 % 256 = 0 then cmd s 5 dl ((s.rs a).toNat % 2 ^ 22) 0 256 0 8 0 0 else s.raiseOpen 0x08))) ∧
  (∀ p dl v s, exec (.mscl p dl v) s = .next (s.guarded p (cmd s 6 dl 0 0 0 (s.rv v) 0 0 0)))) ∧
  (∀ (s : State) (t : Nat) (m : MCmd), s.Canon →
    let x := (s.tile t).mx
    let y := ((s.runMatrix t m).tile t).mx
    (m.op = 2 → x.array = none → y = { x with act := !x.act }) ∧
    (m.op = 6 → ∀ i, i < 128 → y.rscAt i = (byteOf m.scales i).toInt) ∧
    (m.op = 1 → x.loader = none → (∃ l, y.loader = some l ∧ l.row = 0 ∧ l.base = m.base ∧ l.rows = m.rows ∧
        l.plane = !x.act ∧ l.cb = false) ∧ (y.plane (!x.act)).pair = decide (m.wf ≠ 3) ∧ y.plane x.act = x.plane x.act ∧
        y.acc = x.acc) ∧
    (m.op = 5 → x.loader = none → ∃ l, y.loader = some l ∧ l.cb = true ∧ l.row = 0 ∧ l.base = m.base ∧ l.rows = 8) ∧
    (m.op = 3 ∨ m.op = 4 → x.array = none → ((x.plane x.act).pair = true → m.wf = 4 → m.base % 256 = 0 ∧ m.stride % 256 = 0) →
      ∃ a, y.array = some a ∧ a.start = m.start ∧ a.base = m.base ∧ a.row0 = m.row0 ∧ a.acc = m.acc ∧ a.rows = m.rows ∧
        a.pair = (x.plane x.act).pair ∧ a.zero = decide (m.op = 4)) ∧
    ((m.op = 1 ∨ m.op = 5) → x.loader ≠ none → y = x.stop ∧
      ∃ k, ((s.runMatrix t m).tile t).pend = (s.tile t).pend ++ [k] ∧ k.code = 0x0E) ∧
    ((m.op = 3 ∨ m.op = 4) → x.array ≠ none → y = x.stop ∧
      ∃ k, ((s.runMatrix t m).tile t).pend = (s.tile t).pend ++ [k] ∧ k.code = 0x0E))

/-- A pass row: column by column the sum of its products in ascending k, each added and rounded once in SINGLE mode, in PAIR mode two by
two; MSTRZ starts from zero. The first product joins the sum before the rest (R50, R228, R237). A pass row enters with its widened elements
and the active plane, and writes its bank's row 136 cycles on; a load's row replaces that row of the plane it took, entry by entry as
widened, and a codebook load's line its 32 rows of MAG; the last row frees the engine part (R226, R228, R235, R237, R238). -/
def Obligations.PassRows : Prop :=
  (∀ r old j, j < 128 → (PassRow.result r old).1[j]? = some (j,
    (accumulate r.x ((List.range r.x.length).map fun k => SMap.get flZero (SMap.get [] r.plane j) k) r.pair
      (if r.zero = true then 0 else SMap.get 0 old j, 0)).1)) ∧
  (∀ (r : PassRow) old, (PassRow.result r old).1.length = 128) ∧
  (∀ a m, accumulate [] [] false (a, m) = (a, m) ∧ accumulate [] [] true (a, m) = (a, m)) ∧
  (∀ x xs w ws a m, accumulate (x :: xs) (w :: ws) false (a, m) =
    accumulate xs ws false ((acAdd a (acProduct x w)).1, m ||| (acAdd a (acProduct x w)).2)) ∧
  (∀ x y xs w v ws a m, accumulate (x :: y :: xs) (w :: v :: ws) true (a, m) =
    (let t := acAdd (acProduct x w) (acProduct y v)
     accumulate xs ws true ((acAdd a t.1).1, m ||| t.2 ||| (acAdd a t.1).2))) ∧
  (∀ (s : State) t cyc (a : PassJob) i, s.Canon → (s.tile t).mx.array = some a →
    let x := s.tile t
    let y := ((s.enterRow t cyc a i).tile t).mx
    let at_ := ((a.base : Int) + i * a.stride).toNat
    let sc := a.cb + x.mx.rscAt i
    ∃ r, y.rows = x.mx.rows ++ [r] ∧ r.due = cyc + 136 ∧ r.acc = a.acc ∧ r.row = (a.row0 + i) % 128 ∧ r.zero = a.zero ∧ r.pair = a.pair ∧
      r.plane = (x.mx.plane x.mx.act).rows ∧ r.x = (List.range (if a.pair = true then 256 else 128)).map (fun k =>
        (if a.wf = 3 then scale16 (BitVec.ofNat 16 (readN x.spad (at_ + 2 * k) 2)) sc
         else widen8 (BitVec.ofNat 8 (readN x.spad (at_ + k) 1)) sc).1) ∧
      y.array = (if a.rows ≤ i + 1 then none else some a)) ∧
  (∀ (s : State) t us (r : PassRow), s.Canon → SMap.wf [] (s.tile t).mx.acc = true →
    SMap.wf 0 ((s.tile t).mx.row r.acc r.row) = true →
    clashes us (accUse true 1 r.acc r.row 0) = false → r.zero = true ∨ (clashes us (accUse false 1 r.acc r.row 0) = false ∧
      (s.tile t).mx.ueccRow r.acc r.row = false) →
    let old := (s.tile t).mx.row r.acc r.row
    let y := (s.rowTick t us r).tile t
    (∀ j, j < 128 → some (j, SMap.get 0 (y.mx.row r.acc r.row) j) = (r.result old).1[j]?) ∧ y.mflags = (s.tile t).mflags ||| (r.result old).2 ∧
    (∀ b n, b * 128 + n ≠ r.acc * 128 + r.row → y.mx.row b n = (s.tile t).mx.row b n)) ∧
  (∀ (s : State) t (l : LoadJob) j, s.Canon → (s.tile t).mx.loader = some l →
    let x := s.tile t
    let y := ((s.loadRow t l j).tile t).mx
    let a := ((l.base : Int) + j * l.stride).toNat
    y.acc = x.mx.acc ∧ y.loader = (if l.rows ≤ j + 1 then none else some { l with row := j + 1 }) ∧
    (l.cb = false → SMap.wf [] (x.mx.plane l.plane).rows = true →
      (∀ k, k < 256 → SMap.get flZero (SMap.get [] (y.plane l.plane).rows j) k =
        (loadEntry x.mx x.spad l.wf a k (byteOf l.scales j).toInt).1) ∧
      (∀ n, n ≠ j → SMap.get [] (y.plane l.plane).rows n = SMap.get [] (x.mx.plane l.plane).rows n) ∧
      y.plane (!l.plane) = x.mx.plane (!l.plane) ∧ y.mag = x.mx.mag) ∧
    (l.cb = true → (x.mx.mag.map Prod.fst).Pairwise (· < ·) →
      (∀ i, i < 256 → y.magAt (32 * j + i / 8) (i % 8) = BitVec.ofNat 7 (readN x.spad (a + i) 1)) ∧ y.planes = x.mx.planes)) ∧
  (∀ x m r k c, loadEntry x m 3 r k c = (if k < 128 then scale16 (BitVec.ofNat 16 (readN m (r + 2 * k) 2)) c else (flZero, 0))) ∧
  (∀ x m r k c, loadEntry x m 4 r k c = widen8 (BitVec.ofNat 8 (readN m (r + k) 1)) c) ∧
  (∀ x m r k c, let w := readN m (r + 2 * (k / 8)) 2
    loadEntry x m 5 r k c = widen8 (BitVec.ofNat 8 (w / 2 ^ (k % 8) % 2 * 128 + (x.magAt (w / 256) (k % 8)).toNat)) c)

/-- AC40's sums and products: NaR when an input is NaR, with ACC_NAR for a sum; zero for a zero factor; the exact sum rounded once, with
ACC_OVF where it saturates; the product of two finite values is their signs' exclusive or and the table value of the sum of their L fields
(R47, R49 to R51). The entry 102 of the table is the model's reading (DEDUCED: log 43). -/
def Obligations.AccumulatorArithmetic : Prop :=
  (∀ a b, acIsNaR a = true ∨ acIsNaR b = true → acAdd a b = (0x7FFFFFFFFF, 8)) ∧
  (∀ a b, acIsNaR a = false → acIsNaR b = false →
    acAdd a b = ((rne30 ((acValue a).add (acValue b))).1, if (rne30 ((acValue a).add (acValue b))).2 = true then 4 else 0)) ∧
  (∀ a b, a = 0xC000 ∨ b = 0xC000 → acProduct a b = 0x7FFFFFFFFF) ∧
  (∀ a b, a ≠ 0xC000 → b ≠ 0xC000 → a = 0x4000 ∨ b = 0x4000 → acProduct a b = 0) ∧
  (∀ a b, a ≠ 0xC000 → b ≠ 0xC000 → a ≠ 0x4000 → b ≠ 0x4000 → let p := flL a + flL b
    acProduct a b = (rne30 ⟨(if a.getLsbD 15 ≠ b.getLsbD 15 then -1 else 1) * (tTable (p % 256).toNat : Int), p / 256 - 15⟩).1) ∧
  acAdd 0 0 = (0, 0)

/-- The K instructions: the row they name, the converted elements of a read on k + 6 and the columns of a write on k + 3; a row with an
uncorrectable element is UECC; a write that meets no clash replaces its columns, and their bank's other rows and columns stay (R194, R231,
R240, R241). -/
def Obligations.AccumulatorPort : Prop :=
  let row := fun (s : State) (r : BitVec 7) (ae : BitVec 1) (a : BitVec 6) =>
    if ae = 1 then (r.toNat + (s.rs a).toNat % 128) % 128 else r.toNat
  let tag := fun (s : State) (ae : BitVec 1) (a : BitVec 6) (op : Nat) => rotl16 (if ae = 1 then s.ts a else 0) 3 ^^^ opk 5 op
  let mode := fun (s : State) (rm : BitVec 2) (j : Nat) => Mode.ofRM rm (draw s.cur.word 7 j)
  let put := fun (s : State) (acc : BitVec 3) (r : Nat) (cs : List (Nat × BitVec 40)) (fl : MFl) =>
    (s.emit (.delay ⟨s.cur.cycle + 3, s.cur.slot, .accRow acc.toNat r cs fl⟩)).mark
  (∀ p acc r h v ae a rm s, exec (.ard p acc r h v ae a rm) s = .next (s.guarded p (s.kread acc (row s r ae a) fun u m =>
    let f := fun l => toIEEE .f32 (mode u rm l) (acLin (SMap.get 0 m (64 * h.toNat + l)))
    u.resultV v 6 (BitVec.allOnes 64) (ofLanes fun l => (f l).1) (tag u ae a 1) (flagsUpTo 64 fun l => (f l).2) 0))) ∧
  (∀ p acc r v ae a rm s, exec (.ardb p acc r v ae a rm) s = .next (s.guarded p (s.kread acc (row s r ae a) fun u m =>
    let f := fun j => toIEEE .bf16 (mode u rm j) (acLin (SMap.get 0 m j))
    u.resultV v 6 (BitVec.allOnes 64) (ofHalves fun j => (f j).1.setWidth 16) (tag u ae a 2) (flagsUpTo 128 fun j => (f j).2) 0))) ∧
  (∀ p acc r v ae a rm s, exec (.ardl p acc r v ae a rm) s = .next (s.guarded p (s.kread acc (row s r ae a) fun u m =>
    let f := fun j => toFL16 (mode u rm j) (acLin (SMap.get 0 m j))
    u.resultV v 6 (BitVec.allOnes 64) (ofHalves fun j => (f j).1) (tag u ae a 3) 0 (mflOfV (flagsUpTo 128 fun j => (f j).2))))) ∧
  (∀ p acc r v ae a rm c s, exec (.ardl8 p acc r v ae a rm c) s = .next (s.guarded p (s.kread acc (row s r ae a) fun u m =>
    let f := fun j => toFL8 (mode u rm j) c.toInt (acLin (SMap.get 0 m j))
    u.resultV v 6 (BitVec.allOnes 64) (BitVec.ofNat 2048 ((List.range 128).foldr (fun j n => (f j).1.toNat + 256 * n) 0))
      (tag u ae a 4) 0 (mflOfV (flagsUpTo 128 fun j => (f j).2))))) ∧
  (∀ p acc r h v ae a s, exec (.awr p acc r h v ae a) s = .next (s.guarded p
    (let c := cellsOf 64 (64 * h.toNat) fun l => ac40 (unF32 (lane (s.rv v) l))
     put s acc (row s r ae a) c.1 c.2))) ∧
  (∀ p acc r v ae a s, exec (.awrb p acc r v ae a) s = .next (s.guarded p
    (let c := cellsOf 128 0 fun j => ac40 (unBF16 (half (s.rv v) j))
     put s acc (row s r ae a) c.1 c.2))) ∧
  (∀ p acc r ae a s, exec (.aclr p acc r ae a) s = .next (s.guarded p
    (put s acc (row s r ae a) ((List.range 128).map fun j => (j, 0)) 0))) ∧
  (∀ p acc r v ae a s, exec (.aadd p acc r v ae a) s = .next (s.guarded p (s.kread acc (row s r ae a) fun u m =>
    let c := cellsOf 128 0 fun j =>
      let e := ac40 (unBF16 (half (u.rv v) j))
      ((acAdd (SMap.get 0 m j) e.1).1, e.2 ||| (acAdd (SMap.get 0 m j) e.1).2)
    put u acc (row s r ae a) c.1 c.2))) ∧
  (∀ (s : State) (acc : BitVec 3) r f, let u := s.updTile s.cur.tile fun y =>
      { y with uses := y.uses ++ [⟨true, acc.toNat, false, r, 7, slotBit s.cur.slot, acc.toNat * 256 + r⟩] }
    (s.ctile.mx.ueccRow acc.toNat r = true → s.kread acc r f = u.raiseAt 0x09 (BitVec.ofNat 64 (2 ^ 63 + acc.toNat * 256 + r))) ∧
    (s.ctile.mx.ueccRow acc.toNat r = false → s.kread acc r f = f u (s.ctile.mx.row acc.toNat r))) ∧
  (∀ (x : Tile) k sl bank r cells mf, SMap.wf [] x.mx.acc = true → SMap.wf 0 (x.mx.row bank r) = true →
    clashes x.uses (accUse true 7 bank r 0) = false →
    let y := x.accWrite ⟨k, sl, .accRow bank r cells mf⟩
    y.mflags = x.mflags ||| mf ∧ (∀ b n, b * 128 + n ≠ bank * 128 + r → y.mx.row b n = x.mx.row b n) ∧
    ∀ j, SMap.get 0 (y.mx.row bank r) j = ((cells.reverse.find? fun c => c.1 == j).map Prod.snd).getD (SMap.get 0 (x.mx.row bank r) j))

/-! ## The channel sequencers -/

/-- A channel command of the running program: in a cached window DRAM_BUDGET, on a broken constraint DRAM_TIMING with its lowest code,
both stopping the program, with the trap on the node's lowest live tile; otherwise its own effect on the banks and the bursts. A stopped program
issues nothing (R247 to R251, R253 to R256, R259). What a burst does that meets an uncorrectable word of memory is the model's reading
(DEDUCED: log 109). The syllables of a channel program that are no command act on their sequencer alone while it runs (R247, R250, R252). -/
def Obligations.ChannelCommands : Prop :=
  (let run := fun (s : State) (cmd : Nat) (pc : BitVec 1) (bk : Nat) (f : Nat → Seqr → State) =>
    let q := s.cur.seqr
    let x := s.seqr q
    let c := s.breaks x cmd pc.toNat bk
    if x.run = false then s
    else if (x.cyc - 1) % 1024 < 64 then s.breach q 0x11 0x21 pc.toNat bk cmd (x.cyc - 1)
    else if c ≠ 0 then s.breach q 0x10 c pc.toNat bk cmd (x.cyc - 1)
    else f q x
  (∀ pc o bk r s, exec (.act pc o bk r) s = .next (run s 1 pc bk.toNat fun q x => s.setSeqr q
    ((x.updBank pc.toNat bk.toNat fun b => { b with row := some (x.addr r.toNat 0 0).1, act := some s.ptime.toNat }).updPc pc.toNat
      fun p => { p with acts := (s.ptime.toNat :: p.acts).take 4 }))) ∧
  (∀ pc o bk col tl sec s, exec (.rd pc o bk col tl sec) s = .next (run s 2 pc bk.toNat fun q x =>
    let a := x.addr 0 col.toNat sec.toNat
    let pa := x.burstPA pc.toNat bk.toNat ((x.bank pc.toNat bk.toNat).row.getD 0) a.2.1
    s.setSeqr q { x.updBank pc.toNat bk.toNat (fun b => { b with rd := some s.ptime.toNat }) with
      bursts := x.bursts ++ [⟨x.cyc - 1 + s.profLo 8, s.ptime.toNat + s.profLo 8, (s.seqTile q tl.toNat).getD 0, a.2.2,
        BitVec.ofNat 512 (readN s.mem pa 64), x.sid, false, badWord s.merr pa 64⟩] })) ∧
  (∀ pc o bk col tl sec s, exec (.wr pc o bk col tl sec) s = .next (run s 3 pc bk.toNat fun q x =>
    let a := x.addr 0 col.toNat sec.toNat
    let t := (s.seqTile q tl.toNat).getD 0
    let y := s.tile t
    match s.chanSet t a.2.2 false with
    | some i => s.raiseExt t 0x06 i (BitVec.ofNat 64 (a.2.2 * 64))
    | none =>
      if clashes y.uses (chanUse q false a.2.2) = true then s.haltSeqr q
      else if y.ueccLine (a.2.2 / 4) = true then
        (s.raiseExt t 0x09 s.anyInfo (((y.ueccWord (a.2.2 / 4)).map (BitVec.ofNat 64)).getD (BitVec.ofNat 64 (a.2.2 / 4 * 256)))).spend
      else
        ((s.writeMem (x.burstPA pc.toNat bk.toNat ((x.bank pc.toNat bk.toNat).row.getD 0) a.2.1)
            (readBytes y.spad (a.2.2 * 64) 64)).updTile t fun y => y.scrub (a.2.2 / 4)).updSeqr q
          fun x => x.updBank pc.toNat bk.toNat fun b => { b with wr := some s.ptime.toNat })) ∧
  (∀ pc o bk s, exec (.pre pc o bk) s = .next (run s 4 pc bk.toNat fun q x =>
    s.setSeqr q (x.updBank pc.toNat bk.toNat fun b => { b with row := none, pre := some s.ptime.toNat }))) ∧
  (∀ pc o s, exec (.prea pc o) s = .next (run s 5 pc 0 fun q x => s.setSeqr q (x.closeAll pc.toNat s.ptime.toNat))) ∧
  (∀ pc o s, exec (.ref pc o) s = .next (run s 6 pc 0 fun q x => s.setSeqr q (x.updPc pc.toNat fun p =>
    { p with debt := max (p.debt - 1) (min p.debt (-8)), ref := some s.ptime.toNat, auto := false }))) ∧
  (∀ pc o bk s, exec (.refpb pc o bk) s = .next (run s 7 pc bk.toNat fun q x => s.setSeqr q
    ((x.updBank pc.toNat bk.toNat fun b => { b with refpb := some s.ptime.toNat }).updPc pc.toNat fun p =>
      if p.marks ||| BitVec.twoPow 16 bk.toNat = BitVec.allOnes 16 then { p.repay with marks := 0 }
      else { p with marks := p.marks ||| BitVec.twoPow 16 bk.toNat })))) ∧
  (let run := fun (s : State) (f : Seqr → Seqr) =>
    if (s.seqr s.cur.seqr).run = true then s.setSeqr s.cur.seqr (f (s.seqr s.cur.seqr)) else s
  (∀ n s, exec (.waitc n) s = .next (run s fun x => { x with segStart := x.segStart + n.toNat })) ∧
  (∀ lv n rs cs ds s, exec (.tnest lv n rs cs ds) s =
    .next (run s fun x => { x with nest := x.nest.set lv.toNat (n.toNat, rs.toInt, cs.toInt, ds.toInt) })) ∧
  (∀ n s, exec (.tend n) s = .next (run s fun x => { x with len := n.toNat, total := x.nest.foldl (fun n l => n * l.1) 1 })) ∧
  (∀ sid s, exec (.troute sid) s = .next (run s fun x => { x with sid := sid })) ∧
  (∀ s, exec .thalt s = .next (run s fun x => { x with run := false }))) ∧
  (∀ (s : State) q code con pc bk cmd cyc, s.Canon →
    let u := s.breach q code con pc bk cmd cyc
    let t := s.nodeTile q
    (u.seqr q).run = false ∧ (u.seqr q).failed = true ∧ (u.seqr q).len = 0 ∧
    (u.tile t).pend = (s.tile t).pend ++ [⟨code, 0, BitVec.ofNat 8 con, BitVec.ofNat 64 ((3 * (q / 96) + q % 96 / 32) * 2 ^ 55 +
      q % 96 % 32 * 2 ^ 50 + pc * 2 ^ 49 + bk * 2 ^ 45 + cmd * 2 ^ 41 + cyc % 2 ^ 32), true, false⟩])

/-- Burst landings: each due burst is checked against the CHANNEL write set of its tile's phase and written with the line tag of its
stream; one that breaks its set, meets a clash or met an uncorrectable word is not written, and raises its trap; the bursts a hold parked
land after it (R144, R150, R188, R191, R197, R251). Refresh debt, autonomous refresh and the check of a cached window
on its first cycle (R256 to R259). The order of a sequencer's cycle is the model's reading (DEDUCED: log 52), and that a window opened in breach is
trapped once, for pseudo-channel 0 first, its choice (DESIGN CHOICE: log 122). -/
def Obligations.BurstsAndRefresh : Prop :=
  ((∀ q s, exec (.rdBurstLanding q) s = .next ((s.dueBursts q false).foldl (fun s b => s.landBurst q b) s)) ∧
  (∀ q s, exec (.parkedBurstWrite q) s = .next ((s.dueBursts q true).foldl (fun s b => s.landBurst q b) s)) ∧
  (∀ (s : State) (q : Nat) (b : Burst), s.Canon →
    let y := s.tile b.tile
    let z := (s.landBurst q b).tile b.tile
    let set_ := if y.st = .bound then s.chanSet b.tile b.sec true else none
    let clash := clashes y.uses (chanUse q true b.sec)
    (∀ i, set_ = some i → z.spad = y.spad ∧ ∃ k, z.pend = y.pend ++ [k] ∧ k.code = 0x06 ∧ k.info = i) ∧
    (set_ = none → clash = true → z = y ∧ ((s.landBurst q b).seqr q).run = false) ∧
    (∀ a, set_ = none → clash = false → b.err = some a → z.spad = y.spad ∧ z.ltag = y.ltag ∧
      ∃ k, z.pend = y.pend ++ [k] ∧ k.code = 0x09 ∧ k.addr = BitVec.ofNat 64 a) ∧
    (set_ = none → clash = false → b.err = none →
      readN z.spad (b.sec * 64) 64 = b.data.toNat ∧
      (∀ a, a < b.sec * 64 ∨ b.sec * 64 + 64 ≤ a → SMap.get 0 z.spad a = SMap.get 0 y.spad a) ∧
      (SMap.wf 0 y.ltag = true → SMap.get 0 z.ltag (b.sec / 4) = 0xC000 ^^^ b.sid.setWidth 16 ^^^ epx16 y.prim.regs.epoch)))) ∧
  ((∀ q s, exec (.refreshDebtRise q) s = .next
    (let x := s.seqr q
     let c := (s.region (x.regKey q)).rtime
     if s.seqrLive q = true ∧ 0 < c ∧ 0 < s.profHi 8 ∧ c % s.profHi 8 = 0 then
       [0, 1].foldl (fun s pc =>
         if 8 ≤ ((s.seqr q).pc pc).debt then (if (s.seqr q).run = true then s.breach q 0x10 0x0F pc 0 0 c else s)
         else s.updSeqr q fun x => x.updPc pc fun p => { p with debt := p.debt + 1 }) s
     else s)) ∧
  (∀ q s, exec (.autonomousRefresh q) s = .next
    (if s.seqrIdle q = true ∧ (s.seqr q).inIteration = false then (s.refreshPc q 0).refreshPc q 1 else s)) ∧
  (∀ q s, exec (.cachedWindowOpen q) s = .next
    (let x := s.seqr q
     let c := (s.region (x.regKey q)).rtime
     let bad := fun pc => (List.range 16).find? fun b =>
       (x.bank pc b).row.isSome || tooSoon s.ptime.toNat (x.bank pc b).pre (s.profLo 1)
     if s.seqrLive q = true ∧ x.run = true ∧ c % 1024 = 0 then
       match (List.range 2).findSome? fun pc => (bad pc).map fun b => (pc, b) with
       | some k => s.breach q 0x11 0x20 k.1 k.2 0 c
       | none => s
     else s)))

/-! ## Streams and timers -/

/-- The issue of bundles. A primary bundle issues on an unheld tick of its running region, a signature bundle on the same terms; a re-run
counts its rewind down and then issues the block at the block's own cycles; a secondary bundle issues on an unheld tick into slots the
primary left empty, and not past the tile's ENDT; a handler bundle when its time has come, or, where a line it is fetched from is
uncorrectable, UECC, and DOUBLE before the handler has begun (R361). These two wait while a far operation holds
their stream (a signature bundle, while EPOCH is still to be written; R147), while an operand is not ready, a bank port is taken or their gate holds; an access of theirs that waits for a port takes
it on the first cycle it is free, one line of a bank a cycle, and a load's lanes of that line are read then (R187). An issued bundle is in its stream's shadow, the pc is past its words and the
next issue is the next cycle; its words enter the control-flow fold (R126, R127, R132, R139, R146, R151, R155, R159, R182, R192). The gates of a
re-run and of a secondary bundle are the model's reading (DEDUCED: log 34, 36), as are the ports of an
interlocked bundle and the tick DOUBLE is taken on (DEDUCED: log 35, 116). -/
def Obligations.IssueEvents : Prop :=
  (∀ t s, exec (.bundleIssue t) s = .next
    (if s.primReady t = true ∧ (s.region (s.regionOf t)).held = false ∧ s.nextIsSig t = false then
      s.issueNext t .primary (s.tile t).prim.pc (s.cycleOf t) else s)) ∧
  (∀ t s, exec (.signatureBundle t) s = .next
    (if s.primReady t = true ∧ (s.region (s.regionOf t)).held = false ∧ s.nextIsSig t = true then
      s.signature t .primary (s.tile t).prim.pc (s.cycleOf t) else s)) ∧
  (∀ t s, (s.tile t).prim.rerun = none → exec (.blockRerun t) s = .next s) ∧
  (∀ t s r, (s.tile t).prim.rerun = some r → 0 < r.rewind → exec (.blockRerun t) s =
    .next (s.updTile t fun x => { x with prim := { x.prim with rerun := some ⟨r.rewind - 1, r.cyc⟩ } })) ∧
  (∀ t s r, (s.tile t).prim.rerun = some r → r.rewind = 0 → s.streamWaits t .primary = true → exec (.blockRerun t) s = .next s) ∧
  (∀ t s r, (s.tile t).prim.rerun = some r → r.rewind = 0 → s.streamWaits t .primary = false →
    let u := s.landAll t .primary r.cyc
    let f := u.fetchAt t .primary (u.tile t).prim.pc
    let v := if u.primReady t = true then u.issueNext t .primary (u.tile t).prim.pc r.cyc else u
    exec (.blockRerun t) s = .next
      (if f.fault = none ∧ (u.tile t).gateWaits .primary r.cyc f.issueGate = true then u
       else v.updTile t fun x => { x with prim := { x.prim with rerun := x.prim.rerun.map fun (y : Rerun) =>
         if y.rewind = 0 then ⟨0, y.cyc + 1⟩ else y } })) ∧
  (∀ t s, let r := s.regionOf t
    let k := (s.region r).rtime
    let u := if s.regionMoves r = true then s.asyncPorts t .secondary k else s
    let x := u.tile t
    let f := u.fetchAt t .secondary x.sec.pc
    exec (.secondaryIssue t) s = .next
      (if x.st = .bound ∧ x.secRun = true ∧ x.ended = false ∧ u.regionMoves r = true ∧ x.sec.issued = none ∧ x.sec.nextIssue ≤ k ∧
          u.streamWaits t .secondary = false ∧ u.tileHalted t = false ∧
          (f.fault ≠ none ∨ f.hdr.slots &&& ((x.prim.issued.map Issued.slots).getD 0) = 0) then
        u.issueInterlocked t .secondary x.sec.pc k else u)) ∧
  (∀ t s, (s.tile t).hm = none → exec (.handlerBundleIssue t) s = .next s) ∧
  (∀ t s h, (s.tile t).hm = some h → let u := s.asyncPorts t .handler s.ptime.toNat
    (u.streamWaits t .handler = true ∨ s.ptime.toNat < h.next ∨ h.leaving = true ∨ h.waiting = true ∨ h.issued ≠ none ∨
      u.tileHalted t = true) → exec (.handlerBundleIssue t) s = .next u) ∧
  (∀ t s h, (s.tile t).hm = some h → let u := s.asyncPorts t .handler s.ptime.toNat
    u.streamWaits t .handler = false → h.next ≤ s.ptime.toNat → h.leaving = false → h.waiting = false → h.issued = none →
    u.tileHalted t = false →
    let f := u.fetchAt t .handler h.pc
    let ls := fetchLines h.pc f.next
    let v := u.updTile t fun x => ls.foldl (fun x ln => x.scrub ln) x
    exec (.handlerBundleIssue t) s = .next
      (if h.started = false ∧ ((∃ ln ∈ ls, (u.tile t).ueccLine ln = true) ∨ f.fault ≠ none) then v.double t
       else if ∃ ln ∈ ls, (u.tile t).ueccLine ln = true then v.issueUecc t h.pc f.next s.ptime.toNat
       else v.issueInterlocked t .handler h.pc s.ptime.toNat)) ∧
  (∀ pc next ln, pc < next → (ln ∈ fetchLines pc next ↔ ∃ a, 4 * pc ≤ a ∧ a < 4 * next ∧ ln = a / 256)) ∧
  (∀ (s : State) t c cyc, (s.tile t).portsOf c = [] → s.asyncPorts t c cyc = s) ∧
  (∀ (s : State) t c cyc k sl wr ln n fill, let d : Nat → Delayed := fun k => ⟨k, sl, .aport wr ln n fill⟩
    s.asyncPort t c cyc (d k) =
    if cyc < k then s.addPort t c (d k)
    else if s.portTaken t ln wr = true then (s.updTile t fun x => x.portLate c (d k) n wr false cyc).addPort t c (d (cyc + 1))
    else (s.takeAsync t ln wr).updTile t fun x => (x.refill c sl n fill).portLate c (d k) n wr true cyc) ∧
  (∀ (s : State) t c pc cyc, let f := s.fetchAt t c pc
    let ls := portTurns (s.bundleLines t c pc cyc f) []
    let waits := s.operandsReady t c f = false ∨ (∃ l ∈ ls, s.portTaken t l.ln false = true) ∨
      (s.tile t).gateWaits c cyc f.issueGate = true
    (f.fault ≠ none → s.issueInterlocked t c pc cyc = s.issueNext t c pc cyc) ∧
    (f.fault = none → f.hdr.sig = true → s.issueInterlocked t c pc cyc =
      if (0x08 : BitVec 6) ∈ (s.tile t).pendingSys c cyc then s else s.issueNext t c pc cyc) ∧
    (f.fault = none → f.hdr.sig = false → waits → s.issueInterlocked t c pc cyc = s) ∧
    (f.fault = none → f.hdr.sig = false → ¬ waits → ls = [] → s.issueInterlocked t c pc cyc = s.issueBundle t c pc cyc f)) ∧
  (∀ sl ln fill ls seen, portTurns [] seen = [] ∧
    portTurns ((sl, ln, fill) :: ls) seen = ⟨(seen.filter (· == ln % 32)).length, sl, ln, fill⟩ :: portTurns ls (ln % 32 :: seen)) ∧
  (∀ (s : State) t (c : Ctx) pc cyc f, s.Canon → c ≠ .handler →
    let y := ((s.issueBundle t c pc cyc f).tile t).stream c
    let h := (((s.openBlock t c cyc).tile t).stream c).foldH
    y.pc = f.next ∧ y.nextIssue = cyc + 1 ∧ y.regs = ((s.tile t).stream c).regs ∧
    y.foldH = foldWords h ((List.range (f.next - pc)).map fun i => (s.tile t).word c (pc + i)) ∧
    ∃ b, y.issued = some b ∧ b.pc = pc ∧ b.next = f.next ∧ b.cycle = cyc ∧ b.slots = f.hdr.slots ∧ b.sig = false) ∧
  (∀ h w ws, foldWords h (w :: ws) = foldWords (rotl32 (h ^^^ BitVec.ofNat 32 w) 7) ws) ∧
  foldWords 0 [0x1, 0x42090A00, 0x4, 0x04800012] = 0x10094823

/-- The checks of a signature bundle: the control-flow fold against CFS and the lineage fold with EPOCH against LSIG; both agree and the
failures are cleared; else a block that may run again does so, and one that may not raises CF_SIGNATURE or LINEAGE. At the limit of
failures the tile retires; short of it the stream is rewound to the checkpoint, with the results then in flight, and the far accesses
of the block itself are dropped (R127, R151, R155, R156). That the checks act at issue and
that a secondary re-run goes on nine cycles later is the model's reading (DEDUCED: log 33). -/
def Obligations.SignatureChecks : Prop :=
  ∀ (s : State) t (c : Ctx) pc cyc,
    let u := s.openBlock t c cyc
    let x := u.tile t
    let st := x.stream c
    let okH := st.foldH = BitVec.ofNat 32 (x.word c (pc + 1))
    let okL := st.foldL ^^^ epx32 st.regs.epoch = BitVec.ofNat 32 (x.word c (pc + 2))
    let b : List Cause → Issued := fun ks =>
      { pc := pc, next := pc + 4, cycle := cyc, slots := 0, pp := false, pops := false, sig := true, effects := [], causes := ks,
        entries := [], marks := false, fold := st.foldH }
    let nr := (x.word c (pc + 3)).testBit 30 = true ∨ st.nrm = true
    (okH → okL → s.signature t c pc cyc =
      (u.shadow t c (b [])).updTile t fun x => { x.setStream c { x.stream c with rerun := none } with fails := 0 }) ∧
    (¬ (okH ∧ okL) → nr ∨ st.ck = none → s.signature t c pc cyc =
      ((u.shadow t c (b [⟨if st.foldH = BitVec.ofNat 32 (x.word c (pc + 1)) then 0x0C else 0x0A, 0, u.anyInfo, u.anyAddr, false, false⟩])).updStream
        t c fun x => { x with rerun := none }).spend) ∧
    (∀ k, ¬ (okH ∧ okL) → ¬ nr → st.ck = some k → s.Canon →
      let n := x.fails.toNat + 1
      let z := (s.signature t c pc cyc).tile t
      z.fails = BitVec.ofNat 4 (min 15 n) ∧
      (retnOf (s.thdr t) ≤ n → z.retiring = some (if st.foldH = BitVec.ofNat 32 (x.word c (pc + 1)) then 0x0C else 0x0A, cyc) ∧
        (.tileRetire t, .none) ∈ (s.signature t c pc cyc).agenda) ∧
      (n < retnOf (s.thdr t) → c ≠ .handler → (z.stream c).pc = k.pc ∧ (z.stream c).regs = k.regs ∧ (z.stream c).loops = k.loops ∧
        (z.stream c).rstack = k.rstack ∧ (z.stream c).inflight = k.inflight ∧ (z.stream c).issued = none ∧ (z.stream c).jump = none ∧
        (∀ o ∈ (s.signature t c pc cyc).ops, o.tile = t → o.ctx = c → o.result ≠ none → o.id ∈ k.ops) ∧
        (∀ f ∈ z.fenced, f.ctx = c → f.id ∈ k.ops) ∧
        (c = .primary → (z.stream c).rerun = some ⟨8, k.cycle⟩ ∧ (z.stream c).nextIssue = k.cycle ∧ z.spring = k.spring) ∧
        (c = .secondary → (z.stream c).nextIssue = cyc + 9)))

/-- What a tile's engines, timers and waits do on a tick: a gate that no longer holds lets go; the first due command starts; a hold
of this tick that would take HOLDC past HOLDB, as the tick's commit points leave the tiles, raises HOLD_BUDGET for the lowest tile that asks,
at its commit point of the tick (DEDUCED: log 118); PTIME at TCMP sets the timer bit; an enabled pending bit ends a WAITI; the BARRIVE decrements that
are ready, no access they wait for being outstanding, leave and are applied here or travel; a FIFO's records enter the free entries of the queue (R25, R139, R140, R145, R166, R181,
R308, R312, R366). What an open TCAUSE field holds is a free value (DESIGN CHOICE: log 7). -/
def Obligations.TileTimers : Prop :=
  (∀ t s, exec (.gateHoldRelease t) s =
    .next (if s.gateAsks t = true then s else s.updTile t fun x => { x with gateHeld := false })) ∧
  (∀ t far s, s.commandDue t far = false → exec (.engineCommandStart t far) s = .next s) ∧
  (∀ t s, s.commandDue t true = true → exec (.engineCommandStart t true) s = .next (s.startFar t)) ∧
  (∀ t s, s.commandDue t false = true → exec (.engineCommandStart t false) s = .next (s.startMatrix t)) ∧
  (∀ (s : State) r, r ∈ s.overBudget ↔ r ∈ s.runningRegions ∧ (s.hdrOf (s.region r).entry).holdb ≤ (s.region r).holdc.toNat ∧
    s.commits.1.asksNow.isCounted r = true) ∧
  (∀ (s : State) r, (s.isCounted r = true) = (s.holds r = true ∧ s.rdvWaits r = false ∧ s.pkgHeld r = false ∧ s.handlerTick r = false)) ∧
  (∀ r s, r ∉ s.overBudget → exec (.holdBudget r) s = .next s) ∧
  (∀ r s, (s.region r).tiles = [] → exec (.holdBudget r) s = .next s) ∧
  (∀ r s u us, r ∈ s.overBudget → (s.region r).tiles = u :: us →
    let t := ((s.region r).tiles.find? s.commits.1.asksNow.asksHold).getD u
    exec (.holdBudget r) s = .next (s.updTile t fun x =>
      { x with pend := x.pend ++ [⟨0x12, 0, s.anyInfo, s.anyAddr, true, false⟩] }).spend) ∧
  (∀ t s, exec (.timerCompare t) s =
    .next (if (s.tile t).tcmp = s.ptime then s.updTile t fun x => { x with ip := x.ip ||| 1 } else s)) ∧
  (∀ t s, exec (.waitiWake t) s = .next
    (if (s.tile t).ip &&& (s.tile t).ie.setWidth 8 = 0 then s else s.updHm t fun h => { h with waiting := false })) ∧
  (∀ t sec s, let c : Ctx := if sec = true then .secondary else .primary
    let go := ((s.tile t).stream c).barr.filter fun b => s.barrReady t b
    let u := s.updStream t c fun x => { x with barr := x.barr.filter fun b => !go.contains b }
    exec (.barriveRelease t sec) s = .next (go.foldl (fun s b =>
      if b.count = 0 ∨ b.ref = 0 then s
      else if b.ref.getLsbD 63 = true then s.decrement t b.ref false b.count.toNat 0 (s.die (dieOf t)).clock
      else s.updTile t fun x => x.queueBasin 3 (b.ref.toNat % 2 ^ 22) (.arrive b.count.toNat)) u)) ∧
  (∀ (s : State) t b, (s.barrReady t b = true) = (b.free = true ∧
    ∀ k ∈ b.waits, k ∉ s.outstanding t .primary ∧ k ∉ s.outstanding t .secondary)) ∧
  (∀ (s : State) t, let x := s.tile t
    s.asksHold t = (x.st != .dead && (x.gateHeld || x.inHandler || x.prim.rerun.isSome || s.streamWaits t .primary))) ∧
  (∀ src s, let f := s.holding src
    let d := drainFifo src f.1 f.2 s.iod.queue
    exec (.eventFifoDrain src) s = .next
      (if f.1 = [] ∨ freeEntry s.iod.queue src = none then s
       else State.setHolding { s with iod := { s.iod with queue := d.1 } } src d.2))

/-! ## Launches, collectives and the mesh -/

/-- The life of a launch. A timed one is released at START; each region's first task waits from its release; a task starts once its gap is over,
no page it waits for is unanswered, the launch is not held as a whole, no refresh of its sequencers is under way and none of them is in
the middle of an iteration of the task before; at region time 0
every live tile of the region, a surplus one too, holds the state of R78; when every live tile that holds a position is over, the
secondary streams stop, the next task follows 256 ticks later, or the region is done, and the launch retires with its last region, or
is parked where the others have been frozen for it; a BARRIVE that waits and a plane row that is loading outlive the task. A
dynamic one is placed and released on a multiple of 1,024 ticks, waits while no placement fits and some could, and is refused when none
can. A launch whose tile retired moves to a variant that fits, or is killed (R24, R69, R77, R78, R182, R384, R385). That a dynamic launch
no placement can ever fit is refused, and the duration after a retirement, at most 16,000 ticks of the model's choice, are the model's
readings (DEDUCED: log 101; DESIGN CHOICE: log 78), as is when it is placed (DESIGN CHOICE: log 112); that a command in the
far port keeps its tile's task from ending, and what the gap of a task still carries, are readings too (DEDUCED: logs 65, 104), and
that a task clears the REFPB marks its choice (DESIGN CHOICE: log 121). -/
def Obligations.LaunchEvents : Prop :=
  (∀ e s, exec (.launchStart e) s = .next
    (if (s.entry e).st = .admitted ∧ (s.entry e).ctl.getLsbD 1 = false ∧ (s.entry e).start = s.ptime then s.release e else s)) ∧
  (∀ r s, (∀ p ∈ s.regions, p.1 ≠ r) → exec (.regionRelease r) s = .next s) ∧
  (∀ r s, (∃ p ∈ s.regions, p.1 = r) → (s.region r).st = .placed → exec (.regionRelease r) s =
    .next ((s.updRegion r fun x => { x with st := .waiting s.ptime.toNat }).now (.taskStart r))) ∧
  (∀ r s, (∃ p ∈ s.regions, p.1 = r) → (s.region r).st = .frozen 1 → exec (.regionRelease r) s =
    .next (s.updRegion r fun x => { x with st := .frozen (s.ptime.toNat + 2) })) ∧
  (∀ r s, (s.region r).st ≠ .placed → (s.region r).st ≠ .frozen 1 → exec (.regionRelease r) s = .next s) ∧
  (∀ r s, s.mayStart r = false → exec (.taskStart r) s = .next s) ∧
  (∀ r (s : State), (s.mayStart r = true) = (∃ k, (s.region r).st = .waiting k ∧ k ≤ s.ptime.toNat ∧ (s.region r).awaits = [] ∧
    s.pkgHeld r = false ∧ (s.die (s.region r).die).halted = false ∧ ∀ q ∈ s.regSeqrs r, s.refreshHolds 0 q = false ∧
      ((s.seqr q).run = false ∨ (s.seqr q).inIteration = false))) ∧
  (∀ r s, s.mayStart r = true →
    let u := (s.regSeqrs r).foldl (fun s q => s.updSeqr q Seqr.start) s
    let v := u.updRegion r fun x =>
      { x with st := .running, rtime := 0, holdc := 0, held := false, rdv := none, exch := none,
               restart := x.restart.map fun _ => u.ptime.toNat }
    let z := (v.region r).surplus.foldl (fun s t => s.updTile t fun x => if x.st = .dead then x else x.start) v
    exec (.taskStart r) s = .next (((z.region r).tiles.filter fun t => (z.tile t).st != .dead).foldl State.startTile z)) ∧
  (∀ (s : State) t, s.Canon → let u := s.updTile t Tile.start
    (u.overlap t 0 = none → s.startTile t = u) ∧
    (∀ i a, u.overlap t 0 = some (i, a) → (s.startTile t).tile t =
      { (s.tile t).start with after := [⟨0x05, 0, i, a, true, false⟩] })) ∧
  (∀ (x : Seqr), x.start.pos = 0 ∧ x.start.cyc = 0 ∧ x.start.tail = none ∧
    x.start.bursts = x.bursts.map (fun b => { b with land := b.land - x.tail.getD 0 }) ∧ x.start.pch.1.marks = 0 ∧ x.start.pch.2.marks = 0 ∧ x.start.failed = false ∧ (x.start.run = true ↔ x.code ≠ []) ∧
    x.start.code = x.code ∧ x.start.pch.1.debt = 0 ∧ x.start.pch.2.debt = 0) ∧
  (∀ (x : Tile), x.start.prim = { Stream.reset with barr := x.prim.barr } ∧ x.start.sec = { Stream.reset with barr := x.sec.barr } ∧
    x.start.mx.loader = x.mx.loader ∧ x.start.mflags = 0 ∧ x.start.phase = 0 ∧
    x.start.spring = 0 ∧ x.start.mx.acc = [] ∧ x.start.mx.mag = [] ∧ x.start.mx.queue = [] ∧ x.start.ended = false ∧ x.start.secRun = false ∧
    x.start.hm = none ∧ x.start.fenced = [] ∧ x.start.spad = x.spad ∧ x.start.ltag = x.ltag) ∧
  (∀ (r : BitVec 6) (q : BitVec 3), Stream.reset.regs.s.get r.toFin = 0 ∧ Stream.reset.regs.st.get r.toFin = 0 ∧ Stream.reset.regs.v.get r.toFin = 0 ∧
    Stream.reset.regs.vt.get r.toFin = 0 ∧ Stream.reset.regs.q.get q.toFin = 0 ∧ Stream.reset.regs.g.get q.toFin = 0) ∧
  (Stream.reset.regs.p = 0 ∧ Stream.reset.regs.lc = 0 ∧ Stream.reset.regs.ec = 0 ∧ Stream.reset.regs.rrb = 0 ∧
    Stream.reset.regs.epoch = 0 ∧ Stream.reset.regs.vflags = 0 ∧ Stream.reset.pc = 0 ∧ Stream.reset.loops = [] ∧ Stream.reset.rstack = []) ∧
  (∀ r s, s.taskOver r = false → exec (.taskEnd r) s = .next s) ∧
  (∀ r s, s.taskOver r = true →
    let e := (s.region r).entry
    let u := (s.region r).tiles.foldl (fun s t => s.updTile t fun y => { y with sec := { Stream.reset with barr := y.sec.barr }, secRun := false }) s
    let w : State := (u.regSeqrs r).foldl (fun s q => s.updSeqr q fun y => { y with tail := some ((s.region r).rtime) }) (u.endTxs r)
    let more := decide ((s.region r).seq + 1 < (w.hdrOf e).tasks)
    let v := w.updRegion r fun x => { x with
      st := if more = true then .waiting (w.ptime.toNat + 256) else .done
      seq := if more = true then (s.region r).seq + 1 else (s.region r).seq
      rdv := none, exch := none, aborts := 0, restart := none }
    exec (.taskEnd r) s = .next
      (if ((v.keysOf e).all fun k => (v.region k).st == .done) = true then v.retire e else if v.allParked e = true then v.park e else v)) ∧
  (∀ r (s : State), (s.taskOver r = true) = ((s.region r).st = .running ∧ ∀ t ∈ (s.region r).tiles, (s.tile t).st = .dead ∨ (s.tile t).over = true)) ∧
  (∀ x : Tile, (x.over = true) = (x.ended = true ∧ x.mx.queue = [] ∧ x.mx.rows = [] ∧ x.far.port = [] ∧ x.far.recs = [])) ∧
  (∀ e s, (s.entry e).st ≠ .admitted ∨ (s.entry e).ctl.getLsbD 1 = false ∨ s.ptime.toNat % 1024 ≠ 0 ∨ s.predDone (s.entry e) = false →
    exec (.dynamicRelease e) s = .next s) ∧
  (∀ e s h, (s.entry e).st = .admitted → (s.entry e).ctl.getLsbD 1 = true → s.ptime.toNat % 1024 = 0 → s.predDone (s.entry e) = true →
    (s.entry e).hdr = some h →
    exec (.dynamicRelease e) s = .next (match (s.step4 e h).2 with
      | .ok b => ((s.step4 e h).1.bind e h b.1 b.2.1 b.2.2 true).release e
      | .error f => if f.1 = 0x05 ∧ s.fitsLater e h = true then (s.step4 e h).1 else (s.step4 e h).1.refuse e f)) ∧
  (∀ e s, (s.entry e).saving = true → exec (.replacement e) s = .next (s.within 32000000 (.replacement e))) ∧
  (∀ e s, (s.entry e).saving = false → (s.entry e).st ≠ .running → (s.entry e).st ≠ .parked →
    exec (.replacement e) s = .next s) ∧
  (∀ e s, (s.entry e).saving = false → (s.entry e).st = .running ∨ (s.entry e).st = .parked →
    s.replaced e (s.entry e) (s.hdrOf e) = none → exec (.replacement e) s = .next (s.kill e)) ∧
  (∀ e s v, (s.entry e).saving = false → (s.entry e).st = .running ∨ (s.entry e).st = .parked →
    s.replaced e (s.entry e) (s.hdrOf e) = some v →
    let b := (List.range 4).filterMap fun d => ((s.entry e).bases.getD d none).map fun b => (d, b)
    let t := s.ptime.toNat + 256 + Nat.min s.delay 16000
    let u := ((s.spend.requeue e t).bind e (s.hdrOf e) (s.entry e).phys v b false).save e []
    exec (.replacement e) s = .next
      ((u.updEntry e fun y => { y with st := .running }).say (.jobRelease (s.entry e).job t)))

/-- Admission takes its steps in order, and the first that fails refuses the launch with its status and offset: the entry's own fields,
the header, the offsets and sections, for a dynamic launch that nodes would ever fit, for a timed one that the clock is locked and the
nodes are free now, then the spring, latency and start checks (R62, R67, R68). Which offset a failed check names where no rule states one
is the model's reading (DEDUCED: log 74, 80), and that a reserved byte of the payload set fails step 1 its choice (DESIGN CHOICE: log 105);
so is that step 4 reports nodes that never fit before an extent that fails (DESIGN CHOICE: log 119). -/
def Obligations.AdmissionSteps : Prop :=
  ∀ (e : BitVec 8) (s : State),
    let x := s.entry e
    let h := s.imgHeader x.image.toNat
    let p1 := s.pass1 x.image.toNat h
    let p2 := s.pass2 x.image.toNat h x.arg.toNat x.rank.toNat
    let last := fun (u : State) (good : State → State) => match (u.lastSteps e h).2 with
      | some f => (u.lastSteps e h).1.refuse e f
      | none => good ((u.lastSteps e h).1.accept e h)
    (x.st ≠ .admitting → exec (.admission e) s = .next s) ∧
    (x.st = .admitting → ∀ f, s.step1 x = some f → exec (.admission e) s = .next (s.refuse e f)) ∧
    (x.st = .admitting → s.step1 x = none → ∀ f, p1 = some f → exec (.admission e) s = .next (s.refuse e f)) ∧
    (x.st = .admitting → s.step1 x = none → p1 = none → ∀ f, p2 = some f → exec (.admission e) s = .next (s.refuse e f)) ∧
    (x.st = .admitting → s.step1 x = none → p1 = none → p2 = none → x.ctl.getLsbD 1 = true →
      exec (.admission e) s = .next (if s.fitsLater e h = false then s.refuse e (0x05, 0) else last s id)) ∧
    (x.st = .admitting → s.step1 x = none → p1 = none → p2 = none → x.ctl.getLsbD 1 = false → s.iod.locked = false →
      exec (.admission e) s = .next (s.refuse e (0x04, 0))) ∧
    (x.st = .admitting → s.step1 x = none → p1 = none → p2 = none → x.ctl.getLsbD 1 = false → s.iod.locked = true →
      exec (.admission e) s = .next (match (s.step4 e h).2 with
        | .error f => (s.step4 e h).1.refuse e f
        | .ok b => last (s.step4 e h).1 fun u =>
            (u.bind e h b.1 b.2.1 b.2.2 true).after (x.start.toNat - s.ptime.toNat) (.launchStart e))) ∧
    (x.rsvd = true ∨ x.asid = 0 ∨ s.iod.agrant.contains x.asid.toNat = false ∨ x.image.toNat < s.iod.imageBase ∨
      s.iod.imageBase + s.iod.imageLen ≤ x.image.toNat ∨ x.image.toNat % 4096 ≠ 0 → s.step1 x = some (0x01, 0xFFFFFFFF)) ∧
    (∀ f : Fail, let z := (s.refuse e f).entry e
      SMap.wf Entry.reset s.entries = true → z.st = .refused ∧ z.status = f.1 ∧ z.foff = f.2)

/-- A round of a collective, by job, group and number: the first contribution that disagrees with those before it, or repeats a rank,
makes it an error round; one that makes the round's count full delivers the round to every contributor of the package, sector by sector;
a contribution to an error, delivered or late round ends its FRED with ERR in its basins, and a deadline that has come ends every round
of its number that has not gathered, its contributors' basins ERR. An amount applied at a tick not after the deadline moves it; of the amounts the launches of one job apply at one tick the largest counts, once (R323, R379). The
result is, element by element, the left fold of the contributions in ascending rank, each operation with its elements' size, its step and
its output (R320 to R323). The base of a deadline is a free value (DESIGN CHOICE: log 11); the end of a FRED whose contribution comes too
late and the rounds kept by job are the model's reading (DEDUCED: log 60). -/
def Obligations.CollectiveRounds : Prop :=
  (∀ s, (∀ c, s.ext ≠ .contribution c) → exec .contributionArrival s = .next s) ∧
  (∀ s c, s.ext = .contribution c →
    let r := s.round c.job c.grp c.round
    let due := s.deadline c.job c.grp c.round
    let first := r.got = [] ∧ r.err = false ∧ r.delivered = false ∧ r.late = false
    let u := if first then s.after (due - s.ptime.toNat) (.roundDeadline c.grp c.round) else s
    exec .contributionArrival s = .next
      (if r.delivered = true ∨ r.late = true ∨ due < s.ptime.toNat ∨ r.err = true then s.errContributor c
       else if (r.got.any fun x => x.len != c.len || x.count != c.count || x.op != c.op || x.rank == c.rank) = true then
         ((r.got ++ [c]).foldl State.errContributor s).setRound { r with got := [], err := true }
       else if r.got.length + 1 = c.count then
         (u.setRound { r with got := [], delivered := true }).multicast { r with got := r.got ++ [c] }
       else u.setRound { r with got := r.got ++ [c] })) ∧
  (∀ g n s,
    let rs := s.rounds.filter fun r => r.grp == g && r.n == n
    let u := rs.foldl State.endRound s
    let ahead := ((rs.filter fun r => !r.delivered && !r.err && !r.late).map fun r => u.deadline r.job g n).filter
      fun d => decide (u.ptime.toNat < d)
    exec (.roundDeadline g n) s = .next (match ahead.min? with
      | none => u
      | some d => u.after (d - u.ptime.toNat) (.roundDeadline g n))) ∧
  (∀ (s : State) r, s.endRound r =
    if r.delivered = true ∨ r.err = true ∨ r.late = true ∨ s.ptime.toNat < s.deadline r.job r.grp r.n then s
    else (r.got.foldl State.errContributor s).setRound { r with got := [], late := true }) ∧
  (∀ (s : State) j g n, (∀ m ∈ s.moved, m.1 ≠ j) → s.deadline j g n = Config.roundDeadline j g n) ∧
  (∀ (s : State) j g n ms, s.moved.filter (fun m => m.1 == j) = ms → ms.Pairwise (fun a b => a.2.1 ≤ b.2.1) →
    s.deadline j g n = ms.foldl (fun d m => if m.2.1 ≤ d then d + m.2.2 else d) (Config.roundDeadline j g n)) ∧
  (∀ (s : State) j tb k, 0 < k → let u := (s.noteMove j tb k).moved
    (∃ m, (j, tb, m) ∈ u ∧ k ≤ m ∧ (m = k ∨ (j, tb, m) ∈ s.moved)) ∧ ∀ m, m.1 ≠ j ∨ m.2.1 ≠ tb → (m ∈ u ↔ m ∈ s.moved)) ∧
  (∀ (s : State) c, c.tile = none → s.errContributor c = s) ∧
  (∀ (s : State) c t slot k r, c.tile = some (t, slot) → s.copyAt t slot.toNat = some k → s.recOf t k = some r →
    s.errContributor c = s.cancelRec t r) ∧
  (∀ (s : State) t r, let u := ((s.tile t).far.copies.filter fun c => c.rec_ == r.id).foldl (fun s c => s.freeSlot t c.slot) s
    s.cancelRec t r = r.basins.foldl (fun s b => s.markErr t b)
      (u.updTile t fun x => { x with far := { x.far with recs := x.far.recs.filter fun y => y.id != r.id } })) ∧
  (∀ (s : State) r c cs, r.got = c :: cs →
    let ranked := sortBy (fun (a b : Contribution) => decide (a.rank ≤ b.rank)) r.got
    let data := reduceRound c.op c.len (ranked.map fun x => x.data)
    s.multicast r = r.got.foldl (fun s x => match x.tile with
      | none => s
      | some (t, slot) => (List.range x.len).foldl (fun s i =>
          s.later (.fredResultSector t slot i (BitVec.ofNat 512 (ofBytes ((data.drop (64 * i)).take 64))))) s) s) ∧
  (∀ l : List Contribution, let m := sortBy (fun (a b : Contribution) => decide (a.rank ≤ b.rank)) l
    m.Perm l ∧ m.Pairwise fun a b => a.rank ≤ b.rank) ∧
  (∀ op len a cs i, (∀ b ∈ a :: cs, b.length = 64 * len) →
    let z := if op = 3 then 2 else 4
    let at_ : List Byte → Nat := fun b => ofBytes ((b.drop (z * i)).take z)
    z * i < 64 * len →
    at_ (reduceRound op len (a :: cs)) =
      leaveElem op (cs.foldl (fun acc b => foldElem op acc (enterElem op (at_ b))) (enterElem op (at_ a))) % 256 ^ z) ∧
  (∀ a b, foldElem 0 a b = faddBits a b ∧ foldElem 1 a b = (minmaxF32 true a b).1 ∧ foldElem 2 a b = (minmaxF32 false a b).1 ∧
    foldElem 3 a b = faddBits a b ∧ foldElem 4 a b = a + b) ∧
  (∀ x : Nat, enterElem 4 x = BitVec.ofNat 32 x ∧
    (let y := BitVec.ofNat 32 x
     let n := y.toNat % 2 ^ 31 > 0x7F800000
     ∀ op ∈ [(0 : BitVec 4), 1, 2], enterElem op x = if n then 0x7FC00000 else y) ∧
    (let y := BitVec.ofNat 16 x
     enterElem 3 x = if y.toNat % 2 ^ 15 > 0x7F80 then 0x7FC00000 else BitVec.ofNat 32 (y.toNat * 65536))) ∧
  (∀ x : BitVec 32, ∀ op ∈ [(0 : BitVec 4), 1, 2, 4], leaveElem op x = x.toNat) ∧
  (∀ x : BitVec 32, leaveElem 3 x = (addIEEE .bf16 .rne (unF32 x) (unF32 0x80000000)).1.toNat)

/-- Timed transmissions and packets: a transmission that needs a stage another needs on the same cycle, or a link on a reserved cycle, is
dropped with SLOT_COLLISION, whose TADDR names both senders in launch tile order; one that has not been dropped writes its latch 24
cycles after its issue, or 56 across dies, unless the injector takes it or a double-bit error on its way keeps it, which raises UECC on
the receiving tile; a packet takes one hop of its way where it may, crosses the bridge at node 0, and is delivered at its node (R261,
R262, R264 to R268, R272). That three transmissions at one stage name the two lowest tiles, that the lines of a task that has ended go on
in the gap, held on its last tick where its region was, the bridge's way of a packet and the fields TADDR has no place for are the model's readings (DEDUCED: log 59, 63, 104; DESIGN
CHOICE: log 110). -/
def Obligations.MeshEvents : Prop :=
  (∀ x s, (s.txs.find? fun y => y.id == x) = none → exec (.timedHop x) s = .next s) ∧
  (∀ x s y, (s.txs.find? fun y => y.id == x) = some y → s.txStop y = none → exec (.timedHop x) s = .next s) ∧
  (∀ x s y p c, (s.txs.find? fun y => y.id == x) = some y → s.txStop y = some (p, c) → s.txMates y p = [] →
    exec (.timedHop x) s = .next
      (if p.dir ≠ 4 ∧ 56 ≤ (if y.ended ≠ none then c else (s.region y.region).refCount c) % 64 then
         s.dropTx y y.sid (slotAddr p y.lt 0x1FF c)
       else if p.dir < 4 then s.countLine p.die p.node p.dir true else s)) ∧
  (∀ x s y p c, (s.txs.find? fun y => y.id == x) = some y → s.txStop y = some (p, c) → s.txMates y p ≠ [] →
    ∃ m ∈ s.txMates y p, (∀ o ∈ s.txMates y p, m.lt ≤ o.lt) ∧
      exec (.timedHop x) s = .next (s.dropTx y (if y.lt ≤ m.lt then y else m).sid
        (slotAddr p (min y.lt m.lt) (max y.lt m.lt) ((if y.lt ≤ m.lt then y else m).issue + (if y.lt ≤ m.lt then y else m).age)))) ∧
  (∀ (s : State) y, s.txStop y = if s.txMoves y = false ∨ (∃ k, y.dropped = some k ∧ k < s.ptime.toNat) then none
    else (hopAt y.src y.dst y.die y.age).map fun p => (p, y.issue + y.age)) ∧
  (∀ (s : State) y sid a, let u := s.dropTx y sid a
    ∀ z ∈ u.txs, z.id = y.id → z.dropped = some s.ptime.toNat) ∧
  (∀ (p : Stop) a b cyc, p.node < 32 → p.dir < 8 → a < 512 → b < 512 →
    (slotAddr p a b cyc).toNat =
      (if p.dir = 5 then 0 else p.node) * 2 ^ 59 + p.dir * 2 ^ 56 + a * 2 ^ 47 + b * 2 ^ 38 + cyc % 2 ^ 32) ∧
  (∀ x s, exec (.meshLatchWrite x) s = .next (match s.txs.find? fun y => y.id == x && y.die == false with
    | some y => if s.txMoves y = true ∧ y.age = 24 ∧ y.dropped = none then s.deliver y else s
    | none => s)) ∧
  (∀ x s, exec (.dieLatchWrite x) s = .next (match s.txs.find? fun y => y.id == x && y.die == true with
    | some y => if s.txMoves y = true ∧ y.age = 56 ∧ y.dropped = none then s.deliver y else s
    | none => s)) ∧
  (∀ (s : State) y, s.Canon →
    let m := minjStep (s.die (dieOf y.src)).minj y.lt y.sid
    let u := s.deliver y
    let k : Fin 4 := (y.sid.setWidth 2).toFin
    u.txs = s.txs.filter (fun z => z.id != y.id) ∧ (u.die (dieOf y.src)).minj = m.1 ∧
    (m.2 = true → u.tile y.dst = s.tile y.dst) ∧
    (m.2 = false → y.bad = false → y.die = false → u.tile y.dst = { s.tile y.dst with mport := (s.tile y.dst).mport.set k (y.data, y.tag) }) ∧
    (m.2 = false → y.bad = false → y.die = true → u.tile y.dst = { s.tile y.dst with dport := (s.tile y.dst).dport.set k (y.data, y.tag) })) ∧
  (∀ (s : State) y, let m := minjStep (s.die (dieOf y.src)).minj y.lt y.sid
    let u : State := { (s.updDie (dieOf y.src) fun d => { d with minj := m.1 }) with txs := s.txs.filter fun z => z.id != y.id }
    m.2 = false → y.bad = true → s.deliver y = (u.raiseExt y.dst 0x09 u.anyInfo (linkAddr y)).spend) ∧
  (∀ y : Tx, nodeOf y.dst < 32 → y.lt < 512 → let a := (linkAddr y).toNat
    a / 2 ^ 59 = nodeOf y.dst ∧ a / 2 ^ 56 % 8 = 4 ∧ a / 2 ^ 47 % 512 = y.lt ∧ a % 2 ^ 32 = (y.issue + y.age) % 2 ^ 32) ∧
  (∀ (s : State) y t held, y.ended = some (t, held) →
    (s.ptime.toNat ≤ t → s.txMoves y = !held) ∧
    (t < s.ptime.toNat → s.pkgHeld y.region = true → s.txMoves y = false) ∧
    (t < s.ptime.toNat → s.pkgHeld y.region = false → (∀ r, (s.region y.region).st ≠ .frozen r) → s.txMoves y = true)) ∧
  (∀ s : State, s.clearTxs.txs = (s.txs.filter fun x => !x.dropped.any fun t => decide (t < s.ptime.toNat)).map fun x =>
    if s.txMoves x = true then { x with age := x.age + 1 } else x) ∧
  (∀ (m : W64) lt (sid : BitVec 8), let hit := m.getLsbD 63 = true ∧ field m.toNat 41 9 = lt ∧ field m.toNat 33 8 = sid.toNat
    (¬ hit → minjStep m lt sid = (m, false)) ∧
    (hit → field m.toNat 0 16 ≠ 0 → minjStep m lt sid = (m - 1, false)) ∧
    (hit → field m.toNat 0 16 = 0 → (minjStep m lt sid).2 = true ∧ (minjStep m lt sid).1.getLsbD 63 = false ∧
      (minjStep m lt sid).1.getLsbD 62 = true ∧ ∀ i < 62, (minjStep m lt sid).1.getLsbD i = m.getLsbD i)) ∧
  (∀ k s, (s.packets.find? fun j => j.id == k) = none → exec (.bePacketHop k) s = .next s) ∧
  (∀ k s j d ds, (s.packets.find? fun j => j.id == k) = some j → routeDirs j.node (if j.die = j.toDie then j.dst else 0) = d :: ds →
    let rest := s.packets.filter fun x => x.id != k
    exec (.bePacketHop k) s = .next (if s.mayHop j d = true then
      State.countLine { s with packets := rest ++ [{ j with node := neighbour j.node d, inp := d, moved := s.ptime.toNat }] } j.die j.node d false
      else s)) ∧
  (∀ k s j, (s.packets.find? fun j => j.id == k) = some j → routeDirs j.node (if j.die = j.toDie then j.dst else 0) = [] →
    let rest := s.packets.filter fun x => x.id != k
    exec (.bePacketHop k) s = .next
      (if s.mayMove j = false then s
       else if j.die = j.toDie then State.unpack { s with packets := rest } j.parcel
       else if s.bridgeBusy j.die j.toDie = true ∨ 4 ≤ s.bufferLoad j.toDie 0 (5 + j.die) then s
       else { s with packets := rest ++ [{ j with die := j.toDie, node := 0, inp := 5 + j.die, moved := s.ptime.toNat + 7 }] })) ∧
  (∀ (s : State) i, s.unpack (.step i) = { s with agenda := (i, .none) :: s.agenda }) ∧
  (∀ (s : State) q k, s.unpack (.port q k) = s.updSeqr q fun y => { y with cached := y.cached ++ [k] }) ∧
  (∀ (s : State) j d, (s.mayHop j d = true) = (s.mayMove j = true ∧ s.linkBusy j.die j.node d = false ∧
    s.bufferLoad j.die (neighbour j.node d) d < 4 ∧ (j.inp = d ∨ 2 ≤ s.ringFree j.die j.node d))) ∧
  (∀ a b : Nat, a < 24 → b < 24 → (routeDirs a b).length ≤ 5 ∧ (routeDirs a b).foldl neighbour a = b)

/-! ## Caches, causal memory and translation -/

/-- The cache slices. A request to a moving bucket waits for the move's end; another is counted once and goes to the home, writes, hits a
valid or dirty sector or misses; a write of part of a word that is not held fetches its sector first. A hit is answered with the line's
bytes, or with the address of an uncorrectable word; an atomic that sets writes the new word; a write leaves I and P sectors P, V and D
sectors D, and raises their dirty bits. A fill makes an I sector V and a P sector D, unless the bucket moves or the answer has been
overtaken, and wakes the requests that wait on it; a CAUSAL fill waits for its clock. The earliest write-back of a sector is merged at
memory first. The miss handler of a port serves the first access of its queue when it may; a read burst goes to the slice after its
latency. Every 2^20 ticks the busiest slice, when above 1.5 times the mean, gives its hottest bucket that is not pinned to the least busy
slice; the bucket's move ends once its write-backs are applied, its lines gone, and what has waited goes on in its order (R260, R273,
R274, R276, R278, R279, R333). What the rebalancer counts, when an access may start and an atomic's allocation are the model's reading
(DEDUCED: log 54, 58, 75), and so is that a die's accesses to CAUSAL lines wait after an RDV (DEDUCED: log 111); the order of a line's write-backs is a free value (DESIGN CHOICE: log 9). -/
def Obligations.CacheSlices : Prop :=
  (∀ k s, (s.creqs.find? fun r => r.id == k && !r.held) = none → exec (.cacheRequest k) s = .next s) ∧
  (∀ k s r, (s.creqs.find? fun r => r.id == k && !r.held) = some r →
    let u := s.meet r
    let n := u.sliceOf r.die r.pa
    exec (.cacheRequest k) s = .next
      (if s.bucketMoves r.die r.pa = true then (s.holdReq k).awaitMove r.die (.cacheRequest k)
       else if s.causalKeeps r = true then s.later (.cacheRequest k)
       else if r.home = true then u.homeReq r
       else match r.kind with
         | .write cs => if u.writesPart r cs = true then u.miss r false else u.writeReq r cs
         | _ => match ((u.die r.die).slice n).find (r.pa / 256) with
           | some l => if l.sec (r.pa / 64 % 4) = .v ∨ l.sec (r.pa / 64 % 4) = .d then u.hitReq r n l else u.miss r false
           | none => u.miss r true)) ∧
  (∀ (s : State) r, r.met = true → s.meet r = s) ∧
  (∀ (s : State) r, r.met = false →
    s.meet r = { s.updDie r.die (fun x => { x with counts := SMap.upd 0 x.counts (bucketOf r.pa) (· + 1) }) with
      creqs := s.creqs.map fun (y : CReq) => if y.id = r.id then { y with met := true } else y }) ∧
  (∀ (s : State) r n l k, r.kind = .read k →
    let u := (s.dropReq r.id).updDie r.die fun x => x.updSlice n fun sl => { sl.put l with hits := if r.met = true then sl.hits else sl.hits + 1 }
    s.hitReq r n l = match l.badAt (r.pa % 256) k with
      | some a => u.answer (some (r.die, n)) r.client 0 (some a)
      | none => u.answer (some (r.die, n)) r.client (BitVec.ofNat 512 (field l.data.toNat (8 * (r.pa % 256)) (8 * k)))) ∧
  (∀ (s : State) r n l cas op wide b c, r.kind = .amo cas op wide b c →
    let u := (s.dropReq r.id).updDie r.die fun x => x.updSlice n fun sl => { sl.put l with hits := if r.met = true then sl.hits else sl.hits + 1 }
    let old : W64 := BitVec.ofNat 64 (field l.data.toNat (8 * (r.pa % 256)) (if wide = true then 64 else 32))
    let v := if atomicSets cas wide old c = true then
        u.putCLine r.die n (writeSector l (r.pa / 64 % 4) (amoCells r.pa wide (atomicNew cas op wide old b c))) else u
    s.hitReq r n l = match l.badAt (r.pa % 256) (if wide = true then 8 else 4) with
      | some a => u.answer (some (r.die, n)) r.client 0 (some a)
      | none => v.answer (some (r.die, n)) r.client (old.setWidth 512)) ∧
  (∀ (s : State) r cs, r.causal = false →
    let u := s.dropReq r.id
    let n := u.sliceOf r.die r.pa
    let i := r.pa / 64 % 4
    let l := writeSector ((((u.die r.die).slice n).find (r.pa / 256)).getD (CLine.blank (r.pa / 256))) i cs
    s.writeReq r cs = if u.clientWide r.client = true then
        (u.putCLine r.die n ((l.setMask i 0).setSec i (if l.sec i = .d then .v else .i))).writeBack r.die l i (l.mask i) [] r.client
      else (u.putCLine r.die n l).answer (some (r.die, n)) r.client 0) ∧
  (∀ l i cs, i < 4 → (writeSector l i cs).mask i = l.mask i ||| wordsOf cs ∧
    (writeSector l i cs).sec i = (if l.sec i = .i ∨ l.sec i = .p then .p else .d)) ∧
  (∀ l i base v bad, i < 4 → (fillSector l i base v bad).sec i = (if l.sec i = .i then .v else if l.sec i = .p then .d else l.sec i) ∧
    (fillSector l i base v bad).dirty = l.dirty ∧ (l.sec i = .v ∨ l.sec i = .d → fillSector l i base v bad = l)) ∧
  (∀ k s, exec (.sectorFill k) s = .next (match s.misses.find? fun m => m.id == k with
    | none => s
    | some m => match m.answer with
      | none => s
      | some (v, bad, clk) =>
        let pa := m.sector * 64
        let u := { s with misses := s.misses.filter fun (x : Miss) => x.id != k }
        let n := u.sliceOf m.die pa
        let l := (((u.die m.die).slice n).find (pa / 256)).getD (CLine.blank (pa / 256))
        if m.stale = true then s.refetch m
        else if covers (s.clockOf m.die) clk = false then s.later (.sectorFill k)
        else (if u.bucketMoves m.die pa = true then u
          else u.putCLine m.die n (fillSector l (m.sector % 4) pa (m.merged v clk) bad)).wakeReqs fun r => r.die == m.die && r.pa / 64 == m.sector)) ∧
  (∀ k s, exec (.writebackApply k) s = .next
    (match (s.wbs.find? fun w => w.id == k).bind fun w0 => s.wbs.find? fun w => w.die == w0.die && w.sector == w0.sector with
    | none => s
    | some w =>
      let u := s.writeMemCells (maskCells (w.sector * 64) w.mask w.data)
      let v := { u with wbs := u.wbs.filter fun (x : WBack) => x.id != w.id }
      (w.ranges.foldl (fun s o => s.now (.rangePerformed o)) v).answer (some (portOf (w.sector * 64) / 96, portOf (w.sector * 64) % 96 / 4))
        w.client 0)) ∧
  (∀ q s, (s.seqr q).cached = [] → exec (.cachedPathAccess q) s = .next s) ∧
  (∀ q s k ks m, (s.seqr q).cached = k :: ks → (s.misses.find? fun m => m.id == k) = some m →
    let pa := m.sector * 64
    let v := s.accessPlan q pa false
    let u := { s with misses := s.misses.map fun (x : Miss) => if x.id = k then
      { x with answer := some (BitVec.ofNat 512 (readN s.mem pa 64), badMask s.merr pa, []) } else x }
    exec (.cachedPathAccess q) s = .next (if s.accessMay q pa false = true then
      (u.takeAccess q v).packet (q / 96) (q % 96 / 4) m.die (u.sliceOf m.die pa) 9 (v.rd + u.profLo 8 - u.ptime.toNat) (.step (.sectorFill k))
    else s)) ∧
  (∀ q s k ks w, (s.seqr q).cached = k :: ks → (s.misses.find? fun m => m.id == k) = none → (s.wbs.find? fun w => w.id == k) = some w →
    let u := s.takeAccess q (s.accessPlan q (w.sector * 64) true)
    exec (.cachedPathAccess q) s = .next (if s.accessMay q (w.sector * 64) true = true then
      { u with agenda := (.writebackApply k, .none) :: u.agenda } else s)) ∧
  (∀ q s k ks, (s.seqr q).cached = k :: ks → (s.misses.find? fun m => m.id == k) = none → (s.wbs.find? fun w => w.id == k) = none →
    exec (.cachedPathAccess q) s = .next (s.updSeqr q fun x => { x with cached := ks })) ∧
  (∀ d s, s.ptime.toNat % 2 ^ 20 ≠ 0 → exec (.rebalance d) s = .next s) ∧
  (∀ d s, s.ptime.toNat % 2 ^ 20 = 0 →
    let x := s.die d.toNat
    let u := s.updDie d.toNat fun x => { x with counts := [] }
    ∃ hot cold, hot < 24 ∧ cold < 24 ∧ (∀ n < 24, x.sliceCount n ≤ x.sliceCount hot ∧ x.sliceCount cold ≤ x.sliceCount n) ∧
      let total := ((List.range 24).map x.sliceCount).sum
      let bs := (x.counts.map fun c => c.1).filter fun b => x.sliceNo b == hot && !(x.bucket b).getLsbD 15
      (x.moving ≠ none ∨ 48 * x.sliceCount hot ≤ 3 * total ∨ bs = [] → exec (.rebalance d) s = .next u) ∧
      (x.moving = none → 3 * total < 48 * x.sliceCount hot → bs ≠ [] →
        ∃ b ∈ bs, (∀ c ∈ bs, SMap.get 0 x.counts c ≤ SMap.get 0 x.counts b) ∧
          let v := u.updDie d.toNat fun x => { x.setBucket b (x.bucket b ||| 0x4000) with moving := some (b, cold) }
          let ls := (x.slice hot).lines.filter fun l => bucketOf (l.line * 256) == b
          exec (.rebalance d) s = .next ((ls.foldl (fun s l =>
            let a := s.flushLine d.toNat l (fun _ => true) []
            a.1.updDie d.toNat fun x => x.updSlice hot fun sl => { sl with lines := sl.lines.map fun y => if y.line = l.line then a.2 else y })
            v).later (.bucketMoveEnd d)))) ∧
  (∀ d s, (s.die d.toNat).moving = none → exec (.bucketMoveEnd d) s = .next s) ∧
  (∀ d s b cold, (s.die d.toNat).moving = some (b, cold) →
    (s.wbs.any fun w => w.die == d.toNat && bucketOf (w.sector * 64) == b) = true →
    exec (.bucketMoveEnd d) s = .next (s.later (.bucketMoveEnd d))) ∧
  (∀ d s b cold, (s.die d.toNat).moving = some (b, cold) →
    (s.wbs.any fun w => w.die == d.toNat && bucketOf (w.sector * 64) == b) = false →
    let x := s.die d.toNat
    let u := s.updDie d.toNat fun x =>
      { (x.updSlice ((s.die d.toNat).sliceNo b) fun sl => { sl with
          moves := sl.moves + 1, lines := sl.lines.filter fun l => bucketOf (l.line * 256) != b }).setBucket b
          ((x.bucket b &&& 0x8000) ||| BitVec.ofNat 16 cold) with moving := none, waits := [] }
    exec (.bucketMoveEnd d) s = .next { u with
      creqs := u.creqs.map fun (r : CReq) => if x.waits.contains (.cacheRequest r.id) = true then { r with held := false } else r
      agenda := x.waits.map (fun i => (i, .none)) ++ u.agenda }) ∧
  (∀ k s, (s.ops.find? fun o => o.id == k) = none → exec (.rangePerformed k) s = .next s) ∧
  (∀ k s o kind (ls : List (Nat × Nat × Nat)), (s.ops.find? fun o => o.id == k) = some o → o.kind = .range kind ls →
    let d := dieOf o.tile
    let causal := s.opCausal o
    let rest := ls.filter fun x => s.bucketMoves d (x.1 * 256)
    let u := ((ls.filter fun x => !s.bucketMoves d (x.1 * 256)).foldl
      (fun s x => if causal = true ∧ kind = 0 then s else s.rangeLine d kind k causal x) s).updOp k
        fun o => { o with kind := .range kind rest }
    let v := if rest = [] then u else u.awaitMove d (.rangePerformed k)
    exec (.rangePerformed k) s = .next (if causal = true ∧ s.rangeQuiet d ls = false then s
      else if rest = [] ∧ (v.wbs.any fun w => w.ranges.contains k) = false then { v with ops := v.ops.filter fun (o : HoldOp) => o.id != k } else v))

/-- Causal updates: the updates of a writer are taken at each receiver in the order sent (R264); one joins a receiver's queue of 256, or, where the queue is full and it cannot be applied at once, waits for room and
keeps its writer waiting; the next one of a writer is applied when its clock allows and its bucket is not being moved: the receiver's
clock takes the writer's count, a die's copies or, at the home, memory take its bytes, and what it frees follows; the home answers a miss
once it has applied what the miss's clock covers. A write of a party raises its own entry, changes its copies or memory, and sends an
update to each of the four others (R276, R278, R333, R334). -/
def Obligations.CausalUpdates : Prop :=
  (∀ k d s, (s.updates.find? fun u => u.id == k) = none → exec (.causalUpdateArrive k d) s = .next s) ∧
  (∀ k d s u, (s.updates.find? fun u => u.id == k) = some u → d ∉ u.left → exec (.causalUpdateArrive k d) s = .next s) ∧
  (∀ k d s u, (s.updates.find? fun u => u.id == k) = some u → d ∈ u.left → s.inTurn u d = false →
    exec (.causalUpdateArrive k d) s = .next (s.later (.causalUpdateArrive k d))) ∧
  (∀ (s : State) u d, s.inTurn u d = true ↔ ∃ y, (s.updates.find? fun y => y.src == u.src && y.left.contains d) = some y ∧ y.id = u.id) ∧
  (∀ k d s u, (s.updates.find? fun u => u.id == k) = some u → d ∈ u.left → s.inTurn u d = true → 256 ≤ (s.updatesAt d).length → canApply (s.clockOf d) u = false →
    exec (.causalUpdateArrive k d) s = .next (State.later { s with updates := s.updates.map fun (y : Update) =>
      if y.id = k ∧ d ∉ y.stuck then { y with stuck := d :: y.stuck } else y } (.causalUpdateArrive k d))) ∧
  (∀ k d s u, (s.updates.find? fun u => u.id == k) = some u → d ∈ u.left → s.inTurn u d = true → (s.updatesAt d).length < 256 ∨ canApply (s.clockOf d) u = true →
    let v := s.setUpdatesAt d (s.updatesAt d ++ [u])
    let came : Update → Option Update := fun y =>
      if y.id = k then (if y.left = [d] then none else some { y with left := y.left.filter fun z => z != d, stuck := y.stuck.filter fun z => z != d }) else some y
    exec (.causalUpdateArrive k d) s = .next (State.now { v with updates := v.updates.filterMap came } (.causalUpdateApply d u.src))) ∧
  (∀ d w s, ((s.updatesAt d).find? fun u => u.src == w && canApply (s.clockOf d) u) = none → exec (.causalUpdateApply d w) s = .next s) ∧
  (∀ d w s u, ((s.updatesAt d).find? fun u => u.src == w && canApply (s.clockOf d) u) = some u → d < 4 →
    (u.cells.any fun c => s.bucketMoves d c.1) = true → exec (.causalUpdateApply d w) s = .next (s.awaitMove d (.causalUpdateApply d w))) ∧
  (∀ d w s u, ((s.updatesAt d).find? fun u => u.src == w && canApply (s.clockOf d) u) = some u →
    4 ≤ d ∨ (u.cells.any fun c => s.bucketMoves d c.1) = false →
    let n := u.clock.getD w 0
    let v := s.setUpdatesAt d ((s.updatesAt d).filter fun y => y.id != u.id)
    let x := v.setClock d ((v.clockOf d).set w n)
    let y := x.writeMemCells u.cells
    let waits := (y.ops.filterMap fun o => match o.kind with
      | .range .. => some (Instr.rangePerformed o.id)
      | _ => none) ++ y.misses.filterMap fun m => if m.causal && m.answer.isNone then some (.causalMissAnswer m.id) else none
    let z := if d < 4 then x.updateCopies d u.cells w n else (waits.foldl State.now y).answer none u.client 0
    exec (.causalUpdateApply d w) s =
      .next (((z.updatesAt d).map fun y => y.src).dedup.foldl (fun s w => s.now (.causalUpdateApply d w)) z)) ∧
  (∀ k s, (s.misses.find? fun m => m.id == k && m.answer.isNone) = none → exec (.causalMissAnswer k) s = .next s) ∧
  (∀ k s m, (s.misses.find? fun m => m.id == k && m.answer.isNone) = some m →
    let pa := m.sector * 64
    exec (.causalMissAnswer k) s = .next (if covers s.iod.clock m.clock = true then
      State.later { s with misses := s.misses.map fun (x : Miss) => if x.id = k then
        { x with answer := some (BitVec.ofNat 512 (readN s.mem pa 64), badMask s.merr pa, s.iod.clock) } else x } (.sectorFill k)
      else s)) ∧
  (∀ (s : State) d cs client, d < 5 → s.Canon → (s.clockOf d).length = 5 →
    let u := s.causalWrite d cs client
    u.clockOf d = (s.clockOf d).set d ((s.clockOf d).getD d 0 + 1) ∧
    u.updates = s.updates ++ [⟨s.nextId, d, cs, (s.clockOf d).set d ((s.clockOf d).getD d 0 + 1), (List.range 5).filter (fun e => e != d), [], client⟩] ∧
    (4 ≤ d → u.mem = (s.writeMemCells cs).mem)) ∧
  (∀ (a b : List Nat), covers a b = true ↔ ∀ i < 5, b.getD i 0 ≤ a.getD i 0) ∧
  (∀ clk u, u.src < 5 → (canApply clk u = true ↔ u.clock.getD u.src 0 = clk.getD u.src 0 + 1 ∧ ∀ i < 5, i ≠ u.src → u.clock.getD i 0 ≤ clk.getD i 0))

/-- Translation. An answer of an LDF, AMO or CAS waits while its route is down, its tile asleep or its die behind the clock it owes; else its register is written and it is
over, or UECC is raised when it met an uncorrectable word. A query joins those that have arrived at its home slice; the first of them is
answered from its entries, but by none a die further on with an invalidation may not take, or walks the tables; a leaf found is installed
at the home and carried to its backup, whose word comes back before the answer goes; the answer, carried to the tile, puts the translation
into its micro-TLB, and one an invalidation has overtaken is asked for again; none parks the access with a
page request, and a bad table warns as well. A die takes its step of an invalidation, its matching entries gone and its walks begun again,
and acknowledges it once no access under way uses the old translation. An answer that has not come 2^24 ticks after issue ends its
operation faulted (R81, R87, R88, R90, R169, R297, R319). The walk's root check, the slice as a list and the page a warning names are the
model's (DEDUCED: log 56, 57; PRESUMED: log 55, 64), as is the age limit of log 61. -/
def Obligations.TranslationEvents : Prop :=
  (∀ (e : Instr) k (s : State), e = .ldfReturn k ∨ e = .atomicReturn k →
    ((s.ops.find? fun o => o.id == k && o.left == 0) = none → exec e s = .next s) ∧
    (∀ o, (s.ops.find? fun o => o.id == k && o.left == 0) = some o →
      let down := ∃ x pa, s.extent o.tile (extIndex o.e) = some x ∧ o.pa = some pa ∧ x.cls ≠ 1 ∧ s.routeOf x pa ∈ s.iod.down
      let waits := down ∨ s.asleep o.tile = true ∨ covers (s.die (dieOf o.tile)).clock o.clock = false
      let u := { (s.opValue o).1 with ops := (s.opValue o).1.ops.filter fun (x : HoldOp) => x.id != k }
      (waits → ∃ e', (e' = .ldfReturn k ∨ e' = .atomicReturn k) ∧ exec e s = .next (s.later e')) ∧
      (∀ a, ¬ waits → s.opErr o = some a → exec e s = .next (State.spend (State.farFault
        { s with ops := s.ops.filter fun (x : HoldOp) => x.id != k } o.tile 0x09 s.anyInfo (BitVec.ofNat 64 a)))) ∧
      (¬ waits → s.opErr o = none → o.result = none → exec e s = .next u) ∧
      (∀ r, ¬ waits → s.opErr o = none → o.result = some r → exec e s = .next (u.updTile o.tile fun x =>
        let st := x.stream o.ctx
        let v : Result := { r with value := (s.opValue o).2.setWidth 2048 }
        x.setStream o.ctx { st with
          regs := st.regs.land v (o.ctx == .handler)
          ck := st.ck.map fun k => if k.ops.contains o.id then { k with inflight := k.inflight ++ [v] } else k })))) ∧
  (∀ (s : State) o x pa, s.extent o.tile (extIndex o.e) = some x → o.pa = some pa → x.cls = 1 →
    s.opValue o = (s, ((o.result.map Result.value).getD 0).setWidth 64) ∧ s.opErr o = o.err) ∧
  (∀ (s : State) o x pa, s.extent o.tile (extIndex o.e) = some x → o.pa = some pa → x.cls = 2 →
    s.opErr o = badWord s.perr pa o.kind.width ∧
    (o.kind = .ldf → s.opValue o = (s, BitVec.ofNat 64 (readN s.pool pa 8))) ∧
    (∀ cas op wide b c, o.kind = .atomic cas op wide b c →
      let old : W64 := BitVec.ofNat 64 (readN s.pool pa (if wide = true then 8 else 4))
      s.opValue o = (if atomicSets cas wide old c = true then s.writePool (amoCells pa wide (atomicNew cas op wide old b c)) else s, old))) ∧
  (∀ (s : State) o x pa, s.extent o.tile (extIndex o.e) = some x → o.pa = some pa → x.cls = 3 →
    s.opErr o = peerBad x.peer pa o.kind.width s.nfree) ∧
  (∀ k s, (s.ops.find? fun o => o.id == k && !o.isRange) = none → exec (.farAnswerTimeout k) s = .next s) ∧
  (∀ k s o, (s.ops.find? fun o => o.id == k && !o.isRange) = some o → exec (.farAnswerTimeout k) s =
    .next (if o.issued + 2 ^ 24 ≤ s.ptime.toNat then s.faultOp o 1 else s)) ∧
  (∀ (s : State) o rsn, s.faultOp o rsn = (State.updTile { s with ops := s.ops.filter fun (x : HoldOp) => x.id != o.id } o.tile fun x =>
    { x with after := x.after ++ [⟨0x16, 0, BitVec.ofNat 8 (rsn * 64), farAddr o.e o.kind.code (extOffset o.e), true, false⟩] })) ∧
  (∀ q s, (s.queries.find? fun y => y.id == q) = none → exec (.tlbQuery q) s = .next s) ∧
  (∀ q s y, (s.queries.find? fun y => y.id == q) = some y → y.leg = .asks →
    let u := s.arriveQuery y
    let h := y.home
    let first := ∃ z, u.queryAt h = some z ∧ z.id = q
    y.id = q ∧ (¬ first ∨ (u.walks.any fun w => w.q.id == q) = true → exec (.tlbQuery q) s = .next u) ∧
    (first → (u.walks.any fun w => w.q.id == q) = false → exec (.tlbQuery q) s = .next
      (match (u.tlbAt h).find? fun e => e.maps y.asid y.va && !u.stale h.1 y.client e with
        | some e => u.sendAnswer y (some e)
        | none => (State.fresh { u with walks := u.walks ++ [⟨u.nextId, y, h.1, h.2⟩] }).later (.tlbWalkDone u.nextId)))) ∧
  (∀ q s y e, (s.queries.find? fun y => y.id == q) = some y → y.leg = .copies e →
    (s.backupOf e.asid y.va = none → exec (.tlbQuery q) s = .next (s.sendAnswer y (some e))) ∧
    ∀ b, s.backupOf e.asid y.va = some b → exec (.tlbQuery q) s = .next
      ((State.setLeg (if s.staleAt y.home.1 b.1 e = true then s else s.installAt b e) y (.copied e)).carry b.1 b.2 y.home.1 y.home.2 (.tlbQuery q))) ∧
  (∀ q s y, (s.queries.find? fun y => y.id == q) = some y →
    (∀ e, y.leg = .copied e → exec (.tlbQuery q) s = .next (s.sendAnswer y (some e))) ∧
    (∀ x, y.leg = .answers x → exec (.tlbQuery q) s =
      .next (if x.any (s.stale y.home.1 y.client) = true then s.askAgain y else s.tlbAnswer y x)) ∧
    (y.leg = .again → exec (.tlbQuery q) s = .next (s.askAgain y))) ∧
  (∀ (s : State) y x t, y.client.tile = some t →
    s.sendAnswer y x = ((s.setLeg y (.answers x)).carry y.home.1 y.home.2 (dieOf t) (nodeOf t) (.tlbQuery y.id)).nextQuery y.home ∧
    s.askAgain y = State.ask { s with queries := s.queries.filter fun (z : TlbQ) => z.id != y.id } t y.asid y.va y.client) ∧
  (∀ (s : State) y, y.here = false →
    s.arriveQuery y = { s with queries := (s.queries.filter fun (x : TlbQ) => x.id != y.id) ++ [{ y with here := true }] }) ∧
  (∀ (s : State) y e t k, y.client = .stream t k →
    s.tlbAnswer y (some e) = (State.installTile { s with queries := s.queries.filter fun (x : TlbQ) => x.id != y.id } t e).opStep k) ∧
  (∀ (s : State) y e t slot sec half c, y.client = .copy t slot sec half →
    let u := State.installTile { s with queries := s.queries.filter fun (x : TlbQ) => x.id != y.id } t e
    u.copyAt t slot = some c → s.tlbAnswer y (some e) = u.now (.copyIssue t c.cls)) ∧
  (∀ (s : State) y t k o, y.client = .stream t k → (s.ops.find? fun o => o.id == k) = some o →
    let u := State.updOp { s with queries := s.queries.filter fun (x : TlbQ) => x.id != y.id } k fun o => { o with parked := some y.va }
    s.tlbAnswer y none = u.pageReq t (if o.kind.code = 1 then 64 else 65) (o.kind.code == 2) y.va) ∧
  (∀ w s, (s.walks.find? fun x => x.id == w) = none → exec (.tlbWalkDone w) s = .next s) ∧
  (∀ w s x, (s.walks.find? fun x => x.id == w) = some x →
    let u := { s with walks := s.walks.filter fun (y : Walk) => y.id != w }
    (∀ l n, u.walk x.die x.q.asid x.q.va = .leaf l n →
      let e : TlbEntry := ⟨x.q.asid, if n = 1 then x.q.va / 2 ^ 26 * 1024 else x.q.va / 65536, n == 1, l⟩
      exec (.tlbWalkDone w) s = .next (u.installHome x.q e)) ∧
    (u.walk x.die x.q.asid x.q.va = .none → exec (.tlbWalkDone w) s = .next (u.sendAnswer x.q none)) ∧
    (∀ level pa, u.walk x.die x.q.asid x.q.va = .bad level pa → ∃ r : EvRec,
      r.info = 0x03 ∧ r.asid = x.q.asid ∧ r.mask = BitVec.ofNat 8 level ∧ r.addr = BitVec.ofNat 64 pa ∧
      exec (.tlbWalkDone w) s = .next ((u.post r).spend.sendAnswer x.q none))) ∧
  (∀ (s : State) y x, let u := s.installAt y.home x
    (u.backupOf x.asid y.va = none → s.installHome y x = u.sendAnswer y (some x)) ∧
    ∀ b, u.backupOf x.asid y.va = some b →
      s.installHome y x = (u.setLeg y (.copies x)).carry y.home.1 y.home.2 b.1 b.2 (.tlbQuery y.id)) ∧
  (∀ n d s, (s.iod.invals.find? fun x => x.id == n && x.acks.getLsbD d.toNat) = none → exec (.tlbinvAck n d) s = .next s) ∧
  (∀ n d s x, (s.iod.invals.find? fun x => x.id == n && x.acks.getLsbD d.toNat) = some x →
    let u := s.invalStep x d.toNat
    exec (.tlbinvAck n d) s = .next
      (if ((u.iod.invals.find? fun y => y.id == n).any fun y => u.invalWaits y d.toNat) = true then u.later (.tlbinvAck n d)
       else u.invalAck n d.toNat)) ∧
  (∀ (s : State) x d, x.stepped.getLsbD d = true → s.invalStep x d = s) ∧
  (∀ (s : State) x d e, s.Canon → d < 4 → (s.iod.invals.find? fun y => y.id == x.id) = some x → x.stepped.getLsbD d = false → x.hits e = true →
    SMap.wf [] (s.die d).tlb = true →
    let u := s.invalStep x d
    (∀ h, e ∉ u.tlbAt (d, h)) ∧ (∀ t, dieOf t = d → e ∉ (u.tile t).far.utlb) ∧
    ∃ y, (u.iod.invals.find? fun y => y.id == x.id) = some y ∧ y.stepped = (x.stepped ||| BitVec.twoPow 4 d))

/-! ## Far copies -/

/-- A copy's way through the FAR engine: the first record with copies left puts its next one into the lowest free slot and its class
queue; the head of a class queue leaves it, once every page of it translates, and none of a parked launch does; a copy over a route that
was not restored, and one with no event for 2^24 ticks, ends faulted at its first byte there, or at its first sector not yet visible
(R283, R284, R294, R296, R302). The release and visibility of a copy's sectors: the sector of the source is read, as it was before this
tick's writes, which decrements the release basin; then it is made visible, which frees what is finished and decrements the visibility
basin. A scratchpad access waits for its port, is held against the FAR set of the phase, and a source with an uncorrectable error ends the
copy; a copy to memory and one from it differ in which side is the scratchpad; a memory side that does not begin on a sector's boundary
takes each sector in two parts (R144, R188, R287, R291, R292, R293, R297). Which sets an FGO's copy counts against and the age limit are
the model's reading (DEDUCED: log 61, 76, 77), and what a peer answers, its errors too, is a free value (DESIGN CHOICE: log 13). -/
def Obligations.Copies : Prop :=
  ((∀ t s, (∀ r ∈ (s.tile t).far.recs, ¬ r.next < r.total) ∨ (s.tile t).far.freeSlot = none → exec (.copyExpansion t) s = .next s) ∧
  (∀ t s r slot, ((s.tile t).far.recs.find? fun r => decide (r.next < r.total)) = some r → (s.tile t).far.freeSlot = some slot →
    let n := s.nextCopy t r
    (32 ≤ (s.tile t).far.queueLen n.1 → exec (.copyExpansion t) s = .next s) ∧
    ((s.tile t).far.queueLen n.1 < 32 → ∃ g : FarEngine → FarEngine, exec (.copyExpansion t) s = .next (s.updFar t g) ∧
      ∀ x : FarEngine, (g x).copies = x.copies ++
          [{ slot := slot, rec_ := r.id, cls := n.1, index := r.next, e := n.2.2.1, spad := n.2.1, toMem := n.2.2.2.2, size := n.2.2.2.1,
             st := .queued, pas := [], data := [], parts := [], errs := [], relDone := [], visDone := [], last := s.ptime.toNat, via := [] }] ∧
        (g x).recs = x.recs.map fun y => if y.id = r.id then { y with next := y.next + 1, first := some (y.first.getD slot) } else y)) ∧
  (∀ t cls s, s.asleep t = true ∨ ((s.tile t).far.copies.find? fun c => c.cls == cls && c.st == .queued) = none →
    exec (.copyIssue t cls) s = .next s) ∧
  (∀ t cls s c, s.asleep t = false → ((s.tile t).far.copies.find? fun c => c.cls == cls && c.st == .queued) = some c →
    (∀ r, s.recOf t c = some r → r.kind ≠ .fgo) → exec (.copyIssue t cls) s =
      .next (s.updFar t fun f => f.updCopy c.slot fun c => { c with st := .issued })) ∧
  (∀ t cls s c r, s.asleep t = false → ((s.tile t).far.copies.find? fun c => c.cls == cls && c.st == .queued) = some c →
    s.recOf t c = some r → r.kind = .fgo →
    (s.extent t (extIndex c.e) = none → exec (.copyIssue t cls) s = .next s) ∧
    (∀ x, s.extent t (extIndex c.e) = some x → x.cls = 1 →
      let pa := fun (o : Nat) => (s.cachedPA t (extIndex c.e) o).getD 0
      exec (.copyIssue t cls) s = .next (s.startCopy t c x ((List.range (c.size / 64)).map fun i =>
        (pa (extOffset c.e + 64 * i), pa (extOffset c.e + 64 * i + if c.shift = 0 then 0 else 64 - c.shift))))) ∧
    (∀ x, s.extent t (extIndex c.e) = some x → x.cls ≠ 1 → exec (.copyIssue t cls) s = .next (match s.copyPages t c x with
      | .inr pas => ((s.routeAt { c with pas := pas } x s.iod.lost.contains).map fun o => s.faultCopy t c 3 o).getD (s.startCopy t c x pas)
      | .inl (va, true) => s.faultCopy t c 0 (va - (x.vbase + extOffset c.e))
      | .inl (va, false) => s.ask t (s.entry (s.tile t).lte).asid va (.copy t c.slot 0 0)))) ∧
  (∀ (c : Copy) sec i, i < 64 → c.byteAt sec i =
    if i < 64 - c.e.toNat % 64 then (c.pas.getD sec (0, 0)).1 + i else (c.pas.getD sec (0, 0)).2 + (i - (64 - c.e.toNat % 64))) ∧
  (∀ (s : State) t c rsn o r, s.recOf t c = some r → s.faultCopy t c rsn o = (s.cancelRec t r).updTile t fun x =>
    { x with after := x.after ++ [⟨0x16, 0, BitVec.ofNat 8 (rsn * 64 + c.slot), BitVec.ofNat 64 (c.e.toNat + o), true, false⟩] }) ∧
  (∀ t slot s, s.copyAt t slot.toNat = none → exec (.copyAgeTimeout t slot) s = .next s) ∧
  (∀ t slot s c, s.copyAt t slot.toNat = some c → exec (.copyAgeTimeout t slot) s = .next
    (if c.last + 2 ^ 24 ≤ s.ptime.toNat then
       s.faultCopy t c 1 (64 * ((List.range (c.size / 64)).find? fun i => !SMap.get false c.visDone i).getD 0) else s))) ∧
  (∀ (t : Nat) (slot : BitVec 6) (sec : Nat) (s : State),
    (s.copyAt t slot.toNat = none → exec (.releaseEvent t slot sec) s = .next s ∧ exec (.visibilityEvent t slot sec) s = .next s) ∧
    (∀ c, s.copyAt t slot.toNat = some c → s.recOf t c = none ∨ s.extent t (extIndex c.e) = none →
      exec (.releaseEvent t slot sec) s = .next s ∧ exec (.visibilityEvent t slot sec) s = .next s) ∧
    (∀ c r x, s.copyAt t slot.toNat = some c → s.recOf t c = some r → s.extent t (extIndex c.e) = some x →
      let a := c.spad + 64 * sec
      let rel := SMap.get false c.relDone sec
      let vis := SMap.get false c.visDone sec
      let waits := s.asleep t = true ∨ s.copyDown t c = true
      let clk := fun (u : State) => (u.die (dieOf t)).clock
      let bad := ((c.pieces sec).findSome? fun p => if x.cls = 2 then badWord s.perr p.2.1 p.2.2.2
        else if x.cls = 3 then peerBad x.peer p.2.1 p.2.2.2 s.nfree else none) <|> c.errAt sec
      (c.st ≠ .issued ∨ rel = true → exec (.releaseEvent t slot sec) s = .next s) ∧
      (c.st ≠ .issued ∨ rel = false ∨ vis = true → exec (.visibilityEvent t slot sec) s = .next s) ∧
      (c.st = .issued → rel = false → waits → exec (.releaseEvent t slot sec) s = .next (s.later (.releaseEvent t slot sec))) ∧
      (c.st = .issued → rel = true → vis = false → waits →
        exec (.visibilityEvent t slot sec) s = .next (s.later (.visibilityEvent t slot sec))) ∧
      (c.st = .issued → rel = false → ¬ waits → c.toMem = true →
        let u := ((s.takeAsync t (a / 256) false).updTile t fun y => y.scrub (a / 256)).doneSector t slot.toNat sec false
        exec (.releaseEvent t slot sec) s = .next
          (if s.portTaken t (a / 256) false = true then s.after 1 (.releaseEvent t slot sec)
           else match s.farSet t r a false with
             | some i => s.endCopy t c 0x06 i (BitVec.ofNat 64 a)
             | none => if (s.tile t).before.uecc a 64 = true then
                 s.ueccCopy t c ((((s.tile t).before.ueccSector a).map (BitVec.ofNat 64)).getD s.anyAddr) (r.cmd.hm && decide (a < 0x10000))
               else (u.decrement t r.cmd.rel true 1 0 (clk u)).sendSector t c x sec (readBytes (s.tile t).still.spad a 64))) ∧
      (∀ b, c.st = .issued → rel = false → ¬ waits → c.toMem = false → bad = some b →
        exec (.releaseEvent t slot sec) s = .next (s.ueccCopy t c (BitVec.ofNat 64 b) false)) ∧
      (c.st = .issued → rel = false → ¬ waits → c.toMem = false → bad = none →
        let v : BitVec 512 := if x.cls = 2 then BitVec.ofNat 512 (ofBytes ((c.pieces sec).flatMap fun p => readBytes s.pool p.2.1 p.2.2.2))
          else if x.cls = 3 then Config.peerData x.peer (c.byteAt sec 0) s.nfree else SMap.get 0 c.data sec
        let u := ((s.updFar t fun f => f.updCopy c.slot fun c => { c with data := SMap.set 0 c.data sec v }).doneSector
          t slot.toNat sec false).spend
        exec (.releaseEvent t slot sec) s = .next ((u.decrement t r.cmd.rel true 1 0 (clk u)).later (.visibilityEvent t slot sec))) ∧
      (c.st = .issued → rel = true → vis = false → ¬ waits → c.toMem = true →
        let w := if x.cls = 2 then s.writePool ((toBytes 64 (SMap.get 0 c.data sec).toNat).zipIdx.map fun b => (c.byteAt sec b.2, b.1)) else s
        let u := (w.doneSector t slot.toNat sec true).finishCopy t slot.toNat
        exec (.visibilityEvent t slot sec) s = .next (u.decrement t r.cmd.vis true 1 0
          (if x.cls = 1 ∧ x.coh = 2 ∧ 3 ≤ r.cmd.sc.toNat then u.iod.clock else clk u))) ∧
      (c.st = .issued → rel = true → vis = false → ¬ waits → c.toMem = false →
        let tag := s.farTag t r.cmd.ls
        let u := ((s.landSector t a (SMap.get 0 c.data sec) tag (c.lastOfLine sec)).doneSector t slot.toNat sec true).finishCopy
          t slot.toNat
        exec (.visibilityEvent t slot sec) s = .next
          (if s.portTaken t (a / 256) true = true then s.after 1 (.visibilityEvent t slot sec)
           else match s.farSet t r a true with
             | some i => s.endCopy t c 0x06 i (BitVec.ofNat 64 a)
             | none => u.decrement t r.cmd.vis true 1 tag (clk u)))))

/-- FSIG and FRED in their engine, decrements from afar and accesses of peers: a signal applies its count once what it comes after is
done; a reduction reads its chunk, a line whose port is free at a time, each held against the FAR set and checked for an uncorrectable
word, and sends the contribution when all of it is read, and each result sector lands over the chunk; a decrement is applied once the
die's clock covers the one it carries, the I/O die's for one from another package, and one of no running launch or no tile is dropped, the
latter with a warning, and one of count 0 is the error mark of a copy that ended elsewhere; an access of another package waits while a write of the I/O die waits for a queue, and is then applied here and
acknowledged (R188, R192, R197, R278, R298, R299, R318, R320, R334, R335, R409). What a peer answers is a free value (DESIGN CHOICE:
log 13); a decrement of a parked launch waits (DEDUCED: log 66); that a peer's access is applied whole on the tick it arrives, and the form
in which a decrement comes in from outside, are the model's reading (DEDUCED: log 91), as is that a reduction waits for copies alone
(DEDUCED: log 39). -/
def Obligations.FarServices : Prop :=
  (∀ t slot s c r n, s.copyAt t slot.toNat = some c → s.recOf t c = some r → r.kind = .fsig n →
    let u := (s.freeSlot t slot.toNat).updFar t FarEngine.tidy
    exec (.fsigApply t slot) s = .next
      (if c.st = .issued ∧ s.afterDone t r = true then u.decrement t r.cmd.vis false n 0 (u.die (dieOf t)).clock else s)) ∧
  (∀ t slot s, s.copyAt t slot.toNat = none → exec (.fsigApply t slot) s = .next s ∧ exec (.fredSend t slot) s = .next s ∧
    ∀ sec d, exec (.fredResultSector t slot sec d) s = .next s) ∧
  (∀ t slot s c r len grp count rank chunk op, s.copyAt t slot.toNat = some c → s.recOf t c = some r →
    r.kind = .fred len grp count rank chunk op →
    let ready := c.st = .issued ∧ c.relDone.length < len ∧ s.afterDone t r = true
    let a := c.unread.foldl (State.readChunk t r c) (s, true)
    let u := a.1
    (¬ ready → exec (.fredSend t slot) s = .next s) ∧
    (ready → a.2 = false ∨ u.copyAt t slot.toNat = none → exec (.fredSend t slot) s = .next u) ∧
    (∀ k, ready → a.2 = true → u.copyAt t slot.toNat = some k → k.relDone.length < len → exec (.fredSend t slot) s = .next u) ∧
    (∀ k, ready → a.2 = true → u.copyAt t slot.toNat = some k → len ≤ k.relDone.length →
      let job := (u.entry (u.tile t).lte).job
      let g : BitVec 16 := BitVec.ofNat 16 grp
      let n := fredKey job g rank
      let con : Contribution :=
        { job := job, grp := g, round := SMap.get 0 u.fredNo n, rank := rank, count := count, len := len, op := op,
          data := (List.range len).flatMap fun i => toBytes 64 (SMap.get 0 k.data i).toNat, tile := some (t, slot) }
      let v := { u with fredNo := SMap.upd 0 u.fredNo n (· + 1) }
      exec (.fredSend t slot) s =
        .next (((v.after v.delay .contributionArrival (.contribution con)).spend).say (.contribution con)))) ∧
  (∀ t r c (s : State) ln (is : List Nat),
    let at_ := fun (i : Nat) => c.spad + 64 * i
    let hit := is.findSome? fun i => (s.farSet t r (at_ i) false).map fun f => (f, at_ i)
    let y := (s.tile t).before
    (State.readChunk t r c (s, false) (ln, is) = (s, false)) ∧
    (s.portTaken t ln false = true → State.readChunk t r c (s, true) (ln, is) = (s, true)) ∧
    (∀ i a, s.portTaken t ln false = false → hit = some (i, a) →
      State.readChunk t r c (s, true) (ln, is) = (s.endCopy t c 0x06 i (BitVec.ofNat 64 a), false)) ∧
    (∀ i, s.portTaken t ln false = false → hit = none → (is.find? fun i => y.uecc (at_ i) 64) = some i →
      State.readChunk t r c (s, true) (ln, is) =
        (s.ueccCopy t c (((y.ueccSector (at_ i)).map (BitVec.ofNat 64)).getD s.anyAddr) (r.cmd.hm && decide (at_ i < 0x10000)), false)) ∧
    (s.portTaken t ln false = false → hit = none → (is.find? fun i => y.uecc (at_ i) 64) = none →
      State.readChunk t r c (s, true) (ln, is) = (is.foldl (fun s i =>
        (s.updFar t fun f => f.updCopy c.slot fun c => { c with
          data := SMap.set 0 c.data i (BitVec.ofNat 512 (ofBytes (readBytes y.spad (at_ i) 64))) }).doneSector t c.slot i false)
        ((s.takeAsync t ln false).updTile t fun y => y.scrub ln), true))) ∧
  (∀ t slot sec d s c r len grp count rank chunk op, s.copyAt t slot.toNat = some c → s.recOf t c = some r →
    r.kind = .fred len grp count rank chunk op →
    let a := chunk + 64 * sec
    let tag := s.farTag t (BitVec.ofNat 8 grp)
    let u := ((s.landSector t a d tag (c.lastOfLine sec)).doneSector t slot.toNat sec true).finishCopy t slot.toNat
    exec (.fredResultSector t slot sec d) s = .next
      (if SMap.get false c.visDone sec = true then s
       else if s.asleep t = true ∨ s.portTaken t (a / 256) true = true then s.after 1 (.fredResultSector t slot sec d)
       else match s.farSet t r a true with
         | some i => s.endCopy t c 0x06 i (BitVec.ofNat 64 a)
         | none => u.decrement t r.cmd.vis true 1 tag (u.die (dieOf t)).clock)) ∧
  (∀ job b sectors count tag clock s, (s.entries.find? fun e => e.2.job == job && (e.2.st == .running || e.2.st == .parked)) = none →
    exec (.remoteDecrement job b sectors count tag clock) s = .next s) ∧
  (∀ job b sectors count tag clock s e, (s.entries.find? fun e => e.2.job == job && (e.2.st == .running || e.2.st == .parked)) = some e →
    let lt := field b.toNat 39 9
    let a := b.toNat % 2 ^ 22
    let clk := if s.ext = .fabric then s.iod.clock else clock
    exec (.remoteDecrement job b sectors count tag clock) s = .next (match s.physTile (BitVec.ofNat 8 e.1) lt with
      | none => s.warn 4 0x06 (BitVec.ofNat 8 e.1) (BitVec.ofNat 9 lt) (BitVec.ofNat 64 a)
      | some u =>
        if s.asleep u = false ∧ covers (s.die (dieOf u)).clock clk = true then
          s.updTile u fun x => x.queueBasin 4 a (if sectors = true then .sector tag else if count = 0 then .err else .arrive count)
        else s.later (.remoteDecrement job b sectors count tag clk))) ∧
  (∀ s, s.writerWaits 4 = true → exec .peerAccessArrival s = .next (s.after s.delay .peerAccessArrival s.ext).spend) ∧
  (∀ s, s.writerWaits 4 = false → (∀ p, s.ext ≠ .peer p) → exec .peerAccessArrival s = .next s) ∧
  (∀ s pool pa data, s.writerWaits 4 = false → s.ext = .peer (.write pool pa data) →
    let cs := data.zipIdx.map fun b => (pa + b.2, b.1)
    exec .peerAccessArrival s = .next
      ((if pool = true then (s.writePool cs).causalWrite 4 [] .nobody
        else if s.causalPA pa = true then s.causalWrite 4 cs .nobody else s.writeMemCells cs).say (.peerAnswer []))) ∧
  (∀ s pool pa n, s.writerWaits 4 = false → s.ext = .peer (.read pool pa n) →
    exec .peerAccessArrival s = .next (s.say (.peerAnswer (if (badWord (if pool = true then s.perr else s.merr) pa n).isSome = true then []
      else readBytes (if pool = true then s.pool else s.mem) pa n)))) ∧
  (∀ s pa wide (g : W64 → Option W64), s.writerWaits 4 = false →
    (∃ op b, s.ext = .peer (.amo pa op wide b) ∧ g = fun old => some (atomicNew false op wide old b 0)) ∨
    (∃ b c, s.ext = .peer (.cas pa wide b c) ∧ g = fun old => if atomicSets true wide old c = true then some (atomicNew true 0 wide old b c) else none) →
    let n := if wide = true then 8 else 4
    let old := readN s.mem pa n
    exec .peerAccessArrival s = .next
      (if (badWord s.merr pa n).isSome = true then s.say (.peerAnswer [])
       else ((g (BitVec.ofNat 64 old)).elim s fun v => s.ioWrite pa (amoCells pa wide v)).say (.peerAnswer (toBytes n old))))

/-! ## Holds, power, parking and snapshots -/

/-- Holds of a whole job, stretches and the supersteps. A region leaves its RDV on its target tick, and the launch's first to leave
measures the superstep: each die asks for the least multiple of 1,024 ticks that brings its energy within its limit, 2^20 at most, and the
largest goes up the tree. A notice gives each launch of its job an amount that targets from 131,072 ticks on move by; amounts of one kind
take their largest and kinds add, a thermal hold of the package's own counting with the overruns. An overrun in time is no overrun; one that is holds the job, with a record; a job hold begins on its
tick and ends after its length, or with the notice of its release, which starts the job's tasks again. The sensors
are compared every 1,024 ticks: one above the limit holds the package from the next tick until all are 5 degrees below it, 16,384 ticks at
least, each region its stagger later, with a record on the hold's first tick (R24, R71, R72, R95, R325, R375 to R377, R379 to R381, R384,
R385). How
an amount moves a target, and which writes an RDV orders, is the model's reading (DEDUCED: log 69, 111, 115), what the
sensors read comes from outside (DESIGN CHOICE: log 120); a die's energy is a free value
(DESIGN CHOICE: log 12). -/
def Obligations.HoldsAndNotices : Prop :=
  (∀ r s, (s.region r).rdv = none → exec (.rdvLeave r) s = .next s) ∧
  (∀ r s t, (s.region r).rdv = some t → s.ptime.toNat < t ∨ (s.region r).runs = false → exec (.rdvLeave r) s = .next s) ∧
  (∀ r s t, (s.region r).rdv = some t → t ≤ s.ptime.toNat → (s.region r).runs = true →
    let u := (s.meetClocks r t).updRegion r fun y => { y with rdv := none, exch := some (t, y.rtime) }
    exec (.rdvLeave r) s = .next (if (u.entry (s.region r).entry).lastRdv = some t then u else u.superstep (s.region r).entry t)) ∧
  (∀ (s : State) e t, (s.entry e).lastRdv = none → s.superstep e t = s.updEntry e fun y => { y with lastRdv := some t }) ∧
  (∀ (s : State) e t t0, (s.entry e).lastRdv = some t0 →
    let u := (List.range 4).foldl (fun s d => s.updDie d fun y => { y with estep := Config.energy d t0 t })
      (s.updEntry e fun y => { y with lastRdv := some t })
    let ask := ((List.range 4).map fun d => stretchOf (u.die d).plim.toNat (u.die d).estep.toNat (t - t0)).foldl max 0
    s.superstep e t = if ask = 0 then u else u.say (.stretch (s.entry e).job ask)) ∧
  (∀ plim energy span : Nat, let x := stretchOf plim energy span
    (plim = 0 ∨ energy * 800 ≤ plim * span → x = 0) ∧
    (plim ≠ 0 → x % 1024 = 0 ∧ x ≤ 2 ^ 20 ∧ (x = 2 ^ 20 ∨ energy * 800 ≤ plim * (span + x)) ∧
      ∀ y, y % 1024 = 0 → energy * 800 ≤ plim * (span + y) → x ≤ y)) ∧
  (∀ (s : State) job tick kind, s.amount job tick kind 0 = s) ∧
  (∀ (s : State) job tick kind n, n ≠ 0 → s.amount job tick kind n = (s.jobEntries job).foldl (fun s e =>
    (s.updEntry e fun x => { x with waitTb := x.waitTb ++ [(tick + 131072, kind, n)] }).meetWaiting e (tick + 131072)) s) ∧
  (∀ (s : State) e tb, (∀ k ∈ s.keysOf e, ∀ t, (s.region k).rdv = some t → t < tb) → s.meetWaiting e tb = s) ∧
  (∀ (x : Entry) t base own,
    let largest := fun (k : Nat) => ((x.waitTb.filter fun w => decide (w.1 ≤ base)).filter fun w => w.2.1 == k).foldl (fun m w => max m w.2.2) 0
    let now := largest 0 + largest 2 + largest 3 + largest 4
    let late := largest 1 - largest 4
    let y := (x.meets t base own).2
    (x.meets t base own).1 = now ∧ y.pstr = x.pstr + (own + now + late) ∧ y.waitTb = x.waitTb.filter fun w => decide (base < w.1)) ∧
  (∀ e s, e = .stretchResult ∨ e = .displacementNotice ∨ e = .flitRetry ∨ e = .overrunNotice ∨ e = .jobHoldNotice ∨
    e = .jobReleaseNotice → (∀ n, s.ext ≠ .notice n) → exec e s = .next s) ∧
  (∀ s n, s.ext = .notice n →
    let u := (s.jobEntries n.job).foldl (fun s e => (s.packageCause 4 e 0x22 s.anyInfo s.anyAddr).spend) s
    let v := { s with jobHolds := s.jobHolds.filter fun h => !(h.job == n.job && h.open_) }
    exec .stretchResult s = .next (s.amount n.job n.tick 0 n.amount) ∧
    exec .displacementNotice s = .next (s.amount n.job n.tick (if n.inTime = true then 2 else 3) n.amount) ∧
    exec .flitRetry s = .next (if n.inTime = true then s else (s.after s.delay .overrunNotice (.notice n)).spend) ∧
    exec .overrunNotice s = .next ((u.addJobHold n.job n.tick n.amount false).amount n.job n.tick 1 n.amount) ∧
    exec .jobHoldNotice s = .next (s.addJobHold n.job n.tick 0 true) ∧
    exec .jobReleaseNotice s = .next (((v.jobEntries n.job).filter fun e => (v.entry e).st == .running || (v.entry e).st == .parked).foldl
      (fun s e => (s.requeue e (max n.tick s.ptime.toNat)).save e []) v)) ∧
  (∀ (s : State) job dt hl opened,
    let tb := (((s.jobEntries job).filterMap fun e => s.waitedFrom e (dt + 131072)).map fun x => x.1).min?
    let u := { s with jobHolds := s.jobHolds ++ [{ job := job, tb := tb, dt := dt, hl := hl, until_ := none, open_ := opened, active := false }] }
    s.addJobHold job dt hl opened = tb.elim u fun t => u.after (t - u.ptime.toNat) (.jobHoldBegin job)) ∧
  (∀ (s : State) e k, let stays := (s.entry e).saving = true ∨ (s.entry e).st = .parked
    let y := fun (r : Region) => r.requeue k (s.parkedPages e)
    s.requeue e k = (s.discard e).mapRegions fun _ r =>
      if r.entry = e then (if stays then { y r with st := (y r).st.freeze } else y r) else r) ∧
  (∀ (r : Region) k ps, (r.busy = true → (r.requeue k ps).st = .waiting k ∧ (r.requeue k ps).awaits = ps ∧ (r.requeue k ps).seq = r.seq ∧
      (r.requeue k ps).restart = some k ∧ (r.requeue k ps).rdv = none) ∧
    (r.busy = false → r.requeue k ps = { r with st := r.st.thaw })) ∧
  (∀ (s : State) (job : BitVec 32), let now := s.ptime.toNat
    let due := s.jobHolds.filter fun h => h.job == job && !h.active && h.tb.any fun t => decide (t ≤ now)
    let hl := due.foldl (fun m h => if h.open_ = true then m else max m h.hl) 0
    let u := { s with jobHolds := s.jobHolds.map fun (h : JobHold) => if due.contains h = true then
      { h with active := true, until_ := if h.open_ = true then none else some (now + hl) } else h }
    exec (.jobHoldBegin job) s = .next (if hl = 0 then u else u.after hl (.jobHoldEnd job)) ∧
    exec (.jobHoldEnd job) s = .next { s with jobHolds := s.jobHolds.filter fun h =>
      !(h.job == job && h.active && h.until_.any fun t => decide (t ≤ now)) }) ∧
  (∀ s, exec .sensorRead s = .next (State.sensorTick (State.thermalNews (match s.ext with
    | .temps l => { s with iod := { s.iod with temps := l } }
    | _ => s)))) ∧
  (∀ s : State, (s.iod.hotNews = none ∨ s.iod.hot = none ∨ ∃ b, s.iod.hot = some b ∧ s.ptime.toNat < b) → s.thermalNews = s) ∧
  (∀ (s : State) b die top, s.iod.hotNews = some (die, top) → s.iod.hot = some b → b ≤ s.ptime.toNat →
    let u := { s with iod := { s.iod with hotNews := none } }
    ∃ r : EvRec, r.code = 0x1F ∧ r.ptime = s.ptime ∧ r.addr = BitVec.ofInt 64 top ∧ r.info = BitVec.ofNat 8 die ∧
      s.thermalNews = (u.packageAct 5 r).spend) ∧
  (∀ s : State, s.ptime.toNat % 1024 ≠ 0 → s.sensorTick = s) ∧
  (∀ s : State, s.ptime.toNat % 1024 = 0 → s.iod.hot = none → (∀ x ∈ s.iod.temps, x ≤ s.iod.temerg) → s.sensorTick = s) ∧
  (∀ s : State, s.ptime.toNat % 1024 = 0 → s.iod.hot = none → (∃ x ∈ s.iod.temps, s.iod.temerg < x) →
    s.sensorTick = State.after { s with iod := { s.iod with
      hot := some (s.ptime.toNat + 1), hotNews := some (firstAbove s.iod.temps s.iod.temerg, s.iod.temps.foldl max 0) } } 1 .sensorRead) ∧
  (∀ (s : State) b, s.ptime.toNat % 1024 = 0 → s.iod.hot = some b →
    s.ptime.toNat < b + 16384 ∨ (∃ x ∈ s.iod.temps, s.iod.temerg - 5 < x) → s.sensorTick = s) ∧
  (∀ (s : State) b, s.ptime.toNat % 1024 = 0 → s.iod.hot = some b → b + 16384 ≤ s.ptime.toNat →
    (∀ x ∈ s.iod.temps, x ≤ s.iod.temerg - 5) →
    let now := s.ptime.toNat
    let hl := (now + 1 - b + 1023) / 1024 * 1024
    let jobs := ((s.entries.filter fun e => e.2.st == .running).map fun e => e.2.job).dedup
    s.sensorTick = jobs.foldl (fun s j => (s.amount j now 4 hl).say (.overrun j now hl))
      { s with iod := { s.iod with hot := none, cooled := s.iod.cooled ++ [(b, now + 1)] } }) ∧
  (∀ (s : State) r, let late := (s.hdrOf (s.region r).entry).stagger * (s.region r).idx
    s.hotHeld r = true ↔ (∃ b, s.iod.hot = some b ∧ b + late ≤ s.ptime.toNat) ∨
      ∃ w ∈ s.iod.cooled, w.1 + late ≤ s.ptime.toNat ∧ s.ptime.toNat < w.2 + late)

/-- Routes, parking, snapshots and retirement: a route that goes down, and one still down after that, which ends what waits on it; an
invalidation not acknowledged in 2^20 ticks; the contexts saved, in the HBM slabs of their nodes, and restored, their copies to translate again and the next meeting at least 256 ticks
off; SNAPCMP; the
latch 64 ticks after its trigger; a tile that retires is DEAD, with a record, its job told, and a new placement looked for (R93, R296,
R302, R352, R370, R373 to R375, R382 to R384). A route that stays down and the saved context are the model's reading (DEDUCED: log 50, 62, 68), and the places of what is saved its choice (DESIGN CHOICE: log 125); which
latched values a FREE tile gets is its choice too (DESIGN CHOICE: log 114). -/
def Obligations.PackageEvents : Prop :=
  (∀ n d s, (s.iod.invals.find? fun x => x.id == n && x.acks.getLsbD d.toNat) = none → exec (.invalTimeout n d) s = .next s) ∧
  (∀ n d s x, (s.iod.invals.find? fun x => x.id == n && x.acks.getLsbD d.toNat) = some x → exec (.invalTimeout n d) s =
    .next (if x.tick + 2 ^ 20 ≤ s.ptime.toNat then
      s.packageCause 4 0xFF 0x23 (BitVec.ofNat 8 d.toNat) (x.frame.seq.setWidth 64) else s)) ∧
  (∀ route s, route ∉ s.iod.down → let u := s.packageCause 4 0xFF 0x21 s.anyInfo s.anyAddr
    exec (.linkDown route) s =
      .next (State.later { u.spend with iod := { u.spend.iod with down := route :: u.spend.iod.down } } (.linkDown route))) ∧
  (∀ route s, route ∈ s.iod.down →
    let hit := fun (t : Nat) (c : Copy) =>
      if (s.recOf t c).any fun r => r.kind == .fgo then (s.extent t (extIndex c.e)).bind fun x =>
        if x.cls = 1 then none else s.routeAt c x fun y => y == route
      else none
    let cs := s.tiles.flatMap fun p => p.2.far.copies.filterMap fun c => (hit p.1 c).map fun i => (p.1, c, i)
    let os := s.ops.filter fun o => (s.extent o.tile (extIndex o.e)).any fun x => x.cls != 1 &&
      (o.pa.any (fun pa => s.routeOf x pa == route) || (x.cls == 3 && route == .fabric x.peer))
    let u := cs.foldl (fun s c =>
      if (s.copyAt c.1 c.2.1.slot).any (fun y => y.rec_ == c.2.1.rec_) then s.faultCopy c.1 c.2.1 3 c.2.2 else s)
        { s with iod := { s.iod with lost := route :: s.iod.lost } }
    exec (.linkDown route) s = .next (os.foldl (fun s o => s.faultOp o 3) u)) ∧
  (∀ route s, exec (.linkRestored route) s = .next { s with
    iod := { s.iod with down := s.iod.down.filter fun r => r != route, lost := s.iod.lost.filter fun r => r != route }
    pending := s.pending.filter fun p => p.2.1 != .linkDown route }) ∧
  (∀ e s, (s.entry e).saving = false ∨ (s.entry e).st ≠ .running → exec (.contextSaveDone e) s = .next s) ∧
  (∀ e s, (s.entry e).saving = true → (s.entry e).st = .running →
    let ts := s.tilesOf e
    let moves := fun (t : Nat) (c : Copy) => c.cls != 0 && c.st == .issued && (s.recOf t c).any fun r => r.kind == .fgo
    let away := ts.flatMap fun t => ((s.tile t).far.copies.filter (moves t)).map fun c => (t, c.slot)
    let u := { s with pending := s.pending.filter fun p => !away.any fun a => stepOfSlot a.1 a.2 p.2.1 }
    let v := ts.foldl (fun s t => s.updFar t fun f => { f with
      copies := f.copies.map fun c => if moves t c then { c with st := .queued, pas := [], parts := [], errs := [], via := [] } else c }) u
    exec (.contextSaveDone e) s =
      .next (((ts.foldl State.writeContext v).save e (ts.map v.tile)).updEntry e fun y => { y with st := .parked, saving := false })) ∧
  (∀ e s, (s.entry e).st ≠ .parked → exec (.contextRestoreDone e) s = .next s) ∧
  (∀ e s, (s.entry e).st = .parked →
    let now := s.ptime.toNat
    let a := ((s.tilesOf e).zip (SMap.get [] s.saved e.toNat)).foldl (fun s p =>
      s.setTile p.1 (restoreTile (s.tile p.1) (s.readContext p.1 p.2))) s
    let b := ((a.save e []).requeuePaged e).mapRegions fun _ r => if r.entry = e then { r with st := r.st.thaw } else r
    let waits := (b.keysOf e).filterMap fun k => (b.region k).rdv
    let c := b.updEntry e fun y => { y with st := .running, saving := false }
    let d := resumeShift now (waits.tail.foldl min (waits.headD 0))
    (waits = [] → exec (.contextRestoreDone e) s = .next (c.updEntry e fun y => { y with restart := some now })) ∧
    (waits ≠ [] → d = 0 → exec (.contextRestoreDone e) s = .next c) ∧
    (waits ≠ [] → d ≠ 0 → exec (.contextRestoreDone e) s = .next
      ((((c.mapRegions fun _ r => if r.entry = e then { r with rdv := r.rdv.map (· + d) } else r).updEntry e fun y =>
        { y with applied := y.applied ++ [(0, false, d)], pstr := y.pstr + d }).noteMove (s.entry e).job
          (waits.tail.foldl min (waits.headD 0)) d).say (.displacement (s.entry e).job d)))) ∧
  (∀ (s : State) e t c, s.Canon → t ∈ s.tilesOf e → c ∈ ((s.requeuePaged e).tile t).far.copies → ∀ va, c.st ≠ .parked va) ∧
  (∀ t o, t < 384 → o < 0x500000 → contextOff t (contextPA t o) = some o ∧ contextPA t o % 2 ^ 30 / 2 ^ 26 = 15 ∧
    contextPA t o / 2 ^ 33 = t / 4) ∧
  (∀ now t, now + 256 ≤ t + resumeShift now t) ∧
  (∀ s, exec .snapcmpMatch s = .next (if s.iod.snapcmp = s.ptime then s.snapTrigger 2 0 else s)) ∧
  (∀ s, s.iod.snapAt = none → exec .snapshotLatch s = .next s) ∧
  (∀ s t src tag, s.iod.snapAt = some (t, src, tag) → s.ptime.toNat < t + 64 → exec .snapshotLatch s = .next s) ∧
  (∀ s t src tag, s.iod.snapAt = some (t, src, tag) → t + 64 ≤ s.ptime.toNat → ∃ u, exec .snapshotLatch s = .next u ∧
    u.iod.snapFull = true ∧ u.iod.snapTag = tag ∧ u.iod.snapSrc = src ∧ u.iod.snapt = BitVec.ofNat 64 (t + 64) ∧ u.iod.snapAt = none ∧
    u.iod.snapTime = (s.ptime, (List.range 256).map fun e => (s.entry (BitVec.ofNat 8 e)).pstr) ∧
    (∀ i, (u.tile i).snap = if (s.tiles.any fun p => p.1 == i) then s.tileSnap i else (s.tile i).snap) ∧
    u.mem = s.mem ∧ u.regions = s.regions ∧ u.entries = s.entries ∧ u.ptime = s.ptime) ∧
  (∀ t s, (s.tile t).retiring = none → exec (.tileRetire t) s = .next s) ∧
  (∀ t s why cyc, (s.tile t).retiring = some (why, cyc) →
    let e := (s.tile t).lte
    let u := s.updTile t fun x => { x with st := .dead, retiring := none }
    let r := { EvRec.base s (dieOf t) with
      code := 0x20, lte := e, info := why, rcyc := BitVec.ofNat 32 cyc, addr := BitVec.ofNat 64 t }
    exec (.tileRetire t) s = .next (((u.packageAct (dieOf t) r).say (.jobHold (s.entry e).job)).within 32000000 (.replacement e)))

/-! ## From outside the package -/

/-- A frame as a port hands it in: the 16-byte header in little-endian order, and the step its TYPE selects. The frames of the Mirhus port
and the management commands, each with its checks and its effect, and the completion that answers it: OK 0, REFUSED 1, BUSY 9, BADFRAME
0x0A, KILLED 0x0B. EVRD answers with the 32 bytes of each record (R364). PTP: the tick of a time stamp, the slave's offset and delay, LOCKED and STEPPED (R60 to R66, R80, R89, R90, R165, R295,
R366 to R368, R375, R382, R383). That ASIDGRANT and ASIDREVOKE outside a session and ASIDGRANT of ASID 0 are answered REFUSED is the
model's reading (DEDUCED: log 84). A frame shorter than its header and malformed ones, LTCTL outside the states named, the layout of PTP and
of a management command, and SNAPCLR's MISSED are the model's (DEDUCED: log 81, 82, 86, 106; DESIGN CHOICE: log 14, 83, 105; PRESUMED: log
107). -/
def Obligations.Frames : Prop :=
  let word := fun (l : List Byte) (o n : Nat) => ofBytes ((l.drop o).take n)
  (∀ q l, let f := rawFrame q l
    f.port = q ∧ f.ty.toNat = word l 0 1 % 256 ∧ f.flags.toNat = word l 1 1 % 256 ∧ f.seq.toNat = word l 2 2 % 2 ^ 16 ∧
    f.len.toNat = word l 4 4 % 2 ^ 32 ∧ f.addr.toNat = word l 8 8 % 2 ^ 64 ∧ f.data = l.drop 16) ∧
  (∀ q l (s : State), l.length < 16 → s.receive q l = { s with agenda := (.unknownFrame, .frame (rawFrame q l)) :: s.agenda }) ∧
  (∀ q l (s : State), 16 ≤ l.length → s.receive q l =
    { s with agenda := ((frameStep (rawFrame q l)).1, .frame (frameStep (rawFrame q l)).2) :: s.agenda }) ∧
  (∀ f : Frame,
    (f.ty = 1 → frameStep f = (.imgwr, f)) ∧ (f.ty = 2 → frameStep f = (.ltwr, f)) ∧
    (f.ty = 3 → frameStep f = (if f.data.head? = some 2 then .ltctlClear else .ltctlKill, f)) ∧
    (f.ty = 4 → frameStep f = (if f.addr.getLsbD 8 = true then .evrdMailbox else .evrd, f)) ∧
    (f.ty = 5 → frameStep f = (.ptp, f)) ∧ (f.ty = 7 → frameStep f = (.portsel, f)) ∧
    (f.ty = 6 → ∀ k i, Config.mctpStep f.data = some k → mctpSteps[k]? = some i → (frameStep f).1 = i) ∧
    (f.ty = 0 ∨ 8 ≤ f.ty.toNat → frameStep f = (.unknownFrame, f))) ∧
  (∀ r : EvRec, let at_ := word r.bytes
    let flag := fun (b : Bool) (i : Nat) => if b then 2 ^ i else 0
    r.bytes.length = 32 ∧ at_ 0 1 = flag r.fatal 7 + flag r.lost 6 + r.code.toNat ∧
    at_ 1 1 = flag r.warn 7 + flag r.superseded 6 + flag r.harea 5 + flag r.hm 4 + flag r.nrforced 3 + r.act.toNat ∧
    at_ 2 2 = min r.count 65535 ∧ at_ 4 1 = r.die % 256 ∧ at_ 5 1 = r.lte.toNat ∧ at_ 6 2 = r.ltile.toNat ∧ at_ 8 1 = r.info.toNat ∧
    at_ 9 1 = r.mask.toNat ∧ at_ 10 2 = r.asid.toNat ∧ at_ 12 4 = r.rcyc.toNat ∧ at_ 16 8 = r.ptime.toNat ∧ at_ 24 8 = r.addr.toNat) ∧
  let done := fun (f : Frame) (c : Byte) (s : State) => s.say (.completion f.seq c [])
  let ent := fun (f : Frame) => (f.addr.setWidth 8 : BitVec 8)
  let ltctl := fun (f : Frame) (s : State) => match f.data.head? with
    | some 1 => if (s.entry (ent f)).live = true then done f 0x0B (s.kill (ent f)) else done f 0x00 s
    | some 2 => match (s.entry (ent f)).st with
      | .retired => done f 0x00 (s.setEntry (ent f) Entry.reset)
      | .refused => done f 0x00 (s.setEntry (ent f) Entry.reset)
      | .empty => done f 0x00 s
      | _ => done f 0x09 s
    | _ => done f 0x0A s
  let evread := fun (f : Frame) (s : State) =>
    if f.addr.getLsbD 8 = true then
      (s.updDie (f.addr.toNat % 4) fun x => { x with mailbox := none }).say
        (.completion f.seq 0 ((s.die (f.addr.toNat % 4)).mailbox.toList.flatMap EvRec.bytes))
    else State.say { s with iod := { s.iod with queue := s.iod.queue.drop (f.len.toNat / 32) } }
      (.completion f.seq 0 ((s.iod.queue.take (f.len.toNat / 32)).flatMap fun r => r.2.bytes))
  OnFrame .imgwr false (fun f s =>
    if f.addr.toNat % 256 ≠ 0 ∨ f.data.length ≠ f.len.toNat then done f 0x0A s
    else if f.addr.toNat < s.iod.imageBase ∨ s.iod.imageBase + s.iod.imageLen < f.addr.toNat + f.len.toNat then done f 0x01 s
    else if s.imageInUse f.addr.toNat f.len.toNat = true then done f 0x09 s
    else done f 0x00 (s.writeMem f.addr.toNat f.data)) ∧
  OnFrame .ltwr false (fun f s =>
    let x := entryOf f.data s.ptime.toNat
    let u := done f 0x00 s
    if f.len ≠ 64 ∨ f.data.length ≠ 64 then done f 0x0A s
    else match (s.entry (ent f)).st with
      | .empty | .retired | .refused =>
        if x.ctl.getLsbD 0 = true then
          ((u.setEntry (ent f) { x with st := .admitting }).after (min s.delay 399999) (.admission (ent f))).spend
        else u.setEntry (ent f) x
      | _ => done f 0x09 s) ∧
  OnFrame .ltctlKill false ltctl ∧ OnFrame .ltctlClear false ltctl ∧
  OnFrame .unknownFrame false (fun f s => done f 0x0A s) ∧
  OnFrame .evrd false evread ∧ OnFrame .evrdMailbox false evread ∧
  OnFrame .portsel true (fun f s => done f 0x00 { s with iod := { s.iod with port := f.port } }) ∧
  (∀ sec ns corr, ptpTick sec ns corr = BitVec.ofInt 64 ((((sec * 10 ^ 9 + ns : Nat) : Int) * 65536 + corr) * 800000000 / (10 ^ 9 * 65536))) ∧
  (∀ (s : State) ofs, let far := ofs < -32 ∨ 32 < ofs
    let good := if -4 ≤ ofs ∧ ofs ≤ 4 then s.iod.goodSyncs + 1 else 0
    let v := { s with iod := { s.iod with
      ofs := max (-(2 ^ 23)) (min (2 ^ 23 - 1) ofs), goodSyncs := min good 16, locked := !decide far && (s.iod.locked || decide (16 ≤ good)) } }
    s.measured ofs = if s.iod.locked = true ∧ far then (v.warn 4 0x02 0xFF 0x1FF v.anyAddr).spend else v) ∧
  (∀ (s : State) t2 t1, let ofs := (t2 - t1).toInt - s.iod.ptp.delay
    let u := { s with iod := { s.iod with ptp := { s.iod.ptp with sync := none, last := (t2 - t1).toInt } } }
    let v := if (s.entries.any fun p => p.2.live) = false ∧ ofs ≠ 0 then u.stepTime (s.ptime - BitVec.ofInt 64 ofs) else u
    let w := { v with iod := { v.iod with ptp := { v.iod.ptp with
      req := some (s.iod.ptp.seq, v.ptime), seq := (s.iod.ptp.seq + 1) % 65536 } } }
    s.synced t2 t1 = (w.measured ofs).say (.delayReq s.iod.ptpDomain s.iod.ptp.seq)) ∧
  (∀ (s : State) t, (s.stepTime t).ptime = t ∧ (s.stepTime t).iod.stepped = true) ∧
  OnFrame .ptp true (fun f s =>
    let m := f.data
    let seq := ptpField m 30 2
    let kind := ptpField m 0 1 % 16
    let stamp := fun c => ptpTick (ptpField m 34 6) (ptpField m 40 4) c
    let p := s.iod.ptp
    let put := fun p => { s with iod := { s.iod with ptp := p } }
    if m.length < 44 then done f 0x0A s
    else if f.port ≠ s.iod.port ∨ BitVec.ofNat 8 (ptpField m 4 1) ≠ s.iod.ptpDomain then done f 0x00 s
    else if kind = 0 then
      done f 0x00 (if (ptpField m 6 1).testBit 1 then put { p with sync := some (seq, s.ptime, ptpCorr m) }
        else s.synced s.ptime (stamp (ptpCorr m)))
    else if kind = 8 then
      done f 0x00 (if p.sync.any fun x => x.1 == seq then
        s.synced (p.sync.getD (0, 0, 0)).2.1 (stamp ((p.sync.getD (0, 0, 0)).2.2 + ptpCorr m)) else s)
    else if kind = 9 then
      done f 0x00 (if p.req.any fun x => x.1 == seq then
        put { p with req := none, delay := (p.last + (stamp (-ptpCorr m) - (p.req.getD (0, 0)).2).toInt) / 2 } else s)
    else done f 0x00 s) ∧
  OnFrame .asidgrant false (fun f s =>
    let g := s.iod.agrant
    if 65536 ≤ f.a then done f 0x0A s
    else if s.iod.session = false ∨ f.a = 0 then done f 0x01 s
    else done f 0x00 { s with iod := { s.iod with
      agrant := if f.a ∈ g then g else insertBy (fun a b => decide (a ≤ b)) f.a g } }) ∧
  OnFrame .asidrevoke false (fun f s =>
    if 65536 ≤ f.a then done f 0x0A s
    else if s.iod.session = false then done f 0x01 s
    else if s.asidInUse f.a = true then done f 0x09 s
    else done f 0x00 { s with iod := { s.iod with agrant := s.iod.agrant.filter fun a => a != f.a } }) ∧
  OnFrame .tlbinv false (fun f s =>
    let k := s.iod.nextInval
    let x : Inval := { id := k, frame := f, asid := BitVec.ofNat 16 f.a, base := f.b, len := f.c, all := f.all,
                       acks := s.liveDies.foldl (fun m d => m ||| BitVec.twoPow 4 d) 0,
                       stepped := 0, copies := [], ops := [], tick := s.ptime.toNat }
    if s.coversPinned x = true ∨ 4 ≤ s.iod.invals.length then done f 0x09 s
    else (s.liveDies.foldl (fun (s : State) d =>
      (s.later (.tlbinvAck k (BitVec.ofNat 2 d))).after (2 ^ 20) (.invalTimeout k (BitVec.ofNat 2 d)))
        { s with iod := { s.iod with invals := s.iod.invals ++ [x], nextInval := k + 1 } }).invalDone) ∧
  OnFrame .pagein false (fun f s =>
    let asid := BitVec.ofNat 16 f.a
    let hit := fun p => decide (f.b ≤ p) && decide (p < f.b + f.c)
    let cs := (s.parkedCopies asid fun _ => true).filter fun c => (s.copyVAs c.1 c.2).all (s.pageMaps asid)
    let os := (s.parkedOps asid fun _ => true).filter fun o => o.parked.all (s.pageMaps asid)
    let u := (sortBy (fun (a b : Nat × Copy) => decide (b.2.slot ≤ a.2.slot)) cs).foldl State.unpark s
    done f 0x00 ((os.foldl (fun s o =>
      (s.updOp o.id fun (x : HoldOp) => { x with parked := none }).opStep o.id) u).pagesAnswered asid hit)) ∧
  OnFrame .pagedeny false (fun f s =>
    let asid := BitVec.ofNat 16 f.a
    let hit := fun p => decide (p = f.b)
    let u := (s.parkedCopies asid hit).foldl (fun s c =>
      if (s.copyAt c.1 c.2.slot).any (fun (y : Copy) => y.rec_ == c.2.rec_) = true then
        s.faultCopy c.1 c.2 2 (f.b * 65536 - s.extVA c.1 (extIndex c.2.e) (extOffset c.2.e)) else s) s
    done f 0x00 (((s.parkedOps asid hit).foldl (fun s o => s.faultOp o 2) u).pagesAnswered asid hit)) ∧
  OnFrame .preemptRequest false (fun f s =>
    let e := BitVec.ofNat 8 f.a
    if (s.entry e).st ≠ .running ∨ (s.hdrOf e).ppb = 0 then done f 0x01 s
    else done f 0x00 (s.mapTiles fun _ x => if x.st = .bound ∧ x.lte = e then { x with preq := true } else x)) ∧
  OnFrame .resume false (fun f s =>
    let e := BitVec.ofNat 8 f.a
    let u := s.updEntry e fun x => { x with saving := true }
    if (s.entry e).st ≠ .parked ∨ (s.entry e).saving = true then done f 0x01 s
    else done f 0x00 (u.after (min u.delay 44000) (.contextRestoreDone e)).spend) ∧
  OnFrame .snapnow false (fun f s => done f 0x00 (s.snapTrigger 3 0)) ∧
  OnFrame .snapclr false (fun f s => done f 0x00 { s with iod := { s.iod with snapFull := false, missed := 0 } }) ∧
  OnFrame .hostInterrupt false (fun f s =>
    if 384 ≤ f.a then done f 0x0A s else done f 0x00 (s.updTile f.a fun x => { x with ip := x.ip ||| 2 }))

/-- The SPDM responder: its answers, the session KEY_EXCHANGE opens and FINISH authenticates, END_SESSION, the measurements of indices 1
to 8, and the error that answers any other request; VERSION names version 1.3 alone, and ALGORITHMS names ECDSA P-384, SHA-384 and AES-256-GCM (R387, R388). The response codes and the layout of those two answers are those of the DMTF standard (PRESUMED: log 85). -/
def Obligations.SpdmResponder : Prop :=
  OnSpdm .getVersion 0x84 id [0x04, 0x01, 0x00, 0x13] ∧ OnSpdm .getCapabilities 0xE1 id ∧
  OnSpdm .negotiateAlgorithms 0xE3 id [0x63, 0x80, 0, 0, 0, 0x02, 0, 0, 0, 0x02, 0] ∧ OnSpdm .getDigests 0x81 id ∧
  OnSpdm .getCertificate 0x82 id ∧ OnSpdm .challenge 0x83 id ∧ OnSpdm .keyExchange 0xE4 (fun i => { i with keyed := true }) ∧
  OnSpdm .finish 0xE5 (fun i => { i with session := i.session || i.keyed }) ∧
  OnSpdm .endSession 0xEC (fun i => { i with session := false, keyed := false }) ∧
  OnFrame .getMeasurements false (fun f s => s.say (.completion f.seq 0x00 ((s.iod.measured ++
    [Config.lockedMeasure ((List.range 4).map s.lockedActions) s.iod.atbase]).flatMap fun m => toBytes 48 m.toNat))) ∧
  OnFrame .spdmUnsupportedRequest false (fun f s => s.say (.completion f.seq 0x00 [0x7F, 0x07]))

/-- The management reads and writes. A read answers OK with the register's bytes. The writes: the tile's debug registers in their writable
fields, the mesh injection register, the action table (firmware writes ACT, SNAP and HEALTH of unlocked entries, and the monitor LOCK as
well), SNAPCMP, the tile map, the handler area, and the management registers, those with a row of their own through that row (R7, R8, R61,
R64, R73, R80, R246, R272, R303, R348, R349, R353, R362, R363, R376, R383, R389, R410). Which writes are refused, the handler area alone for
the monitor, the code of STATE and the order of an answer's bytes are the model's reading (DEDUCED: log 71, 84, 89; DESIGN CHOICE: log
108); that a write to a launch-table entry is answered OK and changes nothing is its choice (DESIGN CHOICE: log 129). -/
def Obligations.ManagementWrites : Prop :=
  let done := fun (f : Frame) (c : Byte) (s : State) => s.say (.completion f.seq c [])
  let iod := fun (f : Frame) (s : State) (g : Iod → Iod) => done f 0x00 { s with iod := g s.iod }
  let answer := fun (f : Frame) (r : MgmtReg) (s : State) => s.say (.completion f.seq 0x00 (s.mgmtRead r))
  let locked := fun (f : Frame) (s t : State) => if f.who = .firmware then done f 0x01 s else done f 0x00 t
  OnFrame .dbgbWrite false (fun f s =>
    if 384 ≤ f.a then done f 0x0A s else if f.read = true then answer f (.dbgb f.a) s
    else if (s.die (dieOf f.a)).debug = false then done f 0x01 s
    else done f 0x00 (s.updTile f.a fun x => { x with dbgb := BitVec.ofNat 64 (frameValue f) &&& 0x80000000FFFFFFFF })) ∧
  OnFrame .tinjWrite false (fun f s =>
    let v : W64 := BitVec.ofNat 64 (frameValue f)
    if 384 ≤ f.a then done f 0x0A s else if f.read = true then answer f (.tinj f.a) s
    else if (s.die (dieOf f.a)).debug = false ∨ v.toNat / 2 ^ 56 % 64 < 6 ∨ 9 < v.toNat / 2 ^ 56 % 64 then done f 0x01 s
    else done f 0x00 (s.updTile f.a fun x => { x with tinj := (v &&& 0xBFE00000FFFFFFFF) ||| w1c x.tinj v 62 })) ∧
  OnFrame .minjWrite false (fun f s =>
    let v : W64 := BitVec.ofNat 64 (frameValue f)
    if 4 ≤ f.a then done f 0x0A s else if f.read = true then answer f (.minj (BitVec.ofNat 2 f.a)) s
    else if (s.die f.a).inject = false then done f 0x01 s
    else done f 0x00 (s.updDie f.a fun x => { x with minj := (v &&& 0x8003FFFE0000FFFF) ||| w1c x.minj v 62 })) ∧
  OnFrame .actionEntryWrite false (fun f s =>
    let v := frameValue f
    if 4 ≤ f.a ∨ 64 ≤ f.b then done f 0x0A s else if f.read = true then answer f (.action (BitVec.ofNat 2 f.a) f.b) s
    else if actionRefused f.who (s.action f.a f.b) f.b v = true then done f 0x01 s
    else if f.b = 0 ∨ 0x24 ≤ f.b then done f 0x00 s
    else if f.who = .firmware ∧ v.testBit 15 = true then done f 0x01 s
    else done f 0x00 (s.updDie f.a fun x =>
      { x with actions := SMap.set (actionReset f.b) x.actions f.b (BitVec.ofNat 16 v &&& 0x80C7) })) ∧
  OnFrame .snapcmpWrite false (fun f s =>
    if f.read = true then answer f .snapcmp s else iod f s fun i => { i with snapcmp := BitVec.ofNat 64 (frameValue f) }) ∧
  OnFrame .tileMapWrite false (fun f s =>
    if 384 ≤ f.a then done f 0x0A s else if f.read = true then answer f (.tileMap f.a) s
    else if f.who = .monitor ∧ (s.tile f.a).st = .dead ∧ frameValue f / 2 ^ 30 % 4 = 0 ∧ s.dieHolds (dieOf f.a) = false then
      done f 0x00 (s.updTile f.a fun x => { x with st := .free })
    else done f 0x01 s) ∧
  OnFrame .handlerInstall false (fun f s =>
    if 384 ≤ f.a then done f 0x0A s else if 0x10000 < f.addr.toNat + f.data.length then done f 0x01 s
    else locked f s (s.updTile f.a fun x => x.putBytes f.addr.toNat f.data)) ∧
  OnFrame .mgmtRegisterWrite false (fun f s =>
    let v := frameValue f
    let lk := fun (g : Iod → Iod) => locked f s { s with iod := g s.iod }
    let die := fun (d : BitVec 2) (g : Die → Die) => s.updDie d.toNat g
    let over_ := fun (i : Instr) (g : Frame) => { s with agenda := (i, .frame g) :: s.agenda }
    if f.read = true then answer f f.reg s else
    match f.reg with
    | .entry _ | .soft _ | .powerStatus | .snapTile _ | .snapSeqr _ | .snapRouter _ | .snapSlice _ _ | .snapTime | .snapPstr _ =>
      done f 0x00 s
    | .tileMap t => over_ .tileMapWrite { f with a := t }
    | .dbgb t => over_ .dbgbWrite { f with a := t }
    | .tinj t => over_ .tinjWrite { f with a := t }
    | .minj d => over_ .minjWrite { f with a := d.toNat }
    | .action d c => over_ .actionEntryWrite { f with a := d.toNat, b := c }
    | .snapcmp => over_ .snapcmpWrite f
    | .tsync => iod f s fun i => { i with stepped := i.stepped && !v.testBit 30 }
    | .ptpDomain => iod f s fun i => { i with ptpDomain := BitVec.ofNat 8 v }
    | .imageBase => iod f s fun i => { i with imageBase := v }
    | .imageLen => iod f s fun i => { i with imageLen := v }
    | .atbase => lk fun i => { i with atbase := BitVec.ofNat 64 (v / 65536 * 65536) }
    | .agrant _ => done f 0x01 s
    | .bucketMap b =>
      if b < 4096 ∧ bucketOk v = true then
        lk fun i => { i with bucketMap := SMap.set (bucketMapReset b) i.bucketMap b (BitVec.ofNat 32 v) }
      else done f 0x01 s
    | .dstate => lk fun i => { i with dstate := BitVec.ofNat 32 (v % 1024) }
    | .dprof _ | .pstr _ | .snapstat | .snapt => done f 0x00 s
    | .dpwr d => done f 0x00 (die d fun x => { x with plim := BitVec.ofNat 16 (v / 2 ^ 48) })
    | .temerg => lk fun i => { i with temerg := sext v 16 }
    | .bucket d b => done f 0x00 (die d fun x =>
        let w := (x.bucket b &&& 0x7FFF) ||| (if v.testBit 15 = true then 0x8000 else 0)
        { x with buckets := SMap.set (BitVec.ofNat 16 (b % 24)) x.buckets b w })
    | .debugEnable d => locked f s (die d fun x => { x with debug := v.testBit 0 })
    | .injectEnable d => locked f s (die d fun x => { x with inject := v.testBit 0 })
    | .decoder i =>
      if 4 ≤ i ∨ f.data.length ∉ [1, 2, 4] then done f 0x0A s
      else iod f s fun x => { x with decoders := SMap.set Decoder.reset x.decoders i ⟨f.b, f.c, f.data.map (·.setWidth 2)⟩ }
    | .dieRelease d => locked f s (die d fun x => { x with halted := false })) ∧
  (∀ s : State,
    s.mgmtRead .tsync = toBytes 4
      ((if s.iod.locked = true then 2 ^ 31 else 0) + (if s.iod.stepped = true then 2 ^ 30 else 0) + (s.iod.ofs % 2 ^ 24).toNat) ∧
    (∀ t, s.mgmtRead (.tileMap t) = toBytes 4 ((match (s.tile t).st with | .free => 0 | .bound => 1 | .dead => 2) * 2 ^ 30 +
      (if (s.tile t).st = .bound then
        (s.tile t).lte.toNat * 2 ^ 16 + (s.tile t).reg.toNat * 2 ^ 13 + (s.tile t).lpos.toNat * 2 ^ 6 else 0) + (s.tile t).fails.toNat)) ∧
    (∀ d, s.mgmtRead (.dpwr d) = toBytes 8 ((s.die d.toNat).plim.toNat * 2 ^ 48 + (s.die d.toNat).estep.toNat)) ∧
    s.mgmtRead .snapstat = toBytes 8 ((if s.iod.snapFull = true then 2 ^ 63 else 0) + s.iod.snapTag.toNat * 2 ^ 48 +
      s.iod.snapSrc.toNat * 2 ^ 45 + s.iod.missed.toNat) ∧
    s.mgmtRead .snapt = toBytes 8 s.iod.snapt.toNat ∧ s.mgmtRead .snapcmp = toBytes 8 s.iod.snapcmp.toNat ∧
    (∀ d, s.mgmtRead (.minj d) = toBytes 8 (s.die d.toNat).minj.toNat) ∧
    (∀ t, s.mgmtRead (.dbgb t) = toBytes 8 (s.tile t).dbgb.toNat ∧ s.mgmtRead (.tinj t) = toBytes 8 (s.tile t).tinj.toNat) ∧
    (∀ d c, s.mgmtRead (.action d c) = toBytes 2 (s.action d.toNat c).toNat) ∧
    (∀ i, s.mgmtRead (.dprof i) = toBytes 4 (s.iod.dprof.getD i 0).toNat) ∧
    (∀ t, s.mgmtRead (.soft t) = toBytes 8 (s.tile t).soft)) ∧
  (∀ (s : State) e, let x := s.entry e
    let at_ := fun (o n : Nat) => ((s.mgmtRead (.entry e)).drop o).take n
    (s.mgmtRead (.entry e)).length = 64 ∧ at_ 0 2 = [x.ctl &&& 3, x.prio &&& 0x0F] ∧ at_ 2 2 = toBytes 2 x.asid.toNat ∧
    at_ 4 4 = [x.pred, Config.stateCode x.st.place, x.status, 0] ∧ at_ 8 8 = toBytes 8 x.image.toNat ∧
    at_ 0x10 8 = toBytes 8 x.start.toNat ∧ at_ 0x18 8 = toBytes 8 x.arg.toNat ∧ at_ 0x20 4 = toBytes 4 x.rank.toNat ∧
    at_ 0x24 4 = toBytes 4 x.plat.toNat ∧ at_ 0x28 4 = toBytes 4 x.foff.toNat ∧ at_ 0x2C 4 = toBytes 4 x.job.toNat ∧
    at_ 0x30 16 = List.replicate 16 0)

/-- Power: rails raised in the order given bring the dies up, measured and LIVE, and out of order they set POWER_SEQ with every die in
reset, for good; without power the machine is as at reset, but for what has left it. A die reset kills every launch with a region on the
die, shows RESET, takes the die out of every invalidation's acks, has its buckets served from their backups, and resets its tiles, which
lose their scratchpads and keep only DEAD, its sequencers and its caches; a die released is measured again and LIVE, and its buckets come
home once no invalidation is outstanding (R12, R91, R92, R387, R390). What rails and a die reset leave beside what the rules name is the
model's reading (DEDUCED: log 87, 88); the measurements are free values (DESIGN CHOICE: log 12). -/
def Obligations.PowerDomain : Prop :=
  railOrder = [.vtrust, .vio, .vhbm, .vcore] ∧
  (∀ s, (∀ l, s.ext ≠ .rails l) → exec .powerUp s = .next s) ∧
  (∀ s l, s.ext = .rails l → s.iod.powerSeq = true ∨ s.iod.rails ++ l ≠ railOrder.take (s.iod.rails ++ l).length →
    exec .powerUp s = .next { s with iod := { s.iod with rails := s.iod.rails ++ l, powerSeq := true, dstate := 0x155 } }) ∧
  (∀ s l, s.ext = .rails l → s.iod.powerSeq = false → s.iod.rails ++ l = railOrder → s.iod.rails ≠ railOrder →
    exec .powerUp s = .next { s with iod := { s.iod with
      rails := railOrder, powerSeq := false, dstate := 0x2AA, powerUps := s.iod.powerUps + 1
      measured := (List.range 7).map fun k => Config.measurement (k + 1) (s.iod.powerUps + 1) } }) ∧
  (∀ s l, s.ext = .rails l → s.iod.powerSeq = false → s.iod.rails ++ l = railOrder.take (s.iod.rails ++ l).length →
    s.iod.rails ++ l ≠ railOrder ∨ s.iod.rails = railOrder →
    exec .powerUp s = .next { s with iod := { s.iod with rails := s.iod.rails ++ l } }) ∧
  (∀ s, exec .railRemoval s = .next { State.reset with
    nfree := s.nfree, nextId := s.nextId, out := s.out, iod := { Iod.reset with powerUps := s.iod.powerUps } }) ∧
  (∀ (s : State) e, s.Canon → ((s.kill e).entry e).st = .retired ∧ ((s.kill e).entry e).killed = true ∧ ((s.kill e).entry e).status = 0x0B ∧
    ∀ k ∈ (s.kill e).regions, k.2.entry ≠ e ∨ k.2 = Region.reset) ∧
  (∀ d s, s.Canon →
    let n := d.toNat
    let k := (s.launchesOn n).foldl (fun s e => s.kill e) s
    ∃ u, exec (.dieReset d) s = .next u ∧ u.entries = k.entries ∧ u.regions = k.regions ∧ u.mem = k.mem ∧
      (∀ j < 5, field u.iod.dstate.toNat (2 * j) 2 = if j = n then 1 else field k.iod.dstate.toNat (2 * j) 2) ∧
      u.iod.failover = (k.iod.failover ||| BitVec.twoPow 4 n) ∧ (∀ x ∈ u.iod.invals, x.acks.getLsbD n = false) ∧
      (∀ t, dieOf t ≠ n → u.tile t = k.tile t) ∧
      (∀ t, dieOf t = n → (k.tile t).st = .dead → u.tile t = { Tile.reset with
        st := .dead, lte := (k.tile t).lte, reg := (k.tile t).reg, lpos := (k.tile t).lpos, fails := (k.tile t).fails }) ∧
      (∀ t, dieOf t = n → (k.tile t).st ≠ .dead → u.tile t = Tile.reset) ∧
      (∀ q, u.seqr q = if q / 96 = n then Seqr.reset else k.seqr q) ∧
      u.die n = { Die.reset with
        mailbox := (k.die n).mailbox, fifo := (k.die n).fifo, lostNext := (k.die n).lostNext, clock := (k.die n).clock
        updates := (k.die n).updates, plim := (k.die n).plim, estep := (k.die n).estep } ∧
      (∀ r ∈ u.creqs, r.die ≠ n) ∧ (∀ m ∈ u.misses, m.die ≠ n) ∧ (∀ w ∈ u.walks, w.die ≠ n) ∧ ∀ p ∈ u.pending, p.2.1 ≠ .dieLive d) ∧
  (∀ d s, s.iod.powerSeq = true ∨ s.iod.rails ≠ railOrder → exec (.dieLive d) s = .next s) ∧
  (∀ d s, s.iod.powerSeq = false → s.iod.rails = railOrder →
    let n := d.toNat
    let ds := s.iod.dstate.toNat
    let u := { s with iod := { s.iod with
      dstate := BitVec.ofNat 32 (ds - ds / 2 ^ (2 * n) % 4 * 2 ^ (2 * n) + 2 * 2 ^ (2 * n))
      measured := s.iod.measured.set (3 + n) (Config.measurement (4 + n) s.iod.powerUps) } }
    exec (.dieLive d) s = .next (if s.iod.invals = [] then
        { u with iod := { u.iod with failover := u.iod.failover &&& ~~~ BitVec.twoPow 4 n } }
      else u.later (.dieLive d)))
end

