-- ==== Sys2Proof/Laws/Memory.lean ====
section
/-! SUPPORT. Sparse maps and byte memories: every operation keeps the canonical form, a read after a write gives what was written, and a write leaves every other key alone. -/

namespace Sys2Proof.Machine

namespace SMap

variable {V : Type} [DecidableEq V] {d : V} {m : SMap V}

theorem wfFrom_mono {lo lo' : Nat} (h : lo' ≤ lo) (hw : wfFrom d lo m = true) : wfFrom d lo' m = true := by
  cases m with
  | nil => rfl
  | cons p m =>
    simp only [wfFrom, Bool.and_eq_true, decide_eq_true_eq] at hw ⊢
    exact ⟨⟨by omega, hw.1.2⟩, hw.2⟩

theorem wfFrom_set {lo i : Nat} {x : V} (hw : wfFrom d lo m = true) (hi : lo ≤ i) : wfFrom d lo (set d m i x) = true := by
  induction m generalizing lo with
  | nil => by_cases hx : x = d <;> simp [set, wfFrom, hx, hi]
  | cons p m ih =>
    obtain ⟨k, v⟩ := p
    simp only [wfFrom, Bool.and_eq_true, decide_eq_true_eq] at hw
    unfold set
    split
    · split
      · exact wfFrom_mono (by omega) hw.2
      · subst_vars; simp [wfFrom, *]
    · split
      · split
        · simp [wfFrom, hw]
        · simp only [wfFrom, Bool.and_eq_true, decide_eq_true_eq]
          exact ⟨⟨hi, by assumption⟩, ⟨by omega, hw.1.2⟩, hw.2⟩
      · simp only [wfFrom, Bool.and_eq_true, decide_eq_true_eq]
        exact ⟨hw.1, ih hw.2 (by omega)⟩

/-- Writing a key keeps the canonical form. -/
@[simp] theorem wf_set {i : Nat} {x : V} (hw : wf d m = true) : wf d (set d m i x) = true := wfFrom_set hw (Nat.zero_le i)

@[simp] theorem wf_upd {i : Nat} {f : V → V} (hw : wf d m = true) : wf d (upd d m i f) = true := wf_set hw

@[simp] theorem wf_nil : wf d ([] : SMap V) = true := rfl

theorem wfFrom_filterMap {f : Nat → V → Option V} (hf : ∀ k v y, f k v = some y → y ≠ d) {lo : Nat} (hw : wfFrom d lo m = true) :
    wfFrom d lo (m.filterMap fun p => (f p.1 p.2).map fun y => (p.1, y)) = true := by
  induction m generalizing lo with
  | nil => rfl
  | cons p m ih =>
    obtain ⟨k, v⟩ := p
    simp only [wfFrom, Bool.and_eq_true, decide_eq_true_eq] at hw
    rcases h : f k v with _ | y
    · rw [List.filterMap_cons_none (by simp [h])]
      exact ih (wfFrom_mono (by omega) hw.2)
    · rw [List.filterMap_cons_some (b := (k, y)) (by simp [h])]
      simp only [wfFrom, Bool.and_eq_true, decide_eq_true_eq]
      exact ⟨⟨hw.1.1, hf k v y h⟩, ih hw.2⟩

/-- Changing every listed value keeps the canonical form. -/
@[simp] theorem wf_mapV {f : Nat → V → V} (hw : wf d m = true) : wf d (mapV d f m) = true := by
  have h := wfFrom_filterMap (d := d) (f := fun k v => if f k v = d then none else some (f k v))
    (fun k v y h => by
      by_cases hd : f k v = d
      · simp [hd] at h
      · simp only [hd, ↓reduceIte, Option.some.injEq] at h; exact h ▸ hd) hw
  have he : (fun p : Nat × V => (if f p.1 p.2 = d then none else some (f p.1 p.2)).map fun y => (p.1, y)) =
      fun p => if f p.1 p.2 = d then none else some (p.1, f p.1 p.2) := by
    funext p; split <;> rfl
  rw [he] at h
  exact h

theorem wfFrom_filter {f : Nat × V → Bool} {lo : Nat} (hw : wfFrom d lo m = true) : wfFrom d lo (m.filter f) = true := by
  induction m generalizing lo with
  | nil => rfl
  | cons p m ih =>
    obtain ⟨k, v⟩ := p
    simp only [wfFrom, Bool.and_eq_true, decide_eq_true_eq] at hw
    rw [List.filter_cons]
    split
    · simp only [wfFrom, Bool.and_eq_true, decide_eq_true_eq]
      exact ⟨hw.1, ih hw.2⟩
    · exact ih (wfFrom_mono (by omega) hw.2)

/-- Dropping entries keeps the canonical form. -/
@[simp] theorem wf_filter {f : Nat × V → Bool} (hw : wf d m = true) : wf d (m.filter f) = true := wfFrom_filter hw

theorem get_below {lo i : Nat} (hw : wfFrom d lo m = true) (hl : i < lo) : get d m i = d := by
  cases m with
  | nil => rfl
  | cons q m =>
    simp only [wfFrom, Bool.and_eq_true, decide_eq_true_eq] at hw
    simp [get, show i ≠ q.1 by omega, show i < q.1 by omega]

/-- A read after a write of the same key gives the value written. -/
theorem get_set_same {i : Nat} {x : V} {lo : Nat} (hw : wfFrom d lo m = true) : get d (set d m i x) i = x := by
  induction m generalizing lo with
  | nil => by_cases hx : x = d <;> simp [set, get, hx]
  | cons p m ih =>
    obtain ⟨k, v⟩ := p
    simp only [wfFrom, Bool.and_eq_true, decide_eq_true_eq] at hw
    unfold set
    split
    · split
      · subst_vars
        exact get_below hw.2 (by omega)
      · simp [get]
    · split
      · split
        · subst_vars; simp [get, *]
        · simp [get]
      · simp only [get]
        rw [if_neg (by assumption), if_neg (by assumption)]
        exact ih hw.2

/-- A write leaves every other key alone. -/
theorem get_set_other {i j : Nat} {x : V} {lo : Nat} (hw : wfFrom d lo m = true) (hj : j ≠ i) :
    get d (set d m i x) j = get d m j := by
  induction m generalizing lo with
  | nil =>
    by_cases hx : x = d
    · simp [set, hx]
    · simp [set, get, hx, hj]
  | cons p m ih =>
    obtain ⟨k, v⟩ := p
    simp only [wfFrom, Bool.and_eq_true, decide_eq_true_eq] at hw
    unfold set
    split
    · subst_vars
      split
      · simp only [get, if_neg hj]
        split
        · exact get_below hw.2 (by omega)
        · rfl
      · simp [get, hj]
    · split
      · split
        · rfl
        · simp only [get, if_neg hj]
          split
          · rw [if_neg (by omega), if_pos (by omega)]
          · rfl
      · simp only [get]
        rw [ih hw.2]

/-- `get` after `set`, both cases. -/
theorem get_set {i j : Nat} {x : V} (hw : wf d m = true) : get d (set d m i x) j = if j = i then x else get d m j := by
  split
  · subst_vars; exact get_set_same hw
  · exact get_set_other hw (by assumption)

end SMap

/-! ## Byte memories -/

variable {m : List Host.Cell}

@[simp] theorem Memory.wf_nil : Memory.wf [] = true := rfl

@[simp] theorem Memory.wf_set {a : Nat} {b : Byte} (hw : Memory.wf m = true) : Memory.wf (SMap.set 0 m a b) = true := SMap.wf_set hw

/-- Writing bytes keeps the canonical form. -/
@[simp] theorem Memory.wf_writeBytes {bs : List Byte} {a : Nat} (hw : Memory.wf m = true) : Memory.wf (writeBytes m a bs) = true := by
  induction bs generalizing m a with
  | nil => exact hw
  | cons b bs ih => exact ih (Memory.wf_set hw)

@[simp] theorem Memory.wf_writeCells {cs : List Host.Cell} (hw : Memory.wf m = true) : Memory.wf (writeCells m cs) = true := by
  induction cs generalizing m with
  | nil => exact hw
  | cons c cs ih => exact ih (Memory.wf_set hw)

/-- A byte of a memory after bytes were written from an address. -/
theorem get_writeBytes {bs : List Byte} {a i : Nat} (hw : Memory.wf m = true) :
    SMap.get 0 (writeBytes m a bs) i = if a ≤ i ∧ i < a + bs.length then bs.getD (i - a) 0 else SMap.get 0 m i := by
  induction bs generalizing m a with
  | nil => simp [writeBytes]
  | cons b bs ih =>
    rw [writeBytes, ih (Memory.wf_set hw), SMap.get_set hw]
    simp only [List.length_cons]
    by_cases h1 : a + 1 ≤ i ∧ i < a + 1 + bs.length
    · rw [if_pos h1, if_pos (by omega), show i - a = (i - (a + 1)) + 1 by omega, List.getD_cons_succ]
    · rw [if_neg h1]
      by_cases h2 : i = a
      · subst h2; simp
      · rw [if_neg h2, if_neg (by omega)]

/-- A write of bytes leaves every byte outside them alone. -/
theorem get_writeBytes_outside {bs : List Byte} {a i : Nat} (hw : Memory.wf m = true) (hi : i < a ∨ a + bs.length ≤ i) :
    SMap.get 0 (writeBytes m a bs) i = SMap.get 0 m i := by
  rw [get_writeBytes hw, if_neg (by omega)]

theorem length_toBytes (n x : Nat) : (toBytes n x).length = n := by
  induction n generalizing x with
  | zero => rfl
  | succ n ih => simp [toBytes, ih]

/-- Bytes read back where they were written are those written. -/
theorem readBytes_writeBytes {bs : List Byte} {a : Nat} (hw : Memory.wf m = true) : readBytes (writeBytes m a bs) a bs.length = bs := by
  apply List.ext_getElem
  · simp [readBytes]
  · intro i h1 h2
    simp only [readBytes, List.getElem_map, List.getElem_range]
    rw [get_writeBytes hw, if_pos (by simp [readBytes] at h1; omega)]
    simp [List.getD_eq_getElem?_getD, h2]

/-- Bytes read outside the bytes written are as before. -/
theorem readBytes_writeBytes_outside {bs : List Byte} {a b n : Nat} (hw : Memory.wf m = true) (h : b + n ≤ a ∨ a + bs.length ≤ b) :
    readBytes (writeBytes m a bs) b n = readBytes m b n := by
  simp only [readBytes]
  apply List.map_congr_left
  intro i hi
  rw [List.mem_range] at hi
  exact get_writeBytes_outside hw (by omega)

theorem ofBytes_toBytes (n x : Nat) : ofBytes (toBytes n x) = x % 256 ^ n := by
  induction n generalizing x with
  | zero => simp [toBytes, ofBytes, Nat.mod_one]
  | succ n ih =>
    simp only [toBytes, ofBytes, ih, BitVec.toNat_ofNat]
    have h := Nat.mod_mul (x := x) (a := 256) (b := 256 ^ n)
    have hp : (256 : Nat) ^ (n + 1) = 256 * 256 ^ n := by ring
    rw [hp, h]

/-- A number read back where its bytes were written. -/
theorem readN_writeBytes {n x a : Nat} (hw : Memory.wf m = true) : readN (writeBytes m a (toBytes n x)) a n = x % 256 ^ n := by
  have h := readBytes_writeBytes (bs := toBytes n x) (a := a) hw
  rw [length_toBytes] at h
  rw [readN, h, ofBytes_toBytes]

theorem readN_writeBytes_outside {bs : List Byte} {a b n : Nat} (hw : Memory.wf m = true) (h : b + n ≤ a ∨ a + bs.length ≤ b) :
    readN (writeBytes m a bs) b n = readN m b n := by
  rw [readN, readBytes_writeBytes_outside hw h, readN]

end Sys2Proof.Machine
end

