-- ==== Sys2Proof/Laws/Canon.lean ====
section
/-! SUPPORT. The canonical form of the memories and tables, and that each write of a table or a memory keeps it. -/

namespace Sys2Proof.Machine

/-- Whatever next state an outcome holds is in canonical form. -/
structure Out.Canon (o : Out) : Prop where
  next : ∀ t, o = .next t → t.Canon
theorem out_canon {t : State} (h : t.Canon) : Out.Canon (.next t) := ⟨fun u e => by cases e; exact h⟩
theorem mem_set {V : Type} [DecidableEq V] {d : V} {m : SMap V} {i : Nat} {x : V} {p : Nat × V} (h : p ∈ SMap.set d m i x) :
    p ∈ m ∨ p = (i, x) := by
  induction m with
  | nil => simp only [SMap.set] at h; split at h <;> simp_all
  | cons q m ih =>
    simp only [SMap.set] at h
    split at h
    · split at h <;> simp_all
      rcases h with h | h <;> simp [h]
    · split at h
      · split at h <;> simp_all
        rcases h with h | h | h <;> simp [h]
      · simp only [List.mem_cons] at h ⊢
        rcases h with h | h
        · exact .inl (.inl h)
        · rcases ih h with h | h
          · exact .inl (.inr h)
          · exact .inr h

theorem mem_mapV {V : Type} [DecidableEq V] {d : V} {m : SMap V} {f : Nat → V → V} {p : Nat × V} (h : p ∈ SMap.mapV d f m) :
    ∃ q ∈ m, p = (q.1, f q.1 q.2) := by
  simp only [SMap.mapV, List.mem_filterMap] at h
  obtain ⟨q, hq, h⟩ := h
  split at h
  · cases h
  · exact ⟨q, hq, (Option.some.inj h).symm⟩

theorem get_mem {V : Type} {d : V} {m : SMap V} {i : Nat} : SMap.get d m i = d ∨ ∃ p ∈ m, p.2 = SMap.get d m i := by
  induction m with
  | nil => exact .inl rfl
  | cons q m ih =>
    simp only [SMap.get]
    split
    · exact .inr ⟨q, by simp, rfl⟩
    · split
      · exact .inl rfl
      · rcases ih with h | ⟨p, hp, h⟩
        · exact .inl h
        · exact .inr ⟨p, by simp [hp], h⟩

theorem canon_eta {t : State}
    {ptime stage ext agenda cur pending nfree nextId taken iod txs packets creqs misses wbs updates ops queries walks rounds moved fredNo jobHolds merr perr out} : State.Canon (State.mk ptime stage ext agenda cur pending nfree nextId taken t.tiles t.regions t.entries t.seqrs t.dies iod txs packets creqs misses wbs updates ops queries walks rounds moved fredNo jobHolds t.mem t.pool merr perr out t.saved) ↔ t.Canon :=
  ⟨fun h => ⟨h.1, h.2, h.3, h.4, h.5, h.6, h.7, h.8, h.9⟩, fun h => ⟨h.1, h.2, h.3, h.4, h.5, h.6, h.7, h.8, h.9⟩⟩

namespace State.Canon
variable {s : State} (h : s.Canon)
include h

theorem tile (t : Nat) : Memory.wf (s.tile t).spad = true := by
  rcases get_mem (d := Tile.reset) (m := s.tiles) (i := t) with e | ⟨p, hp, e⟩
  · rw [State.tile, e]; rfl
  · rw [State.tile, ← e]; exact h.spads p hp

theorem setTile {t : Nat} {x : Tile} (hx : Memory.wf x.spad = true) : (s.setTile t x).Canon :=
  { h with
    tiles := SMap.wf_set h.tiles
    spads := fun p hp => by
      rcases mem_set hp with hp | rfl
      · exact h.spads p hp
      · exact hx }

theorem updTile {t : Nat} {f : Tile → Tile} (hf : ∀ x : Tile, Memory.wf x.spad = true → Memory.wf (f x).spad = true) :
    (s.updTile t f).Canon :=
  h.setTile (hf _ (h.tile t))

theorem mapTiles {f : Nat → Tile → Tile} (hf : ∀ i (x : Tile), Memory.wf x.spad = true → Memory.wf (f i x).spad = true) :
    (s.mapTiles f).Canon :=
  { h with
    tiles := SMap.wf_mapV h.tiles
    spads := fun p hp => by
      obtain ⟨q, hq, rfl⟩ := mem_mapV hp
      exact hf _ _ (h.spads q hq) }

theorem setRegion {r : Nat} {x : Region} : (s.setRegion r x).Canon := { h with regions := SMap.wf_set h.regions }
theorem updRegion {r : Nat} {f : Region → Region} : (s.updRegion r f).Canon := h.setRegion
theorem mapRegions {f : Nat → Region → Region} : (s.mapRegions f).Canon := { h with regions := SMap.wf_mapV h.regions }
theorem setEntry {e : BitVec 8} {x : Entry} : (s.setEntry e x).Canon := { h with entries := SMap.wf_set h.entries }
theorem updEntry {e : BitVec 8} {f : Entry → Entry} : (s.updEntry e f).Canon := h.setEntry
theorem setSeqr {r : Nat} {x : Seqr} : (s.setSeqr r x).Canon := { h with seqrs := SMap.wf_set h.seqrs }
theorem updSeqr {r : Nat} {f : Seqr → Seqr} : (s.updSeqr r f).Canon := h.setSeqr
theorem setDie {r : Nat} {x : Die} : (s.setDie r x).Canon := { h with dies := SMap.wf_set h.dies }
theorem updDie {r : Nat} {f : Die → Die} : (s.updDie r f).Canon := h.setDie

theorem mapSeqrs {f : Nat → Seqr → Seqr} : (s.mapSeqrs f).Canon := { h with seqrs := SMap.wf_mapV h.seqrs }
theorem mapEntries {f : Nat → Entry → Entry} : (s.mapEntries f).Canon := { h with entries := SMap.wf_mapV h.entries }
theorem dropRegions {e : BitVec 8} : (s.dropRegions e).Canon := { h with regions := SMap.wf_filter h.regions }
theorem writeMem {a : Nat} {bs : List Byte} : (s.writeMem a bs).Canon := { h with mem := Memory.wf_writeBytes h.mem }
theorem writeMemCells {cs : List Host.Cell} : (s.writeMemCells cs).Canon := { h with mem := Memory.wf_writeCells h.mem }
theorem writePool {cs : List Host.Cell} : (s.writePool cs).Canon := { h with pool := Memory.wf_writeCells h.pool }

end State.Canon

theorem foldl_canon {α : Type} {g : State → α → State} {s : State} {l : List α} (h : s.Canon)
    (hg : ∀ s x, s.Canon → (g s x).Canon) :
    (l.foldl g s).Canon := by
  induction l generalizing s with
  | nil => exact h
  | cons x l ih => exact ih (hg s x h)

theorem spad_setStream {x : Tile} {c st} (h : Memory.wf x.spad = true) :
    Memory.wf (x.setStream c st).spad = true := by cases c <;> exact h

theorem savedOk_set {m : SMap (List Tile)} {i : Nat} {xs : List Tile} (h : savedOk m) (hx : ∀ x ∈ xs, Memory.wf x.spad = true) :
    savedOk (SMap.set [] m i xs) := fun p hp => by
  rcases mem_set hp with hp | rfl
  · exact h p hp
  · exact hx

theorem savedOk_nil {m : SMap (List Tile)} {i : Nat} (h : savedOk m) :
    savedOk (SMap.set [] m i []) := savedOk_set h (fun _ hx => absurd hx (by simp))

theorem savedOk_filter {m : SMap (List Tile)} {f} (h : savedOk m) :
    savedOk (m.filter f) := fun p hp => h p (List.mem_of_mem_filter hp)

theorem State.Canon.save {s : State} {e : BitVec 8} {xs : List Tile} (h : s.Canon) (hx : ∀ x ∈ xs, Memory.wf x.spad = true) :
    (s.save e xs).Canon :=
  { h with saved := savedOk_set h.saved hx }

theorem State.Canon.drop {s : State} {e : BitVec 8} (h : s.Canon) : (s.save e []).Canon := h.save (fun _ hx => absurd hx (by simp))

theorem canon_fst {β : Type} {p : State × β} {x : State} {y : β} (e : p = (x, y)) (h : p.1.Canon) :
    x.Canon := by rw [e] at h; exact h

theorem foldl_fst_canon {α β : Type} {g : State × β → α → State × β} {a : State × β} {l : List α} (h : a.1.Canon)
    (hg : ∀ a x, a.1.Canon → (g a x).1.Canon) : (l.foldl g a).1.Canon := by
  induction l generalizing a with
  | nil => exact h
  | cons x l ih => exact ih (hg a x h)

theorem out_elim {o : Out} {t : State} (e : o = .next t) (h : Out.Canon o) : t.Canon := h.next _ e

theorem canon_ite {c : Prop} [Decidable c] {a b : State} (ha : a.Canon) (hb : b.Canon) : (if c then a else b).Canon := by
  split
  · exact ha
  · exact hb

theorem spad_foldl {α : Type} {g : Tile → α → Tile} {x : Tile} {l : List α} (h : Memory.wf x.spad = true)
    (hg : ∀ y a, Memory.wf y.spad = true → Memory.wf (g y a).spad = true) :
    Memory.wf (l.foldl g x).spad = true := by
  induction l generalizing x with
  | nil => exact h
  | cons a l ih => exact ih (hg x a h)

end Sys2Proof.Machine
end

