-- ==== Sys2Proof/Laws/CanonOps.lean ====
section
/-! SUPPORT. The shared operations keep the canonical form of every memory and table. -/

namespace Sys2Proof.Machine

theorem canon_spend {s : State} (h : s.Canon) : (State.spend s).Canon := by
  unfold State.spend
  repeat' first
    | (with_reducible assumption) | (simp only [canon_eta])

theorem spad_settled {x0} (h0 : Memory.wf x0.spad = true) : Memory.wf (Tile.settled x0).spad = true := by
  unfold Tile.settled
  try dsimp only
  repeat' first
    | (with_reducible first
        | assumption)
    | (simp only [canon_eta]) | (dsimp only) | (intro _)

theorem canon_after {s : State} {a1 a2 a3} (h : s.Canon) : (State.after s a1 a2 a3).Canon := by
  unfold State.after
  repeat' first
    | (with_reducible assumption) | (simp only [canon_eta])

theorem canon_later {s : State} {a1} (h : s.Canon) : (State.later s a1).Canon := by
  unfold State.later
  repeat' first
    | (with_reducible first
        | assumption | apply canon_spend | apply canon_after)

theorem canon_within {s : State} {a1 a2} (h : s.Canon) : (State.within s a1 a2).Canon := by
  unfold State.within
  repeat' first
    | (with_reducible first
        | assumption | apply canon_after | apply canon_spend)
    | (simp only [canon_eta]) | (dsimp only) | (intro _)

theorem canon_fresh {s : State} (h : s.Canon) : (State.fresh s).Canon := by
  unfold State.fresh
  repeat' first
    | (with_reducible assumption) | (simp only [canon_eta])

theorem canon_noteMove {s : State} {a1 a2 a3} (h : s.Canon) : (State.noteMove s a1 a2 a3).Canon := by
  unfold State.noteMove
  repeat' first
    | (with_reducible first
        | assumption)
    | (simp only [canon_eta]) | split | (dsimp only) | (intro _)

theorem canon_say {s : State} {a1} (h : s.Canon) : (State.say s a1).Canon := by
  unfold State.say
  repeat' first
    | (with_reducible first
        | assumption | apply out_canon)
    | (simp only [canon_eta])

theorem canon_updIssued {s : State} {a1} (h : s.Canon) : (State.updIssued s a1).Canon := by
  unfold State.updIssued
  dsimp only
  repeat' first
    | (with_reducible first
        | assumption | apply State.Canon.updTile | apply spad_setStream | apply State.Canon.tile)
    | (dsimp only) | split | (intro _)

theorem canon_emit {s : State} {a1} (h : s.Canon) : (State.emit s a1).Canon := by
  unfold State.emit
  repeat' first
    | (with_reducible first
        | assumption | apply canon_updIssued)

theorem canon_entryTag {s : State} {a1} (h : s.Canon) : (State.entryTag s a1).Canon := by
  unfold State.entryTag
  repeat' first
    | (with_reducible first
        | assumption | apply canon_updIssued)

theorem canon_mark {s : State} (h : s.Canon) : (State.mark s).Canon := by
  unfold State.mark
  repeat' first
    | (with_reducible first
        | assumption | apply canon_updIssued)

theorem canon_raise {s : State} {a1 a2 a3} (h : s.Canon) : (State.raise s a1 a2 a3).Canon := by
  unfold State.raise
  repeat' first
    | (with_reducible first
        | assumption | apply canon_spend | apply canon_updIssued)

theorem canon_raiseOpen {s : State} {a1} (h : s.Canon) : (State.raiseOpen s a1).Canon := by
  unfold State.raiseOpen
  repeat' first
    | (with_reducible first
        | assumption | apply canon_raise)

theorem canon_raiseAt {s : State} {a1 a2} (h : s.Canon) : (State.raiseAt s a1 a2).Canon := by
  unfold State.raiseAt
  repeat' first
    | (with_reducible first
        | assumption | apply canon_raise)

theorem canon_resultS {s : State} {a1 a2 a3 a4} (h : s.Canon) : (State.resultS s a1 a2 a3 a4).Canon := by
  unfold State.resultS
  repeat' first
    | (with_reducible first
        | assumption | apply canon_emit | apply canon_entryTag)

theorem canon_resultP {s : State} {a1 a2 a3} (h : s.Canon) : (State.resultP s a1 a2 a3).Canon := by
  unfold State.resultP
  repeat' first
    | (with_reducible first
        | assumption | apply canon_emit)
    | split

theorem canon_resultV {s : State} {a1 a2 a3 a4 a5 a6 a7} (h : s.Canon) : (State.resultV s a1 a2 a3 a4 a5 a6 a7).Canon := by
  unfold State.resultV
  repeat' first
    | (with_reducible first
        | assumption | apply canon_emit | apply canon_entryTag)

theorem canon_resultQ {s : State} {a1 a2 a3 a4 a5} (h : s.Canon) : (State.resultQ s a1 a2 a3 a4 a5).Canon := by
  unfold State.resultQ
  repeat' first
    | (with_reducible first
        | assumption | apply canon_emit)

theorem spad_putBytes {x0 a1 a2} (h0 : Memory.wf x0.spad = true) : Memory.wf (Tile.putBytes x0 a1 a2).spad = true := by
  unfold Tile.putBytes
  dsimp only
  repeat' first
    | (with_reducible first
        | assumption | apply Memory.wf_writeBytes)

theorem spad_setTag {x0 a1 a2} (h0 : Memory.wf x0.spad = true) : Memory.wf (Tile.setTag x0 a1 a2).spad = true := by
  unfold Tile.setTag
  dsimp only
  repeat' first
    | (with_reducible assumption)

theorem spad_commitStore {x0 a1} (h0 : Memory.wf x0.spad = true) : Memory.wf (Tile.commitStore x0 a1).spad = true := by
  unfold Tile.commitStore
  dsimp only
  repeat' first
    | (with_reducible first
        | assumption | apply spad_setTag | apply Memory.wf_writeCells | apply spad_foldl)
    | (simp only [canon_eta]) | split | (dsimp only) | (intro _)

theorem spad_putLine {x0 a1 a2 a3} (h0 : Memory.wf x0.spad = true) : Memory.wf (Tile.putLine x0 a1 a2 a3).spad = true := by
  unfold Tile.putLine
  repeat' first
    | (with_reducible first
        | assumption | apply spad_putBytes | apply spad_setTag)

theorem spad_scrub {x0 a1} (h0 : Memory.wf x0.spad = true) : Memory.wf (Tile.scrub x0 a1).spad = true := by
  unfold Tile.scrub
  dsimp only
  repeat' first
    | (with_reducible assumption)

theorem canon_postQueue {s : State} {a1} (h : s.Canon) : (State.postQueue s a1).Canon := by
  unfold State.postQueue
  dsimp only
  repeat' first
    | (with_reducible first
        | assumption | apply State.Canon.updDie)
    | (simp only [canon_eta]) | split

theorem canon_park {s : State} {a1} (h : s.Canon) : (State.park s a1).Canon := by
  unfold State.park
  dsimp only
  repeat' first
    | (with_reducible first
        | assumption | apply State.Canon.mapRegions | apply State.Canon.updEntry | apply canon_spend | apply canon_after)
    | (simp only [canon_eta]) | split

theorem canon_postFatal {s : State} {a1} (h : s.Canon) : (State.postFatal s a1).Canon := by
  unfold State.postFatal
  dsimp only
  repeat' first
    | (with_reducible first
        | assumption | apply State.Canon.updDie | apply canon_park | apply foldl_canon | apply foldl_fst_canon
        | apply spad_foldl)
    | (simp only [canon_eta]) | split

theorem canon_post {s : State} {a1} (h : s.Canon) : (State.post s a1).Canon := by
  unfold State.post
  repeat' first
    | (with_reducible first
        | assumption | apply canon_postQueue | apply canon_postFatal)
    | split

theorem canon_warn {s : State} {a1 a2 a3 a4 a5} (h : s.Canon) : (State.warn s a1 a2 a3 a4 a5).Canon := by
  unfold State.warn
  dsimp only
  repeat' first
    | (with_reducible first
        | assumption | apply canon_spend | apply canon_post)

theorem canon_missedTrigger {s : State} (h : s.Canon) : (State.missedTrigger s).Canon := by
  unfold State.missedTrigger
  repeat' first
    | (with_reducible first
        | assumption)
    | (simp only [canon_eta]) | (dsimp only) | (intro _)

theorem canon_snapTrigger {s : State} {a1 a2} (h : s.Canon) : (State.snapTrigger s a1 a2).Canon := by
  unfold State.snapTrigger
  dsimp only
  repeat' first
    | (with_reducible first
        | assumption | apply canon_missedTrigger)
    | (simp only [canon_eta]) | split | (dsimp only) | (intro _)

theorem canon_raiseExt {s : State} {a1 a2 a3 a4 a5 a6} (h : s.Canon) : (State.raiseExt s a1 a2 a3 a4 a5 a6).Canon := by
  unfold State.raiseExt
  repeat' first
    | (with_reducible first
        | assumption | apply State.Canon.updTile)
    | (dsimp only) | split | (intro _)

theorem canon_take {s : State} {a1 a2 a3 a4 a5 a6 a7 a8} (h : s.Canon) : (State.take s a1 a2 a3 a4 a5 a6 a7 a8).Canon := by
  unfold State.take
  dsimp only
  repeat' first
    | (with_reducible first
        | assumption | apply State.Canon.updTile | apply canon_snapTrigger | apply State.Canon.tile)
    | (simp only [canon_eta]) | split | (dsimp only) | (intro _)

theorem canon_dropCauses {s : State} {a1 a2 a3} (h : s.Canon) : (State.dropCauses s a1 a2 a3).Canon := by
  unfold State.dropCauses
  repeat' first
    | (with_reducible first
        | assumption | apply foldl_canon | apply canon_post)
    | (simp only [canon_eta]) | split | (dsimp only) | (intro _)

theorem canon_supersede {s : State} {a1 a2 a3 a4} (h : s.Canon) : (State.supersede s a1 a2 a3 a4).Canon := by
  unfold State.supersede
  repeat' first
    | (with_reducible first
        | assumption | apply canon_dropCauses)
    | (simp only [canon_eta]) | (dsimp only) | (intro _)

theorem canon_double {s : State} {a1} (h : s.Canon) : (State.double s a1).Canon := by
  unfold State.double
  repeat' first
    | (with_reducible first
        | assumption | apply State.Canon.updTile)
    | (simp only [canon_eta]) | split | (dsimp only) | (intro _)

theorem wf_ite {c : Prop} [Decidable c] {a b : List Host.Cell} (ha : Memory.wf a = true) (hb : Memory.wf b = true) :
    Memory.wf (if c then a else b) = true := by
  split
  · exact ha
  · exact hb

theorem wf_captureAll {g : Regs} {c : Nat} {rs : List Result} {i : Nat} {m : List Host.Cell} (h : Memory.wf m = true) :
    Memory.wf (captureAll g c rs i m) = true := by
  induction rs generalizing g i m with
  | nil => exact h
  | cons r rs ih =>
    unfold captureAll
    extract_lets g' kr w tag m1 m2
    have h1 : Memory.wf m1 = true := Memory.wf_writeBytes h
    exact ih (wf_ite (Memory.wf_writeBytes h1) h1)

theorem canon_enterHandler {s : State} {a1 a2} (h : s.Canon) : (State.enterHandler s a1 a2).Canon := by
  unfold State.enterHandler
  dsimp only
  repeat' first
    | (with_reducible first
        | assumption | apply State.Canon.setTile | apply foldl_canon | apply foldl_fst_canon | apply spad_foldl
        | apply State.Canon.tile | apply Memory.wf_writeBytes | apply wf_ite | apply wf_captureAll
        | apply canon_double | apply spad_scrub)
    | (simp only [canon_eta]) | split | (dsimp only) | (intro _)

theorem canon_leaveHandler {s : State} {a1} (h : s.Canon) : (State.leaveHandler s a1).Canon := by
  unfold State.leaveHandler
  dsimp only
  repeat' first
    | (with_reducible first
        | assumption | apply State.Canon.setTile | apply foldl_canon | apply foldl_fst_canon | apply spad_foldl
        | apply State.Canon.tile | apply spad_scrub)
    | (simp only [canon_eta]) | split | (dsimp only) | (intro _)

end Sys2Proof.Machine
end

