-- ==== Sys2Proof/Laws/CanonOperands.lean ====
section
/-! SUPPORT. The operand and result operations keep the canonical form of every memory and table. -/

namespace Sys2Proof.Machine

theorem canon_when {s : State} {p : BitVec 4} {f : State → State} (h : s.Canon) (hf : ∀ s : State, s.Canon → (f s).Canon) :
    Out.Canon (s.when p f) := by
  unfold State.when
  apply out_canon
  split
  · exact hf s h
  · exact h

theorem canon_usePort {s : State} {a1 a2 a3 a4} (h : s.Canon) : (State.usePort s a1 a2 a3 a4).Canon := by
  unfold State.usePort
  repeat' first
    | (with_reducible first
        | assumption | apply State.Canon.updTile | apply canon_emit | apply State.Canon.tile)
    | (dsimp only) | split | (intro _)

theorem canon_takePorts {s : State} {a1 a2 a3} (h : s.Canon) : (State.takePorts s a1 a2 a3).1.Canon := by
  unfold State.takePorts
  dsimp only
  repeat' first
    | (with_reducible first
        | assumption | apply canon_updIssued | apply canon_raise | apply canon_usePort | apply foldl_canon
        | apply foldl_fst_canon | apply spad_foldl)
    | (simp only [canon_eta]) | split | (dsimp only) | (intro _)

theorem canon_raiseUecc {s : State} {a1 a2} (h : s.Canon) : (State.raiseUecc s a1 a2).Canon := by
  unfold State.raiseUecc
  repeat' first
    | (with_reducible first
        | assumption | apply canon_spend | apply canon_updIssued)
    | (simp only [canon_eta]) | (dsimp only) | (intro _)

theorem canon_laterPorts {s : State} {a1 a2} (h : s.Canon) : (State.laterPorts s a1 a2).Canon := by
  unfold State.laterPorts
  repeat' first
    | (with_reducible first
        | assumption | apply foldl_canon | apply canon_emit)
    | (simp only [canon_eta]) | split | (dsimp only) | (intro _)

theorem canon_memAccess {s : State} {a1 a2 a3 a4 a5 a6} (h : s.Canon) : (State.memAccess s a1 a2 a3 a4 a5 a6).1.Canon := by
  unfold State.memAccess
  dsimp only
  repeat' first
    | (with_reducible first
        | assumption | apply State.Canon.updTile | apply foldl_canon | apply foldl_fst_canon | apply spad_foldl
        | apply State.Canon.tile | apply wf_ite | apply canon_laterPorts | apply canon_raise | apply canon_raiseUecc
        | apply spad_scrub | apply canon_takePorts)
    | (simp only [canon_eta]) | split | (dsimp only) | (intro _)

theorem canon_bufferStore {s : State} {a1 a2 a3 a4 a5} (h : s.Canon) : (State.bufferStore s a1 a2 a3 a4 a5).Canon := by
  unfold State.bufferStore
  dsimp only
  repeat' first
    | (with_reducible first
        | assumption | apply canon_emit | apply canon_entryTag | apply foldl_canon)

theorem spad_keep {x0 a1 a2} (h0 : Memory.wf x0.spad = true) : Memory.wf (Tile.keep x0 a1 a2).spad = true := by
  unfold Tile.keep
  repeat' first
    | (with_reducible assumption) | (simp only [canon_eta]) | split

theorem spad_keepIe {x0 a1} (h0 : Memory.wf x0.spad = true) : Memory.wf (Tile.keepIe x0 a1).spad = true := by
  unfold Tile.keepIe
  repeat' first
    | (with_reducible first
        | assumption | apply spad_keep)

theorem spad_keepM {x0 a1} (h0 : Memory.wf x0.spad = true) : Memory.wf (Tile.keepM x0 a1).spad = true := by
  unfold Tile.keepM
  repeat' first
    | (with_reducible first
        | assumption | apply spad_keep)

theorem spad_restoreKept {x0 a1} (h0 : Memory.wf x0.spad = true) : Memory.wf (Tile.restoreKept x0 a1).spad = true := by
  unfold Tile.restoreKept
  dsimp only
  repeat' first
    | (with_reducible assumption)

theorem spad_sysWrite {x0 a1 a2 a3} (h0 : Memory.wf x0.spad = true) : Memory.wf (Tile.sysWrite x0 a1 a2 a3).spad = true := by
  unfold Tile.sysWrite
  dsimp only
  repeat' first
    | (with_reducible first
        | assumption | apply spad_setStream | apply spad_keep | apply spad_keepIe | apply spad_keepM)
    | (simp only [canon_eta]) | split

end Sys2Proof.Machine
end

