-- ==== Sys2Proof/Laws/CanonMatrix.lean ====
section
/-! SUPPORT. The definitions of Machine/Matrix.lean keep the canonical form of every memory and table. -/

namespace Sys2Proof.Machine

theorem canon_mcommand {s : State} {a1 a2 a3 a4 a5 a6 a7 a8 a9} (h : s.Canon) :
    (State.mcommand s a1 a2 a3 a4 a5 a6 a7 a8 a9).Canon := by
  unfold State.mcommand
  dsimp only
  repeat' first
    | (with_reducible first
        | assumption | apply canon_emit | apply canon_mark)

theorem canon_execMldw {s : State} {a0 a1 a2 a3 a4 a5 a6} (h : s.Canon) : Out.Canon (execMldw a0 a1 a2 a3 a4 a5 a6 s) := by
  unfold execMldw
  dsimp only
  repeat' first
    | (with_reducible first
        | assumption | apply canon_raiseOpen | apply canon_when | apply canon_mcommand | apply out_canon)
    | split | (dsimp only) | (intro _)

theorem canon_execMswap {s : State} {a0 a1} (h : s.Canon) : Out.Canon (execMswap a0 a1 s) := by
  unfold execMswap
  repeat' first
    | (with_reducible first
        | assumption | apply canon_when | apply canon_mcommand | apply out_canon)
    | split | (dsimp only) | (intro _)

theorem canon_pass {s : State} {a1 a2 a3 a4 a5 a6 a7} (h : s.Canon) : (State.pass s a1 a2 a3 a4 a5 a6 a7).Canon := by
  unfold State.pass
  dsimp only
  repeat' first
    | (with_reducible first
        | assumption | apply canon_raiseOpen | apply canon_mcommand)
    | split

theorem canon_execMstr {s : State} {a0 a1 a2 a3 a4 a5 a6} (h : s.Canon) : Out.Canon (execMstr a0 a1 a2 a3 a4 a5 a6 s) := by
  unfold execMstr
  repeat' first
    | (with_reducible first
        | assumption | apply canon_when | apply canon_pass | apply out_canon)
    | split | (dsimp only) | (intro _)

theorem canon_execMstrz {s : State} {a0 a1 a2 a3 a4 a5 a6} (h : s.Canon) : Out.Canon (execMstrz a0 a1 a2 a3 a4 a5 a6 s) := by
  unfold execMstrz
  repeat' first
    | (with_reducible first
        | assumption | apply canon_when | apply canon_pass | apply out_canon)
    | split | (dsimp only) | (intro _)

theorem canon_execMcbt {s : State} {a0 a1 a2} (h : s.Canon) : Out.Canon (execMcbt a0 a1 a2 s) := by
  unfold execMcbt
  dsimp only
  repeat' first
    | (with_reducible first
        | assumption | apply canon_raiseOpen | apply canon_when | apply canon_mcommand | apply out_canon)
    | split | (dsimp only) | (intro _)

theorem canon_execMscl {s : State} {a0 a1 a2} (h : s.Canon) : Out.Canon (execMscl a0 a1 a2 s) := by
  unfold execMscl
  repeat' first
    | (with_reducible first
        | assumption | apply canon_when | apply canon_mcommand | apply out_canon)
    | split | (dsimp only) | (intro _)

theorem canon_matrixTrap {s : State} {a1 a2 a3 a4 a5} (h : s.Canon) : (State.matrixTrap s a1 a2 a3 a4 a5).Canon := by
  unfold State.matrixTrap
  repeat' first
    | (with_reducible first
        | assumption | apply State.Canon.updTile | apply canon_raiseExt)
    | (dsimp only) | split | (intro _)

theorem spad_orM {x0 a1} (h0 : Memory.wf x0.spad = true) : Memory.wf (Tile.orM x0 a1).spad = true := by
  unfold Tile.orM
  dsimp only
  repeat' first
    | (with_reducible assumption)

theorem canon_startTrap {s : State} {a1 a2 a3} (h : s.Canon) : (State.startTrap s a1 a2 a3).Canon := by
  unfold State.startTrap
  repeat' first
    | (with_reducible first
        | assumption | apply canon_spend | apply canon_matrixTrap)

theorem canon_runMatrix {s : State} {a1 a2} (h : s.Canon) : (State.runMatrix s a1 a2).Canon := by
  unfold State.runMatrix
  dsimp only
  repeat' first
    | (with_reducible first
        | assumption | apply State.Canon.updTile | apply canon_startTrap | apply State.Canon.tile)
    | (dsimp only) | split | (intro _)

theorem canon_startMatrix {s : State} {a1} (h : s.Canon) : (State.startMatrix s a1).Canon := by
  unfold State.startMatrix
  dsimp only
  repeat' first
    | (with_reducible first
        | assumption | apply State.Canon.updTile | apply State.Canon.tile | apply canon_matrixTrap
        | apply canon_runMatrix | apply canon_spend | apply canon_startTrap)
    | (simp only [canon_eta]) | split | (dsimp only) | (intro _)

theorem spad_scrubAcc {x0 a1 a2} (h0 : Memory.wf x0.spad = true) : Memory.wf (Tile.scrubAcc x0 a1 a2).spad = true := by
  unfold Tile.scrubAcc
  try dsimp only
  repeat' first
    | (with_reducible first
        | assumption)
    | (simp only [canon_eta]) | (dsimp only) | (intro _)

theorem spad_unread {x0 a1} (h0 : Memory.wf x0.spad = true) : Memory.wf (Tile.unread x0 a1).spad = true := by
  unfold Tile.unread
  try dsimp only
  repeat' first
    | (with_reducible first
        | assumption)
    | (simp only [canon_eta]) | (dsimp only) | (intro _)

theorem spad_settlePorts {x0} (h0 : Memory.wf x0.spad = true) : Memory.wf (Tile.settlePorts x0).spad = true := by
  unfold Tile.settlePorts
  dsimp only
  repeat' first
    | (with_reducible first
        | assumption | apply spad_foldl | apply spad_scrubAcc | apply spad_unread)
    | (simp only [canon_eta]) | split | (dsimp only) | (intro _)

theorem canon_loadRow {s : State} {a1 a2 a3} (h : s.Canon) : (State.loadRow s a1 a2 a3).Canon := by
  unfold State.loadRow
  dsimp only
  repeat' first
    | (with_reducible first
        | assumption | apply State.Canon.setTile | apply foldl_canon | apply foldl_fst_canon | apply spad_scrub | apply spad_orM
        | apply spad_foldl | apply State.Canon.tile)
    | (simp only [canon_eta]) | split

theorem canon_mxStop {s u : State} {t : Nat} {us : List PortUse} {as_ : List Int} (h : s.Canon)
    (e : s.mxStop t us as_ = some u) : u.Canon := by
  unfold State.mxStop at e
  split at e
  · exact Option.some.inj e ▸ canon_spend (canon_matrixTrap h)
  · exact Option.some.inj e ▸ h.updTile fun y hy => hy
  · cases e

theorem canon_loaderTick {s : State} {a1} (h : s.Canon) : (State.loaderTick s a1).Canon := by
  unfold State.loaderTick
  repeat' first
    | (with_reducible first
        | assumption | apply canon_loadRow)
    | (simp only [canon_eta]) | split | (dsimp only) | (intro _)

theorem canon_enterRow {s : State} {a1 a2 a3 a4} (h : s.Canon) : (State.enterRow s a1 a2 a3 a4).Canon := by
  unfold State.enterRow
  dsimp only
  repeat' first
    | (with_reducible first
        | assumption | apply State.Canon.setTile | apply foldl_canon | apply foldl_fst_canon | apply spad_scrub
        | apply spad_foldl | apply State.Canon.tile)
    | (simp only [canon_eta]) | split | (dsimp only) | (intro _)

theorem canon_arrayTick {s : State} {a1 a2} (h : s.Canon) : (State.arrayTick s a1 a2).Canon := by
  unfold State.arrayTick
  repeat' first
    | (with_reducible first
        | assumption | apply canon_enterRow)
    | (simp only [canon_eta]) | split | (dsimp only) | (intro _)

theorem canon_getD {s : State} {o : Option State} (ho : ∀ u, o = some u → u.Canon) (h : s.Canon) : (o.getD s).Canon := by
  cases o with
  | none => exact h
  | some u => exact ho u rfl

theorem canon_accessTick {s : State} {t c : Nat} {us : List PortUse} (h : s.Canon) : (s.accessTick t c us).Canon := by
  unfold State.accessTick
  dsimp only
  split
  · rename_i u e
    exact canon_getD (fun v hv => canon_mxStop (canon_mxStop h e) hv) (canon_mxStop h e)
  · exact canon_getD (fun v hv => canon_mxStop h hv) (canon_loaderTick (canon_arrayTick h))

theorem canon_rowTick {s : State} {a1 a2 a3} (h : s.Canon) : (State.rowTick s a1 a2 a3).Canon := by
  unfold State.rowTick
  dsimp only
  repeat' first
    | (with_reducible first
        | assumption | apply State.Canon.setTile | apply State.Canon.updTile | apply canon_spend | apply canon_matrixTrap
        | apply spad_orM | apply State.Canon.tile)
    | (dsimp only) | split | (intro _)

theorem canon_matrixTick {s : State} {a1 a2 a3} (h : s.Canon) : (State.matrixTick s a1 a2 a3).Canon := by
  unfold State.matrixTick
  repeat' first
    | (with_reducible first
        | assumption | apply foldl_canon | apply canon_accessTick | apply canon_rowTick)
    | (simp only [canon_eta]) | split | (dsimp only) | (intro _)

theorem canon_kread {s : State} {acc : BitVec 3} {r : Nat} {f : State → SMap (BitVec 40) → State} (h : s.Canon)
    (hf : ∀ s a, State.Canon s → (f s a).Canon) : (s.kread acc r f).Canon := by
  unfold State.kread
  dsimp only
  split
  · exact canon_raiseAt (h.updTile fun _ hx => hx)
  · exact hf _ _ (h.updTile fun _ hx => hx)

theorem canon_execArd {s : State} {a0 a1 a2 a3 a4 a5 a6 a7} (h : s.Canon) : Out.Canon (execArd a0 a1 a2 a3 a4 a5 a6 a7 s) := by
  unfold execArd
  dsimp only
  repeat' first
    | (with_reducible first
        | assumption | apply canon_resultV | apply canon_when | apply canon_kread | apply out_canon)
    | split | (dsimp only) | (intro _)

theorem canon_execArdb {s : State} {a0 a1 a2 a3 a4 a5 a6} (h : s.Canon) : Out.Canon (execArdb a0 a1 a2 a3 a4 a5 a6 s) := by
  unfold execArdb
  dsimp only
  repeat' first
    | (with_reducible first
        | assumption | apply canon_resultV | apply canon_when | apply canon_kread | apply out_canon)
    | split | (dsimp only) | (intro _)

theorem canon_execArdl {s : State} {a0 a1 a2 a3 a4 a5 a6} (h : s.Canon) : Out.Canon (execArdl a0 a1 a2 a3 a4 a5 a6 s) := by
  unfold execArdl
  dsimp only
  repeat' first
    | (with_reducible first
        | assumption | apply canon_resultV | apply canon_when | apply canon_kread | apply out_canon)
    | split | (dsimp only) | (intro _)

theorem canon_execArdl8 {s : State} {a0 a1 a2 a3 a4 a5 a6 a7} (h : s.Canon) : Out.Canon (execArdl8 a0 a1 a2 a3 a4 a5 a6 a7 s) := by
  unfold execArdl8
  dsimp only
  repeat' first
    | (with_reducible first
        | assumption | apply canon_resultV | apply canon_when | apply canon_kread | apply out_canon)
    | split | (dsimp only) | (intro _)

theorem canon_kwrite {s : State} {a1 a2 a3 a4} (h : s.Canon) : (State.kwrite s a1 a2 a3 a4).Canon := by
  unfold State.kwrite
  repeat' first
    | (with_reducible first
        | assumption | apply canon_emit | apply canon_mark)

theorem canon_execAwr {s : State} {a0 a1 a2 a3 a4 a5 a6} (h : s.Canon) : Out.Canon (execAwr a0 a1 a2 a3 a4 a5 a6 s) := by
  unfold execAwr
  dsimp only
  repeat' first
    | (with_reducible first
        | assumption | apply canon_when | apply canon_kwrite | apply out_canon)
    | split | (dsimp only) | (intro _)

theorem canon_execAwrb {s : State} {a0 a1 a2 a3 a4 a5} (h : s.Canon) : Out.Canon (execAwrb a0 a1 a2 a3 a4 a5 s) := by
  unfold execAwrb
  dsimp only
  repeat' first
    | (with_reducible first
        | assumption | apply canon_when | apply canon_kwrite | apply out_canon)
    | split | (dsimp only) | (intro _)

theorem canon_execAclr {s : State} {a0 a1 a2 a3 a4} (h : s.Canon) : Out.Canon (execAclr a0 a1 a2 a3 a4 s) := by
  unfold execAclr
  repeat' first
    | (with_reducible first
        | assumption | apply canon_when | apply canon_kwrite | apply out_canon)
    | split | (dsimp only) | (intro _)

theorem canon_execAadd {s : State} {a0 a1 a2 a3 a4 a5} (h : s.Canon) : Out.Canon (execAadd a0 a1 a2 a3 a4 a5 s) := by
  unfold execAadd
  dsimp only
  repeat' first
    | (with_reducible first
        | assumption | apply canon_when | apply canon_kread | apply canon_kwrite | apply out_canon)
    | split | (dsimp only) | (intro _)

end Sys2Proof.Machine
end

