-- ==== Sys2Proof/Laws/CanonChannel.lean ====
section
/-! SUPPORT. The definitions of Machine/Channel.lean keep the canonical form of every memory and table. -/

namespace Sys2Proof.Machine

theorem canon_breach {s : State} {a1 a2 a3 a4 a5 a6 a7} (h : s.Canon) : (State.breach s a1 a2 a3 a4 a5 a6 a7).Canon := by
  unfold State.breach
  repeat' first
    | (with_reducible first
        | assumption | apply State.Canon.updSeqr | apply canon_raiseExt)

theorem canon_command {s : State} {cmd : Nat} {pc : BitVec 1} {bk : Nat} {f : Nat → State → State} (h : s.Canon)
    (hf : ∀ q s, State.Canon s → (f q s).Canon) : Out.Canon (s.command cmd pc bk f) := by
  unfold State.command
  dsimp only
  repeat' first | (with_reducible assumption) | (with_reducible apply out_canon) | (with_reducible apply canon_breach) | (with_reducible apply hf) | split

theorem canon_execAct {s : State} {a0 a1 a2 a3} (h : s.Canon) : Out.Canon (execAct a0 a1 a2 a3 s) := by
  unfold execAct
  dsimp only
  repeat' first
    | (with_reducible first
        | assumption | apply State.Canon.updSeqr | apply canon_take | apply canon_command | apply out_canon)
    | (simp only [canon_eta]) | split | (dsimp only) | (intro _)

theorem canon_execRd {s : State} {a0 a1 a2 a3 a4 a5} (h : s.Canon) : Out.Canon (execRd a0 a1 a2 a3 a4 a5 s) := by
  unfold execRd
  dsimp only
  repeat' first
    | (with_reducible first
        | assumption | apply State.Canon.updSeqr | apply canon_command | apply out_canon | apply State.Canon.mem
        | apply State.Canon.pool)
    | (simp only [canon_eta]) | split | (dsimp only) | (intro _)

theorem canon_haltSeqr {s : State} {a1} (h : s.Canon) : (State.haltSeqr s a1).Canon := by
  unfold State.haltSeqr
  repeat' first
    | (with_reducible first
        | assumption | apply State.Canon.updSeqr)

theorem canon_execWr {s : State} {a0 a1 a2 a3 a4 a5} (h : s.Canon) : Out.Canon (execWr a0 a1 a2 a3 a4 a5 s) := by
  unfold execWr
  dsimp only
  repeat' first
    | (with_reducible first
        | assumption | apply State.Canon.updTile | apply State.Canon.updSeqr | apply State.Canon.writeMem | apply canon_spend
        | apply canon_raiseExt | apply canon_command | apply canon_haltSeqr | apply out_canon | apply spad_scrub
        | apply State.Canon.tile)
    | (simp only [canon_eta]) | split | (dsimp only) | (intro _)

theorem canon_execPre {s : State} {a0 a1 a2} (h : s.Canon) : Out.Canon (execPre a0 a1 a2 s) := by
  unfold execPre
  repeat' first
    | (with_reducible first
        | assumption | apply State.Canon.updSeqr | apply canon_command | apply out_canon)
    | split | (dsimp only) | (intro _)

theorem canon_execPrea {s : State} {a0 a1} (h : s.Canon) : Out.Canon (execPrea a0 a1 s) := by
  unfold execPrea
  repeat' first
    | (with_reducible first
        | assumption | apply State.Canon.updSeqr | apply canon_command | apply out_canon)
    | split | (dsimp only) | (intro _)

theorem canon_execRef {s : State} {a0 a1} (h : s.Canon) : Out.Canon (execRef a0 a1 s) := by
  unfold execRef
  dsimp only
  repeat' first
    | (with_reducible first
        | assumption | apply State.Canon.updSeqr | apply canon_command | apply out_canon)
    | (simp only [canon_eta]) | split | (dsimp only) | (intro _)

theorem canon_execRefpb {s : State} {a0 a1 a2} (h : s.Canon) : Out.Canon (execRefpb a0 a1 a2 s) := by
  unfold execRefpb
  dsimp only
  repeat' first
    | (with_reducible first
        | assumption | apply State.Canon.updSeqr | apply canon_command | apply out_canon)
    | (simp only [canon_eta]) | split | (dsimp only) | (intro _)

theorem canon_program {s : State} {a1} (h : s.Canon) : Out.Canon (State.program s a1) := by
  unfold State.program
  repeat' first
    | (with_reducible first
        | assumption | apply State.Canon.updSeqr | apply out_canon)
    | split

theorem canon_execWaitc {s : State} {a0} (h : s.Canon) : Out.Canon (execWaitc a0 s) := by
  unfold execWaitc
  repeat' first
    | (with_reducible first
        | assumption | apply canon_program)

theorem canon_execTnest {s : State} {a0 a1 a2 a3 a4} (h : s.Canon) : Out.Canon (execTnest a0 a1 a2 a3 a4 s) := by
  unfold execTnest
  repeat' first
    | (with_reducible first
        | assumption | apply canon_program)

theorem canon_execTend {s : State} {a0} (h : s.Canon) : Out.Canon (execTend a0 s) := by
  unfold execTend
  repeat' first
    | (with_reducible first
        | assumption | apply canon_program)

theorem canon_execTroute {s : State} {a0} (h : s.Canon) : Out.Canon (execTroute a0 s) := by
  unfold execTroute
  repeat' first
    | (with_reducible first
        | assumption | apply canon_program)

theorem canon_execThalt {s : State} (h : s.Canon) : Out.Canon (execThalt s) := by
  unfold execThalt
  repeat' first
    | (with_reducible first
        | assumption | apply canon_program)

theorem canon_programs {s : State} {l : List Nat} (h : s.Canon) : (s.programs l).1.Canon := by
  induction l generalizing s with
  | nil => exact h
  | cons q l ih =>
    unfold State.programs
    dsimp only
    split
    · exact ih h.setSeqr
    · exact ih h

theorem canon_tickTails {s : State} (h : s.Canon) : (State.tickTails s).Canon := by
  unfold State.tickTails
  repeat' first
    | (with_reducible first
        | assumption | apply State.Canon.mapSeqrs)
    | (simp only [canon_eta]) | (dsimp only) | (intro _)

theorem canon_landBurst {s : State} {a1 a2} (h : s.Canon) : (State.landBurst s a1 a2).Canon := by
  unfold State.landBurst
  dsimp only
  repeat' first
    | (with_reducible first
        | assumption | apply State.Canon.setTile | apply State.Canon.tile | apply canon_haltSeqr | apply spad_putBytes
        | apply canon_raiseExt | apply spad_setTag | apply canon_spend | apply State.Canon.updSeqr)
    | (simp only [canon_eta]) | split | (dsimp only) | (intro _)

theorem canon_execRdBurstLanding {s : State} {a0} (h : s.Canon) : Out.Canon (execRdBurstLanding a0 s) := by
  unfold execRdBurstLanding
  repeat' first
    | (with_reducible first
        | assumption | apply canon_landBurst | apply foldl_canon | apply foldl_fst_canon | apply out_canon | apply spad_foldl)
    | split | (dsimp only) | (intro _)

theorem canon_execParkedBurstWrite {s : State} {a0} (h : s.Canon) : Out.Canon (execParkedBurstWrite a0 s) := by
  unfold execParkedBurstWrite
  repeat' first
    | (with_reducible first
        | assumption | apply canon_landBurst | apply foldl_canon | apply foldl_fst_canon | apply out_canon | apply spad_foldl)
    | split | (dsimp only) | (intro _)

theorem canon_parkBursts {s : State} {a1} (h : s.Canon) : (State.parkBursts s a1).Canon := by
  unfold State.parkBursts
  repeat' first
    | (with_reducible first
        | assumption | apply State.Canon.updSeqr)
    | (simp only [canon_eta]) | split

theorem canon_execRefreshDebtRise {s : State} {a0} (h : s.Canon) : Out.Canon (execRefreshDebtRise a0 s) := by
  unfold execRefreshDebtRise
  dsimp only
  repeat' first
    | (with_reducible first
        | assumption | apply State.Canon.updSeqr | apply canon_breach | apply foldl_canon | apply foldl_fst_canon
        | apply out_canon | apply spad_foldl)
    | (simp only [canon_eta]) | split | (dsimp only) | (intro _)

theorem canon_refreshPc {s : State} {a1 a2} (h : s.Canon) : (State.refreshPc s a1 a2).Canon := by
  unfold State.refreshPc
  dsimp only
  repeat' first
    | (with_reducible first
        | assumption | apply State.Canon.setSeqr)
    | (simp only [canon_eta]) | split

theorem canon_execAutonomousRefresh {s : State} {a0} (h : s.Canon) : Out.Canon (execAutonomousRefresh a0 s) := by
  unfold execAutonomousRefresh
  repeat' first
    | (with_reducible first
        | assumption | apply canon_refreshPc | apply foldl_canon | apply foldl_fst_canon | apply out_canon | apply spad_foldl)
    | split | (dsimp only) | (intro _)

theorem canon_execCachedWindowOpen {s : State} {a0} (h : s.Canon) : Out.Canon (execCachedWindowOpen a0 s) := by
  unfold execCachedWindowOpen
  dsimp only
  repeat' first
    | (with_reducible first
        | assumption | apply canon_breach | apply out_canon)
    | (simp only [canon_eta]) | split

end Sys2Proof.Machine
end

