-- ==== Sys2Proof/Laws/CanonMesh.lean ====
section
/-! SUPPORT. The definitions of Machine/Mesh.lean keep the canonical form of every memory and table. -/

namespace Sys2Proof.Machine

theorem canon_dropTx {s : State} {a1 a2 a3} (h : s.Canon) : (State.dropTx s a1 a2 a3).Canon := by
  unfold State.dropTx
  repeat' first
    | (with_reducible first
        | assumption | apply canon_raiseExt)
    | (simp only [canon_eta])

theorem canon_countLine {s : State} {a1 a2 a3 a4} (h : s.Canon) : (State.countLine s a1 a2 a3 a4).Canon := by
  unfold State.countLine
  repeat' first
    | (with_reducible first
        | assumption | apply State.Canon.updDie)
    | (simp only [canon_eta]) | (dsimp only) | (intro _)

theorem canon_execTimedHop {s : State} {a0} (h : s.Canon) : Out.Canon (execTimedHop a0 s) := by
  unfold execTimedHop
  dsimp only
  repeat' first
    | (with_reducible first
        | assumption | apply out_canon | apply canon_countLine | apply canon_dropTx)
    | (simp only [canon_eta]) | split | (dsimp only) | (intro _)

theorem canon_deliver {s : State} {a1} (h : s.Canon) : (State.deliver s a1).Canon := by
  unfold State.deliver
  dsimp only
  repeat' first
    | (with_reducible first
        | assumption | apply State.Canon.updTile | apply canon_raiseExt | apply canon_spend | apply State.Canon.updDie)
    | (simp only [canon_eta]) | split | (dsimp only) | (intro _)

theorem canon_latchWrite {s : State} {a1 a2 a3} (h : s.Canon) : Out.Canon (State.latchWrite s a1 a2 a3) := by
  unfold State.latchWrite
  repeat' first
    | (with_reducible first
        | assumption | apply canon_deliver | apply out_canon)
    | (simp only [canon_eta]) | split

theorem canon_execMeshLatchWrite {s : State} {a0} (h : s.Canon) : Out.Canon (execMeshLatchWrite a0 s) := by
  unfold execMeshLatchWrite
  repeat' first
    | (with_reducible first
        | assumption | apply canon_latchWrite)

theorem canon_execDieLatchWrite {s : State} {a0} (h : s.Canon) : Out.Canon (execDieLatchWrite a0 s) := by
  unfold execDieLatchWrite
  repeat' first
    | (with_reducible first
        | assumption | apply canon_latchWrite)

theorem canon_clearTxs {s : State} (h : s.Canon) : (State.clearTxs s).Canon := by
  unfold State.clearTxs
  repeat' first
    | (with_reducible assumption) | (simp only [canon_eta])

theorem canon_endTxs {s : State} {a1} (h : s.Canon) : (State.endTxs s a1).Canon := by
  unfold State.endTxs
  repeat' first
    | (with_reducible first
        | assumption)
    | (simp only [canon_eta]) | (dsimp only) | (intro _)

theorem canon_packet {s : State} {a1 a2 a3 a4 a5 a6 a7} (h : s.Canon) : (State.packet s a1 a2 a3 a4 a5 a6 a7).Canon := by
  unfold State.packet
  repeat' first
    | (with_reducible first
        | assumption | apply canon_fresh)
    | (simp only [canon_eta]) | (dsimp only) | (intro _)

theorem canon_carry {s : State} {a1 a2 a3 a4 a5} (h : s.Canon) : (State.carry s a1 a2 a3 a4 a5).Canon := by
  unfold State.carry
  repeat' first
    | (with_reducible first
        | assumption | apply canon_packet)
    | (simp only [canon_eta]) | (dsimp only) | (intro _)

theorem canon_unpack {s : State} {a1} (h : s.Canon) : (State.unpack s a1).Canon := by
  unfold State.unpack
  repeat' first
    | (with_reducible first
        | assumption | apply State.Canon.updSeqr)
    | (simp only [canon_eta]) | split | (dsimp only) | (intro _)

theorem canon_execBePacketHop {s : State} {a0} (h : s.Canon) : Out.Canon (execBePacketHop a0 s) := by
  unfold execBePacketHop
  dsimp only
  repeat' first
    | (with_reducible first
        | assumption | apply out_canon | apply canon_countLine | apply canon_unpack)
    | (simp only [canon_eta]) | split | (dsimp only) | (intro _)

end Sys2Proof.Machine
end

