-- ==== Sys2Proof/Laws/CanonFarOps.lean ====
section
/-! SUPPORT. The definitions of Machine/FarOps.lean keep the canonical form of every memory and table. -/

namespace Sys2Proof.Machine

theorem canon_execFnest {s : State} {a0 a1 a2 a3 a4} (h : s.Canon) : Out.Canon (execFnest a0 a1 a2 a3 a4 s) := by
  unfold execFnest
  repeat' first
    | (with_reducible first
        | assumption | apply canon_emit | apply canon_raiseOpen | apply canon_when | apply out_canon)
    | split | (dsimp only) | (intro _)

theorem canon_execFbase {s : State} {a0 a1 a2 a3} (h : s.Canon) : Out.Canon (execFbase a0 a1 a2 a3 s) := by
  unfold execFbase
  dsimp only
  repeat' first
    | (with_reducible first
        | assumption | apply canon_emit | apply canon_raiseOpen | apply canon_when | apply out_canon)
    | split | (dsimp only) | (intro _)

theorem canon_execFidx {s : State} {a0 a1} (h : s.Canon) : Out.Canon (execFidx a0 a1 s) := by
  unfold execFidx
  repeat' first
    | (with_reducible first
        | assumption | apply canon_emit | apply canon_raiseOpen | apply canon_when | apply out_canon)
    | split | (dsimp only) | (intro _)

theorem canon_execFgo {s : State} {a0 a1 a2 a3 a4 a5} (h : s.Canon) : Out.Canon (execFgo a0 a1 a2 a3 a4 a5 s) := by
  unfold execFgo
  repeat' first
    | (with_reducible first
        | assumption | apply canon_emit | apply canon_mark | apply canon_raiseOpen | apply canon_when | apply out_canon
        | apply State.Canon.tile)
    | split | (dsimp only) | (intro _)

theorem canon_execFsig {s : State} {a0 a1 a2 a3} (h : s.Canon) : Out.Canon (execFsig a0 a1 a2 a3 s) := by
  unfold execFsig
  repeat' first
    | (with_reducible first
        | assumption | apply canon_emit | apply canon_mark | apply canon_raiseOpen | apply canon_when | apply out_canon
        | apply State.Canon.tile)
    | split | (dsimp only) | (intro _)

theorem canon_execFred {s : State} {a0 a1 a2 a3 a4 a5} (h : s.Canon) : Out.Canon (execFred a0 a1 a2 a3 a4 a5 s) := by
  unfold execFred
  dsimp only
  repeat' first
    | (with_reducible first
        | assumption | apply canon_emit | apply canon_mark | apply canon_raise | apply canon_raiseOpen | apply canon_when
        | apply out_canon | apply State.Canon.tile)
    | (simp only [canon_eta]) | split | (dsimp only) | (intro _)

theorem canon_execFqry {s : State} {a0 a1 a2} (h : s.Canon) : Out.Canon (execFqry a0 a1 a2 s) := by
  unfold execFqry
  dsimp only
  repeat' first
    | (with_reducible first
        | assumption | apply canon_emit | apply canon_entryTag | apply canon_when | apply out_canon)
    | split | (dsimp only) | (intro _)

theorem canon_execFcan {s : State} {a0 a1 a2} (h : s.Canon) : Out.Canon (execFcan a0 a1 a2 s) := by
  unfold execFcan
  repeat' first
    | (with_reducible first
        | assumption | apply canon_emit | apply canon_when | apply out_canon)
    | split | (dsimp only) | (intro _)

theorem canon_rangeOp {s : State} {a1 a2 a3} (h : s.Canon) : (State.rangeOp s a1 a2 a3).Canon := by
  unfold State.rangeOp
  dsimp only
  repeat' first
    | (with_reducible first
        | assumption | apply canon_emit | apply canon_raiseAt | apply State.Canon.tile)
    | (simp only [canon_eta]) | split

theorem canon_execWbr {s : State} {a0 a1 a2 a3} (h : s.Canon) : Out.Canon (execWbr a0 a1 a2 a3 s) := by
  unfold execWbr
  repeat' first
    | (with_reducible first
        | assumption | apply canon_when | apply canon_rangeOp | apply out_canon)
    | split | (dsimp only) | (intro _)

theorem canon_execInvr {s : State} {a0 a1 a2 a3} (h : s.Canon) : Out.Canon (execInvr a0 a1 a2 a3 s) := by
  unfold execInvr
  repeat' first
    | (with_reducible first
        | assumption | apply canon_when | apply canon_rangeOp | apply out_canon)
    | split | (dsimp only) | (intro _)

theorem canon_execDiscr {s : State} {a0 a1 a2 a3} (h : s.Canon) : Out.Canon (execDiscr a0 a1 a2 a3 s) := by
  unfold execDiscr
  repeat' first
    | (with_reducible first
        | assumption | apply canon_when | apply canon_rangeOp | apply out_canon)
    | split | (dsimp only) | (intro _)

theorem canon_atomicOp {s : State} {a1 a2 a3 a4 a5 a6 a7 a8 a9} (h : s.Canon) :
    (State.atomicOp s a1 a2 a3 a4 a5 a6 a7 a8 a9).Canon := by
  unfold State.atomicOp
  dsimp only
  repeat' first
    | (with_reducible first
        | assumption | apply canon_emit | apply canon_entryTag | apply canon_mark | apply canon_raise | apply canon_raiseAt
        | apply State.Canon.tile)
    | (simp only [canon_eta]) | split

theorem canon_execAmo {s : State} {a0 a1 a2 a3 a4 a5 a6} (h : s.Canon) : Out.Canon (execAmo a0 a1 a2 a3 a4 a5 a6 s) := by
  unfold execAmo
  repeat' first
    | (with_reducible first
        | assumption | apply canon_when | apply canon_atomicOp | apply out_canon)
    | split | (dsimp only) | (intro _)

theorem canon_execCas {s : State} {a0 a1 a2 a3 a4 a5 a6} (h : s.Canon) : Out.Canon (execCas a0 a1 a2 a3 a4 a5 a6 s) := by
  unfold execCas
  repeat' first
    | (with_reducible first
        | assumption | apply canon_when | apply canon_atomicOp | apply out_canon)
    | split | (dsimp only) | (intro _)

theorem canon_basinOp {s : State} {a : W64} {f : State → State} (h : s.Canon) (hf : ∀ s, State.Canon s → (f s).Canon) :
    (s.basinOp a f).Canon := by
  unfold State.basinOp
  repeat' first | (with_reducible assumption) | (with_reducible apply canon_raiseOpen) | (with_reducible apply canon_raiseAt) | (with_reducible apply hf) | split

theorem canon_execBinit {s : State} {a0 a1 a2} (h : s.Canon) : Out.Canon (execBinit a0 a1 a2 s) := by
  unfold execBinit
  repeat' first
    | (with_reducible first
        | assumption | apply canon_emit | apply canon_mark | apply canon_when | apply canon_basinOp | apply out_canon)
    | split | (dsimp only) | (intro _)

theorem canon_execBrearm {s : State} {a0 a1 a2} (h : s.Canon) : Out.Canon (execBrearm a0 a1 a2 s) := by
  unfold execBrearm
  repeat' first
    | (with_reducible first
        | assumption | apply canon_emit | apply canon_mark | apply canon_when | apply canon_basinOp | apply out_canon)
    | split | (dsimp only) | (intro _)

theorem canon_execBexpect {s : State} {a0 a1 a2} (h : s.Canon) : Out.Canon (execBexpect a0 a1 a2 s) := by
  unfold execBexpect
  repeat' first
    | (with_reducible first
        | assumption | apply canon_emit | apply canon_mark | apply canon_when | apply canon_basinOp | apply out_canon)
    | split | (dsimp only) | (intro _)

theorem canon_execBread {s : State} {a0 a1 a2} (h : s.Canon) : Out.Canon (execBread a0 a1 a2 s) := by
  unfold execBread
  dsimp only
  repeat' first
    | (with_reducible first
        | assumption | apply canon_emit | apply canon_entryTag | apply canon_mark | apply canon_when | apply canon_basinOp
        | apply out_canon)
    | split | (dsimp only) | (intro _)

theorem canon_execBarrive {s : State} {a0 a1 a2 a3} (h : s.Canon) : Out.Canon (execBarrive a0 a1 a2 a3 s) := by
  unfold execBarrive
  repeat' first
    | (with_reducible first
        | assumption | apply canon_emit | apply canon_mark | apply canon_raiseOpen | apply canon_when | apply out_canon
        | apply State.Canon.tile)
    | split | (dsimp only) | (intro _)

theorem spad_updBasin {x0 a1 a2 a3 a4} (h0 : Memory.wf x0.spad = true) : Memory.wf (Tile.updBasin x0 a1 a2 a3 a4).spad = true := by
  unfold Tile.updBasin
  dsimp only
  repeat' first
    | (with_reducible first
        | assumption | apply canon_getD | apply spad_putBytes | apply spad_scrub)
    | (simp only [canon_eta]) | split | (dsimp only) | (intro _)

theorem spad_queueBasin {x0 a1 a2 a3} (h0 : Memory.wf x0.spad = true) : Memory.wf (Tile.queueBasin x0 a1 a2 a3).spad = true := by
  unfold Tile.queueBasin
  dsimp only
  repeat' first
    | (with_reducible assumption)

theorem spad_runBasins {x0 a1 a2} (h0 : Memory.wf x0.spad = true) : Memory.wf (Tile.runBasins x0 a1 a2).spad = true := by
  unfold Tile.runBasins
  dsimp only
  repeat' first
    | (with_reducible first
        | assumption | apply spad_updBasin | apply spad_foldl)
    | (simp only [canon_eta]) | split | (dsimp only) | (intro _)

end Sys2Proof.Machine
end

