-- ==== Sys2Proof/Laws/CanonCache.lean ====
section
/-! SUPPORT. The definitions of Machine/Cache.lean keep the canonical form of every memory and table. -/

namespace Sys2Proof.Machine

theorem canon_toPort {s : State} {a1 a2 a3} (h : s.Canon) : (State.toPort s a1 a2 a3).Canon := by
  unfold State.toPort
  dsimp only
  repeat' first
    | (with_reducible first
        | assumption | apply canon_packet)
    | (simp only [canon_eta]) | (dsimp only) | (intro _)

theorem canon_staleMisses {s : State} {a1 a2} (h : s.Canon) : (State.staleMisses s a1 a2).Canon := by
  unfold State.staleMisses
  repeat' first
    | (with_reducible first
        | assumption)
    | (simp only [canon_eta]) | (dsimp only) | (intro _)

theorem canon_writeBack {s : State} {a1 a2 a3 a4 a5 a6} (h : s.Canon) : (State.writeBack s a1 a2 a3 a4 a5 a6).Canon := by
  unfold State.writeBack
  dsimp only
  repeat' first
    | (with_reducible first
        | assumption | apply foldl_canon | apply canon_fresh | apply canon_staleMisses | apply canon_toPort
        | apply canon_warn)
    | (simp only [canon_eta]) | split | (dsimp only) | (intro _)

theorem canon_takeAccess {s : State} {a1 a2} (h : s.Canon) : (State.takeAccess s a1 a2).Canon := by
  unfold State.takeAccess
  repeat' first
    | (with_reducible first
        | assumption | apply canon_take | apply State.Canon.updSeqr)
    | (simp only [canon_eta]) | (dsimp only) | (intro _)

theorem canon_execCachedPathAccess {s : State} {a0} (h : s.Canon) : Out.Canon (execCachedPathAccess a0 s) := by
  unfold execCachedPathAccess
  dsimp only
  repeat' first
    | (with_reducible first
        | assumption | apply out_canon | apply canon_packet | apply canon_takeAccess | apply State.Canon.updSeqr)
    | (simp only [canon_eta]) | split | (dsimp only) | (intro _)

theorem canon_flushLine {s : State} {a1 a2 a3 a4} (h : s.Canon) : (State.flushLine s a1 a2 a3 a4).1.Canon := by
  unfold State.flushLine
  dsimp only
  repeat' first
    | (with_reducible first
        | assumption | apply foldl_canon | apply foldl_fst_canon | apply spad_foldl | apply wf_ite | apply canon_spend
        | apply canon_writeBack)
    | (simp only [canon_eta]) | split | (dsimp only) | (intro _)

theorem canon_makeRoom {s : State} {a1 a2 a3} (h : s.Canon) : (State.makeRoom s a1 a2 a3).Canon := by
  unfold State.makeRoom
  dsimp only
  repeat' first
    | (with_reducible first
        | assumption | apply State.Canon.updDie | apply canon_flushLine)
    | (simp only [canon_eta]) | split

theorem canon_putCLine {s : State} {a1 a2 a3} (h : s.Canon) : (State.putCLine s a1 a2 a3).Canon := by
  unfold State.putCLine
  repeat' first
    | (with_reducible first
        | assumption | apply State.Canon.updDie | apply canon_makeRoom)

theorem canon_now {s : State} {a1} (h : s.Canon) : (State.now s a1).Canon := by
  unfold State.now
  repeat' first
    | (with_reducible assumption) | (simp only [canon_eta])

theorem canon_updOp {s : State} {a1 a2} (h : s.Canon) : (State.updOp s a1 a2).Canon := by
  unfold State.updOp
  repeat' first
    | (with_reducible assumption) | (simp only [canon_eta])

theorem canon_reply {s : State} {a1 a2 a3} (h : s.Canon) : (State.reply s a1 a2 a3).Canon := by
  unfold State.reply
  repeat' first
    | (with_reducible first
        | assumption | apply canon_carry | apply canon_later)
    | (simp only [canon_eta]) | split | (dsimp only) | (intro _)

theorem canon_answer {s : State} {a1 a2 a3 a4} (h : s.Canon) : (State.answer s a1 a2 a3 a4).Canon := by
  unfold State.answer
  dsimp only
  repeat' first
    | (with_reducible first
        | assumption | apply State.Canon.updTile | apply canon_reply | apply canon_updOp)
    | (simp only [canon_eta]) | split | (dsimp only) | (intro _)

theorem canon_dropReq {s : State} {a1} (h : s.Canon) : (State.dropReq s a1).Canon := by
  unfold State.dropReq
  repeat' first
    | (with_reducible assumption) | (simp only [canon_eta])

theorem canon_holdReq {s : State} {a1} (h : s.Canon) : (State.holdReq s a1).Canon := by
  unfold State.holdReq
  repeat' first
    | (with_reducible assumption) | (simp only [canon_eta])

theorem canon_wakeReqs {s : State} {a1} (h : s.Canon) : (State.wakeReqs s a1).Canon := by
  unfold State.wakeReqs
  dsimp only
  repeat' first
    | (with_reducible assumption) | (simp only [canon_eta])

theorem canon_setClock {s : State} {a1 a2} (h : s.Canon) : (State.setClock s a1 a2).Canon := by
  unfold State.setClock
  dsimp only
  repeat' first
    | (with_reducible first
        | assumption | apply State.Canon.updDie)
    | (simp only [canon_eta]) | split

theorem canon_updateCopies {s : State} {a1 a2 a3 a4} (h : s.Canon) : (State.updateCopies s a1 a2 a3 a4).Canon := by
  unfold State.updateCopies
  dsimp only
  repeat' first
    | (with_reducible first
        | assumption | apply foldl_canon | apply State.Canon.updDie)
    | (simp only [canon_eta]) | split | (dsimp only) | (intro _)

theorem canon_causalWrite {s : State} {a1 a2 a3} (h : s.Canon) : (State.causalWrite s a1 a2 a3).Canon := by
  unfold State.causalWrite
  dsimp only
  repeat' first
    | (with_reducible first
        | assumption | apply foldl_canon | apply canon_carry | apply canon_fresh | apply canon_later
        | apply canon_setClock | apply canon_updateCopies | apply State.Canon.writeMemCells)
    | (simp only [canon_eta]) | split | (dsimp only) | (intro _)

theorem canon_setUpdatesAt {s : State} {a1 a2} (h : s.Canon) : (State.setUpdatesAt s a1 a2).Canon := by
  unfold State.setUpdatesAt
  dsimp only
  repeat' first
    | (with_reducible first
        | assumption | apply State.Canon.updDie)
    | (simp only [canon_eta]) | split

theorem canon_execCausalUpdateArrive {s : State} {a0 a1} (h : s.Canon) : Out.Canon (execCausalUpdateArrive a0 a1 s) := by
  unfold execCausalUpdateArrive
  dsimp only
  repeat' first
    | (with_reducible first
        | assumption | apply canon_later | apply canon_now | apply canon_setUpdatesAt | apply out_canon)
    | (simp only [canon_eta]) | split

theorem canon_awaitMove {s : State} {a1 a2} (h : s.Canon) : (State.awaitMove s a1 a2).Canon := by
  unfold State.awaitMove
  repeat' first
    | (with_reducible first
        | assumption | apply State.Canon.updDie)
    | (simp only [canon_eta]) | (dsimp only) | (intro _)

theorem canon_execCausalUpdateApply {s : State} {a0 a1} (h : s.Canon) : Out.Canon (execCausalUpdateApply a0 a1 s) := by
  unfold execCausalUpdateApply
  dsimp only
  repeat' first
    | (with_reducible first
        | assumption | apply out_canon | apply foldl_canon | apply canon_answer | apply canon_awaitMove
        | apply canon_now | apply canon_setClock | apply canon_setUpdatesAt | apply canon_updateCopies
        | apply State.Canon.writeMemCells)
    | (simp only [canon_eta]) | split | (dsimp only) | (intro _)

theorem canon_execCausalMissAnswer {s : State} {a0} (h : s.Canon) : Out.Canon (execCausalMissAnswer a0 s) := by
  unfold execCausalMissAnswer
  dsimp only
  repeat' first
    | (with_reducible first
        | assumption | apply canon_later | apply canon_answer | apply out_canon | apply State.Canon.mem | apply State.Canon.pool)
    | (simp only [canon_eta]) | split

theorem canon_fetchSector {s : State} {a1 a2 a3} (h : s.Canon) : (State.fetchSector s a1 a2 a3).Canon := by
  unfold State.fetchSector
  dsimp only
  repeat' first
    | (with_reducible first
        | assumption | apply canon_fresh | apply canon_later | apply canon_toPort)
    | (simp only [canon_eta]) | split | (dsimp only) | (intro _)

theorem canon_miss {s : State} {a1 a2} (h : s.Canon) : (State.miss s a1 a2).Canon := by
  unfold State.miss
  dsimp only
  repeat' first
    | (with_reducible first
        | assumption | apply State.Canon.updDie | apply canon_holdReq | apply canon_fetchSector | apply foldl_canon
        | apply foldl_fst_canon | apply spad_foldl)
    | (simp only [canon_eta]) | split | (dsimp only) | (intro _)

theorem canon_writeReq {s : State} {a1 a2} (h : s.Canon) : (State.writeReq s a1 a2).Canon := by
  unfold State.writeReq
  dsimp only
  repeat' first
    | (with_reducible first
        | assumption | apply canon_answer | apply canon_causalWrite | apply canon_dropReq | apply canon_putCLine
        | apply canon_writeBack)
    | (simp only [canon_eta]) | split | (dsimp only) | (intro _)

theorem canon_hitReq {s : State} {a1 a2 a3} (h : s.Canon) : (State.hitReq s a1 a2 a3).Canon := by
  unfold State.hitReq
  dsimp only
  repeat' first
    | (with_reducible first
        | assumption | apply canon_answer | apply canon_dropReq | apply canon_putCLine | apply State.Canon.updDie)
    | (simp only [canon_eta]) | split | (dsimp only) | (intro _)

theorem canon_owe {s : State} {a1 a2} (h : s.Canon) : (State.owe s a1 a2).Canon := by
  unfold State.owe
  repeat' first
    | (with_reducible first
        | assumption | apply canon_updOp)
    | (simp only [canon_eta]) | split | (dsimp only) | (intro _)

theorem canon_homeReq {s : State} {a1} (h : s.Canon) : (State.homeReq s a1).Canon := by
  unfold State.homeReq
  dsimp only
  repeat' first
    | (with_reducible first
        | assumption | apply canon_answer | apply canon_causalWrite | apply canon_dropReq | apply canon_flushLine
        | apply canon_later | apply canon_owe | apply canon_staleMisses | apply State.Canon.updDie
        | apply State.Canon.writeMemCells)
    | (simp only [canon_eta]) | split | (dsimp only) | (intro _)

theorem canon_meet {s : State} {a1} (h : s.Canon) : (State.meet s a1).Canon := by
  unfold State.meet
  repeat' first
    | (with_reducible first
        | assumption | apply State.Canon.updDie)
    | (simp only [canon_eta]) | split | (dsimp only) | (intro _)

theorem canon_execCacheRequest {s : State} {a0} (h : s.Canon) : Out.Canon (execCacheRequest a0 s) := by
  unfold execCacheRequest
  dsimp only
  repeat' first
    | (with_reducible first
        | assumption | apply out_canon | apply canon_awaitMove | apply canon_hitReq | apply canon_holdReq
        | apply canon_homeReq | apply canon_later | apply canon_meet | apply canon_miss | apply canon_writeReq)
    | (simp only [canon_eta]) | split | (dsimp only) | (intro _)

theorem canon_refetch {s : State} {a1} (h : s.Canon) : (State.refetch s a1).Canon := by
  unfold State.refetch
  dsimp only
  repeat' first
    | (with_reducible first
        | assumption | apply canon_answer | apply canon_later | apply canon_toPort)
    | (simp only [canon_eta]) | split | (dsimp only) | (intro _)

theorem canon_execSectorFill {s : State} {a0} (h : s.Canon) : Out.Canon (execSectorFill a0 s) := by
  unfold execSectorFill
  dsimp only
  repeat' first
    | (with_reducible first
        | assumption | apply out_canon | apply canon_answer | apply canon_later | apply canon_putCLine
        | apply canon_refetch | apply canon_wakeReqs)
    | (simp only [canon_eta]) | split | (dsimp only) | (intro _)

theorem canon_execWritebackApply {s : State} {a0} (h : s.Canon) : Out.Canon (execWritebackApply a0 s) := by
  unfold execWritebackApply
  dsimp only
  repeat' first
    | (with_reducible first
        | assumption | apply out_canon | apply foldl_canon | apply canon_answer | apply canon_now
        | apply State.Canon.writeMemCells)
    | (simp only [canon_eta]) | split | (dsimp only) | (intro _)

theorem canon_execRebalance {s : State} {a0} (h : s.Canon) : Out.Canon (execRebalance a0 s) := by
  unfold execRebalance
  dsimp only
  repeat' first
    | (with_reducible first
        | assumption | apply State.Canon.updDie | apply canon_later | apply canon_flushLine | apply foldl_canon
        | apply foldl_fst_canon | apply out_canon | apply spad_foldl)
    | (simp only [canon_eta]) | split | (dsimp only) | (intro _)

theorem canon_execBucketMoveEnd {s : State} {a0} (h : s.Canon) : Out.Canon (execBucketMoveEnd a0 s) := by
  unfold execBucketMoveEnd
  dsimp only
  repeat' first
    | (with_reducible first
        | assumption | apply State.Canon.updDie | apply canon_later | apply canon_now | apply canon_wakeReqs | apply foldl_canon
        | apply foldl_fst_canon | apply out_canon | apply spad_foldl)
    | (simp only [canon_eta]) | split

theorem canon_rangeLine {s : State} {a1 a2 a3 a4 a5} (h : s.Canon) : (State.rangeLine s a1 a2 a3 a4 a5).Canon := by
  unfold State.rangeLine
  dsimp only
  repeat' first
    | (with_reducible first
        | assumption | apply foldl_canon | apply canon_flushLine | apply canon_staleMisses | apply State.Canon.updDie)
    | (simp only [canon_eta]) | split | (dsimp only) | (intro _)

theorem canon_execRangePerformed {s : State} {a0} (h : s.Canon) : Out.Canon (execRangePerformed a0 s) := by
  unfold execRangePerformed
  dsimp only
  repeat' first
    | (with_reducible first
        | assumption | apply out_canon | apply foldl_canon | apply canon_awaitMove | apply canon_rangeLine
        | apply canon_updOp)
    | (simp only [canon_eta]) | split | (dsimp only) | (intro _)

theorem canon_startRange {s : State} {a1 a2 a3 a4 a5 a6 a7} (h : s.Canon) : (State.startRange s a1 a2 a3 a4 a5 a6 a7).Canon := by
  unfold State.startRange
  dsimp only
  repeat' first
    | (with_reducible first
        | assumption | apply canon_execRangePerformed)
    | (simp only [canon_eta]) | (refine out_elim (by assumption) ?_) | split | (dsimp only) | (intro _)

end Sys2Proof.Machine
end

