-- ==== Sys2Proof/Laws/CanonTranslate.lean ====
section
/-! SUPPORT. The definitions of Machine/Translate.lean keep the canonical form of every memory and table. -/

namespace Sys2Proof.Machine

theorem canon_installAt {s : State} {a1 a2} (h : s.Canon) : (State.installAt s a1 a2).Canon := by
  unfold State.installAt
  repeat' first
    | (with_reducible first
        | assumption | apply State.Canon.updDie)

theorem canon_installBoth {s : State} {a1 a2 a3} (h : s.Canon) : (State.installBoth s a1 a2 a3).Canon := by
  unfold State.installBoth
  dsimp only
  repeat' first
    | (with_reducible first
        | assumption | apply canon_installAt)
    | (simp only [canon_eta]) | split | (dsimp only) | (intro _)

theorem canon_installTile {s : State} {a1 a2} (h : s.Canon) : (State.installTile s a1 a2).Canon := by
  unfold State.installTile
  dsimp only
  repeat' first
    | (with_reducible first
        | assumption | apply State.Canon.updTile)
    | (dsimp only) | split | (intro _)

theorem canon_ask {s : State} {a1 a2 a3 a4} (h : s.Canon) : (State.ask s a1 a2 a3 a4).Canon := by
  unfold State.ask
  dsimp only
  repeat' first
    | (with_reducible first
        | assumption | apply canon_fresh | apply canon_carry)
    | (simp only [canon_eta]) | split

theorem canon_farFault {s : State} {a1 a2 a3 a4 a5} (h : s.Canon) : (State.farFault s a1 a2 a3 a4 a5).Canon := by
  unfold State.farFault
  repeat' first
    | (with_reducible first
        | assumption | apply State.Canon.updTile | apply canon_after)
    | (dsimp only) | split | (intro _)

theorem canon_faultOp {s : State} {a1 a2} (h : s.Canon) : (State.faultOp s a1 a2).Canon := by
  unfold State.faultOp
  repeat' first
    | (with_reducible first
        | assumption | apply canon_farFault | apply State.Canon.tile)
    | (simp only [canon_eta])

theorem canon_pageReq {s : State} {a1 a2 a3 a4} (h : s.Canon) : (State.pageReq s a1 a2 a3 a4).Canon := by
  unfold State.pageReq
  dsimp only
  repeat' first
    | (with_reducible first
        | assumption | apply canon_spend | apply canon_post)

theorem canon_sendOp {s : State} {a1 a2 a3 a4} (h : s.Canon) : (State.sendOp s a1 a2 a3 a4).Canon := by
  unfold State.sendOp
  dsimp only
  repeat' first
    | (with_reducible first
        | assumption | apply canon_faultOp | apply canon_later | apply canon_say | apply canon_updOp)
    | (simp only [canon_eta]) | split | (dsimp only) | (intro _)

theorem canon_opStep {s : State} {a1} (h : s.Canon) : (State.opStep s a1).Canon := by
  unfold State.opStep
  dsimp only
  repeat' first
    | (with_reducible first
        | assumption | apply canon_ask | apply canon_faultOp | apply canon_sendOp | apply State.Canon.tile)
    | (simp only [canon_eta]) | split

theorem canon_startOp {s : State} {a1 a2 a3 a4 a5 a6 a7 a8} (h : s.Canon) : (State.startOp s a1 a2 a3 a4 a5 a6 a7 a8).Canon := by
  unfold State.startOp
  dsimp only
  repeat' first
    | (with_reducible first
        | assumption | apply canon_carry | apply canon_fresh | apply canon_opStep)
    | (simp only [canon_eta]) | split | (dsimp only) | (intro _)

theorem canon_opValue {s : State} {a1} (h : s.Canon) : (State.opValue s a1).1.Canon := by
  unfold State.opValue
  dsimp only
  repeat' first
    | (with_reducible first
        | assumption | apply State.Canon.writePool | apply State.Canon.tile | apply State.Canon.mem | apply State.Canon.pool)
    | (simp only [canon_eta]) | split

theorem canon_landOp {s : State} {a1 a2} (h : s.Canon) : (State.landOp s a1 a2).Canon := by
  unfold State.landOp
  dsimp only
  repeat' first
    | (with_reducible first
        | assumption | apply State.Canon.updTile | apply spad_setStream | apply State.Canon.tile)
    | (simp only [canon_eta]) | split | (dsimp only) | (intro _)

theorem canon_returnOp {s : State} {a1} (h : s.Canon) : Out.Canon (State.returnOp s a1) := by
  unfold State.returnOp
  dsimp only
  repeat' first
    | (with_reducible first
        | assumption | apply out_canon | apply canon_farFault | apply canon_landOp | apply canon_later
        | apply canon_opValue | apply canon_spend)
    | (simp only [canon_eta]) | split | (dsimp only) | (intro _)

theorem canon_execLdfReturn {s : State} {a0} (h : s.Canon) : Out.Canon (execLdfReturn a0 s) := by
  unfold execLdfReturn
  repeat' first
    | (with_reducible first
        | assumption | apply canon_returnOp)

theorem canon_execAtomicReturn {s : State} {a0} (h : s.Canon) : Out.Canon (execAtomicReturn a0 s) := by
  unfold execAtomicReturn
  repeat' first
    | (with_reducible first
        | assumption | apply canon_returnOp)

theorem canon_execFarAnswerTimeout {s : State} {a0} (h : s.Canon) : Out.Canon (execFarAnswerTimeout a0 s) := by
  unfold execFarAnswerTimeout
  repeat' first
    | (with_reducible first
        | assumption | apply canon_faultOp | apply out_canon)
    | (simp only [canon_eta]) | split

theorem canon_landPool {s : State} {a1 a2} (h : s.Canon) : (State.landPool s a1 a2).Canon := by
  unfold State.landPool
  repeat' first
    | (with_reducible first
        | assumption | apply foldl_canon | apply State.Canon.writePool)
    | (simp only [canon_eta]) | split | (dsimp only) | (intro _)

theorem canon_freeSlot {s : State} {a1 a2} (h : s.Canon) : (State.freeSlot s a1 a2).Canon := by
  unfold State.freeSlot
  dsimp only
  repeat' first
    | (with_reducible first
        | assumption | apply State.Canon.updTile | apply canon_landPool)
    | (simp only [canon_eta]) | split | (dsimp only) | (intro _)

theorem canon_decrement {s : State} {a1 a2 a3 a4 a5 a6} (h : s.Canon) : (State.decrement s a1 a2 a3 a4 a5 a6).Canon := by
  unfold State.decrement
  dsimp only
  repeat' first
    | (with_reducible first
        | assumption | apply State.Canon.updTile | apply State.Canon.tile | apply canon_carry | apply canon_later
        | apply spad_queueBasin | apply canon_say)
    | (simp only [canon_eta]) | split | (dsimp only) | (intro _)

theorem canon_markErr {s : State} {a1 a2} (h : s.Canon) : (State.markErr s a1 a2).Canon := by
  unfold State.markErr
  dsimp only
  repeat' first
    | (with_reducible first
        | assumption | apply State.Canon.updTile | apply State.Canon.tile | apply canon_carry | apply canon_later
        | apply canon_mark | apply spad_queueBasin | apply canon_say)
    | (simp only [canon_eta]) | split | (dsimp only) | (intro _)

theorem canon_cancelRec {s : State} {a1 a2} (h : s.Canon) : (State.cancelRec s a1 a2).Canon := by
  unfold State.cancelRec
  dsimp only
  repeat' first
    | (with_reducible first
        | assumption | apply State.Canon.updTile | apply canon_freeSlot | apply canon_markErr | apply foldl_canon
        | apply foldl_fst_canon | apply spad_foldl | apply State.Canon.tile)
    | (dsimp only) | split | (intro _)

theorem canon_endCopy {s : State} {a1 a2 a3 a4 a5 a6} (h : s.Canon) : (State.endCopy s a1 a2 a3 a4 a5 a6).Canon := by
  unfold State.endCopy
  repeat' first
    | (with_reducible first
        | assumption | apply canon_farFault | apply canon_freeSlot | apply canon_cancelRec)
    | (simp only [canon_eta]) | split

theorem canon_ueccCopy {s : State} {a1 a2 a3 a4} (h : s.Canon) : (State.ueccCopy s a1 a2 a3 a4).Canon := by
  unfold State.ueccCopy
  repeat' first
    | (with_reducible first
        | assumption | apply canon_endCopy | apply canon_spend)
    | (simp only [canon_eta]) | (dsimp only) | (intro _)

theorem canon_faultCopy {s : State} {a1 a2 a3 a4} (h : s.Canon) : (State.faultCopy s a1 a2 a3 a4).Canon := by
  unfold State.faultCopy
  repeat' first
    | (with_reducible first
        | assumption | apply canon_endCopy)

theorem canon_parkCopy {s : State} {a1 a2 a3} (h : s.Canon) : (State.parkCopy s a1 a2 a3).Canon := by
  unfold State.parkCopy
  repeat' first
    | (with_reducible first
        | assumption | apply State.Canon.updTile | apply canon_pageReq)
    | (dsimp only) | split | (intro _)

theorem canon_tlbAnswer {s : State} {a1 a2} (h : s.Canon) : (State.tlbAnswer s a1 a2).Canon := by
  unfold State.tlbAnswer
  dsimp only
  repeat' first
    | (with_reducible first
        | assumption | apply canon_now | apply canon_updOp | apply canon_installTile | apply canon_pageReq | apply canon_opStep
        | apply canon_parkCopy | apply State.Canon.tile)
    | (simp only [canon_eta]) | split

theorem canon_nextQuery {s : State} {a1} (h : s.Canon) : (State.nextQuery s a1).Canon := by
  unfold State.nextQuery
  repeat' first
    | (with_reducible first
        | assumption | apply canon_now)
    | (simp only [canon_eta]) | split

theorem canon_arriveQuery {s : State} {a1} (h : s.Canon) : (State.arriveQuery s a1).Canon := by
  unfold State.arriveQuery
  repeat' first
    | (with_reducible first
        | assumption)
    | (simp only [canon_eta]) | split | (dsimp only) | (intro _)

theorem canon_setLeg {s : State} {a1 a2} (h : s.Canon) : (State.setLeg s a1 a2).Canon := by
  unfold State.setLeg
  repeat' first
    | (with_reducible first
        | assumption)
    | (simp only [canon_eta]) | (dsimp only) | (intro _)

theorem canon_sendAnswer {s : State} {a1 a2} (h : s.Canon) : (State.sendAnswer s a1 a2).Canon := by
  unfold State.sendAnswer
  repeat' first
    | (with_reducible first
        | assumption | apply canon_carry | apply canon_nextQuery | apply canon_setLeg)
    | (simp only [canon_eta]) | split | (dsimp only) | (intro _)

theorem canon_installHome {s : State} {a1 a2} (h : s.Canon) : (State.installHome s a1 a2).Canon := by
  unfold State.installHome
  dsimp only
  repeat' first
    | (with_reducible first
        | assumption | apply canon_carry | apply canon_installAt | apply canon_sendAnswer | apply canon_setLeg)
    | (simp only [canon_eta]) | split | (dsimp only) | (intro _)

theorem canon_homeQuery {s : State} {a1} (h : s.Canon) : (State.homeQuery s a1).Canon := by
  unfold State.homeQuery
  dsimp only
  repeat' first
    | (with_reducible first
        | assumption | apply canon_arriveQuery | apply canon_fresh | apply canon_later | apply canon_sendAnswer)
    | (simp only [canon_eta]) | split | (dsimp only) | (intro _)

theorem canon_askAgain {s : State} {a1} (h : s.Canon) : (State.askAgain s a1).Canon := by
  unfold State.askAgain
  dsimp only
  repeat' first
    | (with_reducible first
        | assumption | apply canon_ask)
    | (simp only [canon_eta]) | split | (dsimp only) | (intro _)

theorem canon_execTlbQuery {s : State} {a0} (h : s.Canon) : Out.Canon (execTlbQuery a0 s) := by
  unfold execTlbQuery
  repeat' first
    | (with_reducible first
        | assumption | apply out_canon | apply canon_askAgain | apply canon_carry | apply canon_homeQuery
        | apply canon_installAt | apply canon_sendAnswer | apply canon_setLeg | apply canon_tlbAnswer)
    | (simp only [canon_eta]) | split | (dsimp only) | (intro _)

theorem canon_execTlbWalkDone {s : State} {a0} (h : s.Canon) : Out.Canon (execTlbWalkDone a0 s) := by
  unfold execTlbWalkDone
  dsimp only
  repeat' first
    | (with_reducible first
        | assumption | apply out_canon | apply canon_installHome | apply canon_post | apply canon_sendAnswer
        | apply canon_spend)
    | (simp only [canon_eta]) | split | (dsimp only) | (intro _)

theorem canon_dropQueries {s : State} {a1} (h : s.Canon) : (State.dropQueries s a1).Canon := by
  unfold State.dropQueries
  dsimp only
  repeat' first
    | (with_reducible first
        | assumption)
    | (simp only [canon_eta]) | (dsimp only) | (intro _)

theorem canon_invalQueries {s : State} {a1 a2} (h : s.Canon) : (State.invalQueries s a1 a2).Canon := by
  unfold State.invalQueries
  dsimp only
  repeat' first
    | (with_reducible first
        | assumption | apply foldl_canon | apply canon_answer | apply canon_dropQueries | apply canon_later)
    | (simp only [canon_eta]) | split | (dsimp only) | (intro _)

theorem canon_invalDie {s : State} {a1 a2} (h : s.Canon) : (State.invalDie s a1 a2).Canon := by
  unfold State.invalDie
  dsimp only
  repeat' first
    | (with_reducible first
        | assumption | apply State.Canon.mapTiles | apply foldl_canon | apply canon_fresh | apply canon_invalQueries
        | apply spad_keep | apply canon_later | apply State.Canon.updDie)
    | (simp only [canon_eta]) | split | (dsimp only) | (intro _)

theorem canon_invalStep {s : State} {a1 a2} (h : s.Canon) : (State.invalStep s a1 a2).Canon := by
  unfold State.invalStep
  dsimp only
  repeat' first
    | (with_reducible first
        | assumption | apply canon_invalDie)
    | (simp only [canon_eta]) | split | (dsimp only) | (intro _)

theorem canon_invalDone {s : State} (h : s.Canon) : (State.invalDone s).Canon := by
  unfold State.invalDone
  dsimp only
  repeat' first
    | (with_reducible first
        | assumption | apply canon_say | apply foldl_canon | apply foldl_fst_canon | apply spad_foldl)
    | (simp only [canon_eta]) | split | (dsimp only) | (intro _)

theorem canon_invalAck {s : State} {a1 a2} (h : s.Canon) : (State.invalAck s a1 a2).Canon := by
  unfold State.invalAck
  dsimp only
  repeat' first
    | (with_reducible first
        | assumption | apply canon_invalDone)
    | (simp only [canon_eta])

theorem canon_execTlbinvAck {s : State} {a0 a1} (h : s.Canon) : Out.Canon (execTlbinvAck a0 a1 s) := by
  unfold execTlbinvAck
  dsimp only
  repeat' first
    | (with_reducible first
        | assumption | apply out_canon | apply canon_invalAck | apply canon_invalStep | apply canon_later)
    | (simp only [canon_eta]) | split | (dsimp only) | (intro _)

end Sys2Proof.Machine
end

