-- ==== Sys2Proof/Laws/CanonFar.lean ====
section
/-! SUPPORT. The definitions of Machine/Far.lean keep the canonical form of every memory and table. -/

namespace Sys2Proof.Machine

theorem canon_updFar {s : State} {a1 a2} (h : s.Canon) : (State.updFar s a1 a2).Canon := by
  unfold State.updFar
  repeat' first
    | (with_reducible first
        | assumption | apply State.Canon.updTile)
    | (dsimp only) | split | (intro _)

theorem canon_startFar {s : State} {a1} (h : s.Canon) : (State.startFar s a1).Canon := by
  unfold State.startFar
  dsimp only
  repeat' first
    | (with_reducible first
        | assumption | apply canon_spend | apply canon_raiseExt | apply canon_updFar | apply State.Canon.tile)
    | (simp only [canon_eta]) | split

theorem canon_execCopyExpansion {s : State} {a0} (h : s.Canon) : Out.Canon (execCopyExpansion a0 s) := by
  unfold execCopyExpansion
  dsimp only
  repeat' first
    | (with_reducible first
        | assumption | apply canon_freeSlot | apply canon_updFar | apply out_canon | apply State.Canon.tile)
    | (simp only [canon_eta]) | split

theorem canon_startCopy {s : State} {a1 a2 a3 a4} (h : s.Canon) : (State.startCopy s a1 a2 a3 a4).Canon := by
  unfold State.startCopy
  dsimp only
  repeat' first
    | (with_reducible first
        | assumption | apply foldl_canon | apply canon_carry | apply canon_fresh | apply canon_later | apply canon_say
        | apply canon_updFar)
    | (simp only [canon_eta]) | split | (dsimp only) | (intro _)

theorem canon_execCopyIssue {s : State} {a0 a1} (h : s.Canon) : Out.Canon (execCopyIssue a0 a1 s) := by
  unfold execCopyIssue
  dsimp only
  repeat' first
    | (with_reducible first
        | assumption | apply canon_ask | apply canon_faultCopy | apply canon_updFar | apply canon_startCopy | apply out_canon
        | apply State.Canon.tile)
    | (simp only [canon_eta]) | split

theorem canon_takeAsync {s : State} {a1 a2 a3} (h : s.Canon) : (State.takeAsync s a1 a2 a3).Canon := by
  unfold State.takeAsync
  repeat' first
    | (with_reducible first
        | assumption | apply State.Canon.updTile)
    | (dsimp only) | split | (intro _)

theorem canon_doneSector {s : State} {a1 a2 a3 a4} (h : s.Canon) : (State.doneSector s a1 a2 a3 a4).Canon := by
  unfold State.doneSector
  dsimp only
  repeat' first
    | (with_reducible first
        | assumption | apply canon_updFar)

theorem canon_finishCopy {s : State} {a1 a2} (h : s.Canon) : (State.finishCopy s a1 a2).Canon := by
  unfold State.finishCopy
  repeat' first
    | (with_reducible first
        | assumption | apply canon_freeSlot | apply canon_updFar)
    | (simp only [canon_eta]) | split

theorem canon_sendSector {s : State} {a1 a2 a3 a4 a5} (h : s.Canon) : (State.sendSector s a1 a2 a3 a4 a5).Canon := by
  unfold State.sendSector
  dsimp only
  repeat' first
    | (with_reducible first
        | assumption | apply foldl_canon | apply canon_carry | apply State.Canon.drop | apply canon_fresh
        | apply canon_later | apply canon_say | apply canon_take | apply canon_updFar)
    | (simp only [canon_eta]) | split | (dsimp only) | (intro _)

theorem canon_execReleaseEvent {s : State} {a0 a1 a2} (h : s.Canon) : Out.Canon (execReleaseEvent a0 a1 a2 s) := by
  unfold execReleaseEvent
  dsimp only
  repeat' first
    | (with_reducible first
        | assumption | apply out_canon | apply State.Canon.updTile | apply State.Canon.tile | apply canon_after
        | apply canon_decrement | apply canon_doneSector | apply canon_endCopy | apply canon_later | apply spad_scrub
        | apply canon_sendSector | apply canon_spend | apply canon_takeAsync | apply canon_ueccCopy
        | apply canon_updFar)
    | (simp only [canon_eta]) | split | (dsimp only) | (intro _)

theorem canon_landSector {s : State} {a1 a2 a3 a4 a5} (h : s.Canon) : (State.landSector s a1 a2 a3 a4 a5).Canon := by
  unfold State.landSector
  dsimp only
  repeat' first
    | (with_reducible first
        | assumption | apply State.Canon.updTile | apply canon_takeAsync | apply spad_putBytes | apply spad_setTag)
    | split | (dsimp only) | (intro _)

theorem canon_execVisibilityEvent {s : State} {a0 a1 a2} (h : s.Canon) : Out.Canon (execVisibilityEvent a0 a1 a2 s) := by
  unfold execVisibilityEvent
  dsimp only
  repeat' first
    | (with_reducible first
        | assumption | apply State.Canon.writePool | apply canon_after | apply canon_later | apply canon_decrement
        | apply canon_endCopy | apply canon_doneSector | apply canon_finishCopy | apply canon_landSector | apply out_canon)
    | (simp only [canon_eta]) | split

theorem canon_execRemoteDecrement {s : State} {a0 a1 a2 a3 a4 a5} (h : s.Canon) :
    Out.Canon (execRemoteDecrement a0 a1 a2 a3 a4 a5 s) := by
  unfold execRemoteDecrement
  dsimp only
  repeat' first
    | (with_reducible first
        | assumption | apply State.Canon.updTile | apply canon_later | apply canon_warn | apply out_canon
        | apply spad_queueBasin)
    | (simp only [canon_eta]) | split | (dsimp only) | (intro _)

theorem canon_execCopyAgeTimeout {s : State} {a0 a1} (h : s.Canon) : Out.Canon (execCopyAgeTimeout a0 a1 s) := by
  unfold execCopyAgeTimeout
  dsimp only
  repeat' first
    | (with_reducible first
        | assumption | apply canon_faultCopy | apply out_canon)
    | (simp only [canon_eta]) | split

theorem canon_execFsigApply {s : State} {a0 a1} (h : s.Canon) : Out.Canon (execFsigApply a0 a1 s) := by
  unfold execFsigApply
  dsimp only
  repeat' first
    | (with_reducible first
        | assumption | apply canon_freeSlot | apply canon_decrement | apply canon_updFar | apply out_canon)
    | (simp only [canon_eta]) | split

theorem canon_readChunk {s a0 a1 a2 a4} (h : s.1.Canon) : (State.readChunk a0 a1 a2 s a4).1.Canon := by
  unfold State.readChunk
  dsimp only
  repeat' first
    | (with_reducible first
        | assumption | apply State.Canon.updTile | apply foldl_canon | apply State.Canon.tile | apply canon_doneSector
        | apply canon_endCopy | apply spad_scrub | apply canon_takeAsync | apply canon_ueccCopy | apply canon_updFar)
    | (simp only [canon_eta]) | split | (dsimp only) | (intro _)

theorem canon_execFredSend {s : State} {a0 a1} (h : s.Canon) : Out.Canon (execFredSend a0 a1 s) := by
  unfold execFredSend
  dsimp only
  repeat' first
    | (with_reducible first
        | assumption | apply out_canon | apply foldl_canon | apply foldl_fst_canon | apply spad_foldl
        | apply State.Canon.tile | apply wf_ite | apply canon_after | apply canon_readChunk | apply canon_say
        | apply canon_spend | apply spad_unread)
    | (simp only [canon_eta]) | split | (dsimp only) | (intro _)

theorem canon_execFredResultSector {s : State} {a0 a1 a2 a3} (h : s.Canon) : Out.Canon (execFredResultSector a0 a1 a2 a3 s) := by
  unfold execFredResultSector
  dsimp only
  repeat' first
    | (with_reducible first
        | assumption | apply canon_after | apply canon_decrement | apply canon_endCopy | apply canon_doneSector
        | apply canon_finishCopy | apply canon_landSector | apply out_canon)
    | (simp only [canon_eta]) | split

theorem canon_cancelSlot {s : State} {a1 a2} (h : s.Canon) : (State.cancelSlot s a1 a2).Canon := by
  unfold State.cancelSlot
  dsimp only
  repeat' first
    | (with_reducible first
        | assumption | apply canon_freeSlot | apply canon_markErr | apply canon_updFar | apply foldl_canon
        | apply foldl_fst_canon | apply spad_foldl)
    | (simp only [canon_eta]) | split | (dsimp only) | (intro _)

theorem canon_cancel {s : State} {a1 a2 a3 a4} (h : s.Canon) : (State.cancel s a1 a2 a3 a4).Canon := by
  unfold State.cancel
  dsimp only
  repeat' first
    | (with_reducible first
        | assumption | apply foldl_canon | apply canon_cancelRec | apply canon_cancelSlot | apply canon_updFar)
    | (simp only [canon_eta]) | split | (dsimp only) | (intro _)

theorem canon_finishStores {s : State} {a1 a2} (h : s.Canon) : (State.finishStores s a1 a2).Canon := by
  unfold State.finishStores
  dsimp only
  repeat' first
    | (with_reducible first
        | assumption | apply foldl_canon | apply canon_doneSector | apply canon_sendSector)
    | (simp only [canon_eta]) | split | (dsimp only) | (intro _)

theorem canon_abortFar {s : State} {a1} (h : s.Canon) : (State.abortFar s a1).Canon := by
  unfold State.abortFar
  dsimp only
  repeat' first
    | (with_reducible first
        | assumption | apply foldl_canon | apply canon_finishStores | apply canon_freeSlot | apply canon_updFar)
    | (simp only [canon_eta]) | split | (dsimp only) | (intro _)

theorem canon_ioWrite {s : State} {a1 a2} (h : s.Canon) : (State.ioWrite s a1 a2).Canon := by
  unfold State.ioWrite
  repeat' first
    | (with_reducible first
        | assumption | apply State.Canon.writeMemCells | apply canon_causalWrite)
    | split

theorem canon_peerAmo {s : State} {a1 a2 a3} (h : s.Canon) : (State.peerAmo s a1 a2 a3).Canon := by
  unfold State.peerAmo
  dsimp only
  repeat' first
    | (with_reducible first
        | assumption | apply canon_ioWrite | apply canon_say)
    | (simp only [canon_eta]) | split | (dsimp only) | (intro _)

theorem canon_execPeerAccessArrival {s : State} (h : s.Canon) : Out.Canon (execPeerAccessArrival s) := by
  unfold execPeerAccessArrival
  dsimp only
  repeat' first
    | (with_reducible first
        | assumption | apply out_canon | apply canon_after | apply canon_causalWrite | apply canon_ioWrite
        | apply canon_peerAmo | apply canon_say | apply canon_spend | apply State.Canon.writePool)
    | (simp only [canon_eta]) | split | (dsimp only) | (intro _)

end Sys2Proof.Machine
end

