-- ==== Sys2Proof/Laws/CanonLaunch.lean ====
section
/-! SUPPORT. The definitions of Machine/Launch.lean keep the canonical form of every memory and table. -/

namespace Sys2Proof.Machine

theorem spad_discard {x0} (h0 : Memory.wf x0.spad = true) : Memory.wf (Tile.discard x0).spad = true := by
  unfold Tile.discard
  dsimp only
  repeat' first
    | (with_reducible assumption)

theorem canon_discard {s : State} {a1} (h : s.Canon) : (State.discard s a1).Canon := by
  unfold State.discard
  dsimp only
  repeat' first
    | (with_reducible first
        | assumption | apply State.Canon.updTile | apply foldl_canon | apply State.Canon.tile | apply canon_abortFar
        | apply spad_discard | apply State.Canon.updSeqr)
    | (simp only [canon_eta]) | split | (dsimp only) | (intro _)

theorem canon_freeTiles {s : State} {a1} (h : s.Canon) : (State.freeTiles s a1).Canon := by
  unfold State.freeTiles
  dsimp only
  repeat' first
    | (with_reducible first
        | assumption | apply State.Canon.mapTiles | apply canon_discard | apply spad_discard)
    | (simp only [canon_eta]) | split | (dsimp only) | (intro _)

theorem canon_freeSeqrs {s : State} {a1 a2} (h : s.Canon) : (State.freeSeqrs s a1 a2).Canon := by
  unfold State.freeSeqrs
  repeat' first
    | (with_reducible first
        | assumption | apply State.Canon.updSeqr | apply foldl_canon | apply foldl_fst_canon | apply spad_foldl)
    | (simp only [canon_eta]) | split | (dsimp only) | (intro _)

theorem canon_refuseAfter {s : State} {n : Nat} {e : BitVec 8} (h : s.Canon) : (s.refuseAfter n e).Canon := by
  induction n generalizing s e with
  | zero => exact h
  | succ n ih => exact foldl_canon h.mapEntries fun _ _ hs => ih hs

theorem canon_endJob {s : State} {a1} (h : s.Canon) : (State.endJob s a1).Canon := by
  unfold State.endJob
  repeat' first
    | (with_reducible first
        | assumption)
    | (simp only [canon_eta]) | split | (dsimp only) | (intro _)

theorem canon_leave {s : State} {a1 a2 a3} (h : s.Canon) : (State.leave s a1 a2 a3).Canon := by
  unfold State.leave
  dsimp only
  repeat' first
    | (with_reducible first
        | assumption | apply canon_after | apply State.Canon.dropRegions | apply canon_endJob | apply canon_freeSeqrs
        | apply canon_freeTiles | apply State.Canon.mapEntries | apply State.Canon.drop | apply State.Canon.save
        | apply State.Canon.updEntry)
    | (simp only [canon_eta]) | (dsimp only) | (intro _)

theorem canon_kill {s : State} {a1} (h : s.Canon) : (State.kill s a1).Canon := by
  unfold State.kill
  repeat' first
    | (with_reducible first
        | assumption | apply canon_discard | apply canon_refuseAfter | apply canon_leave)

theorem canon_retire {s : State} {a1} (h : s.Canon) : (State.retire s a1).Canon := by
  unfold State.retire
  repeat' first
    | (with_reducible first
        | assumption | apply canon_leave)

theorem canon_requeue {s : State} {a1 a2} (h : s.Canon) : (State.requeue s a1 a2).Canon := by
  unfold State.requeue
  dsimp only
  repeat' first
    | (with_reducible first
        | assumption | apply State.Canon.mapRegions | apply State.Canon.updEntry | apply canon_discard)

theorem canon_replay {s : State} {a1} (h : s.Canon) : (State.replay s a1).Canon := by
  unfold State.replay
  dsimp only
  repeat' first
    | (with_reducible first
        | assumption | apply State.Canon.mapRegions | apply canon_park | apply canon_requeue)
    | (simp only [canon_eta]) | split | (dsimp only) | (intro _)

theorem canon_carryOut {s : State} {a1 a2} (h : s.Canon) : (State.carryOut s a1 a2).Canon := by
  unfold State.carryOut
  repeat' first
    | (with_reducible first
        | assumption | apply canon_park | apply canon_kill | apply canon_replay | apply out_canon)
    | (simp only [canon_eta]) | split

theorem canon_packageAct {s : State} {a1 a2} (h : s.Canon) : (State.packageAct s a1 a2).Canon := by
  unfold State.packageAct
  dsimp only
  repeat' first
    | (with_reducible first
        | assumption | apply canon_post | apply canon_snapTrigger | apply canon_carryOut | apply foldl_canon
        | apply foldl_fst_canon | apply spad_foldl)
    | (simp only [canon_eta]) | split | (dsimp only) | (intro _)

theorem canon_packageCause {s : State} {a1 a2 a3 a4 a5} (h : s.Canon) : (State.packageCause s a1 a2 a3 a4 a5).Canon := by
  unfold State.packageCause
  dsimp only
  repeat' first
    | (with_reducible first
        | assumption | apply canon_spend | apply canon_packageAct)

theorem canon_parkRegion {s : State} {a1} (h : s.Canon) : (State.parkRegion s a1).Canon := by
  unfold State.parkRegion
  dsimp only
  repeat' first
    | (with_reducible first
        | assumption | apply State.Canon.updRegion | apply canon_park)
    | (simp only [canon_eta]) | split

theorem spad_start {x0} (h0 : Memory.wf x0.spad = true) : Memory.wf (Tile.start x0).spad = true := by
  unfold Tile.start
  dsimp only
  repeat' first
    | (with_reducible assumption)

theorem canon_startTile {s : State} {a1} (h : s.Canon) : (State.startTile s a1).Canon := by
  unfold State.startTile
  dsimp only
  repeat' first
    | (with_reducible first
        | assumption | apply State.Canon.updTile | apply canon_after | apply spad_start)
    | (dsimp only) | split | (intro _)

theorem canon_execTaskStart {s : State} {a0} (h : s.Canon) : Out.Canon (execTaskStart a0 s) := by
  unfold execTaskStart
  dsimp only
  repeat' first
    | (with_reducible first
        | assumption | apply out_canon | apply State.Canon.updTile | apply foldl_canon | apply State.Canon.tile
        | apply spad_start | apply canon_startTile | apply State.Canon.updEntry | apply State.Canon.updRegion
        | apply State.Canon.updSeqr)
    | (simp only [canon_eta]) | split | (dsimp only) | (intro _)

theorem canon_execTaskEnd {s : State} {a0} (h : s.Canon) : Out.Canon (execTaskEnd a0 s) := by
  unfold execTaskEnd
  dsimp only
  repeat' first
    | (with_reducible first
        | assumption | apply out_canon | apply State.Canon.updTile | apply foldl_canon | apply State.Canon.tile
        | apply canon_endTxs | apply canon_park | apply canon_retire | apply State.Canon.updRegion
        | apply State.Canon.updSeqr)
    | (simp only [canon_eta]) | split | (dsimp only) | (intro _)

theorem canon_release {s : State} {a1} (h : s.Canon) : (State.release s a1).Canon := by
  unfold State.release
  dsimp only
  repeat' first
    | (with_reducible first
        | assumption | apply State.Canon.updEntry | apply canon_after | apply canon_now | apply foldl_canon
        | apply foldl_fst_canon | apply spad_foldl)
    | (simp only [canon_eta]) | split | (dsimp only) | (intro _)

theorem canon_stretchReleases {s : State} (h : s.Canon) : (State.stretchReleases s).Canon := by
  unfold State.stretchReleases
  dsimp only
  repeat' first
    | (with_reducible first
        | assumption)
    | (simp only [canon_eta]) | (dsimp only) | (intro _)

theorem canon_execLaunchStart {s : State} {a0} (h : s.Canon) : Out.Canon (execLaunchStart a0 s) := by
  unfold execLaunchStart
  dsimp only
  repeat' first
    | (with_reducible first
        | assumption | apply canon_release | apply out_canon | apply spad_start)
    | (simp only [canon_eta]) | split

theorem canon_execRegionRelease {s : State} {a0} (h : s.Canon) : Out.Canon (execRegionRelease a0 s) := by
  unfold execRegionRelease
  repeat' first
    | (with_reducible first
        | assumption | apply State.Canon.updRegion | apply canon_now | apply out_canon)
    | (simp only [canon_eta]) | split

end Sys2Proof.Machine
end

