-- ==== Sys2Proof/Laws/CanonCollect.lean ====
section
/-! SUPPORT. The definitions of Machine/Collect.lean keep the canonical form of every memory and table. -/

namespace Sys2Proof.Machine

theorem canon_setRound {s : State} {a1} (h : s.Canon) : (State.setRound s a1).Canon := by
  unfold State.setRound
  repeat' first
    | (with_reducible assumption) | (simp only [canon_eta])

theorem canon_errContributor {s : State} {a1} (h : s.Canon) : (State.errContributor s a1).Canon := by
  unfold State.errContributor
  repeat' first
    | (with_reducible first
        | assumption | apply canon_cancelRec | apply State.Canon.tile)
    | (simp only [canon_eta]) | split

theorem canon_multicast {s : State} {a1} (h : s.Canon) : (State.multicast s a1).Canon := by
  unfold State.multicast
  dsimp only
  repeat' first
    | (with_reducible first
        | assumption | apply canon_later | apply canon_take | apply foldl_canon | apply foldl_fst_canon | apply spad_foldl
        | apply State.Canon.tile)
    | (simp only [canon_eta]) | split | (dsimp only) | (intro _)

theorem canon_execContributionArrival {s : State} (h : s.Canon) : Out.Canon (execContributionArrival s) := by
  unfold execContributionArrival
  dsimp only
  repeat' first
    | (with_reducible first
        | assumption | apply canon_after | apply canon_setRound | apply canon_errContributor | apply canon_multicast
        | apply foldl_canon | apply foldl_fst_canon | apply out_canon | apply spad_foldl)
    | (simp only [canon_eta]) | split

theorem canon_endRound {s : State} {a1} (h : s.Canon) : (State.endRound s a1).Canon := by
  unfold State.endRound
  repeat' first
    | (with_reducible first
        | assumption | apply foldl_canon | apply canon_errContributor | apply canon_setRound)
    | (simp only [canon_eta]) | split | (dsimp only) | (intro _)

theorem canon_execRoundDeadline {s : State} {a0 a1} (h : s.Canon) : Out.Canon (execRoundDeadline a0 a1 s) := by
  unfold execRoundDeadline
  dsimp only
  repeat' first
    | (with_reducible first
        | assumption | apply out_canon | apply foldl_canon | apply canon_after | apply canon_endRound)
    | (simp only [canon_eta]) | split | (dsimp only) | (intro _)

end Sys2Proof.Machine
end

