-- ==== Sys2Proof/Laws/CanonPlace.lean ====
section
/-! SUPPORT. The definitions of Machine/Place.lean keep the canonical form of every memory and table. -/

namespace Sys2Proof.Machine

theorem canon_placeLeaf {s : State} {a1 a2 a3} (h : s.Canon) : (State.placeLeaf s a1 a2 a3).1.Canon := by
  unfold State.placeLeaf
  dsimp only
  repeat' first
    | (with_reducible first
        | assumption | apply canon_installBoth | apply canon_post | apply canon_spend)
    | (simp only [canon_eta]) | split | (dsimp only) | (intro _)

theorem canon_schedSlabs {s : State} {h0 : Header0} {e : BitVec 8} {asid : BitVec 16} {x : ExtentDecl} {n va : Nat} (h : s.Canon) :
    (s.schedSlabs h0 e asid x n va).1.Canon := by
  induction n generalizing s va with
  | zero => exact h
  | succ n ih =>
    unfold State.schedSlabs
    extract_lets a
    have ha : a.1.Canon := canon_placeLeaf h
    split
    · exact ha
    · exact ih ha

theorem canon_cachedRuns {s : State} {e : BitVec 8} {asid : BitVec 16} {x : ExtentDecl} {n o : Nat} (h : s.Canon) :
    (s.cachedRuns e asid x n o).1.Canon := by
  induction n generalizing s o with
  | zero => exact h
  | succ n ih =>
    unfold State.cachedRuns
    extract_lets va a
    have ha : a.1.Canon := canon_placeLeaf h
    split
    · exact h
    · split
      · exact ha
      · split
        · exact ih ha
        · exact ha

theorem canon_physClass {s : State} {h0 : Header0} {e : BitVec 8} {x : ExtentDecl} (n m) (f : List Nat → ExtentPhys)
    (g : List (Nat × Nat × Nat) × List (Nat × Nat) → ExtentPhys) (h : s.Canon) : (match x.cls with
  | 0 => let r := s.schedSlabs h0 e (s.entry e).asid x n x.vbase; (r.1, r.2.map f)
  | 1 => let r := s.cachedRuns e (s.entry e).asid x m 0; (r.1, r.2.map g)
  | _ => (s, some ⟨[], [], []⟩)).1.Canon := by
  split
  · exact canon_schedSlabs h
  · exact canon_cachedRuns h
  · exact h

theorem canon_physExtent {s : State} {h0 : Header0} {e : BitVec 8} {x : ExtentDecl} (h : s.Canon) :
    (s.physExtent h0 e x).1.Canon := by
  unfold State.physExtent
  exact canon_physClass _ _ _ _ h

theorem canon_physTable {s : State} {h0 : Header0} {e : BitVec 8} {i used : Nat} {xs : List ExtentDecl} (h : s.Canon) :
    (s.physTable h0 e i used xs).1.Canon := by
  induction xs generalizing s i used with
  | nil => exact h
  | cons x xs ih =>
    unfold State.physTable
    extract_lets a
    have ha : a.1.Canon := canon_physExtent h
    split
    · exact ha
    · extract_lets n r
      split
      · exact ha
      · exact ih ha

theorem spad_copyData {a0 a1 x2 a3} (h2 : Memory.wf x2.spad = true) : Memory.wf (State.copyData a0 a1 x2 a3).spad = true := by
  unfold State.copyData
  dsimp only
  repeat' first
    | (with_reducible first
        | assumption | apply spad_putBytes | apply spad_setTag | apply spad_foldl)
    | split | (dsimp only) | (intro _)

theorem canon_bindTile {s : State} {e : BitVec 8} {h0 : Header0} {v : Nat} {first : Bool} {i pos : Nat} {lt : Option Nat}
    {t : Nat} (h : s.Canon) :
    (s.bindTile e h0 v first i pos lt t).Canon := by
  unfold State.bindTile
  extract_lets base ws x y
  have hy : Memory.wf y.spad = true := h.tile t
  refine h.setTile ?_
  split
  · rcases lt with _ | n
    · exact hy
    · exact spad_foldl hy fun _ _ hz => spad_copyData hz
  · exact hy

theorem canon_bindRegion {s : State} {a1 a2 a3 a4 a5 a6 a7} (h : s.Canon) : (State.bindRegion s a1 a2 a3 a4 a5 a6 a7).Canon := by
  unfold State.bindRegion
  dsimp only
  repeat' first
    | (with_reducible first
        | assumption | apply State.Canon.setRegion | apply canon_take | apply canon_bindTile | apply foldl_canon
        | apply foldl_fst_canon | apply spad_foldl)
    | (simp only [canon_eta]) | split | (dsimp only) | (intro _)

theorem canon_bindSeqr {s : State} {a1 a2 a3 a4 a5 a6 a7 a8} (h : s.Canon) : (State.bindSeqr s a1 a2 a3 a4 a5 a6 a7 a8).Canon := by
  unfold State.bindSeqr
  dsimp only
  repeat' first
    | (with_reducible first
        | assumption | apply State.Canon.updSeqr)
    | (simp only [canon_eta]) | split

theorem canon_bind {s : State} {a1 a2 a3 a4 a5 a6} (h : s.Canon) : (State.bind s a1 a2 a3 a4 a5 a6).Canon := by
  unfold State.bind
  dsimp only
  repeat' first
    | (with_reducible first
        | assumption | apply State.Canon.updEntry | apply canon_bindRegion | apply canon_bindSeqr | apply foldl_canon
        | apply foldl_fst_canon | apply spad_foldl)
    | (simp only [canon_eta]) | split | (dsimp only) | (intro _)

end Sys2Proof.Machine
end

