-- ==== Sys2Proof/Laws/CanonAdmission.lean ====
section
/-! SUPPORT. The definitions of Machine/Admission.lean keep the canonical form of every memory and table. -/

namespace Sys2Proof.Machine

theorem canon_refuse {s : State} {a1 a2} (h : s.Canon) : (State.refuse s a1 a2).Canon := by
  unfold State.refuse
  dsimp only
  repeat' first
    | (with_reducible first
        | assumption | apply canon_post | apply canon_refuseAfter | apply canon_snapTrigger | apply canon_spend
        | apply State.Canon.updEntry)
    | (simp only [canon_eta]) | split | (dsimp only) | (intro _)

theorem canon_lastSteps {s : State} {a1 a2} (h : s.Canon) : (State.lastSteps s a1 a2).1.Canon := by
  unfold State.lastSteps
  dsimp only
  repeat' first
    | (with_reducible first
        | assumption | apply canon_spend | apply canon_warn)
    | split

theorem canon_step4 {s : State} {a1 a2} (h : s.Canon) : (State.step4 s a1 a2).1.Canon := by
  unfold State.step4
  dsimp only
  repeat' first
    | (with_reducible first
        | assumption | apply canon_physTable)
    | (simp only [canon_eta]) | split

theorem canon_accept {s : State} {a1 a2} (h : s.Canon) : (State.accept s a1 a2).Canon := by
  unfold State.accept
  dsimp only
  repeat' first
    | (with_reducible first
        | assumption | apply State.Canon.updEntry)
    | (simp only [canon_eta]) | (dsimp only) | (intro _)

theorem canon_admit {s : State} {a1 a2} (h : s.Canon) : (State.accept s a1 a2).Canon := by
  unfold State.accept
  dsimp only
  repeat' first
    | (with_reducible first
        | assumption | apply State.Canon.updEntry)

theorem canon_execAdmission {s : State} {a0} (h : s.Canon) : Out.Canon (execAdmission a0 s) := by
  unfold execAdmission
  dsimp only
  repeat' first
    | (with_reducible first
        | assumption | apply canon_after | apply canon_bind | apply canon_refuse | apply canon_lastSteps | apply canon_step4
        | apply canon_admit | apply out_canon | apply spad_start)
    | (simp only [canon_eta]) | split

theorem canon_execDynamicRelease {s : State} {a0} (h : s.Canon) : Out.Canon (execDynamicRelease a0 s) := by
  unfold execDynamicRelease
  dsimp only
  repeat' first
    | (with_reducible first
        | assumption | apply canon_release | apply canon_bind | apply canon_refuse | apply canon_step4 | apply out_canon)
    | (simp only [canon_eta]) | split

theorem canon_execReplacement {s : State} {a0} (h : s.Canon) : Out.Canon (execReplacement a0 s) := by
  unfold execReplacement
  dsimp only
  repeat' first
    | (with_reducible first
        | assumption | apply out_canon | apply canon_bind | apply canon_kill | apply canon_requeue
        | apply State.Canon.drop | apply State.Canon.save | apply canon_say | apply canon_spend
        | apply State.Canon.updEntry | apply canon_within)
    | (simp only [canon_eta]) | split | (dsimp only) | (intro _)

end Sys2Proof.Machine
end

