-- ==== Sys2Proof/Laws/CanonLoadStore.lean ====
section
/-! SUPPORT. The definitions of Machine/LoadStore.lean keep the canonical form of every memory and table. -/

namespace Sys2Proof.Machine

theorem canon_vload {s : State} {a1 a2 a3 a4 a5} (h : s.Canon) : (State.vload s a1 a2 a3 a4 a5).Canon := by
  unfold State.vload
  dsimp only
  repeat' first
    | (with_reducible first
        | assumption | apply canon_resultV | apply canon_memAccess | apply spad_view | apply State.Canon.tile)
    | split

theorem canon_vstore {s : State} {a1 a2 a3 a4 a5} (h : s.Canon) : (State.vstore s a1 a2 a3 a4 a5).Canon := by
  unfold State.vstore
  dsimp only
  repeat' first
    | (with_reducible first
        | assumption | apply canon_memAccess | apply canon_bufferStore)
    | split

theorem canon_execVld {s : State} {a0 a1 a2 a3 a4} (h : s.Canon) : Out.Canon (execVld a0 a1 a2 a3 a4 s) := by
  unfold execVld
  dsimp only
  repeat' first
    | (with_reducible first
        | assumption | apply canon_when | apply canon_vload | apply out_canon)
    | split | (dsimp only) | (intro _)

theorem canon_execVst {s : State} {a0 a1 a2 a3 a4} (h : s.Canon) : Out.Canon (execVst a0 a1 a2 a3 a4 s) := by
  unfold execVst
  dsimp only
  repeat' first
    | (with_reducible first
        | assumption | apply canon_when | apply canon_vstore | apply out_canon)
    | split | (dsimp only) | (intro _)

theorem canon_execVldx {s : State} {a0 a1 a2 a3 a4 a5} (h : s.Canon) : Out.Canon (execVldx a0 a1 a2 a3 a4 a5 s) := by
  unfold execVldx
  repeat' first
    | (with_reducible first
        | assumption | apply canon_when | apply canon_vload | apply out_canon)
    | split | (dsimp only) | (intro _)

theorem canon_execVstx {s : State} {a0 a1 a2 a3 a4 a5} (h : s.Canon) : Out.Canon (execVstx a0 a1 a2 a3 a4 a5 s) := by
  unfold execVstx
  repeat' first
    | (with_reducible first
        | assumption | apply canon_when | apply canon_vstore | apply out_canon)
    | split | (dsimp only) | (intro _)

theorem canon_execVldb {s : State} {a0 a1 a2 a3} (h : s.Canon) : Out.Canon (execVldb a0 a1 a2 a3 s) := by
  unfold execVldb
  repeat' first
    | (with_reducible first
        | assumption | apply canon_when | apply canon_vload | apply out_canon)
    | split | (dsimp only) | (intro _)

theorem canon_execVlds {s : State} {a0 a1 a2 a3 a4 a5} (h : s.Canon) : Out.Canon (execVlds a0 a1 a2 a3 a4 a5 s) := by
  unfold execVlds
  repeat' first
    | (with_reducible first
        | assumption | apply canon_when | apply canon_vload | apply out_canon)
    | split | (dsimp only) | (intro _)

theorem canon_execVsts {s : State} {a0 a1 a2 a3 a4 a5} (h : s.Canon) : Out.Canon (execVsts a0 a1 a2 a3 a4 a5 s) := by
  unfold execVsts
  repeat' first
    | (with_reducible first
        | assumption | apply canon_when | apply canon_vstore | apply out_canon)
    | split | (dsimp only) | (intro _)

theorem canon_execSend {s : State} {a0 a1 a2 a3} (h : s.Canon) : Out.Canon (execSend a0 a1 a2 a3 s) := by
  unfold execSend
  repeat' first
    | (with_reducible first
        | assumption | apply canon_emit | apply canon_mark | apply canon_raiseOpen | apply canon_when | apply out_canon)
    | (simp only [canon_eta]) | (refine canon_fst (by assumption) ?_) | split | (dsimp only) | (intro _)

theorem canon_execDsend {s : State} {a0 a1 a2 a3 a4} (h : s.Canon) : Out.Canon (execDsend a0 a1 a2 a3 a4 s) := by
  unfold execDsend
  repeat' first
    | (with_reducible first
        | assumption | apply canon_emit | apply canon_mark | apply canon_raiseOpen | apply canon_when | apply out_canon
        | apply State.Canon.tile)
    | (simp only [canon_eta]) | split | (dsimp only) | (intro _)

theorem canon_execRecv {s : State} {a0 a1 a2} (h : s.Canon) : Out.Canon (execRecv a0 a1 a2 s) := by
  unfold execRecv
  dsimp only
  repeat' first
    | (with_reducible first
        | assumption | apply canon_resultV | apply canon_when | apply out_canon | apply State.Canon.tile)
    | split | (dsimp only) | (intro _)

theorem canon_execDrecv {s : State} {a0 a1 a2} (h : s.Canon) : Out.Canon (execDrecv a0 a1 a2 s) := by
  unfold execDrecv
  dsimp only
  repeat' first
    | (with_reducible first
        | assumption | apply canon_resultV | apply canon_when | apply out_canon | apply State.Canon.tile)
    | split | (dsimp only) | (intro _)

theorem canon_execLsend {s : State} {a0 a1 a2 a3 a4} (h : s.Canon) : Out.Canon (execLsend a0 a1 a2 a3 a4 s) := by
  unfold execLsend
  dsimp only
  repeat' first
    | (with_reducible first
        | assumption | apply canon_emit | apply canon_mark | apply canon_raiseOpen | apply canon_when | apply canon_memAccess
        | apply out_canon | apply State.Canon.tile)
    | (simp only [canon_eta]) | (refine canon_fst (by assumption) ?_) | split | (dsimp only) | (intro _)

theorem canon_execLrecv {s : State} {a0 a1 a2 a3} (h : s.Canon) : Out.Canon (execLrecv a0 a1 a2 a3 s) := by
  unfold execLrecv
  dsimp only
  repeat' first
    | (with_reducible first
        | assumption | apply canon_when | apply canon_memAccess | apply canon_bufferStore | apply out_canon
        | apply State.Canon.tile)
    | split | (dsimp only) | (intro _)

end Sys2Proof.Machine
end

