-- ==== Sys2Proof/Laws/CanonScalar.lean ====
section
/-! SUPPORT. The definitions of Machine/Scalar.lean keep the canonical form of every memory and table. -/

namespace Sys2Proof.Machine

theorem canon_alu2 {s : State} {a1 a2 a3 a4 a5 a6 a7} (h : s.Canon) : Out.Canon (State.alu2 s a1 a2 a3 a4 a5 a6 a7) := by
  unfold State.alu2
  repeat' first
    | (with_reducible first
        | assumption | apply canon_resultS | apply canon_when | apply out_canon)
    | split | (dsimp only) | (intro _)

theorem canon_aluI {s : State} {a1 a2 a3 a4 a5 a6} (h : s.Canon) : Out.Canon (State.aluI s a1 a2 a3 a4 a5 a6) := by
  unfold State.aluI
  repeat' first
    | (with_reducible first
        | assumption | apply canon_resultS | apply canon_when | apply out_canon)
    | split | (dsimp only) | (intro _)

theorem canon_alu1 {s : State} {a1 a2 a3 a4 a5 a6} (h : s.Canon) : Out.Canon (State.alu1 s a1 a2 a3 a4 a5 a6) := by
  unfold State.alu1
  repeat' first
    | (with_reducible first
        | assumption | apply canon_resultS | apply canon_when | apply out_canon)
    | split | (dsimp only) | (intro _)

theorem canon_execAdd {s : State} {a0 a1 a2 a3} (h : s.Canon) : Out.Canon (execAdd a0 a1 a2 a3 s) := by
  unfold execAdd
  repeat' first
    | (with_reducible first
        | assumption | apply canon_alu2)

theorem canon_execSub {s : State} {a0 a1 a2 a3} (h : s.Canon) : Out.Canon (execSub a0 a1 a2 a3 s) := by
  unfold execSub
  repeat' first
    | (with_reducible first
        | assumption | apply canon_alu2)

theorem canon_execAddi {s : State} {a0 a1 a2 a3} (h : s.Canon) : Out.Canon (execAddi a0 a1 a2 a3 s) := by
  unfold execAddi
  repeat' first
    | (with_reducible first
        | assumption | apply canon_aluI)

theorem canon_execAnd {s : State} {a0 a1 a2 a3} (h : s.Canon) : Out.Canon (execAnd a0 a1 a2 a3 s) := by
  unfold execAnd
  repeat' first
    | (with_reducible first
        | assumption | apply canon_alu2)

theorem canon_execOr {s : State} {a0 a1 a2 a3} (h : s.Canon) : Out.Canon (execOr a0 a1 a2 a3 s) := by
  unfold execOr
  repeat' first
    | (with_reducible first
        | assumption | apply canon_alu2)

theorem canon_execXor {s : State} {a0 a1 a2 a3} (h : s.Canon) : Out.Canon (execXor a0 a1 a2 a3 s) := by
  unfold execXor
  repeat' first
    | (with_reducible first
        | assumption | apply canon_alu2)

theorem canon_execAndi {s : State} {a0 a1 a2 a3} (h : s.Canon) : Out.Canon (execAndi a0 a1 a2 a3 s) := by
  unfold execAndi
  repeat' first
    | (with_reducible first
        | assumption | apply canon_aluI)

theorem canon_execOri {s : State} {a0 a1 a2 a3} (h : s.Canon) : Out.Canon (execOri a0 a1 a2 a3 s) := by
  unfold execOri
  repeat' first
    | (with_reducible first
        | assumption | apply canon_aluI)

theorem canon_execXori {s : State} {a0 a1 a2 a3} (h : s.Canon) : Out.Canon (execXori a0 a1 a2 a3 s) := by
  unfold execXori
  repeat' first
    | (with_reducible first
        | assumption | apply canon_aluI)

theorem canon_execShl {s : State} {a0 a1 a2 a3} (h : s.Canon) : Out.Canon (execShl a0 a1 a2 a3 s) := by
  unfold execShl
  repeat' first
    | (with_reducible first
        | assumption | apply canon_alu2)

theorem canon_execShr {s : State} {a0 a1 a2 a3} (h : s.Canon) : Out.Canon (execShr a0 a1 a2 a3 s) := by
  unfold execShr
  repeat' first
    | (with_reducible first
        | assumption | apply canon_alu2)

theorem canon_execSra {s : State} {a0 a1 a2 a3} (h : s.Canon) : Out.Canon (execSra a0 a1 a2 a3 s) := by
  unfold execSra
  repeat' first
    | (with_reducible first
        | assumption | apply canon_alu2)

theorem canon_execShli {s : State} {a0 a1 a2 a3} (h : s.Canon) : Out.Canon (execShli a0 a1 a2 a3 s) := by
  unfold execShli
  repeat' first
    | (with_reducible first
        | assumption | apply canon_aluI)

theorem canon_execShri {s : State} {a0 a1 a2 a3} (h : s.Canon) : Out.Canon (execShri a0 a1 a2 a3 s) := by
  unfold execShri
  repeat' first
    | (with_reducible first
        | assumption | apply canon_aluI)

theorem canon_execSrai {s : State} {a0 a1 a2 a3} (h : s.Canon) : Out.Canon (execSrai a0 a1 a2 a3 s) := by
  unfold execSrai
  repeat' first
    | (with_reducible first
        | assumption | apply canon_aluI)

theorem canon_execMul {s : State} {a0 a1 a2 a3} (h : s.Canon) : Out.Canon (execMul a0 a1 a2 a3 s) := by
  unfold execMul
  repeat' first
    | (with_reducible first
        | assumption | apply canon_alu2)

theorem canon_execMulh {s : State} {a0 a1 a2 a3} (h : s.Canon) : Out.Canon (execMulh a0 a1 a2 a3 s) := by
  unfold execMulh
  repeat' first
    | (with_reducible first
        | assumption | apply canon_alu2)

theorem canon_execMulhu {s : State} {a0 a1 a2 a3} (h : s.Canon) : Out.Canon (execMulhu a0 a1 a2 a3 s) := by
  unfold execMulhu
  repeat' first
    | (with_reducible first
        | assumption | apply canon_alu2)

theorem canon_execDivu {s : State} {a0 a1 a2 a3} (h : s.Canon) : Out.Canon (execDivu a0 a1 a2 a3 s) := by
  unfold execDivu
  repeat' first
    | (with_reducible first
        | assumption | apply canon_alu2)

theorem canon_execRemu {s : State} {a0 a1 a2 a3} (h : s.Canon) : Out.Canon (execRemu a0 a1 a2 a3 s) := by
  unfold execRemu
  repeat' first
    | (with_reducible first
        | assumption | apply canon_alu2)

theorem canon_execMin {s : State} {a0 a1 a2 a3} (h : s.Canon) : Out.Canon (execMin a0 a1 a2 a3 s) := by
  unfold execMin
  repeat' first
    | (with_reducible first
        | assumption | apply canon_alu2)

theorem canon_execMax {s : State} {a0 a1 a2 a3} (h : s.Canon) : Out.Canon (execMax a0 a1 a2 a3 s) := by
  unfold execMax
  repeat' first
    | (with_reducible first
        | assumption | apply canon_alu2)

theorem canon_execMinu {s : State} {a0 a1 a2 a3} (h : s.Canon) : Out.Canon (execMinu a0 a1 a2 a3 s) := by
  unfold execMinu
  repeat' first
    | (with_reducible first
        | assumption | apply canon_alu2)

theorem canon_execMaxu {s : State} {a0 a1 a2 a3} (h : s.Canon) : Out.Canon (execMaxu a0 a1 a2 a3 s) := by
  unfold execMaxu
  repeat' first
    | (with_reducible first
        | assumption | apply canon_alu2)

theorem canon_execClz {s : State} {a0 a1 a2} (h : s.Canon) : Out.Canon (execClz a0 a1 a2 s) := by
  unfold execClz
  repeat' first
    | (with_reducible first
        | assumption | apply canon_alu1)

theorem canon_execPopc {s : State} {a0 a1 a2} (h : s.Canon) : Out.Canon (execPopc a0 a1 a2 s) := by
  unfold execPopc
  repeat' first
    | (with_reducible first
        | assumption | apply canon_alu1)

theorem canon_execAddw {s : State} {a0 a1 a2 a3} (h : s.Canon) : Out.Canon (execAddw a0 a1 a2 a3 s) := by
  unfold execAddw
  repeat' first
    | (with_reducible first
        | assumption | apply canon_alu2)

theorem canon_execSubw {s : State} {a0 a1 a2 a3} (h : s.Canon) : Out.Canon (execSubw a0 a1 a2 a3 s) := by
  unfold execSubw
  repeat' first
    | (with_reducible first
        | assumption | apply canon_alu2)

theorem canon_execRotl {s : State} {a0 a1 a2 a3} (h : s.Canon) : Out.Canon (execRotl a0 a1 a2 a3 s) := by
  unfold execRotl
  repeat' first
    | (with_reducible first
        | assumption | apply canon_alu2)

theorem canon_execBext {s : State} {a0 a1 a2 a3} (h : s.Canon) : Out.Canon (execBext a0 a1 a2 a3 s) := by
  unfold execBext
  repeat' first
    | (with_reducible first
        | assumption | apply canon_alu2)

theorem canon_execMuli {s : State} {a0 a1 a2 a3} (h : s.Canon) : Out.Canon (execMuli a0 a1 a2 a3 s) := by
  unfold execMuli
  repeat' first
    | (with_reducible first
        | assumption | apply canon_aluI)

theorem canon_execBins {s : State} {a0 a1 a2 a3} (h : s.Canon) : Out.Canon (execBins a0 a1 a2 a3 s) := by
  unfold execBins
  repeat' first
    | (with_reducible first
        | assumption | apply canon_resultS | apply canon_when | apply out_canon)
    | split | (dsimp only) | (intro _)

theorem canon_execMovi {s : State} {a0 a1 a2} (h : s.Canon) : Out.Canon (execMovi a0 a1 a2 s) := by
  unfold execMovi
  repeat' first
    | (with_reducible first
        | assumption | apply canon_resultS | apply canon_when | apply out_canon)
    | split | (dsimp only) | (intro _)

theorem canon_execMovsh {s : State} {a0 a1 a2} (h : s.Canon) : Out.Canon (execMovsh a0 a1 a2 s) := by
  unfold execMovsh
  repeat' first
    | (with_reducible first
        | assumption | apply canon_resultS | apply canon_when | apply out_canon)
    | split | (dsimp only) | (intro _)

theorem canon_execSel {s : State} {a0 a1 a2 a3 a4} (h : s.Canon) : Out.Canon (execSel a0 a1 a2 a3 a4 s) := by
  unfold execSel
  repeat' first
    | (with_reducible first
        | assumption | apply canon_resultS | apply canon_when | apply out_canon)
    | split | (dsimp only) | (intro _)

theorem canon_execExtf {s : State} {a0 a1 a2 a3} (h : s.Canon) : Out.Canon (execExtf a0 a1 a2 a3 s) := by
  unfold execExtf
  dsimp only
  repeat' first
    | (with_reducible first
        | assumption | apply canon_resultS | apply canon_when | apply out_canon | apply State.Canon.tile)
    | split | (dsimp only) | (intro _)

theorem canon_execLea {s : State} {a0 a1 a2 a3} (h : s.Canon) : Out.Canon (execLea a0 a1 a2 a3 s) := by
  unfold execLea
  repeat' first
    | (with_reducible first
        | assumption | apply canon_resultS | apply canon_when | apply out_canon)
    | split | (dsimp only) | (intro _)

theorem canon_execCmp {s : State} {a0 a1 a2 a3 a4} (h : s.Canon) : Out.Canon (execCmp a0 a1 a2 a3 a4 s) := by
  unfold execCmp
  repeat' first
    | (with_reducible first
        | assumption | apply canon_resultP | apply canon_when | apply out_canon)
    | split | (dsimp only) | (intro _)

theorem canon_execCmpi {s : State} {a0 a1 a2 a3 a4} (h : s.Canon) : Out.Canon (execCmpi a0 a1 a2 a3 a4 s) := by
  unfold execCmpi
  repeat' first
    | (with_reducible first
        | assumption | apply canon_resultP | apply canon_when | apply out_canon)
    | split | (dsimp only) | (intro _)

theorem canon_execPlog {s : State} {a0 a1 a2 a3 a4} (h : s.Canon) : Out.Canon (execPlog a0 a1 a2 a3 a4 s) := by
  unfold execPlog
  repeat' first
    | (with_reducible first
        | assumption | apply canon_resultP | apply canon_when | apply out_canon)
    | split | (dsimp only) | (intro _)

theorem canon_execMfsr {s : State} {a0 a1 a2} (h : s.Canon) : Out.Canon (execMfsr a0 a1 a2 s) := by
  unfold execMfsr
  dsimp only
  repeat' first
    | (with_reducible first
        | assumption | apply canon_emit | apply canon_entryTag | apply canon_when | apply out_canon)
    | split | (dsimp only) | (intro _)

theorem canon_execMtsr {s : State} {a0 a1 a2} (h : s.Canon) : Out.Canon (execMtsr a0 a1 a2 s) := by
  unfold execMtsr
  dsimp only
  repeat' first
    | (with_reducible first
        | assumption | apply canon_emit | apply canon_raiseOpen | apply canon_when | apply out_canon)
    | split | (dsimp only) | (intro _)

theorem canon_execLds {s : State} {a0 a1 a2 a3 a4} (h : s.Canon) : Out.Canon (execLds a0 a1 a2 a3 a4 s) := by
  unfold execLds
  dsimp only
  repeat' first
    | (with_reducible first
        | assumption | apply canon_resultS | apply canon_when | apply canon_memAccess | apply out_canon | apply spad_view
        | apply State.Canon.tile)
    | split | (dsimp only) | (intro _)

theorem canon_execSts {s : State} {a0 a1 a2 a3 a4} (h : s.Canon) : Out.Canon (execSts a0 a1 a2 a3 a4 s) := by
  unfold execSts
  dsimp only
  repeat' first
    | (with_reducible first
        | assumption | apply canon_when | apply canon_memAccess | apply canon_bufferStore | apply out_canon)
    | split | (dsimp only) | (intro _)

theorem canon_execLdf {s : State} {a0 a1 a2 a3} (h : s.Canon) : Out.Canon (execLdf a0 a1 a2 a3 s) := by
  unfold execLdf
  dsimp only
  repeat' first
    | (with_reducible first
        | assumption | apply canon_emit | apply canon_entryTag | apply canon_raiseAt | apply canon_when | apply out_canon
        | apply State.Canon.tile)
    | (simp only [canon_eta]) | split | (dsimp only) | (intro _)

end Sys2Proof.Machine
end

