-- ==== Sys2Proof/Laws/CanonControl.lean ====
section
/-! SUPPORT. The definitions of Machine/Control.lean keep the canonical form of every memory and table. -/

namespace Sys2Proof.Machine

theorem canon_transfer {s : State} {a1 a2 a3} (h : s.Canon) : (State.transfer s a1 a2 a3).Canon := by
  unfold State.transfer
  repeat' first
    | (with_reducible first
        | assumption | apply canon_emit | apply canon_raise)
    | split

theorem canon_execBr {s : State} {a0 a1} (h : s.Canon) : Out.Canon (execBr a0 a1 s) := by
  unfold execBr
  dsimp only
  repeat' first
    | (with_reducible first
        | assumption | apply canon_when | apply canon_transfer | apply out_canon)
    | split | (dsimp only) | (intro _)

theorem canon_execBri {s : State} {a0 a1} (h : s.Canon) : Out.Canon (execBri a0 a1 s) := by
  unfold execBri
  dsimp only
  repeat' first
    | (with_reducible first
        | assumption | apply canon_when | apply canon_transfer | apply out_canon | apply State.Canon.tile)
    | split | (dsimp only) | (intro _)

theorem canon_execCall {s : State} {a0 a1} (h : s.Canon) : Out.Canon (execCall a0 a1 s) := by
  unfold execCall
  dsimp only
  repeat' first
    | (with_reducible first
        | assumption | apply canon_emit | apply canon_raiseOpen | apply canon_when | apply canon_transfer | apply out_canon)
    | split | (dsimp only) | (intro _)

theorem canon_execRet {s : State} {a0} (h : s.Canon) : Out.Canon (execRet a0 s) := by
  unfold execRet
  repeat' first
    | (with_reducible first
        | assumption | apply canon_emit | apply canon_raiseOpen | apply canon_when | apply out_canon)
    | (simp only [canon_eta]) | split | (dsimp only) | (intro _)

theorem canon_openLoop {s : State} {a1 a2 a3} (h : s.Canon) : (State.openLoop s a1 a2 a3).Canon := by
  unfold State.openLoop
  dsimp only
  repeat' first
    | (with_reducible first
        | assumption | apply canon_emit | apply canon_raiseOpen)
    | split

theorem canon_execLoop {s : State} {a0 a1 a2 a3} (h : s.Canon) : Out.Canon (execLoop a0 a1 a2 a3 s) := by
  unfold execLoop
  repeat' first
    | (with_reducible first
        | assumption | apply canon_when | apply canon_openLoop | apply out_canon)
    | split | (dsimp only) | (intro _)

theorem canon_execLoopi {s : State} {a0 a1 a2 a3} (h : s.Canon) : Out.Canon (execLoopi a0 a1 a2 a3 s) := by
  unfold execLoopi
  repeat' first
    | (with_reducible first
        | assumption | apply canon_when | apply canon_openLoop | apply out_canon)
    | split | (dsimp only) | (intro _)

theorem canon_execBrkl {s : State} {a0 a1} (h : s.Canon) : Out.Canon (execBrkl a0 a1 s) := by
  unfold execBrkl
  dsimp only
  repeat' first
    | (with_reducible first
        | assumption | apply canon_emit | apply canon_raiseOpen | apply canon_when | apply canon_transfer | apply out_canon)
    | (simp only [canon_eta]) | split | (dsimp only) | (intro _)

theorem canon_loopEnd {s : State} (h : s.Canon) : (State.loopEnd s).Canon := by
  unfold State.loopEnd
  dsimp only
  repeat' first
    | (with_reducible first
        | assumption | apply canon_emit | apply canon_raise | apply spad_start)
    | (simp only [canon_eta]) | split

theorem canon_execSetlc {s : State} {a0 a1 a2} (h : s.Canon) : Out.Canon (execSetlc a0 a1 a2 s) := by
  unfold execSetlc
  repeat' first
    | (with_reducible first
        | assumption | apply canon_emit | apply canon_when | apply out_canon)
    | split | (dsimp only) | (intro _)

theorem canon_execPhase {s : State} {a0 a1} (h : s.Canon) : Out.Canon (execPhase a0 a1 s) := by
  unfold execPhase
  repeat' first
    | (with_reducible first
        | assumption | apply canon_emit | apply canon_when | apply out_canon)
    | split | (dsimp only) | (intro _)

theorem canon_execEpoch {s : State} {a0 a1 a2} (h : s.Canon) : Out.Canon (execEpoch a0 a1 a2 s) := by
  unfold execEpoch
  repeat' first
    | (with_reducible first
        | assumption | apply canon_emit | apply canon_when | apply out_canon)
    | split | (dsimp only) | (intro _)

theorem canon_execGateset {s : State} {a0 a1 a2 a3 a4} (h : s.Canon) : Out.Canon (execGateset a0 a1 a2 a3 a4 s) := by
  unfold execGateset
  dsimp only
  repeat' first
    | (with_reducible first
        | assumption | apply canon_emit | apply canon_raiseOpen | apply canon_when | apply out_canon)
    | split | (dsimp only) | (intro _)

theorem canon_execRdv {s : State} {a0 a1 a2} (h : s.Canon) : Out.Canon (execRdv a0 a1 a2 s) := by
  unfold execRdv
  dsimp only
  repeat' first
    | (with_reducible first
        | assumption | apply canon_emit | apply canon_mark | apply canon_raiseOpen | apply canon_when | apply out_canon
        | apply State.Canon.tile)
    | split | (dsimp only) | (intro _)

theorem canon_execFence {s : State} {a0 a1} (h : s.Canon) : Out.Canon (execFence a0 a1 s) := by
  unfold execFence
  repeat' first
    | (with_reducible first
        | assumption | apply canon_emit | apply canon_when | apply out_canon)
    | split | (dsimp only) | (intro _)

theorem canon_execSnap {s : State} {a0 a1} (h : s.Canon) : Out.Canon (execSnap a0 a1 s) := by
  unfold execSnap
  repeat' first
    | (with_reducible first
        | assumption | apply canon_emit | apply canon_when | apply out_canon)
    | split | (dsimp only) | (intro _)

theorem canon_execTrapi {s : State} {a0 a1} (h : s.Canon) : Out.Canon (execTrapi a0 a1 s) := by
  unfold execTrapi
  repeat' first
    | (with_reducible first
        | assumption | apply canon_emit | apply canon_raiseOpen | apply canon_when | apply out_canon)
    | split | (dsimp only) | (intro _)

theorem canon_execRett {s : State} {a0} (h : s.Canon) : Out.Canon (execRett a0 s) := by
  unfold execRett
  repeat' first
    | (with_reducible first
        | assumption | apply canon_emit | apply canon_when | apply out_canon)
    | split | (dsimp only) | (intro _)

theorem canon_execWaiti {s : State} {a0} (h : s.Canon) : Out.Canon (execWaiti a0 s) := by
  unfold execWaiti
  repeat' first
    | (with_reducible first
        | assumption | apply canon_emit | apply canon_when | apply out_canon)
    | split | (dsimp only) | (intro _)

theorem canon_execEndt {s : State} {a0} (h : s.Canon) : Out.Canon (execEndt a0 s) := by
  unfold execEndt
  repeat' first
    | (with_reducible first
        | assumption | apply canon_emit | apply canon_when | apply out_canon)
    | split | (dsimp only) | (intro _)

theorem canon_execNopn {s : State} {a0 a1} (h : s.Canon) : Out.Canon (execNopn a0 a1 s) := by
  unfold execNopn
  repeat' first
    | (with_reducible first
        | assumption | apply canon_emit | apply canon_when | apply out_canon)
    | split | (dsimp only) | (intro _)

theorem canon_execSprng {s : State} {a0 a1} (h : s.Canon) : Out.Canon (execSprng a0 a1 s) := by
  unfold execSprng
  repeat' first
    | (with_reducible first
        | assumption | apply canon_resultS | apply canon_when | apply out_canon)
    | split | (dsimp only) | (intro _)

theorem canon_execInten {s : State} {a0 a1 a2} (h : s.Canon) : Out.Canon (execInten a0 a1 a2 s) := by
  unfold execInten
  repeat' first
    | (with_reducible first
        | assumption | apply canon_emit | apply canon_when | apply out_canon)
    | split | (dsimp only) | (intro _)

theorem canon_execSecs {s : State} {a0 a1} (h : s.Canon) : Out.Canon (execSecs a0 a1 s) := by
  unfold execSecs
  repeat' first
    | (with_reducible first
        | assumption | apply canon_emit | apply canon_raiseOpen | apply canon_when | apply out_canon | apply State.Canon.tile)
    | split | (dsimp only) | (intro _)

end Sys2Proof.Machine
end

