-- ==== Sys2Proof/Laws/CanonCommit.lean ====
section
/-! SUPPORT. The definitions of Machine/Commit.lean keep the canonical form of every memory and table. -/

namespace Sys2Proof.Machine

theorem spad_tinjDone {x0} (h0 : Memory.wf x0.spad = true) : Memory.wf (tinjDone x0).spad = true := by
  unfold tinjDone
  dsimp only
  repeat' first
    | (with_reducible assumption)

theorem canon_updStream {s : State} {a1 a2 a3} (h : s.Canon) : (State.updStream s a1 a2 a3).Canon := by
  unfold State.updStream
  repeat' first
    | (with_reducible first
        | assumption | apply State.Canon.updTile | apply spad_setStream)
    | split | (dsimp only) | (intro _)

theorem canon_updHm {s : State} {a1 a2} (h : s.Canon) : (State.updHm s a1 a2).Canon := by
  unfold State.updHm
  repeat' first
    | (with_reducible first
        | assumption | apply State.Canon.updTile)
    | (dsimp only) | split | (intro _)

theorem canon_dropOps {s : State} {a1} (h : s.Canon) : (State.dropOps s a1).Canon := by
  unfold State.dropOps
  repeat' first
    | (with_reducible first
        | assumption)
    | (simp only [canon_eta]) | (dsimp only) | (intro _)

theorem canon_startAccess {s : State} {a1 a2 a3 a4 a5} (h : s.Canon) : (State.startAccess s a1 a2 a3 a4 a5).Canon := by
  unfold State.startAccess
  dsimp only
  repeat' first
    | (with_reducible first
        | assumption | apply canon_dropOps | apply canon_startOp | apply canon_startRange)
    | (simp only [canon_eta]) | split | (dsimp only) | (intro _)

theorem canon_access {s : State} {a1 a2 a3} (h : s.Canon) : (State.access s a1 a2 a3).Canon := by
  unfold State.access
  dsimp only
  repeat' first
    | (with_reducible first
        | assumption | apply State.Canon.updTile | apply State.Canon.tile | apply canon_fresh
        | apply canon_startAccess)
    | (simp only [canon_eta]) | split | (dsimp only) | (intro _)

theorem canon_enterFgo {s : State} {a1 a2 a3 a4 a5 a6 a7 a8 a9 a10 a11} (h : s.Canon) :
    (State.enterFgo s a1 a2 a3 a4 a5 a6 a7 a8 a9 a10 a11).Canon := by
  unfold State.enterFgo
  dsimp only
  repeat' first
    | (with_reducible first
        | assumption | apply canon_updFar | apply canon_startFar | apply spad_start | apply State.Canon.tile)
    | (simp only [canon_eta]) | split

theorem canon_sendTx {s : State} {a1 a2 a3} (h : s.Canon) : (State.sendTx s a1 a2 a3).Canon := by
  unfold State.sendTx
  repeat' first
    | (with_reducible first
        | assumption | apply canon_fresh)
    | (simp only [canon_eta])

theorem canon_enterRdv {s : State} {a1 a2} (h : s.Canon) : (State.enterRdv s a1 a2).Canon := by
  unfold State.enterRdv
  dsimp only
  repeat' first
    | (with_reducible first
        | assumption | apply canon_after | apply State.Canon.mapRegions | apply canon_noteMove | apply canon_say
        | apply State.Canon.setEntry | apply State.Canon.updRegion)
    | (simp only [canon_eta]) | split | (dsimp only) | (intro _)

theorem canon_jumpTo {s : State} {a1 a2 a3 a4 a5} (h : s.Canon) : (State.jumpTo s a1 a2 a3 a4 a5).Canon := by
  unfold State.jumpTo
  repeat' first
    | (with_reducible first
        | assumption | apply canon_updStream | apply canon_updHm)
    | (simp only [canon_eta]) | split

theorem canon_keepNest {s : State} {a1 a2} (h : s.Canon) : (State.keepNest s a1 a2).Canon := by
  unfold State.keepNest
  repeat' first
    | (with_reducible first
        | assumption | apply State.Canon.updTile | apply spad_keep)
    | (simp only [canon_eta]) | split | (dsimp only) | (intro _)

theorem spad_dropResults {x0} (h0 : Memory.wf x0.spad = true) : Memory.wf (Tile.dropResults x0).spad = true := by
  unfold Tile.dropResults
  try dsimp only
  repeat' first
    | (with_reducible first
        | assumption)
    | (simp only [canon_eta]) | (dsimp only) | (intro _)

theorem canon_applyEffect {s : State} {a1 a2 a3 a4} (h : s.Canon) : (State.applyEffect s a1 a2 a3 a4).Canon := by
  unfold State.applyEffect
  dsimp only
  repeat' first
    | (with_reducible first
        | assumption | apply State.Canon.updTile | apply State.Canon.tile | apply canon_access | apply canon_cancel
        | apply spad_commitStore | apply spad_discard | apply canon_discard | apply State.Canon.drop
        | apply canon_dropOps | apply spad_dropResults | apply canon_enterFgo | apply canon_enterRdv
        | apply canon_jumpTo | apply spad_keep | apply spad_keepIe | apply canon_keepNest | apply spad_queueBasin
        | apply canon_sendTx | apply canon_snapTrigger | apply spad_start | apply canon_updFar | apply canon_updHm
        | apply State.Canon.updRegion | apply canon_updStream)
    | (simp only [canon_eta]) | split | (dsimp only) | (intro _)

theorem canon_applyAll {s : State} {a1 a2 a3} (h : s.Canon) : (State.applyAll s a1 a2 a3).Canon := by
  unfold State.applyAll
  repeat' first
    | (with_reducible first
        | assumption | apply canon_applyEffect | apply foldl_canon | apply foldl_fst_canon | apply spad_foldl)
    | split | (dsimp only) | (intro _)

theorem spad_commitFrom {x0 a1 a2} (h0 : Memory.wf x0.spad = true) : Memory.wf (Tile.commitFrom x0 a1 a2).spad = true := by
  unfold Tile.commitFrom
  repeat' first
    | (with_reducible first
        | assumption | apply spad_commitStore)
    | (simp only [canon_eta]) | split | (dsimp only) | (intro _)

theorem canon_commitLines {s : State} {a1 a2 a3} (h : s.Canon) : (State.commitLines s a1 a2 a3).Canon := by
  unfold State.commitLines
  repeat' first
    | (with_reducible first
        | assumption | apply State.Canon.updTile | apply foldl_canon | apply foldl_fst_canon | apply spad_foldl
        | apply wf_ite | apply spad_commitFrom | apply spad_commitStore)
    | (simp only [canon_eta]) | split | (dsimp only) | (intro _)

theorem canon_undoBundle {s : State} {a1 a2} (h : s.Canon) : (State.undoBundle s a1 a2).Canon := by
  unfold State.undoBundle
  repeat' first
    | (with_reducible first
        | assumption | apply canon_updStream)
    | (simp only [canon_eta]) | (dsimp only) | (intro _)

theorem canon_takeBlocking {s : State} {a1 a2 a3 a4 a5} (h : s.Canon) : (State.takeBlocking s a1 a2 a3 a4 a5).Canon := by
  unfold State.takeBlocking
  dsimp only
  repeat' first
    | (with_reducible first
        | assumption | apply State.Canon.updTile | apply canon_take | apply canon_supersede | apply canon_updStream
        | apply canon_updHm | apply spad_queueBasin | apply State.Canon.tile)
    | (dsimp only) | split | (intro _)

theorem canon_commitBundle {s : State} {a1 a2} (h : s.Canon) : (State.commitBundle s a1 a2).Canon := by
  unfold State.commitBundle
  dsimp only
  repeat' first
    | (with_reducible first
        | assumption | apply State.Canon.updTile | apply State.Canon.tile | apply canon_applyAll
        | apply canon_commitLines | apply canon_dropOps | apply spad_dropResults)
    | (simp only [canon_eta]) | split | (dsimp only) | (intro _)

theorem canon_commitPrimary {s : State} {a1} (h : s.Canon) : (State.commitPrimary s a1).1.Canon := by
  unfold State.commitPrimary
  dsimp only
  repeat' first
    | (with_reducible first
        | assumption | apply State.Canon.updTile | apply State.Canon.tile | apply canon_after
        | apply canon_commitBundle | apply canon_dropCauses | apply canon_takeBlocking | apply spad_tinjDone
        | apply canon_undoBundle)
    | (simp only [canon_eta]) | split | (dsimp only) | (intro _)

theorem canon_commitSecondary {s : State} {a1} (h : s.Canon) : (State.commitSecondary s a1).Canon := by
  unfold State.commitSecondary
  dsimp only
  repeat' first
    | (with_reducible first
        | assumption | apply State.Canon.updTile | apply State.Canon.tile | apply canon_applyAll
        | apply canon_commitLines | apply canon_dropOps | apply spad_dropResults | apply canon_takeBlocking)
    | (simp only [canon_eta]) | split | (dsimp only) | (intro _)

theorem spad_landSys {x0 a1 a2} (h0 : Memory.wf x0.spad = true) : Memory.wf (Tile.landSys x0 a1 a2).spad = true := by
  unfold Tile.landSys
  repeat' first
    | (with_reducible first
        | assumption | apply spad_foldl | apply spad_sysWrite)
    | (simp only [canon_eta]) | split | (dsimp only) | (intro _)

theorem spad_landResults {x0 a1 a2} (h0 : Memory.wf x0.spad = true) : Memory.wf (Tile.landResults x0 a1 a2).spad = true := by
  unfold Tile.landResults
  dsimp only
  repeat' first
    | (with_reducible first
        | assumption | apply spad_foldl | apply spad_setStream | apply spad_keepM)
    | (simp only [canon_eta]) | split | (dsimp only) | (intro _)

theorem spad_landStream {x0 a1 a2} (h0 : Memory.wf x0.spad = true) : Memory.wf (Tile.landStream x0 a1 a2).spad = true := by
  unfold Tile.landStream
  repeat' first
    | (with_reducible first
        | assumption | apply spad_landResults | apply spad_landSys)
    | (simp only [canon_eta]) | (dsimp only) | (intro _)

theorem spad_landHandler {x0 a1} (h0 : Memory.wf x0.spad = true) : Memory.wf (Tile.landHandler x0 a1).spad = true := by
  unfold Tile.landHandler
  dsimp only
  repeat' first
    | (with_reducible first
        | assumption | apply spad_keepM | apply spad_sysWrite | apply spad_foldl)
    | (dsimp only) | split | (intro _)

theorem canon_commitHandler {s : State} {a1} (h : s.Canon) : (State.commitHandler s a1).Canon := by
  unfold State.commitHandler
  dsimp only
  repeat' first
    | (with_reducible first
        | assumption | apply State.Canon.updTile | apply canon_leaveHandler | apply canon_updStream | apply canon_updHm
        | apply canon_applyAll | apply canon_takeBlocking | apply spad_landHandler | apply State.Canon.tile)
    | (simp only [canon_eta]) | split | (dsimp only) | (intro _)

theorem canon_afterCommit {s : State} {a1 a2} (h : s.Canon) : (State.afterCommit s a1 a2).Canon := by
  unfold State.afterCommit
  dsimp only
  repeat' first
    | (with_reducible first
        | assumption | apply State.Canon.updTile | apply canon_take | apply State.Canon.tile)
    | (dsimp only) | split | (intro _)

theorem canon_preempted {s : State} {a1} (h : s.Canon) : (State.preempted s a1).Canon := by
  unfold State.preempted
  repeat' first
    | (with_reducible first
        | assumption | apply State.Canon.updTile | apply foldl_canon | apply State.Canon.tile)
    | (simp only [canon_eta]) | split | (dsimp only) | (intro _)

theorem canon_settleTrap {s : State} {a1 a2} (h : s.Canon) : (State.settleTrap s a1 a2).Canon := by
  unfold State.settleTrap
  dsimp only
  repeat' first
    | (with_reducible first
        | assumption | apply State.Canon.updTile | apply canon_post | apply canon_now | apply State.Canon.tile)
    | (dsimp only) | split | (intro _)

theorem canon_resolve {s : State} (h : s.Canon) : (State.resolve s).Canon := by
  unfold State.resolve
  dsimp only
  repeat' first
    | (with_reducible first
        | assumption | apply canon_carryOut | apply canon_parkRegion | apply canon_settleTrap | apply foldl_canon
        | apply foldl_fst_canon | apply spad_foldl | apply State.Canon.tile)
    | (simp only [canon_eta]) | split | (dsimp only) | (intro _)

end Sys2Proof.Machine
end

