-- ==== Sys2Proof/Laws/CanonBundle.lean ====
section
/-! SUPPORT. The definitions of Machine/Bundle.lean keep the canonical form of every memory and table. -/

namespace Sys2Proof.Machine

theorem canon_sampleStream {s : State} {a1 a2 a3} (h : s.Canon) : (State.sampleStream s a1 a2 a3).Canon := by
  unfold State.sampleStream
  dsimp only
  repeat' first
    | (with_reducible first
        | assumption | apply canon_updStream)

theorem canon_sampleHandler {s : State} {a1} (h : s.Canon) : (State.sampleHandler s a1).Canon := by
  unfold State.sampleHandler
  dsimp only
  repeat' first
    | (with_reducible first
        | assumption | apply canon_updHm)

theorem canon_landAll {s : State} {a1 a2 a3} (h : s.Canon) : (State.landAll s a1 a2 a3).Canon := by
  unfold State.landAll
  repeat' first
    | (with_reducible first
        | assumption | apply State.Canon.updTile | apply canon_sampleStream | apply spad_landStream)
    | split | (dsimp only) | (intro _)

theorem canon_shadow {s : State} {a1 a2 a3} (h : s.Canon) : (State.shadow s a1 a2 a3).Canon := by
  unfold State.shadow
  repeat' first
    | (with_reducible first
        | assumption | apply canon_updStream | apply canon_updHm)
    | (simp only [canon_eta]) | split

theorem canon_openBlock {s : State} {a1 a2 a3} (h : s.Canon) : (State.openBlock s a1 a2 a3).Canon := by
  unfold State.openBlock
  dsimp only
  repeat' first
    | (with_reducible first
        | assumption | apply State.Canon.updTile | apply canon_fresh | apply spad_setStream | apply spad_keep
        | apply State.Canon.tile)
    | (simp only [canon_eta]) | split | (dsimp only) | (intro _)

theorem canon_issueFault {s : State} {a1 a2 a3 a4 a5 a6} (h : s.Canon) : (State.issueFault s a1 a2 a3 a4 a5 a6).Canon := by
  unfold State.issueFault
  dsimp only
  repeat' first
    | (with_reducible first
        | assumption | apply canon_spend | apply canon_shadow)

theorem canon_bodyEnd {s : State} {a1} (h : s.Canon) : (State.bodyEnd s a1).Canon := by
  unfold State.bodyEnd
  dsimp only
  repeat' first
    | (with_reducible first
        | assumption | apply canon_raiseOpen | apply canon_loopEnd)
    | (simp only [canon_eta]) | split

theorem canon_issueBundle {s : State} {a1 a2 a3 a4 a5} (h : s.Canon) : (State.issueBundle s a1 a2 a3 a4 a5).Canon := by
  unfold State.issueBundle
  dsimp only
  repeat' first
    | (with_reducible first
        | assumption | apply canon_spend | apply canon_updIssued | apply canon_updStream | apply canon_shadow
        | apply canon_openBlock | apply canon_bodyEnd | apply State.Canon.tile)
    | (simp only [canon_eta]) | split

theorem canon_failCheck {s : State} {a1 a2 a3 a4 a5} (h : s.Canon) : (State.failCheck s a1 a2 a3 a4 a5).Canon := by
  unfold State.failCheck
  dsimp only
  repeat' first
    | (with_reducible first
        | assumption | apply State.Canon.updTile | apply canon_now | apply canon_updStream | apply spad_restoreKept
        | apply State.Canon.tile)
    | (simp only [canon_eta]) | split | (dsimp only) | (intro _)

theorem canon_signature {s : State} {a1 a2 a3 a4} (h : s.Canon) : (State.signature s a1 a2 a3 a4).Canon := by
  unfold State.signature
  dsimp only
  repeat' first
    | (with_reducible first
        | assumption | apply State.Canon.updTile | apply canon_spend | apply canon_updStream | apply canon_shadow
        | apply canon_openBlock | apply canon_failCheck | apply spad_setStream | apply State.Canon.tile)
    | (dsimp only) | split | (intro _)

theorem canon_issueNext {s : State} {a1 a2 a3 a4} (h : s.Canon) : (State.issueNext s a1 a2 a3 a4).Canon := by
  unfold State.issueNext
  dsimp only
  repeat' first
    | (with_reducible first
        | assumption | apply canon_issueFault | apply canon_issueBundle | apply canon_signature)
    | (simp only [canon_eta]) | split

theorem canon_execBundleIssue {s : State} {a0} (h : s.Canon) : Out.Canon (execBundleIssue a0 s) := by
  unfold execBundleIssue
  repeat' first
    | (with_reducible first
        | assumption | apply canon_issueNext | apply out_canon | apply State.Canon.tile)
    | split

theorem canon_execSignatureBundle {s : State} {a0} (h : s.Canon) : Out.Canon (execSignatureBundle a0 s) := by
  unfold execSignatureBundle
  repeat' first
    | (with_reducible first
        | assumption | apply canon_signature | apply out_canon | apply State.Canon.tile)
    | split

theorem canon_execBlockRerun {s : State} {a0} (h : s.Canon) : Out.Canon (execBlockRerun a0 s) := by
  unfold execBlockRerun
  dsimp only
  repeat' first
    | (with_reducible first
        | assumption | apply State.Canon.updTile | apply canon_landAll | apply canon_issueNext | apply out_canon
        | apply State.Canon.tile)
    | (dsimp only) | split | (intro _)

theorem canon_addPort {s : State} {a1 a2 a3} (h : s.Canon) : (State.addPort s a1 a2 a3).Canon := by
  unfold State.addPort
  repeat' first
    | (with_reducible first
        | assumption | apply canon_updHm | apply canon_updStream)
    | (simp only [canon_eta]) | split | (dsimp only) | (intro _)

theorem spad_portLate {x0 a1 a2 a3 a4 a5 a6} (h0 : Memory.wf x0.spad = true) : Memory.wf (Tile.portLate x0 a1 a2 a3 a4 a5 a6).spad = true := by
  unfold Tile.portLate
  dsimp only
  repeat' first
    | (with_reducible first
        | assumption | apply spad_setStream)
    | (simp only [canon_eta]) | split | (dsimp only) | (intro _)

theorem spad_refill {x0 a1 a2 a3 a4} (h0 : Memory.wf x0.spad = true) : Memory.wf (Tile.refill x0 a1 a2 a3 a4).spad = true := by
  unfold Tile.refill
  dsimp only
  repeat' first
    | (with_reducible first
        | assumption | apply spad_foldl | apply spad_setStream | apply canon_getD)
    | (simp only [canon_eta]) | split | (dsimp only) | (intro _)

theorem canon_asyncPort {s : State} {a1 a2 a3 a4} (h : s.Canon) : (State.asyncPort s a1 a2 a3 a4).Canon := by
  unfold State.asyncPort
  repeat' first
    | (with_reducible first
        | assumption | apply State.Canon.updTile | apply canon_addPort | apply spad_portLate | apply spad_refill
        | apply canon_takeAsync)
    | (simp only [canon_eta]) | split | (dsimp only) | (intro _)

theorem canon_asyncPorts {s : State} {a1 a2 a3} (h : s.Canon) : (State.asyncPorts s a1 a2 a3).Canon := by
  unfold State.asyncPorts
  dsimp only
  repeat' first
    | (with_reducible first
        | assumption | apply foldl_canon | apply canon_asyncPort | apply canon_updHm | apply canon_updStream)
    | (simp only [canon_eta]) | split | (dsimp only) | (intro _)

theorem canon_issueInterlocked {s : State} {a1 a2 a3 a4} (h : s.Canon) : (State.issueInterlocked s a1 a2 a3 a4).Canon := by
  unfold State.issueInterlocked
  dsimp only
  repeat' first
    | (with_reducible first
        | assumption | apply foldl_canon | apply canon_addPort | apply canon_issueBundle | apply canon_issueNext
        | apply canon_takeAsync)
    | (simp only [canon_eta]) | split | (dsimp only) | (intro _)

theorem canon_execSecondaryIssue {s : State} {a0} (h : s.Canon) : Out.Canon (execSecondaryIssue a0 s) := by
  unfold execSecondaryIssue
  dsimp only
  repeat' first
    | (with_reducible first
        | assumption | apply out_canon | apply canon_asyncPorts | apply canon_issueInterlocked)
    | (simp only [canon_eta]) | split | (dsimp only) | (intro _)

theorem canon_issueUecc {s : State} {a1 a2 a3 a4} (h : s.Canon) : (State.issueUecc s a1 a2 a3 a4).Canon := by
  unfold State.issueUecc
  dsimp only
  repeat' first
    | (with_reducible first
        | assumption | apply canon_spend | apply canon_shadow)

theorem canon_execHandlerBundleIssue {s : State} {a0} (h : s.Canon) : Out.Canon (execHandlerBundleIssue a0 s) := by
  unfold execHandlerBundleIssue
  dsimp only
  repeat' first
    | (with_reducible first
        | assumption | apply out_canon | apply State.Canon.updTile | apply foldl_canon | apply foldl_fst_canon
        | apply spad_foldl | apply State.Canon.tile | apply wf_ite | apply canon_asyncPorts | apply canon_double
        | apply canon_issueInterlocked | apply canon_issueUecc | apply spad_scrub)
    | (simp only [canon_eta]) | split | (dsimp only) | (intro _)

theorem canon_execGateHoldRelease {s : State} {a0} (h : s.Canon) : Out.Canon (execGateHoldRelease a0 s) := by
  unfold execGateHoldRelease
  repeat' first
    | (with_reducible first
        | assumption | apply State.Canon.updTile | apply out_canon)
    | (dsimp only) | split | (intro _)

theorem canon_execEngineCommandStart {s : State} {a0 a1} (h : s.Canon) : Out.Canon (execEngineCommandStart a0 a1 s) := by
  unfold execEngineCommandStart
  repeat' first
    | (with_reducible first
        | assumption | apply canon_startMatrix | apply canon_startFar | apply out_canon)
    | split

theorem canon_commitAll {s : State} {ts : List Nat} (h : s.Canon) : (s.commitAll ts).1.Canon := by
  induction ts generalizing s with
  | nil => exact h
  | cons t ts ih => exact ih (canon_commitPrimary h)

theorem canon_commits {s : State} (h : s.Canon) : (State.commits s).1.Canon := by
  unfold State.commits
  dsimp only
  repeat' first
    | (with_reducible first
        | assumption | apply foldl_canon | apply canon_commitAll | apply canon_commitHandler
        | apply canon_commitSecondary)
    | (simp only [canon_eta]) | split | (dsimp only) | (intro _)

theorem canon_settleGates {s : State} (h : s.Canon) : (State.settleGates s).Canon := by
  unfold State.settleGates
  repeat' first
    | (with_reducible first
        | assumption | apply State.Canon.updTile | apply foldl_canon)
    | (simp only [canon_eta]) | split | (dsimp only) | (intro _)

theorem canon_openWindows {s : State} (h : s.Canon) : (State.openWindows s).Canon := by
  unfold State.openWindows
  repeat' first
    | (with_reducible first
        | assumption | apply State.Canon.mapRegions)
    | (simp only [canon_eta]) | split | (dsimp only) | (intro _)

theorem canon_asksNow {s : State} (h : s.Canon) : (State.asksNow s).Canon := by
  unfold State.asksNow
  repeat' first
    | (with_reducible first
        | assumption | apply canon_openWindows | apply canon_settleGates)
    | (simp only [canon_eta]) | split | (dsimp only) | (intro _)

theorem canon_execHoldBudget {s : State} {a0} (h : s.Canon) : Out.Canon (execHoldBudget a0 s) := by
  unfold execHoldBudget
  repeat' first
    | (with_reducible first
        | assumption | apply out_canon | apply canon_asksNow | apply canon_commits | apply canon_raiseExt
        | apply canon_spend)
    | (simp only [canon_eta]) | split | (dsimp only) | (intro _)

theorem canon_execTimerCompare {s : State} {a0} (h : s.Canon) : Out.Canon (execTimerCompare a0 s) := by
  unfold execTimerCompare
  repeat' first
    | (with_reducible first
        | assumption | apply State.Canon.updTile | apply out_canon | apply State.Canon.tile)
    | (dsimp only) | split | (intro _)

theorem canon_execWaitiWake {s : State} {a0} (h : s.Canon) : Out.Canon (execWaitiWake a0 s) := by
  unfold execWaitiWake
  dsimp only
  repeat' first
    | (with_reducible first
        | assumption | apply canon_updHm | apply out_canon | apply State.Canon.tile)
    | (simp only [canon_eta]) | split

theorem canon_execBarriveRelease {s : State} {a0 a1} (h : s.Canon) : Out.Canon (execBarriveRelease a0 a1 s) := by
  unfold execBarriveRelease
  dsimp only
  repeat' first
    | (with_reducible first
        | assumption | apply State.Canon.updTile | apply canon_decrement | apply canon_updStream | apply foldl_canon
        | apply foldl_fst_canon | apply out_canon | apply spad_queueBasin | apply spad_foldl | apply State.Canon.tile)
    | (simp only [canon_eta]) | split | (dsimp only) | (intro _)

theorem canon_setHolding {s : State} {a1 a2} (h : s.Canon) : (State.setHolding s a1 a2).Canon := by
  unfold State.setHolding
  dsimp only
  repeat' first
    | (with_reducible first
        | assumption | apply State.Canon.updDie)
    | (simp only [canon_eta]) | split

theorem canon_execEventFifoDrain {s : State} {a0} (h : s.Canon) : Out.Canon (execEventFifoDrain a0 s) := by
  unfold execEventFifoDrain
  dsimp only
  repeat' first
    | (with_reducible first
        | assumption | apply canon_setHolding | apply out_canon)
    | (simp only [canon_eta]) | split

end Sys2Proof.Machine
end

