-- ==== Sys2Proof/Laws/CanonContext.lean ====
section
/-! SUPPORT. The definitions of Machine/Context.lean keep the canonical form of every memory and table. -/

namespace Sys2Proof.Machine

theorem canon_writeContext {s : State} {t : Nat} (h : s.Canon) : (s.writeContext t).Canon :=
  { canon_spend h with mem := Memory.wf_writeCells (SMap.wf_filter h.mem) }

theorem spad_putContext {x : Tile} {o : Nat} {b : Byte} (h : Memory.wf x.spad = true) : Memory.wf (x.putContext o b).spad = true := by
  unfold Tile.putContext
  split
  · exact Memory.wf_set h
  · split
    · exact h
    · split
      · exact h
      · split
        · exact h
        · split <;> exact h

theorem spad_readContext {s : State} {t : Nat} {y : Tile} : Memory.wf (s.readContext t y).spad = true :=
  spad_foldl rfl fun _ _ h => spad_putContext h

end Sys2Proof.Machine
end

