-- ==== Sys2Proof/Laws/CanonPower.lean ====
section
/-! SUPPORT. The definitions of Machine/Power.lean keep the canonical form of every memory and table. -/

namespace Sys2Proof.Machine

theorem canon_execInvalTimeout {s : State} {a0 a1} (h : s.Canon) : Out.Canon (execInvalTimeout a0 a1 s) := by
  unfold execInvalTimeout
  repeat' first
    | (with_reducible first
        | assumption | apply canon_packageCause | apply out_canon)
    | (simp only [canon_eta]) | split

theorem canon_execLinkDown {s : State} {a0} (h : s.Canon) : Out.Canon (execLinkDown a0 s) := by
  unfold execLinkDown
  dsimp only
  repeat' first
    | (with_reducible first
        | assumption | apply canon_spend | apply canon_later | apply canon_faultOp | apply canon_faultCopy
        | apply canon_packageCause | apply foldl_canon | apply foldl_fst_canon | apply out_canon | apply spad_foldl
        | apply State.Canon.tile)
    | (simp only [canon_eta]) | split | (dsimp only) | (intro _)

theorem canon_execLinkRestored {s : State} {a0} (h : s.Canon) : Out.Canon (execLinkRestored a0 s) := by
  unfold execLinkRestored
  dsimp only
  repeat' first
    | (with_reducible first
        | assumption | apply out_canon)
    | (simp only [canon_eta])

theorem canon_superstep {s : State} {a1 a2} (h : s.Canon) : (State.superstep s a1 a2).Canon := by
  unfold State.superstep
  dsimp only
  repeat' first
    | (with_reducible first
        | assumption | apply State.Canon.updEntry | apply State.Canon.updDie | apply canon_say | apply canon_ask
        | apply foldl_canon | apply foldl_fst_canon | apply spad_foldl)
    | (simp only [canon_eta]) | split | (dsimp only) | (intro _)

theorem canon_meetClocks {s : State} {a1 a2} (h : s.Canon) : (State.meetClocks s a1 a2).Canon := by
  unfold State.meetClocks
  dsimp only
  repeat' first
    | (with_reducible first
        | assumption | apply foldl_canon | apply State.Canon.updDie)
    | (simp only [canon_eta]) | (dsimp only) | (intro _)

theorem canon_execRdvLeave {s : State} {a0} (h : s.Canon) : Out.Canon (execRdvLeave a0 s) := by
  unfold execRdvLeave
  dsimp only
  repeat' first
    | (with_reducible first
        | assumption | apply out_canon | apply canon_meetClocks | apply canon_superstep | apply State.Canon.updRegion)
    | (simp only [canon_eta]) | split | (dsimp only) | (intro _)

theorem canon_meetWaiting {s : State} {a1 a2} (h : s.Canon) : (State.meetWaiting s a1 a2).Canon := by
  unfold State.meetWaiting
  dsimp only
  repeat' first
    | (with_reducible first
        | assumption | apply canon_after | apply canon_later | apply State.Canon.mapRegions | apply canon_noteMove
        | apply State.Canon.setEntry)
    | (simp only [canon_eta]) | split | (dsimp only) | (intro _)

theorem canon_amount {s : State} {a1 a2 a3 a4} (h : s.Canon) : (State.amount s a1 a2 a3 a4).Canon := by
  unfold State.amount
  repeat' first
    | (with_reducible first
        | assumption | apply foldl_canon | apply canon_meetWaiting | apply State.Canon.updEntry)
    | (simp only [canon_eta]) | split | (dsimp only) | (intro _)

theorem canon_execStretchResult {s : State} (h : s.Canon) : Out.Canon (execStretchResult s) := by
  unfold execStretchResult
  repeat' first
    | (with_reducible first
        | assumption | apply canon_amount | apply out_canon)
    | (simp only [canon_eta]) | split

theorem canon_execDisplacementNotice {s : State} (h : s.Canon) : Out.Canon (execDisplacementNotice s) := by
  unfold execDisplacementNotice
  repeat' first
    | (with_reducible first
        | assumption | apply canon_amount | apply out_canon)
    | (simp only [canon_eta]) | split

theorem canon_execFlitRetry {s : State} (h : s.Canon) : Out.Canon (execFlitRetry s) := by
  unfold execFlitRetry
  repeat' first
    | (with_reducible first
        | assumption | apply canon_spend | apply canon_after | apply out_canon)
    | (simp only [canon_eta]) | split

theorem canon_addJobHold {s : State} {a1 a2 a3 a4} (h : s.Canon) : (State.addJobHold s a1 a2 a3 a4).Canon := by
  unfold State.addJobHold
  dsimp only
  repeat' first
    | (with_reducible first
        | assumption | apply canon_after)
    | (simp only [canon_eta]) | split | (dsimp only) | (intro _)

theorem canon_execOverrunNotice {s : State} (h : s.Canon) : Out.Canon (execOverrunNotice s) := by
  unfold execOverrunNotice
  dsimp only
  repeat' first
    | (with_reducible first
        | assumption | apply canon_spend | apply canon_packageCause | apply canon_amount | apply canon_addJobHold
        | apply foldl_canon | apply foldl_fst_canon | apply out_canon | apply spad_foldl)
    | (simp only [canon_eta]) | split | (dsimp only) | (intro _)

theorem canon_execJobHoldBegin {s : State} {a0} (h : s.Canon) : Out.Canon (execJobHoldBegin a0 s) := by
  unfold execJobHoldBegin
  dsimp only
  repeat' first
    | (with_reducible first
        | assumption | apply canon_after | apply canon_now | apply foldl_canon | apply foldl_fst_canon | apply out_canon
        | apply spad_foldl)
    | (simp only [canon_eta]) | split

theorem canon_execJobHoldEnd {s : State} {a0} (h : s.Canon) : Out.Canon (execJobHoldEnd a0 s) := by
  unfold execJobHoldEnd
  repeat' first
    | (with_reducible first
        | assumption | apply out_canon)
    | (simp only [canon_eta])

theorem canon_execJobHoldNotice {s : State} (h : s.Canon) : Out.Canon (execJobHoldNotice s) := by
  unfold execJobHoldNotice
  repeat' first
    | (with_reducible first
        | assumption | apply canon_addJobHold | apply out_canon)
    | (simp only [canon_eta]) | split

theorem canon_execJobReleaseNotice {s : State} (h : s.Canon) : Out.Canon (execJobReleaseNotice s) := by
  unfold execJobReleaseNotice
  dsimp only
  repeat' first
    | (with_reducible first
        | assumption | apply out_canon | apply foldl_canon | apply canon_requeue | apply State.Canon.drop
        | apply State.Canon.save)
    | (simp only [canon_eta]) | split | (dsimp only) | (intro _)

theorem canon_thermalNews {s : State} (h : s.Canon) : (State.thermalNews s).Canon := by
  unfold State.thermalNews
  dsimp only
  repeat' first
    | (with_reducible first
        | assumption | apply canon_packageAct | apply canon_spend)
    | (simp only [canon_eta]) | split | (dsimp only) | (intro _)

theorem canon_sensorTick {s : State} (h : s.Canon) : (State.sensorTick s).Canon := by
  unfold State.sensorTick
  dsimp only
  repeat' first
    | (with_reducible first
        | assumption | apply foldl_canon | apply canon_after | apply canon_amount | apply canon_now | apply canon_say)
    | (simp only [canon_eta]) | split | (dsimp only) | (intro _)

theorem canon_execSensorRead {s : State} (h : s.Canon) : Out.Canon (execSensorRead s) := by
  unfold execSensorRead
  dsimp only
  repeat' first
    | (with_reducible first
        | assumption | apply out_canon | apply canon_sensorTick | apply canon_thermalNews)
    | (simp only [canon_eta]) | split | (dsimp only) | (intro _)

theorem canon_requeuePaged {s : State} {a1} (h : s.Canon) : (State.requeuePaged s a1).Canon := by
  unfold State.requeuePaged
  repeat' first
    | (with_reducible first
        | assumption | apply foldl_canon | apply canon_updFar)
    | (simp only [canon_eta]) | split | (dsimp only) | (intro _)

theorem canon_execContextSaveDone {s : State} {e : BitVec 8} (h : s.Canon) : Out.Canon (execContextSaveDone e s) := by
  unfold execContextSaveDone
  extract_lets x ts moves away s1 s2 s3
  have h1 : s1.Canon := by
    simp only [s1, canon_eta]
    exact h
  have h2 : s2.Canon := foldl_canon h1 fun _ _ hs => canon_updFar hs
  have h3 : s3.Canon := (foldl_canon h2 fun _ _ hs => canon_writeContext hs).save fun x hx => by
    obtain ⟨t, _, rfl⟩ := List.mem_map.1 hx
    exact h2.tile t
  split
  · exact out_canon h
  · exact out_canon h3.updEntry

theorem wfFrom_join {a b : SMap Byte} {n lo : Nat} (hl : lo ≤ n) (ha : SMap.wfFrom 0 lo a = true) (hb : SMap.wfFrom 0 0 b = true) :
    SMap.wfFrom 0 lo ((a.filter fun c => decide (c.1 < n)) ++ b.filter fun c => decide (n ≤ c.1)) = true := by
  induction a generalizing lo with
  | nil =>
    clear ha
    have hb : SMap.wfFrom 0 0 b = true := hb
    have key : ∀ (b : SMap Byte) (k : Nat), SMap.wfFrom 0 k b = true → SMap.wfFrom 0 lo (b.filter fun c => decide (n ≤ c.1)) = true := by
      intro b
      induction b with
      | nil => exact fun _ _ => rfl
      | cons p b ih =>
        intro k hb
        simp only [SMap.wfFrom, Bool.and_eq_true, decide_eq_true_eq] at hb
        by_cases hk : n ≤ p.1
        · simp only [List.filter_cons, hk, decide_true, if_true, SMap.wfFrom, Bool.and_eq_true, decide_eq_true_eq]
          exact ⟨⟨by omega, hb.1.2⟩, SMap.wfFrom_filter hb.2⟩
        · simpa only [List.filter_cons, hk, decide_false, Bool.false_eq_true, if_false] using ih _ hb.2
    exact key b 0 hb
  | cons p a ih =>
    obtain ⟨k, v⟩ := p
    simp only [SMap.wfFrom, Bool.and_eq_true, decide_eq_true_eq] at ha
    by_cases hk : k < n
    · simp only [List.filter_cons, hk, decide_true, if_true, List.cons_append, SMap.wfFrom, Bool.and_eq_true, decide_eq_true_eq]
      exact ⟨ha.1, ih (by omega) ha.2⟩
    · have h2 : lo ≤ k + 1 := by omega
      simpa only [List.filter_cons, hk, decide_false, Bool.false_eq_true, if_false] using ih hl (SMap.wfFrom_mono h2 ha.2)

theorem spad_restoreTile {x y : Tile} (hx : Memory.wf x.spad = true) (hy : Memory.wf y.spad = true) :
    Memory.wf (restoreTile x y).spad = true := wfFrom_join (Nat.zero_le _) hx hy

theorem canon_execContextRestoreDone {s : State} {e : BitVec 8} (h : s.Canon) : Out.Canon (execContextRestoreDone e s) := by
  unfold execContextRestoreDone
  extract_lets x now back s1 s2 s3 waits s4
  have h1 : s1.Canon := foldl_canon h fun s' p hs => hs.setTile (spad_restoreTile (hs.tile _) spad_readContext)
  have h4 : s4.Canon := (State.Canon.mapRegions (canon_requeuePaged h1.drop)).updEntry
  clear_value waits
  split
  · exact out_canon h
  · split
    · exact out_canon h4.updEntry
    · extract_lets d s5 s6
      split
      · exact out_canon h4
      · exact out_canon (canon_say (canon_noteMove (State.Canon.mapRegions h4).updEntry))

theorem canon_execSnapcmpMatch {s : State} (h : s.Canon) : Out.Canon (execSnapcmpMatch s) := by
  unfold execSnapcmpMatch
  repeat' first
    | (with_reducible first
        | assumption | apply canon_snapTrigger | apply out_canon)
    | split

theorem canon_execSnapshotLatch {s : State} (h : s.Canon) : Out.Canon (execSnapshotLatch s) := by
  unfold execSnapshotLatch
  dsimp only
  repeat' first
    | (with_reducible first
        | assumption | apply State.Canon.mapTiles | apply State.Canon.updDie | apply State.Canon.mapSeqrs | apply foldl_canon
        | apply foldl_fst_canon | apply out_canon | apply spad_foldl)
    | (simp only [canon_eta]) | split | (dsimp only) | (intro _)

theorem canon_execTileRetire {s : State} {a0} (h : s.Canon) : Out.Canon (execTileRetire a0 s) := by
  unfold execTileRetire
  dsimp only
  repeat' first
    | (with_reducible first
        | assumption | apply out_canon | apply State.Canon.updTile | apply State.Canon.tile | apply canon_packageAct
        | apply canon_say | apply canon_within)
    | (simp only [canon_eta]) | split | (dsimp only) | (intro _)

end Sys2Proof.Machine
end

