-- ==== Sys2Proof/Laws/CanonMgmt.lean ====
section
/-! SUPPORT. The definitions of Machine/Mgmt.lean keep the canonical form of every memory and table. -/

namespace Sys2Proof.Machine

theorem canon_complete {s : State} {a1 a2 a3} (h : s.Canon) : (State.complete s a1 a2 a3).Canon := by
  unfold State.complete
  repeat' first
    | (with_reducible first
        | assumption | apply canon_say)

theorem canon_refused {s : State} {a1} (h : s.Canon) : (State.refused s a1).Canon := by
  unfold State.refused
  repeat' first
    | (with_reducible first
        | assumption | apply canon_complete)

theorem canon_busy {s : State} {a1} (h : s.Canon) : (State.busy s a1).Canon := by
  unfold State.busy
  repeat' first
    | (with_reducible first
        | assumption | apply canon_complete)

theorem canon_badFrame {s : State} {a1} (h : s.Canon) : (State.badFrame s a1).Canon := by
  unfold State.badFrame
  repeat' first
    | (with_reducible first
        | assumption | apply canon_complete)

theorem canon_receive {s : State} {a1 a2} (h : s.Canon) : (State.receive s a1 a2).Canon := by
  unfold State.receive
  dsimp only
  repeat' first
    | (with_reducible first
        | assumption)
    | (simp only [canon_eta]) | (dsimp only) | (intro _)

theorem canon_framed {s : State} {b : Bool} {g : Frame → State → State} (h : s.Canon) (hg : ∀ f s, State.Canon s → (g f s).Canon) :
    Out.Canon (s.framed b g) := by
  unfold State.framed
  repeat' first | (with_reducible assumption) | (with_reducible apply out_canon) | (with_reducible apply canon_badFrame) | (with_reducible apply canon_receive) | (with_reducible apply hg) | split

theorem canon_updIod {s : State} {a1} (h : s.Canon) : (State.updIod s a1).Canon := by
  unfold State.updIod
  repeat' first
    | (with_reducible assumption) | (simp only [canon_eta])

theorem canon_execImgwr {s : State} (h : s.Canon) : Out.Canon (execImgwr s) := by
  unfold execImgwr
  dsimp only
  repeat' first
    | (with_reducible first
        | assumption | apply State.Canon.writeMem | apply canon_complete | apply canon_refused | apply canon_busy
        | apply canon_badFrame | apply canon_framed | apply out_canon)
    | split | (dsimp only) | (intro _)

theorem canon_execLtwr {s : State} (h : s.Canon) : Out.Canon (execLtwr s) := by
  unfold execLtwr
  dsimp only
  repeat' first
    | (with_reducible first
        | assumption | apply State.Canon.setEntry | apply canon_spend | apply canon_after | apply canon_complete
        | apply canon_busy | apply canon_badFrame | apply canon_framed | apply out_canon)
    | (simp only [canon_eta]) | split | (dsimp only) | (intro _)

theorem canon_ltctl {s : State} (h : s.Canon) : Out.Canon (State.ltctl s) := by
  unfold State.ltctl
  dsimp only
  repeat' first
    | (with_reducible first
        | assumption | apply State.Canon.setEntry | apply canon_kill | apply canon_complete | apply canon_refused
        | apply canon_busy | apply canon_badFrame | apply canon_framed | apply out_canon)
    | (simp only [canon_eta]) | split | (dsimp only) | (intro _)

theorem canon_execLtctlKill {s : State} (h : s.Canon) : Out.Canon (execLtctlKill s) := by
  unfold execLtctlKill
  repeat' first
    | (with_reducible first
        | assumption | apply canon_ltctl)

theorem canon_execLtctlClear {s : State} (h : s.Canon) : Out.Canon (execLtctlClear s) := by
  unfold execLtctlClear
  repeat' first
    | (with_reducible first
        | assumption | apply canon_ltctl)

theorem canon_execUnknownFrame {s : State} (h : s.Canon) : Out.Canon (execUnknownFrame s) := by
  unfold execUnknownFrame
  repeat' first
    | (with_reducible first
        | assumption | apply canon_badFrame | apply canon_framed | apply out_canon)
    | split | (dsimp only) | (intro _)

theorem canon_evread {s : State} (h : s.Canon) : Out.Canon (State.evread s) := by
  unfold State.evread
  dsimp only
  repeat' first
    | (with_reducible first
        | assumption | apply State.Canon.updDie | apply canon_say | apply canon_take | apply canon_framed | apply canon_updIod
        | apply out_canon)
    | (simp only [canon_eta]) | split | (dsimp only) | (intro _)

theorem canon_execEvrd {s : State} (h : s.Canon) : Out.Canon (execEvrd s) := by
  unfold execEvrd
  repeat' first
    | (with_reducible first
        | assumption | apply canon_evread)

theorem canon_execEvrdMailbox {s : State} (h : s.Canon) : Out.Canon (execEvrdMailbox s) := by
  unfold execEvrdMailbox
  repeat' first
    | (with_reducible first
        | assumption | apply canon_evread)

theorem canon_execPortsel {s : State} (h : s.Canon) : Out.Canon (execPortsel s) := by
  unfold execPortsel
  repeat' first
    | (with_reducible first
        | assumption | apply canon_complete | apply canon_framed | apply canon_updIod | apply out_canon)
    | (simp only [canon_eta]) | split | (dsimp only) | (intro _)

theorem canon_stepTime {s : State} {a1} (h : s.Canon) : (State.stepTime s a1).Canon := by
  unfold State.stepTime
  dsimp only
  repeat' first
    | (with_reducible first
        | assumption | apply State.Canon.mapSeqrs | apply canon_updIod)
    | (simp only [canon_eta])

theorem canon_measured {s : State} {a1} (h : s.Canon) : (State.measured s a1).Canon := by
  unfold State.measured
  dsimp only
  repeat' first
    | (with_reducible first
        | assumption | apply canon_spend | apply canon_updIod | apply canon_warn)
    | (simp only [canon_eta]) | split | (dsimp only) | (intro _)

theorem canon_synced {s : State} {a1 a2} (h : s.Canon) : (State.synced s a1 a2).Canon := by
  unfold State.synced
  dsimp only
  repeat' first
    | (with_reducible first
        | assumption | apply canon_measured | apply canon_say | apply canon_stepTime | apply canon_updIod)
    | (simp only [canon_eta]) | split | (dsimp only) | (intro _)

theorem canon_execPtp {s : State} (h : s.Canon) : Out.Canon (execPtp s) := by
  unfold execPtp
  dsimp only
  repeat' first
    | (with_reducible first
        | assumption | apply out_canon | apply canon_badFrame | apply canon_complete | apply canon_framed
        | apply canon_synced | apply canon_updIod)
    | (simp only [canon_eta]) | split | (dsimp only) | (intro _)

theorem canon_execAsidgrant {s : State} (h : s.Canon) : Out.Canon (execAsidgrant s) := by
  unfold execAsidgrant
  dsimp only
  repeat' first
    | (with_reducible first
        | assumption | apply canon_complete | apply canon_refused | apply canon_badFrame | apply canon_framed
        | apply canon_updIod | apply out_canon)
    | (simp only [canon_eta]) | split | (dsimp only) | (intro _)

theorem canon_execAsidrevoke {s : State} (h : s.Canon) : Out.Canon (execAsidrevoke s) := by
  unfold execAsidrevoke
  repeat' first
    | (with_reducible first
        | assumption | apply canon_complete | apply canon_refused | apply canon_busy | apply canon_badFrame | apply canon_framed
        | apply canon_updIod | apply out_canon)
    | (simp only [canon_eta]) | split | (dsimp only) | (intro _)

theorem canon_execTlbinv {s : State} (h : s.Canon) : Out.Canon (execTlbinv s) := by
  unfold execTlbinv
  dsimp only
  repeat' first
    | (with_reducible first
        | assumption | apply canon_after | apply canon_later | apply canon_invalDone | apply canon_busy | apply canon_framed
        | apply canon_updIod | apply foldl_canon | apply foldl_fst_canon | apply out_canon | apply spad_foldl)
    | (simp only [canon_eta]) | split | (dsimp only) | (intro _)

theorem canon_pagesAnswered {s : State} {a1 a2} (h : s.Canon) : (State.pagesAnswered s a1 a2).Canon := by
  unfold State.pagesAnswered
  repeat' first
    | (with_reducible first
        | assumption | apply State.Canon.mapRegions)
    | (simp only [canon_eta]) | (dsimp only) | (intro _)

theorem canon_unpark {s : State} {a1} (h : s.Canon) : (State.unpark s a1).Canon := by
  unfold State.unpark
  dsimp only
  repeat' first
    | (with_reducible first
        | assumption | apply canon_now | apply canon_updFar)
    | (simp only [canon_eta]) | split

theorem canon_execPagein {s : State} (h : s.Canon) : Out.Canon (execPagein s) := by
  unfold execPagein
  dsimp only
  repeat' first
    | (with_reducible first
        | assumption | apply canon_updOp | apply canon_opStep | apply canon_complete | apply canon_framed
        | apply canon_pagesAnswered | apply canon_unpark | apply foldl_canon | apply foldl_fst_canon | apply out_canon
        | apply spad_foldl)
    | (simp only [canon_eta]) | split | (dsimp only) | (intro _)

theorem canon_execPagedeny {s : State} (h : s.Canon) : Out.Canon (execPagedeny s) := by
  unfold execPagedeny
  dsimp only
  repeat' first
    | (with_reducible first
        | assumption | apply canon_faultOp | apply canon_faultCopy | apply canon_complete | apply canon_framed
        | apply canon_pagesAnswered | apply foldl_canon | apply foldl_fst_canon | apply out_canon | apply spad_foldl)
    | split | (dsimp only) | (intro _)

theorem canon_execPreemptRequest {s : State} (h : s.Canon) : Out.Canon (execPreemptRequest s) := by
  unfold execPreemptRequest
  dsimp only
  repeat' first
    | (with_reducible first
        | assumption | apply State.Canon.mapTiles | apply canon_complete | apply canon_refused | apply canon_framed
        | apply out_canon)
    | (dsimp only) | split | (intro _)

theorem canon_execResume {s : State} (h : s.Canon) : Out.Canon (execResume s) := by
  unfold execResume
  dsimp only
  repeat' first
    | (with_reducible first
        | assumption | apply State.Canon.updEntry | apply canon_spend | apply canon_after | apply canon_complete
        | apply canon_refused | apply canon_framed | apply out_canon)
    | (simp only [canon_eta]) | split | (dsimp only) | (intro _)

theorem canon_execSnapnow {s : State} (h : s.Canon) : Out.Canon (execSnapnow s) := by
  unfold execSnapnow
  repeat' first
    | (with_reducible first
        | assumption | apply canon_snapTrigger | apply canon_complete | apply canon_framed | apply out_canon)
    | split | (dsimp only) | (intro _)

theorem canon_execSnapclr {s : State} (h : s.Canon) : Out.Canon (execSnapclr s) := by
  unfold execSnapclr
  repeat' first
    | (with_reducible first
        | assumption | apply canon_complete | apply canon_framed | apply canon_updIod | apply out_canon)
    | (simp only [canon_eta]) | split | (dsimp only) | (intro _)

theorem canon_execHostInterrupt {s : State} (h : s.Canon) : Out.Canon (execHostInterrupt s) := by
  unfold execHostInterrupt
  repeat' first
    | (with_reducible first
        | assumption | apply State.Canon.updTile | apply canon_complete | apply canon_badFrame | apply canon_framed
        | apply out_canon)
    | (dsimp only) | split | (intro _)

theorem canon_spdm {s : State} {a1 a2 a3} (h : s.Canon) : (State.spdm s a1 a2 a3).Canon := by
  unfold State.spdm
  repeat' first
    | (with_reducible first
        | assumption | apply canon_complete | apply canon_updIod)

theorem canon_execGetVersion {s : State} (h : s.Canon) : Out.Canon (execGetVersion s) := by
  unfold execGetVersion
  repeat' first
    | (with_reducible first
        | assumption | apply canon_framed | apply canon_spdm | apply out_canon)
    | split | (dsimp only) | (intro _)

theorem canon_execGetCapabilities {s : State} (h : s.Canon) : Out.Canon (execGetCapabilities s) := by
  unfold execGetCapabilities
  repeat' first
    | (with_reducible first
        | assumption | apply canon_framed | apply canon_spdm | apply out_canon)
    | split | (dsimp only) | (intro _)

theorem canon_execNegotiateAlgorithms {s : State} (h : s.Canon) : Out.Canon (execNegotiateAlgorithms s) := by
  unfold execNegotiateAlgorithms
  repeat' first
    | (with_reducible first
        | assumption | apply canon_framed | apply canon_spdm | apply out_canon)
    | split | (dsimp only) | (intro _)

theorem canon_execGetDigests {s : State} (h : s.Canon) : Out.Canon (execGetDigests s) := by
  unfold execGetDigests
  repeat' first
    | (with_reducible first
        | assumption | apply canon_framed | apply canon_spdm | apply out_canon)
    | split | (dsimp only) | (intro _)

theorem canon_execGetCertificate {s : State} (h : s.Canon) : Out.Canon (execGetCertificate s) := by
  unfold execGetCertificate
  repeat' first
    | (with_reducible first
        | assumption | apply canon_framed | apply canon_spdm | apply out_canon)
    | split | (dsimp only) | (intro _)

theorem canon_execChallenge {s : State} (h : s.Canon) : Out.Canon (execChallenge s) := by
  unfold execChallenge
  repeat' first
    | (with_reducible first
        | assumption | apply canon_framed | apply canon_spdm | apply out_canon)
    | split | (dsimp only) | (intro _)

theorem canon_execGetMeasurements {s : State} (h : s.Canon) : Out.Canon (execGetMeasurements s) := by
  unfold execGetMeasurements
  repeat' first
    | (with_reducible first
        | assumption | apply canon_complete | apply canon_framed | apply out_canon)
    | split | (dsimp only) | (intro _)

theorem canon_execKeyExchange {s : State} (h : s.Canon) : Out.Canon (execKeyExchange s) := by
  unfold execKeyExchange
  repeat' first
    | (with_reducible first
        | assumption | apply canon_framed | apply canon_updIod | apply canon_spdm | apply out_canon)
    | (simp only [canon_eta]) | split | (dsimp only) | (intro _)

theorem canon_execFinish {s : State} (h : s.Canon) : Out.Canon (execFinish s) := by
  unfold execFinish
  repeat' first
    | (with_reducible first
        | assumption | apply canon_framed | apply canon_updIod | apply canon_spdm | apply out_canon)
    | (simp only [canon_eta]) | split | (dsimp only) | (intro _)

theorem canon_execEndSession {s : State} (h : s.Canon) : Out.Canon (execEndSession s) := by
  unfold execEndSession
  repeat' first
    | (with_reducible first
        | assumption | apply canon_framed | apply canon_updIod | apply canon_spdm | apply out_canon)
    | (simp only [canon_eta]) | split | (dsimp only) | (intro _)

theorem canon_execSpdmUnsupportedRequest {s : State} (h : s.Canon) : Out.Canon (execSpdmUnsupportedRequest s) := by
  unfold execSpdmUnsupportedRequest
  repeat' first
    | (with_reducible first
        | assumption | apply canon_complete | apply canon_framed | apply out_canon)
    | split | (dsimp only) | (intro _)

theorem canon_answerRead {s : State} {a1 a2} (h : s.Canon) : (State.answerRead s a1 a2).Canon := by
  unfold State.answerRead
  repeat' first
    | (with_reducible first
        | assumption | apply canon_complete)
    | (simp only [canon_eta]) | (dsimp only) | (intro _)

theorem canon_locked {s : State} {f : Frame} {g : State → State} (h : s.Canon) (hg : ∀ s, State.Canon s → (g s).Canon) :
    (s.locked f g).Canon := by
  unfold State.locked
  repeat' first | (with_reducible assumption) | (with_reducible apply canon_complete) | (with_reducible apply canon_refused) | (with_reducible apply hg) | split

theorem canon_handOver {s : State} {a1 a2} (h : s.Canon) : (State.handOver s a1 a2).Canon := by
  unfold State.handOver
  repeat' first
    | (with_reducible first
        | assumption)
    | (simp only [canon_eta]) | (dsimp only) | (intro _)

theorem canon_execMgmtRegisterWrite {s : State} (h : s.Canon) : Out.Canon (execMgmtRegisterWrite s) := by
  unfold execMgmtRegisterWrite
  dsimp only
  repeat' first
    | (with_reducible first
        | assumption | apply out_canon | apply canon_answerRead | apply canon_badFrame | apply canon_complete
        | apply canon_framed | apply canon_handOver | apply canon_locked | apply canon_refused
        | apply State.Canon.updDie | apply canon_updIod)
    | (simp only [canon_eta]) | split | (dsimp only) | (intro _)

theorem canon_execDbgbWrite {s : State} (h : s.Canon) : Out.Canon (execDbgbWrite s) := by
  unfold execDbgbWrite
  repeat' first
    | (with_reducible first
        | assumption | apply out_canon | apply State.Canon.updTile | apply canon_answerRead | apply canon_badFrame
        | apply canon_complete | apply canon_framed | apply canon_refused)
    | (simp only [canon_eta]) | split | (dsimp only) | (intro _)

theorem canon_execTinjWrite {s : State} (h : s.Canon) : Out.Canon (execTinjWrite s) := by
  unfold execTinjWrite
  dsimp only
  repeat' first
    | (with_reducible first
        | assumption | apply out_canon | apply State.Canon.updTile | apply canon_answerRead | apply canon_badFrame
        | apply canon_complete | apply canon_framed | apply canon_refused)
    | (simp only [canon_eta]) | split | (dsimp only) | (intro _)

theorem canon_execMinjWrite {s : State} (h : s.Canon) : Out.Canon (execMinjWrite s) := by
  unfold execMinjWrite
  dsimp only
  repeat' first
    | (with_reducible first
        | assumption | apply out_canon | apply canon_answerRead | apply canon_badFrame | apply canon_complete
        | apply canon_framed | apply canon_refused | apply State.Canon.updDie)
    | (simp only [canon_eta]) | split | (dsimp only) | (intro _)

theorem canon_execActionEntryWrite {s : State} (h : s.Canon) : Out.Canon (execActionEntryWrite s) := by
  unfold execActionEntryWrite
  dsimp only
  repeat' first
    | (with_reducible first
        | assumption | apply out_canon | apply canon_answerRead | apply canon_badFrame | apply canon_complete
        | apply canon_framed | apply canon_refused | apply State.Canon.updDie)
    | (simp only [canon_eta]) | split | (dsimp only) | (intro _)

theorem canon_execSnapcmpWrite {s : State} (h : s.Canon) : Out.Canon (execSnapcmpWrite s) := by
  unfold execSnapcmpWrite
  repeat' first
    | (with_reducible first
        | assumption | apply out_canon | apply canon_answerRead | apply canon_complete | apply canon_framed
        | apply canon_updIod)
    | (simp only [canon_eta]) | split | (dsimp only) | (intro _)

theorem canon_execTileMapWrite {s : State} (h : s.Canon) : Out.Canon (execTileMapWrite s) := by
  unfold execTileMapWrite
  repeat' first
    | (with_reducible first
        | assumption | apply out_canon | apply State.Canon.updTile | apply State.Canon.tile | apply canon_answerRead
        | apply canon_badFrame | apply canon_complete | apply canon_framed | apply canon_refused)
    | (simp only [canon_eta]) | split | (dsimp only) | (intro _)

theorem canon_execHandlerInstall {s : State} (h : s.Canon) : Out.Canon (execHandlerInstall s) := by
  unfold execHandlerInstall
  dsimp only
  repeat' first
    | (with_reducible first
        | assumption | apply State.Canon.updTile | apply canon_refused | apply canon_badFrame | apply canon_framed
        | apply canon_locked | apply out_canon | apply spad_putBytes)
    | split | (dsimp only) | (intro _)

theorem canon_execPowerUp {s : State} (h : s.Canon) : Out.Canon (execPowerUp s) := by
  unfold execPowerUp
  dsimp only
  repeat' first
    | (with_reducible first
        | assumption | apply canon_take | apply canon_updIod | apply out_canon)
    | (simp only [canon_eta]) | split

theorem canon_execRailRemoval {s : State} (hr : State.reset.Canon) : Out.Canon (execRailRemoval s) := by
  unfold execRailRemoval
  apply out_canon
  simp only [canon_eta]
  exact hr

theorem spad_dieReset {x0} : Memory.wf (Tile.dieReset x0).spad = true := by
  unfold Tile.dieReset
  dsimp only
  repeat' first
    | (with_reducible assumption) | (dsimp only) | split | (intro _) | (with_reducible rfl) | rfl

theorem canon_requery {s : State} {a1} (h : s.Canon) : (State.requery s a1).Canon := by
  unfold State.requery
  dsimp only
  repeat' first
    | (with_reducible first
        | assumption | apply foldl_canon | apply canon_askAgain | apply canon_dropQueries | apply canon_sendAnswer)
    | (simp only [canon_eta]) | split | (dsimp only) | (intro _)

theorem canon_execDieReset {s : State} {a0} (h : s.Canon) : Out.Canon (execDieReset a0 s) := by
  unfold execDieReset
  dsimp only
  repeat' first
    | (with_reducible first
        | assumption | apply State.Canon.mapTiles | apply State.Canon.updDie | apply State.Canon.mapSeqrs
        | apply canon_invalDone | apply canon_kill | apply canon_updIod | apply canon_requery | apply foldl_canon
        | apply foldl_fst_canon | apply out_canon | apply spad_dieReset | apply spad_foldl | apply State.Canon.tile)
    | (simp only [canon_eta]) | split | (dsimp only) | (intro _)

theorem canon_execDieLive {s : State} {a0} (h : s.Canon) : Out.Canon (execDieLive a0 s) := by
  unfold execDieLive
  dsimp only
  repeat' first
    | (with_reducible first
        | assumption | apply canon_later | apply canon_updIod | apply out_canon)
    | (simp only [canon_eta]) | split

end Sys2Proof.Machine
end

