-- ==== Sys2Proof/Laws/CanonClock.lean ====
section
/-! SUPPORT. The definitions of Machine/Clock.lean keep the canonical form of every memory and table. -/

namespace Sys2Proof.Machine

theorem canon_plan {s : State} {a1} (h : s.Canon) : (State.plan s a1).Canon := by
  unfold State.plan
  repeat' first
    | (with_reducible assumption) | (simp only [canon_eta])

theorem canon_nextTick {s : State} (h : s.Canon) : (State.nextTick s).Canon := by
  unfold State.nextTick
  dsimp only
  repeat' first
    | (with_reducible first
        | assumption | apply State.Canon.mapTiles | apply canon_clearTxs | apply State.Canon.mapRegions
        | apply canon_plan | apply canon_tickTails)
    | (simp only [canon_eta]) | split | (dsimp only) | (intro _)

theorem canon_takeDue {s : State} {a1} (h : s.Canon) : (State.takeDue s a1).1.Canon := by
  unfold State.takeDue
  dsimp only
  repeat' first
    | (with_reducible assumption) | (simp only [canon_eta])

theorem canon_commitTick {s : State} (h : s.Canon) : (State.commitTick s).Canon := by
  unfold State.commitTick
  dsimp only
  repeat' first
    | (with_reducible first
        | assumption | apply foldl_canon | apply canon_afterCommit | apply canon_asksNow | apply canon_commits
        | apply canon_now | apply canon_preempted | apply canon_resolve | apply canon_takeDue)
    | (simp only [canon_eta]) | split | (dsimp only) | (intro _)

theorem canon_landBoth {s : State} {a1 a2} (h : s.Canon) : (State.landBoth s a1 a2).Canon := by
  unfold State.landBoth
  dsimp only
  repeat' first
    | (with_reducible first
        | assumption | apply State.Canon.updTile | apply spad_landResults | apply spad_landSys
        | apply canon_sampleStream)
    | (simp only [canon_eta]) | split | (dsimp only) | (intro _)

theorem canon_landRegion {s : State} {a1} (h : s.Canon) : (State.landRegion s a1).Canon := by
  unfold State.landRegion
  repeat' first
    | (with_reducible first
        | assumption | apply foldl_canon | apply canon_landBoth)
    | (simp only [canon_eta]) | split | (dsimp only) | (intro _)

theorem canon_scrubGates {s : State} (h : s.Canon) : (State.scrubGates s).Canon := by
  unfold State.scrubGates
  repeat' first
    | (with_reducible first
        | assumption | apply State.Canon.updTile | apply foldl_canon | apply foldl_fst_canon | apply spad_foldl
        | apply spad_scrub)
    | (simp only [canon_eta]) | split | (dsimp only) | (intro _)

theorem canon_issueTick {s : State} (h : s.Canon) : (State.issueTick s).Canon := by
  unfold State.issueTick
  dsimp only
  repeat' first
    | (with_reducible first
        | assumption | apply State.Canon.updTile | apply State.Canon.mapTiles | apply foldl_canon
        | apply State.Canon.tile | apply spad_landHandler | apply canon_landRegion | apply canon_plan
        | apply canon_sampleHandler | apply canon_scrubGates | apply canon_settleGates | apply spad_settled
        | apply canon_stretchReleases | apply State.Canon.updRegion)
    | (simp only [canon_eta]) | split | (dsimp only) | (intro _)

theorem canon_addUse {s : State} {a1 a2} (h : s.Canon) : (State.addUse s a1 a2).Canon := by
  unfold State.addUse
  repeat' first
    | (with_reducible first
        | assumption | apply State.Canon.updTile)
    | (dsimp only) | split | (intro _)

theorem spad_unstore {x0 a1 a2 a3} (h0 : Memory.wf x0.spad = true) : Memory.wf (Tile.unstore x0 a1 a2 a3).spad = true := by
  unfold Tile.unstore
  dsimp only
  repeat' first
    | (with_reducible first
        | assumption | apply Memory.wf_writeBytes | apply spad_setTag)
    | (simp only [canon_eta]) | split | (dsimp only) | (intro _)

theorem spad_accWrite {x0 a1} (h0 : Memory.wf x0.spad = true) : Memory.wf (Tile.accWrite x0 a1).spad = true := by
  unfold Tile.accWrite
  repeat' first
    | (with_reducible first
        | assumption | apply spad_orM | apply spad_unstore)
    | (simp only [canon_eta]) | split | (dsimp only) | (intro _)

theorem spad_dropWrites {x0 a1} (h0 : Memory.wf x0.spad = true) : Memory.wf (Tile.dropWrites x0 a1).spad = true := by
  unfold Tile.dropWrites
  dsimp only
  repeat' first
    | (with_reducible assumption)

theorem canon_tileWrites {s : State} {a1} (h : s.Canon) : (State.tileWrites s a1).Canon := by
  unfold State.tileWrites
  dsimp only
  repeat' first
    | (with_reducible first
        | assumption | apply State.Canon.updTile | apply canon_updHm | apply foldl_canon | apply foldl_fst_canon
        | apply spad_accWrite | apply spad_dropWrites | apply spad_foldl)
    | (dsimp only) | split | (intro _)

theorem canon_enginesTick {s : State} (h : s.Canon) : (State.enginesTick s).Canon := by
  unfold State.enginesTick
  dsimp only
  repeat' first
    | (with_reducible first
        | assumption | apply State.Canon.updTile | apply foldl_canon | apply State.Canon.tile | apply canon_addUse
        | apply canon_matrixTick | apply canon_parkBursts | apply canon_plan | apply canon_programs
        | apply spad_settlePorts | apply canon_tileWrites)
    | (simp only [canon_eta]) | split | (dsimp only) | (intro _)

theorem canon_unfence {s : State} {a1} (h : s.Canon) : (State.unfence s a1).Canon := by
  unfold State.unfence
  dsimp only
  repeat' first
    | (with_reducible first
        | assumption | apply State.Canon.updTile | apply canon_startAccess | apply foldl_canon | apply foldl_fst_canon
        | apply spad_foldl | apply State.Canon.tile)
    | (dsimp only) | split | (intro _)

theorem canon_lateTick {s : State} (h : s.Canon) : (State.lateTick s).Canon := by
  unfold State.lateTick
  dsimp only
  repeat' first
    | (with_reducible first
        | assumption | apply canon_takeDue | apply canon_unfence | apply foldl_canon | apply foldl_fst_canon | apply spad_foldl)
    | (simp only [canon_eta])

theorem spad_sampleBasins {x0} (h0 : Memory.wf x0.spad = true) : Memory.wf (Tile.sampleBasins x0).spad = true := by
  unfold Tile.sampleBasins
  dsimp only
  repeat' first
    | (with_reducible first
        | assumption | apply spad_foldl | apply spad_setStream | apply spad_scrub)
    | (simp only [canon_eta]) | split | (dsimp only) | (intro _)

theorem canon_enterNow {s : State} {a1} (h : s.Canon) : (State.enterNow s a1).Canon := by
  unfold State.enterNow
  repeat' first
    | (with_reducible first
        | assumption | apply State.Canon.updTile | apply canon_enterHandler | apply canon_sampleStream | apply State.Canon.tile)
    | (dsimp only) | split | (intro _)

theorem canon_closeTick {s : State} (h : s.Canon) : (State.closeTick s).Canon := by
  unfold State.closeTick
  dsimp only
  repeat' first
    | (with_reducible first
        | assumption | apply State.Canon.mapTiles | apply canon_resolve | apply canon_plan | apply canon_enterNow
        | apply foldl_canon | apply foldl_fst_canon | apply spad_runBasins | apply spad_sampleBasins | apply spad_foldl)
    | (simp only [canon_eta]) | split | (dsimp only) | (intro _)

theorem canon_clock {s : State} (h : s.Canon) : (State.clock s).Canon := by
  unfold State.clock
  repeat' first
    | (with_reducible first
        | assumption | apply canon_nextTick | apply canon_commitTick | apply canon_issueTick | apply canon_enginesTick
        | apply canon_lateTick | apply canon_closeTick)
    | (simp only [canon_eta]) | split

end Sys2Proof.Machine
end

