-- ==== Sys2Proof/Laws/CanonFetch.lean ====
section
/-! SUPPORT. The definitions of Machine/Fetch.lean keep the canonical form of every memory and table. -/

namespace Sys2Proof.Machine

theorem canon_takeWord {s : State} {a1 a2} (h : s.Canon) : (State.takeWord s a1 a2).Canon := by
  unfold State.takeWord
  dsimp only
  repeat' first
    | (with_reducible assumption) | (simp only [canon_eta])

theorem canon_takeStep {s : State} {a1 a2} (h : s.Canon) : (State.takeStep s a1 a2).Canon := by
  unfold State.takeStep
  repeat' first
    | (with_reducible assumption) | (simp only [canon_eta])

theorem canon_layWord {s : State} {a1 a2} (h : s.Canon) : (State.layWord s a1 a2).Canon := by
  unfold State.layWord
  dsimp only
  repeat' first
    | (with_reducible first
        | assumption | apply State.Canon.updTile | apply State.Canon.updSeqr)
    | (simp only [canon_eta]) | split | (dsimp only) | (intro _)

end Sys2Proof.Machine
end

