-- ==== Sys2Proof/Laws/CanonVector.lean ====
section
/-! SUPPORT. The definitions of Machine/Vector.lean keep the canonical form of every memory and table. -/

namespace Sys2Proof.Machine

theorem canon_vmap {s : State} {a1 a2 a3 a4 a5 a6} (h : s.Canon) : (State.vmap s a1 a2 a3 a4 a5 a6).Canon := by
  unfold State.vmap
  dsimp only
  repeat' first
    | (with_reducible first
        | assumption | apply canon_resultV)
    | split

theorem canon_vmask {s : State} {a1 a2 a3 a4} (h : s.Canon) : (State.vmask s a1 a2 a3 a4).Canon := by
  unfold State.vmask
  dsimp only
  repeat' first
    | (with_reducible first
        | assumption | apply canon_resultQ)
    | split

theorem canon_vint2 {s : State} {a1 a2 a3 a4 a5 a6 a7 a8} (h : s.Canon) : Out.Canon (State.vint2 s a1 a2 a3 a4 a5 a6 a7 a8) := by
  unfold State.vint2
  repeat' first
    | (with_reducible first
        | assumption | apply canon_when | apply canon_vmap | apply out_canon)
    | split | (dsimp only) | (intro _)

theorem canon_vint1 {s : State} {a1 a2 a3 a4 a5 a6 a7} (h : s.Canon) : Out.Canon (State.vint1 s a1 a2 a3 a4 a5 a6 a7) := by
  unfold State.vint1
  repeat' first
    | (with_reducible first
        | assumption | apply canon_when | apply canon_vmap | apply out_canon)
    | split | (dsimp only) | (intro _)

theorem canon_vop2 {s : State} {a1 a2 a3 a4 a5 a6 a7 a8} (h : s.Canon) : Out.Canon (State.vop2 s a1 a2 a3 a4 a5 a6 a7 a8) := by
  unfold State.vop2
  repeat' first
    | (with_reducible first
        | assumption | apply canon_when | apply canon_vmap | apply out_canon)
    | split | (dsimp only) | (intro _)

theorem canon_vop3 {s : State} {a1 a2 a3 a4 a5 a6 a7 a8 a9} (h : s.Canon) :
    Out.Canon (State.vop3 s a1 a2 a3 a4 a5 a6 a7 a8 a9) := by
  unfold State.vop3
  repeat' first
    | (with_reducible first
        | assumption | apply canon_when | apply canon_vmap | apply out_canon)
    | split | (dsimp only) | (intro _)

theorem canon_vop1 {s : State} {a1 a2 a3 a4 a5 a6 a7} (h : s.Canon) : Out.Canon (State.vop1 s a1 a2 a3 a4 a5 a6 a7) := by
  unfold State.vop1
  repeat' first
    | (with_reducible first
        | assumption | apply canon_when | apply canon_vmap | apply out_canon)
    | split | (dsimp only) | (intro _)

theorem canon_execVadd {s : State} {a0 a1 a2 a3 a4} (h : s.Canon) : Out.Canon (execVadd a0 a1 a2 a3 a4 s) := by
  unfold execVadd
  repeat' first
    | (with_reducible first
        | assumption | apply canon_vint2)

theorem canon_execVsub {s : State} {a0 a1 a2 a3 a4} (h : s.Canon) : Out.Canon (execVsub a0 a1 a2 a3 a4 s) := by
  unfold execVsub
  repeat' first
    | (with_reducible first
        | assumption | apply canon_vint2)

theorem canon_execVmul {s : State} {a0 a1 a2 a3 a4} (h : s.Canon) : Out.Canon (execVmul a0 a1 a2 a3 a4 s) := by
  unfold execVmul
  repeat' first
    | (with_reducible first
        | assumption | apply canon_vint2)

theorem canon_execVand {s : State} {a0 a1 a2 a3 a4} (h : s.Canon) : Out.Canon (execVand a0 a1 a2 a3 a4 s) := by
  unfold execVand
  repeat' first
    | (with_reducible first
        | assumption | apply canon_vint2)

theorem canon_execVor {s : State} {a0 a1 a2 a3 a4} (h : s.Canon) : Out.Canon (execVor a0 a1 a2 a3 a4 s) := by
  unfold execVor
  repeat' first
    | (with_reducible first
        | assumption | apply canon_vint2)

theorem canon_execVxor {s : State} {a0 a1 a2 a3 a4} (h : s.Canon) : Out.Canon (execVxor a0 a1 a2 a3 a4 s) := by
  unfold execVxor
  repeat' first
    | (with_reducible first
        | assumption | apply canon_vint2)

theorem canon_execVshl {s : State} {a0 a1 a2 a3 a4} (h : s.Canon) : Out.Canon (execVshl a0 a1 a2 a3 a4 s) := by
  unfold execVshl
  repeat' first
    | (with_reducible first
        | assumption | apply canon_vint2)

theorem canon_execVshr {s : State} {a0 a1 a2 a3 a4} (h : s.Canon) : Out.Canon (execVshr a0 a1 a2 a3 a4 s) := by
  unfold execVshr
  repeat' first
    | (with_reducible first
        | assumption | apply canon_vint2)

theorem canon_execVsra {s : State} {a0 a1 a2 a3 a4} (h : s.Canon) : Out.Canon (execVsra a0 a1 a2 a3 a4 s) := by
  unfold execVsra
  repeat' first
    | (with_reducible first
        | assumption | apply canon_vint2)

theorem canon_execVmin {s : State} {a0 a1 a2 a3 a4} (h : s.Canon) : Out.Canon (execVmin a0 a1 a2 a3 a4 s) := by
  unfold execVmin
  repeat' first
    | (with_reducible first
        | assumption | apply canon_vint2)

theorem canon_execVmax {s : State} {a0 a1 a2 a3 a4} (h : s.Canon) : Out.Canon (execVmax a0 a1 a2 a3 a4 s) := by
  unfold execVmax
  repeat' first
    | (with_reducible first
        | assumption | apply canon_vint2)

theorem canon_execVminu {s : State} {a0 a1 a2 a3 a4} (h : s.Canon) : Out.Canon (execVminu a0 a1 a2 a3 a4 s) := by
  unfold execVminu
  repeat' first
    | (with_reducible first
        | assumption | apply canon_vint2)

theorem canon_execVmaxu {s : State} {a0 a1 a2 a3 a4} (h : s.Canon) : Out.Canon (execVmaxu a0 a1 a2 a3 a4 s) := by
  unfold execVmaxu
  repeat' first
    | (with_reducible first
        | assumption | apply canon_vint2)

theorem canon_execVadds {s : State} {a0 a1 a2 a3 a4} (h : s.Canon) : Out.Canon (execVadds a0 a1 a2 a3 a4 s) := by
  unfold execVadds
  repeat' first
    | (with_reducible first
        | assumption | apply canon_vint2)

theorem canon_execVmulh {s : State} {a0 a1 a2 a3 a4} (h : s.Canon) : Out.Canon (execVmulh a0 a1 a2 a3 a4 s) := by
  unfold execVmulh
  repeat' first
    | (with_reducible first
        | assumption | apply canon_vint2)

theorem canon_execVclz {s : State} {a0 a1 a2 a3} (h : s.Canon) : Out.Canon (execVclz a0 a1 a2 a3 s) := by
  unfold execVclz
  repeat' first
    | (with_reducible first
        | assumption | apply canon_vint1)

theorem canon_execVpopc {s : State} {a0 a1 a2 a3} (h : s.Canon) : Out.Canon (execVpopc a0 a1 a2 a3 s) := by
  unfold execVpopc
  repeat' first
    | (with_reducible first
        | assumption | apply canon_vint1)

theorem canon_execVcmp {s : State} {a0 a1 a2 a3 a4 a5} (h : s.Canon) : Out.Canon (execVcmp a0 a1 a2 a3 a4 a5 s) := by
  unfold execVcmp
  repeat' first
    | (with_reducible first
        | assumption | apply canon_when | apply canon_vmask | apply out_canon)
    | split | (dsimp only) | (intro _)

theorem canon_execVfadd {s : State} {a0 a1 a2 a3 a4 a5} (h : s.Canon) : Out.Canon (execVfadd a0 a1 a2 a3 a4 a5 s) := by
  unfold execVfadd
  repeat' first
    | (with_reducible first
        | assumption | apply canon_vop2)

theorem canon_execVfsub {s : State} {a0 a1 a2 a3 a4 a5} (h : s.Canon) : Out.Canon (execVfsub a0 a1 a2 a3 a4 a5 s) := by
  unfold execVfsub
  repeat' first
    | (with_reducible first
        | assumption | apply canon_vop2)

theorem canon_execVfmul {s : State} {a0 a1 a2 a3 a4 a5} (h : s.Canon) : Out.Canon (execVfmul a0 a1 a2 a3 a4 a5 s) := by
  unfold execVfmul
  repeat' first
    | (with_reducible first
        | assumption | apply canon_vop2)

theorem canon_execVfma {s : State} {a0 a1 a2 a3 a4 a5 a6} (h : s.Canon) : Out.Canon (execVfma a0 a1 a2 a3 a4 a5 a6 s) := by
  unfold execVfma
  repeat' first
    | (with_reducible first
        | assumption | apply canon_vop3)

theorem canon_execVfnma {s : State} {a0 a1 a2 a3 a4 a5 a6} (h : s.Canon) : Out.Canon (execVfnma a0 a1 a2 a3 a4 a5 a6 s) := by
  unfold execVfnma
  repeat' first
    | (with_reducible first
        | assumption | apply canon_vop3)

theorem canon_execVfmin {s : State} {a0 a1 a2 a3 a4} (h : s.Canon) : Out.Canon (execVfmin a0 a1 a2 a3 a4 s) := by
  unfold execVfmin
  repeat' first
    | (with_reducible first
        | assumption | apply canon_vop2)

theorem canon_execVfmax {s : State} {a0 a1 a2 a3 a4} (h : s.Canon) : Out.Canon (execVfmax a0 a1 a2 a3 a4 s) := by
  unfold execVfmax
  repeat' first
    | (with_reducible first
        | assumption | apply canon_vop2)

theorem canon_execVfcmp {s : State} {a0 a1 a2 a3 a4 a5} (h : s.Canon) : Out.Canon (execVfcmp a0 a1 a2 a3 a4 a5 s) := by
  unfold execVfcmp
  repeat' first
    | (with_reducible first
        | assumption | apply canon_when | apply canon_vmask | apply out_canon)
    | split | (dsimp only) | (intro _)

theorem canon_execVfabs {s : State} {a0 a1 a2 a3} (h : s.Canon) : Out.Canon (execVfabs a0 a1 a2 a3 s) := by
  unfold execVfabs
  repeat' first
    | (with_reducible first
        | assumption | apply canon_vop1)

theorem canon_execVfneg {s : State} {a0 a1 a2 a3} (h : s.Canon) : Out.Canon (execVfneg a0 a1 a2 a3 s) := by
  unfold execVfneg
  repeat' first
    | (with_reducible first
        | assumption | apply canon_vop1)

theorem canon_execVbadd {s : State} {a0 a1 a2 a3 a4 a5} (h : s.Canon) : Out.Canon (execVbadd a0 a1 a2 a3 a4 a5 s) := by
  unfold execVbadd
  repeat' first
    | (with_reducible first
        | assumption | apply canon_vop2)

theorem canon_execVbmul {s : State} {a0 a1 a2 a3 a4 a5} (h : s.Canon) : Out.Canon (execVbmul a0 a1 a2 a3 a4 a5 s) := by
  unfold execVbmul
  repeat' first
    | (with_reducible first
        | assumption | apply canon_vop2)

theorem canon_execVbfma {s : State} {a0 a1 a2 a3 a4 a5 a6} (h : s.Canon) : Out.Canon (execVbfma a0 a1 a2 a3 a4 a5 a6 s) := by
  unfold execVbfma
  repeat' first
    | (with_reducible first
        | assumption | apply canon_vop3)

theorem canon_execVfrnd {s : State} {a0 a1 a2 a3 a4} (h : s.Canon) : Out.Canon (execVfrnd a0 a1 a2 a3 a4 s) := by
  unfold execVfrnd
  repeat' first
    | (with_reducible first
        | assumption | apply canon_vop1)

theorem canon_execVexp2 {s : State} {a0 a1 a2 a3 a4} (h : s.Canon) : Out.Canon (execVexp2 a0 a1 a2 a3 a4 s) := by
  unfold execVexp2
  repeat' first
    | (with_reducible first
        | assumption | apply canon_vop1)

theorem canon_execVlog2 {s : State} {a0 a1 a2 a3 a4} (h : s.Canon) : Out.Canon (execVlog2 a0 a1 a2 a3 a4 s) := by
  unfold execVlog2
  repeat' first
    | (with_reducible first
        | assumption | apply canon_vop1)

theorem canon_execVlmul {s : State} {a0 a1 a2 a3 a4} (h : s.Canon) : Out.Canon (execVlmul a0 a1 a2 a3 a4 s) := by
  unfold execVlmul
  repeat' first
    | (with_reducible first
        | assumption | apply canon_vop2)

theorem canon_execVldiv {s : State} {a0 a1 a2 a3 a4} (h : s.Canon) : Out.Canon (execVldiv a0 a1 a2 a3 a4 s) := by
  unfold execVldiv
  repeat' first
    | (with_reducible first
        | assumption | apply canon_vop2)

theorem canon_execVlsqrt {s : State} {a0 a1 a2 a3} (h : s.Canon) : Out.Canon (execVlsqrt a0 a1 a2 a3 s) := by
  unfold execVlsqrt
  repeat' first
    | (with_reducible first
        | assumption | apply canon_vop1)

theorem canon_execVlinv {s : State} {a0 a1 a2 a3} (h : s.Canon) : Out.Canon (execVlinv a0 a1 a2 a3 s) := by
  unfold execVlinv
  repeat' first
    | (with_reducible first
        | assumption | apply canon_vop1)

theorem canon_execVcvt {s : State} {a0 a1 a2 a3 a4 a5 a6 a7} (h : s.Canon) : Out.Canon (execVcvt a0 a1 a2 a3 a4 a5 a6 a7 s) := by
  unfold execVcvt
  repeat' first
    | (with_reducible first
        | assumption | apply canon_when | apply canon_vmap | apply out_canon)
    | split | (dsimp only) | (intro _)

theorem canon_execVmov {s : State} {a0 a1 a2 a3} (h : s.Canon) : Out.Canon (execVmov a0 a1 a2 a3 s) := by
  unfold execVmov
  repeat' first
    | (with_reducible first
        | assumption | apply canon_when | apply canon_vmap | apply out_canon)
    | split | (dsimp only) | (intro _)

theorem canon_execVsel {s : State} {a0 a1 a2 a3 a4 a5} (h : s.Canon) : Out.Canon (execVsel a0 a1 a2 a3 a4 a5 s) := by
  unfold execVsel
  repeat' first
    | (with_reducible first
        | assumption | apply canon_when | apply canon_vmap | apply out_canon)
    | split | (dsimp only) | (intro _)

theorem canon_execVperm {s : State} {a0 a1 a2 a3 a4} (h : s.Canon) : Out.Canon (execVperm a0 a1 a2 a3 a4 s) := by
  unfold execVperm
  repeat' first
    | (with_reducible first
        | assumption | apply canon_when | apply canon_vmap | apply out_canon)
    | split | (dsimp only) | (intro _)

theorem canon_execVrot {s : State} {a0 a1 a2 a3 a4} (h : s.Canon) : Out.Canon (execVrot a0 a1 a2 a3 a4 s) := by
  unfold execVrot
  repeat' first
    | (with_reducible first
        | assumption | apply canon_when | apply canon_vmap | apply out_canon)
    | split | (dsimp only) | (intro _)

theorem canon_execVext {s : State} {a0 a1 a2 a3} (h : s.Canon) : Out.Canon (execVext a0 a1 a2 a3 s) := by
  unfold execVext
  repeat' first
    | (with_reducible first
        | assumption | apply canon_resultS | apply canon_when | apply out_canon)
    | split | (dsimp only) | (intro _)

theorem canon_execVins {s : State} {a0 a1 a2 a3} (h : s.Canon) : Out.Canon (execVins a0 a1 a2 a3 s) := by
  unfold execVins
  repeat' first
    | (with_reducible first
        | assumption | apply canon_resultV | apply canon_when | apply out_canon)
    | split | (dsimp only) | (intro _)

theorem canon_execViota {s : State} {a0 a1 a2} (h : s.Canon) : Out.Canon (execViota a0 a1 a2 s) := by
  unfold execViota
  repeat' first
    | (with_reducible first
        | assumption | apply canon_when | apply canon_vmap | apply out_canon)
    | split | (dsimp only) | (intro _)

theorem canon_execVpack {s : State} {a0 a1 a2 a3} (h : s.Canon) : Out.Canon (execVpack a0 a1 a2 a3 s) := by
  unfold execVpack
  repeat' first
    | (with_reducible first
        | assumption | apply canon_resultV | apply canon_when | apply out_canon)
    | split | (dsimp only) | (intro _)

theorem canon_execVunpk {s : State} {a0 a1 a2 a3 a4} (h : s.Canon) : Out.Canon (execVunpk a0 a1 a2 a3 a4 s) := by
  unfold execVunpk
  repeat' first
    | (with_reducible first
        | assumption | apply canon_when | apply canon_vmap | apply out_canon)
    | split | (dsimp only) | (intro _)

theorem canon_execVred {s : State} {a0 a1 a2 a3 a4 a5 a6} (h : s.Canon) : Out.Canon (execVred a0 a1 a2 a3 a4 a5 a6 s) := by
  unfold execVred
  dsimp only
  repeat' first
    | (with_reducible first
        | assumption | apply canon_resultV | apply canon_when | apply out_canon)
    | split | (dsimp only) | (intro _)

theorem canon_execQlog {s : State} {a0 a1 a2 a3 a4} (h : s.Canon) : Out.Canon (execQlog a0 a1 a2 a3 a4 s) := by
  unfold execQlog
  repeat' first
    | (with_reducible first
        | assumption | apply canon_resultQ | apply canon_when | apply out_canon)
    | split | (dsimp only) | (intro _)

theorem canon_execQset {s : State} {a0 a1} (h : s.Canon) : Out.Canon (execQset a0 a1 s) := by
  unfold execQset
  repeat' first
    | (with_reducible first
        | assumption | apply canon_resultQ | apply canon_when | apply out_canon)
    | split | (dsimp only) | (intro _)

theorem canon_execQget {s : State} {a0 a1 a2} (h : s.Canon) : Out.Canon (execQget a0 a1 a2 s) := by
  unfold execQget
  repeat' first
    | (with_reducible first
        | assumption | apply canon_resultS | apply canon_when | apply out_canon)
    | split | (dsimp only) | (intro _)

end Sys2Proof.Machine
end

