-- ==== Sys2Proof/Laws/CanonStep.lean ====
section
/-! SUPPORT. The definitions of Machine/Step.lean keep the canonical form of every memory and table. -/

namespace Sys2Proof.Machine

theorem canon_withFetchWord {s : State} {a1 a2} (h : s.Canon) : (State.withFetchWord s a1 a2).Canon := by
  unfold State.withFetchWord
  dsimp only
  repeat' first
    | (with_reducible first
        | assumption | apply canon_layWord)
    | (simp only [canon_eta]) | split

end Sys2Proof.Machine
end

