-- ==== Sys2Proof/Laws/Encoding.lean ====
section
/-! SUPPORT. Fields packed into a word come out of it again: the one induction behind every encoding. -/

namespace Sys2Proof.Laws

/-- A field: its lowest bit, its width and its value. -/
abbrev Field := Nat × Nat × Nat

/-- The bits of a field. -/
def Field.mask (f : Field) : Nat := (2 ^ f.2.1 - 1) <<< f.1

/-- Add fields to a word. -/
def pack (w : Nat) : List Field → Nat
  | [] => w
  | f :: fs => pack (w + f.2.2 * 2 ^ f.1) fs

/-- No two fields share a bit, and none has one of `m`. -/
def apart (m : Nat) : List Field → Bool
  | [] => true
  | f :: fs => (m &&& Field.mask f) == 0 && apart (m ||| Field.mask f) fs

/-- Every bit of `w` is one of `m`. -/
def Within (w m : Nat) : Prop := ∀ i, w.testBit i = true → m.testBit i = true

theorem mask_testBit (f : Field) (i : Nat) : (Field.mask f).testBit i = (decide (f.1 ≤ i) && decide (i - f.1 < f.2.1)) := by
  simp [Field.mask, Nat.testBit_shiftLeft, Nat.testBit_two_pow_sub_one]

theorem add_eq_or {a b : Nat} (h : a &&& b = 0) : a + b = a ||| b := by
  have hw : ∀ x : Nat, x ≤ a + b → x < 2 ^ (a + b) := fun x hx => lt_of_le_of_lt hx Nat.lt_two_pow_self
  have hz : BitVec.ofNat (a + b) a &&& BitVec.ofNat (a + b) b = 0#(a + b) := by
    apply BitVec.eq_of_toNat_eq
    simp [Nat.mod_eq_of_lt (hw a (by omega)), Nat.mod_eq_of_lt (hw b (by omega)), h]
  have ho := congrArg BitVec.toNat (BitVec.add_eq_or_of_and_eq_zero _ _ hz)
  simpa [Nat.mod_eq_of_lt (hw a (by omega)), Nat.mod_eq_of_lt (hw b (by omega)), Nat.mod_eq_of_lt (hw (a + b) le_rfl)] using ho

theorem add_field {w m : Nat} {f : Field} (hw : Within w m) (hm : m &&& Field.mask f = 0) (hv : f.2.2 < 2 ^ f.2.1) :
    w + f.2.2 * 2 ^ f.1 = w ||| f.2.2 <<< f.1 := by
  rw [← Nat.shiftLeft_eq]
  apply add_eq_or
  apply Nat.eq_of_testBit_eq
  intro i
  simp only [Nat.testBit_and, Nat.testBit_shiftLeft, Nat.zero_testBit, Bool.and_eq_false_iff]
  by_cases hb : w.testBit i
  · right
    have h := congrArg (fun n => n.testBit i) hm
    simp only [Nat.testBit_and, hw i hb, Bool.true_and, Nat.zero_testBit, mask_testBit] at h
    by_cases hl : f.1 ≤ i
    · simp only [hl, decide_true, Bool.true_and, decide_eq_false_iff_not, not_lt] at h
      right
      exact Nat.testBit_lt_two_pow (lt_of_lt_of_le hv (Nat.pow_le_pow_right (by norm_num) h))
    · left; simp [hl]
  · left; simpa using hb

theorem within_add {w m : Nat} {f : Field} (hw : Within w m) (hv : f.2.2 < 2 ^ f.2.1) :
    Within (w ||| f.2.2 <<< f.1) (m ||| Field.mask f) := by
  intro i h
  simp only [Nat.testBit_or, Nat.testBit_shiftLeft, Bool.or_eq_true, Bool.and_eq_true, decide_eq_true_eq, mask_testBit] at h ⊢
  rcases h with h | ⟨hl, hb⟩
  · exact .inl (hw i h)
  · refine .inr ⟨hl, ?_⟩
    by_contra hc
    rw [Nat.testBit_lt_two_pow (lt_of_lt_of_le hv (Nat.pow_le_pow_right (by norm_num) (not_lt.mp hc)))] at hb
    exact absurd hb (by simp)

/-- Fields added later leave the bits of the mask alone. -/
theorem pack_keeps {fs : List Field} : ∀ {w m : Nat}, Within w m → apart m fs = true → (∀ f ∈ fs, f.2.2 < 2 ^ f.2.1) →
    ∀ i, m.testBit i = true → (pack w fs).testBit i = w.testBit i := by
  induction fs with
  | nil => intros; rfl
  | cons f fs ih =>
    intro w m hw ha hv i hi
    simp only [apart, Bool.and_eq_true, beq_iff_eq] at ha
    have hf := hv f (by simp)
    rw [pack, add_field hw ha.1 hf,
      ih (within_add hw hf) ha.2 (fun g hg => hv g (by simp [hg])) i (by simp [Nat.testBit_or, hi]), Nat.testBit_or]
    have h := congrArg (fun n => n.testBit i) ha.1
    simp only [Nat.testBit_and, hi, Bool.true_and, Nat.zero_testBit, mask_testBit] at h
    rw [Nat.testBit_shiftLeft]
    by_cases hl : f.1 ≤ i
    · simp only [hl, decide_true, Bool.true_and, decide_eq_false_iff_not, not_lt] at h
      simp [Nat.testBit_lt_two_pow (lt_of_lt_of_le hf (Nat.pow_le_pow_right (by norm_num) h))]
    · simp [hl]

/-- A packed field comes out as it went in. -/
theorem pack_field {fs : List Field} : ∀ {w m : Nat}, Within w m → apart m fs = true → (∀ f ∈ fs, f.2.2 < 2 ^ f.2.1) →
    ∀ f ∈ fs, pack w fs / 2 ^ f.1 % 2 ^ f.2.1 = f.2.2 := by
  induction fs with
  | nil => intro _ _ _ _ _ f hf; cases hf
  | cons g fs ih =>
    intro w m hw ha hv f hf
    simp only [apart, Bool.and_eq_true, beq_iff_eq] at ha
    have hg := hv g (by simp)
    have hw' := within_add hw hg
    have hv' : ∀ x ∈ fs, x.2.2 < 2 ^ x.2.1 := fun x hx => hv x (by simp [hx])
    rw [pack, add_field hw ha.1 hg]
    rcases List.mem_cons.mp hf with rfl | hf
    · apply Nat.eq_of_testBit_eq
      intro i
      rw [Nat.testBit_mod_two_pow, Nat.testBit_div_two_pow]
      by_cases hi : i < f.2.1
      · have hm : (m ||| Field.mask f).testBit (i + f.1) = true := by simp [Nat.testBit_or, mask_testBit, hi]
        rw [pack_keeps hw' ha.2 hv' _ hm, Nat.testBit_or, Nat.testBit_shiftLeft]
        have h := congrArg (fun n => n.testBit (i + f.1)) ha.1
        simp only [Nat.testBit_and, mask_testBit, Nat.zero_testBit] at h
        have hwb : w.testBit (i + f.1) = false := by
          by_contra hc
          simp [hw _ (by simpa using hc), hi] at h
        simp [hwb, hi]
      · simp [hi, Nat.testBit_lt_two_pow (lt_of_lt_of_le hg (Nat.pow_le_pow_right (by norm_num) (not_lt.mp hi)))]
    · exact ih hw' ha.2 hv' f hf

/-- Every field's value fits its width. -/
def Fits : List Field → Prop
  | [] => True
  | f :: fs => f.2.2 < 2 ^ f.2.1 ∧ Fits fs

theorem Fits.forall {fs : List Field} (h : Fits fs) : ∀ f ∈ fs, f.2.2 < 2 ^ f.2.1 := by
  induction fs with
  | nil => intro f hf; cases hf
  | cons g fs ih =>
    intro f hf
    rcases List.mem_cons.mp hf with rfl | hf
    · exact h.1
    · exact ih h.2 f hf

/-- Where the fields of a word lie: lowest bit and width. -/
abbrev Layout := List (Nat × Nat)

/-- The layout of fields. -/
def layout : List Field → Layout
  | [] => []
  | f :: fs => (f.1, f.2.1) :: layout fs

/-- No two places of a layout share a bit, and none has one of `m`. -/
def Layout.apart (m : Nat) : Layout → Bool
  | [] => true
  | l :: ls => (m &&& ((2 ^ l.2 - 1) <<< l.1)) == 0 && Layout.apart (m ||| ((2 ^ l.2 - 1) <<< l.1)) ls

theorem apart_of_layout {fs : List Field} : ∀ {m : Nat}, Layout.apart m (layout fs) = true → apart m fs = true := by
  induction fs with
  | nil => intros; rfl
  | cons f fs ih =>
    intro m h
    simp only [layout, Layout.apart, Bool.and_eq_true] at h
    simp only [Laws.apart, Bool.and_eq_true]
    exact ⟨h.1, ih h.2⟩

/-- The field at an index of a packed word has the value packed there. -/
theorem pack_at {fs : List Field} {ls : Layout} (ha : Layout.apart 0 ls = true) (hl : layout fs = ls) (hv : Fits fs)
    (k lo n v : Nat) (hf : fs[k]? = some (lo, n, v)) : pack 0 fs / 2 ^ lo % 2 ^ n = v :=
  pack_field (fun i h => by simp at h) (apart_of_layout (hl ▸ ha)) hv.forall _ (List.mem_of_getElem? hf)

/-- A field of a packed word read back as the bit vector it was made from. -/
theorem fld_at {fs : List Field} {ls : Layout} {n : Nat} (ha : Layout.apart 0 ls = true) (hl : layout fs = ls) (hv : Fits fs)
    (k lo : Nat) (x : BitVec n) (hf : fs[k]? = some (lo, n, x.toNat)) : fld (pack 0 fs) lo n = x := by
  apply BitVec.eq_of_toNat_eq
  rw [fld, BitVec.toNat_ofNat]
  exact pack_at ha hl hv k lo n _ hf

end Sys2Proof.Laws
end

