-- ==== Sys2Proof/Laws/Exec.lean ====
section
/-! SUPPORT. The meaning each constructor's arm calls, as one equation each, so that no proof unfolds the dispatch. -/

namespace Sys2Proof.Machine

variable {s : State}

@[simp] theorem exec_powerUp : exec .powerUp s = execPowerUp s := rfl
@[simp] theorem exec_imgwr : exec .imgwr s = execImgwr s := rfl
@[simp] theorem exec_ltwr : exec .ltwr s = execLtwr s := rfl
@[simp] theorem exec_ltctlKill : exec .ltctlKill s = execLtctlKill s := rfl
@[simp] theorem exec_ltctlClear : exec .ltctlClear s = execLtctlClear s := rfl
@[simp] theorem exec_unknownFrame : exec .unknownFrame s = execUnknownFrame s := rfl
@[simp] theorem exec_evrd : exec .evrd s = execEvrd s := rfl
@[simp] theorem exec_evrdMailbox : exec .evrdMailbox s = execEvrdMailbox s := rfl
@[simp] theorem exec_ptp : exec .ptp s = execPtp s := rfl
@[simp] theorem exec_portsel : exec .portsel s = execPortsel s := rfl
@[simp] theorem exec_asidgrant : exec .asidgrant s = execAsidgrant s := rfl
@[simp] theorem exec_asidrevoke : exec .asidrevoke s = execAsidrevoke s := rfl
@[simp] theorem exec_tlbinv : exec .tlbinv s = execTlbinv s := rfl
@[simp] theorem exec_pagein : exec .pagein s = execPagein s := rfl
@[simp] theorem exec_pagedeny : exec .pagedeny s = execPagedeny s := rfl
@[simp] theorem exec_preemptRequest : exec .preemptRequest s = execPreemptRequest s := rfl
@[simp] theorem exec_resume : exec .resume s = execResume s := rfl
@[simp] theorem exec_snapnow : exec .snapnow s = execSnapnow s := rfl
@[simp] theorem exec_snapclr : exec .snapclr s = execSnapclr s := rfl
@[simp] theorem exec_dieReset {d} : exec (.dieReset d) s = execDieReset d s := rfl
@[simp] theorem exec_dieLive {d} : exec (.dieLive d) s = execDieLive d s := rfl
@[simp] theorem exec_hostInterrupt : exec .hostInterrupt s = execHostInterrupt s := rfl
@[simp] theorem exec_getVersion : exec .getVersion s = execGetVersion s := rfl
@[simp] theorem exec_getCapabilities : exec .getCapabilities s = execGetCapabilities s := rfl
@[simp] theorem exec_negotiateAlgorithms : exec .negotiateAlgorithms s = execNegotiateAlgorithms s := rfl
@[simp] theorem exec_getDigests : exec .getDigests s = execGetDigests s := rfl
@[simp] theorem exec_getCertificate : exec .getCertificate s = execGetCertificate s := rfl
@[simp] theorem exec_challenge : exec .challenge s = execChallenge s := rfl
@[simp] theorem exec_getMeasurements : exec .getMeasurements s = execGetMeasurements s := rfl
@[simp] theorem exec_keyExchange : exec .keyExchange s = execKeyExchange s := rfl
@[simp] theorem exec_finish : exec .finish s = execFinish s := rfl
@[simp] theorem exec_endSession : exec .endSession s = execEndSession s := rfl
@[simp] theorem exec_spdmUnsupportedRequest : exec .spdmUnsupportedRequest s = execSpdmUnsupportedRequest s := rfl
@[simp] theorem exec_mgmtRegisterWrite : exec .mgmtRegisterWrite s = execMgmtRegisterWrite s := rfl
@[simp] theorem exec_dbgbWrite : exec .dbgbWrite s = execDbgbWrite s := rfl
@[simp] theorem exec_tinjWrite : exec .tinjWrite s = execTinjWrite s := rfl
@[simp] theorem exec_minjWrite : exec .minjWrite s = execMinjWrite s := rfl
@[simp] theorem exec_actionEntryWrite : exec .actionEntryWrite s = execActionEntryWrite s := rfl
@[simp] theorem exec_snapcmpWrite : exec .snapcmpWrite s = execSnapcmpWrite s := rfl
@[simp] theorem exec_tileMapWrite : exec .tileMapWrite s = execTileMapWrite s := rfl
@[simp] theorem exec_admission {e} : exec (.admission e) s = execAdmission e s := rfl
@[simp] theorem exec_launchStart {e} : exec (.launchStart e) s = execLaunchStart e s := rfl
@[simp] theorem exec_dynamicRelease {e} : exec (.dynamicRelease e) s = execDynamicRelease e s := rfl
@[simp] theorem exec_regionRelease {r} : exec (.regionRelease r) s = execRegionRelease r s := rfl
@[simp] theorem exec_taskStart {r} : exec (.taskStart r) s = execTaskStart r s := rfl
@[simp] theorem exec_taskEnd {r} : exec (.taskEnd r) s = execTaskEnd r s := rfl
@[simp] theorem exec_bundleIssue {t} : exec (.bundleIssue t) s = execBundleIssue t s := rfl
@[simp] theorem exec_signatureBundle {t} : exec (.signatureBundle t) s = execSignatureBundle t s := rfl
@[simp] theorem exec_blockRerun {t} : exec (.blockRerun t) s = execBlockRerun t s := rfl
@[simp] theorem exec_tileRetire {t} : exec (.tileRetire t) s = execTileRetire t s := rfl
@[simp] theorem exec_secondaryIssue {t} : exec (.secondaryIssue t) s = execSecondaryIssue t s := rfl
@[simp] theorem exec_handlerBundleIssue {t} : exec (.handlerBundleIssue t) s = execHandlerBundleIssue t s := rfl
@[simp] theorem exec_gateHoldRelease {t} : exec (.gateHoldRelease t) s = execGateHoldRelease t s := rfl
@[simp] theorem exec_engineCommandStart {t far} : exec (.engineCommandStart t far) s = execEngineCommandStart t far s := rfl
@[simp] theorem exec_holdBudget {r} : exec (.holdBudget r) s = execHoldBudget r s := rfl
@[simp] theorem exec_rdvLeave {r} : exec (.rdvLeave r) s = execRdvLeave r s := rfl
@[simp] theorem exec_stretchResult : exec .stretchResult s = execStretchResult s := rfl
@[simp] theorem exec_timerCompare {t} : exec (.timerCompare t) s = execTimerCompare t s := rfl
@[simp] theorem exec_waitiWake {t} : exec (.waitiWake t) s = execWaitiWake t s := rfl
@[simp] theorem exec_eventFifoDrain {src} : exec (.eventFifoDrain src) s = execEventFifoDrain src s := rfl
@[simp] theorem exec_tlbQuery {q} : exec (.tlbQuery q) s = execTlbQuery q s := rfl
@[simp] theorem exec_tlbWalkDone {w} : exec (.tlbWalkDone w) s = execTlbWalkDone w s := rfl
@[simp] theorem exec_tlbinvAck {n d} : exec (.tlbinvAck n d) s = execTlbinvAck n d s := rfl
@[simp] theorem exec_invalTimeout {n d} : exec (.invalTimeout n d) s = execInvalTimeout n d s := rfl
@[simp] theorem exec_rdBurstLanding {q} : exec (.rdBurstLanding q) s = execRdBurstLanding q s := rfl
@[simp] theorem exec_parkedBurstWrite {q} : exec (.parkedBurstWrite q) s = execParkedBurstWrite q s := rfl
@[simp] theorem exec_refreshDebtRise {q} : exec (.refreshDebtRise q) s = execRefreshDebtRise q s := rfl
@[simp] theorem exec_autonomousRefresh {q} : exec (.autonomousRefresh q) s = execAutonomousRefresh q s := rfl
@[simp] theorem exec_cachedWindowOpen {q} : exec (.cachedWindowOpen q) s = execCachedWindowOpen q s := rfl
@[simp] theorem exec_cachedPathAccess {q} : exec (.cachedPathAccess q) s = execCachedPathAccess q s := rfl
@[simp] theorem exec_timedHop {x} : exec (.timedHop x) s = execTimedHop x s := rfl
@[simp] theorem exec_meshLatchWrite {x} : exec (.meshLatchWrite x) s = execMeshLatchWrite x s := rfl
@[simp] theorem exec_dieLatchWrite {x} : exec (.dieLatchWrite x) s = execDieLatchWrite x s := rfl
@[simp] theorem exec_bePacketHop {k} : exec (.bePacketHop k) s = execBePacketHop k s := rfl
@[simp] theorem exec_cacheRequest {k} : exec (.cacheRequest k) s = execCacheRequest k s := rfl
@[simp] theorem exec_sectorFill {k} : exec (.sectorFill k) s = execSectorFill k s := rfl
@[simp] theorem exec_writebackApply {k} : exec (.writebackApply k) s = execWritebackApply k s := rfl
@[simp] theorem exec_rebalance {d} : exec (.rebalance d) s = execRebalance d s := rfl
@[simp] theorem exec_bucketMoveEnd {d} : exec (.bucketMoveEnd d) s = execBucketMoveEnd d s := rfl
@[simp] theorem exec_causalUpdateArrive {k d} : exec (.causalUpdateArrive k d) s = execCausalUpdateArrive k d s := rfl
@[simp] theorem exec_causalUpdateApply {d w} : exec (.causalUpdateApply d w) s = execCausalUpdateApply d w s := rfl
@[simp] theorem exec_causalMissAnswer {k} : exec (.causalMissAnswer k) s = execCausalMissAnswer k s := rfl
@[simp] theorem exec_rangePerformed {k} : exec (.rangePerformed k) s = execRangePerformed k s := rfl
@[simp] theorem exec_copyExpansion {t} : exec (.copyExpansion t) s = execCopyExpansion t s := rfl
@[simp] theorem exec_copyIssue {t cls} : exec (.copyIssue t cls) s = execCopyIssue t cls s := rfl
@[simp] theorem exec_releaseEvent {t slot sec} : exec (.releaseEvent t slot sec) s = execReleaseEvent t slot sec s := rfl
@[simp] theorem exec_visibilityEvent {t slot sec} : exec (.visibilityEvent t slot sec) s = execVisibilityEvent t slot sec s := rfl
@[simp] theorem exec_remoteDecrement {job b sectors count tag clock} : exec (.remoteDecrement job b sectors count tag clock) s = execRemoteDecrement job b sectors count tag clock s := rfl
@[simp] theorem exec_copyAgeTimeout {t slot} : exec (.copyAgeTimeout t slot) s = execCopyAgeTimeout t slot s := rfl
@[simp] theorem exec_linkDown {route} : exec (.linkDown route) s = execLinkDown route s := rfl
@[simp] theorem exec_fsigApply {t slot} : exec (.fsigApply t slot) s = execFsigApply t slot s := rfl
@[simp] theorem exec_fredSend {t slot} : exec (.fredSend t slot) s = execFredSend t slot s := rfl
@[simp] theorem exec_fredResultSector {t slot sec data} : exec (.fredResultSector t slot sec data) s = execFredResultSector t slot sec data s := rfl
@[simp] theorem exec_ldfReturn {k} : exec (.ldfReturn k) s = execLdfReturn k s := rfl
@[simp] theorem exec_atomicReturn {k} : exec (.atomicReturn k) s = execAtomicReturn k s := rfl
@[simp] theorem exec_farAnswerTimeout {k} : exec (.farAnswerTimeout k) s = execFarAnswerTimeout k s := rfl
@[simp] theorem exec_barriveRelease {t sec} : exec (.barriveRelease t sec) s = execBarriveRelease t sec s := rfl
@[simp] theorem exec_contributionArrival : exec .contributionArrival s = execContributionArrival s := rfl
@[simp] theorem exec_roundDeadline {grp n} : exec (.roundDeadline grp n) s = execRoundDeadline grp n s := rfl
@[simp] theorem exec_flitRetry : exec .flitRetry s = execFlitRetry s := rfl
@[simp] theorem exec_overrunNotice : exec .overrunNotice s = execOverrunNotice s := rfl
@[simp] theorem exec_jobHoldBegin {job} : exec (.jobHoldBegin job) s = execJobHoldBegin job s := rfl
@[simp] theorem exec_jobHoldEnd {job} : exec (.jobHoldEnd job) s = execJobHoldEnd job s := rfl
@[simp] theorem exec_sensorRead : exec .sensorRead s = execSensorRead s := rfl
@[simp] theorem exec_contextSaveDone {e} : exec (.contextSaveDone e) s = execContextSaveDone e s := rfl
@[simp] theorem exec_contextRestoreDone {e} : exec (.contextRestoreDone e) s = execContextRestoreDone e s := rfl
@[simp] theorem exec_snapcmpMatch : exec .snapcmpMatch s = execSnapcmpMatch s := rfl
@[simp] theorem exec_snapshotLatch : exec .snapshotLatch s = execSnapshotLatch s := rfl
@[simp] theorem exec_jobHoldNotice : exec .jobHoldNotice s = execJobHoldNotice s := rfl
@[simp] theorem exec_replacement {e} : exec (.replacement e) s = execReplacement e s := rfl
@[simp] theorem exec_jobReleaseNotice : exec .jobReleaseNotice s = execJobReleaseNotice s := rfl
@[simp] theorem exec_add {p d a b} : exec (.add p d a b) s = execAdd p d a b s := rfl
@[simp] theorem exec_sub {p d a b} : exec (.sub p d a b) s = execSub p d a b s := rfl
@[simp] theorem exec_addi {p d a imm} : exec (.addi p d a imm) s = execAddi p d a imm s := rfl
@[simp] theorem exec_and {p d a b} : exec (.and p d a b) s = execAnd p d a b s := rfl
@[simp] theorem exec_or {p d a b} : exec (.or p d a b) s = execOr p d a b s := rfl
@[simp] theorem exec_xor {p d a b} : exec (.xor p d a b) s = execXor p d a b s := rfl
@[simp] theorem exec_andi {p d a imm} : exec (.andi p d a imm) s = execAndi p d a imm s := rfl
@[simp] theorem exec_ori {p d a imm} : exec (.ori p d a imm) s = execOri p d a imm s := rfl
@[simp] theorem exec_xori {p d a imm} : exec (.xori p d a imm) s = execXori p d a imm s := rfl
@[simp] theorem exec_shl {p d a b} : exec (.shl p d a b) s = execShl p d a b s := rfl
@[simp] theorem exec_shr {p d a b} : exec (.shr p d a b) s = execShr p d a b s := rfl
@[simp] theorem exec_sra {p d a b} : exec (.sra p d a b) s = execSra p d a b s := rfl
@[simp] theorem exec_shli {p d a n} : exec (.shli p d a n) s = execShli p d a n s := rfl
@[simp] theorem exec_shri {p d a n} : exec (.shri p d a n) s = execShri p d a n s := rfl
@[simp] theorem exec_srai {p d a n} : exec (.srai p d a n) s = execSrai p d a n s := rfl
@[simp] theorem exec_mul {p d a b} : exec (.mul p d a b) s = execMul p d a b s := rfl
@[simp] theorem exec_mulh {p d a b} : exec (.mulh p d a b) s = execMulh p d a b s := rfl
@[simp] theorem exec_mulhu {p d a b} : exec (.mulhu p d a b) s = execMulhu p d a b s := rfl
@[simp] theorem exec_divu {p d a b} : exec (.divu p d a b) s = execDivu p d a b s := rfl
@[simp] theorem exec_remu {p d a b} : exec (.remu p d a b) s = execRemu p d a b s := rfl
@[simp] theorem exec_min {p d a b} : exec (.min p d a b) s = execMin p d a b s := rfl
@[simp] theorem exec_max {p d a b} : exec (.max p d a b) s = execMax p d a b s := rfl
@[simp] theorem exec_minu {p d a b} : exec (.minu p d a b) s = execMinu p d a b s := rfl
@[simp] theorem exec_maxu {p d a b} : exec (.maxu p d a b) s = execMaxu p d a b s := rfl
@[simp] theorem exec_clz {p d a} : exec (.clz p d a) s = execClz p d a s := rfl
@[simp] theorem exec_popc {p d a} : exec (.popc p d a) s = execPopc p d a s := rfl
@[simp] theorem exec_movi {p d imm} : exec (.movi p d imm) s = execMovi p d imm s := rfl
@[simp] theorem exec_movsh {p d imm} : exec (.movsh p d imm) s = execMovsh p d imm s := rfl
@[simp] theorem exec_sel {p d a b f} : exec (.sel p d a b f) s = execSel p d a b f s := rfl
@[simp] theorem exec_extf {p d a f} : exec (.extf p d a f) s = execExtf p d a f s := rfl
@[simp] theorem exec_lea {p d a e} : exec (.lea p d a e) s = execLea p d a e s := rfl
@[simp] theorem exec_cmp {p d a b f} : exec (.cmp p d a b f) s = execCmp p d a b f s := rfl
@[simp] theorem exec_cmpi {p d c a imm} : exec (.cmpi p d c a imm) s = execCmpi p d c a imm s := rfl
@[simp] theorem exec_plog {p d a b f} : exec (.plog p d a b f) s = execPlog p d a b f s := rfl
@[simp] theorem exec_mfsr {p d idx} : exec (.mfsr p d idx) s = execMfsr p d idx s := rfl
@[simp] theorem exec_mtsr {p a idx} : exec (.mtsr p a idx) s = execMtsr p a idx s := rfl
@[simp] theorem exec_lds {p d a b f} : exec (.lds p d a b f) s = execLds p d a b f s := rfl
@[simp] theorem exec_sts {p d a b f} : exec (.sts p d a b f) s = execSts p d a b f s := rfl
@[simp] theorem exec_ldf {p d a imm} : exec (.ldf p d a imm) s = execLdf p d a imm s := rfl
@[simp] theorem exec_addw {p d a b} : exec (.addw p d a b) s = execAddw p d a b s := rfl
@[simp] theorem exec_subw {p d a b} : exec (.subw p d a b) s = execSubw p d a b s := rfl
@[simp] theorem exec_rotl {p d a b} : exec (.rotl p d a b) s = execRotl p d a b s := rfl
@[simp] theorem exec_bext {p d a b} : exec (.bext p d a b) s = execBext p d a b s := rfl
@[simp] theorem exec_bins {p d a b} : exec (.bins p d a b) s = execBins p d a b s := rfl
@[simp] theorem exec_muli {p d a imm} : exec (.muli p d a imm) s = execMuli p d a imm s := rfl
@[simp] theorem exec_br {p disp} : exec (.br p disp) s = execBr p disp s := rfl
@[simp] theorem exec_bri {p a} : exec (.bri p a) s = execBri p a s := rfl
@[simp] theorem exec_call {p disp} : exec (.call p disp) s = execCall p disp s := rfl
@[simp] theorem exec_ret {p} : exec (.ret p) s = execRet p s := rfl
@[simp] theorem exec_loop {p fl a last} : exec (.loop p fl a last) s = execLoop p fl a last s := rfl
@[simp] theorem exec_loopi {p fl cnt last} : exec (.loopi p fl cnt last) s = execLoopi p fl cnt last s := rfl
@[simp] theorem exec_brkl {p lv} : exec (.brkl p lv) s = execBrkl p lv s := rfl
@[simp] theorem exec_setlc {p a ec} : exec (.setlc p a ec) s = execSetlc p a ec s := rfl
@[simp] theorem exec_phase {p ph} : exec (.phase p ph) s = execPhase p ph s := rfl
@[simp] theorem exec_epoch {p md val} : exec (.epoch p md val) s = execEpoch p md val s := rfl
@[simp] theorem exec_gateset {p g a ph en} : exec (.gateset p g a ph en) s = execGateset p g a ph en s := rfl
@[simp] theorem exec_rdv {p a imm} : exec (.rdv p a imm) s = execRdv p a imm s := rfl
@[simp] theorem exec_fence {p sc} : exec (.fence p sc) s = execFence p sc s := rfl
@[simp] theorem exec_snap {p tag} : exec (.snap p tag) s = execSnap p tag s := rfl
@[simp] theorem exec_trapi {p code} : exec (.trapi p code) s = execTrapi p code s := rfl
@[simp] theorem exec_rett {p} : exec (.rett p) s = execRett p s := rfl
@[simp] theorem exec_waiti {p} : exec (.waiti p) s = execWaiti p s := rfl
@[simp] theorem exec_endt {p} : exec (.endt p) s = execEndt p s := rfl
@[simp] theorem exec_nopn {p n} : exec (.nopn p n) s = execNopn p n s := rfl
@[simp] theorem exec_sprng {p a} : exec (.sprng p a) s = execSprng p a s := rfl
@[simp] theorem exec_inten {p md mask} : exec (.inten p md mask) s = execInten p md mask s := rfl
@[simp] theorem exec_secs {p go} : exec (.secs p go) s = execSecs p go s := rfl
@[simp] theorem exec_vld {p vr a q off} : exec (.vld p vr a q off) s = execVld p vr a q off s := rfl
@[simp] theorem exec_vst {p vr a q off} : exec (.vst p vr a q off) s = execVst p vr a q off s := rfl
@[simp] theorem exec_vldx {p vr a b q off} : exec (.vldx p vr a b q off) s = execVldx p vr a b q off s := rfl
@[simp] theorem exec_vstx {p vr a b q off} : exec (.vstx p vr a b q off) s = execVstx p vr a b q off s := rfl
@[simp] theorem exec_vldb {p vr a off} : exec (.vldb p vr a off) s = execVldb p vr a off s := rfl
@[simp] theorem exec_vlds {p vr a b q off} : exec (.vlds p vr a b q off) s = execVlds p vr a b q off s := rfl
@[simp] theorem exec_vsts {p vr a b q off} : exec (.vsts p vr a b q off) s = execVsts p vr a b q off s := rfl
@[simp] theorem exec_send {p vr tgt sid} : exec (.send p vr tgt sid) s = execSend p vr tgt sid s := rfl
@[simp] theorem exec_recv {p vr sid} : exec (.recv p vr sid) s = execRecv p vr sid s := rfl
@[simp] theorem exec_lsend {p a tgt sid off} : exec (.lsend p a tgt sid off) s = execLsend p a tgt sid off s := rfl
@[simp] theorem exec_lrecv {p a sid off} : exec (.lrecv p a sid off) s = execLrecv p a sid off s := rfl
@[simp] theorem exec_dsend {p vr tgt sid die} : exec (.dsend p vr tgt sid die) s = execDsend p vr tgt sid die s := rfl
@[simp] theorem exec_drecv {p vr sid} : exec (.drecv p vr sid) s = execDrecv p vr sid s := rfl
@[simp] theorem exec_fnest {p x a b lv} : exec (.fnest p x a b lv) s = execFnest p x a b lv s := rfl
@[simp] theorem exec_fbase {p x a b} : exec (.fbase p x a b) s = execFbase p x a b s := rfl
@[simp] theorem exec_fidx {p x} : exec (.fidx p x) s = execFidx p x s := rfl
@[simp] theorem exec_fgo {p a b delay sc ls} : exec (.fgo p a b delay sc ls) s = execFgo p a b delay sc ls s := rfl
@[simp] theorem exec_fsig {p a b sc} : exec (.fsig p a b sc) s = execFsig p a b sc s := rfl
@[simp] theorem exec_fred {p x a b f sc} : exec (.fred p x a b f sc) s = execFred p x a b f sc s := rfl
@[simp] theorem exec_fqry {p x sel} : exec (.fqry p x sel) s = execFqry p x sel s := rfl
@[simp] theorem exec_fcan {p slot all} : exec (.fcan p slot all) s = execFcan p slot all s := rfl
@[simp] theorem exec_wbr {p a b sc} : exec (.wbr p a b sc) s = execWbr p a b sc s := rfl
@[simp] theorem exec_invr {p a b sc} : exec (.invr p a b sc) s = execInvr p a b sc s := rfl
@[simp] theorem exec_discr {p a b sc} : exec (.discr p a b sc) s = execDiscr p a b sc s := rfl
@[simp] theorem exec_amo {p d a b f sc w} : exec (.amo p d a b f sc w) s = execAmo p d a b f sc w s := rfl
@[simp] theorem exec_cas {p d a b c sc w} : exec (.cas p d a b c sc w) s = execCas p d a b c sc w s := rfl
@[simp] theorem exec_binit {p a imm} : exec (.binit p a imm) s = execBinit p a imm s := rfl
@[simp] theorem exec_barrive {p a sc imm} : exec (.barrive p a sc imm) s = execBarrive p a sc imm s := rfl
@[simp] theorem exec_bexpect {p a b} : exec (.bexpect p a b) s = execBexpect p a b s := rfl
@[simp] theorem exec_bread {p d a} : exec (.bread p d a) s = execBread p d a s := rfl
@[simp] theorem exec_brearm {p a imm} : exec (.brearm p a imm) s = execBrearm p a imm s := rfl
@[simp] theorem exec_vadd {p q d a b} : exec (.vadd p q d a b) s = execVadd p q d a b s := rfl
@[simp] theorem exec_vsub {p q d a b} : exec (.vsub p q d a b) s = execVsub p q d a b s := rfl
@[simp] theorem exec_vmul {p q d a b} : exec (.vmul p q d a b) s = execVmul p q d a b s := rfl
@[simp] theorem exec_vand {p q d a b} : exec (.vand p q d a b) s = execVand p q d a b s := rfl
@[simp] theorem exec_vor {p q d a b} : exec (.vor p q d a b) s = execVor p q d a b s := rfl
@[simp] theorem exec_vxor {p q d a b} : exec (.vxor p q d a b) s = execVxor p q d a b s := rfl
@[simp] theorem exec_vshl {p q d a b} : exec (.vshl p q d a b) s = execVshl p q d a b s := rfl
@[simp] theorem exec_vshr {p q d a b} : exec (.vshr p q d a b) s = execVshr p q d a b s := rfl
@[simp] theorem exec_vsra {p q d a b} : exec (.vsra p q d a b) s = execVsra p q d a b s := rfl
@[simp] theorem exec_vmin {p q d a b} : exec (.vmin p q d a b) s = execVmin p q d a b s := rfl
@[simp] theorem exec_vmax {p q d a b} : exec (.vmax p q d a b) s = execVmax p q d a b s := rfl
@[simp] theorem exec_vminu {p q d a b} : exec (.vminu p q d a b) s = execVminu p q d a b s := rfl
@[simp] theorem exec_vmaxu {p q d a b} : exec (.vmaxu p q d a b) s = execVmaxu p q d a b s := rfl
@[simp] theorem exec_vcmp {p q d a b f} : exec (.vcmp p q d a b f) s = execVcmp p q d a b f s := rfl
@[simp] theorem exec_vadds {p q d a b} : exec (.vadds p q d a b) s = execVadds p q d a b s := rfl
@[simp] theorem exec_vfadd {p q d a b rm} : exec (.vfadd p q d a b rm) s = execVfadd p q d a b rm s := rfl
@[simp] theorem exec_vfsub {p q d a b rm} : exec (.vfsub p q d a b rm) s = execVfsub p q d a b rm s := rfl
@[simp] theorem exec_vfmul {p q d a b rm} : exec (.vfmul p q d a b rm) s = execVfmul p q d a b rm s := rfl
@[simp] theorem exec_vfma {p q d a b c rm} : exec (.vfma p q d a b c rm) s = execVfma p q d a b c rm s := rfl
@[simp] theorem exec_vfnma {p q d a b c rm} : exec (.vfnma p q d a b c rm) s = execVfnma p q d a b c rm s := rfl
@[simp] theorem exec_vfmin {p q d a b} : exec (.vfmin p q d a b) s = execVfmin p q d a b s := rfl
@[simp] theorem exec_vfmax {p q d a b} : exec (.vfmax p q d a b) s = execVfmax p q d a b s := rfl
@[simp] theorem exec_vfcmp {p q d a b f} : exec (.vfcmp p q d a b f) s = execVfcmp p q d a b f s := rfl
@[simp] theorem exec_vfabs {p q d a} : exec (.vfabs p q d a) s = execVfabs p q d a s := rfl
@[simp] theorem exec_vfneg {p q d a} : exec (.vfneg p q d a) s = execVfneg p q d a s := rfl
@[simp] theorem exec_vbadd {p q d a b rm} : exec (.vbadd p q d a b rm) s = execVbadd p q d a b rm s := rfl
@[simp] theorem exec_vbmul {p q d a b rm} : exec (.vbmul p q d a b rm) s = execVbmul p q d a b rm s := rfl
@[simp] theorem exec_vbfma {p q d a b c rm} : exec (.vbfma p q d a b c rm) s = execVbfma p q d a b c rm s := rfl
@[simp] theorem exec_vfrnd {p q d a rm} : exec (.vfrnd p q d a rm) s = execVfrnd p q d a rm s := rfl
@[simp] theorem exec_vlmul {p q d a b} : exec (.vlmul p q d a b) s = execVlmul p q d a b s := rfl
@[simp] theorem exec_vldiv {p q d a b} : exec (.vldiv p q d a b) s = execVldiv p q d a b s := rfl
@[simp] theorem exec_vlsqrt {p q d a} : exec (.vlsqrt p q d a) s = execVlsqrt p q d a s := rfl
@[simp] theorem exec_vlinv {p q d a} : exec (.vlinv p q d a) s = execVlinv p q d a s := rfl
@[simp] theorem exec_vcvt {p q d a rm fmt tgt c8} : exec (.vcvt p q d a rm fmt tgt c8) s = execVcvt p q d a rm fmt tgt c8 s := rfl
@[simp] theorem exec_vexp2 {p q d a rm} : exec (.vexp2 p q d a rm) s = execVexp2 p q d a rm s := rfl
@[simp] theorem exec_vlog2 {p q d a rm} : exec (.vlog2 p q d a rm) s = execVlog2 p q d a rm s := rfl
@[simp] theorem exec_vmov {p q d b} : exec (.vmov p q d b) s = execVmov p q d b s := rfl
@[simp] theorem exec_vsel {p q d a b qc} : exec (.vsel p q d a b qc) s = execVsel p q d a b qc s := rfl
@[simp] theorem exec_vperm {p q d a b} : exec (.vperm p q d a b) s = execVperm p q d a b s := rfl
@[simp] theorem exec_vrot {p q d a n} : exec (.vrot p q d a n) s = execVrot p q d a n s := rfl
@[simp] theorem exec_vred {p q d a rm fmt f} : exec (.vred p q d a rm fmt f) s = execVred p q d a rm fmt f s := rfl
@[simp] theorem exec_vext {p d a n} : exec (.vext p d a n) s = execVext p d a n s := rfl
@[simp] theorem exec_vins {p d b n} : exec (.vins p d b n) s = execVins p d b n s := rfl
@[simp] theorem exec_viota {p q d} : exec (.viota p q d) s = execViota p q d s := rfl
@[simp] theorem exec_vpack {p d a b} : exec (.vpack p d a b) s = execVpack p d a b s := rfl
@[simp] theorem exec_vunpk {p q d a h} : exec (.vunpk p q d a h) s = execVunpk p q d a h s := rfl
@[simp] theorem exec_qlog {p d a b f} : exec (.qlog p d a b f) s = execQlog p d a b f s := rfl
@[simp] theorem exec_qset {p d} : exec (.qset p d) s = execQset p d s := rfl
@[simp] theorem exec_qget {p d a} : exec (.qget p d a) s = execQget p d a s := rfl
@[simp] theorem exec_vclz {p q d a} : exec (.vclz p q d a) s = execVclz p q d a s := rfl
@[simp] theorem exec_vpopc {p q d a} : exec (.vpopc p q d a) s = execVpopc p q d a s := rfl
@[simp] theorem exec_vmulh {p q d a b} : exec (.vmulh p q d a b) s = execVmulh p q d a b s := rfl
@[simp] theorem exec_mldw {p delay a b vs nr wf} : exec (.mldw p delay a b vs nr wf) s = execMldw p delay a b vs nr wf s := rfl
@[simp] theorem exec_mswap {p delay} : exec (.mswap p delay) s = execMswap p delay s := rfl
@[simp] theorem exec_mstr {p acc delay a b nr wf} : exec (.mstr p acc delay a b nr wf) s = execMstr p acc delay a b nr wf s := rfl
@[simp] theorem exec_mstrz {p acc delay a b nr wf} : exec (.mstrz p acc delay a b nr wf) s = execMstrz p acc delay a b nr wf s := rfl
@[simp] theorem exec_mcbt {p delay a} : exec (.mcbt p delay a) s = execMcbt p delay a s := rfl
@[simp] theorem exec_mscl {p delay vs} : exec (.mscl p delay vs) s = execMscl p delay vs s := rfl
@[simp] theorem exec_ard {p acc row h v ae a rm} : exec (.ard p acc row h v ae a rm) s = execArd p acc row h v ae a rm s := rfl
@[simp] theorem exec_ardb {p acc row v ae a rm} : exec (.ardb p acc row v ae a rm) s = execArdb p acc row v ae a rm s := rfl
@[simp] theorem exec_ardl {p acc row v ae a rm} : exec (.ardl p acc row v ae a rm) s = execArdl p acc row v ae a rm s := rfl
@[simp] theorem exec_ardl8 {p acc row v ae a rm c8} : exec (.ardl8 p acc row v ae a rm c8) s = execArdl8 p acc row v ae a rm c8 s := rfl
@[simp] theorem exec_awr {p acc row h v ae a} : exec (.awr p acc row h v ae a) s = execAwr p acc row h v ae a s := rfl
@[simp] theorem exec_awrb {p acc row v ae a} : exec (.awrb p acc row v ae a) s = execAwrb p acc row v ae a s := rfl
@[simp] theorem exec_aclr {p acc row ae a} : exec (.aclr p acc row ae a) s = execAclr p acc row ae a s := rfl
@[simp] theorem exec_aadd {p acc row v ae a} : exec (.aadd p acc row v ae a) s = execAadd p acc row v ae a s := rfl
@[simp] theorem exec_act {pc ofs bk row} : exec (.act pc ofs bk row) s = execAct pc ofs bk row s := rfl
@[simp] theorem exec_rd {pc ofs bk col tl sec} : exec (.rd pc ofs bk col tl sec) s = execRd pc ofs bk col tl sec s := rfl
@[simp] theorem exec_wr {pc ofs bk col tl sec} : exec (.wr pc ofs bk col tl sec) s = execWr pc ofs bk col tl sec s := rfl
@[simp] theorem exec_pre {pc ofs bk} : exec (.pre pc ofs bk) s = execPre pc ofs bk s := rfl
@[simp] theorem exec_prea {pc ofs} : exec (.prea pc ofs) s = execPrea pc ofs s := rfl
@[simp] theorem exec_ref {pc ofs} : exec (.ref pc ofs) s = execRef pc ofs s := rfl
@[simp] theorem exec_refpb {pc ofs bk} : exec (.refpb pc ofs bk) s = execRefpb pc ofs bk s := rfl
@[simp] theorem exec_waitc {cnt} : exec (.waitc cnt) s = execWaitc cnt s := rfl
@[simp] theorem exec_tnest {lv cnt rs cs ds} : exec (.tnest lv cnt rs cs ds) s = execTnest lv cnt rs cs ds s := rfl
@[simp] theorem exec_tend {len} : exec (.tend len) s = execTend len s := rfl
@[simp] theorem exec_troute {sid} : exec (.troute sid) s = execTroute sid s := rfl
@[simp] theorem exec_thalt : exec .thalt s = execThalt s := rfl
@[simp] theorem exec_railRemoval : exec .railRemoval s = execRailRemoval s := rfl
@[simp] theorem exec_linkRestored {route} : exec (.linkRestored route) s = execLinkRestored route s := rfl
@[simp] theorem exec_peerAccessArrival : exec .peerAccessArrival s = execPeerAccessArrival s := rfl
@[simp] theorem exec_displacementNotice : exec .displacementNotice s = execDisplacementNotice s := rfl
@[simp] theorem exec_handlerInstall : exec .handlerInstall s = execHandlerInstall s := rfl

end Sys2Proof.Machine
end

