-- ==== Sys2Proof/Laws/Frame.lean ====
section
/-! SUPPORT. What the operations of a syllable can do before its bundle commits: everything but the shadow of the bundle, the ports taken and the errors corrected in its tile, and the count of free values, stays as it was. -/

namespace Sys2Proof.Machine

/-- `t` is `s` but for the shadow, the ports and the corrected errors of the bundle register's tile; its tiles are in canonical form. -/
structure Same (s t : State) : Prop where
  wf : SMap.wf Tile.reset t.tiles = true
  but : s.SameBut t s.cur.tile

theorem Same.refl {s : State} (h : SMap.wf Tile.reset s.tiles = true) : Same s s := ⟨h, rfl, fun _ _ => rfl, rfl⟩

theorem Same.cur {s t : State} (h : Same s t) : t.cur = s.cur := (congrArg State.cur h.but.rest :)

/-- A change of the bundle register's tile that leaves it bare as it was. -/
theorem Same.updTile {s t : State} {f : Tile → Tile} (h : Same s t) (hf : ∀ x, (f x).bare = x.bare) :
    Same s (t.updTile t.cur.tile f) := by
  have hw : SMap.wf Tile.reset (t.updTile t.cur.tile f).tiles = true := SMap.wf_set h.wf
  refine ⟨hw, ?_, fun u hu => ?_, ?_⟩
  · exact h.but.rest
  · rw [← h.but.others u hu, h.cur]
    simp only [State.tile, State.updTile, State.setTile]
    rw [SMap.get_set h.wf, if_neg hu]
  · rw [← h.but.here, h.cur]
    simp only [State.tile, State.updTile, State.setTile]
    rw [SMap.get_set h.wf, if_pos rfl, hf]

theorem Same.spend {s t : State} (h : Same s t) : Same s t.spend := ⟨h.wf, h.but.rest, h.but.others, h.but.here⟩

theorem same_foldl {α : Type} {s : State} {f : State → α → State} (hf : ∀ t a, Same s t → Same s (f t a)) :
    ∀ (l : List α) {t : State}, Same s t → Same s (l.foldl f t)
  | [], _, h => h
  | _ :: l, _, h => same_foldl hf l (hf _ _ h)

theorem same_foldl_fst {α β : Type} {s : State} {f : State × β → α → State × β} (hf : ∀ t a, Same s t.1 → Same s (f t a).1) :
    ∀ (l : List α) {t : State × β}, Same s t.1 → Same s (l.foldl f t).1
  | [], _, h => h
  | _ :: l, _, h => same_foldl_fst hf l (hf _ _ h)

/-- An outcome whose next state is the same but for those parts. -/
structure OutSame (s : State) (o : Out) : Prop where
  next : ∀ t, o = .next t → Same s t

theorem out_same {s t : State} (h : Same s t) : OutSame s (.next t) := ⟨fun u e => by cases e; exact h⟩

/-! ## Operations -/

theorem bare_setIssued {x : Tile} {c : Ctx} {i : Option Issued} : (x.setStream c { x.stream c with issued := i }).bare = x.bare := by
  cases c <;> rfl

theorem bare_scrub {x : Tile} {l : Nat} : (x.scrub l).bare = x.bare := by
  unfold Tile.scrub
  rfl

theorem bare_scrubs {l : List (Nat × Nat)} : ∀ {x : Tile}, (l.foldl (fun x l => x.scrub l.1) x).bare = x.bare := by
  induction l with
  | nil => intro x; rfl
  | cons a l ih => intro x; rw [List.foldl_cons, ih, bare_scrub]

theorem same_updIssued {s u : State} {f} (h : Same s u) : Same s (u.updIssued f) := by
  unfold State.updIssued
  refine h.updTile fun x => ?_
  split
  · simp only [Tile.bare, Option.map_map]
    congr 2
  · exact bare_setIssued

theorem same_when {s u : State} {p : BitVec 4} {f : State → State} (h : Same s u) (hf : ∀ t : State, Same s t → Same s (f t)) :
    OutSame s (u.when p f) := by
  unfold State.when
  apply out_same
  split
  · exact hf u h
  · exact h


theorem same_emit {s u : State} {a1} (h : Same s u) : Same s (State.emit u a1) := by
  unfold State.emit
  repeat' first
    | (with_reducible first
        | assumption | apply same_updIssued)

theorem same_entryTag {s u : State} {a1} (h : Same s u) : Same s (State.entryTag u a1) := by
  unfold State.entryTag
  repeat' first
    | (with_reducible first
        | assumption | apply same_updIssued)

theorem same_resultS {s u : State} {a1 a2 a3 a4} (h : Same s u) : Same s (State.resultS u a1 a2 a3 a4) := by
  unfold State.resultS
  repeat' first
    | (with_reducible first
        | assumption | apply same_emit | apply same_entryTag)

theorem same_alu2 {s u : State} {a1 a2 a3 a4 a5 a6 a7} (h : Same s u) : OutSame s (State.alu2 u a1 a2 a3 a4 a5 a6 a7) := by
  unfold State.alu2
  repeat' first
    | (with_reducible first
        | assumption | apply same_resultS | apply same_when | apply out_same)
    | split | (dsimp only) | (intro _)

theorem same_execAdd {s u : State} {a0 a1 a2 a3} (h : Same s u) : OutSame s (execAdd a0 a1 a2 a3 u) := by
  unfold execAdd
  repeat' first
    | (with_reducible first
        | assumption | apply same_alu2)

theorem same_execSub {s u : State} {a0 a1 a2 a3} (h : Same s u) : OutSame s (execSub a0 a1 a2 a3 u) := by
  unfold execSub
  repeat' first
    | (with_reducible first
        | assumption | apply same_alu2)

theorem same_aluI {s u : State} {a1 a2 a3 a4 a5 a6} (h : Same s u) : OutSame s (State.aluI u a1 a2 a3 a4 a5 a6) := by
  unfold State.aluI
  repeat' first
    | (with_reducible first
        | assumption | apply same_resultS | apply same_when | apply out_same)
    | split | (dsimp only) | (intro _)

theorem same_execAddi {s u : State} {a0 a1 a2 a3} (h : Same s u) : OutSame s (execAddi a0 a1 a2 a3 u) := by
  unfold execAddi
  repeat' first
    | (with_reducible first
        | assumption | apply same_aluI)

theorem same_execAnd {s u : State} {a0 a1 a2 a3} (h : Same s u) : OutSame s (execAnd a0 a1 a2 a3 u) := by
  unfold execAnd
  repeat' first
    | (with_reducible first
        | assumption | apply same_alu2)

theorem same_execOr {s u : State} {a0 a1 a2 a3} (h : Same s u) : OutSame s (execOr a0 a1 a2 a3 u) := by
  unfold execOr
  repeat' first
    | (with_reducible first
        | assumption | apply same_alu2)

theorem same_execXor {s u : State} {a0 a1 a2 a3} (h : Same s u) : OutSame s (execXor a0 a1 a2 a3 u) := by
  unfold execXor
  repeat' first
    | (with_reducible first
        | assumption | apply same_alu2)

theorem same_execAndi {s u : State} {a0 a1 a2 a3} (h : Same s u) : OutSame s (execAndi a0 a1 a2 a3 u) := by
  unfold execAndi
  repeat' first
    | (with_reducible first
        | assumption | apply same_aluI)

theorem same_execOri {s u : State} {a0 a1 a2 a3} (h : Same s u) : OutSame s (execOri a0 a1 a2 a3 u) := by
  unfold execOri
  repeat' first
    | (with_reducible first
        | assumption | apply same_aluI)

theorem same_execXori {s u : State} {a0 a1 a2 a3} (h : Same s u) : OutSame s (execXori a0 a1 a2 a3 u) := by
  unfold execXori
  repeat' first
    | (with_reducible first
        | assumption | apply same_aluI)

theorem same_execShl {s u : State} {a0 a1 a2 a3} (h : Same s u) : OutSame s (execShl a0 a1 a2 a3 u) := by
  unfold execShl
  repeat' first
    | (with_reducible first
        | assumption | apply same_alu2)

theorem same_execShr {s u : State} {a0 a1 a2 a3} (h : Same s u) : OutSame s (execShr a0 a1 a2 a3 u) := by
  unfold execShr
  repeat' first
    | (with_reducible first
        | assumption | apply same_alu2)

theorem same_execSra {s u : State} {a0 a1 a2 a3} (h : Same s u) : OutSame s (execSra a0 a1 a2 a3 u) := by
  unfold execSra
  repeat' first
    | (with_reducible first
        | assumption | apply same_alu2)

theorem same_execShli {s u : State} {a0 a1 a2 a3} (h : Same s u) : OutSame s (execShli a0 a1 a2 a3 u) := by
  unfold execShli
  repeat' first
    | (with_reducible first
        | assumption | apply same_aluI)

theorem same_execShri {s u : State} {a0 a1 a2 a3} (h : Same s u) : OutSame s (execShri a0 a1 a2 a3 u) := by
  unfold execShri
  repeat' first
    | (with_reducible first
        | assumption | apply same_aluI)

theorem same_execSrai {s u : State} {a0 a1 a2 a3} (h : Same s u) : OutSame s (execSrai a0 a1 a2 a3 u) := by
  unfold execSrai
  repeat' first
    | (with_reducible first
        | assumption | apply same_aluI)

theorem same_execMul {s u : State} {a0 a1 a2 a3} (h : Same s u) : OutSame s (execMul a0 a1 a2 a3 u) := by
  unfold execMul
  repeat' first
    | (with_reducible first
        | assumption | apply same_alu2)

theorem same_execMulh {s u : State} {a0 a1 a2 a3} (h : Same s u) : OutSame s (execMulh a0 a1 a2 a3 u) := by
  unfold execMulh
  repeat' first
    | (with_reducible first
        | assumption | apply same_alu2)

theorem same_execMulhu {s u : State} {a0 a1 a2 a3} (h : Same s u) : OutSame s (execMulhu a0 a1 a2 a3 u) := by
  unfold execMulhu
  repeat' first
    | (with_reducible first
        | assumption | apply same_alu2)

theorem same_execDivu {s u : State} {a0 a1 a2 a3} (h : Same s u) : OutSame s (execDivu a0 a1 a2 a3 u) := by
  unfold execDivu
  repeat' first
    | (with_reducible first
        | assumption | apply same_alu2)

theorem same_execRemu {s u : State} {a0 a1 a2 a3} (h : Same s u) : OutSame s (execRemu a0 a1 a2 a3 u) := by
  unfold execRemu
  repeat' first
    | (with_reducible first
        | assumption | apply same_alu2)

theorem same_execMin {s u : State} {a0 a1 a2 a3} (h : Same s u) : OutSame s (execMin a0 a1 a2 a3 u) := by
  unfold execMin
  repeat' first
    | (with_reducible first
        | assumption | apply same_alu2)

theorem same_execMax {s u : State} {a0 a1 a2 a3} (h : Same s u) : OutSame s (execMax a0 a1 a2 a3 u) := by
  unfold execMax
  repeat' first
    | (with_reducible first
        | assumption | apply same_alu2)

theorem same_execMinu {s u : State} {a0 a1 a2 a3} (h : Same s u) : OutSame s (execMinu a0 a1 a2 a3 u) := by
  unfold execMinu
  repeat' first
    | (with_reducible first
        | assumption | apply same_alu2)

theorem same_execMaxu {s u : State} {a0 a1 a2 a3} (h : Same s u) : OutSame s (execMaxu a0 a1 a2 a3 u) := by
  unfold execMaxu
  repeat' first
    | (with_reducible first
        | assumption | apply same_alu2)

theorem same_alu1 {s u : State} {a1 a2 a3 a4 a5 a6} (h : Same s u) : OutSame s (State.alu1 u a1 a2 a3 a4 a5 a6) := by
  unfold State.alu1
  repeat' first
    | (with_reducible first
        | assumption | apply same_resultS | apply same_when | apply out_same)
    | split | (dsimp only) | (intro _)

theorem same_execClz {s u : State} {a0 a1 a2} (h : Same s u) : OutSame s (execClz a0 a1 a2 u) := by
  unfold execClz
  repeat' first
    | (with_reducible first
        | assumption | apply same_alu1)

theorem same_execPopc {s u : State} {a0 a1 a2} (h : Same s u) : OutSame s (execPopc a0 a1 a2 u) := by
  unfold execPopc
  repeat' first
    | (with_reducible first
        | assumption | apply same_alu1)

theorem same_execMovi {s u : State} {a0 a1 a2} (h : Same s u) : OutSame s (execMovi a0 a1 a2 u) := by
  unfold execMovi
  repeat' first
    | (with_reducible first
        | assumption | apply same_resultS | apply same_when | apply out_same)
    | split | (dsimp only) | (intro _)

theorem same_execMovsh {s u : State} {a0 a1 a2} (h : Same s u) : OutSame s (execMovsh a0 a1 a2 u) := by
  unfold execMovsh
  repeat' first
    | (with_reducible first
        | assumption | apply same_resultS | apply same_when | apply out_same)
    | split | (dsimp only) | (intro _)

theorem same_execSel {s u : State} {a0 a1 a2 a3 a4} (h : Same s u) : OutSame s (execSel a0 a1 a2 a3 a4 u) := by
  unfold execSel
  repeat' first
    | (with_reducible first
        | assumption | apply same_resultS | apply same_when | apply out_same)
    | split | (dsimp only) | (intro _)

theorem same_execExtf {s u : State} {a0 a1 a2 a3} (h : Same s u) : OutSame s (execExtf a0 a1 a2 a3 u) := by
  unfold execExtf
  dsimp only
  repeat' first
    | (with_reducible first
        | assumption | apply same_resultS | apply same_when | apply out_same)
    | split | (dsimp only) | (intro _)

theorem same_execLea {s u : State} {a0 a1 a2 a3} (h : Same s u) : OutSame s (execLea a0 a1 a2 a3 u) := by
  unfold execLea
  repeat' first
    | (with_reducible first
        | assumption | apply same_resultS | apply same_when | apply out_same)
    | split | (dsimp only) | (intro _)

theorem same_resultP {s u : State} {a1 a2 a3} (h : Same s u) : Same s (State.resultP u a1 a2 a3) := by
  unfold State.resultP
  repeat' first
    | (with_reducible first
        | assumption | apply same_emit)
    | split

theorem same_execCmp {s u : State} {a0 a1 a2 a3 a4} (h : Same s u) : OutSame s (execCmp a0 a1 a2 a3 a4 u) := by
  unfold execCmp
  repeat' first
    | (with_reducible first
        | assumption | apply same_resultP | apply same_when | apply out_same)
    | split | (dsimp only) | (intro _)

theorem same_execCmpi {s u : State} {a0 a1 a2 a3 a4} (h : Same s u) : OutSame s (execCmpi a0 a1 a2 a3 a4 u) := by
  unfold execCmpi
  repeat' first
    | (with_reducible first
        | assumption | apply same_resultP | apply same_when | apply out_same)
    | split | (dsimp only) | (intro _)

theorem same_execPlog {s u : State} {a0 a1 a2 a3 a4} (h : Same s u) : OutSame s (execPlog a0 a1 a2 a3 a4 u) := by
  unfold execPlog
  repeat' first
    | (with_reducible first
        | assumption | apply same_resultP | apply same_when | apply out_same)
    | split | (dsimp only) | (intro _)

theorem same_execMfsr {s u : State} {a0 a1 a2} (h : Same s u) : OutSame s (execMfsr a0 a1 a2 u) := by
  unfold execMfsr
  dsimp only
  repeat' first
    | (with_reducible first
        | assumption | apply same_emit | apply same_entryTag | apply same_when | apply out_same)
    | split | (dsimp only) | (intro _)

theorem same_raise {s u : State} {a1 a2 a3} (h : Same s u) : Same s (State.raise u a1 a2 a3) := by
  unfold State.raise
  repeat' first
    | (with_reducible first
        | assumption | apply Same.spend | apply same_updIssued)

theorem same_raiseOpen {s u : State} {a1} (h : Same s u) : Same s (State.raiseOpen u a1) := by
  unfold State.raiseOpen
  repeat' first
    | (with_reducible first
        | assumption | apply same_raise)

theorem same_execMtsr {s u : State} {a0 a1 a2} (h : Same s u) : OutSame s (execMtsr a0 a1 a2 u) := by
  unfold execMtsr
  dsimp only
  repeat' first
    | (with_reducible first
        | assumption | apply same_emit | apply same_raiseOpen | apply same_when | apply out_same)
    | split | (dsimp only) | (intro _)

theorem same_raiseAt {s u : State} {a1 a2} (h : Same s u) : Same s (State.raiseAt u a1 a2) := by
  unfold State.raiseAt
  repeat' first
    | (with_reducible first
        | assumption | apply same_raise)

theorem same_usePort {s u : State} {a1 a2 a3 a4} (h : Same s u) : Same s (u.usePort a1 a2 a3 a4) := by
  unfold State.usePort
  split
  · exact same_emit h
  · exact h.updTile fun _ => rfl

theorem same_takePorts {s u : State} {a1 a2 a3} (h : Same s u) : Same s (State.takePorts u a1 a2 a3).1 := by
  unfold State.takePorts
  dsimp only
  repeat' first
    | (with_reducible first
        | assumption | apply same_updIssued | apply same_raise | apply same_usePort | apply same_foldl
        | apply same_foldl_fst)
    | split | (dsimp only) | (intro _)

theorem same_raiseUecc {s u : State} {a1 a2} (h : Same s u) : Same s (State.raiseUecc u a1 a2) := by
  unfold State.raiseUecc
  repeat' first
    | (with_reducible first
        | assumption | apply same_updIssued | apply Same.spend)

theorem same_laterPorts {s u : State} {a1 a2} (h : Same s u) : Same s (State.laterPorts u a1 a2) := by
  unfold State.laterPorts
  repeat' first
    | (with_reducible first
        | assumption | apply same_emit | apply same_foldl)
    | split | (dsimp only) | (intro _)

theorem same_memAccess {s u : State} {a1 a2 a3 a4 a5 a6} (h : Same s u) : Same s (u.memAccess a1 a2 a3 a4 a5 a6).1 := by
  unfold State.memAccess
  repeat' first
    | (with_reducible first
        | assumption | apply same_raise | apply same_raiseUecc | apply same_takePorts | apply same_laterPorts)
    | (dsimp only) | split | (refine Same.updTile ?_ fun _ => bare_scrubs)

theorem same_execLds {s u : State} {a0 a1 a2 a3 a4} (h : Same s u) : OutSame s (execLds a0 a1 a2 a3 a4 u) := by
  unfold execLds
  dsimp only
  repeat' first
    | (with_reducible first
        | assumption | apply same_resultS | apply same_when | apply same_memAccess | apply out_same )
    | split | (dsimp only) | (intro _)

theorem same_bufferStore {s u : State} {a1 a2 a3 a4 a5} (h : Same s u) : Same s (State.bufferStore u a1 a2 a3 a4 a5) := by
  unfold State.bufferStore
  dsimp only
  repeat' first
    | (with_reducible first
        | assumption | apply same_emit | apply same_entryTag | apply same_foldl)

theorem same_execSts {s u : State} {a0 a1 a2 a3 a4} (h : Same s u) : OutSame s (execSts a0 a1 a2 a3 a4 u) := by
  unfold execSts
  dsimp only
  repeat' first
    | (with_reducible first
        | assumption | apply same_when | apply same_memAccess | apply same_bufferStore | apply out_same)
    | split | (dsimp only) | (intro _)

theorem same_execLdf {s u : State} {a0 a1 a2 a3} (h : Same s u) : OutSame s (execLdf a0 a1 a2 a3 u) := by
  unfold execLdf
  dsimp only
  repeat' first
    | (with_reducible first
        | assumption | apply same_emit | apply same_entryTag | apply same_raiseAt | apply same_when | apply out_same)
    | split | (dsimp only) | (intro _)

theorem same_execAddw {s u : State} {a0 a1 a2 a3} (h : Same s u) : OutSame s (execAddw a0 a1 a2 a3 u) := by
  unfold execAddw
  repeat' first
    | (with_reducible first
        | assumption | apply same_alu2)

theorem same_execSubw {s u : State} {a0 a1 a2 a3} (h : Same s u) : OutSame s (execSubw a0 a1 a2 a3 u) := by
  unfold execSubw
  repeat' first
    | (with_reducible first
        | assumption | apply same_alu2)

theorem same_execRotl {s u : State} {a0 a1 a2 a3} (h : Same s u) : OutSame s (execRotl a0 a1 a2 a3 u) := by
  unfold execRotl
  repeat' first
    | (with_reducible first
        | assumption | apply same_alu2)

theorem same_execBext {s u : State} {a0 a1 a2 a3} (h : Same s u) : OutSame s (execBext a0 a1 a2 a3 u) := by
  unfold execBext
  repeat' first
    | (with_reducible first
        | assumption | apply same_alu2)

theorem same_execBins {s u : State} {a0 a1 a2 a3} (h : Same s u) : OutSame s (execBins a0 a1 a2 a3 u) := by
  unfold execBins
  repeat' first
    | (with_reducible first
        | assumption | apply same_resultS | apply same_when | apply out_same)
    | split | (dsimp only) | (intro _)

theorem same_execMuli {s u : State} {a0 a1 a2 a3} (h : Same s u) : OutSame s (execMuli a0 a1 a2 a3 u) := by
  unfold execMuli
  repeat' first
    | (with_reducible first
        | assumption | apply same_aluI)

theorem same_transfer {s u : State} {a1 a2 a3} (h : Same s u) : Same s (State.transfer u a1 a2 a3) := by
  unfold State.transfer
  repeat' first
    | (with_reducible first
        | assumption | apply same_emit | apply same_raise)
    | split

theorem same_execBr {s u : State} {a0 a1} (h : Same s u) : OutSame s (execBr a0 a1 u) := by
  unfold execBr
  dsimp only
  repeat' first
    | (with_reducible first
        | assumption | apply same_when | apply same_transfer | apply out_same)
    | split | (dsimp only) | (intro _)

theorem same_execBri {s u : State} {a0 a1} (h : Same s u) : OutSame s (execBri a0 a1 u) := by
  unfold execBri
  dsimp only
  repeat' first
    | (with_reducible first
        | assumption | apply same_when | apply same_transfer | apply out_same)
    | split | (dsimp only) | (intro _)

theorem same_execCall {s u : State} {a0 a1} (h : Same s u) : OutSame s (execCall a0 a1 u) := by
  unfold execCall
  dsimp only
  repeat' first
    | (with_reducible first
        | assumption | apply same_emit | apply same_raiseOpen | apply same_when | apply same_transfer | apply out_same)
    | split | (dsimp only) | (intro _)

theorem same_execRet {s u : State} {a0} (h : Same s u) : OutSame s (execRet a0 u) := by
  unfold execRet
  repeat' first
    | (with_reducible first
        | assumption | apply same_emit | apply same_raiseOpen | apply same_when | apply out_same)
    | split | (dsimp only) | (intro _)

theorem same_openLoop {s u : State} {a1 a2 a3} (h : Same s u) : Same s (State.openLoop u a1 a2 a3) := by
  unfold State.openLoop
  dsimp only
  repeat' first
    | (with_reducible first
        | assumption | apply same_emit | apply same_raiseOpen)
    | split

theorem same_execLoop {s u : State} {a0 a1 a2 a3} (h : Same s u) : OutSame s (execLoop a0 a1 a2 a3 u) := by
  unfold execLoop
  repeat' first
    | (with_reducible first
        | assumption | apply same_when | apply same_openLoop | apply out_same)
    | split | (dsimp only) | (intro _)

theorem same_execLoopi {s u : State} {a0 a1 a2 a3} (h : Same s u) : OutSame s (execLoopi a0 a1 a2 a3 u) := by
  unfold execLoopi
  repeat' first
    | (with_reducible first
        | assumption | apply same_when | apply same_openLoop | apply out_same)
    | split | (dsimp only) | (intro _)

theorem same_execBrkl {s u : State} {a0 a1} (h : Same s u) : OutSame s (execBrkl a0 a1 u) := by
  unfold execBrkl
  dsimp only
  repeat' first
    | (with_reducible first
        | assumption | apply same_emit | apply same_raiseOpen | apply same_when | apply same_transfer | apply out_same)
    | split | (dsimp only) | (intro _)

theorem same_execSetlc {s u : State} {a0 a1 a2} (h : Same s u) : OutSame s (execSetlc a0 a1 a2 u) := by
  unfold execSetlc
  repeat' first
    | (with_reducible first
        | assumption | apply same_emit | apply same_when | apply out_same)
    | split | (dsimp only) | (intro _)

theorem same_execPhase {s u : State} {a0 a1} (h : Same s u) : OutSame s (execPhase a0 a1 u) := by
  unfold execPhase
  repeat' first
    | (with_reducible first
        | assumption | apply same_emit | apply same_when | apply out_same)
    | split | (dsimp only) | (intro _)

theorem same_execEpoch {s u : State} {a0 a1 a2} (h : Same s u) : OutSame s (execEpoch a0 a1 a2 u) := by
  unfold execEpoch
  repeat' first
    | (with_reducible first
        | assumption | apply same_emit | apply same_when | apply out_same)
    | split | (dsimp only) | (intro _)

theorem same_execGateset {s u : State} {a0 a1 a2 a3 a4} (h : Same s u) : OutSame s (execGateset a0 a1 a2 a3 a4 u) := by
  unfold execGateset
  dsimp only
  repeat' first
    | (with_reducible first
        | assumption | apply same_emit | apply same_raiseOpen | apply same_when | apply out_same)
    | split | (dsimp only) | (intro _)

theorem same_mark {s u : State} (h : Same s u) : Same s (State.mark u) := by
  unfold State.mark
  repeat' first
    | (with_reducible first
        | assumption | apply same_updIssued)

theorem same_execRdv {s u : State} {a0 a1 a2} (h : Same s u) : OutSame s (execRdv a0 a1 a2 u) := by
  unfold execRdv
  dsimp only
  repeat' first
    | (with_reducible first
        | assumption | apply same_emit | apply same_mark | apply same_raiseOpen | apply same_when | apply out_same)
    | split | (dsimp only) | (intro _)

theorem same_execFence {s u : State} {a0 a1} (h : Same s u) : OutSame s (execFence a0 a1 u) := by
  unfold execFence
  repeat' first
    | (with_reducible first
        | assumption | apply same_emit | apply same_when | apply out_same)
    | split | (dsimp only) | (intro _)

theorem same_execSnap {s u : State} {a0 a1} (h : Same s u) : OutSame s (execSnap a0 a1 u) := by
  unfold execSnap
  repeat' first
    | (with_reducible first
        | assumption | apply same_emit | apply same_when | apply out_same)
    | split | (dsimp only) | (intro _)

theorem same_execTrapi {s u : State} {a0 a1} (h : Same s u) : OutSame s (execTrapi a0 a1 u) := by
  unfold execTrapi
  repeat' first
    | (with_reducible first
        | assumption | apply same_emit | apply same_raiseOpen | apply same_when | apply out_same)
    | split | (dsimp only) | (intro _)

theorem same_execRett {s u : State} {a0} (h : Same s u) : OutSame s (execRett a0 u) := by
  unfold execRett
  repeat' first
    | (with_reducible first
        | assumption | apply same_emit | apply same_when | apply out_same)
    | split | (dsimp only) | (intro _)

theorem same_execWaiti {s u : State} {a0} (h : Same s u) : OutSame s (execWaiti a0 u) := by
  unfold execWaiti
  repeat' first
    | (with_reducible first
        | assumption | apply same_emit | apply same_when | apply out_same)
    | split | (dsimp only) | (intro _)

theorem same_execEndt {s u : State} {a0} (h : Same s u) : OutSame s (execEndt a0 u) := by
  unfold execEndt
  repeat' first
    | (with_reducible first
        | assumption | apply same_emit | apply same_when | apply out_same)
    | split | (dsimp only) | (intro _)

theorem same_execNopn {s u : State} {a0 a1} (h : Same s u) : OutSame s (execNopn a0 a1 u) := by
  unfold execNopn
  repeat' first
    | (with_reducible first
        | assumption | apply same_emit | apply same_when | apply out_same)
    | split | (dsimp only) | (intro _)

theorem same_execSprng {s u : State} {a0 a1} (h : Same s u) : OutSame s (execSprng a0 a1 u) := by
  unfold execSprng
  repeat' first
    | (with_reducible first
        | assumption | apply same_resultS | apply same_when | apply out_same)
    | split | (dsimp only) | (intro _)

theorem same_execInten {s u : State} {a0 a1 a2} (h : Same s u) : OutSame s (execInten a0 a1 a2 u) := by
  unfold execInten
  repeat' first
    | (with_reducible first
        | assumption | apply same_emit | apply same_when | apply out_same)
    | split | (dsimp only) | (intro _)

theorem same_execSecs {s u : State} {a0 a1} (h : Same s u) : OutSame s (execSecs a0 a1 u) := by
  unfold execSecs
  repeat' first
    | (with_reducible first
        | assumption | apply same_emit | apply same_raiseOpen | apply same_when | apply out_same)
    | split | (dsimp only) | (intro _)

theorem same_resultV {s u : State} {a1 a2 a3 a4 a5 a6 a7} (h : Same s u) : Same s (State.resultV u a1 a2 a3 a4 a5 a6 a7) := by
  unfold State.resultV
  repeat' first
    | (with_reducible first
        | assumption | apply same_emit | apply same_entryTag)

theorem same_vload {s u : State} {a1 a2 a3 a4 a5} (h : Same s u) : Same s (State.vload u a1 a2 a3 a4 a5) := by
  unfold State.vload
  dsimp only
  repeat' first
    | (with_reducible first
        | assumption | apply same_resultV | apply same_memAccess)
    | split

theorem same_execVld {s u : State} {a0 a1 a2 a3 a4} (h : Same s u) : OutSame s (execVld a0 a1 a2 a3 a4 u) := by
  unfold execVld
  dsimp only
  repeat' first
    | (with_reducible first
        | assumption | apply same_when | apply same_vload | apply out_same)
    | split | (dsimp only) | (intro _)

theorem same_vstore {s u : State} {a1 a2 a3 a4 a5} (h : Same s u) : Same s (State.vstore u a1 a2 a3 a4 a5) := by
  unfold State.vstore
  dsimp only
  repeat' first
    | (with_reducible first
        | assumption | apply same_memAccess | apply same_bufferStore)
    | split

theorem same_execVst {s u : State} {a0 a1 a2 a3 a4} (h : Same s u) : OutSame s (execVst a0 a1 a2 a3 a4 u) := by
  unfold execVst
  dsimp only
  repeat' first
    | (with_reducible first
        | assumption | apply same_when | apply same_vstore | apply out_same)
    | split | (dsimp only) | (intro _)

theorem same_execVldx {s u : State} {a0 a1 a2 a3 a4 a5} (h : Same s u) : OutSame s (execVldx a0 a1 a2 a3 a4 a5 u) := by
  unfold execVldx
  repeat' first
    | (with_reducible first
        | assumption | apply same_when | apply same_vload | apply out_same)
    | split | (dsimp only) | (intro _)

theorem same_execVstx {s u : State} {a0 a1 a2 a3 a4 a5} (h : Same s u) : OutSame s (execVstx a0 a1 a2 a3 a4 a5 u) := by
  unfold execVstx
  repeat' first
    | (with_reducible first
        | assumption | apply same_when | apply same_vstore | apply out_same)
    | split | (dsimp only) | (intro _)

theorem same_execVldb {s u : State} {a0 a1 a2 a3} (h : Same s u) : OutSame s (execVldb a0 a1 a2 a3 u) := by
  unfold execVldb
  repeat' first
    | (with_reducible first
        | assumption | apply same_when | apply same_vload | apply out_same)
    | split | (dsimp only) | (intro _)

theorem same_execVlds {s u : State} {a0 a1 a2 a3 a4 a5} (h : Same s u) : OutSame s (execVlds a0 a1 a2 a3 a4 a5 u) := by
  unfold execVlds
  repeat' first
    | (with_reducible first
        | assumption | apply same_when | apply same_vload | apply out_same)
    | split | (dsimp only) | (intro _)

theorem same_execVsts {s u : State} {a0 a1 a2 a3 a4 a5} (h : Same s u) : OutSame s (execVsts a0 a1 a2 a3 a4 a5 u) := by
  unfold execVsts
  repeat' first
    | (with_reducible first
        | assumption | apply same_when | apply same_vstore | apply out_same)
    | split | (dsimp only) | (intro _)

theorem same_execSend {s u : State} {a0 a1 a2 a3} (h : Same s u) : OutSame s (execSend a0 a1 a2 a3 u) := by
  unfold execSend
  repeat' first
    | (with_reducible first
        | assumption | apply same_emit | apply same_mark | apply same_raiseOpen | apply same_when | apply out_same)
    | split | (dsimp only) | (intro _)

theorem same_execRecv {s u : State} {a0 a1 a2} (h : Same s u) : OutSame s (execRecv a0 a1 a2 u) := by
  unfold execRecv
  dsimp only
  repeat' first
    | (with_reducible first
        | assumption | apply same_resultV | apply same_when | apply out_same)
    | split | (dsimp only) | (intro _)

theorem same_execLsend {s u : State} {a0 a1 a2 a3 a4} (h : Same s u) : OutSame s (execLsend a0 a1 a2 a3 a4 u) := by
  unfold execLsend
  dsimp only
  repeat' first
    | (with_reducible first
        | assumption | apply same_emit | apply same_mark | apply same_raiseOpen | apply same_when | apply same_memAccess
        | apply out_same)
    | split | (dsimp only) | (intro _)

theorem same_execLrecv {s u : State} {a0 a1 a2 a3} (h : Same s u) : OutSame s (execLrecv a0 a1 a2 a3 u) := by
  unfold execLrecv
  dsimp only
  repeat' first
    | (with_reducible first
        | assumption | apply same_when | apply same_memAccess | apply same_bufferStore | apply out_same)
    | split | (dsimp only) | (intro _)

theorem same_execDsend {s u : State} {a0 a1 a2 a3 a4} (h : Same s u) : OutSame s (execDsend a0 a1 a2 a3 a4 u) := by
  unfold execDsend
  repeat' first
    | (with_reducible first
        | assumption | apply same_emit | apply same_mark | apply same_raiseOpen | apply same_when | apply out_same)
    | split | (dsimp only) | (intro _)

theorem same_execDrecv {s u : State} {a0 a1 a2} (h : Same s u) : OutSame s (execDrecv a0 a1 a2 u) := by
  unfold execDrecv
  dsimp only
  repeat' first
    | (with_reducible first
        | assumption | apply same_resultV | apply same_when | apply out_same)
    | split | (dsimp only) | (intro _)

theorem same_execFnest {s u : State} {a0 a1 a2 a3 a4} (h : Same s u) : OutSame s (execFnest a0 a1 a2 a3 a4 u) := by
  unfold execFnest
  repeat' first
    | (with_reducible first
        | assumption | apply same_emit | apply same_raiseOpen | apply same_when | apply out_same)
    | split | (dsimp only) | (intro _)

theorem same_execFbase {s u : State} {a0 a1 a2 a3} (h : Same s u) : OutSame s (execFbase a0 a1 a2 a3 u) := by
  unfold execFbase
  dsimp only
  repeat' first
    | (with_reducible first
        | assumption | apply same_emit | apply same_raiseOpen | apply same_when | apply out_same)
    | split | (dsimp only) | (intro _)

theorem same_execFidx {s u : State} {a0 a1} (h : Same s u) : OutSame s (execFidx a0 a1 u) := by
  unfold execFidx
  repeat' first
    | (with_reducible first
        | assumption | apply same_emit | apply same_raiseOpen | apply same_when | apply out_same)
    | split | (dsimp only) | (intro _)

theorem same_execFgo {s u : State} {a0 a1 a2 a3 a4 a5} (h : Same s u) : OutSame s (execFgo a0 a1 a2 a3 a4 a5 u) := by
  unfold execFgo
  repeat' first
    | (with_reducible first
        | assumption | apply same_emit | apply same_mark | apply same_raiseOpen | apply same_when | apply out_same)
    | split | (dsimp only) | (intro _)

theorem same_execFsig {s u : State} {a0 a1 a2 a3} (h : Same s u) : OutSame s (execFsig a0 a1 a2 a3 u) := by
  unfold execFsig
  repeat' first
    | (with_reducible first
        | assumption | apply same_emit | apply same_mark | apply same_raiseOpen | apply same_when | apply out_same)
    | split | (dsimp only) | (intro _)

theorem same_execFred {s u : State} {a0 a1 a2 a3 a4 a5} (h : Same s u) : OutSame s (execFred a0 a1 a2 a3 a4 a5 u) := by
  unfold execFred
  dsimp only
  repeat' first
    | (with_reducible first
        | assumption | apply same_emit | apply same_mark | apply same_raise | apply same_raiseOpen | apply same_when
        | apply out_same)
    | split | (dsimp only) | (intro _)

theorem same_execFqry {s u : State} {a0 a1 a2} (h : Same s u) : OutSame s (execFqry a0 a1 a2 u) := by
  unfold execFqry
  dsimp only
  repeat' first
    | (with_reducible first
        | assumption | apply same_emit | apply same_entryTag | apply same_when | apply out_same)
    | split | (dsimp only) | (intro _)

theorem same_execFcan {s u : State} {a0 a1 a2} (h : Same s u) : OutSame s (execFcan a0 a1 a2 u) := by
  unfold execFcan
  repeat' first
    | (with_reducible first
        | assumption | apply same_emit | apply same_when | apply out_same)
    | split | (dsimp only) | (intro _)

theorem same_rangeOp {s u : State} {a1 a2 a3} (h : Same s u) : Same s (State.rangeOp u a1 a2 a3) := by
  unfold State.rangeOp
  dsimp only
  repeat' first
    | (with_reducible first
        | assumption | apply same_emit | apply same_raiseAt)
    | split

theorem same_execWbr {s u : State} {a0 a1 a2 a3} (h : Same s u) : OutSame s (execWbr a0 a1 a2 a3 u) := by
  unfold execWbr
  repeat' first
    | (with_reducible first
        | assumption | apply same_when | apply same_rangeOp | apply out_same)
    | split | (dsimp only) | (intro _)

theorem same_execInvr {s u : State} {a0 a1 a2 a3} (h : Same s u) : OutSame s (execInvr a0 a1 a2 a3 u) := by
  unfold execInvr
  repeat' first
    | (with_reducible first
        | assumption | apply same_when | apply same_rangeOp | apply out_same)
    | split | (dsimp only) | (intro _)

theorem same_execDiscr {s u : State} {a0 a1 a2 a3} (h : Same s u) : OutSame s (execDiscr a0 a1 a2 a3 u) := by
  unfold execDiscr
  repeat' first
    | (with_reducible first
        | assumption | apply same_when | apply same_rangeOp | apply out_same)
    | split | (dsimp only) | (intro _)

theorem same_atomicOp {s u : State} {a1 a2 a3 a4 a5 a6 a7 a8 a9} (h : Same s u) :
    Same s (State.atomicOp u a1 a2 a3 a4 a5 a6 a7 a8 a9) := by
  unfold State.atomicOp
  dsimp only
  repeat' first
    | (with_reducible first
        | assumption | apply same_emit | apply same_entryTag | apply same_mark | apply same_raise | apply same_raiseAt)
    | split

theorem same_execAmo {s u : State} {a0 a1 a2 a3 a4 a5 a6} (h : Same s u) : OutSame s (execAmo a0 a1 a2 a3 a4 a5 a6 u) := by
  unfold execAmo
  repeat' first
    | (with_reducible first
        | assumption | apply same_when | apply same_atomicOp | apply out_same)
    | split | (dsimp only) | (intro _)

theorem same_execCas {s u : State} {a0 a1 a2 a3 a4 a5 a6} (h : Same s u) : OutSame s (execCas a0 a1 a2 a3 a4 a5 a6 u) := by
  unfold execCas
  repeat' first
    | (with_reducible first
        | assumption | apply same_when | apply same_atomicOp | apply out_same)
    | split | (dsimp only) | (intro _)

theorem same_basinOp {s u : State} {a : W64} {f : State → State} (h : Same s u) (hf : ∀ t, Same s t → Same s (f t)) :
    Same s (u.basinOp a f) := by
  unfold State.basinOp
  repeat' first
    | (with_reducible first
        | assumption | apply same_raiseOpen | apply same_raiseAt | apply hf)
    | split

theorem same_execBinit {s u : State} {a0 a1 a2} (h : Same s u) : OutSame s (execBinit a0 a1 a2 u) := by
  unfold execBinit
  repeat' first
    | (with_reducible first
        | assumption | apply same_emit | apply same_mark | apply same_when | apply same_basinOp | apply out_same)
    | split | (dsimp only) | (intro _)

theorem same_execBarrive {s u : State} {a0 a1 a2 a3} (h : Same s u) : OutSame s (execBarrive a0 a1 a2 a3 u) := by
  unfold execBarrive
  repeat' first
    | (with_reducible first
        | assumption | apply same_emit | apply same_mark | apply same_raiseOpen | apply same_when | apply out_same)
    | split | (dsimp only) | (intro _)

theorem same_execBexpect {s u : State} {a0 a1 a2} (h : Same s u) : OutSame s (execBexpect a0 a1 a2 u) := by
  unfold execBexpect
  repeat' first
    | (with_reducible first
        | assumption | apply same_emit | apply same_mark | apply same_when | apply same_basinOp | apply out_same)
    | split | (dsimp only) | (intro _)

theorem same_execBread {s u : State} {a0 a1 a2} (h : Same s u) : OutSame s (execBread a0 a1 a2 u) := by
  unfold execBread
  dsimp only
  repeat' first
    | (with_reducible first
        | assumption | apply same_emit | apply same_entryTag | apply same_mark | apply same_when | apply same_basinOp
        | apply out_same)
    | split | (dsimp only) | (intro _)

theorem same_execBrearm {s u : State} {a0 a1 a2} (h : Same s u) : OutSame s (execBrearm a0 a1 a2 u) := by
  unfold execBrearm
  repeat' first
    | (with_reducible first
        | assumption | apply same_emit | apply same_mark | apply same_when | apply same_basinOp | apply out_same)
    | split | (dsimp only) | (intro _)

theorem same_mcommand {s u : State} {a1 a2 a3 a4 a5 a6 a7 a8 a9} (h : Same s u) :
    Same s (State.mcommand u a1 a2 a3 a4 a5 a6 a7 a8 a9) := by
  unfold State.mcommand
  dsimp only
  repeat' first
    | (with_reducible first
        | assumption | apply same_emit | apply same_mark)

theorem same_execMldw {s u : State} {a0 a1 a2 a3 a4 a5 a6} (h : Same s u) : OutSame s (execMldw a0 a1 a2 a3 a4 a5 a6 u) := by
  unfold execMldw
  dsimp only
  repeat' first
    | (with_reducible first
        | assumption | apply same_raiseOpen | apply same_when | apply same_mcommand | apply out_same)
    | split | (dsimp only) | (intro _)

theorem same_execMswap {s u : State} {a0 a1} (h : Same s u) : OutSame s (execMswap a0 a1 u) := by
  unfold execMswap
  repeat' first
    | (with_reducible first
        | assumption | apply same_when | apply same_mcommand | apply out_same)
    | split | (dsimp only) | (intro _)

theorem same_pass {s u : State} {a1 a2 a3 a4 a5 a6 a7} (h : Same s u) : Same s (State.pass u a1 a2 a3 a4 a5 a6 a7) := by
  unfold State.pass
  dsimp only
  repeat' first
    | (with_reducible first
        | assumption | apply same_raiseOpen | apply same_mcommand)
    | split

theorem same_execMstr {s u : State} {a0 a1 a2 a3 a4 a5 a6} (h : Same s u) : OutSame s (execMstr a0 a1 a2 a3 a4 a5 a6 u) := by
  unfold execMstr
  repeat' first
    | (with_reducible first
        | assumption | apply same_when | apply same_pass | apply out_same)
    | split | (dsimp only) | (intro _)

theorem same_execMstrz {s u : State} {a0 a1 a2 a3 a4 a5 a6} (h : Same s u) : OutSame s (execMstrz a0 a1 a2 a3 a4 a5 a6 u) := by
  unfold execMstrz
  repeat' first
    | (with_reducible first
        | assumption | apply same_when | apply same_pass | apply out_same)
    | split | (dsimp only) | (intro _)

theorem same_execMcbt {s u : State} {a0 a1 a2} (h : Same s u) : OutSame s (execMcbt a0 a1 a2 u) := by
  unfold execMcbt
  dsimp only
  repeat' first
    | (with_reducible first
        | assumption | apply same_raiseOpen | apply same_when | apply same_mcommand | apply out_same)
    | split | (dsimp only) | (intro _)

theorem same_execMscl {s u : State} {a0 a1 a2} (h : Same s u) : OutSame s (execMscl a0 a1 a2 u) := by
  unfold execMscl
  repeat' first
    | (with_reducible first
        | assumption | apply same_when | apply same_mcommand | apply out_same)
    | split | (dsimp only) | (intro _)

theorem same_kread {s u : State} {acc : BitVec 3} {r : Nat} {f : State → SMap (BitVec 40) → State} (h : Same s u)
    (hf : ∀ t a, Same s t → Same s (f t a)) : Same s (u.kread acc r f) := by
  unfold State.kread
  dsimp only
  split
  · exact same_raiseAt (h.updTile fun _ => rfl)
  · exact hf _ _ (h.updTile fun _ => rfl)

theorem same_execArd {s u : State} {a0 a1 a2 a3 a4 a5 a6 a7} (h : Same s u) : OutSame s (execArd a0 a1 a2 a3 a4 a5 a6 a7 u) := by
  unfold execArd
  dsimp only
  repeat' first
    | (with_reducible first
        | assumption | apply same_resultV | apply same_when | apply same_kread | apply out_same)
    | split | (dsimp only) | (intro _)

theorem same_execArdb {s u : State} {a0 a1 a2 a3 a4 a5 a6} (h : Same s u) : OutSame s (execArdb a0 a1 a2 a3 a4 a5 a6 u) := by
  unfold execArdb
  dsimp only
  repeat' first
    | (with_reducible first
        | assumption | apply same_resultV | apply same_when | apply same_kread | apply out_same)
    | split | (dsimp only) | (intro _)

theorem same_execArdl {s u : State} {a0 a1 a2 a3 a4 a5 a6} (h : Same s u) : OutSame s (execArdl a0 a1 a2 a3 a4 a5 a6 u) := by
  unfold execArdl
  dsimp only
  repeat' first
    | (with_reducible first
        | assumption | apply same_resultV | apply same_when | apply same_kread | apply out_same)
    | split | (dsimp only) | (intro _)

theorem same_execArdl8 {s u : State} {a0 a1 a2 a3 a4 a5 a6 a7} (h : Same s u) : OutSame s (execArdl8 a0 a1 a2 a3 a4 a5 a6 a7 u) := by
  unfold execArdl8
  dsimp only
  repeat' first
    | (with_reducible first
        | assumption | apply same_resultV | apply same_when | apply same_kread | apply out_same)
    | split | (dsimp only) | (intro _)

theorem same_kwrite {s u : State} {a1 a2 a3 a4} (h : Same s u) : Same s (State.kwrite u a1 a2 a3 a4) := by
  unfold State.kwrite
  repeat' first
    | (with_reducible first
        | assumption | apply same_emit | apply same_mark)

theorem same_execAwr {s u : State} {a0 a1 a2 a3 a4 a5 a6} (h : Same s u) : OutSame s (execAwr a0 a1 a2 a3 a4 a5 a6 u) := by
  unfold execAwr
  dsimp only
  repeat' first
    | (with_reducible first
        | assumption | apply same_when | apply same_kwrite | apply out_same)
    | split | (dsimp only) | (intro _)

theorem same_execAwrb {s u : State} {a0 a1 a2 a3 a4 a5} (h : Same s u) : OutSame s (execAwrb a0 a1 a2 a3 a4 a5 u) := by
  unfold execAwrb
  dsimp only
  repeat' first
    | (with_reducible first
        | assumption | apply same_when | apply same_kwrite | apply out_same)
    | split | (dsimp only) | (intro _)

theorem same_execAclr {s u : State} {a0 a1 a2 a3 a4} (h : Same s u) : OutSame s (execAclr a0 a1 a2 a3 a4 u) := by
  unfold execAclr
  repeat' first
    | (with_reducible first
        | assumption | apply same_when | apply same_kwrite | apply out_same)
    | split | (dsimp only) | (intro _)

theorem same_execAadd {s u : State} {a0 a1 a2 a3 a4 a5} (h : Same s u) : OutSame s (execAadd a0 a1 a2 a3 a4 a5 u) := by
  unfold execAadd
  dsimp only
  repeat' first
    | (with_reducible first
        | assumption | apply same_when | apply same_kread | apply same_kwrite | apply out_same)
    | split | (dsimp only) | (intro _)

theorem same_vmap {s u : State} {a1 a2 a3 a4 a5 a6} (h : Same s u) : Same s (State.vmap u a1 a2 a3 a4 a5 a6) := by
  unfold State.vmap
  dsimp only
  repeat' first
    | (with_reducible first
        | assumption | apply same_resultV)
    | split

theorem same_vint2 {s u : State} {a1 a2 a3 a4 a5 a6 a7 a8} (h : Same s u) : OutSame s (State.vint2 u a1 a2 a3 a4 a5 a6 a7 a8) := by
  unfold State.vint2
  repeat' first
    | (with_reducible first
        | assumption | apply same_when | apply same_vmap | apply out_same)
    | split | (dsimp only) | (intro _)

theorem same_execVadd {s u : State} {a0 a1 a2 a3 a4} (h : Same s u) : OutSame s (execVadd a0 a1 a2 a3 a4 u) := by
  unfold execVadd
  repeat' first
    | (with_reducible first
        | assumption | apply same_vint2)

theorem same_execVsub {s u : State} {a0 a1 a2 a3 a4} (h : Same s u) : OutSame s (execVsub a0 a1 a2 a3 a4 u) := by
  unfold execVsub
  repeat' first
    | (with_reducible first
        | assumption | apply same_vint2)

theorem same_execVmul {s u : State} {a0 a1 a2 a3 a4} (h : Same s u) : OutSame s (execVmul a0 a1 a2 a3 a4 u) := by
  unfold execVmul
  repeat' first
    | (with_reducible first
        | assumption | apply same_vint2)

theorem same_execVand {s u : State} {a0 a1 a2 a3 a4} (h : Same s u) : OutSame s (execVand a0 a1 a2 a3 a4 u) := by
  unfold execVand
  repeat' first
    | (with_reducible first
        | assumption | apply same_vint2)

theorem same_execVor {s u : State} {a0 a1 a2 a3 a4} (h : Same s u) : OutSame s (execVor a0 a1 a2 a3 a4 u) := by
  unfold execVor
  repeat' first
    | (with_reducible first
        | assumption | apply same_vint2)

theorem same_execVxor {s u : State} {a0 a1 a2 a3 a4} (h : Same s u) : OutSame s (execVxor a0 a1 a2 a3 a4 u) := by
  unfold execVxor
  repeat' first
    | (with_reducible first
        | assumption | apply same_vint2)

theorem same_execVshl {s u : State} {a0 a1 a2 a3 a4} (h : Same s u) : OutSame s (execVshl a0 a1 a2 a3 a4 u) := by
  unfold execVshl
  repeat' first
    | (with_reducible first
        | assumption | apply same_vint2)

theorem same_execVshr {s u : State} {a0 a1 a2 a3 a4} (h : Same s u) : OutSame s (execVshr a0 a1 a2 a3 a4 u) := by
  unfold execVshr
  repeat' first
    | (with_reducible first
        | assumption | apply same_vint2)

theorem same_execVsra {s u : State} {a0 a1 a2 a3 a4} (h : Same s u) : OutSame s (execVsra a0 a1 a2 a3 a4 u) := by
  unfold execVsra
  repeat' first
    | (with_reducible first
        | assumption | apply same_vint2)

theorem same_execVmin {s u : State} {a0 a1 a2 a3 a4} (h : Same s u) : OutSame s (execVmin a0 a1 a2 a3 a4 u) := by
  unfold execVmin
  repeat' first
    | (with_reducible first
        | assumption | apply same_vint2)

theorem same_execVmax {s u : State} {a0 a1 a2 a3 a4} (h : Same s u) : OutSame s (execVmax a0 a1 a2 a3 a4 u) := by
  unfold execVmax
  repeat' first
    | (with_reducible first
        | assumption | apply same_vint2)

theorem same_execVminu {s u : State} {a0 a1 a2 a3 a4} (h : Same s u) : OutSame s (execVminu a0 a1 a2 a3 a4 u) := by
  unfold execVminu
  repeat' first
    | (with_reducible first
        | assumption | apply same_vint2)

theorem same_execVmaxu {s u : State} {a0 a1 a2 a3 a4} (h : Same s u) : OutSame s (execVmaxu a0 a1 a2 a3 a4 u) := by
  unfold execVmaxu
  repeat' first
    | (with_reducible first
        | assumption | apply same_vint2)

theorem same_resultQ {s u : State} {a1 a2 a3 a4 a5} (h : Same s u) : Same s (State.resultQ u a1 a2 a3 a4 a5) := by
  unfold State.resultQ
  repeat' first
    | (with_reducible first
        | assumption | apply same_emit)

theorem same_vmask {s u : State} {a1 a2 a3 a4} (h : Same s u) : Same s (State.vmask u a1 a2 a3 a4) := by
  unfold State.vmask
  dsimp only
  repeat' first
    | (with_reducible first
        | assumption | apply same_resultQ)
    | split

theorem same_execVcmp {s u : State} {a0 a1 a2 a3 a4 a5} (h : Same s u) : OutSame s (execVcmp a0 a1 a2 a3 a4 a5 u) := by
  unfold execVcmp
  repeat' first
    | (with_reducible first
        | assumption | apply same_when | apply same_vmask | apply out_same)
    | split | (dsimp only) | (intro _)

theorem same_execVadds {s u : State} {a0 a1 a2 a3 a4} (h : Same s u) : OutSame s (execVadds a0 a1 a2 a3 a4 u) := by
  unfold execVadds
  repeat' first
    | (with_reducible first
        | assumption | apply same_vint2)

theorem same_vop2 {s u : State} {a1 a2 a3 a4 a5 a6 a7 a8} (h : Same s u) : OutSame s (State.vop2 u a1 a2 a3 a4 a5 a6 a7 a8) := by
  unfold State.vop2
  repeat' first
    | (with_reducible first
        | assumption | apply same_when | apply same_vmap | apply out_same)
    | split | (dsimp only) | (intro _)

theorem same_execVfadd {s u : State} {a0 a1 a2 a3 a4 a5} (h : Same s u) : OutSame s (execVfadd a0 a1 a2 a3 a4 a5 u) := by
  unfold execVfadd
  repeat' first
    | (with_reducible first
        | assumption | apply same_vop2)

theorem same_execVfsub {s u : State} {a0 a1 a2 a3 a4 a5} (h : Same s u) : OutSame s (execVfsub a0 a1 a2 a3 a4 a5 u) := by
  unfold execVfsub
  repeat' first
    | (with_reducible first
        | assumption | apply same_vop2)

theorem same_execVfmul {s u : State} {a0 a1 a2 a3 a4 a5} (h : Same s u) : OutSame s (execVfmul a0 a1 a2 a3 a4 a5 u) := by
  unfold execVfmul
  repeat' first
    | (with_reducible first
        | assumption | apply same_vop2)

theorem same_vop3 {s u : State} {a1 a2 a3 a4 a5 a6 a7 a8 a9} (h : Same s u) :
    OutSame s (State.vop3 u a1 a2 a3 a4 a5 a6 a7 a8 a9) := by
  unfold State.vop3
  repeat' first
    | (with_reducible first
        | assumption | apply same_when | apply same_vmap | apply out_same)
    | split | (dsimp only) | (intro _)

theorem same_execVfma {s u : State} {a0 a1 a2 a3 a4 a5 a6} (h : Same s u) : OutSame s (execVfma a0 a1 a2 a3 a4 a5 a6 u) := by
  unfold execVfma
  repeat' first
    | (with_reducible first
        | assumption | apply same_vop3)

theorem same_execVfnma {s u : State} {a0 a1 a2 a3 a4 a5 a6} (h : Same s u) : OutSame s (execVfnma a0 a1 a2 a3 a4 a5 a6 u) := by
  unfold execVfnma
  repeat' first
    | (with_reducible first
        | assumption | apply same_vop3)

theorem same_execVfmin {s u : State} {a0 a1 a2 a3 a4} (h : Same s u) : OutSame s (execVfmin a0 a1 a2 a3 a4 u) := by
  unfold execVfmin
  repeat' first
    | (with_reducible first
        | assumption | apply same_vop2)

theorem same_execVfmax {s u : State} {a0 a1 a2 a3 a4} (h : Same s u) : OutSame s (execVfmax a0 a1 a2 a3 a4 u) := by
  unfold execVfmax
  repeat' first
    | (with_reducible first
        | assumption | apply same_vop2)

theorem same_execVfcmp {s u : State} {a0 a1 a2 a3 a4 a5} (h : Same s u) : OutSame s (execVfcmp a0 a1 a2 a3 a4 a5 u) := by
  unfold execVfcmp
  repeat' first
    | (with_reducible first
        | assumption | apply same_when | apply same_vmask | apply out_same)
    | split | (dsimp only) | (intro _)

theorem same_vop1 {s u : State} {a1 a2 a3 a4 a5 a6 a7} (h : Same s u) : OutSame s (State.vop1 u a1 a2 a3 a4 a5 a6 a7) := by
  unfold State.vop1
  repeat' first
    | (with_reducible first
        | assumption | apply same_when | apply same_vmap | apply out_same)
    | split | (dsimp only) | (intro _)

theorem same_execVfabs {s u : State} {a0 a1 a2 a3} (h : Same s u) : OutSame s (execVfabs a0 a1 a2 a3 u) := by
  unfold execVfabs
  repeat' first
    | (with_reducible first
        | assumption | apply same_vop1)

theorem same_execVfneg {s u : State} {a0 a1 a2 a3} (h : Same s u) : OutSame s (execVfneg a0 a1 a2 a3 u) := by
  unfold execVfneg
  repeat' first
    | (with_reducible first
        | assumption | apply same_vop1)

theorem same_execVbadd {s u : State} {a0 a1 a2 a3 a4 a5} (h : Same s u) : OutSame s (execVbadd a0 a1 a2 a3 a4 a5 u) := by
  unfold execVbadd
  repeat' first
    | (with_reducible first
        | assumption | apply same_vop2)

theorem same_execVbmul {s u : State} {a0 a1 a2 a3 a4 a5} (h : Same s u) : OutSame s (execVbmul a0 a1 a2 a3 a4 a5 u) := by
  unfold execVbmul
  repeat' first
    | (with_reducible first
        | assumption | apply same_vop2)

theorem same_execVbfma {s u : State} {a0 a1 a2 a3 a4 a5 a6} (h : Same s u) : OutSame s (execVbfma a0 a1 a2 a3 a4 a5 a6 u) := by
  unfold execVbfma
  repeat' first
    | (with_reducible first
        | assumption | apply same_vop3)

theorem same_execVfrnd {s u : State} {a0 a1 a2 a3 a4} (h : Same s u) : OutSame s (execVfrnd a0 a1 a2 a3 a4 u) := by
  unfold execVfrnd
  repeat' first
    | (with_reducible first
        | assumption | apply same_vop1)

theorem same_execVlmul {s u : State} {a0 a1 a2 a3 a4} (h : Same s u) : OutSame s (execVlmul a0 a1 a2 a3 a4 u) := by
  unfold execVlmul
  repeat' first
    | (with_reducible first
        | assumption | apply same_vop2)

theorem same_execVldiv {s u : State} {a0 a1 a2 a3 a4} (h : Same s u) : OutSame s (execVldiv a0 a1 a2 a3 a4 u) := by
  unfold execVldiv
  repeat' first
    | (with_reducible first
        | assumption | apply same_vop2)

theorem same_execVlsqrt {s u : State} {a0 a1 a2 a3} (h : Same s u) : OutSame s (execVlsqrt a0 a1 a2 a3 u) := by
  unfold execVlsqrt
  repeat' first
    | (with_reducible first
        | assumption | apply same_vop1)

theorem same_execVlinv {s u : State} {a0 a1 a2 a3} (h : Same s u) : OutSame s (execVlinv a0 a1 a2 a3 u) := by
  unfold execVlinv
  repeat' first
    | (with_reducible first
        | assumption | apply same_vop1)

theorem same_execVcvt {s u : State} {a0 a1 a2 a3 a4 a5 a6 a7} (h : Same s u) : OutSame s (execVcvt a0 a1 a2 a3 a4 a5 a6 a7 u) := by
  unfold execVcvt
  repeat' first
    | (with_reducible first
        | assumption | apply same_when | apply same_vmap | apply out_same)
    | split | (dsimp only) | (intro _)

theorem same_execVexp2 {s u : State} {a0 a1 a2 a3 a4} (h : Same s u) : OutSame s (execVexp2 a0 a1 a2 a3 a4 u) := by
  unfold execVexp2
  repeat' first
    | (with_reducible first
        | assumption | apply same_vop1)

theorem same_execVlog2 {s u : State} {a0 a1 a2 a3 a4} (h : Same s u) : OutSame s (execVlog2 a0 a1 a2 a3 a4 u) := by
  unfold execVlog2
  repeat' first
    | (with_reducible first
        | assumption | apply same_vop1)

theorem same_execVmov {s u : State} {a0 a1 a2 a3} (h : Same s u) : OutSame s (execVmov a0 a1 a2 a3 u) := by
  unfold execVmov
  repeat' first
    | (with_reducible first
        | assumption | apply same_when | apply same_vmap | apply out_same)
    | split | (dsimp only) | (intro _)

theorem same_execVsel {s u : State} {a0 a1 a2 a3 a4 a5} (h : Same s u) : OutSame s (execVsel a0 a1 a2 a3 a4 a5 u) := by
  unfold execVsel
  repeat' first
    | (with_reducible first
        | assumption | apply same_when | apply same_vmap | apply out_same)
    | split | (dsimp only) | (intro _)

theorem same_execVperm {s u : State} {a0 a1 a2 a3 a4} (h : Same s u) : OutSame s (execVperm a0 a1 a2 a3 a4 u) := by
  unfold execVperm
  repeat' first
    | (with_reducible first
        | assumption | apply same_when | apply same_vmap | apply out_same)
    | split | (dsimp only) | (intro _)

theorem same_execVrot {s u : State} {a0 a1 a2 a3 a4} (h : Same s u) : OutSame s (execVrot a0 a1 a2 a3 a4 u) := by
  unfold execVrot
  repeat' first
    | (with_reducible first
        | assumption | apply same_when | apply same_vmap | apply out_same)
    | split | (dsimp only) | (intro _)

theorem same_execVred {s u : State} {a0 a1 a2 a3 a4 a5 a6} (h : Same s u) : OutSame s (execVred a0 a1 a2 a3 a4 a5 a6 u) := by
  unfold execVred
  dsimp only
  repeat' first
    | (with_reducible first
        | assumption | apply same_resultV | apply same_when | apply out_same)
    | split | (dsimp only) | (intro _)

theorem same_execVext {s u : State} {a0 a1 a2 a3} (h : Same s u) : OutSame s (execVext a0 a1 a2 a3 u) := by
  unfold execVext
  repeat' first
    | (with_reducible first
        | assumption | apply same_resultS | apply same_when | apply out_same)
    | split | (dsimp only) | (intro _)

theorem same_execVins {s u : State} {a0 a1 a2 a3} (h : Same s u) : OutSame s (execVins a0 a1 a2 a3 u) := by
  unfold execVins
  repeat' first
    | (with_reducible first
        | assumption | apply same_resultV | apply same_when | apply out_same)
    | split | (dsimp only) | (intro _)

theorem same_execViota {s u : State} {a0 a1 a2} (h : Same s u) : OutSame s (execViota a0 a1 a2 u) := by
  unfold execViota
  repeat' first
    | (with_reducible first
        | assumption | apply same_when | apply same_vmap | apply out_same)
    | split | (dsimp only) | (intro _)

theorem same_execVpack {s u : State} {a0 a1 a2 a3} (h : Same s u) : OutSame s (execVpack a0 a1 a2 a3 u) := by
  unfold execVpack
  repeat' first
    | (with_reducible first
        | assumption | apply same_resultV | apply same_when | apply out_same)
    | split | (dsimp only) | (intro _)

theorem same_execVunpk {s u : State} {a0 a1 a2 a3 a4} (h : Same s u) : OutSame s (execVunpk a0 a1 a2 a3 a4 u) := by
  unfold execVunpk
  repeat' first
    | (with_reducible first
        | assumption | apply same_when | apply same_vmap | apply out_same)
    | split | (dsimp only) | (intro _)

theorem same_execQlog {s u : State} {a0 a1 a2 a3 a4} (h : Same s u) : OutSame s (execQlog a0 a1 a2 a3 a4 u) := by
  unfold execQlog
  repeat' first
    | (with_reducible first
        | assumption | apply same_resultQ | apply same_when | apply out_same)
    | split | (dsimp only) | (intro _)

theorem same_execQset {s u : State} {a0 a1} (h : Same s u) : OutSame s (execQset a0 a1 u) := by
  unfold execQset
  repeat' first
    | (with_reducible first
        | assumption | apply same_resultQ | apply same_when | apply out_same)
    | split | (dsimp only) | (intro _)

theorem same_execQget {s u : State} {a0 a1 a2} (h : Same s u) : OutSame s (execQget a0 a1 a2 u) := by
  unfold execQget
  repeat' first
    | (with_reducible first
        | assumption | apply same_resultS | apply same_when | apply out_same)
    | split | (dsimp only) | (intro _)

theorem same_vint1 {s u : State} {a1 a2 a3 a4 a5 a6 a7} (h : Same s u) : OutSame s (State.vint1 u a1 a2 a3 a4 a5 a6 a7) := by
  unfold State.vint1
  repeat' first
    | (with_reducible first
        | assumption | apply same_when | apply same_vmap | apply out_same)
    | split | (dsimp only) | (intro _)

theorem same_execVclz {s u : State} {a0 a1 a2 a3} (h : Same s u) : OutSame s (execVclz a0 a1 a2 a3 u) := by
  unfold execVclz
  repeat' first
    | (with_reducible first
        | assumption | apply same_vint1)

theorem same_execVpopc {s u : State} {a0 a1 a2 a3} (h : Same s u) : OutSame s (execVpopc a0 a1 a2 a3 u) := by
  unfold execVpopc
  repeat' first
    | (with_reducible first
        | assumption | apply same_vint1)

theorem same_execVmulh {s u : State} {a0 a1 a2 a3 a4} (h : Same s u) : OutSame s (execVmulh a0 a1 a2 a3 a4 u) := by
  unfold execVmulh
  repeat' first
    | (with_reducible first
        | assumption | apply same_vint2)

end Sys2Proof.Machine
end

