-- ==== Sys2Proof/Laws/PerInstr.lean ====
section
/-! SUPPORT. Per-instruction laws. `Encoded`: the fields an encoding packs are the fields the raw decoder cuts out. -/

namespace Sys2Proof.Laws

/-- Cutting a syllable's words by its class's table gives the syllable back; a package step has no words. -/
def Encoded.Statement (i : Instr) : Prop := i.cls ≠ .event → rawOf i.cls (encode i) = some i

theorem Encoded.powerUp : Encoded.Statement .powerUp := fun h => absurd rfl h

theorem Encoded.imgwr : Encoded.Statement .imgwr := fun h => absurd rfl h

theorem Encoded.ltwr : Encoded.Statement .ltwr := fun h => absurd rfl h

theorem Encoded.ltctlKill : Encoded.Statement .ltctlKill := fun h => absurd rfl h

theorem Encoded.ltctlClear : Encoded.Statement .ltctlClear := fun h => absurd rfl h

theorem Encoded.unknownFrame : Encoded.Statement .unknownFrame := fun h => absurd rfl h

theorem Encoded.evrd : Encoded.Statement .evrd := fun h => absurd rfl h

theorem Encoded.evrdMailbox : Encoded.Statement .evrdMailbox := fun h => absurd rfl h

theorem Encoded.ptp : Encoded.Statement .ptp := fun h => absurd rfl h

theorem Encoded.portsel : Encoded.Statement .portsel := fun h => absurd rfl h

theorem Encoded.asidgrant : Encoded.Statement .asidgrant := fun h => absurd rfl h

theorem Encoded.asidrevoke : Encoded.Statement .asidrevoke := fun h => absurd rfl h

theorem Encoded.tlbinv : Encoded.Statement .tlbinv := fun h => absurd rfl h

theorem Encoded.pagein : Encoded.Statement .pagein := fun h => absurd rfl h

theorem Encoded.pagedeny : Encoded.Statement .pagedeny := fun h => absurd rfl h

theorem Encoded.preemptRequest : Encoded.Statement .preemptRequest := fun h => absurd rfl h

theorem Encoded.resume : Encoded.Statement .resume := fun h => absurd rfl h

theorem Encoded.snapnow : Encoded.Statement .snapnow := fun h => absurd rfl h

theorem Encoded.snapclr : Encoded.Statement .snapclr := fun h => absurd rfl h

theorem Encoded.dieReset (d : BitVec 2) : Encoded.Statement (.dieReset d) := fun h => absurd rfl h

theorem Encoded.dieLive (d : BitVec 2) : Encoded.Statement (.dieLive d) := fun h => absurd rfl h

theorem Encoded.hostInterrupt : Encoded.Statement .hostInterrupt := fun h => absurd rfl h

theorem Encoded.getVersion : Encoded.Statement .getVersion := fun h => absurd rfl h

theorem Encoded.getCapabilities : Encoded.Statement .getCapabilities := fun h => absurd rfl h

theorem Encoded.negotiateAlgorithms : Encoded.Statement .negotiateAlgorithms := fun h => absurd rfl h

theorem Encoded.getDigests : Encoded.Statement .getDigests := fun h => absurd rfl h

theorem Encoded.getCertificate : Encoded.Statement .getCertificate := fun h => absurd rfl h

theorem Encoded.challenge : Encoded.Statement .challenge := fun h => absurd rfl h

theorem Encoded.getMeasurements : Encoded.Statement .getMeasurements := fun h => absurd rfl h

theorem Encoded.keyExchange : Encoded.Statement .keyExchange := fun h => absurd rfl h

theorem Encoded.finish : Encoded.Statement .finish := fun h => absurd rfl h

theorem Encoded.endSession : Encoded.Statement .endSession := fun h => absurd rfl h

theorem Encoded.spdmUnsupportedRequest : Encoded.Statement .spdmUnsupportedRequest := fun h => absurd rfl h

theorem Encoded.mgmtRegisterWrite : Encoded.Statement .mgmtRegisterWrite := fun h => absurd rfl h

theorem Encoded.dbgbWrite : Encoded.Statement .dbgbWrite := fun h => absurd rfl h

theorem Encoded.tinjWrite : Encoded.Statement .tinjWrite := fun h => absurd rfl h

theorem Encoded.minjWrite : Encoded.Statement .minjWrite := fun h => absurd rfl h

theorem Encoded.actionEntryWrite : Encoded.Statement .actionEntryWrite := fun h => absurd rfl h

theorem Encoded.snapcmpWrite : Encoded.Statement .snapcmpWrite := fun h => absurd rfl h

theorem Encoded.tileMapWrite : Encoded.Statement .tileMapWrite := fun h => absurd rfl h

theorem Encoded.admission (e : BitVec 8) : Encoded.Statement (.admission e) := fun h => absurd rfl h

theorem Encoded.launchStart (e : BitVec 8) : Encoded.Statement (.launchStart e) := fun h => absurd rfl h

theorem Encoded.dynamicRelease (e : BitVec 8) : Encoded.Statement (.dynamicRelease e) := fun h => absurd rfl h

theorem Encoded.regionRelease (r : Nat) : Encoded.Statement (.regionRelease r) := fun h => absurd rfl h

theorem Encoded.taskStart (r : Nat) : Encoded.Statement (.taskStart r) := fun h => absurd rfl h

theorem Encoded.taskEnd (r : Nat) : Encoded.Statement (.taskEnd r) := fun h => absurd rfl h

theorem Encoded.bundleIssue (t : Nat) : Encoded.Statement (.bundleIssue t) := fun h => absurd rfl h

theorem Encoded.signatureBundle (t : Nat) : Encoded.Statement (.signatureBundle t) := fun h => absurd rfl h

theorem Encoded.blockRerun (t : Nat) : Encoded.Statement (.blockRerun t) := fun h => absurd rfl h

theorem Encoded.tileRetire (t : Nat) : Encoded.Statement (.tileRetire t) := fun h => absurd rfl h

theorem Encoded.secondaryIssue (t : Nat) : Encoded.Statement (.secondaryIssue t) := fun h => absurd rfl h

theorem Encoded.handlerBundleIssue (t : Nat) : Encoded.Statement (.handlerBundleIssue t) := fun h => absurd rfl h

theorem Encoded.gateHoldRelease (t : Nat) : Encoded.Statement (.gateHoldRelease t) := fun h => absurd rfl h

theorem Encoded.engineCommandStart (t : Nat) (far : Bool) : Encoded.Statement (.engineCommandStart t far) := fun h => absurd rfl h

theorem Encoded.holdBudget (r : Nat) : Encoded.Statement (.holdBudget r) := fun h => absurd rfl h

theorem Encoded.rdvLeave (r : Nat) : Encoded.Statement (.rdvLeave r) := fun h => absurd rfl h

theorem Encoded.stretchResult : Encoded.Statement .stretchResult := fun h => absurd rfl h

theorem Encoded.timerCompare (t : Nat) : Encoded.Statement (.timerCompare t) := fun h => absurd rfl h

theorem Encoded.waitiWake (t : Nat) : Encoded.Statement (.waitiWake t) := fun h => absurd rfl h

theorem Encoded.eventFifoDrain (src : Nat) : Encoded.Statement (.eventFifoDrain src) := fun h => absurd rfl h

theorem Encoded.tlbQuery (q : Nat) : Encoded.Statement (.tlbQuery q) := fun h => absurd rfl h

theorem Encoded.tlbWalkDone (w : Nat) : Encoded.Statement (.tlbWalkDone w) := fun h => absurd rfl h

theorem Encoded.tlbinvAck (n : Nat) (d : BitVec 2) : Encoded.Statement (.tlbinvAck n d) := fun h => absurd rfl h

theorem Encoded.invalTimeout (n : Nat) (d : BitVec 2) : Encoded.Statement (.invalTimeout n d) := fun h => absurd rfl h

theorem Encoded.rdBurstLanding (q : Nat) : Encoded.Statement (.rdBurstLanding q) := fun h => absurd rfl h

theorem Encoded.parkedBurstWrite (q : Nat) : Encoded.Statement (.parkedBurstWrite q) := fun h => absurd rfl h

theorem Encoded.refreshDebtRise (q : Nat) : Encoded.Statement (.refreshDebtRise q) := fun h => absurd rfl h

theorem Encoded.autonomousRefresh (q : Nat) : Encoded.Statement (.autonomousRefresh q) := fun h => absurd rfl h

theorem Encoded.cachedWindowOpen (q : Nat) : Encoded.Statement (.cachedWindowOpen q) := fun h => absurd rfl h

theorem Encoded.cachedPathAccess (q : Nat) : Encoded.Statement (.cachedPathAccess q) := fun h => absurd rfl h

theorem Encoded.timedHop (x : Nat) : Encoded.Statement (.timedHop x) := fun h => absurd rfl h

theorem Encoded.meshLatchWrite (x : Nat) : Encoded.Statement (.meshLatchWrite x) := fun h => absurd rfl h

theorem Encoded.dieLatchWrite (x : Nat) : Encoded.Statement (.dieLatchWrite x) := fun h => absurd rfl h

theorem Encoded.bePacketHop (k : Nat) : Encoded.Statement (.bePacketHop k) := fun h => absurd rfl h

theorem Encoded.cacheRequest (k : Nat) : Encoded.Statement (.cacheRequest k) := fun h => absurd rfl h

theorem Encoded.sectorFill (k : Nat) : Encoded.Statement (.sectorFill k) := fun h => absurd rfl h

theorem Encoded.writebackApply (k : Nat) : Encoded.Statement (.writebackApply k) := fun h => absurd rfl h

theorem Encoded.rebalance (d : BitVec 2) : Encoded.Statement (.rebalance d) := fun h => absurd rfl h

theorem Encoded.bucketMoveEnd (d : BitVec 2) : Encoded.Statement (.bucketMoveEnd d) := fun h => absurd rfl h

theorem Encoded.causalUpdateArrive (k : Nat) (d : Nat) : Encoded.Statement (.causalUpdateArrive k d) := fun h => absurd rfl h

theorem Encoded.causalUpdateApply (d : Nat) (w : Nat) : Encoded.Statement (.causalUpdateApply d w) := fun h => absurd rfl h

theorem Encoded.causalMissAnswer (k : Nat) : Encoded.Statement (.causalMissAnswer k) := fun h => absurd rfl h

theorem Encoded.rangePerformed (k : Nat) : Encoded.Statement (.rangePerformed k) := fun h => absurd rfl h

theorem Encoded.copyExpansion (t : Nat) : Encoded.Statement (.copyExpansion t) := fun h => absurd rfl h

theorem Encoded.copyIssue (t : Nat) (cls : BitVec 2) : Encoded.Statement (.copyIssue t cls) := fun h => absurd rfl h

theorem Encoded.releaseEvent (t : Nat) (slot : BitVec 6) (sec : Nat) : Encoded.Statement (.releaseEvent t slot sec) := fun h => absurd rfl h

theorem Encoded.visibilityEvent (t : Nat) (slot : BitVec 6) (sec : Nat) : Encoded.Statement (.visibilityEvent t slot sec) := fun h => absurd rfl h

theorem Encoded.remoteDecrement (job : BitVec 32) (b : W64) (sectors : Bool) (count : Nat) (tag : Tag) (clock : List Nat) : Encoded.Statement (.remoteDecrement job b sectors count tag clock) := fun h => absurd rfl h

theorem Encoded.copyAgeTimeout (t : Nat) (slot : BitVec 6) : Encoded.Statement (.copyAgeTimeout t slot) := fun h => absurd rfl h

theorem Encoded.linkDown (route : Route) : Encoded.Statement (.linkDown route) := fun h => absurd rfl h

theorem Encoded.fsigApply (t : Nat) (slot : BitVec 6) : Encoded.Statement (.fsigApply t slot) := fun h => absurd rfl h

theorem Encoded.fredSend (t : Nat) (slot : BitVec 6) : Encoded.Statement (.fredSend t slot) := fun h => absurd rfl h

theorem Encoded.fredResultSector (t : Nat) (slot : BitVec 6) (sec : Nat) (data : BitVec 512) : Encoded.Statement (.fredResultSector t slot sec data) := fun h => absurd rfl h

theorem Encoded.ldfReturn (k : Nat) : Encoded.Statement (.ldfReturn k) := fun h => absurd rfl h

theorem Encoded.atomicReturn (k : Nat) : Encoded.Statement (.atomicReturn k) := fun h => absurd rfl h

theorem Encoded.farAnswerTimeout (k : Nat) : Encoded.Statement (.farAnswerTimeout k) := fun h => absurd rfl h

theorem Encoded.barriveRelease (t : Nat) (sec : Bool) : Encoded.Statement (.barriveRelease t sec) := fun h => absurd rfl h

theorem Encoded.contributionArrival : Encoded.Statement .contributionArrival := fun h => absurd rfl h

theorem Encoded.roundDeadline (grp : BitVec 16) (n : Nat) : Encoded.Statement (.roundDeadline grp n) := fun h => absurd rfl h

theorem Encoded.flitRetry : Encoded.Statement .flitRetry := fun h => absurd rfl h

theorem Encoded.overrunNotice : Encoded.Statement .overrunNotice := fun h => absurd rfl h

theorem Encoded.jobHoldBegin (job : BitVec 32) : Encoded.Statement (.jobHoldBegin job) := fun h => absurd rfl h

theorem Encoded.jobHoldEnd (job : BitVec 32) : Encoded.Statement (.jobHoldEnd job) := fun h => absurd rfl h

theorem Encoded.sensorRead : Encoded.Statement .sensorRead := fun h => absurd rfl h

theorem Encoded.contextSaveDone (e : BitVec 8) : Encoded.Statement (.contextSaveDone e) := fun h => absurd rfl h

theorem Encoded.contextRestoreDone (e : BitVec 8) : Encoded.Statement (.contextRestoreDone e) := fun h => absurd rfl h

theorem Encoded.snapcmpMatch : Encoded.Statement .snapcmpMatch := fun h => absurd rfl h

theorem Encoded.snapshotLatch : Encoded.Statement .snapshotLatch := fun h => absurd rfl h

theorem Encoded.jobHoldNotice : Encoded.Statement .jobHoldNotice := fun h => absurd rfl h

theorem Encoded.replacement (e : BitVec 8) : Encoded.Statement (.replacement e) := fun h => absurd rfl h

theorem Encoded.jobReleaseNotice : Encoded.Statement .jobReleaseNotice := fun h => absurd rfl h

theorem Encoded.add (p : BitVec 4) (d : BitVec 6) (a : BitVec 6) (b : BitVec 6) : Encoded.Statement (.add p d a b) := fun _ => by
  have ha : Layout.apart 0 [(25, 7), (21, 4), (15, 6), (9, 6), (3, 6)] = true := by decide
  have hv : Fits [(25, 7, 0x1), (21, 4, p.toNat), (15, 6, d.toNat), (9, 6, a.toNat), (3, 6, b.toNat)] := ⟨by decide, p.isLt, d.isLt, a.isLt, b.isLt, trivial⟩
  refine (congrArg (fun o => rawScalarOp o (pack 0 [(25, 7, 0x1), (21, 4, p.toNat), (15, 6, d.toNat), (9, 6, a.toNat), (3, 6, b.toNat)])) (pack_at ha rfl hv 0 25 7 0x1 rfl)).trans ?_
  exact congrArg some (by rw [fld_at ha rfl hv 1 21 p rfl, fld_at ha rfl hv 2 15 d rfl, fld_at ha rfl hv 3 9 a rfl, fld_at ha rfl hv 4 3 b rfl])

theorem Encoded.sub (p : BitVec 4) (d : BitVec 6) (a : BitVec 6) (b : BitVec 6) : Encoded.Statement (.sub p d a b) := fun _ => by
  have ha : Layout.apart 0 [(25, 7), (21, 4), (15, 6), (9, 6), (3, 6)] = true := by decide
  have hv : Fits [(25, 7, 0x2), (21, 4, p.toNat), (15, 6, d.toNat), (9, 6, a.toNat), (3, 6, b.toNat)] := ⟨by decide, p.isLt, d.isLt, a.isLt, b.isLt, trivial⟩
  refine (congrArg (fun o => rawScalarOp o (pack 0 [(25, 7, 0x2), (21, 4, p.toNat), (15, 6, d.toNat), (9, 6, a.toNat), (3, 6, b.toNat)])) (pack_at ha rfl hv 0 25 7 0x2 rfl)).trans ?_
  exact congrArg some (by rw [fld_at ha rfl hv 1 21 p rfl, fld_at ha rfl hv 2 15 d rfl, fld_at ha rfl hv 3 9 a rfl, fld_at ha rfl hv 4 3 b rfl])

theorem Encoded.addi (p : BitVec 4) (d : BitVec 6) (a : BitVec 6) (imm : BitVec 9) : Encoded.Statement (.addi p d a imm) := fun _ => by
  have ha : Layout.apart 0 [(25, 7), (21, 4), (15, 6), (9, 6), (0, 9)] = true := by decide
  have hv : Fits [(25, 7, 0x3), (21, 4, p.toNat), (15, 6, d.toNat), (9, 6, a.toNat), (0, 9, imm.toNat)] := ⟨by decide, p.isLt, d.isLt, a.isLt, imm.isLt, trivial⟩
  refine (congrArg (fun o => rawScalarOp o (pack 0 [(25, 7, 0x3), (21, 4, p.toNat), (15, 6, d.toNat), (9, 6, a.toNat), (0, 9, imm.toNat)])) (pack_at ha rfl hv 0 25 7 0x3 rfl)).trans ?_
  exact congrArg some (by rw [fld_at ha rfl hv 1 21 p rfl, fld_at ha rfl hv 2 15 d rfl, fld_at ha rfl hv 3 9 a rfl, fld_at ha rfl hv 4 0 imm rfl])

theorem Encoded.and (p : BitVec 4) (d : BitVec 6) (a : BitVec 6) (b : BitVec 6) : Encoded.Statement (.and p d a b) := fun _ => by
  have ha : Layout.apart 0 [(25, 7), (21, 4), (15, 6), (9, 6), (3, 6)] = true := by decide
  have hv : Fits [(25, 7, 0x4), (21, 4, p.toNat), (15, 6, d.toNat), (9, 6, a.toNat), (3, 6, b.toNat)] := ⟨by decide, p.isLt, d.isLt, a.isLt, b.isLt, trivial⟩
  refine (congrArg (fun o => rawScalarOp o (pack 0 [(25, 7, 0x4), (21, 4, p.toNat), (15, 6, d.toNat), (9, 6, a.toNat), (3, 6, b.toNat)])) (pack_at ha rfl hv 0 25 7 0x4 rfl)).trans ?_
  exact congrArg some (by rw [fld_at ha rfl hv 1 21 p rfl, fld_at ha rfl hv 2 15 d rfl, fld_at ha rfl hv 3 9 a rfl, fld_at ha rfl hv 4 3 b rfl])

theorem Encoded.or (p : BitVec 4) (d : BitVec 6) (a : BitVec 6) (b : BitVec 6) : Encoded.Statement (.or p d a b) := fun _ => by
  have ha : Layout.apart 0 [(25, 7), (21, 4), (15, 6), (9, 6), (3, 6)] = true := by decide
  have hv : Fits [(25, 7, 0x5), (21, 4, p.toNat), (15, 6, d.toNat), (9, 6, a.toNat), (3, 6, b.toNat)] := ⟨by decide, p.isLt, d.isLt, a.isLt, b.isLt, trivial⟩
  refine (congrArg (fun o => rawScalarOp o (pack 0 [(25, 7, 0x5), (21, 4, p.toNat), (15, 6, d.toNat), (9, 6, a.toNat), (3, 6, b.toNat)])) (pack_at ha rfl hv 0 25 7 0x5 rfl)).trans ?_
  exact congrArg some (by rw [fld_at ha rfl hv 1 21 p rfl, fld_at ha rfl hv 2 15 d rfl, fld_at ha rfl hv 3 9 a rfl, fld_at ha rfl hv 4 3 b rfl])

theorem Encoded.xor (p : BitVec 4) (d : BitVec 6) (a : BitVec 6) (b : BitVec 6) : Encoded.Statement (.xor p d a b) := fun _ => by
  have ha : Layout.apart 0 [(25, 7), (21, 4), (15, 6), (9, 6), (3, 6)] = true := by decide
  have hv : Fits [(25, 7, 0x6), (21, 4, p.toNat), (15, 6, d.toNat), (9, 6, a.toNat), (3, 6, b.toNat)] := ⟨by decide, p.isLt, d.isLt, a.isLt, b.isLt, trivial⟩
  refine (congrArg (fun o => rawScalarOp o (pack 0 [(25, 7, 0x6), (21, 4, p.toNat), (15, 6, d.toNat), (9, 6, a.toNat), (3, 6, b.toNat)])) (pack_at ha rfl hv 0 25 7 0x6 rfl)).trans ?_
  exact congrArg some (by rw [fld_at ha rfl hv 1 21 p rfl, fld_at ha rfl hv 2 15 d rfl, fld_at ha rfl hv 3 9 a rfl, fld_at ha rfl hv 4 3 b rfl])

theorem Encoded.andi (p : BitVec 4) (d : BitVec 6) (a : BitVec 6) (imm : BitVec 9) : Encoded.Statement (.andi p d a imm) := fun _ => by
  have ha : Layout.apart 0 [(25, 7), (21, 4), (15, 6), (9, 6), (0, 9)] = true := by decide
  have hv : Fits [(25, 7, 0x7), (21, 4, p.toNat), (15, 6, d.toNat), (9, 6, a.toNat), (0, 9, imm.toNat)] := ⟨by decide, p.isLt, d.isLt, a.isLt, imm.isLt, trivial⟩
  refine (congrArg (fun o => rawScalarOp o (pack 0 [(25, 7, 0x7), (21, 4, p.toNat), (15, 6, d.toNat), (9, 6, a.toNat), (0, 9, imm.toNat)])) (pack_at ha rfl hv 0 25 7 0x7 rfl)).trans ?_
  exact congrArg some (by rw [fld_at ha rfl hv 1 21 p rfl, fld_at ha rfl hv 2 15 d rfl, fld_at ha rfl hv 3 9 a rfl, fld_at ha rfl hv 4 0 imm rfl])

theorem Encoded.ori (p : BitVec 4) (d : BitVec 6) (a : BitVec 6) (imm : BitVec 9) : Encoded.Statement (.ori p d a imm) := fun _ => by
  have ha : Layout.apart 0 [(25, 7), (21, 4), (15, 6), (9, 6), (0, 9)] = true := by decide
  have hv : Fits [(25, 7, 0x8), (21, 4, p.toNat), (15, 6, d.toNat), (9, 6, a.toNat), (0, 9, imm.toNat)] := ⟨by decide, p.isLt, d.isLt, a.isLt, imm.isLt, trivial⟩
  refine (congrArg (fun o => rawScalarOp o (pack 0 [(25, 7, 0x8), (21, 4, p.toNat), (15, 6, d.toNat), (9, 6, a.toNat), (0, 9, imm.toNat)])) (pack_at ha rfl hv 0 25 7 0x8 rfl)).trans ?_
  exact congrArg some (by rw [fld_at ha rfl hv 1 21 p rfl, fld_at ha rfl hv 2 15 d rfl, fld_at ha rfl hv 3 9 a rfl, fld_at ha rfl hv 4 0 imm rfl])

theorem Encoded.xori (p : BitVec 4) (d : BitVec 6) (a : BitVec 6) (imm : BitVec 9) : Encoded.Statement (.xori p d a imm) := fun _ => by
  have ha : Layout.apart 0 [(25, 7), (21, 4), (15, 6), (9, 6), (0, 9)] = true := by decide
  have hv : Fits [(25, 7, 0x9), (21, 4, p.toNat), (15, 6, d.toNat), (9, 6, a.toNat), (0, 9, imm.toNat)] := ⟨by decide, p.isLt, d.isLt, a.isLt, imm.isLt, trivial⟩
  refine (congrArg (fun o => rawScalarOp o (pack 0 [(25, 7, 0x9), (21, 4, p.toNat), (15, 6, d.toNat), (9, 6, a.toNat), (0, 9, imm.toNat)])) (pack_at ha rfl hv 0 25 7 0x9 rfl)).trans ?_
  exact congrArg some (by rw [fld_at ha rfl hv 1 21 p rfl, fld_at ha rfl hv 2 15 d rfl, fld_at ha rfl hv 3 9 a rfl, fld_at ha rfl hv 4 0 imm rfl])

theorem Encoded.shl (p : BitVec 4) (d : BitVec 6) (a : BitVec 6) (b : BitVec 6) : Encoded.Statement (.shl p d a b) := fun _ => by
  have ha : Layout.apart 0 [(25, 7), (21, 4), (15, 6), (9, 6), (3, 6)] = true := by decide
  have hv : Fits [(25, 7, 0xA), (21, 4, p.toNat), (15, 6, d.toNat), (9, 6, a.toNat), (3, 6, b.toNat)] := ⟨by decide, p.isLt, d.isLt, a.isLt, b.isLt, trivial⟩
  refine (congrArg (fun o => rawScalarOp o (pack 0 [(25, 7, 0xA), (21, 4, p.toNat), (15, 6, d.toNat), (9, 6, a.toNat), (3, 6, b.toNat)])) (pack_at ha rfl hv 0 25 7 0xA rfl)).trans ?_
  exact congrArg some (by rw [fld_at ha rfl hv 1 21 p rfl, fld_at ha rfl hv 2 15 d rfl, fld_at ha rfl hv 3 9 a rfl, fld_at ha rfl hv 4 3 b rfl])

theorem Encoded.shr (p : BitVec 4) (d : BitVec 6) (a : BitVec 6) (b : BitVec 6) : Encoded.Statement (.shr p d a b) := fun _ => by
  have ha : Layout.apart 0 [(25, 7), (21, 4), (15, 6), (9, 6), (3, 6)] = true := by decide
  have hv : Fits [(25, 7, 0xB), (21, 4, p.toNat), (15, 6, d.toNat), (9, 6, a.toNat), (3, 6, b.toNat)] := ⟨by decide, p.isLt, d.isLt, a.isLt, b.isLt, trivial⟩
  refine (congrArg (fun o => rawScalarOp o (pack 0 [(25, 7, 0xB), (21, 4, p.toNat), (15, 6, d.toNat), (9, 6, a.toNat), (3, 6, b.toNat)])) (pack_at ha rfl hv 0 25 7 0xB rfl)).trans ?_
  exact congrArg some (by rw [fld_at ha rfl hv 1 21 p rfl, fld_at ha rfl hv 2 15 d rfl, fld_at ha rfl hv 3 9 a rfl, fld_at ha rfl hv 4 3 b rfl])

theorem Encoded.sra (p : BitVec 4) (d : BitVec 6) (a : BitVec 6) (b : BitVec 6) : Encoded.Statement (.sra p d a b) := fun _ => by
  have ha : Layout.apart 0 [(25, 7), (21, 4), (15, 6), (9, 6), (3, 6)] = true := by decide
  have hv : Fits [(25, 7, 0xC), (21, 4, p.toNat), (15, 6, d.toNat), (9, 6, a.toNat), (3, 6, b.toNat)] := ⟨by decide, p.isLt, d.isLt, a.isLt, b.isLt, trivial⟩
  refine (congrArg (fun o => rawScalarOp o (pack 0 [(25, 7, 0xC), (21, 4, p.toNat), (15, 6, d.toNat), (9, 6, a.toNat), (3, 6, b.toNat)])) (pack_at ha rfl hv 0 25 7 0xC rfl)).trans ?_
  exact congrArg some (by rw [fld_at ha rfl hv 1 21 p rfl, fld_at ha rfl hv 2 15 d rfl, fld_at ha rfl hv 3 9 a rfl, fld_at ha rfl hv 4 3 b rfl])

theorem Encoded.shli (p : BitVec 4) (d : BitVec 6) (a : BitVec 6) (n : BitVec 6) : Encoded.Statement (.shli p d a n) := fun _ => by
  have ha : Layout.apart 0 [(25, 7), (21, 4), (15, 6), (9, 6), (0, 6)] = true := by decide
  have hv : Fits [(25, 7, 0xD), (21, 4, p.toNat), (15, 6, d.toNat), (9, 6, a.toNat), (0, 6, n.toNat)] := ⟨by decide, p.isLt, d.isLt, a.isLt, n.isLt, trivial⟩
  refine (congrArg (fun o => rawScalarOp o (pack 0 [(25, 7, 0xD), (21, 4, p.toNat), (15, 6, d.toNat), (9, 6, a.toNat), (0, 6, n.toNat)])) (pack_at ha rfl hv 0 25 7 0xD rfl)).trans ?_
  exact congrArg some (by rw [fld_at ha rfl hv 1 21 p rfl, fld_at ha rfl hv 2 15 d rfl, fld_at ha rfl hv 3 9 a rfl, fld_at ha rfl hv 4 0 n rfl])

theorem Encoded.shri (p : BitVec 4) (d : BitVec 6) (a : BitVec 6) (n : BitVec 6) : Encoded.Statement (.shri p d a n) := fun _ => by
  have ha : Layout.apart 0 [(25, 7), (21, 4), (15, 6), (9, 6), (0, 6)] = true := by decide
  have hv : Fits [(25, 7, 0xE), (21, 4, p.toNat), (15, 6, d.toNat), (9, 6, a.toNat), (0, 6, n.toNat)] := ⟨by decide, p.isLt, d.isLt, a.isLt, n.isLt, trivial⟩
  refine (congrArg (fun o => rawScalarOp o (pack 0 [(25, 7, 0xE), (21, 4, p.toNat), (15, 6, d.toNat), (9, 6, a.toNat), (0, 6, n.toNat)])) (pack_at ha rfl hv 0 25 7 0xE rfl)).trans ?_
  exact congrArg some (by rw [fld_at ha rfl hv 1 21 p rfl, fld_at ha rfl hv 2 15 d rfl, fld_at ha rfl hv 3 9 a rfl, fld_at ha rfl hv 4 0 n rfl])

theorem Encoded.srai (p : BitVec 4) (d : BitVec 6) (a : BitVec 6) (n : BitVec 6) : Encoded.Statement (.srai p d a n) := fun _ => by
  have ha : Layout.apart 0 [(25, 7), (21, 4), (15, 6), (9, 6), (0, 6)] = true := by decide
  have hv : Fits [(25, 7, 0xF), (21, 4, p.toNat), (15, 6, d.toNat), (9, 6, a.toNat), (0, 6, n.toNat)] := ⟨by decide, p.isLt, d.isLt, a.isLt, n.isLt, trivial⟩
  refine (congrArg (fun o => rawScalarOp o (pack 0 [(25, 7, 0xF), (21, 4, p.toNat), (15, 6, d.toNat), (9, 6, a.toNat), (0, 6, n.toNat)])) (pack_at ha rfl hv 0 25 7 0xF rfl)).trans ?_
  exact congrArg some (by rw [fld_at ha rfl hv 1 21 p rfl, fld_at ha rfl hv 2 15 d rfl, fld_at ha rfl hv 3 9 a rfl, fld_at ha rfl hv 4 0 n rfl])

theorem Encoded.mul (p : BitVec 4) (d : BitVec 6) (a : BitVec 6) (b : BitVec 6) : Encoded.Statement (.mul p d a b) := fun _ => by
  have ha : Layout.apart 0 [(25, 7), (21, 4), (15, 6), (9, 6), (3, 6)] = true := by decide
  have hv : Fits [(25, 7, 0x10), (21, 4, p.toNat), (15, 6, d.toNat), (9, 6, a.toNat), (3, 6, b.toNat)] := ⟨by decide, p.isLt, d.isLt, a.isLt, b.isLt, trivial⟩
  refine (congrArg (fun o => rawScalarOp o (pack 0 [(25, 7, 0x10), (21, 4, p.toNat), (15, 6, d.toNat), (9, 6, a.toNat), (3, 6, b.toNat)])) (pack_at ha rfl hv 0 25 7 0x10 rfl)).trans ?_
  exact congrArg some (by rw [fld_at ha rfl hv 1 21 p rfl, fld_at ha rfl hv 2 15 d rfl, fld_at ha rfl hv 3 9 a rfl, fld_at ha rfl hv 4 3 b rfl])

theorem Encoded.mulh (p : BitVec 4) (d : BitVec 6) (a : BitVec 6) (b : BitVec 6) : Encoded.Statement (.mulh p d a b) := fun _ => by
  have ha : Layout.apart 0 [(25, 7), (21, 4), (15, 6), (9, 6), (3, 6)] = true := by decide
  have hv : Fits [(25, 7, 0x11), (21, 4, p.toNat), (15, 6, d.toNat), (9, 6, a.toNat), (3, 6, b.toNat)] := ⟨by decide, p.isLt, d.isLt, a.isLt, b.isLt, trivial⟩
  refine (congrArg (fun o => rawScalarOp o (pack 0 [(25, 7, 0x11), (21, 4, p.toNat), (15, 6, d.toNat), (9, 6, a.toNat), (3, 6, b.toNat)])) (pack_at ha rfl hv 0 25 7 0x11 rfl)).trans ?_
  exact congrArg some (by rw [fld_at ha rfl hv 1 21 p rfl, fld_at ha rfl hv 2 15 d rfl, fld_at ha rfl hv 3 9 a rfl, fld_at ha rfl hv 4 3 b rfl])

theorem Encoded.mulhu (p : BitVec 4) (d : BitVec 6) (a : BitVec 6) (b : BitVec 6) : Encoded.Statement (.mulhu p d a b) := fun _ => by
  have ha : Layout.apart 0 [(25, 7), (21, 4), (15, 6), (9, 6), (3, 6)] = true := by decide
  have hv : Fits [(25, 7, 0x12), (21, 4, p.toNat), (15, 6, d.toNat), (9, 6, a.toNat), (3, 6, b.toNat)] := ⟨by decide, p.isLt, d.isLt, a.isLt, b.isLt, trivial⟩
  refine (congrArg (fun o => rawScalarOp o (pack 0 [(25, 7, 0x12), (21, 4, p.toNat), (15, 6, d.toNat), (9, 6, a.toNat), (3, 6, b.toNat)])) (pack_at ha rfl hv 0 25 7 0x12 rfl)).trans ?_
  exact congrArg some (by rw [fld_at ha rfl hv 1 21 p rfl, fld_at ha rfl hv 2 15 d rfl, fld_at ha rfl hv 3 9 a rfl, fld_at ha rfl hv 4 3 b rfl])

theorem Encoded.divu (p : BitVec 4) (d : BitVec 6) (a : BitVec 6) (b : BitVec 6) : Encoded.Statement (.divu p d a b) := fun _ => by
  have ha : Layout.apart 0 [(25, 7), (21, 4), (15, 6), (9, 6), (3, 6)] = true := by decide
  have hv : Fits [(25, 7, 0x13), (21, 4, p.toNat), (15, 6, d.toNat), (9, 6, a.toNat), (3, 6, b.toNat)] := ⟨by decide, p.isLt, d.isLt, a.isLt, b.isLt, trivial⟩
  refine (congrArg (fun o => rawScalarOp o (pack 0 [(25, 7, 0x13), (21, 4, p.toNat), (15, 6, d.toNat), (9, 6, a.toNat), (3, 6, b.toNat)])) (pack_at ha rfl hv 0 25 7 0x13 rfl)).trans ?_
  exact congrArg some (by rw [fld_at ha rfl hv 1 21 p rfl, fld_at ha rfl hv 2 15 d rfl, fld_at ha rfl hv 3 9 a rfl, fld_at ha rfl hv 4 3 b rfl])

theorem Encoded.remu (p : BitVec 4) (d : BitVec 6) (a : BitVec 6) (b : BitVec 6) : Encoded.Statement (.remu p d a b) := fun _ => by
  have ha : Layout.apart 0 [(25, 7), (21, 4), (15, 6), (9, 6), (3, 6)] = true := by decide
  have hv : Fits [(25, 7, 0x14), (21, 4, p.toNat), (15, 6, d.toNat), (9, 6, a.toNat), (3, 6, b.toNat)] := ⟨by decide, p.isLt, d.isLt, a.isLt, b.isLt, trivial⟩
  refine (congrArg (fun o => rawScalarOp o (pack 0 [(25, 7, 0x14), (21, 4, p.toNat), (15, 6, d.toNat), (9, 6, a.toNat), (3, 6, b.toNat)])) (pack_at ha rfl hv 0 25 7 0x14 rfl)).trans ?_
  exact congrArg some (by rw [fld_at ha rfl hv 1 21 p rfl, fld_at ha rfl hv 2 15 d rfl, fld_at ha rfl hv 3 9 a rfl, fld_at ha rfl hv 4 3 b rfl])

theorem Encoded.min (p : BitVec 4) (d : BitVec 6) (a : BitVec 6) (b : BitVec 6) : Encoded.Statement (.min p d a b) := fun _ => by
  have ha : Layout.apart 0 [(25, 7), (21, 4), (15, 6), (9, 6), (3, 6)] = true := by decide
  have hv : Fits [(25, 7, 0x15), (21, 4, p.toNat), (15, 6, d.toNat), (9, 6, a.toNat), (3, 6, b.toNat)] := ⟨by decide, p.isLt, d.isLt, a.isLt, b.isLt, trivial⟩
  refine (congrArg (fun o => rawScalarOp o (pack 0 [(25, 7, 0x15), (21, 4, p.toNat), (15, 6, d.toNat), (9, 6, a.toNat), (3, 6, b.toNat)])) (pack_at ha rfl hv 0 25 7 0x15 rfl)).trans ?_
  exact congrArg some (by rw [fld_at ha rfl hv 1 21 p rfl, fld_at ha rfl hv 2 15 d rfl, fld_at ha rfl hv 3 9 a rfl, fld_at ha rfl hv 4 3 b rfl])

theorem Encoded.max (p : BitVec 4) (d : BitVec 6) (a : BitVec 6) (b : BitVec 6) : Encoded.Statement (.max p d a b) := fun _ => by
  have ha : Layout.apart 0 [(25, 7), (21, 4), (15, 6), (9, 6), (3, 6)] = true := by decide
  have hv : Fits [(25, 7, 0x16), (21, 4, p.toNat), (15, 6, d.toNat), (9, 6, a.toNat), (3, 6, b.toNat)] := ⟨by decide, p.isLt, d.isLt, a.isLt, b.isLt, trivial⟩
  refine (congrArg (fun o => rawScalarOp o (pack 0 [(25, 7, 0x16), (21, 4, p.toNat), (15, 6, d.toNat), (9, 6, a.toNat), (3, 6, b.toNat)])) (pack_at ha rfl hv 0 25 7 0x16 rfl)).trans ?_
  exact congrArg some (by rw [fld_at ha rfl hv 1 21 p rfl, fld_at ha rfl hv 2 15 d rfl, fld_at ha rfl hv 3 9 a rfl, fld_at ha rfl hv 4 3 b rfl])

theorem Encoded.minu (p : BitVec 4) (d : BitVec 6) (a : BitVec 6) (b : BitVec 6) : Encoded.Statement (.minu p d a b) := fun _ => by
  have ha : Layout.apart 0 [(25, 7), (21, 4), (15, 6), (9, 6), (3, 6)] = true := by decide
  have hv : Fits [(25, 7, 0x17), (21, 4, p.toNat), (15, 6, d.toNat), (9, 6, a.toNat), (3, 6, b.toNat)] := ⟨by decide, p.isLt, d.isLt, a.isLt, b.isLt, trivial⟩
  refine (congrArg (fun o => rawScalarOp o (pack 0 [(25, 7, 0x17), (21, 4, p.toNat), (15, 6, d.toNat), (9, 6, a.toNat), (3, 6, b.toNat)])) (pack_at ha rfl hv 0 25 7 0x17 rfl)).trans ?_
  exact congrArg some (by rw [fld_at ha rfl hv 1 21 p rfl, fld_at ha rfl hv 2 15 d rfl, fld_at ha rfl hv 3 9 a rfl, fld_at ha rfl hv 4 3 b rfl])

theorem Encoded.maxu (p : BitVec 4) (d : BitVec 6) (a : BitVec 6) (b : BitVec 6) : Encoded.Statement (.maxu p d a b) := fun _ => by
  have ha : Layout.apart 0 [(25, 7), (21, 4), (15, 6), (9, 6), (3, 6)] = true := by decide
  have hv : Fits [(25, 7, 0x18), (21, 4, p.toNat), (15, 6, d.toNat), (9, 6, a.toNat), (3, 6, b.toNat)] := ⟨by decide, p.isLt, d.isLt, a.isLt, b.isLt, trivial⟩
  refine (congrArg (fun o => rawScalarOp o (pack 0 [(25, 7, 0x18), (21, 4, p.toNat), (15, 6, d.toNat), (9, 6, a.toNat), (3, 6, b.toNat)])) (pack_at ha rfl hv 0 25 7 0x18 rfl)).trans ?_
  exact congrArg some (by rw [fld_at ha rfl hv 1 21 p rfl, fld_at ha rfl hv 2 15 d rfl, fld_at ha rfl hv 3 9 a rfl, fld_at ha rfl hv 4 3 b rfl])

theorem Encoded.clz (p : BitVec 4) (d : BitVec 6) (a : BitVec 6) : Encoded.Statement (.clz p d a) := fun _ => by
  have ha : Layout.apart 0 [(25, 7), (21, 4), (15, 6), (9, 6)] = true := by decide
  have hv : Fits [(25, 7, 0x19), (21, 4, p.toNat), (15, 6, d.toNat), (9, 6, a.toNat)] := ⟨by decide, p.isLt, d.isLt, a.isLt, trivial⟩
  refine (congrArg (fun o => rawScalarOp o (pack 0 [(25, 7, 0x19), (21, 4, p.toNat), (15, 6, d.toNat), (9, 6, a.toNat)])) (pack_at ha rfl hv 0 25 7 0x19 rfl)).trans ?_
  exact congrArg some (by rw [fld_at ha rfl hv 1 21 p rfl, fld_at ha rfl hv 2 15 d rfl, fld_at ha rfl hv 3 9 a rfl])

theorem Encoded.popc (p : BitVec 4) (d : BitVec 6) (a : BitVec 6) : Encoded.Statement (.popc p d a) := fun _ => by
  have ha : Layout.apart 0 [(25, 7), (21, 4), (15, 6), (9, 6)] = true := by decide
  have hv : Fits [(25, 7, 0x1A), (21, 4, p.toNat), (15, 6, d.toNat), (9, 6, a.toNat)] := ⟨by decide, p.isLt, d.isLt, a.isLt, trivial⟩
  refine (congrArg (fun o => rawScalarOp o (pack 0 [(25, 7, 0x1A), (21, 4, p.toNat), (15, 6, d.toNat), (9, 6, a.toNat)])) (pack_at ha rfl hv 0 25 7 0x1A rfl)).trans ?_
  exact congrArg some (by rw [fld_at ha rfl hv 1 21 p rfl, fld_at ha rfl hv 2 15 d rfl, fld_at ha rfl hv 3 9 a rfl])

theorem Encoded.movi (p : BitVec 4) (d : BitVec 6) (imm : BitVec 15) : Encoded.Statement (.movi p d imm) := fun _ => by
  have ha : Layout.apart 0 [(25, 7), (21, 4), (15, 6), (0, 15)] = true := by decide
  have hv : Fits [(25, 7, 0x1B), (21, 4, p.toNat), (15, 6, d.toNat), (0, 15, imm.toNat)] := ⟨by decide, p.isLt, d.isLt, imm.isLt, trivial⟩
  refine (congrArg (fun o => rawScalarOp o (pack 0 [(25, 7, 0x1B), (21, 4, p.toNat), (15, 6, d.toNat), (0, 15, imm.toNat)])) (pack_at ha rfl hv 0 25 7 0x1B rfl)).trans ?_
  exact congrArg some (by rw [fld_at ha rfl hv 1 21 p rfl, fld_at ha rfl hv 2 15 d rfl, fld_at ha rfl hv 3 0 imm rfl])

theorem Encoded.movsh (p : BitVec 4) (d : BitVec 6) (imm : BitVec 15) : Encoded.Statement (.movsh p d imm) := fun _ => by
  have ha : Layout.apart 0 [(25, 7), (21, 4), (15, 6), (0, 15)] = true := by decide
  have hv : Fits [(25, 7, 0x1C), (21, 4, p.toNat), (15, 6, d.toNat), (0, 15, imm.toNat)] := ⟨by decide, p.isLt, d.isLt, imm.isLt, trivial⟩
  refine (congrArg (fun o => rawScalarOp o (pack 0 [(25, 7, 0x1C), (21, 4, p.toNat), (15, 6, d.toNat), (0, 15, imm.toNat)])) (pack_at ha rfl hv 0 25 7 0x1C rfl)).trans ?_
  exact congrArg some (by rw [fld_at ha rfl hv 1 21 p rfl, fld_at ha rfl hv 2 15 d rfl, fld_at ha rfl hv 3 0 imm rfl])

theorem Encoded.sel (p : BitVec 4) (d : BitVec 6) (a : BitVec 6) (b : BitVec 6) (f : BitVec 3) : Encoded.Statement (.sel p d a b f) := fun _ => by
  have ha : Layout.apart 0 [(25, 7), (21, 4), (15, 6), (9, 6), (3, 6), (0, 3)] = true := by decide
  have hv : Fits [(25, 7, 0x1D), (21, 4, p.toNat), (15, 6, d.toNat), (9, 6, a.toNat), (3, 6, b.toNat), (0, 3, f.toNat)] := ⟨by decide, p.isLt, d.isLt, a.isLt, b.isLt, f.isLt, trivial⟩
  refine (congrArg (fun o => rawScalarOp o (pack 0 [(25, 7, 0x1D), (21, 4, p.toNat), (15, 6, d.toNat), (9, 6, a.toNat), (3, 6, b.toNat), (0, 3, f.toNat)])) (pack_at ha rfl hv 0 25 7 0x1D rfl)).trans ?_
  exact congrArg some (by rw [fld_at ha rfl hv 1 21 p rfl, fld_at ha rfl hv 2 15 d rfl, fld_at ha rfl hv 3 9 a rfl, fld_at ha rfl hv 4 3 b rfl, fld_at ha rfl hv 5 0 f rfl])

theorem Encoded.extf (p : BitVec 4) (d : BitVec 6) (a : BitVec 6) (f : BitVec 3) : Encoded.Statement (.extf p d a f) := fun _ => by
  have ha : Layout.apart 0 [(25, 7), (21, 4), (15, 6), (9, 6), (0, 3)] = true := by decide
  have hv : Fits [(25, 7, 0x1E), (21, 4, p.toNat), (15, 6, d.toNat), (9, 6, a.toNat), (0, 3, f.toNat)] := ⟨by decide, p.isLt, d.isLt, a.isLt, f.isLt, trivial⟩
  refine (congrArg (fun o => rawScalarOp o (pack 0 [(25, 7, 0x1E), (21, 4, p.toNat), (15, 6, d.toNat), (9, 6, a.toNat), (0, 3, f.toNat)])) (pack_at ha rfl hv 0 25 7 0x1E rfl)).trans ?_
  exact congrArg some (by rw [fld_at ha rfl hv 1 21 p rfl, fld_at ha rfl hv 2 15 d rfl, fld_at ha rfl hv 3 9 a rfl, fld_at ha rfl hv 4 0 f rfl])

theorem Encoded.lea (p : BitVec 4) (d : BitVec 6) (a : BitVec 6) (e : BitVec 5) : Encoded.Statement (.lea p d a e) := fun _ => by
  have ha : Layout.apart 0 [(25, 7), (21, 4), (15, 6), (9, 6), (0, 5)] = true := by decide
  have hv : Fits [(25, 7, 0x1F), (21, 4, p.toNat), (15, 6, d.toNat), (9, 6, a.toNat), (0, 5, e.toNat)] := ⟨by decide, p.isLt, d.isLt, a.isLt, e.isLt, trivial⟩
  refine (congrArg (fun o => rawScalarOp o (pack 0 [(25, 7, 0x1F), (21, 4, p.toNat), (15, 6, d.toNat), (9, 6, a.toNat), (0, 5, e.toNat)])) (pack_at ha rfl hv 0 25 7 0x1F rfl)).trans ?_
  exact congrArg some (by rw [fld_at ha rfl hv 1 21 p rfl, fld_at ha rfl hv 2 15 d rfl, fld_at ha rfl hv 3 9 a rfl, fld_at ha rfl hv 4 0 e rfl])

theorem Encoded.cmp (p : BitVec 4) (d : BitVec 4) (a : BitVec 6) (b : BitVec 6) (f : BitVec 3) : Encoded.Statement (.cmp p d a b f) := fun _ => by
  have ha : Layout.apart 0 [(25, 7), (21, 4), (15, 4), (9, 6), (3, 6), (0, 3)] = true := by decide
  have hv : Fits [(25, 7, 0x20), (21, 4, p.toNat), (15, 4, d.toNat), (9, 6, a.toNat), (3, 6, b.toNat), (0, 3, f.toNat)] := ⟨by decide, p.isLt, d.isLt, a.isLt, b.isLt, f.isLt, trivial⟩
  refine (congrArg (fun o => rawScalarOp o (pack 0 [(25, 7, 0x20), (21, 4, p.toNat), (15, 4, d.toNat), (9, 6, a.toNat), (3, 6, b.toNat), (0, 3, f.toNat)])) (pack_at ha rfl hv 0 25 7 0x20 rfl)).trans ?_
  exact congrArg some (by rw [fld_at ha rfl hv 1 21 p rfl, fld_at ha rfl hv 2 15 d rfl, fld_at ha rfl hv 3 9 a rfl, fld_at ha rfl hv 4 3 b rfl, fld_at ha rfl hv 5 0 f rfl])

theorem Encoded.cmpi (p : BitVec 4) (d : BitVec 4) (c : BitVec 2) (a : BitVec 6) (imm : BitVec 9) : Encoded.Statement (.cmpi p d c a imm) := fun _ => by
  have ha : Layout.apart 0 [(25, 7), (21, 4), (15, 4), (19, 2), (9, 6), (0, 9)] = true := by decide
  have hv : Fits [(25, 7, 0x21), (21, 4, p.toNat), (15, 4, d.toNat), (19, 2, c.toNat), (9, 6, a.toNat), (0, 9, imm.toNat)] := ⟨by decide, p.isLt, d.isLt, c.isLt, a.isLt, imm.isLt, trivial⟩
  refine (congrArg (fun o => rawScalarOp o (pack 0 [(25, 7, 0x21), (21, 4, p.toNat), (15, 4, d.toNat), (19, 2, c.toNat), (9, 6, a.toNat), (0, 9, imm.toNat)])) (pack_at ha rfl hv 0 25 7 0x21 rfl)).trans ?_
  exact congrArg some (by rw [fld_at ha rfl hv 1 21 p rfl, fld_at ha rfl hv 2 15 d rfl, fld_at ha rfl hv 3 19 c rfl, fld_at ha rfl hv 4 9 a rfl, fld_at ha rfl hv 5 0 imm rfl])

theorem Encoded.plog (p : BitVec 4) (d : BitVec 4) (a : BitVec 4) (b : BitVec 4) (f : BitVec 3) : Encoded.Statement (.plog p d a b f) := fun _ => by
  have ha : Layout.apart 0 [(25, 7), (21, 4), (15, 4), (9, 4), (3, 4), (0, 3)] = true := by decide
  have hv : Fits [(25, 7, 0x22), (21, 4, p.toNat), (15, 4, d.toNat), (9, 4, a.toNat), (3, 4, b.toNat), (0, 3, f.toNat)] := ⟨by decide, p.isLt, d.isLt, a.isLt, b.isLt, f.isLt, trivial⟩
  refine (congrArg (fun o => rawScalarOp o (pack 0 [(25, 7, 0x22), (21, 4, p.toNat), (15, 4, d.toNat), (9, 4, a.toNat), (3, 4, b.toNat), (0, 3, f.toNat)])) (pack_at ha rfl hv 0 25 7 0x22 rfl)).trans ?_
  exact congrArg some (by rw [fld_at ha rfl hv 1 21 p rfl, fld_at ha rfl hv 2 15 d rfl, fld_at ha rfl hv 3 9 a rfl, fld_at ha rfl hv 4 3 b rfl, fld_at ha rfl hv 5 0 f rfl])

theorem Encoded.mfsr (p : BitVec 4) (d : BitVec 6) (idx : BitVec 6) : Encoded.Statement (.mfsr p d idx) := fun _ => by
  have ha : Layout.apart 0 [(25, 7), (21, 4), (15, 6), (0, 6)] = true := by decide
  have hv : Fits [(25, 7, 0x23), (21, 4, p.toNat), (15, 6, d.toNat), (0, 6, idx.toNat)] := ⟨by decide, p.isLt, d.isLt, idx.isLt, trivial⟩
  refine (congrArg (fun o => rawScalarOp o (pack 0 [(25, 7, 0x23), (21, 4, p.toNat), (15, 6, d.toNat), (0, 6, idx.toNat)])) (pack_at ha rfl hv 0 25 7 0x23 rfl)).trans ?_
  exact congrArg some (by rw [fld_at ha rfl hv 1 21 p rfl, fld_at ha rfl hv 2 15 d rfl, fld_at ha rfl hv 3 0 idx rfl])

theorem Encoded.mtsr (p : BitVec 4) (a : BitVec 6) (idx : BitVec 6) : Encoded.Statement (.mtsr p a idx) := fun _ => by
  have ha : Layout.apart 0 [(25, 7), (21, 4), (9, 6), (0, 6)] = true := by decide
  have hv : Fits [(25, 7, 0x24), (21, 4, p.toNat), (9, 6, a.toNat), (0, 6, idx.toNat)] := ⟨by decide, p.isLt, a.isLt, idx.isLt, trivial⟩
  refine (congrArg (fun o => rawScalarOp o (pack 0 [(25, 7, 0x24), (21, 4, p.toNat), (9, 6, a.toNat), (0, 6, idx.toNat)])) (pack_at ha rfl hv 0 25 7 0x24 rfl)).trans ?_
  exact congrArg some (by rw [fld_at ha rfl hv 1 21 p rfl, fld_at ha rfl hv 2 9 a rfl, fld_at ha rfl hv 3 0 idx rfl])

theorem Encoded.lds (p : BitVec 4) (d : BitVec 6) (a : BitVec 6) (b : BitVec 6) (f : BitVec 3) : Encoded.Statement (.lds p d a b f) := fun _ => by
  have ha : Layout.apart 0 [(25, 7), (21, 4), (15, 6), (9, 6), (3, 6), (0, 3)] = true := by decide
  have hv : Fits [(25, 7, 0x25), (21, 4, p.toNat), (15, 6, d.toNat), (9, 6, a.toNat), (3, 6, b.toNat), (0, 3, f.toNat)] := ⟨by decide, p.isLt, d.isLt, a.isLt, b.isLt, f.isLt, trivial⟩
  refine (congrArg (fun o => rawScalarOp o (pack 0 [(25, 7, 0x25), (21, 4, p.toNat), (15, 6, d.toNat), (9, 6, a.toNat), (3, 6, b.toNat), (0, 3, f.toNat)])) (pack_at ha rfl hv 0 25 7 0x25 rfl)).trans ?_
  exact congrArg some (by rw [fld_at ha rfl hv 1 21 p rfl, fld_at ha rfl hv 2 15 d rfl, fld_at ha rfl hv 3 9 a rfl, fld_at ha rfl hv 4 3 b rfl, fld_at ha rfl hv 5 0 f rfl])

theorem Encoded.sts (p : BitVec 4) (d : BitVec 6) (a : BitVec 6) (b : BitVec 6) (f : BitVec 2) : Encoded.Statement (.sts p d a b f) := fun _ => by
  have ha : Layout.apart 0 [(25, 7), (21, 4), (15, 6), (9, 6), (3, 6), (0, 2)] = true := by decide
  have hv : Fits [(25, 7, 0x26), (21, 4, p.toNat), (15, 6, d.toNat), (9, 6, a.toNat), (3, 6, b.toNat), (0, 2, f.toNat)] := ⟨by decide, p.isLt, d.isLt, a.isLt, b.isLt, f.isLt, trivial⟩
  refine (congrArg (fun o => rawScalarOp o (pack 0 [(25, 7, 0x26), (21, 4, p.toNat), (15, 6, d.toNat), (9, 6, a.toNat), (3, 6, b.toNat), (0, 2, f.toNat)])) (pack_at ha rfl hv 0 25 7 0x26 rfl)).trans ?_
  exact congrArg some (by rw [fld_at ha rfl hv 1 21 p rfl, fld_at ha rfl hv 2 15 d rfl, fld_at ha rfl hv 3 9 a rfl, fld_at ha rfl hv 4 3 b rfl, fld_at ha rfl hv 5 0 f rfl])

theorem Encoded.ldf (p : BitVec 4) (d : BitVec 6) (a : BitVec 6) (imm : BitVec 9) : Encoded.Statement (.ldf p d a imm) := fun _ => by
  have ha : Layout.apart 0 [(25, 7), (21, 4), (15, 6), (9, 6), (0, 9)] = true := by decide
  have hv : Fits [(25, 7, 0x27), (21, 4, p.toNat), (15, 6, d.toNat), (9, 6, a.toNat), (0, 9, imm.toNat)] := ⟨by decide, p.isLt, d.isLt, a.isLt, imm.isLt, trivial⟩
  refine (congrArg (fun o => rawScalarOp o (pack 0 [(25, 7, 0x27), (21, 4, p.toNat), (15, 6, d.toNat), (9, 6, a.toNat), (0, 9, imm.toNat)])) (pack_at ha rfl hv 0 25 7 0x27 rfl)).trans ?_
  exact congrArg some (by rw [fld_at ha rfl hv 1 21 p rfl, fld_at ha rfl hv 2 15 d rfl, fld_at ha rfl hv 3 9 a rfl, fld_at ha rfl hv 4 0 imm rfl])

theorem Encoded.addw (p : BitVec 4) (d : BitVec 6) (a : BitVec 6) (b : BitVec 6) : Encoded.Statement (.addw p d a b) := fun _ => by
  have ha : Layout.apart 0 [(25, 7), (21, 4), (15, 6), (9, 6), (3, 6)] = true := by decide
  have hv : Fits [(25, 7, 0x28), (21, 4, p.toNat), (15, 6, d.toNat), (9, 6, a.toNat), (3, 6, b.toNat)] := ⟨by decide, p.isLt, d.isLt, a.isLt, b.isLt, trivial⟩
  refine (congrArg (fun o => rawScalarOp o (pack 0 [(25, 7, 0x28), (21, 4, p.toNat), (15, 6, d.toNat), (9, 6, a.toNat), (3, 6, b.toNat)])) (pack_at ha rfl hv 0 25 7 0x28 rfl)).trans ?_
  exact congrArg some (by rw [fld_at ha rfl hv 1 21 p rfl, fld_at ha rfl hv 2 15 d rfl, fld_at ha rfl hv 3 9 a rfl, fld_at ha rfl hv 4 3 b rfl])

theorem Encoded.subw (p : BitVec 4) (d : BitVec 6) (a : BitVec 6) (b : BitVec 6) : Encoded.Statement (.subw p d a b) := fun _ => by
  have ha : Layout.apart 0 [(25, 7), (21, 4), (15, 6), (9, 6), (3, 6)] = true := by decide
  have hv : Fits [(25, 7, 0x29), (21, 4, p.toNat), (15, 6, d.toNat), (9, 6, a.toNat), (3, 6, b.toNat)] := ⟨by decide, p.isLt, d.isLt, a.isLt, b.isLt, trivial⟩
  refine (congrArg (fun o => rawScalarOp o (pack 0 [(25, 7, 0x29), (21, 4, p.toNat), (15, 6, d.toNat), (9, 6, a.toNat), (3, 6, b.toNat)])) (pack_at ha rfl hv 0 25 7 0x29 rfl)).trans ?_
  exact congrArg some (by rw [fld_at ha rfl hv 1 21 p rfl, fld_at ha rfl hv 2 15 d rfl, fld_at ha rfl hv 3 9 a rfl, fld_at ha rfl hv 4 3 b rfl])

theorem Encoded.rotl (p : BitVec 4) (d : BitVec 6) (a : BitVec 6) (b : BitVec 6) : Encoded.Statement (.rotl p d a b) := fun _ => by
  have ha : Layout.apart 0 [(25, 7), (21, 4), (15, 6), (9, 6), (3, 6)] = true := by decide
  have hv : Fits [(25, 7, 0x2A), (21, 4, p.toNat), (15, 6, d.toNat), (9, 6, a.toNat), (3, 6, b.toNat)] := ⟨by decide, p.isLt, d.isLt, a.isLt, b.isLt, trivial⟩
  refine (congrArg (fun o => rawScalarOp o (pack 0 [(25, 7, 0x2A), (21, 4, p.toNat), (15, 6, d.toNat), (9, 6, a.toNat), (3, 6, b.toNat)])) (pack_at ha rfl hv 0 25 7 0x2A rfl)).trans ?_
  exact congrArg some (by rw [fld_at ha rfl hv 1 21 p rfl, fld_at ha rfl hv 2 15 d rfl, fld_at ha rfl hv 3 9 a rfl, fld_at ha rfl hv 4 3 b rfl])

theorem Encoded.bext (p : BitVec 4) (d : BitVec 6) (a : BitVec 6) (b : BitVec 6) : Encoded.Statement (.bext p d a b) := fun _ => by
  have ha : Layout.apart 0 [(25, 7), (21, 4), (15, 6), (9, 6), (3, 6)] = true := by decide
  have hv : Fits [(25, 7, 0x2B), (21, 4, p.toNat), (15, 6, d.toNat), (9, 6, a.toNat), (3, 6, b.toNat)] := ⟨by decide, p.isLt, d.isLt, a.isLt, b.isLt, trivial⟩
  refine (congrArg (fun o => rawScalarOp o (pack 0 [(25, 7, 0x2B), (21, 4, p.toNat), (15, 6, d.toNat), (9, 6, a.toNat), (3, 6, b.toNat)])) (pack_at ha rfl hv 0 25 7 0x2B rfl)).trans ?_
  exact congrArg some (by rw [fld_at ha rfl hv 1 21 p rfl, fld_at ha rfl hv 2 15 d rfl, fld_at ha rfl hv 3 9 a rfl, fld_at ha rfl hv 4 3 b rfl])

theorem Encoded.bins (p : BitVec 4) (d : BitVec 6) (a : BitVec 6) (b : BitVec 6) : Encoded.Statement (.bins p d a b) := fun _ => by
  have ha : Layout.apart 0 [(25, 7), (21, 4), (15, 6), (9, 6), (3, 6)] = true := by decide
  have hv : Fits [(25, 7, 0x2C), (21, 4, p.toNat), (15, 6, d.toNat), (9, 6, a.toNat), (3, 6, b.toNat)] := ⟨by decide, p.isLt, d.isLt, a.isLt, b.isLt, trivial⟩
  refine (congrArg (fun o => rawScalarOp o (pack 0 [(25, 7, 0x2C), (21, 4, p.toNat), (15, 6, d.toNat), (9, 6, a.toNat), (3, 6, b.toNat)])) (pack_at ha rfl hv 0 25 7 0x2C rfl)).trans ?_
  exact congrArg some (by rw [fld_at ha rfl hv 1 21 p rfl, fld_at ha rfl hv 2 15 d rfl, fld_at ha rfl hv 3 9 a rfl, fld_at ha rfl hv 4 3 b rfl])

theorem Encoded.muli (p : BitVec 4) (d : BitVec 6) (a : BitVec 6) (imm : BitVec 9) : Encoded.Statement (.muli p d a imm) := fun _ => by
  have ha : Layout.apart 0 [(25, 7), (21, 4), (15, 6), (9, 6), (0, 9)] = true := by decide
  have hv : Fits [(25, 7, 0x2D), (21, 4, p.toNat), (15, 6, d.toNat), (9, 6, a.toNat), (0, 9, imm.toNat)] := ⟨by decide, p.isLt, d.isLt, a.isLt, imm.isLt, trivial⟩
  refine (congrArg (fun o => rawScalarOp o (pack 0 [(25, 7, 0x2D), (21, 4, p.toNat), (15, 6, d.toNat), (9, 6, a.toNat), (0, 9, imm.toNat)])) (pack_at ha rfl hv 0 25 7 0x2D rfl)).trans ?_
  exact congrArg some (by rw [fld_at ha rfl hv 1 21 p rfl, fld_at ha rfl hv 2 15 d rfl, fld_at ha rfl hv 3 9 a rfl, fld_at ha rfl hv 4 0 imm rfl])

theorem Encoded.br (p : BitVec 4) (disp : BitVec 22) : Encoded.Statement (.br p disp) := fun _ => by
  have ha : Layout.apart 0 [(26, 6), (22, 4), (0, 22)] = true := by decide
  have hv : Fits [(26, 6, 0x1), (22, 4, p.toNat), (0, 22, disp.toNat)] := ⟨by decide, p.isLt, disp.isLt, trivial⟩
  refine (congrArg (fun o => rawControlOp o (pack 0 [(26, 6, 0x1), (22, 4, p.toNat), (0, 22, disp.toNat)])) (pack_at ha rfl hv 0 26 6 0x1 rfl)).trans ?_
  exact congrArg some (by rw [fld_at ha rfl hv 1 22 p rfl, fld_at ha rfl hv 2 0 disp rfl])

theorem Encoded.bri (p : BitVec 4) (a : BitVec 6) : Encoded.Statement (.bri p a) := fun _ => by
  have ha : Layout.apart 0 [(26, 6), (22, 4), (16, 6)] = true := by decide
  have hv : Fits [(26, 6, 0x2), (22, 4, p.toNat), (16, 6, a.toNat)] := ⟨by decide, p.isLt, a.isLt, trivial⟩
  refine (congrArg (fun o => rawControlOp o (pack 0 [(26, 6, 0x2), (22, 4, p.toNat), (16, 6, a.toNat)])) (pack_at ha rfl hv 0 26 6 0x2 rfl)).trans ?_
  exact congrArg some (by rw [fld_at ha rfl hv 1 22 p rfl, fld_at ha rfl hv 2 16 a rfl])

theorem Encoded.call (p : BitVec 4) (disp : BitVec 22) : Encoded.Statement (.call p disp) := fun _ => by
  have ha : Layout.apart 0 [(26, 6), (22, 4), (0, 22)] = true := by decide
  have hv : Fits [(26, 6, 0x3), (22, 4, p.toNat), (0, 22, disp.toNat)] := ⟨by decide, p.isLt, disp.isLt, trivial⟩
  refine (congrArg (fun o => rawControlOp o (pack 0 [(26, 6, 0x3), (22, 4, p.toNat), (0, 22, disp.toNat)])) (pack_at ha rfl hv 0 26 6 0x3 rfl)).trans ?_
  exact congrArg some (by rw [fld_at ha rfl hv 1 22 p rfl, fld_at ha rfl hv 2 0 disp rfl])

theorem Encoded.ret (p : BitVec 4) : Encoded.Statement (.ret p) := fun _ => by
  have ha : Layout.apart 0 [(26, 6), (22, 4)] = true := by decide
  have hv : Fits [(26, 6, 0x4), (22, 4, p.toNat)] := ⟨by decide, p.isLt, trivial⟩
  refine (congrArg (fun o => rawControlOp o (pack 0 [(26, 6, 0x4), (22, 4, p.toNat)])) (pack_at ha rfl hv 0 26 6 0x4 rfl)).trans ?_
  exact congrArg some (by rw [fld_at ha rfl hv 1 22 p rfl])

theorem Encoded.loop (p : BitVec 4) (fl : BitVec 3) (a : BitVec 6) (last : BitVec 13) : Encoded.Statement (.loop p fl a last) := fun _ => by
  have ha : Layout.apart 0 [(26, 6), (22, 4), (19, 3), (13, 6), (0, 13)] = true := by decide
  have hv : Fits [(26, 6, 0x5), (22, 4, p.toNat), (19, 3, fl.toNat), (13, 6, a.toNat), (0, 13, last.toNat)] := ⟨by decide, p.isLt, fl.isLt, a.isLt, last.isLt, trivial⟩
  refine (congrArg (fun o => rawControlOp o (pack 0 [(26, 6, 0x5), (22, 4, p.toNat), (19, 3, fl.toNat), (13, 6, a.toNat), (0, 13, last.toNat)])) (pack_at ha rfl hv 0 26 6 0x5 rfl)).trans ?_
  exact congrArg some (by rw [fld_at ha rfl hv 1 22 p rfl, fld_at ha rfl hv 2 19 fl rfl, fld_at ha rfl hv 3 13 a rfl, fld_at ha rfl hv 4 0 last rfl])

theorem Encoded.loopi (p : BitVec 4) (fl : BitVec 3) (cnt : BitVec 9) (last : BitVec 10) : Encoded.Statement (.loopi p fl cnt last) := fun _ => by
  have ha : Layout.apart 0 [(26, 6), (22, 4), (19, 3), (10, 9), (0, 10)] = true := by decide
  have hv : Fits [(26, 6, 0x6), (22, 4, p.toNat), (19, 3, fl.toNat), (10, 9, cnt.toNat), (0, 10, last.toNat)] := ⟨by decide, p.isLt, fl.isLt, cnt.isLt, last.isLt, trivial⟩
  refine (congrArg (fun o => rawControlOp o (pack 0 [(26, 6, 0x6), (22, 4, p.toNat), (19, 3, fl.toNat), (10, 9, cnt.toNat), (0, 10, last.toNat)])) (pack_at ha rfl hv 0 26 6 0x6 rfl)).trans ?_
  exact congrArg some (by rw [fld_at ha rfl hv 1 22 p rfl, fld_at ha rfl hv 2 19 fl rfl, fld_at ha rfl hv 3 10 cnt rfl, fld_at ha rfl hv 4 0 last rfl])

theorem Encoded.brkl (p : BitVec 4) (lv : BitVec 3) : Encoded.Statement (.brkl p lv) := fun _ => by
  have ha : Layout.apart 0 [(26, 6), (22, 4), (19, 3)] = true := by decide
  have hv : Fits [(26, 6, 0x7), (22, 4, p.toNat), (19, 3, lv.toNat)] := ⟨by decide, p.isLt, lv.isLt, trivial⟩
  refine (congrArg (fun o => rawControlOp o (pack 0 [(26, 6, 0x7), (22, 4, p.toNat), (19, 3, lv.toNat)])) (pack_at ha rfl hv 0 26 6 0x7 rfl)).trans ?_
  exact congrArg some (by rw [fld_at ha rfl hv 1 22 p rfl, fld_at ha rfl hv 2 19 lv rfl])

theorem Encoded.setlc (p : BitVec 4) (a : BitVec 6) (ec : BitVec 8) : Encoded.Statement (.setlc p a ec) := fun _ => by
  have ha : Layout.apart 0 [(26, 6), (22, 4), (16, 6), (0, 8)] = true := by decide
  have hv : Fits [(26, 6, 0x8), (22, 4, p.toNat), (16, 6, a.toNat), (0, 8, ec.toNat)] := ⟨by decide, p.isLt, a.isLt, ec.isLt, trivial⟩
  refine (congrArg (fun o => rawControlOp o (pack 0 [(26, 6, 0x8), (22, 4, p.toNat), (16, 6, a.toNat), (0, 8, ec.toNat)])) (pack_at ha rfl hv 0 26 6 0x8 rfl)).trans ?_
  exact congrArg some (by rw [fld_at ha rfl hv 1 22 p rfl, fld_at ha rfl hv 2 16 a rfl, fld_at ha rfl hv 3 0 ec rfl])

theorem Encoded.phase (p : BitVec 4) (ph : BitVec 6) : Encoded.Statement (.phase p ph) := fun _ => by
  have ha : Layout.apart 0 [(26, 6), (22, 4), (16, 6)] = true := by decide
  have hv : Fits [(26, 6, 0x9), (22, 4, p.toNat), (16, 6, ph.toNat)] := ⟨by decide, p.isLt, ph.isLt, trivial⟩
  refine (congrArg (fun o => rawControlOp o (pack 0 [(26, 6, 0x9), (22, 4, p.toNat), (16, 6, ph.toNat)])) (pack_at ha rfl hv 0 26 6 0x9 rfl)).trans ?_
  exact congrArg some (by rw [fld_at ha rfl hv 1 22 p rfl, fld_at ha rfl hv 2 16 ph rfl])

theorem Encoded.epoch (p : BitVec 4) (md : BitVec 1) (val : BitVec 8) : Encoded.Statement (.epoch p md val) := fun _ => by
  have ha : Layout.apart 0 [(26, 6), (22, 4), (21, 1), (13, 8)] = true := by decide
  have hv : Fits [(26, 6, 0xA), (22, 4, p.toNat), (21, 1, md.toNat), (13, 8, val.toNat)] := ⟨by decide, p.isLt, md.isLt, val.isLt, trivial⟩
  refine (congrArg (fun o => rawControlOp o (pack 0 [(26, 6, 0xA), (22, 4, p.toNat), (21, 1, md.toNat), (13, 8, val.toNat)])) (pack_at ha rfl hv 0 26 6 0xA rfl)).trans ?_
  exact congrArg some (by rw [fld_at ha rfl hv 1 22 p rfl, fld_at ha rfl hv 2 21 md rfl, fld_at ha rfl hv 3 13 val rfl])

theorem Encoded.gateset (p : BitVec 4) (g : BitVec 3) (a : BitVec 6) (ph : BitVec 4) (en : BitVec 1) : Encoded.Statement (.gateset p g a ph en) := fun _ => by
  have ha : Layout.apart 0 [(26, 6), (22, 4), (19, 3), (13, 6), (9, 4), (8, 1)] = true := by decide
  have hv : Fits [(26, 6, 0xB), (22, 4, p.toNat), (19, 3, g.toNat), (13, 6, a.toNat), (9, 4, ph.toNat), (8, 1, en.toNat)] := ⟨by decide, p.isLt, g.isLt, a.isLt, ph.isLt, en.isLt, trivial⟩
  refine (congrArg (fun o => rawControlOp o (pack 0 [(26, 6, 0xB), (22, 4, p.toNat), (19, 3, g.toNat), (13, 6, a.toNat), (9, 4, ph.toNat), (8, 1, en.toNat)])) (pack_at ha rfl hv 0 26 6 0xB rfl)).trans ?_
  exact congrArg some (by rw [fld_at ha rfl hv 1 22 p rfl, fld_at ha rfl hv 2 19 g rfl, fld_at ha rfl hv 3 13 a rfl, fld_at ha rfl hv 4 9 ph rfl, fld_at ha rfl hv 5 8 en rfl])

theorem Encoded.rdv (p : BitVec 4) (a : BitVec 6) (imm : BitVec 16) : Encoded.Statement (.rdv p a imm) := fun _ => by
  have ha : Layout.apart 0 [(26, 6), (22, 4), (16, 6), (0, 16)] = true := by decide
  have hv : Fits [(26, 6, 0xC), (22, 4, p.toNat), (16, 6, a.toNat), (0, 16, imm.toNat)] := ⟨by decide, p.isLt, a.isLt, imm.isLt, trivial⟩
  refine (congrArg (fun o => rawControlOp o (pack 0 [(26, 6, 0xC), (22, 4, p.toNat), (16, 6, a.toNat), (0, 16, imm.toNat)])) (pack_at ha rfl hv 0 26 6 0xC rfl)).trans ?_
  exact congrArg some (by rw [fld_at ha rfl hv 1 22 p rfl, fld_at ha rfl hv 2 16 a rfl, fld_at ha rfl hv 3 0 imm rfl])

theorem Encoded.fence (p : BitVec 4) (sc : BitVec 4) : Encoded.Statement (.fence p sc) := fun _ => by
  have ha : Layout.apart 0 [(26, 6), (22, 4), (18, 4)] = true := by decide
  have hv : Fits [(26, 6, 0xD), (22, 4, p.toNat), (18, 4, sc.toNat)] := ⟨by decide, p.isLt, sc.isLt, trivial⟩
  refine (congrArg (fun o => rawControlOp o (pack 0 [(26, 6, 0xD), (22, 4, p.toNat), (18, 4, sc.toNat)])) (pack_at ha rfl hv 0 26 6 0xD rfl)).trans ?_
  exact congrArg some (by rw [fld_at ha rfl hv 1 22 p rfl, fld_at ha rfl hv 2 18 sc rfl])

theorem Encoded.snap (p : BitVec 4) (tag : BitVec 8) : Encoded.Statement (.snap p tag) := fun _ => by
  have ha : Layout.apart 0 [(26, 6), (22, 4), (14, 8)] = true := by decide
  have hv : Fits [(26, 6, 0xE), (22, 4, p.toNat), (14, 8, tag.toNat)] := ⟨by decide, p.isLt, tag.isLt, trivial⟩
  refine (congrArg (fun o => rawControlOp o (pack 0 [(26, 6, 0xE), (22, 4, p.toNat), (14, 8, tag.toNat)])) (pack_at ha rfl hv 0 26 6 0xE rfl)).trans ?_
  exact congrArg some (by rw [fld_at ha rfl hv 1 22 p rfl, fld_at ha rfl hv 2 14 tag rfl])

theorem Encoded.trapi (p : BitVec 4) (code : BitVec 8) : Encoded.Statement (.trapi p code) := fun _ => by
  have ha : Layout.apart 0 [(26, 6), (22, 4), (14, 8)] = true := by decide
  have hv : Fits [(26, 6, 0xF), (22, 4, p.toNat), (14, 8, code.toNat)] := ⟨by decide, p.isLt, code.isLt, trivial⟩
  refine (congrArg (fun o => rawControlOp o (pack 0 [(26, 6, 0xF), (22, 4, p.toNat), (14, 8, code.toNat)])) (pack_at ha rfl hv 0 26 6 0xF rfl)).trans ?_
  exact congrArg some (by rw [fld_at ha rfl hv 1 22 p rfl, fld_at ha rfl hv 2 14 code rfl])

theorem Encoded.rett (p : BitVec 4) : Encoded.Statement (.rett p) := fun _ => by
  have ha : Layout.apart 0 [(26, 6), (22, 4)] = true := by decide
  have hv : Fits [(26, 6, 0x10), (22, 4, p.toNat)] := ⟨by decide, p.isLt, trivial⟩
  refine (congrArg (fun o => rawControlOp o (pack 0 [(26, 6, 0x10), (22, 4, p.toNat)])) (pack_at ha rfl hv 0 26 6 0x10 rfl)).trans ?_
  exact congrArg some (by rw [fld_at ha rfl hv 1 22 p rfl])

theorem Encoded.waiti (p : BitVec 4) : Encoded.Statement (.waiti p) := fun _ => by
  have ha : Layout.apart 0 [(26, 6), (22, 4)] = true := by decide
  have hv : Fits [(26, 6, 0x11), (22, 4, p.toNat)] := ⟨by decide, p.isLt, trivial⟩
  refine (congrArg (fun o => rawControlOp o (pack 0 [(26, 6, 0x11), (22, 4, p.toNat)])) (pack_at ha rfl hv 0 26 6 0x11 rfl)).trans ?_
  exact congrArg some (by rw [fld_at ha rfl hv 1 22 p rfl])

theorem Encoded.endt (p : BitVec 4) : Encoded.Statement (.endt p) := fun _ => by
  have ha : Layout.apart 0 [(26, 6), (22, 4)] = true := by decide
  have hv : Fits [(26, 6, 0x12), (22, 4, p.toNat)] := ⟨by decide, p.isLt, trivial⟩
  refine (congrArg (fun o => rawControlOp o (pack 0 [(26, 6, 0x12), (22, 4, p.toNat)])) (pack_at ha rfl hv 0 26 6 0x12 rfl)).trans ?_
  exact congrArg some (by rw [fld_at ha rfl hv 1 22 p rfl])

theorem Encoded.nopn (p : BitVec 4) (n : BitVec 10) : Encoded.Statement (.nopn p n) := fun _ => by
  have ha : Layout.apart 0 [(26, 6), (22, 4), (12, 10)] = true := by decide
  have hv : Fits [(26, 6, 0x13), (22, 4, p.toNat), (12, 10, n.toNat)] := ⟨by decide, p.isLt, n.isLt, trivial⟩
  refine (congrArg (fun o => rawControlOp o (pack 0 [(26, 6, 0x13), (22, 4, p.toNat), (12, 10, n.toNat)])) (pack_at ha rfl hv 0 26 6 0x13 rfl)).trans ?_
  exact congrArg some (by rw [fld_at ha rfl hv 1 22 p rfl, fld_at ha rfl hv 2 12 n rfl])

theorem Encoded.sprng (p : BitVec 4) (a : BitVec 6) : Encoded.Statement (.sprng p a) := fun _ => by
  have ha : Layout.apart 0 [(26, 6), (22, 4), (16, 6)] = true := by decide
  have hv : Fits [(26, 6, 0x14), (22, 4, p.toNat), (16, 6, a.toNat)] := ⟨by decide, p.isLt, a.isLt, trivial⟩
  refine (congrArg (fun o => rawControlOp o (pack 0 [(26, 6, 0x14), (22, 4, p.toNat), (16, 6, a.toNat)])) (pack_at ha rfl hv 0 26 6 0x14 rfl)).trans ?_
  exact congrArg some (by rw [fld_at ha rfl hv 1 22 p rfl, fld_at ha rfl hv 2 16 a rfl])

theorem Encoded.inten (p : BitVec 4) (md : BitVec 1) (mask : BitVec 8) : Encoded.Statement (.inten p md mask) := fun _ => by
  have ha : Layout.apart 0 [(26, 6), (22, 4), (21, 1), (13, 8)] = true := by decide
  have hv : Fits [(26, 6, 0x15), (22, 4, p.toNat), (21, 1, md.toNat), (13, 8, mask.toNat)] := ⟨by decide, p.isLt, md.isLt, mask.isLt, trivial⟩
  refine (congrArg (fun o => rawControlOp o (pack 0 [(26, 6, 0x15), (22, 4, p.toNat), (21, 1, md.toNat), (13, 8, mask.toNat)])) (pack_at ha rfl hv 0 26 6 0x15 rfl)).trans ?_
  exact congrArg some (by rw [fld_at ha rfl hv 1 22 p rfl, fld_at ha rfl hv 2 21 md rfl, fld_at ha rfl hv 3 13 mask rfl])

theorem Encoded.secs (p : BitVec 4) (go : BitVec 1) : Encoded.Statement (.secs p go) := fun _ => by
  have ha : Layout.apart 0 [(26, 6), (22, 4), (21, 1)] = true := by decide
  have hv : Fits [(26, 6, 0x16), (22, 4, p.toNat), (21, 1, go.toNat)] := ⟨by decide, p.isLt, go.isLt, trivial⟩
  refine (congrArg (fun o => rawControlOp o (pack 0 [(26, 6, 0x16), (22, 4, p.toNat), (21, 1, go.toNat)])) (pack_at ha rfl hv 0 26 6 0x16 rfl)).trans ?_
  exact congrArg some (by rw [fld_at ha rfl hv 1 22 p rfl, fld_at ha rfl hv 2 21 go rfl])

theorem Encoded.vld (p : BitVec 4) (vr : BitVec 6) (a : BitVec 6) (q : BitVec 3) (off : BitVec 32) : Encoded.Statement (.vld p vr a q off) := fun _ => by
  have ha : Layout.apart 0 [(57, 7), (53, 4), (47, 6), (41, 6), (32, 3), (0, 32)] = true := by decide
  have hv : Fits [(57, 7, 0x1), (53, 4, p.toNat), (47, 6, vr.toNat), (41, 6, a.toNat), (32, 3, q.toNat), (0, 32, off.toNat)] := ⟨by decide, p.isLt, vr.isLt, a.isLt, q.isLt, off.isLt, trivial⟩
  refine (congrArg (fun o => rawMemoryOp o (pack 0 [(57, 7, 0x1), (53, 4, p.toNat), (47, 6, vr.toNat), (41, 6, a.toNat), (32, 3, q.toNat), (0, 32, off.toNat)])) (pack_at ha rfl hv 0 57 7 0x1 rfl)).trans ?_
  exact congrArg some (by rw [fld_at ha rfl hv 1 53 p rfl, fld_at ha rfl hv 2 47 vr rfl, fld_at ha rfl hv 3 41 a rfl, fld_at ha rfl hv 4 32 q rfl, fld_at ha rfl hv 5 0 off rfl])

theorem Encoded.vst (p : BitVec 4) (vr : BitVec 6) (a : BitVec 6) (q : BitVec 3) (off : BitVec 32) : Encoded.Statement (.vst p vr a q off) := fun _ => by
  have ha : Layout.apart 0 [(57, 7), (53, 4), (47, 6), (41, 6), (32, 3), (0, 32)] = true := by decide
  have hv : Fits [(57, 7, 0x2), (53, 4, p.toNat), (47, 6, vr.toNat), (41, 6, a.toNat), (32, 3, q.toNat), (0, 32, off.toNat)] := ⟨by decide, p.isLt, vr.isLt, a.isLt, q.isLt, off.isLt, trivial⟩
  refine (congrArg (fun o => rawMemoryOp o (pack 0 [(57, 7, 0x2), (53, 4, p.toNat), (47, 6, vr.toNat), (41, 6, a.toNat), (32, 3, q.toNat), (0, 32, off.toNat)])) (pack_at ha rfl hv 0 57 7 0x2 rfl)).trans ?_
  exact congrArg some (by rw [fld_at ha rfl hv 1 53 p rfl, fld_at ha rfl hv 2 47 vr rfl, fld_at ha rfl hv 3 41 a rfl, fld_at ha rfl hv 4 32 q rfl, fld_at ha rfl hv 5 0 off rfl])

theorem Encoded.vldx (p : BitVec 4) (vr : BitVec 6) (a : BitVec 6) (b : BitVec 6) (q : BitVec 3) (off : BitVec 32) : Encoded.Statement (.vldx p vr a b q off) := fun _ => by
  have ha : Layout.apart 0 [(57, 7), (53, 4), (47, 6), (41, 6), (35, 6), (32, 3), (0, 32)] = true := by decide
  have hv : Fits [(57, 7, 0x3), (53, 4, p.toNat), (47, 6, vr.toNat), (41, 6, a.toNat), (35, 6, b.toNat), (32, 3, q.toNat), (0, 32, off.toNat)] := ⟨by decide, p.isLt, vr.isLt, a.isLt, b.isLt, q.isLt, off.isLt, trivial⟩
  refine (congrArg (fun o => rawMemoryOp o (pack 0 [(57, 7, 0x3), (53, 4, p.toNat), (47, 6, vr.toNat), (41, 6, a.toNat), (35, 6, b.toNat), (32, 3, q.toNat), (0, 32, off.toNat)])) (pack_at ha rfl hv 0 57 7 0x3 rfl)).trans ?_
  exact congrArg some (by rw [fld_at ha rfl hv 1 53 p rfl, fld_at ha rfl hv 2 47 vr rfl, fld_at ha rfl hv 3 41 a rfl, fld_at ha rfl hv 4 35 b rfl, fld_at ha rfl hv 5 32 q rfl, fld_at ha rfl hv 6 0 off rfl])

theorem Encoded.vstx (p : BitVec 4) (vr : BitVec 6) (a : BitVec 6) (b : BitVec 6) (q : BitVec 3) (off : BitVec 32) : Encoded.Statement (.vstx p vr a b q off) := fun _ => by
  have ha : Layout.apart 0 [(57, 7), (53, 4), (47, 6), (41, 6), (35, 6), (32, 3), (0, 32)] = true := by decide
  have hv : Fits [(57, 7, 0x4), (53, 4, p.toNat), (47, 6, vr.toNat), (41, 6, a.toNat), (35, 6, b.toNat), (32, 3, q.toNat), (0, 32, off.toNat)] := ⟨by decide, p.isLt, vr.isLt, a.isLt, b.isLt, q.isLt, off.isLt, trivial⟩
  refine (congrArg (fun o => rawMemoryOp o (pack 0 [(57, 7, 0x4), (53, 4, p.toNat), (47, 6, vr.toNat), (41, 6, a.toNat), (35, 6, b.toNat), (32, 3, q.toNat), (0, 32, off.toNat)])) (pack_at ha rfl hv 0 57 7 0x4 rfl)).trans ?_
  exact congrArg some (by rw [fld_at ha rfl hv 1 53 p rfl, fld_at ha rfl hv 2 47 vr rfl, fld_at ha rfl hv 3 41 a rfl, fld_at ha rfl hv 4 35 b rfl, fld_at ha rfl hv 5 32 q rfl, fld_at ha rfl hv 6 0 off rfl])

theorem Encoded.vldb (p : BitVec 4) (vr : BitVec 6) (a : BitVec 6) (off : BitVec 32) : Encoded.Statement (.vldb p vr a off) := fun _ => by
  have ha : Layout.apart 0 [(57, 7), (53, 4), (47, 6), (41, 6), (0, 32)] = true := by decide
  have hv : Fits [(57, 7, 0x5), (53, 4, p.toNat), (47, 6, vr.toNat), (41, 6, a.toNat), (0, 32, off.toNat)] := ⟨by decide, p.isLt, vr.isLt, a.isLt, off.isLt, trivial⟩
  refine (congrArg (fun o => rawMemoryOp o (pack 0 [(57, 7, 0x5), (53, 4, p.toNat), (47, 6, vr.toNat), (41, 6, a.toNat), (0, 32, off.toNat)])) (pack_at ha rfl hv 0 57 7 0x5 rfl)).trans ?_
  exact congrArg some (by rw [fld_at ha rfl hv 1 53 p rfl, fld_at ha rfl hv 2 47 vr rfl, fld_at ha rfl hv 3 41 a rfl, fld_at ha rfl hv 4 0 off rfl])

theorem Encoded.vlds (p : BitVec 4) (vr : BitVec 6) (a : BitVec 6) (b : BitVec 6) (q : BitVec 3) (off : BitVec 32) : Encoded.Statement (.vlds p vr a b q off) := fun _ => by
  have ha : Layout.apart 0 [(57, 7), (53, 4), (47, 6), (41, 6), (35, 6), (32, 3), (0, 32)] = true := by decide
  have hv : Fits [(57, 7, 0x6), (53, 4, p.toNat), (47, 6, vr.toNat), (41, 6, a.toNat), (35, 6, b.toNat), (32, 3, q.toNat), (0, 32, off.toNat)] := ⟨by decide, p.isLt, vr.isLt, a.isLt, b.isLt, q.isLt, off.isLt, trivial⟩
  refine (congrArg (fun o => rawMemoryOp o (pack 0 [(57, 7, 0x6), (53, 4, p.toNat), (47, 6, vr.toNat), (41, 6, a.toNat), (35, 6, b.toNat), (32, 3, q.toNat), (0, 32, off.toNat)])) (pack_at ha rfl hv 0 57 7 0x6 rfl)).trans ?_
  exact congrArg some (by rw [fld_at ha rfl hv 1 53 p rfl, fld_at ha rfl hv 2 47 vr rfl, fld_at ha rfl hv 3 41 a rfl, fld_at ha rfl hv 4 35 b rfl, fld_at ha rfl hv 5 32 q rfl, fld_at ha rfl hv 6 0 off rfl])

theorem Encoded.vsts (p : BitVec 4) (vr : BitVec 6) (a : BitVec 6) (b : BitVec 6) (q : BitVec 3) (off : BitVec 32) : Encoded.Statement (.vsts p vr a b q off) := fun _ => by
  have ha : Layout.apart 0 [(57, 7), (53, 4), (47, 6), (41, 6), (35, 6), (32, 3), (0, 32)] = true := by decide
  have hv : Fits [(57, 7, 0x7), (53, 4, p.toNat), (47, 6, vr.toNat), (41, 6, a.toNat), (35, 6, b.toNat), (32, 3, q.toNat), (0, 32, off.toNat)] := ⟨by decide, p.isLt, vr.isLt, a.isLt, b.isLt, q.isLt, off.isLt, trivial⟩
  refine (congrArg (fun o => rawMemoryOp o (pack 0 [(57, 7, 0x7), (53, 4, p.toNat), (47, 6, vr.toNat), (41, 6, a.toNat), (35, 6, b.toNat), (32, 3, q.toNat), (0, 32, off.toNat)])) (pack_at ha rfl hv 0 57 7 0x7 rfl)).trans ?_
  exact congrArg some (by rw [fld_at ha rfl hv 1 53 p rfl, fld_at ha rfl hv 2 47 vr rfl, fld_at ha rfl hv 3 41 a rfl, fld_at ha rfl hv 4 35 b rfl, fld_at ha rfl hv 5 32 q rfl, fld_at ha rfl hv 6 0 off rfl])

theorem Encoded.send (p : BitVec 4) (vr : BitVec 6) (tgt : BitVec 9) (sid : BitVec 8) : Encoded.Statement (.send p vr tgt sid) := fun _ => by
  have ha : Layout.apart 0 [(57, 7), (53, 4), (47, 6), (32, 9), (24, 8)] = true := by decide
  have hv : Fits [(57, 7, 0x10), (53, 4, p.toNat), (47, 6, vr.toNat), (32, 9, tgt.toNat), (24, 8, sid.toNat)] := ⟨by decide, p.isLt, vr.isLt, tgt.isLt, sid.isLt, trivial⟩
  refine (congrArg (fun o => rawMemoryOp o (pack 0 [(57, 7, 0x10), (53, 4, p.toNat), (47, 6, vr.toNat), (32, 9, tgt.toNat), (24, 8, sid.toNat)])) (pack_at ha rfl hv 0 57 7 0x10 rfl)).trans ?_
  exact congrArg some (by rw [fld_at ha rfl hv 1 53 p rfl, fld_at ha rfl hv 2 47 vr rfl, fld_at ha rfl hv 3 32 tgt rfl, fld_at ha rfl hv 4 24 sid rfl])

theorem Encoded.recv (p : BitVec 4) (vr : BitVec 6) (sid : BitVec 8) : Encoded.Statement (.recv p vr sid) := fun _ => by
  have ha : Layout.apart 0 [(57, 7), (53, 4), (47, 6), (24, 8)] = true := by decide
  have hv : Fits [(57, 7, 0x11), (53, 4, p.toNat), (47, 6, vr.toNat), (24, 8, sid.toNat)] := ⟨by decide, p.isLt, vr.isLt, sid.isLt, trivial⟩
  refine (congrArg (fun o => rawMemoryOp o (pack 0 [(57, 7, 0x11), (53, 4, p.toNat), (47, 6, vr.toNat), (24, 8, sid.toNat)])) (pack_at ha rfl hv 0 57 7 0x11 rfl)).trans ?_
  exact congrArg some (by rw [fld_at ha rfl hv 1 53 p rfl, fld_at ha rfl hv 2 47 vr rfl, fld_at ha rfl hv 3 24 sid rfl])

theorem Encoded.lsend (p : BitVec 4) (a : BitVec 6) (tgt : BitVec 9) (sid : BitVec 8) (off : BitVec 22) : Encoded.Statement (.lsend p a tgt sid off) := fun _ => by
  have ha : Layout.apart 0 [(57, 7), (53, 4), (41, 6), (32, 9), (24, 8), (0, 22)] = true := by decide
  have hv : Fits [(57, 7, 0x12), (53, 4, p.toNat), (41, 6, a.toNat), (32, 9, tgt.toNat), (24, 8, sid.toNat), (0, 22, off.toNat)] := ⟨by decide, p.isLt, a.isLt, tgt.isLt, sid.isLt, off.isLt, trivial⟩
  refine (congrArg (fun o => rawMemoryOp o (pack 0 [(57, 7, 0x12), (53, 4, p.toNat), (41, 6, a.toNat), (32, 9, tgt.toNat), (24, 8, sid.toNat), (0, 22, off.toNat)])) (pack_at ha rfl hv 0 57 7 0x12 rfl)).trans ?_
  exact congrArg some (by rw [fld_at ha rfl hv 1 53 p rfl, fld_at ha rfl hv 2 41 a rfl, fld_at ha rfl hv 3 32 tgt rfl, fld_at ha rfl hv 4 24 sid rfl, fld_at ha rfl hv 5 0 off rfl])

theorem Encoded.lrecv (p : BitVec 4) (a : BitVec 6) (sid : BitVec 8) (off : BitVec 22) : Encoded.Statement (.lrecv p a sid off) := fun _ => by
  have ha : Layout.apart 0 [(57, 7), (53, 4), (41, 6), (24, 8), (0, 22)] = true := by decide
  have hv : Fits [(57, 7, 0x13), (53, 4, p.toNat), (41, 6, a.toNat), (24, 8, sid.toNat), (0, 22, off.toNat)] := ⟨by decide, p.isLt, a.isLt, sid.isLt, off.isLt, trivial⟩
  refine (congrArg (fun o => rawMemoryOp o (pack 0 [(57, 7, 0x13), (53, 4, p.toNat), (41, 6, a.toNat), (24, 8, sid.toNat), (0, 22, off.toNat)])) (pack_at ha rfl hv 0 57 7 0x13 rfl)).trans ?_
  exact congrArg some (by rw [fld_at ha rfl hv 1 53 p rfl, fld_at ha rfl hv 2 41 a rfl, fld_at ha rfl hv 3 24 sid rfl, fld_at ha rfl hv 4 0 off rfl])

theorem Encoded.dsend (p : BitVec 4) (vr : BitVec 6) (tgt : BitVec 9) (sid : BitVec 8) (die : BitVec 2) : Encoded.Statement (.dsend p vr tgt sid die) := fun _ => by
  have ha : Layout.apart 0 [(57, 7), (53, 4), (47, 6), (32, 9), (24, 8), (22, 2)] = true := by decide
  have hv : Fits [(57, 7, 0x14), (53, 4, p.toNat), (47, 6, vr.toNat), (32, 9, tgt.toNat), (24, 8, sid.toNat), (22, 2, die.toNat)] := ⟨by decide, p.isLt, vr.isLt, tgt.isLt, sid.isLt, die.isLt, trivial⟩
  refine (congrArg (fun o => rawMemoryOp o (pack 0 [(57, 7, 0x14), (53, 4, p.toNat), (47, 6, vr.toNat), (32, 9, tgt.toNat), (24, 8, sid.toNat), (22, 2, die.toNat)])) (pack_at ha rfl hv 0 57 7 0x14 rfl)).trans ?_
  exact congrArg some (by rw [fld_at ha rfl hv 1 53 p rfl, fld_at ha rfl hv 2 47 vr rfl, fld_at ha rfl hv 3 32 tgt rfl, fld_at ha rfl hv 4 24 sid rfl, fld_at ha rfl hv 5 22 die rfl])

theorem Encoded.drecv (p : BitVec 4) (vr : BitVec 6) (sid : BitVec 8) : Encoded.Statement (.drecv p vr sid) := fun _ => by
  have ha : Layout.apart 0 [(57, 7), (53, 4), (47, 6), (24, 8)] = true := by decide
  have hv : Fits [(57, 7, 0x15), (53, 4, p.toNat), (47, 6, vr.toNat), (24, 8, sid.toNat)] := ⟨by decide, p.isLt, vr.isLt, sid.isLt, trivial⟩
  refine (congrArg (fun o => rawMemoryOp o (pack 0 [(57, 7, 0x15), (53, 4, p.toNat), (47, 6, vr.toNat), (24, 8, sid.toNat)])) (pack_at ha rfl hv 0 57 7 0x15 rfl)).trans ?_
  exact congrArg some (by rw [fld_at ha rfl hv 1 53 p rfl, fld_at ha rfl hv 2 47 vr rfl, fld_at ha rfl hv 3 24 sid rfl])

theorem Encoded.fnest (p : BitVec 4) (x : BitVec 6) (a : BitVec 6) (b : BitVec 6) (lv : BitVec 3) : Encoded.Statement (.fnest p x a b lv) := fun _ => by
  have ha : Layout.apart 0 [(57, 7), (53, 4), (47, 6), (41, 6), (35, 6), (32, 3)] = true := by decide
  have hv : Fits [(57, 7, 0x20), (53, 4, p.toNat), (47, 6, x.toNat), (41, 6, a.toNat), (35, 6, b.toNat), (32, 3, lv.toNat)] := ⟨by decide, p.isLt, x.isLt, a.isLt, b.isLt, lv.isLt, trivial⟩
  refine (congrArg (fun o => rawMemoryOp o (pack 0 [(57, 7, 0x20), (53, 4, p.toNat), (47, 6, x.toNat), (41, 6, a.toNat), (35, 6, b.toNat), (32, 3, lv.toNat)])) (pack_at ha rfl hv 0 57 7 0x20 rfl)).trans ?_
  exact congrArg some (by rw [fld_at ha rfl hv 1 53 p rfl, fld_at ha rfl hv 2 47 x rfl, fld_at ha rfl hv 3 41 a rfl, fld_at ha rfl hv 4 35 b rfl, fld_at ha rfl hv 5 32 lv rfl])

theorem Encoded.fbase (p : BitVec 4) (x : BitVec 6) (a : BitVec 6) (b : BitVec 6) : Encoded.Statement (.fbase p x a b) := fun _ => by
  have ha : Layout.apart 0 [(57, 7), (53, 4), (47, 6), (41, 6), (35, 6)] = true := by decide
  have hv : Fits [(57, 7, 0x21), (53, 4, p.toNat), (47, 6, x.toNat), (41, 6, a.toNat), (35, 6, b.toNat)] := ⟨by decide, p.isLt, x.isLt, a.isLt, b.isLt, trivial⟩
  refine (congrArg (fun o => rawMemoryOp o (pack 0 [(57, 7, 0x21), (53, 4, p.toNat), (47, 6, x.toNat), (41, 6, a.toNat), (35, 6, b.toNat)])) (pack_at ha rfl hv 0 57 7 0x21 rfl)).trans ?_
  exact congrArg some (by rw [fld_at ha rfl hv 1 53 p rfl, fld_at ha rfl hv 2 47 x rfl, fld_at ha rfl hv 3 41 a rfl, fld_at ha rfl hv 4 35 b rfl])

theorem Encoded.fidx (p : BitVec 4) (x : BitVec 6) : Encoded.Statement (.fidx p x) := fun _ => by
  have ha : Layout.apart 0 [(57, 7), (53, 4), (47, 6)] = true := by decide
  have hv : Fits [(57, 7, 0x22), (53, 4, p.toNat), (47, 6, x.toNat)] := ⟨by decide, p.isLt, x.isLt, trivial⟩
  refine (congrArg (fun o => rawMemoryOp o (pack 0 [(57, 7, 0x22), (53, 4, p.toNat), (47, 6, x.toNat)])) (pack_at ha rfl hv 0 57 7 0x22 rfl)).trans ?_
  exact congrArg some (by rw [fld_at ha rfl hv 1 53 p rfl, fld_at ha rfl hv 2 47 x rfl])

theorem Encoded.fgo (p : BitVec 4) (a : BitVec 6) (b : BitVec 6) (delay : BitVec 20) (sc : BitVec 4) (ls : BitVec 8) : Encoded.Statement (.fgo p a b delay sc ls) := fun _ => by
  have ha : Layout.apart 0 [(57, 7), (53, 4), (41, 6), (35, 6), (0, 20), (20, 4), (24, 8)] = true := by decide
  have hv : Fits [(57, 7, 0x23), (53, 4, p.toNat), (41, 6, a.toNat), (35, 6, b.toNat), (0, 20, delay.toNat), (20, 4, sc.toNat), (24, 8, ls.toNat)] := ⟨by decide, p.isLt, a.isLt, b.isLt, delay.isLt, sc.isLt, ls.isLt, trivial⟩
  refine (congrArg (fun o => rawMemoryOp o (pack 0 [(57, 7, 0x23), (53, 4, p.toNat), (41, 6, a.toNat), (35, 6, b.toNat), (0, 20, delay.toNat), (20, 4, sc.toNat), (24, 8, ls.toNat)])) (pack_at ha rfl hv 0 57 7 0x23 rfl)).trans ?_
  exact congrArg some (by rw [fld_at ha rfl hv 1 53 p rfl, fld_at ha rfl hv 2 41 a rfl, fld_at ha rfl hv 3 35 b rfl, fld_at ha rfl hv 4 0 delay rfl, fld_at ha rfl hv 5 20 sc rfl, fld_at ha rfl hv 6 24 ls rfl])

theorem Encoded.fsig (p : BitVec 4) (a : BitVec 6) (b : BitVec 6) (sc : BitVec 4) : Encoded.Statement (.fsig p a b sc) := fun _ => by
  have ha : Layout.apart 0 [(57, 7), (53, 4), (41, 6), (35, 6), (20, 4)] = true := by decide
  have hv : Fits [(57, 7, 0x24), (53, 4, p.toNat), (41, 6, a.toNat), (35, 6, b.toNat), (20, 4, sc.toNat)] := ⟨by decide, p.isLt, a.isLt, b.isLt, sc.isLt, trivial⟩
  refine (congrArg (fun o => rawMemoryOp o (pack 0 [(57, 7, 0x24), (53, 4, p.toNat), (41, 6, a.toNat), (35, 6, b.toNat), (20, 4, sc.toNat)])) (pack_at ha rfl hv 0 57 7 0x24 rfl)).trans ?_
  exact congrArg some (by rw [fld_at ha rfl hv 1 53 p rfl, fld_at ha rfl hv 2 41 a rfl, fld_at ha rfl hv 3 35 b rfl, fld_at ha rfl hv 4 20 sc rfl])

theorem Encoded.fred (p : BitVec 4) (x : BitVec 6) (a : BitVec 6) (b : BitVec 6) (f : BitVec 4) (sc : BitVec 4) : Encoded.Statement (.fred p x a b f sc) := fun _ => by
  have ha : Layout.apart 0 [(57, 7), (53, 4), (47, 6), (41, 6), (35, 6), (0, 4), (20, 4)] = true := by decide
  have hv : Fits [(57, 7, 0x25), (53, 4, p.toNat), (47, 6, x.toNat), (41, 6, a.toNat), (35, 6, b.toNat), (0, 4, f.toNat), (20, 4, sc.toNat)] := ⟨by decide, p.isLt, x.isLt, a.isLt, b.isLt, f.isLt, sc.isLt, trivial⟩
  refine (congrArg (fun o => rawMemoryOp o (pack 0 [(57, 7, 0x25), (53, 4, p.toNat), (47, 6, x.toNat), (41, 6, a.toNat), (35, 6, b.toNat), (0, 4, f.toNat), (20, 4, sc.toNat)])) (pack_at ha rfl hv 0 57 7 0x25 rfl)).trans ?_
  exact congrArg some (by rw [fld_at ha rfl hv 1 53 p rfl, fld_at ha rfl hv 2 47 x rfl, fld_at ha rfl hv 3 41 a rfl, fld_at ha rfl hv 4 35 b rfl, fld_at ha rfl hv 5 0 f rfl, fld_at ha rfl hv 6 20 sc rfl])

theorem Encoded.fqry (p : BitVec 4) (x : BitVec 6) (sel : BitVec 2) : Encoded.Statement (.fqry p x sel) := fun _ => by
  have ha : Layout.apart 0 [(57, 7), (53, 4), (47, 6), (0, 2)] = true := by decide
  have hv : Fits [(57, 7, 0x26), (53, 4, p.toNat), (47, 6, x.toNat), (0, 2, sel.toNat)] := ⟨by decide, p.isLt, x.isLt, sel.isLt, trivial⟩
  refine (congrArg (fun o => rawMemoryOp o (pack 0 [(57, 7, 0x26), (53, 4, p.toNat), (47, 6, x.toNat), (0, 2, sel.toNat)])) (pack_at ha rfl hv 0 57 7 0x26 rfl)).trans ?_
  exact congrArg some (by rw [fld_at ha rfl hv 1 53 p rfl, fld_at ha rfl hv 2 47 x rfl, fld_at ha rfl hv 3 0 sel rfl])

theorem Encoded.fcan (p : BitVec 4) (slot : BitVec 6) (all : BitVec 1) : Encoded.Statement (.fcan p slot all) := fun _ => by
  have ha : Layout.apart 0 [(57, 7), (53, 4), (0, 6), (6, 1)] = true := by decide
  have hv : Fits [(57, 7, 0x27), (53, 4, p.toNat), (0, 6, slot.toNat), (6, 1, all.toNat)] := ⟨by decide, p.isLt, slot.isLt, all.isLt, trivial⟩
  refine (congrArg (fun o => rawMemoryOp o (pack 0 [(57, 7, 0x27), (53, 4, p.toNat), (0, 6, slot.toNat), (6, 1, all.toNat)])) (pack_at ha rfl hv 0 57 7 0x27 rfl)).trans ?_
  exact congrArg some (by rw [fld_at ha rfl hv 1 53 p rfl, fld_at ha rfl hv 2 0 slot rfl, fld_at ha rfl hv 3 6 all rfl])

theorem Encoded.wbr (p : BitVec 4) (a : BitVec 6) (b : BitVec 6) (sc : BitVec 4) : Encoded.Statement (.wbr p a b sc) := fun _ => by
  have ha : Layout.apart 0 [(57, 7), (53, 4), (41, 6), (35, 6), (31, 4)] = true := by decide
  have hv : Fits [(57, 7, 0x28), (53, 4, p.toNat), (41, 6, a.toNat), (35, 6, b.toNat), (31, 4, sc.toNat)] := ⟨by decide, p.isLt, a.isLt, b.isLt, sc.isLt, trivial⟩
  refine (congrArg (fun o => rawMemoryOp o (pack 0 [(57, 7, 0x28), (53, 4, p.toNat), (41, 6, a.toNat), (35, 6, b.toNat), (31, 4, sc.toNat)])) (pack_at ha rfl hv 0 57 7 0x28 rfl)).trans ?_
  exact congrArg some (by rw [fld_at ha rfl hv 1 53 p rfl, fld_at ha rfl hv 2 41 a rfl, fld_at ha rfl hv 3 35 b rfl, fld_at ha rfl hv 4 31 sc rfl])

theorem Encoded.invr (p : BitVec 4) (a : BitVec 6) (b : BitVec 6) (sc : BitVec 4) : Encoded.Statement (.invr p a b sc) := fun _ => by
  have ha : Layout.apart 0 [(57, 7), (53, 4), (41, 6), (35, 6), (31, 4)] = true := by decide
  have hv : Fits [(57, 7, 0x29), (53, 4, p.toNat), (41, 6, a.toNat), (35, 6, b.toNat), (31, 4, sc.toNat)] := ⟨by decide, p.isLt, a.isLt, b.isLt, sc.isLt, trivial⟩
  refine (congrArg (fun o => rawMemoryOp o (pack 0 [(57, 7, 0x29), (53, 4, p.toNat), (41, 6, a.toNat), (35, 6, b.toNat), (31, 4, sc.toNat)])) (pack_at ha rfl hv 0 57 7 0x29 rfl)).trans ?_
  exact congrArg some (by rw [fld_at ha rfl hv 1 53 p rfl, fld_at ha rfl hv 2 41 a rfl, fld_at ha rfl hv 3 35 b rfl, fld_at ha rfl hv 4 31 sc rfl])

theorem Encoded.discr (p : BitVec 4) (a : BitVec 6) (b : BitVec 6) (sc : BitVec 4) : Encoded.Statement (.discr p a b sc) := fun _ => by
  have ha : Layout.apart 0 [(57, 7), (53, 4), (41, 6), (35, 6), (31, 4)] = true := by decide
  have hv : Fits [(57, 7, 0x2A), (53, 4, p.toNat), (41, 6, a.toNat), (35, 6, b.toNat), (31, 4, sc.toNat)] := ⟨by decide, p.isLt, a.isLt, b.isLt, sc.isLt, trivial⟩
  refine (congrArg (fun o => rawMemoryOp o (pack 0 [(57, 7, 0x2A), (53, 4, p.toNat), (41, 6, a.toNat), (35, 6, b.toNat), (31, 4, sc.toNat)])) (pack_at ha rfl hv 0 57 7 0x2A rfl)).trans ?_
  exact congrArg some (by rw [fld_at ha rfl hv 1 53 p rfl, fld_at ha rfl hv 2 41 a rfl, fld_at ha rfl hv 3 35 b rfl, fld_at ha rfl hv 4 31 sc rfl])

theorem Encoded.amo (p : BitVec 4) (d : BitVec 6) (a : BitVec 6) (b : BitVec 6) (f : BitVec 4) (sc : BitVec 4) (w : BitVec 1) : Encoded.Statement (.amo p d a b f sc w) := fun _ => by
  have ha : Layout.apart 0 [(57, 7), (53, 4), (47, 6), (41, 6), (35, 6), (25, 4), (21, 4), (20, 1)] = true := by decide
  have hv : Fits [(57, 7, 0x30), (53, 4, p.toNat), (47, 6, d.toNat), (41, 6, a.toNat), (35, 6, b.toNat), (25, 4, f.toNat), (21, 4, sc.toNat), (20, 1, w.toNat)] := ⟨by decide, p.isLt, d.isLt, a.isLt, b.isLt, f.isLt, sc.isLt, w.isLt, trivial⟩
  refine (congrArg (fun o => rawMemoryOp o (pack 0 [(57, 7, 0x30), (53, 4, p.toNat), (47, 6, d.toNat), (41, 6, a.toNat), (35, 6, b.toNat), (25, 4, f.toNat), (21, 4, sc.toNat), (20, 1, w.toNat)])) (pack_at ha rfl hv 0 57 7 0x30 rfl)).trans ?_
  exact congrArg some (by rw [fld_at ha rfl hv 1 53 p rfl, fld_at ha rfl hv 2 47 d rfl, fld_at ha rfl hv 3 41 a rfl, fld_at ha rfl hv 4 35 b rfl, fld_at ha rfl hv 5 25 f rfl, fld_at ha rfl hv 6 21 sc rfl, fld_at ha rfl hv 7 20 w rfl])

theorem Encoded.cas (p : BitVec 4) (d : BitVec 6) (a : BitVec 6) (b : BitVec 6) (c : BitVec 6) (sc : BitVec 4) (w : BitVec 1) : Encoded.Statement (.cas p d a b c sc w) := fun _ => by
  have ha : Layout.apart 0 [(57, 7), (53, 4), (47, 6), (41, 6), (35, 6), (29, 6), (21, 4), (20, 1)] = true := by decide
  have hv : Fits [(57, 7, 0x31), (53, 4, p.toNat), (47, 6, d.toNat), (41, 6, a.toNat), (35, 6, b.toNat), (29, 6, c.toNat), (21, 4, sc.toNat), (20, 1, w.toNat)] := ⟨by decide, p.isLt, d.isLt, a.isLt, b.isLt, c.isLt, sc.isLt, w.isLt, trivial⟩
  refine (congrArg (fun o => rawMemoryOp o (pack 0 [(57, 7, 0x31), (53, 4, p.toNat), (47, 6, d.toNat), (41, 6, a.toNat), (35, 6, b.toNat), (29, 6, c.toNat), (21, 4, sc.toNat), (20, 1, w.toNat)])) (pack_at ha rfl hv 0 57 7 0x31 rfl)).trans ?_
  exact congrArg some (by rw [fld_at ha rfl hv 1 53 p rfl, fld_at ha rfl hv 2 47 d rfl, fld_at ha rfl hv 3 41 a rfl, fld_at ha rfl hv 4 35 b rfl, fld_at ha rfl hv 5 29 c rfl, fld_at ha rfl hv 6 21 sc rfl, fld_at ha rfl hv 7 20 w rfl])

theorem Encoded.binit (p : BitVec 4) (a : BitVec 6) (imm : BitVec 24) : Encoded.Statement (.binit p a imm) := fun _ => by
  have ha : Layout.apart 0 [(57, 7), (53, 4), (41, 6), (0, 24)] = true := by decide
  have hv : Fits [(57, 7, 0x38), (53, 4, p.toNat), (41, 6, a.toNat), (0, 24, imm.toNat)] := ⟨by decide, p.isLt, a.isLt, imm.isLt, trivial⟩
  refine (congrArg (fun o => rawMemoryOp o (pack 0 [(57, 7, 0x38), (53, 4, p.toNat), (41, 6, a.toNat), (0, 24, imm.toNat)])) (pack_at ha rfl hv 0 57 7 0x38 rfl)).trans ?_
  exact congrArg some (by rw [fld_at ha rfl hv 1 53 p rfl, fld_at ha rfl hv 2 41 a rfl, fld_at ha rfl hv 3 0 imm rfl])

theorem Encoded.barrive (p : BitVec 4) (a : BitVec 6) (sc : BitVec 4) (imm : BitVec 24) : Encoded.Statement (.barrive p a sc imm) := fun _ => by
  have ha : Layout.apart 0 [(57, 7), (53, 4), (41, 6), (31, 4), (0, 24)] = true := by decide
  have hv : Fits [(57, 7, 0x39), (53, 4, p.toNat), (41, 6, a.toNat), (31, 4, sc.toNat), (0, 24, imm.toNat)] := ⟨by decide, p.isLt, a.isLt, sc.isLt, imm.isLt, trivial⟩
  refine (congrArg (fun o => rawMemoryOp o (pack 0 [(57, 7, 0x39), (53, 4, p.toNat), (41, 6, a.toNat), (31, 4, sc.toNat), (0, 24, imm.toNat)])) (pack_at ha rfl hv 0 57 7 0x39 rfl)).trans ?_
  exact congrArg some (by rw [fld_at ha rfl hv 1 53 p rfl, fld_at ha rfl hv 2 41 a rfl, fld_at ha rfl hv 3 31 sc rfl, fld_at ha rfl hv 4 0 imm rfl])

theorem Encoded.bexpect (p : BitVec 4) (a : BitVec 6) (b : BitVec 6) : Encoded.Statement (.bexpect p a b) := fun _ => by
  have ha : Layout.apart 0 [(57, 7), (53, 4), (41, 6), (35, 6)] = true := by decide
  have hv : Fits [(57, 7, 0x3A), (53, 4, p.toNat), (41, 6, a.toNat), (35, 6, b.toNat)] := ⟨by decide, p.isLt, a.isLt, b.isLt, trivial⟩
  refine (congrArg (fun o => rawMemoryOp o (pack 0 [(57, 7, 0x3A), (53, 4, p.toNat), (41, 6, a.toNat), (35, 6, b.toNat)])) (pack_at ha rfl hv 0 57 7 0x3A rfl)).trans ?_
  exact congrArg some (by rw [fld_at ha rfl hv 1 53 p rfl, fld_at ha rfl hv 2 41 a rfl, fld_at ha rfl hv 3 35 b rfl])

theorem Encoded.bread (p : BitVec 4) (d : BitVec 6) (a : BitVec 6) : Encoded.Statement (.bread p d a) := fun _ => by
  have ha : Layout.apart 0 [(57, 7), (53, 4), (47, 6), (41, 6)] = true := by decide
  have hv : Fits [(57, 7, 0x3B), (53, 4, p.toNat), (47, 6, d.toNat), (41, 6, a.toNat)] := ⟨by decide, p.isLt, d.isLt, a.isLt, trivial⟩
  refine (congrArg (fun o => rawMemoryOp o (pack 0 [(57, 7, 0x3B), (53, 4, p.toNat), (47, 6, d.toNat), (41, 6, a.toNat)])) (pack_at ha rfl hv 0 57 7 0x3B rfl)).trans ?_
  exact congrArg some (by rw [fld_at ha rfl hv 1 53 p rfl, fld_at ha rfl hv 2 47 d rfl, fld_at ha rfl hv 3 41 a rfl])

theorem Encoded.brearm (p : BitVec 4) (a : BitVec 6) (imm : BitVec 24) : Encoded.Statement (.brearm p a imm) := fun _ => by
  have ha : Layout.apart 0 [(57, 7), (53, 4), (41, 6), (0, 24)] = true := by decide
  have hv : Fits [(57, 7, 0x3C), (53, 4, p.toNat), (41, 6, a.toNat), (0, 24, imm.toNat)] := ⟨by decide, p.isLt, a.isLt, imm.isLt, trivial⟩
  refine (congrArg (fun o => rawMemoryOp o (pack 0 [(57, 7, 0x3C), (53, 4, p.toNat), (41, 6, a.toNat), (0, 24, imm.toNat)])) (pack_at ha rfl hv 0 57 7 0x3C rfl)).trans ?_
  exact congrArg some (by rw [fld_at ha rfl hv 1 53 p rfl, fld_at ha rfl hv 2 41 a rfl, fld_at ha rfl hv 3 0 imm rfl])

theorem Encoded.vadd (p : BitVec 4) (q : BitVec 3) (d : BitVec 6) (a : BitVec 6) (b : BitVec 6) : Encoded.Statement (.vadd p q d a b) := fun _ => by
  have ha : Layout.apart 0 [(57, 7), (53, 4), (50, 3), (44, 6), (38, 6), (32, 6)] = true := by decide
  have hv : Fits [(57, 7, 0x1), (53, 4, p.toNat), (50, 3, q.toNat), (44, 6, d.toNat), (38, 6, a.toNat), (32, 6, b.toNat)] := ⟨by decide, p.isLt, q.isLt, d.isLt, a.isLt, b.isLt, trivial⟩
  refine (congrArg (fun o => rawVectorOp o (pack 0 [(57, 7, 0x1), (53, 4, p.toNat), (50, 3, q.toNat), (44, 6, d.toNat), (38, 6, a.toNat), (32, 6, b.toNat)])) (pack_at ha rfl hv 0 57 7 0x1 rfl)).trans ?_
  exact congrArg some (by rw [fld_at ha rfl hv 1 53 p rfl, fld_at ha rfl hv 2 50 q rfl, fld_at ha rfl hv 3 44 d rfl, fld_at ha rfl hv 4 38 a rfl, fld_at ha rfl hv 5 32 b rfl])

theorem Encoded.vsub (p : BitVec 4) (q : BitVec 3) (d : BitVec 6) (a : BitVec 6) (b : BitVec 6) : Encoded.Statement (.vsub p q d a b) := fun _ => by
  have ha : Layout.apart 0 [(57, 7), (53, 4), (50, 3), (44, 6), (38, 6), (32, 6)] = true := by decide
  have hv : Fits [(57, 7, 0x2), (53, 4, p.toNat), (50, 3, q.toNat), (44, 6, d.toNat), (38, 6, a.toNat), (32, 6, b.toNat)] := ⟨by decide, p.isLt, q.isLt, d.isLt, a.isLt, b.isLt, trivial⟩
  refine (congrArg (fun o => rawVectorOp o (pack 0 [(57, 7, 0x2), (53, 4, p.toNat), (50, 3, q.toNat), (44, 6, d.toNat), (38, 6, a.toNat), (32, 6, b.toNat)])) (pack_at ha rfl hv 0 57 7 0x2 rfl)).trans ?_
  exact congrArg some (by rw [fld_at ha rfl hv 1 53 p rfl, fld_at ha rfl hv 2 50 q rfl, fld_at ha rfl hv 3 44 d rfl, fld_at ha rfl hv 4 38 a rfl, fld_at ha rfl hv 5 32 b rfl])

theorem Encoded.vmul (p : BitVec 4) (q : BitVec 3) (d : BitVec 6) (a : BitVec 6) (b : BitVec 6) : Encoded.Statement (.vmul p q d a b) := fun _ => by
  have ha : Layout.apart 0 [(57, 7), (53, 4), (50, 3), (44, 6), (38, 6), (32, 6)] = true := by decide
  have hv : Fits [(57, 7, 0x3), (53, 4, p.toNat), (50, 3, q.toNat), (44, 6, d.toNat), (38, 6, a.toNat), (32, 6, b.toNat)] := ⟨by decide, p.isLt, q.isLt, d.isLt, a.isLt, b.isLt, trivial⟩
  refine (congrArg (fun o => rawVectorOp o (pack 0 [(57, 7, 0x3), (53, 4, p.toNat), (50, 3, q.toNat), (44, 6, d.toNat), (38, 6, a.toNat), (32, 6, b.toNat)])) (pack_at ha rfl hv 0 57 7 0x3 rfl)).trans ?_
  exact congrArg some (by rw [fld_at ha rfl hv 1 53 p rfl, fld_at ha rfl hv 2 50 q rfl, fld_at ha rfl hv 3 44 d rfl, fld_at ha rfl hv 4 38 a rfl, fld_at ha rfl hv 5 32 b rfl])

theorem Encoded.vand (p : BitVec 4) (q : BitVec 3) (d : BitVec 6) (a : BitVec 6) (b : BitVec 6) : Encoded.Statement (.vand p q d a b) := fun _ => by
  have ha : Layout.apart 0 [(57, 7), (53, 4), (50, 3), (44, 6), (38, 6), (32, 6)] = true := by decide
  have hv : Fits [(57, 7, 0x4), (53, 4, p.toNat), (50, 3, q.toNat), (44, 6, d.toNat), (38, 6, a.toNat), (32, 6, b.toNat)] := ⟨by decide, p.isLt, q.isLt, d.isLt, a.isLt, b.isLt, trivial⟩
  refine (congrArg (fun o => rawVectorOp o (pack 0 [(57, 7, 0x4), (53, 4, p.toNat), (50, 3, q.toNat), (44, 6, d.toNat), (38, 6, a.toNat), (32, 6, b.toNat)])) (pack_at ha rfl hv 0 57 7 0x4 rfl)).trans ?_
  exact congrArg some (by rw [fld_at ha rfl hv 1 53 p rfl, fld_at ha rfl hv 2 50 q rfl, fld_at ha rfl hv 3 44 d rfl, fld_at ha rfl hv 4 38 a rfl, fld_at ha rfl hv 5 32 b rfl])

theorem Encoded.vor (p : BitVec 4) (q : BitVec 3) (d : BitVec 6) (a : BitVec 6) (b : BitVec 6) : Encoded.Statement (.vor p q d a b) := fun _ => by
  have ha : Layout.apart 0 [(57, 7), (53, 4), (50, 3), (44, 6), (38, 6), (32, 6)] = true := by decide
  have hv : Fits [(57, 7, 0x5), (53, 4, p.toNat), (50, 3, q.toNat), (44, 6, d.toNat), (38, 6, a.toNat), (32, 6, b.toNat)] := ⟨by decide, p.isLt, q.isLt, d.isLt, a.isLt, b.isLt, trivial⟩
  refine (congrArg (fun o => rawVectorOp o (pack 0 [(57, 7, 0x5), (53, 4, p.toNat), (50, 3, q.toNat), (44, 6, d.toNat), (38, 6, a.toNat), (32, 6, b.toNat)])) (pack_at ha rfl hv 0 57 7 0x5 rfl)).trans ?_
  exact congrArg some (by rw [fld_at ha rfl hv 1 53 p rfl, fld_at ha rfl hv 2 50 q rfl, fld_at ha rfl hv 3 44 d rfl, fld_at ha rfl hv 4 38 a rfl, fld_at ha rfl hv 5 32 b rfl])

theorem Encoded.vxor (p : BitVec 4) (q : BitVec 3) (d : BitVec 6) (a : BitVec 6) (b : BitVec 6) : Encoded.Statement (.vxor p q d a b) := fun _ => by
  have ha : Layout.apart 0 [(57, 7), (53, 4), (50, 3), (44, 6), (38, 6), (32, 6)] = true := by decide
  have hv : Fits [(57, 7, 0x6), (53, 4, p.toNat), (50, 3, q.toNat), (44, 6, d.toNat), (38, 6, a.toNat), (32, 6, b.toNat)] := ⟨by decide, p.isLt, q.isLt, d.isLt, a.isLt, b.isLt, trivial⟩
  refine (congrArg (fun o => rawVectorOp o (pack 0 [(57, 7, 0x6), (53, 4, p.toNat), (50, 3, q.toNat), (44, 6, d.toNat), (38, 6, a.toNat), (32, 6, b.toNat)])) (pack_at ha rfl hv 0 57 7 0x6 rfl)).trans ?_
  exact congrArg some (by rw [fld_at ha rfl hv 1 53 p rfl, fld_at ha rfl hv 2 50 q rfl, fld_at ha rfl hv 3 44 d rfl, fld_at ha rfl hv 4 38 a rfl, fld_at ha rfl hv 5 32 b rfl])

theorem Encoded.vshl (p : BitVec 4) (q : BitVec 3) (d : BitVec 6) (a : BitVec 6) (b : BitVec 6) : Encoded.Statement (.vshl p q d a b) := fun _ => by
  have ha : Layout.apart 0 [(57, 7), (53, 4), (50, 3), (44, 6), (38, 6), (32, 6)] = true := by decide
  have hv : Fits [(57, 7, 0x7), (53, 4, p.toNat), (50, 3, q.toNat), (44, 6, d.toNat), (38, 6, a.toNat), (32, 6, b.toNat)] := ⟨by decide, p.isLt, q.isLt, d.isLt, a.isLt, b.isLt, trivial⟩
  refine (congrArg (fun o => rawVectorOp o (pack 0 [(57, 7, 0x7), (53, 4, p.toNat), (50, 3, q.toNat), (44, 6, d.toNat), (38, 6, a.toNat), (32, 6, b.toNat)])) (pack_at ha rfl hv 0 57 7 0x7 rfl)).trans ?_
  exact congrArg some (by rw [fld_at ha rfl hv 1 53 p rfl, fld_at ha rfl hv 2 50 q rfl, fld_at ha rfl hv 3 44 d rfl, fld_at ha rfl hv 4 38 a rfl, fld_at ha rfl hv 5 32 b rfl])

theorem Encoded.vshr (p : BitVec 4) (q : BitVec 3) (d : BitVec 6) (a : BitVec 6) (b : BitVec 6) : Encoded.Statement (.vshr p q d a b) := fun _ => by
  have ha : Layout.apart 0 [(57, 7), (53, 4), (50, 3), (44, 6), (38, 6), (32, 6)] = true := by decide
  have hv : Fits [(57, 7, 0x8), (53, 4, p.toNat), (50, 3, q.toNat), (44, 6, d.toNat), (38, 6, a.toNat), (32, 6, b.toNat)] := ⟨by decide, p.isLt, q.isLt, d.isLt, a.isLt, b.isLt, trivial⟩
  refine (congrArg (fun o => rawVectorOp o (pack 0 [(57, 7, 0x8), (53, 4, p.toNat), (50, 3, q.toNat), (44, 6, d.toNat), (38, 6, a.toNat), (32, 6, b.toNat)])) (pack_at ha rfl hv 0 57 7 0x8 rfl)).trans ?_
  exact congrArg some (by rw [fld_at ha rfl hv 1 53 p rfl, fld_at ha rfl hv 2 50 q rfl, fld_at ha rfl hv 3 44 d rfl, fld_at ha rfl hv 4 38 a rfl, fld_at ha rfl hv 5 32 b rfl])

theorem Encoded.vsra (p : BitVec 4) (q : BitVec 3) (d : BitVec 6) (a : BitVec 6) (b : BitVec 6) : Encoded.Statement (.vsra p q d a b) := fun _ => by
  have ha : Layout.apart 0 [(57, 7), (53, 4), (50, 3), (44, 6), (38, 6), (32, 6)] = true := by decide
  have hv : Fits [(57, 7, 0x9), (53, 4, p.toNat), (50, 3, q.toNat), (44, 6, d.toNat), (38, 6, a.toNat), (32, 6, b.toNat)] := ⟨by decide, p.isLt, q.isLt, d.isLt, a.isLt, b.isLt, trivial⟩
  refine (congrArg (fun o => rawVectorOp o (pack 0 [(57, 7, 0x9), (53, 4, p.toNat), (50, 3, q.toNat), (44, 6, d.toNat), (38, 6, a.toNat), (32, 6, b.toNat)])) (pack_at ha rfl hv 0 57 7 0x9 rfl)).trans ?_
  exact congrArg some (by rw [fld_at ha rfl hv 1 53 p rfl, fld_at ha rfl hv 2 50 q rfl, fld_at ha rfl hv 3 44 d rfl, fld_at ha rfl hv 4 38 a rfl, fld_at ha rfl hv 5 32 b rfl])

theorem Encoded.vmin (p : BitVec 4) (q : BitVec 3) (d : BitVec 6) (a : BitVec 6) (b : BitVec 6) : Encoded.Statement (.vmin p q d a b) := fun _ => by
  have ha : Layout.apart 0 [(57, 7), (53, 4), (50, 3), (44, 6), (38, 6), (32, 6)] = true := by decide
  have hv : Fits [(57, 7, 0xA), (53, 4, p.toNat), (50, 3, q.toNat), (44, 6, d.toNat), (38, 6, a.toNat), (32, 6, b.toNat)] := ⟨by decide, p.isLt, q.isLt, d.isLt, a.isLt, b.isLt, trivial⟩
  refine (congrArg (fun o => rawVectorOp o (pack 0 [(57, 7, 0xA), (53, 4, p.toNat), (50, 3, q.toNat), (44, 6, d.toNat), (38, 6, a.toNat), (32, 6, b.toNat)])) (pack_at ha rfl hv 0 57 7 0xA rfl)).trans ?_
  exact congrArg some (by rw [fld_at ha rfl hv 1 53 p rfl, fld_at ha rfl hv 2 50 q rfl, fld_at ha rfl hv 3 44 d rfl, fld_at ha rfl hv 4 38 a rfl, fld_at ha rfl hv 5 32 b rfl])

theorem Encoded.vmax (p : BitVec 4) (q : BitVec 3) (d : BitVec 6) (a : BitVec 6) (b : BitVec 6) : Encoded.Statement (.vmax p q d a b) := fun _ => by
  have ha : Layout.apart 0 [(57, 7), (53, 4), (50, 3), (44, 6), (38, 6), (32, 6)] = true := by decide
  have hv : Fits [(57, 7, 0xB), (53, 4, p.toNat), (50, 3, q.toNat), (44, 6, d.toNat), (38, 6, a.toNat), (32, 6, b.toNat)] := ⟨by decide, p.isLt, q.isLt, d.isLt, a.isLt, b.isLt, trivial⟩
  refine (congrArg (fun o => rawVectorOp o (pack 0 [(57, 7, 0xB), (53, 4, p.toNat), (50, 3, q.toNat), (44, 6, d.toNat), (38, 6, a.toNat), (32, 6, b.toNat)])) (pack_at ha rfl hv 0 57 7 0xB rfl)).trans ?_
  exact congrArg some (by rw [fld_at ha rfl hv 1 53 p rfl, fld_at ha rfl hv 2 50 q rfl, fld_at ha rfl hv 3 44 d rfl, fld_at ha rfl hv 4 38 a rfl, fld_at ha rfl hv 5 32 b rfl])

theorem Encoded.vminu (p : BitVec 4) (q : BitVec 3) (d : BitVec 6) (a : BitVec 6) (b : BitVec 6) : Encoded.Statement (.vminu p q d a b) := fun _ => by
  have ha : Layout.apart 0 [(57, 7), (53, 4), (50, 3), (44, 6), (38, 6), (32, 6)] = true := by decide
  have hv : Fits [(57, 7, 0xC), (53, 4, p.toNat), (50, 3, q.toNat), (44, 6, d.toNat), (38, 6, a.toNat), (32, 6, b.toNat)] := ⟨by decide, p.isLt, q.isLt, d.isLt, a.isLt, b.isLt, trivial⟩
  refine (congrArg (fun o => rawVectorOp o (pack 0 [(57, 7, 0xC), (53, 4, p.toNat), (50, 3, q.toNat), (44, 6, d.toNat), (38, 6, a.toNat), (32, 6, b.toNat)])) (pack_at ha rfl hv 0 57 7 0xC rfl)).trans ?_
  exact congrArg some (by rw [fld_at ha rfl hv 1 53 p rfl, fld_at ha rfl hv 2 50 q rfl, fld_at ha rfl hv 3 44 d rfl, fld_at ha rfl hv 4 38 a rfl, fld_at ha rfl hv 5 32 b rfl])

theorem Encoded.vmaxu (p : BitVec 4) (q : BitVec 3) (d : BitVec 6) (a : BitVec 6) (b : BitVec 6) : Encoded.Statement (.vmaxu p q d a b) := fun _ => by
  have ha : Layout.apart 0 [(57, 7), (53, 4), (50, 3), (44, 6), (38, 6), (32, 6)] = true := by decide
  have hv : Fits [(57, 7, 0xD), (53, 4, p.toNat), (50, 3, q.toNat), (44, 6, d.toNat), (38, 6, a.toNat), (32, 6, b.toNat)] := ⟨by decide, p.isLt, q.isLt, d.isLt, a.isLt, b.isLt, trivial⟩
  refine (congrArg (fun o => rawVectorOp o (pack 0 [(57, 7, 0xD), (53, 4, p.toNat), (50, 3, q.toNat), (44, 6, d.toNat), (38, 6, a.toNat), (32, 6, b.toNat)])) (pack_at ha rfl hv 0 57 7 0xD rfl)).trans ?_
  exact congrArg some (by rw [fld_at ha rfl hv 1 53 p rfl, fld_at ha rfl hv 2 50 q rfl, fld_at ha rfl hv 3 44 d rfl, fld_at ha rfl hv 4 38 a rfl, fld_at ha rfl hv 5 32 b rfl])

theorem Encoded.vcmp (p : BitVec 4) (q : BitVec 3) (d : BitVec 3) (a : BitVec 6) (b : BitVec 6) (f : BitVec 3) : Encoded.Statement (.vcmp p q d a b f) := fun _ => by
  have ha : Layout.apart 0 [(57, 7), (53, 4), (50, 3), (44, 3), (38, 6), (32, 6), (0, 3)] = true := by decide
  have hv : Fits [(57, 7, 0xE), (53, 4, p.toNat), (50, 3, q.toNat), (44, 3, d.toNat), (38, 6, a.toNat), (32, 6, b.toNat), (0, 3, f.toNat)] := ⟨by decide, p.isLt, q.isLt, d.isLt, a.isLt, b.isLt, f.isLt, trivial⟩
  refine (congrArg (fun o => rawVectorOp o (pack 0 [(57, 7, 0xE), (53, 4, p.toNat), (50, 3, q.toNat), (44, 3, d.toNat), (38, 6, a.toNat), (32, 6, b.toNat), (0, 3, f.toNat)])) (pack_at ha rfl hv 0 57 7 0xE rfl)).trans ?_
  exact congrArg some (by rw [fld_at ha rfl hv 1 53 p rfl, fld_at ha rfl hv 2 50 q rfl, fld_at ha rfl hv 3 44 d rfl, fld_at ha rfl hv 4 38 a rfl, fld_at ha rfl hv 5 32 b rfl, fld_at ha rfl hv 6 0 f rfl])

theorem Encoded.vadds (p : BitVec 4) (q : BitVec 3) (d : BitVec 6) (a : BitVec 6) (b : BitVec 6) : Encoded.Statement (.vadds p q d a b) := fun _ => by
  have ha : Layout.apart 0 [(57, 7), (53, 4), (50, 3), (44, 6), (38, 6), (32, 6)] = true := by decide
  have hv : Fits [(57, 7, 0xF), (53, 4, p.toNat), (50, 3, q.toNat), (44, 6, d.toNat), (38, 6, a.toNat), (32, 6, b.toNat)] := ⟨by decide, p.isLt, q.isLt, d.isLt, a.isLt, b.isLt, trivial⟩
  refine (congrArg (fun o => rawVectorOp o (pack 0 [(57, 7, 0xF), (53, 4, p.toNat), (50, 3, q.toNat), (44, 6, d.toNat), (38, 6, a.toNat), (32, 6, b.toNat)])) (pack_at ha rfl hv 0 57 7 0xF rfl)).trans ?_
  exact congrArg some (by rw [fld_at ha rfl hv 1 53 p rfl, fld_at ha rfl hv 2 50 q rfl, fld_at ha rfl hv 3 44 d rfl, fld_at ha rfl hv 4 38 a rfl, fld_at ha rfl hv 5 32 b rfl])

theorem Encoded.vfadd (p : BitVec 4) (q : BitVec 3) (d : BitVec 6) (a : BitVec 6) (b : BitVec 6) (rm : BitVec 2) : Encoded.Statement (.vfadd p q d a b rm) := fun _ => by
  have ha : Layout.apart 0 [(57, 7), (20, 1), (53, 4), (50, 3), (44, 6), (38, 6), (32, 6), (24, 2)] = true := by decide
  have hv : Fits [(57, 7, 0x10), (20, 1, 0x1), (53, 4, p.toNat), (50, 3, q.toNat), (44, 6, d.toNat), (38, 6, a.toNat), (32, 6, b.toNat), (24, 2, rm.toNat)] := ⟨by decide, by decide, p.isLt, q.isLt, d.isLt, a.isLt, b.isLt, rm.isLt, trivial⟩
  refine (congrArg (fun o => rawVectorOp o (pack 0 [(57, 7, 0x10), (20, 1, 0x1), (53, 4, p.toNat), (50, 3, q.toNat), (44, 6, d.toNat), (38, 6, a.toNat), (32, 6, b.toNat), (24, 2, rm.toNat)])) (pack_at ha rfl hv 0 57 7 0x10 rfl)).trans ?_
  exact congrArg some (by rw [fld_at ha rfl hv 2 53 p rfl, fld_at ha rfl hv 3 50 q rfl, fld_at ha rfl hv 4 44 d rfl, fld_at ha rfl hv 5 38 a rfl, fld_at ha rfl hv 6 32 b rfl, fld_at ha rfl hv 7 24 rm rfl])

theorem Encoded.vfsub (p : BitVec 4) (q : BitVec 3) (d : BitVec 6) (a : BitVec 6) (b : BitVec 6) (rm : BitVec 2) : Encoded.Statement (.vfsub p q d a b rm) := fun _ => by
  have ha : Layout.apart 0 [(57, 7), (20, 1), (53, 4), (50, 3), (44, 6), (38, 6), (32, 6), (24, 2)] = true := by decide
  have hv : Fits [(57, 7, 0x11), (20, 1, 0x1), (53, 4, p.toNat), (50, 3, q.toNat), (44, 6, d.toNat), (38, 6, a.toNat), (32, 6, b.toNat), (24, 2, rm.toNat)] := ⟨by decide, by decide, p.isLt, q.isLt, d.isLt, a.isLt, b.isLt, rm.isLt, trivial⟩
  refine (congrArg (fun o => rawVectorOp o (pack 0 [(57, 7, 0x11), (20, 1, 0x1), (53, 4, p.toNat), (50, 3, q.toNat), (44, 6, d.toNat), (38, 6, a.toNat), (32, 6, b.toNat), (24, 2, rm.toNat)])) (pack_at ha rfl hv 0 57 7 0x11 rfl)).trans ?_
  exact congrArg some (by rw [fld_at ha rfl hv 2 53 p rfl, fld_at ha rfl hv 3 50 q rfl, fld_at ha rfl hv 4 44 d rfl, fld_at ha rfl hv 5 38 a rfl, fld_at ha rfl hv 6 32 b rfl, fld_at ha rfl hv 7 24 rm rfl])

theorem Encoded.vfmul (p : BitVec 4) (q : BitVec 3) (d : BitVec 6) (a : BitVec 6) (b : BitVec 6) (rm : BitVec 2) : Encoded.Statement (.vfmul p q d a b rm) := fun _ => by
  have ha : Layout.apart 0 [(57, 7), (20, 1), (53, 4), (50, 3), (44, 6), (38, 6), (32, 6), (24, 2)] = true := by decide
  have hv : Fits [(57, 7, 0x12), (20, 1, 0x1), (53, 4, p.toNat), (50, 3, q.toNat), (44, 6, d.toNat), (38, 6, a.toNat), (32, 6, b.toNat), (24, 2, rm.toNat)] := ⟨by decide, by decide, p.isLt, q.isLt, d.isLt, a.isLt, b.isLt, rm.isLt, trivial⟩
  refine (congrArg (fun o => rawVectorOp o (pack 0 [(57, 7, 0x12), (20, 1, 0x1), (53, 4, p.toNat), (50, 3, q.toNat), (44, 6, d.toNat), (38, 6, a.toNat), (32, 6, b.toNat), (24, 2, rm.toNat)])) (pack_at ha rfl hv 0 57 7 0x12 rfl)).trans ?_
  exact congrArg some (by rw [fld_at ha rfl hv 2 53 p rfl, fld_at ha rfl hv 3 50 q rfl, fld_at ha rfl hv 4 44 d rfl, fld_at ha rfl hv 5 38 a rfl, fld_at ha rfl hv 6 32 b rfl, fld_at ha rfl hv 7 24 rm rfl])

theorem Encoded.vfma (p : BitVec 4) (q : BitVec 3) (d : BitVec 6) (a : BitVec 6) (b : BitVec 6) (c : BitVec 6) (rm : BitVec 2) : Encoded.Statement (.vfma p q d a b c rm) := fun _ => by
  have ha : Layout.apart 0 [(57, 7), (20, 1), (53, 4), (50, 3), (44, 6), (38, 6), (32, 6), (26, 6), (24, 2)] = true := by decide
  have hv : Fits [(57, 7, 0x13), (20, 1, 0x1), (53, 4, p.toNat), (50, 3, q.toNat), (44, 6, d.toNat), (38, 6, a.toNat), (32, 6, b.toNat), (26, 6, c.toNat), (24, 2, rm.toNat)] := ⟨by decide, by decide, p.isLt, q.isLt, d.isLt, a.isLt, b.isLt, c.isLt, rm.isLt, trivial⟩
  refine (congrArg (fun o => rawVectorOp o (pack 0 [(57, 7, 0x13), (20, 1, 0x1), (53, 4, p.toNat), (50, 3, q.toNat), (44, 6, d.toNat), (38, 6, a.toNat), (32, 6, b.toNat), (26, 6, c.toNat), (24, 2, rm.toNat)])) (pack_at ha rfl hv 0 57 7 0x13 rfl)).trans ?_
  exact congrArg some (by rw [fld_at ha rfl hv 2 53 p rfl, fld_at ha rfl hv 3 50 q rfl, fld_at ha rfl hv 4 44 d rfl, fld_at ha rfl hv 5 38 a rfl, fld_at ha rfl hv 6 32 b rfl, fld_at ha rfl hv 7 26 c rfl, fld_at ha rfl hv 8 24 rm rfl])

theorem Encoded.vfnma (p : BitVec 4) (q : BitVec 3) (d : BitVec 6) (a : BitVec 6) (b : BitVec 6) (c : BitVec 6) (rm : BitVec 2) : Encoded.Statement (.vfnma p q d a b c rm) := fun _ => by
  have ha : Layout.apart 0 [(57, 7), (20, 1), (53, 4), (50, 3), (44, 6), (38, 6), (32, 6), (26, 6), (24, 2)] = true := by decide
  have hv : Fits [(57, 7, 0x14), (20, 1, 0x1), (53, 4, p.toNat), (50, 3, q.toNat), (44, 6, d.toNat), (38, 6, a.toNat), (32, 6, b.toNat), (26, 6, c.toNat), (24, 2, rm.toNat)] := ⟨by decide, by decide, p.isLt, q.isLt, d.isLt, a.isLt, b.isLt, c.isLt, rm.isLt, trivial⟩
  refine (congrArg (fun o => rawVectorOp o (pack 0 [(57, 7, 0x14), (20, 1, 0x1), (53, 4, p.toNat), (50, 3, q.toNat), (44, 6, d.toNat), (38, 6, a.toNat), (32, 6, b.toNat), (26, 6, c.toNat), (24, 2, rm.toNat)])) (pack_at ha rfl hv 0 57 7 0x14 rfl)).trans ?_
  exact congrArg some (by rw [fld_at ha rfl hv 2 53 p rfl, fld_at ha rfl hv 3 50 q rfl, fld_at ha rfl hv 4 44 d rfl, fld_at ha rfl hv 5 38 a rfl, fld_at ha rfl hv 6 32 b rfl, fld_at ha rfl hv 7 26 c rfl, fld_at ha rfl hv 8 24 rm rfl])

theorem Encoded.vfmin (p : BitVec 4) (q : BitVec 3) (d : BitVec 6) (a : BitVec 6) (b : BitVec 6) : Encoded.Statement (.vfmin p q d a b) := fun _ => by
  have ha : Layout.apart 0 [(57, 7), (20, 1), (53, 4), (50, 3), (44, 6), (38, 6), (32, 6)] = true := by decide
  have hv : Fits [(57, 7, 0x15), (20, 1, 0x1), (53, 4, p.toNat), (50, 3, q.toNat), (44, 6, d.toNat), (38, 6, a.toNat), (32, 6, b.toNat)] := ⟨by decide, by decide, p.isLt, q.isLt, d.isLt, a.isLt, b.isLt, trivial⟩
  refine (congrArg (fun o => rawVectorOp o (pack 0 [(57, 7, 0x15), (20, 1, 0x1), (53, 4, p.toNat), (50, 3, q.toNat), (44, 6, d.toNat), (38, 6, a.toNat), (32, 6, b.toNat)])) (pack_at ha rfl hv 0 57 7 0x15 rfl)).trans ?_
  exact congrArg some (by rw [fld_at ha rfl hv 2 53 p rfl, fld_at ha rfl hv 3 50 q rfl, fld_at ha rfl hv 4 44 d rfl, fld_at ha rfl hv 5 38 a rfl, fld_at ha rfl hv 6 32 b rfl])

theorem Encoded.vfmax (p : BitVec 4) (q : BitVec 3) (d : BitVec 6) (a : BitVec 6) (b : BitVec 6) : Encoded.Statement (.vfmax p q d a b) := fun _ => by
  have ha : Layout.apart 0 [(57, 7), (20, 1), (53, 4), (50, 3), (44, 6), (38, 6), (32, 6)] = true := by decide
  have hv : Fits [(57, 7, 0x16), (20, 1, 0x1), (53, 4, p.toNat), (50, 3, q.toNat), (44, 6, d.toNat), (38, 6, a.toNat), (32, 6, b.toNat)] := ⟨by decide, by decide, p.isLt, q.isLt, d.isLt, a.isLt, b.isLt, trivial⟩
  refine (congrArg (fun o => rawVectorOp o (pack 0 [(57, 7, 0x16), (20, 1, 0x1), (53, 4, p.toNat), (50, 3, q.toNat), (44, 6, d.toNat), (38, 6, a.toNat), (32, 6, b.toNat)])) (pack_at ha rfl hv 0 57 7 0x16 rfl)).trans ?_
  exact congrArg some (by rw [fld_at ha rfl hv 2 53 p rfl, fld_at ha rfl hv 3 50 q rfl, fld_at ha rfl hv 4 44 d rfl, fld_at ha rfl hv 5 38 a rfl, fld_at ha rfl hv 6 32 b rfl])

theorem Encoded.vfcmp (p : BitVec 4) (q : BitVec 3) (d : BitVec 3) (a : BitVec 6) (b : BitVec 6) (f : BitVec 3) : Encoded.Statement (.vfcmp p q d a b f) := fun _ => by
  have ha : Layout.apart 0 [(57, 7), (20, 1), (53, 4), (50, 3), (44, 3), (38, 6), (32, 6), (0, 3)] = true := by decide
  have hv : Fits [(57, 7, 0x17), (20, 1, 0x1), (53, 4, p.toNat), (50, 3, q.toNat), (44, 3, d.toNat), (38, 6, a.toNat), (32, 6, b.toNat), (0, 3, f.toNat)] := ⟨by decide, by decide, p.isLt, q.isLt, d.isLt, a.isLt, b.isLt, f.isLt, trivial⟩
  refine (congrArg (fun o => rawVectorOp o (pack 0 [(57, 7, 0x17), (20, 1, 0x1), (53, 4, p.toNat), (50, 3, q.toNat), (44, 3, d.toNat), (38, 6, a.toNat), (32, 6, b.toNat), (0, 3, f.toNat)])) (pack_at ha rfl hv 0 57 7 0x17 rfl)).trans ?_
  exact congrArg some (by rw [fld_at ha rfl hv 2 53 p rfl, fld_at ha rfl hv 3 50 q rfl, fld_at ha rfl hv 4 44 d rfl, fld_at ha rfl hv 5 38 a rfl, fld_at ha rfl hv 6 32 b rfl, fld_at ha rfl hv 7 0 f rfl])

theorem Encoded.vfabs (p : BitVec 4) (q : BitVec 3) (d : BitVec 6) (a : BitVec 6) : Encoded.Statement (.vfabs p q d a) := fun _ => by
  have ha : Layout.apart 0 [(57, 7), (20, 1), (53, 4), (50, 3), (44, 6), (38, 6)] = true := by decide
  have hv : Fits [(57, 7, 0x18), (20, 1, 0x1), (53, 4, p.toNat), (50, 3, q.toNat), (44, 6, d.toNat), (38, 6, a.toNat)] := ⟨by decide, by decide, p.isLt, q.isLt, d.isLt, a.isLt, trivial⟩
  refine (congrArg (fun o => rawVectorOp o (pack 0 [(57, 7, 0x18), (20, 1, 0x1), (53, 4, p.toNat), (50, 3, q.toNat), (44, 6, d.toNat), (38, 6, a.toNat)])) (pack_at ha rfl hv 0 57 7 0x18 rfl)).trans ?_
  exact congrArg some (by rw [fld_at ha rfl hv 2 53 p rfl, fld_at ha rfl hv 3 50 q rfl, fld_at ha rfl hv 4 44 d rfl, fld_at ha rfl hv 5 38 a rfl])

theorem Encoded.vfneg (p : BitVec 4) (q : BitVec 3) (d : BitVec 6) (a : BitVec 6) : Encoded.Statement (.vfneg p q d a) := fun _ => by
  have ha : Layout.apart 0 [(57, 7), (20, 1), (53, 4), (50, 3), (44, 6), (38, 6)] = true := by decide
  have hv : Fits [(57, 7, 0x19), (20, 1, 0x1), (53, 4, p.toNat), (50, 3, q.toNat), (44, 6, d.toNat), (38, 6, a.toNat)] := ⟨by decide, by decide, p.isLt, q.isLt, d.isLt, a.isLt, trivial⟩
  refine (congrArg (fun o => rawVectorOp o (pack 0 [(57, 7, 0x19), (20, 1, 0x1), (53, 4, p.toNat), (50, 3, q.toNat), (44, 6, d.toNat), (38, 6, a.toNat)])) (pack_at ha rfl hv 0 57 7 0x19 rfl)).trans ?_
  exact congrArg some (by rw [fld_at ha rfl hv 2 53 p rfl, fld_at ha rfl hv 3 50 q rfl, fld_at ha rfl hv 4 44 d rfl, fld_at ha rfl hv 5 38 a rfl])

theorem Encoded.vbadd (p : BitVec 4) (q : BitVec 3) (d : BitVec 6) (a : BitVec 6) (b : BitVec 6) (rm : BitVec 2) : Encoded.Statement (.vbadd p q d a b rm) := fun _ => by
  have ha : Layout.apart 0 [(57, 7), (21, 1), (53, 4), (50, 3), (44, 6), (38, 6), (32, 6), (24, 2)] = true := by decide
  have hv : Fits [(57, 7, 0x1A), (21, 1, 0x1), (53, 4, p.toNat), (50, 3, q.toNat), (44, 6, d.toNat), (38, 6, a.toNat), (32, 6, b.toNat), (24, 2, rm.toNat)] := ⟨by decide, by decide, p.isLt, q.isLt, d.isLt, a.isLt, b.isLt, rm.isLt, trivial⟩
  refine (congrArg (fun o => rawVectorOp o (pack 0 [(57, 7, 0x1A), (21, 1, 0x1), (53, 4, p.toNat), (50, 3, q.toNat), (44, 6, d.toNat), (38, 6, a.toNat), (32, 6, b.toNat), (24, 2, rm.toNat)])) (pack_at ha rfl hv 0 57 7 0x1A rfl)).trans ?_
  exact congrArg some (by rw [fld_at ha rfl hv 2 53 p rfl, fld_at ha rfl hv 3 50 q rfl, fld_at ha rfl hv 4 44 d rfl, fld_at ha rfl hv 5 38 a rfl, fld_at ha rfl hv 6 32 b rfl, fld_at ha rfl hv 7 24 rm rfl])

theorem Encoded.vbmul (p : BitVec 4) (q : BitVec 3) (d : BitVec 6) (a : BitVec 6) (b : BitVec 6) (rm : BitVec 2) : Encoded.Statement (.vbmul p q d a b rm) := fun _ => by
  have ha : Layout.apart 0 [(57, 7), (21, 1), (53, 4), (50, 3), (44, 6), (38, 6), (32, 6), (24, 2)] = true := by decide
  have hv : Fits [(57, 7, 0x1B), (21, 1, 0x1), (53, 4, p.toNat), (50, 3, q.toNat), (44, 6, d.toNat), (38, 6, a.toNat), (32, 6, b.toNat), (24, 2, rm.toNat)] := ⟨by decide, by decide, p.isLt, q.isLt, d.isLt, a.isLt, b.isLt, rm.isLt, trivial⟩
  refine (congrArg (fun o => rawVectorOp o (pack 0 [(57, 7, 0x1B), (21, 1, 0x1), (53, 4, p.toNat), (50, 3, q.toNat), (44, 6, d.toNat), (38, 6, a.toNat), (32, 6, b.toNat), (24, 2, rm.toNat)])) (pack_at ha rfl hv 0 57 7 0x1B rfl)).trans ?_
  exact congrArg some (by rw [fld_at ha rfl hv 2 53 p rfl, fld_at ha rfl hv 3 50 q rfl, fld_at ha rfl hv 4 44 d rfl, fld_at ha rfl hv 5 38 a rfl, fld_at ha rfl hv 6 32 b rfl, fld_at ha rfl hv 7 24 rm rfl])

theorem Encoded.vbfma (p : BitVec 4) (q : BitVec 3) (d : BitVec 6) (a : BitVec 6) (b : BitVec 6) (c : BitVec 6) (rm : BitVec 2) : Encoded.Statement (.vbfma p q d a b c rm) := fun _ => by
  have ha : Layout.apart 0 [(57, 7), (21, 1), (53, 4), (50, 3), (44, 6), (38, 6), (32, 6), (26, 6), (24, 2)] = true := by decide
  have hv : Fits [(57, 7, 0x1C), (21, 1, 0x1), (53, 4, p.toNat), (50, 3, q.toNat), (44, 6, d.toNat), (38, 6, a.toNat), (32, 6, b.toNat), (26, 6, c.toNat), (24, 2, rm.toNat)] := ⟨by decide, by decide, p.isLt, q.isLt, d.isLt, a.isLt, b.isLt, c.isLt, rm.isLt, trivial⟩
  refine (congrArg (fun o => rawVectorOp o (pack 0 [(57, 7, 0x1C), (21, 1, 0x1), (53, 4, p.toNat), (50, 3, q.toNat), (44, 6, d.toNat), (38, 6, a.toNat), (32, 6, b.toNat), (26, 6, c.toNat), (24, 2, rm.toNat)])) (pack_at ha rfl hv 0 57 7 0x1C rfl)).trans ?_
  exact congrArg some (by rw [fld_at ha rfl hv 2 53 p rfl, fld_at ha rfl hv 3 50 q rfl, fld_at ha rfl hv 4 44 d rfl, fld_at ha rfl hv 5 38 a rfl, fld_at ha rfl hv 6 32 b rfl, fld_at ha rfl hv 7 26 c rfl, fld_at ha rfl hv 8 24 rm rfl])

theorem Encoded.vfrnd (p : BitVec 4) (q : BitVec 3) (d : BitVec 6) (a : BitVec 6) (rm : BitVec 2) : Encoded.Statement (.vfrnd p q d a rm) := fun _ => by
  have ha : Layout.apart 0 [(57, 7), (20, 1), (53, 4), (50, 3), (44, 6), (38, 6), (24, 2)] = true := by decide
  have hv : Fits [(57, 7, 0x1D), (20, 1, 0x1), (53, 4, p.toNat), (50, 3, q.toNat), (44, 6, d.toNat), (38, 6, a.toNat), (24, 2, rm.toNat)] := ⟨by decide, by decide, p.isLt, q.isLt, d.isLt, a.isLt, rm.isLt, trivial⟩
  refine (congrArg (fun o => rawVectorOp o (pack 0 [(57, 7, 0x1D), (20, 1, 0x1), (53, 4, p.toNat), (50, 3, q.toNat), (44, 6, d.toNat), (38, 6, a.toNat), (24, 2, rm.toNat)])) (pack_at ha rfl hv 0 57 7 0x1D rfl)).trans ?_
  exact congrArg some (by rw [fld_at ha rfl hv 2 53 p rfl, fld_at ha rfl hv 3 50 q rfl, fld_at ha rfl hv 4 44 d rfl, fld_at ha rfl hv 5 38 a rfl, fld_at ha rfl hv 6 24 rm rfl])

theorem Encoded.vlmul (p : BitVec 4) (q : BitVec 3) (d : BitVec 6) (a : BitVec 6) (b : BitVec 6) : Encoded.Statement (.vlmul p q d a b) := fun _ => by
  have ha : Layout.apart 0 [(57, 7), (20, 2), (53, 4), (50, 3), (44, 6), (38, 6), (32, 6)] = true := by decide
  have hv : Fits [(57, 7, 0x20), (20, 2, 0x3), (53, 4, p.toNat), (50, 3, q.toNat), (44, 6, d.toNat), (38, 6, a.toNat), (32, 6, b.toNat)] := ⟨by decide, by decide, p.isLt, q.isLt, d.isLt, a.isLt, b.isLt, trivial⟩
  refine (congrArg (fun o => rawVectorOp o (pack 0 [(57, 7, 0x20), (20, 2, 0x3), (53, 4, p.toNat), (50, 3, q.toNat), (44, 6, d.toNat), (38, 6, a.toNat), (32, 6, b.toNat)])) (pack_at ha rfl hv 0 57 7 0x20 rfl)).trans ?_
  exact congrArg some (by rw [fld_at ha rfl hv 2 53 p rfl, fld_at ha rfl hv 3 50 q rfl, fld_at ha rfl hv 4 44 d rfl, fld_at ha rfl hv 5 38 a rfl, fld_at ha rfl hv 6 32 b rfl])

theorem Encoded.vldiv (p : BitVec 4) (q : BitVec 3) (d : BitVec 6) (a : BitVec 6) (b : BitVec 6) : Encoded.Statement (.vldiv p q d a b) := fun _ => by
  have ha : Layout.apart 0 [(57, 7), (20, 2), (53, 4), (50, 3), (44, 6), (38, 6), (32, 6)] = true := by decide
  have hv : Fits [(57, 7, 0x21), (20, 2, 0x3), (53, 4, p.toNat), (50, 3, q.toNat), (44, 6, d.toNat), (38, 6, a.toNat), (32, 6, b.toNat)] := ⟨by decide, by decide, p.isLt, q.isLt, d.isLt, a.isLt, b.isLt, trivial⟩
  refine (congrArg (fun o => rawVectorOp o (pack 0 [(57, 7, 0x21), (20, 2, 0x3), (53, 4, p.toNat), (50, 3, q.toNat), (44, 6, d.toNat), (38, 6, a.toNat), (32, 6, b.toNat)])) (pack_at ha rfl hv 0 57 7 0x21 rfl)).trans ?_
  exact congrArg some (by rw [fld_at ha rfl hv 2 53 p rfl, fld_at ha rfl hv 3 50 q rfl, fld_at ha rfl hv 4 44 d rfl, fld_at ha rfl hv 5 38 a rfl, fld_at ha rfl hv 6 32 b rfl])

theorem Encoded.vlsqrt (p : BitVec 4) (q : BitVec 3) (d : BitVec 6) (a : BitVec 6) : Encoded.Statement (.vlsqrt p q d a) := fun _ => by
  have ha : Layout.apart 0 [(57, 7), (20, 2), (53, 4), (50, 3), (44, 6), (38, 6)] = true := by decide
  have hv : Fits [(57, 7, 0x22), (20, 2, 0x3), (53, 4, p.toNat), (50, 3, q.toNat), (44, 6, d.toNat), (38, 6, a.toNat)] := ⟨by decide, by decide, p.isLt, q.isLt, d.isLt, a.isLt, trivial⟩
  refine (congrArg (fun o => rawVectorOp o (pack 0 [(57, 7, 0x22), (20, 2, 0x3), (53, 4, p.toNat), (50, 3, q.toNat), (44, 6, d.toNat), (38, 6, a.toNat)])) (pack_at ha rfl hv 0 57 7 0x22 rfl)).trans ?_
  exact congrArg some (by rw [fld_at ha rfl hv 2 53 p rfl, fld_at ha rfl hv 3 50 q rfl, fld_at ha rfl hv 4 44 d rfl, fld_at ha rfl hv 5 38 a rfl])

theorem Encoded.vlinv (p : BitVec 4) (q : BitVec 3) (d : BitVec 6) (a : BitVec 6) : Encoded.Statement (.vlinv p q d a) := fun _ => by
  have ha : Layout.apart 0 [(57, 7), (20, 2), (53, 4), (50, 3), (44, 6), (38, 6)] = true := by decide
  have hv : Fits [(57, 7, 0x23), (20, 2, 0x3), (53, 4, p.toNat), (50, 3, q.toNat), (44, 6, d.toNat), (38, 6, a.toNat)] := ⟨by decide, by decide, p.isLt, q.isLt, d.isLt, a.isLt, trivial⟩
  refine (congrArg (fun o => rawVectorOp o (pack 0 [(57, 7, 0x23), (20, 2, 0x3), (53, 4, p.toNat), (50, 3, q.toNat), (44, 6, d.toNat), (38, 6, a.toNat)])) (pack_at ha rfl hv 0 57 7 0x23 rfl)).trans ?_
  exact congrArg some (by rw [fld_at ha rfl hv 2 53 p rfl, fld_at ha rfl hv 3 50 q rfl, fld_at ha rfl hv 4 44 d rfl, fld_at ha rfl hv 5 38 a rfl])

theorem Encoded.vcvt (p : BitVec 4) (q : BitVec 3) (d : BitVec 6) (a : BitVec 6) (rm : BitVec 2) (fmt : BitVec 4) (tgt : BitVec 4) (c8 : BitVec 8) : Encoded.Statement (.vcvt p q d a rm fmt tgt c8) := fun _ => by
  have ha : Layout.apart 0 [(57, 7), (53, 4), (50, 3), (44, 6), (38, 6), (24, 2), (20, 4), (0, 4), (4, 8)] = true := by decide
  have hv : Fits [(57, 7, 0x28), (53, 4, p.toNat), (50, 3, q.toNat), (44, 6, d.toNat), (38, 6, a.toNat), (24, 2, rm.toNat), (20, 4, fmt.toNat), (0, 4, tgt.toNat), (4, 8, c8.toNat)] := ⟨by decide, p.isLt, q.isLt, d.isLt, a.isLt, rm.isLt, fmt.isLt, tgt.isLt, c8.isLt, trivial⟩
  refine (congrArg (fun o => rawVectorOp o (pack 0 [(57, 7, 0x28), (53, 4, p.toNat), (50, 3, q.toNat), (44, 6, d.toNat), (38, 6, a.toNat), (24, 2, rm.toNat), (20, 4, fmt.toNat), (0, 4, tgt.toNat), (4, 8, c8.toNat)])) (pack_at ha rfl hv 0 57 7 0x28 rfl)).trans ?_
  exact congrArg some (by rw [fld_at ha rfl hv 1 53 p rfl, fld_at ha rfl hv 2 50 q rfl, fld_at ha rfl hv 3 44 d rfl, fld_at ha rfl hv 4 38 a rfl, fld_at ha rfl hv 5 24 rm rfl, fld_at ha rfl hv 6 20 fmt rfl, fld_at ha rfl hv 7 0 tgt rfl, fld_at ha rfl hv 8 4 c8 rfl])

theorem Encoded.vexp2 (p : BitVec 4) (q : BitVec 3) (d : BitVec 6) (a : BitVec 6) (rm : BitVec 2) : Encoded.Statement (.vexp2 p q d a rm) := fun _ => by
  have ha : Layout.apart 0 [(57, 7), (20, 1), (53, 4), (50, 3), (44, 6), (38, 6), (24, 2)] = true := by decide
  have hv : Fits [(57, 7, 0x29), (20, 1, 0x1), (53, 4, p.toNat), (50, 3, q.toNat), (44, 6, d.toNat), (38, 6, a.toNat), (24, 2, rm.toNat)] := ⟨by decide, by decide, p.isLt, q.isLt, d.isLt, a.isLt, rm.isLt, trivial⟩
  refine (congrArg (fun o => rawVectorOp o (pack 0 [(57, 7, 0x29), (20, 1, 0x1), (53, 4, p.toNat), (50, 3, q.toNat), (44, 6, d.toNat), (38, 6, a.toNat), (24, 2, rm.toNat)])) (pack_at ha rfl hv 0 57 7 0x29 rfl)).trans ?_
  exact congrArg some (by rw [fld_at ha rfl hv 2 53 p rfl, fld_at ha rfl hv 3 50 q rfl, fld_at ha rfl hv 4 44 d rfl, fld_at ha rfl hv 5 38 a rfl, fld_at ha rfl hv 6 24 rm rfl])

theorem Encoded.vlog2 (p : BitVec 4) (q : BitVec 3) (d : BitVec 6) (a : BitVec 6) (rm : BitVec 2) : Encoded.Statement (.vlog2 p q d a rm) := fun _ => by
  have ha : Layout.apart 0 [(57, 7), (20, 1), (53, 4), (50, 3), (44, 6), (38, 6), (24, 2)] = true := by decide
  have hv : Fits [(57, 7, 0x2A), (20, 1, 0x1), (53, 4, p.toNat), (50, 3, q.toNat), (44, 6, d.toNat), (38, 6, a.toNat), (24, 2, rm.toNat)] := ⟨by decide, by decide, p.isLt, q.isLt, d.isLt, a.isLt, rm.isLt, trivial⟩
  refine (congrArg (fun o => rawVectorOp o (pack 0 [(57, 7, 0x2A), (20, 1, 0x1), (53, 4, p.toNat), (50, 3, q.toNat), (44, 6, d.toNat), (38, 6, a.toNat), (24, 2, rm.toNat)])) (pack_at ha rfl hv 0 57 7 0x2A rfl)).trans ?_
  exact congrArg some (by rw [fld_at ha rfl hv 2 53 p rfl, fld_at ha rfl hv 3 50 q rfl, fld_at ha rfl hv 4 44 d rfl, fld_at ha rfl hv 5 38 a rfl, fld_at ha rfl hv 6 24 rm rfl])

theorem Encoded.vmov (p : BitVec 4) (q : BitVec 3) (d : BitVec 6) (b : BitVec 6) : Encoded.Statement (.vmov p q d b) := fun _ => by
  have ha : Layout.apart 0 [(57, 7), (53, 4), (50, 3), (44, 6), (32, 6)] = true := by decide
  have hv : Fits [(57, 7, 0x30), (53, 4, p.toNat), (50, 3, q.toNat), (44, 6, d.toNat), (32, 6, b.toNat)] := ⟨by decide, p.isLt, q.isLt, d.isLt, b.isLt, trivial⟩
  refine (congrArg (fun o => rawVectorOp o (pack 0 [(57, 7, 0x30), (53, 4, p.toNat), (50, 3, q.toNat), (44, 6, d.toNat), (32, 6, b.toNat)])) (pack_at ha rfl hv 0 57 7 0x30 rfl)).trans ?_
  exact congrArg some (by rw [fld_at ha rfl hv 1 53 p rfl, fld_at ha rfl hv 2 50 q rfl, fld_at ha rfl hv 3 44 d rfl, fld_at ha rfl hv 4 32 b rfl])

theorem Encoded.vsel (p : BitVec 4) (q : BitVec 3) (d : BitVec 6) (a : BitVec 6) (b : BitVec 6) (qc : BitVec 3) : Encoded.Statement (.vsel p q d a b qc) := fun _ => by
  have ha : Layout.apart 0 [(57, 7), (53, 4), (50, 3), (44, 6), (38, 6), (32, 6), (26, 3)] = true := by decide
  have hv : Fits [(57, 7, 0x31), (53, 4, p.toNat), (50, 3, q.toNat), (44, 6, d.toNat), (38, 6, a.toNat), (32, 6, b.toNat), (26, 3, qc.toNat)] := ⟨by decide, p.isLt, q.isLt, d.isLt, a.isLt, b.isLt, qc.isLt, trivial⟩
  refine (congrArg (fun o => rawVectorOp o (pack 0 [(57, 7, 0x31), (53, 4, p.toNat), (50, 3, q.toNat), (44, 6, d.toNat), (38, 6, a.toNat), (32, 6, b.toNat), (26, 3, qc.toNat)])) (pack_at ha rfl hv 0 57 7 0x31 rfl)).trans ?_
  exact congrArg some (by rw [fld_at ha rfl hv 1 53 p rfl, fld_at ha rfl hv 2 50 q rfl, fld_at ha rfl hv 3 44 d rfl, fld_at ha rfl hv 4 38 a rfl, fld_at ha rfl hv 5 32 b rfl, fld_at ha rfl hv 6 26 qc rfl])

theorem Encoded.vperm (p : BitVec 4) (q : BitVec 3) (d : BitVec 6) (a : BitVec 6) (b : BitVec 6) : Encoded.Statement (.vperm p q d a b) := fun _ => by
  have ha : Layout.apart 0 [(57, 7), (53, 4), (50, 3), (44, 6), (38, 6), (32, 6)] = true := by decide
  have hv : Fits [(57, 7, 0x32), (53, 4, p.toNat), (50, 3, q.toNat), (44, 6, d.toNat), (38, 6, a.toNat), (32, 6, b.toNat)] := ⟨by decide, p.isLt, q.isLt, d.isLt, a.isLt, b.isLt, trivial⟩
  refine (congrArg (fun o => rawVectorOp o (pack 0 [(57, 7, 0x32), (53, 4, p.toNat), (50, 3, q.toNat), (44, 6, d.toNat), (38, 6, a.toNat), (32, 6, b.toNat)])) (pack_at ha rfl hv 0 57 7 0x32 rfl)).trans ?_
  exact congrArg some (by rw [fld_at ha rfl hv 1 53 p rfl, fld_at ha rfl hv 2 50 q rfl, fld_at ha rfl hv 3 44 d rfl, fld_at ha rfl hv 4 38 a rfl, fld_at ha rfl hv 5 32 b rfl])

theorem Encoded.vrot (p : BitVec 4) (q : BitVec 3) (d : BitVec 6) (a : BitVec 6) (n : BitVec 6) : Encoded.Statement (.vrot p q d a n) := fun _ => by
  have ha : Layout.apart 0 [(57, 7), (53, 4), (50, 3), (44, 6), (38, 6), (0, 6)] = true := by decide
  have hv : Fits [(57, 7, 0x33), (53, 4, p.toNat), (50, 3, q.toNat), (44, 6, d.toNat), (38, 6, a.toNat), (0, 6, n.toNat)] := ⟨by decide, p.isLt, q.isLt, d.isLt, a.isLt, n.isLt, trivial⟩
  refine (congrArg (fun o => rawVectorOp o (pack 0 [(57, 7, 0x33), (53, 4, p.toNat), (50, 3, q.toNat), (44, 6, d.toNat), (38, 6, a.toNat), (0, 6, n.toNat)])) (pack_at ha rfl hv 0 57 7 0x33 rfl)).trans ?_
  exact congrArg some (by rw [fld_at ha rfl hv 1 53 p rfl, fld_at ha rfl hv 2 50 q rfl, fld_at ha rfl hv 3 44 d rfl, fld_at ha rfl hv 4 38 a rfl, fld_at ha rfl hv 5 0 n rfl])

theorem Encoded.vred (p : BitVec 4) (q : BitVec 3) (d : BitVec 6) (a : BitVec 6) (rm : BitVec 2) (fmt : BitVec 4) (f : BitVec 3) : Encoded.Statement (.vred p q d a rm fmt f) := fun _ => by
  have ha : Layout.apart 0 [(57, 7), (53, 4), (50, 3), (44, 6), (38, 6), (24, 2), (20, 4), (0, 3)] = true := by decide
  have hv : Fits [(57, 7, 0x34), (53, 4, p.toNat), (50, 3, q.toNat), (44, 6, d.toNat), (38, 6, a.toNat), (24, 2, rm.toNat), (20, 4, fmt.toNat), (0, 3, f.toNat)] := ⟨by decide, p.isLt, q.isLt, d.isLt, a.isLt, rm.isLt, fmt.isLt, f.isLt, trivial⟩
  refine (congrArg (fun o => rawVectorOp o (pack 0 [(57, 7, 0x34), (53, 4, p.toNat), (50, 3, q.toNat), (44, 6, d.toNat), (38, 6, a.toNat), (24, 2, rm.toNat), (20, 4, fmt.toNat), (0, 3, f.toNat)])) (pack_at ha rfl hv 0 57 7 0x34 rfl)).trans ?_
  exact congrArg some (by rw [fld_at ha rfl hv 1 53 p rfl, fld_at ha rfl hv 2 50 q rfl, fld_at ha rfl hv 3 44 d rfl, fld_at ha rfl hv 4 38 a rfl, fld_at ha rfl hv 5 24 rm rfl, fld_at ha rfl hv 6 20 fmt rfl, fld_at ha rfl hv 7 0 f rfl])

theorem Encoded.vext (p : BitVec 4) (d : BitVec 6) (a : BitVec 6) (n : BitVec 6) : Encoded.Statement (.vext p d a n) := fun _ => by
  have ha : Layout.apart 0 [(57, 7), (53, 4), (44, 6), (38, 6), (0, 6)] = true := by decide
  have hv : Fits [(57, 7, 0x35), (53, 4, p.toNat), (44, 6, d.toNat), (38, 6, a.toNat), (0, 6, n.toNat)] := ⟨by decide, p.isLt, d.isLt, a.isLt, n.isLt, trivial⟩
  refine (congrArg (fun o => rawVectorOp o (pack 0 [(57, 7, 0x35), (53, 4, p.toNat), (44, 6, d.toNat), (38, 6, a.toNat), (0, 6, n.toNat)])) (pack_at ha rfl hv 0 57 7 0x35 rfl)).trans ?_
  exact congrArg some (by rw [fld_at ha rfl hv 1 53 p rfl, fld_at ha rfl hv 2 44 d rfl, fld_at ha rfl hv 3 38 a rfl, fld_at ha rfl hv 4 0 n rfl])

theorem Encoded.vins (p : BitVec 4) (d : BitVec 6) (b : BitVec 6) (n : BitVec 6) : Encoded.Statement (.vins p d b n) := fun _ => by
  have ha : Layout.apart 0 [(57, 7), (53, 4), (44, 6), (32, 6), (0, 6)] = true := by decide
  have hv : Fits [(57, 7, 0x36), (53, 4, p.toNat), (44, 6, d.toNat), (32, 6, b.toNat), (0, 6, n.toNat)] := ⟨by decide, p.isLt, d.isLt, b.isLt, n.isLt, trivial⟩
  refine (congrArg (fun o => rawVectorOp o (pack 0 [(57, 7, 0x36), (53, 4, p.toNat), (44, 6, d.toNat), (32, 6, b.toNat), (0, 6, n.toNat)])) (pack_at ha rfl hv 0 57 7 0x36 rfl)).trans ?_
  exact congrArg some (by rw [fld_at ha rfl hv 1 53 p rfl, fld_at ha rfl hv 2 44 d rfl, fld_at ha rfl hv 3 32 b rfl, fld_at ha rfl hv 4 0 n rfl])

theorem Encoded.viota (p : BitVec 4) (q : BitVec 3) (d : BitVec 6) : Encoded.Statement (.viota p q d) := fun _ => by
  have ha : Layout.apart 0 [(57, 7), (53, 4), (50, 3), (44, 6)] = true := by decide
  have hv : Fits [(57, 7, 0x37), (53, 4, p.toNat), (50, 3, q.toNat), (44, 6, d.toNat)] := ⟨by decide, p.isLt, q.isLt, d.isLt, trivial⟩
  refine (congrArg (fun o => rawVectorOp o (pack 0 [(57, 7, 0x37), (53, 4, p.toNat), (50, 3, q.toNat), (44, 6, d.toNat)])) (pack_at ha rfl hv 0 57 7 0x37 rfl)).trans ?_
  exact congrArg some (by rw [fld_at ha rfl hv 1 53 p rfl, fld_at ha rfl hv 2 50 q rfl, fld_at ha rfl hv 3 44 d rfl])

theorem Encoded.vpack (p : BitVec 4) (d : BitVec 6) (a : BitVec 6) (b : BitVec 6) : Encoded.Statement (.vpack p d a b) := fun _ => by
  have ha : Layout.apart 0 [(57, 7), (53, 4), (44, 6), (38, 6), (32, 6)] = true := by decide
  have hv : Fits [(57, 7, 0x38), (53, 4, p.toNat), (44, 6, d.toNat), (38, 6, a.toNat), (32, 6, b.toNat)] := ⟨by decide, p.isLt, d.isLt, a.isLt, b.isLt, trivial⟩
  refine (congrArg (fun o => rawVectorOp o (pack 0 [(57, 7, 0x38), (53, 4, p.toNat), (44, 6, d.toNat), (38, 6, a.toNat), (32, 6, b.toNat)])) (pack_at ha rfl hv 0 57 7 0x38 rfl)).trans ?_
  exact congrArg some (by rw [fld_at ha rfl hv 1 53 p rfl, fld_at ha rfl hv 2 44 d rfl, fld_at ha rfl hv 3 38 a rfl, fld_at ha rfl hv 4 32 b rfl])

theorem Encoded.vunpk (p : BitVec 4) (q : BitVec 3) (d : BitVec 6) (a : BitVec 6) (h : BitVec 1) : Encoded.Statement (.vunpk p q d a h) := fun _ => by
  have ha : Layout.apart 0 [(57, 7), (53, 4), (50, 3), (44, 6), (38, 6), (0, 1)] = true := by decide
  have hv : Fits [(57, 7, 0x39), (53, 4, p.toNat), (50, 3, q.toNat), (44, 6, d.toNat), (38, 6, a.toNat), (0, 1, h.toNat)] := ⟨by decide, p.isLt, q.isLt, d.isLt, a.isLt, h.isLt, trivial⟩
  refine (congrArg (fun o => rawVectorOp o (pack 0 [(57, 7, 0x39), (53, 4, p.toNat), (50, 3, q.toNat), (44, 6, d.toNat), (38, 6, a.toNat), (0, 1, h.toNat)])) (pack_at ha rfl hv 0 57 7 0x39 rfl)).trans ?_
  exact congrArg some (by rw [fld_at ha rfl hv 1 53 p rfl, fld_at ha rfl hv 2 50 q rfl, fld_at ha rfl hv 3 44 d rfl, fld_at ha rfl hv 4 38 a rfl, fld_at ha rfl hv 5 0 h rfl])

theorem Encoded.qlog (p : BitVec 4) (d : BitVec 3) (a : BitVec 3) (b : BitVec 3) (f : BitVec 3) : Encoded.Statement (.qlog p d a b f) := fun _ => by
  have ha : Layout.apart 0 [(57, 7), (53, 4), (44, 3), (38, 3), (32, 3), (0, 3)] = true := by decide
  have hv : Fits [(57, 7, 0x3A), (53, 4, p.toNat), (44, 3, d.toNat), (38, 3, a.toNat), (32, 3, b.toNat), (0, 3, f.toNat)] := ⟨by decide, p.isLt, d.isLt, a.isLt, b.isLt, f.isLt, trivial⟩
  refine (congrArg (fun o => rawVectorOp o (pack 0 [(57, 7, 0x3A), (53, 4, p.toNat), (44, 3, d.toNat), (38, 3, a.toNat), (32, 3, b.toNat), (0, 3, f.toNat)])) (pack_at ha rfl hv 0 57 7 0x3A rfl)).trans ?_
  exact congrArg some (by rw [fld_at ha rfl hv 1 53 p rfl, fld_at ha rfl hv 2 44 d rfl, fld_at ha rfl hv 3 38 a rfl, fld_at ha rfl hv 4 32 b rfl, fld_at ha rfl hv 5 0 f rfl])

theorem Encoded.qset (p : BitVec 4) (d : BitVec 3) : Encoded.Statement (.qset p d) := fun _ => by
  have ha : Layout.apart 0 [(57, 7), (32, 6), (53, 4), (44, 3)] = true := by decide
  have hv : Fits [(57, 7, 0x3B), (32, 6, 0x3F), (53, 4, p.toNat), (44, 3, d.toNat)] := ⟨by decide, by decide, p.isLt, d.isLt, trivial⟩
  refine (congrArg (fun o => rawVectorOp o (pack 0 [(57, 7, 0x3B), (32, 6, 0x3F), (53, 4, p.toNat), (44, 3, d.toNat)])) (pack_at ha rfl hv 0 57 7 0x3B rfl)).trans ?_
  exact congrArg some (by rw [fld_at ha rfl hv 2 53 p rfl, fld_at ha rfl hv 3 44 d rfl])

theorem Encoded.qget (p : BitVec 4) (d : BitVec 6) (a : BitVec 3) : Encoded.Statement (.qget p d a) := fun _ => by
  have ha : Layout.apart 0 [(57, 7), (53, 4), (44, 6), (38, 3)] = true := by decide
  have hv : Fits [(57, 7, 0x3C), (53, 4, p.toNat), (44, 6, d.toNat), (38, 3, a.toNat)] := ⟨by decide, p.isLt, d.isLt, a.isLt, trivial⟩
  refine (congrArg (fun o => rawVectorOp o (pack 0 [(57, 7, 0x3C), (53, 4, p.toNat), (44, 6, d.toNat), (38, 3, a.toNat)])) (pack_at ha rfl hv 0 57 7 0x3C rfl)).trans ?_
  exact congrArg some (by rw [fld_at ha rfl hv 1 53 p rfl, fld_at ha rfl hv 2 44 d rfl, fld_at ha rfl hv 3 38 a rfl])

theorem Encoded.vclz (p : BitVec 4) (q : BitVec 3) (d : BitVec 6) (a : BitVec 6) : Encoded.Statement (.vclz p q d a) := fun _ => by
  have ha : Layout.apart 0 [(57, 7), (53, 4), (50, 3), (44, 6), (38, 6)] = true := by decide
  have hv : Fits [(57, 7, 0x3D), (53, 4, p.toNat), (50, 3, q.toNat), (44, 6, d.toNat), (38, 6, a.toNat)] := ⟨by decide, p.isLt, q.isLt, d.isLt, a.isLt, trivial⟩
  refine (congrArg (fun o => rawVectorOp o (pack 0 [(57, 7, 0x3D), (53, 4, p.toNat), (50, 3, q.toNat), (44, 6, d.toNat), (38, 6, a.toNat)])) (pack_at ha rfl hv 0 57 7 0x3D rfl)).trans ?_
  exact congrArg some (by rw [fld_at ha rfl hv 1 53 p rfl, fld_at ha rfl hv 2 50 q rfl, fld_at ha rfl hv 3 44 d rfl, fld_at ha rfl hv 4 38 a rfl])

theorem Encoded.vpopc (p : BitVec 4) (q : BitVec 3) (d : BitVec 6) (a : BitVec 6) : Encoded.Statement (.vpopc p q d a) := fun _ => by
  have ha : Layout.apart 0 [(57, 7), (53, 4), (50, 3), (44, 6), (38, 6)] = true := by decide
  have hv : Fits [(57, 7, 0x3E), (53, 4, p.toNat), (50, 3, q.toNat), (44, 6, d.toNat), (38, 6, a.toNat)] := ⟨by decide, p.isLt, q.isLt, d.isLt, a.isLt, trivial⟩
  refine (congrArg (fun o => rawVectorOp o (pack 0 [(57, 7, 0x3E), (53, 4, p.toNat), (50, 3, q.toNat), (44, 6, d.toNat), (38, 6, a.toNat)])) (pack_at ha rfl hv 0 57 7 0x3E rfl)).trans ?_
  exact congrArg some (by rw [fld_at ha rfl hv 1 53 p rfl, fld_at ha rfl hv 2 50 q rfl, fld_at ha rfl hv 3 44 d rfl, fld_at ha rfl hv 4 38 a rfl])

theorem Encoded.vmulh (p : BitVec 4) (q : BitVec 3) (d : BitVec 6) (a : BitVec 6) (b : BitVec 6) : Encoded.Statement (.vmulh p q d a b) := fun _ => by
  have ha : Layout.apart 0 [(57, 7), (53, 4), (50, 3), (44, 6), (38, 6), (32, 6)] = true := by decide
  have hv : Fits [(57, 7, 0x3F), (53, 4, p.toNat), (50, 3, q.toNat), (44, 6, d.toNat), (38, 6, a.toNat), (32, 6, b.toNat)] := ⟨by decide, p.isLt, q.isLt, d.isLt, a.isLt, b.isLt, trivial⟩
  refine (congrArg (fun o => rawVectorOp o (pack 0 [(57, 7, 0x3F), (53, 4, p.toNat), (50, 3, q.toNat), (44, 6, d.toNat), (38, 6, a.toNat), (32, 6, b.toNat)])) (pack_at ha rfl hv 0 57 7 0x3F rfl)).trans ?_
  exact congrArg some (by rw [fld_at ha rfl hv 1 53 p rfl, fld_at ha rfl hv 2 50 q rfl, fld_at ha rfl hv 3 44 d rfl, fld_at ha rfl hv 4 38 a rfl, fld_at ha rfl hv 5 32 b rfl])

theorem Encoded.mldw (p : BitVec 4) (delay : BitVec 20) (a : BitVec 6) (b : BitVec 6) (vs : BitVec 6) (nr : BitVec 7) (wf : BitVec 4) : Encoded.Statement (.mldw p delay a b vs nr wf) := fun _ => by
  have ha : Layout.apart 0 [(58, 6), (54, 4), (31, 20), (25, 6), (19, 6), (13, 6), (6, 7), (2, 4)] = true := by decide
  have hv : Fits [(58, 6, 0x1), (54, 4, p.toNat), (31, 20, delay.toNat), (25, 6, a.toNat), (19, 6, b.toNat), (13, 6, vs.toNat), (6, 7, nr.toNat), (2, 4, wf.toNat)] := ⟨by decide, p.isLt, delay.isLt, a.isLt, b.isLt, vs.isLt, nr.isLt, wf.isLt, trivial⟩
  refine (congrArg (fun o => rawMatrixOp o (pack 0 [(58, 6, 0x1), (54, 4, p.toNat), (31, 20, delay.toNat), (25, 6, a.toNat), (19, 6, b.toNat), (13, 6, vs.toNat), (6, 7, nr.toNat), (2, 4, wf.toNat)])) (pack_at ha rfl hv 0 58 6 0x1 rfl)).trans ?_
  exact congrArg some (by rw [fld_at ha rfl hv 1 54 p rfl, fld_at ha rfl hv 2 31 delay rfl, fld_at ha rfl hv 3 25 a rfl, fld_at ha rfl hv 4 19 b rfl, fld_at ha rfl hv 5 13 vs rfl, fld_at ha rfl hv 6 6 nr rfl, fld_at ha rfl hv 7 2 wf rfl])

theorem Encoded.mswap (p : BitVec 4) (delay : BitVec 20) : Encoded.Statement (.mswap p delay) := fun _ => by
  have ha : Layout.apart 0 [(58, 6), (54, 4), (31, 20)] = true := by decide
  have hv : Fits [(58, 6, 0x2), (54, 4, p.toNat), (31, 20, delay.toNat)] := ⟨by decide, p.isLt, delay.isLt, trivial⟩
  refine (congrArg (fun o => rawMatrixOp o (pack 0 [(58, 6, 0x2), (54, 4, p.toNat), (31, 20, delay.toNat)])) (pack_at ha rfl hv 0 58 6 0x2 rfl)).trans ?_
  exact congrArg some (by rw [fld_at ha rfl hv 1 54 p rfl, fld_at ha rfl hv 2 31 delay rfl])

theorem Encoded.mstr (p : BitVec 4) (acc : BitVec 3) (delay : BitVec 20) (a : BitVec 6) (b : BitVec 6) (nr : BitVec 7) (wf : BitVec 4) : Encoded.Statement (.mstr p acc delay a b nr wf) := fun _ => by
  have ha : Layout.apart 0 [(58, 6), (54, 4), (51, 3), (31, 20), (25, 6), (19, 6), (6, 7), (2, 4)] = true := by decide
  have hv : Fits [(58, 6, 0x3), (54, 4, p.toNat), (51, 3, acc.toNat), (31, 20, delay.toNat), (25, 6, a.toNat), (19, 6, b.toNat), (6, 7, nr.toNat), (2, 4, wf.toNat)] := ⟨by decide, p.isLt, acc.isLt, delay.isLt, a.isLt, b.isLt, nr.isLt, wf.isLt, trivial⟩
  refine (congrArg (fun o => rawMatrixOp o (pack 0 [(58, 6, 0x3), (54, 4, p.toNat), (51, 3, acc.toNat), (31, 20, delay.toNat), (25, 6, a.toNat), (19, 6, b.toNat), (6, 7, nr.toNat), (2, 4, wf.toNat)])) (pack_at ha rfl hv 0 58 6 0x3 rfl)).trans ?_
  exact congrArg some (by rw [fld_at ha rfl hv 1 54 p rfl, fld_at ha rfl hv 2 51 acc rfl, fld_at ha rfl hv 3 31 delay rfl, fld_at ha rfl hv 4 25 a rfl, fld_at ha rfl hv 5 19 b rfl, fld_at ha rfl hv 6 6 nr rfl, fld_at ha rfl hv 7 2 wf rfl])

theorem Encoded.mstrz (p : BitVec 4) (acc : BitVec 3) (delay : BitVec 20) (a : BitVec 6) (b : BitVec 6) (nr : BitVec 7) (wf : BitVec 4) : Encoded.Statement (.mstrz p acc delay a b nr wf) := fun _ => by
  have ha : Layout.apart 0 [(58, 6), (54, 4), (51, 3), (31, 20), (25, 6), (19, 6), (6, 7), (2, 4)] = true := by decide
  have hv : Fits [(58, 6, 0x4), (54, 4, p.toNat), (51, 3, acc.toNat), (31, 20, delay.toNat), (25, 6, a.toNat), (19, 6, b.toNat), (6, 7, nr.toNat), (2, 4, wf.toNat)] := ⟨by decide, p.isLt, acc.isLt, delay.isLt, a.isLt, b.isLt, nr.isLt, wf.isLt, trivial⟩
  refine (congrArg (fun o => rawMatrixOp o (pack 0 [(58, 6, 0x4), (54, 4, p.toNat), (51, 3, acc.toNat), (31, 20, delay.toNat), (25, 6, a.toNat), (19, 6, b.toNat), (6, 7, nr.toNat), (2, 4, wf.toNat)])) (pack_at ha rfl hv 0 58 6 0x4 rfl)).trans ?_
  exact congrArg some (by rw [fld_at ha rfl hv 1 54 p rfl, fld_at ha rfl hv 2 51 acc rfl, fld_at ha rfl hv 3 31 delay rfl, fld_at ha rfl hv 4 25 a rfl, fld_at ha rfl hv 5 19 b rfl, fld_at ha rfl hv 6 6 nr rfl, fld_at ha rfl hv 7 2 wf rfl])

theorem Encoded.mcbt (p : BitVec 4) (delay : BitVec 20) (a : BitVec 6) : Encoded.Statement (.mcbt p delay a) := fun _ => by
  have ha : Layout.apart 0 [(58, 6), (54, 4), (31, 20), (25, 6)] = true := by decide
  have hv : Fits [(58, 6, 0x5), (54, 4, p.toNat), (31, 20, delay.toNat), (25, 6, a.toNat)] := ⟨by decide, p.isLt, delay.isLt, a.isLt, trivial⟩
  refine (congrArg (fun o => rawMatrixOp o (pack 0 [(58, 6, 0x5), (54, 4, p.toNat), (31, 20, delay.toNat), (25, 6, a.toNat)])) (pack_at ha rfl hv 0 58 6 0x5 rfl)).trans ?_
  exact congrArg some (by rw [fld_at ha rfl hv 1 54 p rfl, fld_at ha rfl hv 2 31 delay rfl, fld_at ha rfl hv 3 25 a rfl])

theorem Encoded.mscl (p : BitVec 4) (delay : BitVec 20) (vs : BitVec 6) : Encoded.Statement (.mscl p delay vs) := fun _ => by
  have ha : Layout.apart 0 [(58, 6), (54, 4), (31, 20), (13, 6)] = true := by decide
  have hv : Fits [(58, 6, 0x6), (54, 4, p.toNat), (31, 20, delay.toNat), (13, 6, vs.toNat)] := ⟨by decide, p.isLt, delay.isLt, vs.isLt, trivial⟩
  refine (congrArg (fun o => rawMatrixOp o (pack 0 [(58, 6, 0x6), (54, 4, p.toNat), (31, 20, delay.toNat), (13, 6, vs.toNat)])) (pack_at ha rfl hv 0 58 6 0x6 rfl)).trans ?_
  exact congrArg some (by rw [fld_at ha rfl hv 1 54 p rfl, fld_at ha rfl hv 2 31 delay rfl, fld_at ha rfl hv 3 13 vs rfl])

theorem Encoded.ard (p : BitVec 4) (acc : BitVec 3) (row : BitVec 7) (h : BitVec 1) (v : BitVec 6) (ae : BitVec 1) (a : BitVec 6) (rm : BitVec 2) : Encoded.Statement (.ard p acc row h v ae a rm) := fun _ => by
  have ha : Layout.apart 0 [(58, 6), (54, 4), (51, 3), (44, 7), (43, 1), (37, 6), (36, 1), (30, 6), (28, 2)] = true := by decide
  have hv : Fits [(58, 6, 0x1), (54, 4, p.toNat), (51, 3, acc.toNat), (44, 7, row.toNat), (43, 1, h.toNat), (37, 6, v.toNat), (36, 1, ae.toNat), (30, 6, a.toNat), (28, 2, rm.toNat)] := ⟨by decide, p.isLt, acc.isLt, row.isLt, h.isLt, v.isLt, ae.isLt, a.isLt, rm.isLt, trivial⟩
  refine (congrArg (fun o => rawAccumOp o (pack 0 [(58, 6, 0x1), (54, 4, p.toNat), (51, 3, acc.toNat), (44, 7, row.toNat), (43, 1, h.toNat), (37, 6, v.toNat), (36, 1, ae.toNat), (30, 6, a.toNat), (28, 2, rm.toNat)])) (pack_at ha rfl hv 0 58 6 0x1 rfl)).trans ?_
  exact congrArg some (by rw [fld_at ha rfl hv 1 54 p rfl, fld_at ha rfl hv 2 51 acc rfl, fld_at ha rfl hv 3 44 row rfl, fld_at ha rfl hv 4 43 h rfl, fld_at ha rfl hv 5 37 v rfl, fld_at ha rfl hv 6 36 ae rfl, fld_at ha rfl hv 7 30 a rfl, fld_at ha rfl hv 8 28 rm rfl])

theorem Encoded.ardb (p : BitVec 4) (acc : BitVec 3) (row : BitVec 7) (v : BitVec 6) (ae : BitVec 1) (a : BitVec 6) (rm : BitVec 2) : Encoded.Statement (.ardb p acc row v ae a rm) := fun _ => by
  have ha : Layout.apart 0 [(58, 6), (54, 4), (51, 3), (44, 7), (37, 6), (36, 1), (30, 6), (28, 2)] = true := by decide
  have hv : Fits [(58, 6, 0x2), (54, 4, p.toNat), (51, 3, acc.toNat), (44, 7, row.toNat), (37, 6, v.toNat), (36, 1, ae.toNat), (30, 6, a.toNat), (28, 2, rm.toNat)] := ⟨by decide, p.isLt, acc.isLt, row.isLt, v.isLt, ae.isLt, a.isLt, rm.isLt, trivial⟩
  refine (congrArg (fun o => rawAccumOp o (pack 0 [(58, 6, 0x2), (54, 4, p.toNat), (51, 3, acc.toNat), (44, 7, row.toNat), (37, 6, v.toNat), (36, 1, ae.toNat), (30, 6, a.toNat), (28, 2, rm.toNat)])) (pack_at ha rfl hv 0 58 6 0x2 rfl)).trans ?_
  exact congrArg some (by rw [fld_at ha rfl hv 1 54 p rfl, fld_at ha rfl hv 2 51 acc rfl, fld_at ha rfl hv 3 44 row rfl, fld_at ha rfl hv 4 37 v rfl, fld_at ha rfl hv 5 36 ae rfl, fld_at ha rfl hv 6 30 a rfl, fld_at ha rfl hv 7 28 rm rfl])

theorem Encoded.ardl (p : BitVec 4) (acc : BitVec 3) (row : BitVec 7) (v : BitVec 6) (ae : BitVec 1) (a : BitVec 6) (rm : BitVec 2) : Encoded.Statement (.ardl p acc row v ae a rm) := fun _ => by
  have ha : Layout.apart 0 [(58, 6), (54, 4), (51, 3), (44, 7), (37, 6), (36, 1), (30, 6), (28, 2)] = true := by decide
  have hv : Fits [(58, 6, 0x3), (54, 4, p.toNat), (51, 3, acc.toNat), (44, 7, row.toNat), (37, 6, v.toNat), (36, 1, ae.toNat), (30, 6, a.toNat), (28, 2, rm.toNat)] := ⟨by decide, p.isLt, acc.isLt, row.isLt, v.isLt, ae.isLt, a.isLt, rm.isLt, trivial⟩
  refine (congrArg (fun o => rawAccumOp o (pack 0 [(58, 6, 0x3), (54, 4, p.toNat), (51, 3, acc.toNat), (44, 7, row.toNat), (37, 6, v.toNat), (36, 1, ae.toNat), (30, 6, a.toNat), (28, 2, rm.toNat)])) (pack_at ha rfl hv 0 58 6 0x3 rfl)).trans ?_
  exact congrArg some (by rw [fld_at ha rfl hv 1 54 p rfl, fld_at ha rfl hv 2 51 acc rfl, fld_at ha rfl hv 3 44 row rfl, fld_at ha rfl hv 4 37 v rfl, fld_at ha rfl hv 5 36 ae rfl, fld_at ha rfl hv 6 30 a rfl, fld_at ha rfl hv 7 28 rm rfl])

theorem Encoded.ardl8 (p : BitVec 4) (acc : BitVec 3) (row : BitVec 7) (v : BitVec 6) (ae : BitVec 1) (a : BitVec 6) (rm : BitVec 2) (c8 : BitVec 8) : Encoded.Statement (.ardl8 p acc row v ae a rm c8) := fun _ => by
  have ha : Layout.apart 0 [(58, 6), (54, 4), (51, 3), (44, 7), (37, 6), (36, 1), (30, 6), (28, 2), (20, 8)] = true := by decide
  have hv : Fits [(58, 6, 0x4), (54, 4, p.toNat), (51, 3, acc.toNat), (44, 7, row.toNat), (37, 6, v.toNat), (36, 1, ae.toNat), (30, 6, a.toNat), (28, 2, rm.toNat), (20, 8, c8.toNat)] := ⟨by decide, p.isLt, acc.isLt, row.isLt, v.isLt, ae.isLt, a.isLt, rm.isLt, c8.isLt, trivial⟩
  refine (congrArg (fun o => rawAccumOp o (pack 0 [(58, 6, 0x4), (54, 4, p.toNat), (51, 3, acc.toNat), (44, 7, row.toNat), (37, 6, v.toNat), (36, 1, ae.toNat), (30, 6, a.toNat), (28, 2, rm.toNat), (20, 8, c8.toNat)])) (pack_at ha rfl hv 0 58 6 0x4 rfl)).trans ?_
  exact congrArg some (by rw [fld_at ha rfl hv 1 54 p rfl, fld_at ha rfl hv 2 51 acc rfl, fld_at ha rfl hv 3 44 row rfl, fld_at ha rfl hv 4 37 v rfl, fld_at ha rfl hv 5 36 ae rfl, fld_at ha rfl hv 6 30 a rfl, fld_at ha rfl hv 7 28 rm rfl, fld_at ha rfl hv 8 20 c8 rfl])

theorem Encoded.awr (p : BitVec 4) (acc : BitVec 3) (row : BitVec 7) (h : BitVec 1) (v : BitVec 6) (ae : BitVec 1) (a : BitVec 6) : Encoded.Statement (.awr p acc row h v ae a) := fun _ => by
  have ha : Layout.apart 0 [(58, 6), (54, 4), (51, 3), (44, 7), (43, 1), (37, 6), (36, 1), (30, 6)] = true := by decide
  have hv : Fits [(58, 6, 0x5), (54, 4, p.toNat), (51, 3, acc.toNat), (44, 7, row.toNat), (43, 1, h.toNat), (37, 6, v.toNat), (36, 1, ae.toNat), (30, 6, a.toNat)] := ⟨by decide, p.isLt, acc.isLt, row.isLt, h.isLt, v.isLt, ae.isLt, a.isLt, trivial⟩
  refine (congrArg (fun o => rawAccumOp o (pack 0 [(58, 6, 0x5), (54, 4, p.toNat), (51, 3, acc.toNat), (44, 7, row.toNat), (43, 1, h.toNat), (37, 6, v.toNat), (36, 1, ae.toNat), (30, 6, a.toNat)])) (pack_at ha rfl hv 0 58 6 0x5 rfl)).trans ?_
  exact congrArg some (by rw [fld_at ha rfl hv 1 54 p rfl, fld_at ha rfl hv 2 51 acc rfl, fld_at ha rfl hv 3 44 row rfl, fld_at ha rfl hv 4 43 h rfl, fld_at ha rfl hv 5 37 v rfl, fld_at ha rfl hv 6 36 ae rfl, fld_at ha rfl hv 7 30 a rfl])

theorem Encoded.awrb (p : BitVec 4) (acc : BitVec 3) (row : BitVec 7) (v : BitVec 6) (ae : BitVec 1) (a : BitVec 6) : Encoded.Statement (.awrb p acc row v ae a) := fun _ => by
  have ha : Layout.apart 0 [(58, 6), (54, 4), (51, 3), (44, 7), (37, 6), (36, 1), (30, 6)] = true := by decide
  have hv : Fits [(58, 6, 0x6), (54, 4, p.toNat), (51, 3, acc.toNat), (44, 7, row.toNat), (37, 6, v.toNat), (36, 1, ae.toNat), (30, 6, a.toNat)] := ⟨by decide, p.isLt, acc.isLt, row.isLt, v.isLt, ae.isLt, a.isLt, trivial⟩
  refine (congrArg (fun o => rawAccumOp o (pack 0 [(58, 6, 0x6), (54, 4, p.toNat), (51, 3, acc.toNat), (44, 7, row.toNat), (37, 6, v.toNat), (36, 1, ae.toNat), (30, 6, a.toNat)])) (pack_at ha rfl hv 0 58 6 0x6 rfl)).trans ?_
  exact congrArg some (by rw [fld_at ha rfl hv 1 54 p rfl, fld_at ha rfl hv 2 51 acc rfl, fld_at ha rfl hv 3 44 row rfl, fld_at ha rfl hv 4 37 v rfl, fld_at ha rfl hv 5 36 ae rfl, fld_at ha rfl hv 6 30 a rfl])

theorem Encoded.aclr (p : BitVec 4) (acc : BitVec 3) (row : BitVec 7) (ae : BitVec 1) (a : BitVec 6) : Encoded.Statement (.aclr p acc row ae a) := fun _ => by
  have ha : Layout.apart 0 [(58, 6), (54, 4), (51, 3), (44, 7), (36, 1), (30, 6)] = true := by decide
  have hv : Fits [(58, 6, 0x7), (54, 4, p.toNat), (51, 3, acc.toNat), (44, 7, row.toNat), (36, 1, ae.toNat), (30, 6, a.toNat)] := ⟨by decide, p.isLt, acc.isLt, row.isLt, ae.isLt, a.isLt, trivial⟩
  refine (congrArg (fun o => rawAccumOp o (pack 0 [(58, 6, 0x7), (54, 4, p.toNat), (51, 3, acc.toNat), (44, 7, row.toNat), (36, 1, ae.toNat), (30, 6, a.toNat)])) (pack_at ha rfl hv 0 58 6 0x7 rfl)).trans ?_
  exact congrArg some (by rw [fld_at ha rfl hv 1 54 p rfl, fld_at ha rfl hv 2 51 acc rfl, fld_at ha rfl hv 3 44 row rfl, fld_at ha rfl hv 4 36 ae rfl, fld_at ha rfl hv 5 30 a rfl])

theorem Encoded.aadd (p : BitVec 4) (acc : BitVec 3) (row : BitVec 7) (v : BitVec 6) (ae : BitVec 1) (a : BitVec 6) : Encoded.Statement (.aadd p acc row v ae a) := fun _ => by
  have ha : Layout.apart 0 [(58, 6), (54, 4), (51, 3), (44, 7), (37, 6), (36, 1), (30, 6)] = true := by decide
  have hv : Fits [(58, 6, 0x8), (54, 4, p.toNat), (51, 3, acc.toNat), (44, 7, row.toNat), (37, 6, v.toNat), (36, 1, ae.toNat), (30, 6, a.toNat)] := ⟨by decide, p.isLt, acc.isLt, row.isLt, v.isLt, ae.isLt, a.isLt, trivial⟩
  refine (congrArg (fun o => rawAccumOp o (pack 0 [(58, 6, 0x8), (54, 4, p.toNat), (51, 3, acc.toNat), (44, 7, row.toNat), (37, 6, v.toNat), (36, 1, ae.toNat), (30, 6, a.toNat)])) (pack_at ha rfl hv 0 58 6 0x8 rfl)).trans ?_
  exact congrArg some (by rw [fld_at ha rfl hv 1 54 p rfl, fld_at ha rfl hv 2 51 acc rfl, fld_at ha rfl hv 3 44 row rfl, fld_at ha rfl hv 4 37 v rfl, fld_at ha rfl hv 5 36 ae rfl, fld_at ha rfl hv 6 30 a rfl])

theorem Encoded.act (pc : BitVec 1) (ofs : BitVec 10) (bk : BitVec 4) (row : BitVec 16) : Encoded.Statement (.act pc ofs bk row) := fun _ => by
  have ha : Layout.apart 0 [(58, 6), (57, 1), (47, 10), (43, 4), (27, 16)] = true := by decide
  have hv : Fits [(58, 6, 0x1), (57, 1, pc.toNat), (47, 10, ofs.toNat), (43, 4, bk.toNat), (27, 16, row.toNat)] := ⟨by decide, pc.isLt, ofs.isLt, bk.isLt, row.isLt, trivial⟩
  refine (congrArg (fun o => rawChannelOp o (pack 0 [(58, 6, 0x1), (57, 1, pc.toNat), (47, 10, ofs.toNat), (43, 4, bk.toNat), (27, 16, row.toNat)])) (pack_at ha rfl hv 0 58 6 0x1 rfl)).trans ?_
  exact congrArg some (by rw [fld_at ha rfl hv 1 57 pc rfl, fld_at ha rfl hv 2 47 ofs rfl, fld_at ha rfl hv 3 43 bk rfl, fld_at ha rfl hv 4 27 row rfl])

theorem Encoded.rd (pc : BitVec 1) (ofs : BitVec 10) (bk : BitVec 4) (col : BitVec 4) (tl : BitVec 2) (sec : BitVec 16) : Encoded.Statement (.rd pc ofs bk col tl sec) := fun _ => by
  have ha : Layout.apart 0 [(58, 6), (57, 1), (47, 10), (43, 4), (39, 4), (37, 2), (21, 16)] = true := by decide
  have hv : Fits [(58, 6, 0x2), (57, 1, pc.toNat), (47, 10, ofs.toNat), (43, 4, bk.toNat), (39, 4, col.toNat), (37, 2, tl.toNat), (21, 16, sec.toNat)] := ⟨by decide, pc.isLt, ofs.isLt, bk.isLt, col.isLt, tl.isLt, sec.isLt, trivial⟩
  refine (congrArg (fun o => rawChannelOp o (pack 0 [(58, 6, 0x2), (57, 1, pc.toNat), (47, 10, ofs.toNat), (43, 4, bk.toNat), (39, 4, col.toNat), (37, 2, tl.toNat), (21, 16, sec.toNat)])) (pack_at ha rfl hv 0 58 6 0x2 rfl)).trans ?_
  exact congrArg some (by rw [fld_at ha rfl hv 1 57 pc rfl, fld_at ha rfl hv 2 47 ofs rfl, fld_at ha rfl hv 3 43 bk rfl, fld_at ha rfl hv 4 39 col rfl, fld_at ha rfl hv 5 37 tl rfl, fld_at ha rfl hv 6 21 sec rfl])

theorem Encoded.wr (pc : BitVec 1) (ofs : BitVec 10) (bk : BitVec 4) (col : BitVec 4) (tl : BitVec 2) (sec : BitVec 16) : Encoded.Statement (.wr pc ofs bk col tl sec) := fun _ => by
  have ha : Layout.apart 0 [(58, 6), (57, 1), (47, 10), (43, 4), (39, 4), (37, 2), (21, 16)] = true := by decide
  have hv : Fits [(58, 6, 0x3), (57, 1, pc.toNat), (47, 10, ofs.toNat), (43, 4, bk.toNat), (39, 4, col.toNat), (37, 2, tl.toNat), (21, 16, sec.toNat)] := ⟨by decide, pc.isLt, ofs.isLt, bk.isLt, col.isLt, tl.isLt, sec.isLt, trivial⟩
  refine (congrArg (fun o => rawChannelOp o (pack 0 [(58, 6, 0x3), (57, 1, pc.toNat), (47, 10, ofs.toNat), (43, 4, bk.toNat), (39, 4, col.toNat), (37, 2, tl.toNat), (21, 16, sec.toNat)])) (pack_at ha rfl hv 0 58 6 0x3 rfl)).trans ?_
  exact congrArg some (by rw [fld_at ha rfl hv 1 57 pc rfl, fld_at ha rfl hv 2 47 ofs rfl, fld_at ha rfl hv 3 43 bk rfl, fld_at ha rfl hv 4 39 col rfl, fld_at ha rfl hv 5 37 tl rfl, fld_at ha rfl hv 6 21 sec rfl])

theorem Encoded.pre (pc : BitVec 1) (ofs : BitVec 10) (bk : BitVec 4) : Encoded.Statement (.pre pc ofs bk) := fun _ => by
  have ha : Layout.apart 0 [(58, 6), (57, 1), (47, 10), (43, 4)] = true := by decide
  have hv : Fits [(58, 6, 0x4), (57, 1, pc.toNat), (47, 10, ofs.toNat), (43, 4, bk.toNat)] := ⟨by decide, pc.isLt, ofs.isLt, bk.isLt, trivial⟩
  refine (congrArg (fun o => rawChannelOp o (pack 0 [(58, 6, 0x4), (57, 1, pc.toNat), (47, 10, ofs.toNat), (43, 4, bk.toNat)])) (pack_at ha rfl hv 0 58 6 0x4 rfl)).trans ?_
  exact congrArg some (by rw [fld_at ha rfl hv 1 57 pc rfl, fld_at ha rfl hv 2 47 ofs rfl, fld_at ha rfl hv 3 43 bk rfl])

theorem Encoded.prea (pc : BitVec 1) (ofs : BitVec 10) : Encoded.Statement (.prea pc ofs) := fun _ => by
  have ha : Layout.apart 0 [(58, 6), (57, 1), (47, 10)] = true := by decide
  have hv : Fits [(58, 6, 0x5), (57, 1, pc.toNat), (47, 10, ofs.toNat)] := ⟨by decide, pc.isLt, ofs.isLt, trivial⟩
  refine (congrArg (fun o => rawChannelOp o (pack 0 [(58, 6, 0x5), (57, 1, pc.toNat), (47, 10, ofs.toNat)])) (pack_at ha rfl hv 0 58 6 0x5 rfl)).trans ?_
  exact congrArg some (by rw [fld_at ha rfl hv 1 57 pc rfl, fld_at ha rfl hv 2 47 ofs rfl])

theorem Encoded.ref (pc : BitVec 1) (ofs : BitVec 10) : Encoded.Statement (.ref pc ofs) := fun _ => by
  have ha : Layout.apart 0 [(58, 6), (57, 1), (47, 10)] = true := by decide
  have hv : Fits [(58, 6, 0x6), (57, 1, pc.toNat), (47, 10, ofs.toNat)] := ⟨by decide, pc.isLt, ofs.isLt, trivial⟩
  refine (congrArg (fun o => rawChannelOp o (pack 0 [(58, 6, 0x6), (57, 1, pc.toNat), (47, 10, ofs.toNat)])) (pack_at ha rfl hv 0 58 6 0x6 rfl)).trans ?_
  exact congrArg some (by rw [fld_at ha rfl hv 1 57 pc rfl, fld_at ha rfl hv 2 47 ofs rfl])

theorem Encoded.refpb (pc : BitVec 1) (ofs : BitVec 10) (bk : BitVec 4) : Encoded.Statement (.refpb pc ofs bk) := fun _ => by
  have ha : Layout.apart 0 [(58, 6), (57, 1), (47, 10), (43, 4)] = true := by decide
  have hv : Fits [(58, 6, 0x7), (57, 1, pc.toNat), (47, 10, ofs.toNat), (43, 4, bk.toNat)] := ⟨by decide, pc.isLt, ofs.isLt, bk.isLt, trivial⟩
  refine (congrArg (fun o => rawChannelOp o (pack 0 [(58, 6, 0x7), (57, 1, pc.toNat), (47, 10, ofs.toNat), (43, 4, bk.toNat)])) (pack_at ha rfl hv 0 58 6 0x7 rfl)).trans ?_
  exact congrArg some (by rw [fld_at ha rfl hv 1 57 pc rfl, fld_at ha rfl hv 2 47 ofs rfl, fld_at ha rfl hv 3 43 bk rfl])

theorem Encoded.waitc (cnt : BitVec 20) : Encoded.Statement (.waitc cnt) := fun _ => by
  have ha : Layout.apart 0 [(58, 6), (38, 20)] = true := by decide
  have hv : Fits [(58, 6, 0x8), (38, 20, cnt.toNat)] := ⟨by decide, cnt.isLt, trivial⟩
  refine (congrArg (fun o => rawChannelOp o (pack 0 [(58, 6, 0x8), (38, 20, cnt.toNat)])) (pack_at ha rfl hv 0 58 6 0x8 rfl)).trans ?_
  exact congrArg some (by rw [fld_at ha rfl hv 1 38 cnt rfl])

theorem Encoded.tnest (lv : BitVec 3) (cnt : BitVec 16) (rs : BitVec 12) (cs : BitVec 4) (ds : BitVec 16) : Encoded.Statement (.tnest lv cnt rs cs ds) := fun _ => by
  have ha : Layout.apart 0 [(58, 6), (55, 3), (39, 16), (27, 12), (23, 4), (7, 16)] = true := by decide
  have hv : Fits [(58, 6, 0x9), (55, 3, lv.toNat), (39, 16, cnt.toNat), (27, 12, rs.toNat), (23, 4, cs.toNat), (7, 16, ds.toNat)] := ⟨by decide, lv.isLt, cnt.isLt, rs.isLt, cs.isLt, ds.isLt, trivial⟩
  refine (congrArg (fun o => rawChannelOp o (pack 0 [(58, 6, 0x9), (55, 3, lv.toNat), (39, 16, cnt.toNat), (27, 12, rs.toNat), (23, 4, cs.toNat), (7, 16, ds.toNat)])) (pack_at ha rfl hv 0 58 6 0x9 rfl)).trans ?_
  exact congrArg some (by rw [fld_at ha rfl hv 1 55 lv rfl, fld_at ha rfl hv 2 39 cnt rfl, fld_at ha rfl hv 3 27 rs rfl, fld_at ha rfl hv 4 23 cs rfl, fld_at ha rfl hv 5 7 ds rfl])

theorem Encoded.tend (len : BitVec 10) : Encoded.Statement (.tend len) := fun _ => by
  have ha : Layout.apart 0 [(58, 6), (48, 10)] = true := by decide
  have hv : Fits [(58, 6, 0xA), (48, 10, len.toNat)] := ⟨by decide, len.isLt, trivial⟩
  refine (congrArg (fun o => rawChannelOp o (pack 0 [(58, 6, 0xA), (48, 10, len.toNat)])) (pack_at ha rfl hv 0 58 6 0xA rfl)).trans ?_
  exact congrArg some (by rw [fld_at ha rfl hv 1 48 len rfl])

theorem Encoded.troute (sid : BitVec 8) : Encoded.Statement (.troute sid) := fun _ => by
  have ha : Layout.apart 0 [(58, 6), (50, 8)] = true := by decide
  have hv : Fits [(58, 6, 0xB), (50, 8, sid.toNat)] := ⟨by decide, sid.isLt, trivial⟩
  refine (congrArg (fun o => rawChannelOp o (pack 0 [(58, 6, 0xB), (50, 8, sid.toNat)])) (pack_at ha rfl hv 0 58 6 0xB rfl)).trans ?_
  exact congrArg some (by rw [fld_at ha rfl hv 1 50 sid rfl])

theorem Encoded.thalt : Encoded.Statement .thalt := fun _ => by
  have ha : Layout.apart 0 [(58, 6)] = true := by decide
  have hv : Fits [(58, 6, 0xC)] := ⟨by decide, trivial⟩
  refine (congrArg (fun o => rawChannelOp o (pack 0 [(58, 6, 0xC)])) (pack_at ha rfl hv 0 58 6 0xC rfl)).trans ?_
  rfl

theorem Encoded.railRemoval : Encoded.Statement .railRemoval := fun h => absurd rfl h

theorem Encoded.linkRestored (route : Route) : Encoded.Statement (.linkRestored route) := fun h => absurd rfl h

theorem Encoded.peerAccessArrival : Encoded.Statement .peerAccessArrival := fun h => absurd rfl h

theorem Encoded.displacementNotice : Encoded.Statement .displacementNotice := fun h => absurd rfl h

theorem Encoded.handlerInstall : Encoded.Statement .handlerInstall := fun h => absurd rfl h

end Sys2Proof.Laws
end

