-- ==== Sys2Proof/Laws/Reads.lean ====
section
/-! SUPPORT. What is read back after an update, in a state whose tables are in canonical form. -/

namespace Sys2Proof.Machine

variable {s : State}

theorem State.Canon.tile_setTile (h : s.Canon) {t u : Nat} {x : Tile} : (s.setTile t x).tile u = if u = t then x else s.tile u :=
  SMap.get_set h.tiles

@[simp] theorem State.Canon.tile_updTile (h : s.Canon) {t u : Nat} {f : Tile → Tile} :
    (s.updTile t f).tile u = if u = t then f (s.tile t) else s.tile u := h.tile_setTile

theorem State.Canon.region_setRegion (h : s.Canon) {r u : Nat} {x : Region} :
    (s.setRegion r x).region u = if u = r then x else s.region u := SMap.get_set h.regions

theorem State.Canon.region_updRegion (h : s.Canon) {r u : Nat} {f : Region → Region} :
    (s.updRegion r f).region u = if u = r then f (s.region r) else s.region u := h.region_setRegion

theorem State.Canon.entry_setEntry (h : s.Canon) {e u : BitVec 8} {x : Entry} :
    (s.setEntry e x).entry u = if u = e then x else s.entry u := by
  have : (u.toNat = e.toNat) = (u = e) := by simp [BitVec.toNat_inj]
  simp only [State.entry, State.setEntry, SMap.get_set h.entries, this]

theorem State.Canon.entry_updEntry (h : s.Canon) {e u : BitVec 8} {f : Entry → Entry} :
    (s.updEntry e f).entry u = if u = e then f (s.entry e) else s.entry u := h.entry_setEntry

theorem State.Canon.seqr_setSeqr (h : s.Canon) {q u : Nat} {x : Seqr} : (s.setSeqr q x).seqr u = if u = q then x else s.seqr u :=
  SMap.get_set h.seqrs

theorem State.Canon.seqr_updSeqr (h : s.Canon) {q u : Nat} {f : Seqr → Seqr} :
    (s.updSeqr q f).seqr u = if u = q then f (s.seqr q) else s.seqr u := h.seqr_setSeqr

theorem State.Canon.die_setDie (h : s.Canon) {d u : Nat} {x : Die} : (s.setDie d x).die u = if u = d then x else s.die u :=
  SMap.get_set h.dies

theorem State.Canon.die_updDie (h : s.Canon) {d u : Nat} {f : Die → Die} :
    (s.updDie d f).die u = if u = d then f (s.die d) else s.die u := h.die_setDie

@[simp] theorem Tile.stream_setStream (x : Tile) (c : Ctx) (st : Stream) : (x.setStream c st).stream c = st := by cases c <;> rfl

@[simp] theorem Tile.hm_setStream (x : Tile) (c : Ctx) (st : Stream) : (x.setStream c st).hm = x.hm := by cases c <;> rfl

@[simp] theorem Tile.spad_setStream (x : Tile) (c : Ctx) (st : Stream) : (x.setStream c st).spad = x.spad := by cases c <;> rfl

end Sys2Proof.Machine
end

