-- ==== Sys2Proof/Laws/State.lean ====
section
/-! SUPPORT. What each update of the state does to each field: one lemma for each. -/

namespace Sys2Proof.Machine

variable (s : State)

/-! ## setTile -/

@[simp] theorem State.setTile_ptime (t : Nat) (x : Tile) : (s.setTile t x).ptime = s.ptime := rfl
@[simp] theorem State.setTile_stage (t : Nat) (x : Tile) : (s.setTile t x).stage = s.stage := rfl
@[simp] theorem State.setTile_ext (t : Nat) (x : Tile) : (s.setTile t x).ext = s.ext := rfl
@[simp] theorem State.setTile_agenda (t : Nat) (x : Tile) : (s.setTile t x).agenda = s.agenda := rfl
@[simp] theorem State.setTile_cur (t : Nat) (x : Tile) : (s.setTile t x).cur = s.cur := rfl
@[simp] theorem State.setTile_pending (t : Nat) (x : Tile) : (s.setTile t x).pending = s.pending := rfl
@[simp] theorem State.setTile_nfree (t : Nat) (x : Tile) : (s.setTile t x).nfree = s.nfree := rfl
@[simp] theorem State.setTile_nextId (t : Nat) (x : Tile) : (s.setTile t x).nextId = s.nextId := rfl
@[simp] theorem State.setTile_taken (t : Nat) (x : Tile) : (s.setTile t x).taken = s.taken := rfl
@[simp] theorem State.setTile_tiles (t : Nat) (x : Tile) : (s.setTile t x).tiles = SMap.set Tile.reset s.tiles t x := rfl
@[simp] theorem State.setTile_regions (t : Nat) (x : Tile) : (s.setTile t x).regions = s.regions := rfl
@[simp] theorem State.setTile_entries (t : Nat) (x : Tile) : (s.setTile t x).entries = s.entries := rfl
@[simp] theorem State.setTile_seqrs (t : Nat) (x : Tile) : (s.setTile t x).seqrs = s.seqrs := rfl
@[simp] theorem State.setTile_dies (t : Nat) (x : Tile) : (s.setTile t x).dies = s.dies := rfl
@[simp] theorem State.setTile_iod (t : Nat) (x : Tile) : (s.setTile t x).iod = s.iod := rfl
@[simp] theorem State.setTile_txs (t : Nat) (x : Tile) : (s.setTile t x).txs = s.txs := rfl
@[simp] theorem State.setTile_packets (t : Nat) (x : Tile) : (s.setTile t x).packets = s.packets := rfl
@[simp] theorem State.setTile_creqs (t : Nat) (x : Tile) : (s.setTile t x).creqs = s.creqs := rfl
@[simp] theorem State.setTile_misses (t : Nat) (x : Tile) : (s.setTile t x).misses = s.misses := rfl
@[simp] theorem State.setTile_wbs (t : Nat) (x : Tile) : (s.setTile t x).wbs = s.wbs := rfl
@[simp] theorem State.setTile_updates (t : Nat) (x : Tile) : (s.setTile t x).updates = s.updates := rfl
@[simp] theorem State.setTile_ops (t : Nat) (x : Tile) : (s.setTile t x).ops = s.ops := rfl
@[simp] theorem State.setTile_queries (t : Nat) (x : Tile) : (s.setTile t x).queries = s.queries := rfl
@[simp] theorem State.setTile_walks (t : Nat) (x : Tile) : (s.setTile t x).walks = s.walks := rfl
@[simp] theorem State.setTile_rounds (t : Nat) (x : Tile) : (s.setTile t x).rounds = s.rounds := rfl
@[simp] theorem State.setTile_moved (t : Nat) (x : Tile) : (s.setTile t x).moved = s.moved := rfl
@[simp] theorem State.setTile_fredNo (t : Nat) (x : Tile) : (s.setTile t x).fredNo = s.fredNo := rfl
@[simp] theorem State.setTile_jobHolds (t : Nat) (x : Tile) : (s.setTile t x).jobHolds = s.jobHolds := rfl
@[simp] theorem State.setTile_mem (t : Nat) (x : Tile) : (s.setTile t x).mem = s.mem := rfl
@[simp] theorem State.setTile_pool (t : Nat) (x : Tile) : (s.setTile t x).pool = s.pool := rfl
@[simp] theorem State.setTile_merr (t : Nat) (x : Tile) : (s.setTile t x).merr = s.merr := rfl
@[simp] theorem State.setTile_perr (t : Nat) (x : Tile) : (s.setTile t x).perr = s.perr := rfl
@[simp] theorem State.setTile_out (t : Nat) (x : Tile) : (s.setTile t x).out = s.out := rfl
@[simp] theorem State.setTile_saved (t : Nat) (x : Tile) : (s.setTile t x).saved = s.saved := rfl

/-! ## updTile -/

@[simp] theorem State.updTile_ptime (t : Nat) (f : Tile → Tile) : (s.updTile t f).ptime = s.ptime := rfl
@[simp] theorem State.updTile_stage (t : Nat) (f : Tile → Tile) : (s.updTile t f).stage = s.stage := rfl
@[simp] theorem State.updTile_ext (t : Nat) (f : Tile → Tile) : (s.updTile t f).ext = s.ext := rfl
@[simp] theorem State.updTile_agenda (t : Nat) (f : Tile → Tile) : (s.updTile t f).agenda = s.agenda := rfl
@[simp] theorem State.updTile_cur (t : Nat) (f : Tile → Tile) : (s.updTile t f).cur = s.cur := rfl
@[simp] theorem State.updTile_pending (t : Nat) (f : Tile → Tile) : (s.updTile t f).pending = s.pending := rfl
@[simp] theorem State.updTile_nfree (t : Nat) (f : Tile → Tile) : (s.updTile t f).nfree = s.nfree := rfl
@[simp] theorem State.updTile_nextId (t : Nat) (f : Tile → Tile) : (s.updTile t f).nextId = s.nextId := rfl
@[simp] theorem State.updTile_taken (t : Nat) (f : Tile → Tile) : (s.updTile t f).taken = s.taken := rfl
@[simp] theorem State.updTile_tiles (t : Nat) (f : Tile → Tile) : (s.updTile t f).tiles = SMap.set Tile.reset s.tiles t (f (s.tile t)) := rfl
@[simp] theorem State.updTile_regions (t : Nat) (f : Tile → Tile) : (s.updTile t f).regions = s.regions := rfl
@[simp] theorem State.updTile_entries (t : Nat) (f : Tile → Tile) : (s.updTile t f).entries = s.entries := rfl
@[simp] theorem State.updTile_seqrs (t : Nat) (f : Tile → Tile) : (s.updTile t f).seqrs = s.seqrs := rfl
@[simp] theorem State.updTile_dies (t : Nat) (f : Tile → Tile) : (s.updTile t f).dies = s.dies := rfl
@[simp] theorem State.updTile_iod (t : Nat) (f : Tile → Tile) : (s.updTile t f).iod = s.iod := rfl
@[simp] theorem State.updTile_txs (t : Nat) (f : Tile → Tile) : (s.updTile t f).txs = s.txs := rfl
@[simp] theorem State.updTile_packets (t : Nat) (f : Tile → Tile) : (s.updTile t f).packets = s.packets := rfl
@[simp] theorem State.updTile_creqs (t : Nat) (f : Tile → Tile) : (s.updTile t f).creqs = s.creqs := rfl
@[simp] theorem State.updTile_misses (t : Nat) (f : Tile → Tile) : (s.updTile t f).misses = s.misses := rfl
@[simp] theorem State.updTile_wbs (t : Nat) (f : Tile → Tile) : (s.updTile t f).wbs = s.wbs := rfl
@[simp] theorem State.updTile_updates (t : Nat) (f : Tile → Tile) : (s.updTile t f).updates = s.updates := rfl
@[simp] theorem State.updTile_ops (t : Nat) (f : Tile → Tile) : (s.updTile t f).ops = s.ops := rfl
@[simp] theorem State.updTile_queries (t : Nat) (f : Tile → Tile) : (s.updTile t f).queries = s.queries := rfl
@[simp] theorem State.updTile_walks (t : Nat) (f : Tile → Tile) : (s.updTile t f).walks = s.walks := rfl
@[simp] theorem State.updTile_rounds (t : Nat) (f : Tile → Tile) : (s.updTile t f).rounds = s.rounds := rfl
@[simp] theorem State.updTile_moved (t : Nat) (f : Tile → Tile) : (s.updTile t f).moved = s.moved := rfl
@[simp] theorem State.updTile_fredNo (t : Nat) (f : Tile → Tile) : (s.updTile t f).fredNo = s.fredNo := rfl
@[simp] theorem State.updTile_jobHolds (t : Nat) (f : Tile → Tile) : (s.updTile t f).jobHolds = s.jobHolds := rfl
@[simp] theorem State.updTile_mem (t : Nat) (f : Tile → Tile) : (s.updTile t f).mem = s.mem := rfl
@[simp] theorem State.updTile_pool (t : Nat) (f : Tile → Tile) : (s.updTile t f).pool = s.pool := rfl
@[simp] theorem State.updTile_merr (t : Nat) (f : Tile → Tile) : (s.updTile t f).merr = s.merr := rfl
@[simp] theorem State.updTile_perr (t : Nat) (f : Tile → Tile) : (s.updTile t f).perr = s.perr := rfl
@[simp] theorem State.updTile_out (t : Nat) (f : Tile → Tile) : (s.updTile t f).out = s.out := rfl
@[simp] theorem State.updTile_saved (t : Nat) (f : Tile → Tile) : (s.updTile t f).saved = s.saved := rfl

/-! ## mapTiles -/

@[simp] theorem State.mapTiles_ptime (f : Nat → Tile → Tile) : (s.mapTiles f).ptime = s.ptime := rfl
@[simp] theorem State.mapTiles_stage (f : Nat → Tile → Tile) : (s.mapTiles f).stage = s.stage := rfl
@[simp] theorem State.mapTiles_ext (f : Nat → Tile → Tile) : (s.mapTiles f).ext = s.ext := rfl
@[simp] theorem State.mapTiles_agenda (f : Nat → Tile → Tile) : (s.mapTiles f).agenda = s.agenda := rfl
@[simp] theorem State.mapTiles_cur (f : Nat → Tile → Tile) : (s.mapTiles f).cur = s.cur := rfl
@[simp] theorem State.mapTiles_pending (f : Nat → Tile → Tile) : (s.mapTiles f).pending = s.pending := rfl
@[simp] theorem State.mapTiles_nfree (f : Nat → Tile → Tile) : (s.mapTiles f).nfree = s.nfree := rfl
@[simp] theorem State.mapTiles_nextId (f : Nat → Tile → Tile) : (s.mapTiles f).nextId = s.nextId := rfl
@[simp] theorem State.mapTiles_taken (f : Nat → Tile → Tile) : (s.mapTiles f).taken = s.taken := rfl
@[simp] theorem State.mapTiles_tiles (f : Nat → Tile → Tile) : (s.mapTiles f).tiles = SMap.mapV Tile.reset f s.tiles := rfl
@[simp] theorem State.mapTiles_regions (f : Nat → Tile → Tile) : (s.mapTiles f).regions = s.regions := rfl
@[simp] theorem State.mapTiles_entries (f : Nat → Tile → Tile) : (s.mapTiles f).entries = s.entries := rfl
@[simp] theorem State.mapTiles_seqrs (f : Nat → Tile → Tile) : (s.mapTiles f).seqrs = s.seqrs := rfl
@[simp] theorem State.mapTiles_dies (f : Nat → Tile → Tile) : (s.mapTiles f).dies = s.dies := rfl
@[simp] theorem State.mapTiles_iod (f : Nat → Tile → Tile) : (s.mapTiles f).iod = s.iod := rfl
@[simp] theorem State.mapTiles_txs (f : Nat → Tile → Tile) : (s.mapTiles f).txs = s.txs := rfl
@[simp] theorem State.mapTiles_packets (f : Nat → Tile → Tile) : (s.mapTiles f).packets = s.packets := rfl
@[simp] theorem State.mapTiles_creqs (f : Nat → Tile → Tile) : (s.mapTiles f).creqs = s.creqs := rfl
@[simp] theorem State.mapTiles_misses (f : Nat → Tile → Tile) : (s.mapTiles f).misses = s.misses := rfl
@[simp] theorem State.mapTiles_wbs (f : Nat → Tile → Tile) : (s.mapTiles f).wbs = s.wbs := rfl
@[simp] theorem State.mapTiles_updates (f : Nat → Tile → Tile) : (s.mapTiles f).updates = s.updates := rfl
@[simp] theorem State.mapTiles_ops (f : Nat → Tile → Tile) : (s.mapTiles f).ops = s.ops := rfl
@[simp] theorem State.mapTiles_queries (f : Nat → Tile → Tile) : (s.mapTiles f).queries = s.queries := rfl
@[simp] theorem State.mapTiles_walks (f : Nat → Tile → Tile) : (s.mapTiles f).walks = s.walks := rfl
@[simp] theorem State.mapTiles_rounds (f : Nat → Tile → Tile) : (s.mapTiles f).rounds = s.rounds := rfl
@[simp] theorem State.mapTiles_moved (f : Nat → Tile → Tile) : (s.mapTiles f).moved = s.moved := rfl
@[simp] theorem State.mapTiles_fredNo (f : Nat → Tile → Tile) : (s.mapTiles f).fredNo = s.fredNo := rfl
@[simp] theorem State.mapTiles_jobHolds (f : Nat → Tile → Tile) : (s.mapTiles f).jobHolds = s.jobHolds := rfl
@[simp] theorem State.mapTiles_mem (f : Nat → Tile → Tile) : (s.mapTiles f).mem = s.mem := rfl
@[simp] theorem State.mapTiles_pool (f : Nat → Tile → Tile) : (s.mapTiles f).pool = s.pool := rfl
@[simp] theorem State.mapTiles_merr (f : Nat → Tile → Tile) : (s.mapTiles f).merr = s.merr := rfl
@[simp] theorem State.mapTiles_perr (f : Nat → Tile → Tile) : (s.mapTiles f).perr = s.perr := rfl
@[simp] theorem State.mapTiles_out (f : Nat → Tile → Tile) : (s.mapTiles f).out = s.out := rfl
@[simp] theorem State.mapTiles_saved (f : Nat → Tile → Tile) : (s.mapTiles f).saved = s.saved := rfl

/-! ## mapRegions -/

@[simp] theorem State.mapRegions_ptime (f : Nat → Region → Region) : (s.mapRegions f).ptime = s.ptime := rfl
@[simp] theorem State.mapRegions_stage (f : Nat → Region → Region) : (s.mapRegions f).stage = s.stage := rfl
@[simp] theorem State.mapRegions_ext (f : Nat → Region → Region) : (s.mapRegions f).ext = s.ext := rfl
@[simp] theorem State.mapRegions_agenda (f : Nat → Region → Region) : (s.mapRegions f).agenda = s.agenda := rfl
@[simp] theorem State.mapRegions_cur (f : Nat → Region → Region) : (s.mapRegions f).cur = s.cur := rfl
@[simp] theorem State.mapRegions_pending (f : Nat → Region → Region) : (s.mapRegions f).pending = s.pending := rfl
@[simp] theorem State.mapRegions_nfree (f : Nat → Region → Region) : (s.mapRegions f).nfree = s.nfree := rfl
@[simp] theorem State.mapRegions_nextId (f : Nat → Region → Region) : (s.mapRegions f).nextId = s.nextId := rfl
@[simp] theorem State.mapRegions_taken (f : Nat → Region → Region) : (s.mapRegions f).taken = s.taken := rfl
@[simp] theorem State.mapRegions_tiles (f : Nat → Region → Region) : (s.mapRegions f).tiles = s.tiles := rfl
@[simp] theorem State.mapRegions_regions (f : Nat → Region → Region) : (s.mapRegions f).regions = SMap.mapV Region.reset f s.regions := rfl
@[simp] theorem State.mapRegions_entries (f : Nat → Region → Region) : (s.mapRegions f).entries = s.entries := rfl
@[simp] theorem State.mapRegions_seqrs (f : Nat → Region → Region) : (s.mapRegions f).seqrs = s.seqrs := rfl
@[simp] theorem State.mapRegions_dies (f : Nat → Region → Region) : (s.mapRegions f).dies = s.dies := rfl
@[simp] theorem State.mapRegions_iod (f : Nat → Region → Region) : (s.mapRegions f).iod = s.iod := rfl
@[simp] theorem State.mapRegions_txs (f : Nat → Region → Region) : (s.mapRegions f).txs = s.txs := rfl
@[simp] theorem State.mapRegions_packets (f : Nat → Region → Region) : (s.mapRegions f).packets = s.packets := rfl
@[simp] theorem State.mapRegions_creqs (f : Nat → Region → Region) : (s.mapRegions f).creqs = s.creqs := rfl
@[simp] theorem State.mapRegions_misses (f : Nat → Region → Region) : (s.mapRegions f).misses = s.misses := rfl
@[simp] theorem State.mapRegions_wbs (f : Nat → Region → Region) : (s.mapRegions f).wbs = s.wbs := rfl
@[simp] theorem State.mapRegions_updates (f : Nat → Region → Region) : (s.mapRegions f).updates = s.updates := rfl
@[simp] theorem State.mapRegions_ops (f : Nat → Region → Region) : (s.mapRegions f).ops = s.ops := rfl
@[simp] theorem State.mapRegions_queries (f : Nat → Region → Region) : (s.mapRegions f).queries = s.queries := rfl
@[simp] theorem State.mapRegions_walks (f : Nat → Region → Region) : (s.mapRegions f).walks = s.walks := rfl
@[simp] theorem State.mapRegions_rounds (f : Nat → Region → Region) : (s.mapRegions f).rounds = s.rounds := rfl
@[simp] theorem State.mapRegions_moved (f : Nat → Region → Region) : (s.mapRegions f).moved = s.moved := rfl
@[simp] theorem State.mapRegions_fredNo (f : Nat → Region → Region) : (s.mapRegions f).fredNo = s.fredNo := rfl
@[simp] theorem State.mapRegions_jobHolds (f : Nat → Region → Region) : (s.mapRegions f).jobHolds = s.jobHolds := rfl
@[simp] theorem State.mapRegions_mem (f : Nat → Region → Region) : (s.mapRegions f).mem = s.mem := rfl
@[simp] theorem State.mapRegions_pool (f : Nat → Region → Region) : (s.mapRegions f).pool = s.pool := rfl
@[simp] theorem State.mapRegions_merr (f : Nat → Region → Region) : (s.mapRegions f).merr = s.merr := rfl
@[simp] theorem State.mapRegions_perr (f : Nat → Region → Region) : (s.mapRegions f).perr = s.perr := rfl
@[simp] theorem State.mapRegions_out (f : Nat → Region → Region) : (s.mapRegions f).out = s.out := rfl
@[simp] theorem State.mapRegions_saved (f : Nat → Region → Region) : (s.mapRegions f).saved = s.saved := rfl

/-! ## setRegion -/

@[simp] theorem State.setRegion_ptime (r : Nat) (x : Region) : (s.setRegion r x).ptime = s.ptime := rfl
@[simp] theorem State.setRegion_stage (r : Nat) (x : Region) : (s.setRegion r x).stage = s.stage := rfl
@[simp] theorem State.setRegion_ext (r : Nat) (x : Region) : (s.setRegion r x).ext = s.ext := rfl
@[simp] theorem State.setRegion_agenda (r : Nat) (x : Region) : (s.setRegion r x).agenda = s.agenda := rfl
@[simp] theorem State.setRegion_cur (r : Nat) (x : Region) : (s.setRegion r x).cur = s.cur := rfl
@[simp] theorem State.setRegion_pending (r : Nat) (x : Region) : (s.setRegion r x).pending = s.pending := rfl
@[simp] theorem State.setRegion_nfree (r : Nat) (x : Region) : (s.setRegion r x).nfree = s.nfree := rfl
@[simp] theorem State.setRegion_nextId (r : Nat) (x : Region) : (s.setRegion r x).nextId = s.nextId := rfl
@[simp] theorem State.setRegion_taken (r : Nat) (x : Region) : (s.setRegion r x).taken = s.taken := rfl
@[simp] theorem State.setRegion_tiles (r : Nat) (x : Region) : (s.setRegion r x).tiles = s.tiles := rfl
@[simp] theorem State.setRegion_regions (r : Nat) (x : Region) : (s.setRegion r x).regions = SMap.set Region.reset s.regions r x := rfl
@[simp] theorem State.setRegion_entries (r : Nat) (x : Region) : (s.setRegion r x).entries = s.entries := rfl
@[simp] theorem State.setRegion_seqrs (r : Nat) (x : Region) : (s.setRegion r x).seqrs = s.seqrs := rfl
@[simp] theorem State.setRegion_dies (r : Nat) (x : Region) : (s.setRegion r x).dies = s.dies := rfl
@[simp] theorem State.setRegion_iod (r : Nat) (x : Region) : (s.setRegion r x).iod = s.iod := rfl
@[simp] theorem State.setRegion_txs (r : Nat) (x : Region) : (s.setRegion r x).txs = s.txs := rfl
@[simp] theorem State.setRegion_packets (r : Nat) (x : Region) : (s.setRegion r x).packets = s.packets := rfl
@[simp] theorem State.setRegion_creqs (r : Nat) (x : Region) : (s.setRegion r x).creqs = s.creqs := rfl
@[simp] theorem State.setRegion_misses (r : Nat) (x : Region) : (s.setRegion r x).misses = s.misses := rfl
@[simp] theorem State.setRegion_wbs (r : Nat) (x : Region) : (s.setRegion r x).wbs = s.wbs := rfl
@[simp] theorem State.setRegion_updates (r : Nat) (x : Region) : (s.setRegion r x).updates = s.updates := rfl
@[simp] theorem State.setRegion_ops (r : Nat) (x : Region) : (s.setRegion r x).ops = s.ops := rfl
@[simp] theorem State.setRegion_queries (r : Nat) (x : Region) : (s.setRegion r x).queries = s.queries := rfl
@[simp] theorem State.setRegion_walks (r : Nat) (x : Region) : (s.setRegion r x).walks = s.walks := rfl
@[simp] theorem State.setRegion_rounds (r : Nat) (x : Region) : (s.setRegion r x).rounds = s.rounds := rfl
@[simp] theorem State.setRegion_moved (r : Nat) (x : Region) : (s.setRegion r x).moved = s.moved := rfl
@[simp] theorem State.setRegion_fredNo (r : Nat) (x : Region) : (s.setRegion r x).fredNo = s.fredNo := rfl
@[simp] theorem State.setRegion_jobHolds (r : Nat) (x : Region) : (s.setRegion r x).jobHolds = s.jobHolds := rfl
@[simp] theorem State.setRegion_mem (r : Nat) (x : Region) : (s.setRegion r x).mem = s.mem := rfl
@[simp] theorem State.setRegion_pool (r : Nat) (x : Region) : (s.setRegion r x).pool = s.pool := rfl
@[simp] theorem State.setRegion_merr (r : Nat) (x : Region) : (s.setRegion r x).merr = s.merr := rfl
@[simp] theorem State.setRegion_perr (r : Nat) (x : Region) : (s.setRegion r x).perr = s.perr := rfl
@[simp] theorem State.setRegion_out (r : Nat) (x : Region) : (s.setRegion r x).out = s.out := rfl
@[simp] theorem State.setRegion_saved (r : Nat) (x : Region) : (s.setRegion r x).saved = s.saved := rfl

/-! ## updRegion -/

@[simp] theorem State.updRegion_ptime (r : Nat) (f : Region → Region) : (s.updRegion r f).ptime = s.ptime := rfl
@[simp] theorem State.updRegion_stage (r : Nat) (f : Region → Region) : (s.updRegion r f).stage = s.stage := rfl
@[simp] theorem State.updRegion_ext (r : Nat) (f : Region → Region) : (s.updRegion r f).ext = s.ext := rfl
@[simp] theorem State.updRegion_agenda (r : Nat) (f : Region → Region) : (s.updRegion r f).agenda = s.agenda := rfl
@[simp] theorem State.updRegion_cur (r : Nat) (f : Region → Region) : (s.updRegion r f).cur = s.cur := rfl
@[simp] theorem State.updRegion_pending (r : Nat) (f : Region → Region) : (s.updRegion r f).pending = s.pending := rfl
@[simp] theorem State.updRegion_nfree (r : Nat) (f : Region → Region) : (s.updRegion r f).nfree = s.nfree := rfl
@[simp] theorem State.updRegion_nextId (r : Nat) (f : Region → Region) : (s.updRegion r f).nextId = s.nextId := rfl
@[simp] theorem State.updRegion_taken (r : Nat) (f : Region → Region) : (s.updRegion r f).taken = s.taken := rfl
@[simp] theorem State.updRegion_tiles (r : Nat) (f : Region → Region) : (s.updRegion r f).tiles = s.tiles := rfl
@[simp] theorem State.updRegion_regions (r : Nat) (f : Region → Region) : (s.updRegion r f).regions = SMap.set Region.reset s.regions r (f (s.region r)) := rfl
@[simp] theorem State.updRegion_entries (r : Nat) (f : Region → Region) : (s.updRegion r f).entries = s.entries := rfl
@[simp] theorem State.updRegion_seqrs (r : Nat) (f : Region → Region) : (s.updRegion r f).seqrs = s.seqrs := rfl
@[simp] theorem State.updRegion_dies (r : Nat) (f : Region → Region) : (s.updRegion r f).dies = s.dies := rfl
@[simp] theorem State.updRegion_iod (r : Nat) (f : Region → Region) : (s.updRegion r f).iod = s.iod := rfl
@[simp] theorem State.updRegion_txs (r : Nat) (f : Region → Region) : (s.updRegion r f).txs = s.txs := rfl
@[simp] theorem State.updRegion_packets (r : Nat) (f : Region → Region) : (s.updRegion r f).packets = s.packets := rfl
@[simp] theorem State.updRegion_creqs (r : Nat) (f : Region → Region) : (s.updRegion r f).creqs = s.creqs := rfl
@[simp] theorem State.updRegion_misses (r : Nat) (f : Region → Region) : (s.updRegion r f).misses = s.misses := rfl
@[simp] theorem State.updRegion_wbs (r : Nat) (f : Region → Region) : (s.updRegion r f).wbs = s.wbs := rfl
@[simp] theorem State.updRegion_updates (r : Nat) (f : Region → Region) : (s.updRegion r f).updates = s.updates := rfl
@[simp] theorem State.updRegion_ops (r : Nat) (f : Region → Region) : (s.updRegion r f).ops = s.ops := rfl
@[simp] theorem State.updRegion_queries (r : Nat) (f : Region → Region) : (s.updRegion r f).queries = s.queries := rfl
@[simp] theorem State.updRegion_walks (r : Nat) (f : Region → Region) : (s.updRegion r f).walks = s.walks := rfl
@[simp] theorem State.updRegion_rounds (r : Nat) (f : Region → Region) : (s.updRegion r f).rounds = s.rounds := rfl
@[simp] theorem State.updRegion_moved (r : Nat) (f : Region → Region) : (s.updRegion r f).moved = s.moved := rfl
@[simp] theorem State.updRegion_fredNo (r : Nat) (f : Region → Region) : (s.updRegion r f).fredNo = s.fredNo := rfl
@[simp] theorem State.updRegion_jobHolds (r : Nat) (f : Region → Region) : (s.updRegion r f).jobHolds = s.jobHolds := rfl
@[simp] theorem State.updRegion_mem (r : Nat) (f : Region → Region) : (s.updRegion r f).mem = s.mem := rfl
@[simp] theorem State.updRegion_pool (r : Nat) (f : Region → Region) : (s.updRegion r f).pool = s.pool := rfl
@[simp] theorem State.updRegion_merr (r : Nat) (f : Region → Region) : (s.updRegion r f).merr = s.merr := rfl
@[simp] theorem State.updRegion_perr (r : Nat) (f : Region → Region) : (s.updRegion r f).perr = s.perr := rfl
@[simp] theorem State.updRegion_out (r : Nat) (f : Region → Region) : (s.updRegion r f).out = s.out := rfl
@[simp] theorem State.updRegion_saved (r : Nat) (f : Region → Region) : (s.updRegion r f).saved = s.saved := rfl

/-! ## setEntry -/

@[simp] theorem State.setEntry_ptime (e : BitVec 8) (x : Entry) : (s.setEntry e x).ptime = s.ptime := rfl
@[simp] theorem State.setEntry_stage (e : BitVec 8) (x : Entry) : (s.setEntry e x).stage = s.stage := rfl
@[simp] theorem State.setEntry_ext (e : BitVec 8) (x : Entry) : (s.setEntry e x).ext = s.ext := rfl
@[simp] theorem State.setEntry_agenda (e : BitVec 8) (x : Entry) : (s.setEntry e x).agenda = s.agenda := rfl
@[simp] theorem State.setEntry_cur (e : BitVec 8) (x : Entry) : (s.setEntry e x).cur = s.cur := rfl
@[simp] theorem State.setEntry_pending (e : BitVec 8) (x : Entry) : (s.setEntry e x).pending = s.pending := rfl
@[simp] theorem State.setEntry_nfree (e : BitVec 8) (x : Entry) : (s.setEntry e x).nfree = s.nfree := rfl
@[simp] theorem State.setEntry_nextId (e : BitVec 8) (x : Entry) : (s.setEntry e x).nextId = s.nextId := rfl
@[simp] theorem State.setEntry_taken (e : BitVec 8) (x : Entry) : (s.setEntry e x).taken = s.taken := rfl
@[simp] theorem State.setEntry_tiles (e : BitVec 8) (x : Entry) : (s.setEntry e x).tiles = s.tiles := rfl
@[simp] theorem State.setEntry_regions (e : BitVec 8) (x : Entry) : (s.setEntry e x).regions = s.regions := rfl
@[simp] theorem State.setEntry_entries (e : BitVec 8) (x : Entry) : (s.setEntry e x).entries = SMap.set Entry.reset s.entries e.toNat x := rfl
@[simp] theorem State.setEntry_seqrs (e : BitVec 8) (x : Entry) : (s.setEntry e x).seqrs = s.seqrs := rfl
@[simp] theorem State.setEntry_dies (e : BitVec 8) (x : Entry) : (s.setEntry e x).dies = s.dies := rfl
@[simp] theorem State.setEntry_iod (e : BitVec 8) (x : Entry) : (s.setEntry e x).iod = s.iod := rfl
@[simp] theorem State.setEntry_txs (e : BitVec 8) (x : Entry) : (s.setEntry e x).txs = s.txs := rfl
@[simp] theorem State.setEntry_packets (e : BitVec 8) (x : Entry) : (s.setEntry e x).packets = s.packets := rfl
@[simp] theorem State.setEntry_creqs (e : BitVec 8) (x : Entry) : (s.setEntry e x).creqs = s.creqs := rfl
@[simp] theorem State.setEntry_misses (e : BitVec 8) (x : Entry) : (s.setEntry e x).misses = s.misses := rfl
@[simp] theorem State.setEntry_wbs (e : BitVec 8) (x : Entry) : (s.setEntry e x).wbs = s.wbs := rfl
@[simp] theorem State.setEntry_updates (e : BitVec 8) (x : Entry) : (s.setEntry e x).updates = s.updates := rfl
@[simp] theorem State.setEntry_ops (e : BitVec 8) (x : Entry) : (s.setEntry e x).ops = s.ops := rfl
@[simp] theorem State.setEntry_queries (e : BitVec 8) (x : Entry) : (s.setEntry e x).queries = s.queries := rfl
@[simp] theorem State.setEntry_walks (e : BitVec 8) (x : Entry) : (s.setEntry e x).walks = s.walks := rfl
@[simp] theorem State.setEntry_rounds (e : BitVec 8) (x : Entry) : (s.setEntry e x).rounds = s.rounds := rfl
@[simp] theorem State.setEntry_moved (e : BitVec 8) (x : Entry) : (s.setEntry e x).moved = s.moved := rfl
@[simp] theorem State.setEntry_fredNo (e : BitVec 8) (x : Entry) : (s.setEntry e x).fredNo = s.fredNo := rfl
@[simp] theorem State.setEntry_jobHolds (e : BitVec 8) (x : Entry) : (s.setEntry e x).jobHolds = s.jobHolds := rfl
@[simp] theorem State.setEntry_mem (e : BitVec 8) (x : Entry) : (s.setEntry e x).mem = s.mem := rfl
@[simp] theorem State.setEntry_pool (e : BitVec 8) (x : Entry) : (s.setEntry e x).pool = s.pool := rfl
@[simp] theorem State.setEntry_merr (e : BitVec 8) (x : Entry) : (s.setEntry e x).merr = s.merr := rfl
@[simp] theorem State.setEntry_perr (e : BitVec 8) (x : Entry) : (s.setEntry e x).perr = s.perr := rfl
@[simp] theorem State.setEntry_out (e : BitVec 8) (x : Entry) : (s.setEntry e x).out = s.out := rfl
@[simp] theorem State.setEntry_saved (e : BitVec 8) (x : Entry) : (s.setEntry e x).saved = s.saved := rfl

/-! ## updEntry -/

@[simp] theorem State.updEntry_ptime (e : BitVec 8) (f : Entry → Entry) : (s.updEntry e f).ptime = s.ptime := rfl
@[simp] theorem State.updEntry_stage (e : BitVec 8) (f : Entry → Entry) : (s.updEntry e f).stage = s.stage := rfl
@[simp] theorem State.updEntry_ext (e : BitVec 8) (f : Entry → Entry) : (s.updEntry e f).ext = s.ext := rfl
@[simp] theorem State.updEntry_agenda (e : BitVec 8) (f : Entry → Entry) : (s.updEntry e f).agenda = s.agenda := rfl
@[simp] theorem State.updEntry_cur (e : BitVec 8) (f : Entry → Entry) : (s.updEntry e f).cur = s.cur := rfl
@[simp] theorem State.updEntry_pending (e : BitVec 8) (f : Entry → Entry) : (s.updEntry e f).pending = s.pending := rfl
@[simp] theorem State.updEntry_nfree (e : BitVec 8) (f : Entry → Entry) : (s.updEntry e f).nfree = s.nfree := rfl
@[simp] theorem State.updEntry_nextId (e : BitVec 8) (f : Entry → Entry) : (s.updEntry e f).nextId = s.nextId := rfl
@[simp] theorem State.updEntry_taken (e : BitVec 8) (f : Entry → Entry) : (s.updEntry e f).taken = s.taken := rfl
@[simp] theorem State.updEntry_tiles (e : BitVec 8) (f : Entry → Entry) : (s.updEntry e f).tiles = s.tiles := rfl
@[simp] theorem State.updEntry_regions (e : BitVec 8) (f : Entry → Entry) : (s.updEntry e f).regions = s.regions := rfl
@[simp] theorem State.updEntry_entries (e : BitVec 8) (f : Entry → Entry) : (s.updEntry e f).entries = SMap.set Entry.reset s.entries e.toNat (f (s.entry e)) := rfl
@[simp] theorem State.updEntry_seqrs (e : BitVec 8) (f : Entry → Entry) : (s.updEntry e f).seqrs = s.seqrs := rfl
@[simp] theorem State.updEntry_dies (e : BitVec 8) (f : Entry → Entry) : (s.updEntry e f).dies = s.dies := rfl
@[simp] theorem State.updEntry_iod (e : BitVec 8) (f : Entry → Entry) : (s.updEntry e f).iod = s.iod := rfl
@[simp] theorem State.updEntry_txs (e : BitVec 8) (f : Entry → Entry) : (s.updEntry e f).txs = s.txs := rfl
@[simp] theorem State.updEntry_packets (e : BitVec 8) (f : Entry → Entry) : (s.updEntry e f).packets = s.packets := rfl
@[simp] theorem State.updEntry_creqs (e : BitVec 8) (f : Entry → Entry) : (s.updEntry e f).creqs = s.creqs := rfl
@[simp] theorem State.updEntry_misses (e : BitVec 8) (f : Entry → Entry) : (s.updEntry e f).misses = s.misses := rfl
@[simp] theorem State.updEntry_wbs (e : BitVec 8) (f : Entry → Entry) : (s.updEntry e f).wbs = s.wbs := rfl
@[simp] theorem State.updEntry_updates (e : BitVec 8) (f : Entry → Entry) : (s.updEntry e f).updates = s.updates := rfl
@[simp] theorem State.updEntry_ops (e : BitVec 8) (f : Entry → Entry) : (s.updEntry e f).ops = s.ops := rfl
@[simp] theorem State.updEntry_queries (e : BitVec 8) (f : Entry → Entry) : (s.updEntry e f).queries = s.queries := rfl
@[simp] theorem State.updEntry_walks (e : BitVec 8) (f : Entry → Entry) : (s.updEntry e f).walks = s.walks := rfl
@[simp] theorem State.updEntry_rounds (e : BitVec 8) (f : Entry → Entry) : (s.updEntry e f).rounds = s.rounds := rfl
@[simp] theorem State.updEntry_moved (e : BitVec 8) (f : Entry → Entry) : (s.updEntry e f).moved = s.moved := rfl
@[simp] theorem State.updEntry_fredNo (e : BitVec 8) (f : Entry → Entry) : (s.updEntry e f).fredNo = s.fredNo := rfl
@[simp] theorem State.updEntry_jobHolds (e : BitVec 8) (f : Entry → Entry) : (s.updEntry e f).jobHolds = s.jobHolds := rfl
@[simp] theorem State.updEntry_mem (e : BitVec 8) (f : Entry → Entry) : (s.updEntry e f).mem = s.mem := rfl
@[simp] theorem State.updEntry_pool (e : BitVec 8) (f : Entry → Entry) : (s.updEntry e f).pool = s.pool := rfl
@[simp] theorem State.updEntry_merr (e : BitVec 8) (f : Entry → Entry) : (s.updEntry e f).merr = s.merr := rfl
@[simp] theorem State.updEntry_perr (e : BitVec 8) (f : Entry → Entry) : (s.updEntry e f).perr = s.perr := rfl
@[simp] theorem State.updEntry_out (e : BitVec 8) (f : Entry → Entry) : (s.updEntry e f).out = s.out := rfl
@[simp] theorem State.updEntry_saved (e : BitVec 8) (f : Entry → Entry) : (s.updEntry e f).saved = s.saved := rfl

/-! ## setSeqr -/

@[simp] theorem State.setSeqr_ptime (q : Nat) (x : Seqr) : (s.setSeqr q x).ptime = s.ptime := rfl
@[simp] theorem State.setSeqr_stage (q : Nat) (x : Seqr) : (s.setSeqr q x).stage = s.stage := rfl
@[simp] theorem State.setSeqr_ext (q : Nat) (x : Seqr) : (s.setSeqr q x).ext = s.ext := rfl
@[simp] theorem State.setSeqr_agenda (q : Nat) (x : Seqr) : (s.setSeqr q x).agenda = s.agenda := rfl
@[simp] theorem State.setSeqr_cur (q : Nat) (x : Seqr) : (s.setSeqr q x).cur = s.cur := rfl
@[simp] theorem State.setSeqr_pending (q : Nat) (x : Seqr) : (s.setSeqr q x).pending = s.pending := rfl
@[simp] theorem State.setSeqr_nfree (q : Nat) (x : Seqr) : (s.setSeqr q x).nfree = s.nfree := rfl
@[simp] theorem State.setSeqr_nextId (q : Nat) (x : Seqr) : (s.setSeqr q x).nextId = s.nextId := rfl
@[simp] theorem State.setSeqr_taken (q : Nat) (x : Seqr) : (s.setSeqr q x).taken = s.taken := rfl
@[simp] theorem State.setSeqr_tiles (q : Nat) (x : Seqr) : (s.setSeqr q x).tiles = s.tiles := rfl
@[simp] theorem State.setSeqr_regions (q : Nat) (x : Seqr) : (s.setSeqr q x).regions = s.regions := rfl
@[simp] theorem State.setSeqr_entries (q : Nat) (x : Seqr) : (s.setSeqr q x).entries = s.entries := rfl
@[simp] theorem State.setSeqr_seqrs (q : Nat) (x : Seqr) : (s.setSeqr q x).seqrs = SMap.set Seqr.reset s.seqrs q x := rfl
@[simp] theorem State.setSeqr_dies (q : Nat) (x : Seqr) : (s.setSeqr q x).dies = s.dies := rfl
@[simp] theorem State.setSeqr_iod (q : Nat) (x : Seqr) : (s.setSeqr q x).iod = s.iod := rfl
@[simp] theorem State.setSeqr_txs (q : Nat) (x : Seqr) : (s.setSeqr q x).txs = s.txs := rfl
@[simp] theorem State.setSeqr_packets (q : Nat) (x : Seqr) : (s.setSeqr q x).packets = s.packets := rfl
@[simp] theorem State.setSeqr_creqs (q : Nat) (x : Seqr) : (s.setSeqr q x).creqs = s.creqs := rfl
@[simp] theorem State.setSeqr_misses (q : Nat) (x : Seqr) : (s.setSeqr q x).misses = s.misses := rfl
@[simp] theorem State.setSeqr_wbs (q : Nat) (x : Seqr) : (s.setSeqr q x).wbs = s.wbs := rfl
@[simp] theorem State.setSeqr_updates (q : Nat) (x : Seqr) : (s.setSeqr q x).updates = s.updates := rfl
@[simp] theorem State.setSeqr_ops (q : Nat) (x : Seqr) : (s.setSeqr q x).ops = s.ops := rfl
@[simp] theorem State.setSeqr_queries (q : Nat) (x : Seqr) : (s.setSeqr q x).queries = s.queries := rfl
@[simp] theorem State.setSeqr_walks (q : Nat) (x : Seqr) : (s.setSeqr q x).walks = s.walks := rfl
@[simp] theorem State.setSeqr_rounds (q : Nat) (x : Seqr) : (s.setSeqr q x).rounds = s.rounds := rfl
@[simp] theorem State.setSeqr_moved (q : Nat) (x : Seqr) : (s.setSeqr q x).moved = s.moved := rfl
@[simp] theorem State.setSeqr_fredNo (q : Nat) (x : Seqr) : (s.setSeqr q x).fredNo = s.fredNo := rfl
@[simp] theorem State.setSeqr_jobHolds (q : Nat) (x : Seqr) : (s.setSeqr q x).jobHolds = s.jobHolds := rfl
@[simp] theorem State.setSeqr_mem (q : Nat) (x : Seqr) : (s.setSeqr q x).mem = s.mem := rfl
@[simp] theorem State.setSeqr_pool (q : Nat) (x : Seqr) : (s.setSeqr q x).pool = s.pool := rfl
@[simp] theorem State.setSeqr_merr (q : Nat) (x : Seqr) : (s.setSeqr q x).merr = s.merr := rfl
@[simp] theorem State.setSeqr_perr (q : Nat) (x : Seqr) : (s.setSeqr q x).perr = s.perr := rfl
@[simp] theorem State.setSeqr_out (q : Nat) (x : Seqr) : (s.setSeqr q x).out = s.out := rfl
@[simp] theorem State.setSeqr_saved (q : Nat) (x : Seqr) : (s.setSeqr q x).saved = s.saved := rfl

/-! ## updSeqr -/

@[simp] theorem State.updSeqr_ptime (q : Nat) (f : Seqr → Seqr) : (s.updSeqr q f).ptime = s.ptime := rfl
@[simp] theorem State.updSeqr_stage (q : Nat) (f : Seqr → Seqr) : (s.updSeqr q f).stage = s.stage := rfl
@[simp] theorem State.updSeqr_ext (q : Nat) (f : Seqr → Seqr) : (s.updSeqr q f).ext = s.ext := rfl
@[simp] theorem State.updSeqr_agenda (q : Nat) (f : Seqr → Seqr) : (s.updSeqr q f).agenda = s.agenda := rfl
@[simp] theorem State.updSeqr_cur (q : Nat) (f : Seqr → Seqr) : (s.updSeqr q f).cur = s.cur := rfl
@[simp] theorem State.updSeqr_pending (q : Nat) (f : Seqr → Seqr) : (s.updSeqr q f).pending = s.pending := rfl
@[simp] theorem State.updSeqr_nfree (q : Nat) (f : Seqr → Seqr) : (s.updSeqr q f).nfree = s.nfree := rfl
@[simp] theorem State.updSeqr_nextId (q : Nat) (f : Seqr → Seqr) : (s.updSeqr q f).nextId = s.nextId := rfl
@[simp] theorem State.updSeqr_taken (q : Nat) (f : Seqr → Seqr) : (s.updSeqr q f).taken = s.taken := rfl
@[simp] theorem State.updSeqr_tiles (q : Nat) (f : Seqr → Seqr) : (s.updSeqr q f).tiles = s.tiles := rfl
@[simp] theorem State.updSeqr_regions (q : Nat) (f : Seqr → Seqr) : (s.updSeqr q f).regions = s.regions := rfl
@[simp] theorem State.updSeqr_entries (q : Nat) (f : Seqr → Seqr) : (s.updSeqr q f).entries = s.entries := rfl
@[simp] theorem State.updSeqr_seqrs (q : Nat) (f : Seqr → Seqr) : (s.updSeqr q f).seqrs = SMap.set Seqr.reset s.seqrs q (f (s.seqr q)) := rfl
@[simp] theorem State.updSeqr_dies (q : Nat) (f : Seqr → Seqr) : (s.updSeqr q f).dies = s.dies := rfl
@[simp] theorem State.updSeqr_iod (q : Nat) (f : Seqr → Seqr) : (s.updSeqr q f).iod = s.iod := rfl
@[simp] theorem State.updSeqr_txs (q : Nat) (f : Seqr → Seqr) : (s.updSeqr q f).txs = s.txs := rfl
@[simp] theorem State.updSeqr_packets (q : Nat) (f : Seqr → Seqr) : (s.updSeqr q f).packets = s.packets := rfl
@[simp] theorem State.updSeqr_creqs (q : Nat) (f : Seqr → Seqr) : (s.updSeqr q f).creqs = s.creqs := rfl
@[simp] theorem State.updSeqr_misses (q : Nat) (f : Seqr → Seqr) : (s.updSeqr q f).misses = s.misses := rfl
@[simp] theorem State.updSeqr_wbs (q : Nat) (f : Seqr → Seqr) : (s.updSeqr q f).wbs = s.wbs := rfl
@[simp] theorem State.updSeqr_updates (q : Nat) (f : Seqr → Seqr) : (s.updSeqr q f).updates = s.updates := rfl
@[simp] theorem State.updSeqr_ops (q : Nat) (f : Seqr → Seqr) : (s.updSeqr q f).ops = s.ops := rfl
@[simp] theorem State.updSeqr_queries (q : Nat) (f : Seqr → Seqr) : (s.updSeqr q f).queries = s.queries := rfl
@[simp] theorem State.updSeqr_walks (q : Nat) (f : Seqr → Seqr) : (s.updSeqr q f).walks = s.walks := rfl
@[simp] theorem State.updSeqr_rounds (q : Nat) (f : Seqr → Seqr) : (s.updSeqr q f).rounds = s.rounds := rfl
@[simp] theorem State.updSeqr_moved (q : Nat) (f : Seqr → Seqr) : (s.updSeqr q f).moved = s.moved := rfl
@[simp] theorem State.updSeqr_fredNo (q : Nat) (f : Seqr → Seqr) : (s.updSeqr q f).fredNo = s.fredNo := rfl
@[simp] theorem State.updSeqr_jobHolds (q : Nat) (f : Seqr → Seqr) : (s.updSeqr q f).jobHolds = s.jobHolds := rfl
@[simp] theorem State.updSeqr_mem (q : Nat) (f : Seqr → Seqr) : (s.updSeqr q f).mem = s.mem := rfl
@[simp] theorem State.updSeqr_pool (q : Nat) (f : Seqr → Seqr) : (s.updSeqr q f).pool = s.pool := rfl
@[simp] theorem State.updSeqr_merr (q : Nat) (f : Seqr → Seqr) : (s.updSeqr q f).merr = s.merr := rfl
@[simp] theorem State.updSeqr_perr (q : Nat) (f : Seqr → Seqr) : (s.updSeqr q f).perr = s.perr := rfl
@[simp] theorem State.updSeqr_out (q : Nat) (f : Seqr → Seqr) : (s.updSeqr q f).out = s.out := rfl
@[simp] theorem State.updSeqr_saved (q : Nat) (f : Seqr → Seqr) : (s.updSeqr q f).saved = s.saved := rfl

/-! ## setDie -/

@[simp] theorem State.setDie_ptime (d : Nat) (x : Die) : (s.setDie d x).ptime = s.ptime := rfl
@[simp] theorem State.setDie_stage (d : Nat) (x : Die) : (s.setDie d x).stage = s.stage := rfl
@[simp] theorem State.setDie_ext (d : Nat) (x : Die) : (s.setDie d x).ext = s.ext := rfl
@[simp] theorem State.setDie_agenda (d : Nat) (x : Die) : (s.setDie d x).agenda = s.agenda := rfl
@[simp] theorem State.setDie_cur (d : Nat) (x : Die) : (s.setDie d x).cur = s.cur := rfl
@[simp] theorem State.setDie_pending (d : Nat) (x : Die) : (s.setDie d x).pending = s.pending := rfl
@[simp] theorem State.setDie_nfree (d : Nat) (x : Die) : (s.setDie d x).nfree = s.nfree := rfl
@[simp] theorem State.setDie_nextId (d : Nat) (x : Die) : (s.setDie d x).nextId = s.nextId := rfl
@[simp] theorem State.setDie_taken (d : Nat) (x : Die) : (s.setDie d x).taken = s.taken := rfl
@[simp] theorem State.setDie_tiles (d : Nat) (x : Die) : (s.setDie d x).tiles = s.tiles := rfl
@[simp] theorem State.setDie_regions (d : Nat) (x : Die) : (s.setDie d x).regions = s.regions := rfl
@[simp] theorem State.setDie_entries (d : Nat) (x : Die) : (s.setDie d x).entries = s.entries := rfl
@[simp] theorem State.setDie_seqrs (d : Nat) (x : Die) : (s.setDie d x).seqrs = s.seqrs := rfl
@[simp] theorem State.setDie_dies (d : Nat) (x : Die) : (s.setDie d x).dies = SMap.set Die.reset s.dies d x := rfl
@[simp] theorem State.setDie_iod (d : Nat) (x : Die) : (s.setDie d x).iod = s.iod := rfl
@[simp] theorem State.setDie_txs (d : Nat) (x : Die) : (s.setDie d x).txs = s.txs := rfl
@[simp] theorem State.setDie_packets (d : Nat) (x : Die) : (s.setDie d x).packets = s.packets := rfl
@[simp] theorem State.setDie_creqs (d : Nat) (x : Die) : (s.setDie d x).creqs = s.creqs := rfl
@[simp] theorem State.setDie_misses (d : Nat) (x : Die) : (s.setDie d x).misses = s.misses := rfl
@[simp] theorem State.setDie_wbs (d : Nat) (x : Die) : (s.setDie d x).wbs = s.wbs := rfl
@[simp] theorem State.setDie_updates (d : Nat) (x : Die) : (s.setDie d x).updates = s.updates := rfl
@[simp] theorem State.setDie_ops (d : Nat) (x : Die) : (s.setDie d x).ops = s.ops := rfl
@[simp] theorem State.setDie_queries (d : Nat) (x : Die) : (s.setDie d x).queries = s.queries := rfl
@[simp] theorem State.setDie_walks (d : Nat) (x : Die) : (s.setDie d x).walks = s.walks := rfl
@[simp] theorem State.setDie_rounds (d : Nat) (x : Die) : (s.setDie d x).rounds = s.rounds := rfl
@[simp] theorem State.setDie_moved (d : Nat) (x : Die) : (s.setDie d x).moved = s.moved := rfl
@[simp] theorem State.setDie_fredNo (d : Nat) (x : Die) : (s.setDie d x).fredNo = s.fredNo := rfl
@[simp] theorem State.setDie_jobHolds (d : Nat) (x : Die) : (s.setDie d x).jobHolds = s.jobHolds := rfl
@[simp] theorem State.setDie_mem (d : Nat) (x : Die) : (s.setDie d x).mem = s.mem := rfl
@[simp] theorem State.setDie_pool (d : Nat) (x : Die) : (s.setDie d x).pool = s.pool := rfl
@[simp] theorem State.setDie_merr (d : Nat) (x : Die) : (s.setDie d x).merr = s.merr := rfl
@[simp] theorem State.setDie_perr (d : Nat) (x : Die) : (s.setDie d x).perr = s.perr := rfl
@[simp] theorem State.setDie_out (d : Nat) (x : Die) : (s.setDie d x).out = s.out := rfl
@[simp] theorem State.setDie_saved (d : Nat) (x : Die) : (s.setDie d x).saved = s.saved := rfl

/-! ## updDie -/

@[simp] theorem State.updDie_ptime (d : Nat) (f : Die → Die) : (s.updDie d f).ptime = s.ptime := rfl
@[simp] theorem State.updDie_stage (d : Nat) (f : Die → Die) : (s.updDie d f).stage = s.stage := rfl
@[simp] theorem State.updDie_ext (d : Nat) (f : Die → Die) : (s.updDie d f).ext = s.ext := rfl
@[simp] theorem State.updDie_agenda (d : Nat) (f : Die → Die) : (s.updDie d f).agenda = s.agenda := rfl
@[simp] theorem State.updDie_cur (d : Nat) (f : Die → Die) : (s.updDie d f).cur = s.cur := rfl
@[simp] theorem State.updDie_pending (d : Nat) (f : Die → Die) : (s.updDie d f).pending = s.pending := rfl
@[simp] theorem State.updDie_nfree (d : Nat) (f : Die → Die) : (s.updDie d f).nfree = s.nfree := rfl
@[simp] theorem State.updDie_nextId (d : Nat) (f : Die → Die) : (s.updDie d f).nextId = s.nextId := rfl
@[simp] theorem State.updDie_taken (d : Nat) (f : Die → Die) : (s.updDie d f).taken = s.taken := rfl
@[simp] theorem State.updDie_tiles (d : Nat) (f : Die → Die) : (s.updDie d f).tiles = s.tiles := rfl
@[simp] theorem State.updDie_regions (d : Nat) (f : Die → Die) : (s.updDie d f).regions = s.regions := rfl
@[simp] theorem State.updDie_entries (d : Nat) (f : Die → Die) : (s.updDie d f).entries = s.entries := rfl
@[simp] theorem State.updDie_seqrs (d : Nat) (f : Die → Die) : (s.updDie d f).seqrs = s.seqrs := rfl
@[simp] theorem State.updDie_dies (d : Nat) (f : Die → Die) : (s.updDie d f).dies = SMap.set Die.reset s.dies d (f (s.die d)) := rfl
@[simp] theorem State.updDie_iod (d : Nat) (f : Die → Die) : (s.updDie d f).iod = s.iod := rfl
@[simp] theorem State.updDie_txs (d : Nat) (f : Die → Die) : (s.updDie d f).txs = s.txs := rfl
@[simp] theorem State.updDie_packets (d : Nat) (f : Die → Die) : (s.updDie d f).packets = s.packets := rfl
@[simp] theorem State.updDie_creqs (d : Nat) (f : Die → Die) : (s.updDie d f).creqs = s.creqs := rfl
@[simp] theorem State.updDie_misses (d : Nat) (f : Die → Die) : (s.updDie d f).misses = s.misses := rfl
@[simp] theorem State.updDie_wbs (d : Nat) (f : Die → Die) : (s.updDie d f).wbs = s.wbs := rfl
@[simp] theorem State.updDie_updates (d : Nat) (f : Die → Die) : (s.updDie d f).updates = s.updates := rfl
@[simp] theorem State.updDie_ops (d : Nat) (f : Die → Die) : (s.updDie d f).ops = s.ops := rfl
@[simp] theorem State.updDie_queries (d : Nat) (f : Die → Die) : (s.updDie d f).queries = s.queries := rfl
@[simp] theorem State.updDie_walks (d : Nat) (f : Die → Die) : (s.updDie d f).walks = s.walks := rfl
@[simp] theorem State.updDie_rounds (d : Nat) (f : Die → Die) : (s.updDie d f).rounds = s.rounds := rfl
@[simp] theorem State.updDie_moved (d : Nat) (f : Die → Die) : (s.updDie d f).moved = s.moved := rfl
@[simp] theorem State.updDie_fredNo (d : Nat) (f : Die → Die) : (s.updDie d f).fredNo = s.fredNo := rfl
@[simp] theorem State.updDie_jobHolds (d : Nat) (f : Die → Die) : (s.updDie d f).jobHolds = s.jobHolds := rfl
@[simp] theorem State.updDie_mem (d : Nat) (f : Die → Die) : (s.updDie d f).mem = s.mem := rfl
@[simp] theorem State.updDie_pool (d : Nat) (f : Die → Die) : (s.updDie d f).pool = s.pool := rfl
@[simp] theorem State.updDie_merr (d : Nat) (f : Die → Die) : (s.updDie d f).merr = s.merr := rfl
@[simp] theorem State.updDie_perr (d : Nat) (f : Die → Die) : (s.updDie d f).perr = s.perr := rfl
@[simp] theorem State.updDie_out (d : Nat) (f : Die → Die) : (s.updDie d f).out = s.out := rfl
@[simp] theorem State.updDie_saved (d : Nat) (f : Die → Die) : (s.updDie d f).saved = s.saved := rfl

/-! ## mapSeqrs -/

@[simp] theorem State.mapSeqrs_ptime (f : Nat → Seqr → Seqr) : (s.mapSeqrs f).ptime = s.ptime := rfl
@[simp] theorem State.mapSeqrs_stage (f : Nat → Seqr → Seqr) : (s.mapSeqrs f).stage = s.stage := rfl
@[simp] theorem State.mapSeqrs_ext (f : Nat → Seqr → Seqr) : (s.mapSeqrs f).ext = s.ext := rfl
@[simp] theorem State.mapSeqrs_agenda (f : Nat → Seqr → Seqr) : (s.mapSeqrs f).agenda = s.agenda := rfl
@[simp] theorem State.mapSeqrs_cur (f : Nat → Seqr → Seqr) : (s.mapSeqrs f).cur = s.cur := rfl
@[simp] theorem State.mapSeqrs_pending (f : Nat → Seqr → Seqr) : (s.mapSeqrs f).pending = s.pending := rfl
@[simp] theorem State.mapSeqrs_nfree (f : Nat → Seqr → Seqr) : (s.mapSeqrs f).nfree = s.nfree := rfl
@[simp] theorem State.mapSeqrs_nextId (f : Nat → Seqr → Seqr) : (s.mapSeqrs f).nextId = s.nextId := rfl
@[simp] theorem State.mapSeqrs_taken (f : Nat → Seqr → Seqr) : (s.mapSeqrs f).taken = s.taken := rfl
@[simp] theorem State.mapSeqrs_tiles (f : Nat → Seqr → Seqr) : (s.mapSeqrs f).tiles = s.tiles := rfl
@[simp] theorem State.mapSeqrs_regions (f : Nat → Seqr → Seqr) : (s.mapSeqrs f).regions = s.regions := rfl
@[simp] theorem State.mapSeqrs_entries (f : Nat → Seqr → Seqr) : (s.mapSeqrs f).entries = s.entries := rfl
@[simp] theorem State.mapSeqrs_seqrs (f : Nat → Seqr → Seqr) : (s.mapSeqrs f).seqrs = SMap.mapV Seqr.reset f s.seqrs := rfl
@[simp] theorem State.mapSeqrs_dies (f : Nat → Seqr → Seqr) : (s.mapSeqrs f).dies = s.dies := rfl
@[simp] theorem State.mapSeqrs_iod (f : Nat → Seqr → Seqr) : (s.mapSeqrs f).iod = s.iod := rfl
@[simp] theorem State.mapSeqrs_txs (f : Nat → Seqr → Seqr) : (s.mapSeqrs f).txs = s.txs := rfl
@[simp] theorem State.mapSeqrs_packets (f : Nat → Seqr → Seqr) : (s.mapSeqrs f).packets = s.packets := rfl
@[simp] theorem State.mapSeqrs_creqs (f : Nat → Seqr → Seqr) : (s.mapSeqrs f).creqs = s.creqs := rfl
@[simp] theorem State.mapSeqrs_misses (f : Nat → Seqr → Seqr) : (s.mapSeqrs f).misses = s.misses := rfl
@[simp] theorem State.mapSeqrs_wbs (f : Nat → Seqr → Seqr) : (s.mapSeqrs f).wbs = s.wbs := rfl
@[simp] theorem State.mapSeqrs_updates (f : Nat → Seqr → Seqr) : (s.mapSeqrs f).updates = s.updates := rfl
@[simp] theorem State.mapSeqrs_ops (f : Nat → Seqr → Seqr) : (s.mapSeqrs f).ops = s.ops := rfl
@[simp] theorem State.mapSeqrs_queries (f : Nat → Seqr → Seqr) : (s.mapSeqrs f).queries = s.queries := rfl
@[simp] theorem State.mapSeqrs_walks (f : Nat → Seqr → Seqr) : (s.mapSeqrs f).walks = s.walks := rfl
@[simp] theorem State.mapSeqrs_rounds (f : Nat → Seqr → Seqr) : (s.mapSeqrs f).rounds = s.rounds := rfl
@[simp] theorem State.mapSeqrs_moved (f : Nat → Seqr → Seqr) : (s.mapSeqrs f).moved = s.moved := rfl
@[simp] theorem State.mapSeqrs_fredNo (f : Nat → Seqr → Seqr) : (s.mapSeqrs f).fredNo = s.fredNo := rfl
@[simp] theorem State.mapSeqrs_jobHolds (f : Nat → Seqr → Seqr) : (s.mapSeqrs f).jobHolds = s.jobHolds := rfl
@[simp] theorem State.mapSeqrs_mem (f : Nat → Seqr → Seqr) : (s.mapSeqrs f).mem = s.mem := rfl
@[simp] theorem State.mapSeqrs_pool (f : Nat → Seqr → Seqr) : (s.mapSeqrs f).pool = s.pool := rfl
@[simp] theorem State.mapSeqrs_merr (f : Nat → Seqr → Seqr) : (s.mapSeqrs f).merr = s.merr := rfl
@[simp] theorem State.mapSeqrs_perr (f : Nat → Seqr → Seqr) : (s.mapSeqrs f).perr = s.perr := rfl
@[simp] theorem State.mapSeqrs_out (f : Nat → Seqr → Seqr) : (s.mapSeqrs f).out = s.out := rfl
@[simp] theorem State.mapSeqrs_saved (f : Nat → Seqr → Seqr) : (s.mapSeqrs f).saved = s.saved := rfl

/-! ## mapEntries -/

@[simp] theorem State.mapEntries_ptime (f : Nat → Entry → Entry) : (s.mapEntries f).ptime = s.ptime := rfl
@[simp] theorem State.mapEntries_stage (f : Nat → Entry → Entry) : (s.mapEntries f).stage = s.stage := rfl
@[simp] theorem State.mapEntries_ext (f : Nat → Entry → Entry) : (s.mapEntries f).ext = s.ext := rfl
@[simp] theorem State.mapEntries_agenda (f : Nat → Entry → Entry) : (s.mapEntries f).agenda = s.agenda := rfl
@[simp] theorem State.mapEntries_cur (f : Nat → Entry → Entry) : (s.mapEntries f).cur = s.cur := rfl
@[simp] theorem State.mapEntries_pending (f : Nat → Entry → Entry) : (s.mapEntries f).pending = s.pending := rfl
@[simp] theorem State.mapEntries_nfree (f : Nat → Entry → Entry) : (s.mapEntries f).nfree = s.nfree := rfl
@[simp] theorem State.mapEntries_nextId (f : Nat → Entry → Entry) : (s.mapEntries f).nextId = s.nextId := rfl
@[simp] theorem State.mapEntries_taken (f : Nat → Entry → Entry) : (s.mapEntries f).taken = s.taken := rfl
@[simp] theorem State.mapEntries_tiles (f : Nat → Entry → Entry) : (s.mapEntries f).tiles = s.tiles := rfl
@[simp] theorem State.mapEntries_regions (f : Nat → Entry → Entry) : (s.mapEntries f).regions = s.regions := rfl
@[simp] theorem State.mapEntries_entries (f : Nat → Entry → Entry) : (s.mapEntries f).entries = SMap.mapV Entry.reset f s.entries := rfl
@[simp] theorem State.mapEntries_seqrs (f : Nat → Entry → Entry) : (s.mapEntries f).seqrs = s.seqrs := rfl
@[simp] theorem State.mapEntries_dies (f : Nat → Entry → Entry) : (s.mapEntries f).dies = s.dies := rfl
@[simp] theorem State.mapEntries_iod (f : Nat → Entry → Entry) : (s.mapEntries f).iod = s.iod := rfl
@[simp] theorem State.mapEntries_txs (f : Nat → Entry → Entry) : (s.mapEntries f).txs = s.txs := rfl
@[simp] theorem State.mapEntries_packets (f : Nat → Entry → Entry) : (s.mapEntries f).packets = s.packets := rfl
@[simp] theorem State.mapEntries_creqs (f : Nat → Entry → Entry) : (s.mapEntries f).creqs = s.creqs := rfl
@[simp] theorem State.mapEntries_misses (f : Nat → Entry → Entry) : (s.mapEntries f).misses = s.misses := rfl
@[simp] theorem State.mapEntries_wbs (f : Nat → Entry → Entry) : (s.mapEntries f).wbs = s.wbs := rfl
@[simp] theorem State.mapEntries_updates (f : Nat → Entry → Entry) : (s.mapEntries f).updates = s.updates := rfl
@[simp] theorem State.mapEntries_ops (f : Nat → Entry → Entry) : (s.mapEntries f).ops = s.ops := rfl
@[simp] theorem State.mapEntries_queries (f : Nat → Entry → Entry) : (s.mapEntries f).queries = s.queries := rfl
@[simp] theorem State.mapEntries_walks (f : Nat → Entry → Entry) : (s.mapEntries f).walks = s.walks := rfl
@[simp] theorem State.mapEntries_rounds (f : Nat → Entry → Entry) : (s.mapEntries f).rounds = s.rounds := rfl
@[simp] theorem State.mapEntries_moved (f : Nat → Entry → Entry) : (s.mapEntries f).moved = s.moved := rfl
@[simp] theorem State.mapEntries_fredNo (f : Nat → Entry → Entry) : (s.mapEntries f).fredNo = s.fredNo := rfl
@[simp] theorem State.mapEntries_jobHolds (f : Nat → Entry → Entry) : (s.mapEntries f).jobHolds = s.jobHolds := rfl
@[simp] theorem State.mapEntries_mem (f : Nat → Entry → Entry) : (s.mapEntries f).mem = s.mem := rfl
@[simp] theorem State.mapEntries_pool (f : Nat → Entry → Entry) : (s.mapEntries f).pool = s.pool := rfl
@[simp] theorem State.mapEntries_merr (f : Nat → Entry → Entry) : (s.mapEntries f).merr = s.merr := rfl
@[simp] theorem State.mapEntries_perr (f : Nat → Entry → Entry) : (s.mapEntries f).perr = s.perr := rfl
@[simp] theorem State.mapEntries_out (f : Nat → Entry → Entry) : (s.mapEntries f).out = s.out := rfl
@[simp] theorem State.mapEntries_saved (f : Nat → Entry → Entry) : (s.mapEntries f).saved = s.saved := rfl

/-! ## dropRegions -/

@[simp] theorem State.dropRegions_ptime (e : BitVec 8) : (s.dropRegions e).ptime = s.ptime := rfl
@[simp] theorem State.dropRegions_stage (e : BitVec 8) : (s.dropRegions e).stage = s.stage := rfl
@[simp] theorem State.dropRegions_ext (e : BitVec 8) : (s.dropRegions e).ext = s.ext := rfl
@[simp] theorem State.dropRegions_agenda (e : BitVec 8) : (s.dropRegions e).agenda = s.agenda := rfl
@[simp] theorem State.dropRegions_cur (e : BitVec 8) : (s.dropRegions e).cur = s.cur := rfl
@[simp] theorem State.dropRegions_pending (e : BitVec 8) : (s.dropRegions e).pending = s.pending := rfl
@[simp] theorem State.dropRegions_nfree (e : BitVec 8) : (s.dropRegions e).nfree = s.nfree := rfl
@[simp] theorem State.dropRegions_nextId (e : BitVec 8) : (s.dropRegions e).nextId = s.nextId := rfl
@[simp] theorem State.dropRegions_taken (e : BitVec 8) : (s.dropRegions e).taken = s.taken := rfl
@[simp] theorem State.dropRegions_tiles (e : BitVec 8) : (s.dropRegions e).tiles = s.tiles := rfl
@[simp] theorem State.dropRegions_regions (e : BitVec 8) : (s.dropRegions e).regions = s.regions.filter fun r => r.2.entry != e := rfl
@[simp] theorem State.dropRegions_entries (e : BitVec 8) : (s.dropRegions e).entries = s.entries := rfl
@[simp] theorem State.dropRegions_seqrs (e : BitVec 8) : (s.dropRegions e).seqrs = s.seqrs := rfl
@[simp] theorem State.dropRegions_dies (e : BitVec 8) : (s.dropRegions e).dies = s.dies := rfl
@[simp] theorem State.dropRegions_iod (e : BitVec 8) : (s.dropRegions e).iod = s.iod := rfl
@[simp] theorem State.dropRegions_txs (e : BitVec 8) : (s.dropRegions e).txs = s.txs := rfl
@[simp] theorem State.dropRegions_packets (e : BitVec 8) : (s.dropRegions e).packets = s.packets := rfl
@[simp] theorem State.dropRegions_creqs (e : BitVec 8) : (s.dropRegions e).creqs = s.creqs := rfl
@[simp] theorem State.dropRegions_misses (e : BitVec 8) : (s.dropRegions e).misses = s.misses := rfl
@[simp] theorem State.dropRegions_wbs (e : BitVec 8) : (s.dropRegions e).wbs = s.wbs := rfl
@[simp] theorem State.dropRegions_updates (e : BitVec 8) : (s.dropRegions e).updates = s.updates := rfl
@[simp] theorem State.dropRegions_ops (e : BitVec 8) : (s.dropRegions e).ops = s.ops := rfl
@[simp] theorem State.dropRegions_queries (e : BitVec 8) : (s.dropRegions e).queries = s.queries := rfl
@[simp] theorem State.dropRegions_walks (e : BitVec 8) : (s.dropRegions e).walks = s.walks := rfl
@[simp] theorem State.dropRegions_rounds (e : BitVec 8) : (s.dropRegions e).rounds = s.rounds := rfl
@[simp] theorem State.dropRegions_moved (e : BitVec 8) : (s.dropRegions e).moved = s.moved := rfl
@[simp] theorem State.dropRegions_fredNo (e : BitVec 8) : (s.dropRegions e).fredNo = s.fredNo := rfl
@[simp] theorem State.dropRegions_jobHolds (e : BitVec 8) : (s.dropRegions e).jobHolds = s.jobHolds := rfl
@[simp] theorem State.dropRegions_mem (e : BitVec 8) : (s.dropRegions e).mem = s.mem := rfl
@[simp] theorem State.dropRegions_pool (e : BitVec 8) : (s.dropRegions e).pool = s.pool := rfl
@[simp] theorem State.dropRegions_merr (e : BitVec 8) : (s.dropRegions e).merr = s.merr := rfl
@[simp] theorem State.dropRegions_perr (e : BitVec 8) : (s.dropRegions e).perr = s.perr := rfl
@[simp] theorem State.dropRegions_out (e : BitVec 8) : (s.dropRegions e).out = s.out := rfl
@[simp] theorem State.dropRegions_saved (e : BitVec 8) : (s.dropRegions e).saved = s.saved := rfl

/-! ## writeMem -/

@[simp] theorem State.writeMem_ptime (a : Nat) (bs : List Byte) : (s.writeMem a bs).ptime = s.ptime := rfl
@[simp] theorem State.writeMem_stage (a : Nat) (bs : List Byte) : (s.writeMem a bs).stage = s.stage := rfl
@[simp] theorem State.writeMem_ext (a : Nat) (bs : List Byte) : (s.writeMem a bs).ext = s.ext := rfl
@[simp] theorem State.writeMem_agenda (a : Nat) (bs : List Byte) : (s.writeMem a bs).agenda = s.agenda := rfl
@[simp] theorem State.writeMem_cur (a : Nat) (bs : List Byte) : (s.writeMem a bs).cur = s.cur := rfl
@[simp] theorem State.writeMem_pending (a : Nat) (bs : List Byte) : (s.writeMem a bs).pending = s.pending := rfl
@[simp] theorem State.writeMem_nfree (a : Nat) (bs : List Byte) : (s.writeMem a bs).nfree = s.nfree := rfl
@[simp] theorem State.writeMem_nextId (a : Nat) (bs : List Byte) : (s.writeMem a bs).nextId = s.nextId := rfl
@[simp] theorem State.writeMem_taken (a : Nat) (bs : List Byte) : (s.writeMem a bs).taken = s.taken := rfl
@[simp] theorem State.writeMem_tiles (a : Nat) (bs : List Byte) : (s.writeMem a bs).tiles = s.tiles := rfl
@[simp] theorem State.writeMem_regions (a : Nat) (bs : List Byte) : (s.writeMem a bs).regions = s.regions := rfl
@[simp] theorem State.writeMem_entries (a : Nat) (bs : List Byte) : (s.writeMem a bs).entries = s.entries := rfl
@[simp] theorem State.writeMem_seqrs (a : Nat) (bs : List Byte) : (s.writeMem a bs).seqrs = s.seqrs := rfl
@[simp] theorem State.writeMem_dies (a : Nat) (bs : List Byte) : (s.writeMem a bs).dies = s.dies := rfl
@[simp] theorem State.writeMem_iod (a : Nat) (bs : List Byte) : (s.writeMem a bs).iod = s.iod := rfl
@[simp] theorem State.writeMem_txs (a : Nat) (bs : List Byte) : (s.writeMem a bs).txs = s.txs := rfl
@[simp] theorem State.writeMem_packets (a : Nat) (bs : List Byte) : (s.writeMem a bs).packets = s.packets := rfl
@[simp] theorem State.writeMem_creqs (a : Nat) (bs : List Byte) : (s.writeMem a bs).creqs = s.creqs := rfl
@[simp] theorem State.writeMem_misses (a : Nat) (bs : List Byte) : (s.writeMem a bs).misses = s.misses := rfl
@[simp] theorem State.writeMem_wbs (a : Nat) (bs : List Byte) : (s.writeMem a bs).wbs = s.wbs := rfl
@[simp] theorem State.writeMem_updates (a : Nat) (bs : List Byte) : (s.writeMem a bs).updates = s.updates := rfl
@[simp] theorem State.writeMem_ops (a : Nat) (bs : List Byte) : (s.writeMem a bs).ops = s.ops := rfl
@[simp] theorem State.writeMem_queries (a : Nat) (bs : List Byte) : (s.writeMem a bs).queries = s.queries := rfl
@[simp] theorem State.writeMem_walks (a : Nat) (bs : List Byte) : (s.writeMem a bs).walks = s.walks := rfl
@[simp] theorem State.writeMem_rounds (a : Nat) (bs : List Byte) : (s.writeMem a bs).rounds = s.rounds := rfl
@[simp] theorem State.writeMem_moved (a : Nat) (bs : List Byte) : (s.writeMem a bs).moved = s.moved := rfl
@[simp] theorem State.writeMem_fredNo (a : Nat) (bs : List Byte) : (s.writeMem a bs).fredNo = s.fredNo := rfl
@[simp] theorem State.writeMem_jobHolds (a : Nat) (bs : List Byte) : (s.writeMem a bs).jobHolds = s.jobHolds := rfl
@[simp] theorem State.writeMem_mem (a : Nat) (bs : List Byte) : (s.writeMem a bs).mem = writeBytes s.mem a bs := rfl
@[simp] theorem State.writeMem_pool (a : Nat) (bs : List Byte) : (s.writeMem a bs).pool = s.pool := rfl
@[simp] theorem State.writeMem_merr (a : Nat) (bs : List Byte) : (s.writeMem a bs).merr = freshWords s.merr a bs.length := rfl
@[simp] theorem State.writeMem_perr (a : Nat) (bs : List Byte) : (s.writeMem a bs).perr = s.perr := rfl
@[simp] theorem State.writeMem_out (a : Nat) (bs : List Byte) : (s.writeMem a bs).out = s.out := rfl
@[simp] theorem State.writeMem_saved (a : Nat) (bs : List Byte) : (s.writeMem a bs).saved = s.saved := rfl

/-! ## writeMemCells -/

@[simp] theorem State.writeMemCells_ptime (cs : List Host.Cell) : (s.writeMemCells cs).ptime = s.ptime := rfl
@[simp] theorem State.writeMemCells_stage (cs : List Host.Cell) : (s.writeMemCells cs).stage = s.stage := rfl
@[simp] theorem State.writeMemCells_ext (cs : List Host.Cell) : (s.writeMemCells cs).ext = s.ext := rfl
@[simp] theorem State.writeMemCells_agenda (cs : List Host.Cell) : (s.writeMemCells cs).agenda = s.agenda := rfl
@[simp] theorem State.writeMemCells_cur (cs : List Host.Cell) : (s.writeMemCells cs).cur = s.cur := rfl
@[simp] theorem State.writeMemCells_pending (cs : List Host.Cell) : (s.writeMemCells cs).pending = s.pending := rfl
@[simp] theorem State.writeMemCells_nfree (cs : List Host.Cell) : (s.writeMemCells cs).nfree = s.nfree := rfl
@[simp] theorem State.writeMemCells_nextId (cs : List Host.Cell) : (s.writeMemCells cs).nextId = s.nextId := rfl
@[simp] theorem State.writeMemCells_taken (cs : List Host.Cell) : (s.writeMemCells cs).taken = s.taken := rfl
@[simp] theorem State.writeMemCells_tiles (cs : List Host.Cell) : (s.writeMemCells cs).tiles = s.tiles := rfl
@[simp] theorem State.writeMemCells_regions (cs : List Host.Cell) : (s.writeMemCells cs).regions = s.regions := rfl
@[simp] theorem State.writeMemCells_entries (cs : List Host.Cell) : (s.writeMemCells cs).entries = s.entries := rfl
@[simp] theorem State.writeMemCells_seqrs (cs : List Host.Cell) : (s.writeMemCells cs).seqrs = s.seqrs := rfl
@[simp] theorem State.writeMemCells_dies (cs : List Host.Cell) : (s.writeMemCells cs).dies = s.dies := rfl
@[simp] theorem State.writeMemCells_iod (cs : List Host.Cell) : (s.writeMemCells cs).iod = s.iod := rfl
@[simp] theorem State.writeMemCells_txs (cs : List Host.Cell) : (s.writeMemCells cs).txs = s.txs := rfl
@[simp] theorem State.writeMemCells_packets (cs : List Host.Cell) : (s.writeMemCells cs).packets = s.packets := rfl
@[simp] theorem State.writeMemCells_creqs (cs : List Host.Cell) : (s.writeMemCells cs).creqs = s.creqs := rfl
@[simp] theorem State.writeMemCells_misses (cs : List Host.Cell) : (s.writeMemCells cs).misses = s.misses := rfl
@[simp] theorem State.writeMemCells_wbs (cs : List Host.Cell) : (s.writeMemCells cs).wbs = s.wbs := rfl
@[simp] theorem State.writeMemCells_updates (cs : List Host.Cell) : (s.writeMemCells cs).updates = s.updates := rfl
@[simp] theorem State.writeMemCells_ops (cs : List Host.Cell) : (s.writeMemCells cs).ops = s.ops := rfl
@[simp] theorem State.writeMemCells_queries (cs : List Host.Cell) : (s.writeMemCells cs).queries = s.queries := rfl
@[simp] theorem State.writeMemCells_walks (cs : List Host.Cell) : (s.writeMemCells cs).walks = s.walks := rfl
@[simp] theorem State.writeMemCells_rounds (cs : List Host.Cell) : (s.writeMemCells cs).rounds = s.rounds := rfl
@[simp] theorem State.writeMemCells_moved (cs : List Host.Cell) : (s.writeMemCells cs).moved = s.moved := rfl
@[simp] theorem State.writeMemCells_fredNo (cs : List Host.Cell) : (s.writeMemCells cs).fredNo = s.fredNo := rfl
@[simp] theorem State.writeMemCells_jobHolds (cs : List Host.Cell) : (s.writeMemCells cs).jobHolds = s.jobHolds := rfl
@[simp] theorem State.writeMemCells_mem (cs : List Host.Cell) : (s.writeMemCells cs).mem = writeCells s.mem cs := rfl
@[simp] theorem State.writeMemCells_pool (cs : List Host.Cell) : (s.writeMemCells cs).pool = s.pool := rfl
@[simp] theorem State.writeMemCells_merr (cs : List Host.Cell) : (s.writeMemCells cs).merr = freshCells s.merr cs := rfl
@[simp] theorem State.writeMemCells_perr (cs : List Host.Cell) : (s.writeMemCells cs).perr = s.perr := rfl
@[simp] theorem State.writeMemCells_out (cs : List Host.Cell) : (s.writeMemCells cs).out = s.out := rfl
@[simp] theorem State.writeMemCells_saved (cs : List Host.Cell) : (s.writeMemCells cs).saved = s.saved := rfl

/-! ## writePool -/

@[simp] theorem State.writePool_ptime (cs : List Host.Cell) : (s.writePool cs).ptime = s.ptime := rfl
@[simp] theorem State.writePool_stage (cs : List Host.Cell) : (s.writePool cs).stage = s.stage := rfl
@[simp] theorem State.writePool_ext (cs : List Host.Cell) : (s.writePool cs).ext = s.ext := rfl
@[simp] theorem State.writePool_agenda (cs : List Host.Cell) : (s.writePool cs).agenda = s.agenda := rfl
@[simp] theorem State.writePool_cur (cs : List Host.Cell) : (s.writePool cs).cur = s.cur := rfl
@[simp] theorem State.writePool_pending (cs : List Host.Cell) : (s.writePool cs).pending = s.pending := rfl
@[simp] theorem State.writePool_nfree (cs : List Host.Cell) : (s.writePool cs).nfree = s.nfree := rfl
@[simp] theorem State.writePool_nextId (cs : List Host.Cell) : (s.writePool cs).nextId = s.nextId := rfl
@[simp] theorem State.writePool_taken (cs : List Host.Cell) : (s.writePool cs).taken = s.taken := rfl
@[simp] theorem State.writePool_tiles (cs : List Host.Cell) : (s.writePool cs).tiles = s.tiles := rfl
@[simp] theorem State.writePool_regions (cs : List Host.Cell) : (s.writePool cs).regions = s.regions := rfl
@[simp] theorem State.writePool_entries (cs : List Host.Cell) : (s.writePool cs).entries = s.entries := rfl
@[simp] theorem State.writePool_seqrs (cs : List Host.Cell) : (s.writePool cs).seqrs = s.seqrs := rfl
@[simp] theorem State.writePool_dies (cs : List Host.Cell) : (s.writePool cs).dies = s.dies := rfl
@[simp] theorem State.writePool_iod (cs : List Host.Cell) : (s.writePool cs).iod = s.iod := rfl
@[simp] theorem State.writePool_txs (cs : List Host.Cell) : (s.writePool cs).txs = s.txs := rfl
@[simp] theorem State.writePool_packets (cs : List Host.Cell) : (s.writePool cs).packets = s.packets := rfl
@[simp] theorem State.writePool_creqs (cs : List Host.Cell) : (s.writePool cs).creqs = s.creqs := rfl
@[simp] theorem State.writePool_misses (cs : List Host.Cell) : (s.writePool cs).misses = s.misses := rfl
@[simp] theorem State.writePool_wbs (cs : List Host.Cell) : (s.writePool cs).wbs = s.wbs := rfl
@[simp] theorem State.writePool_updates (cs : List Host.Cell) : (s.writePool cs).updates = s.updates := rfl
@[simp] theorem State.writePool_ops (cs : List Host.Cell) : (s.writePool cs).ops = s.ops := rfl
@[simp] theorem State.writePool_queries (cs : List Host.Cell) : (s.writePool cs).queries = s.queries := rfl
@[simp] theorem State.writePool_walks (cs : List Host.Cell) : (s.writePool cs).walks = s.walks := rfl
@[simp] theorem State.writePool_rounds (cs : List Host.Cell) : (s.writePool cs).rounds = s.rounds := rfl
@[simp] theorem State.writePool_moved (cs : List Host.Cell) : (s.writePool cs).moved = s.moved := rfl
@[simp] theorem State.writePool_fredNo (cs : List Host.Cell) : (s.writePool cs).fredNo = s.fredNo := rfl
@[simp] theorem State.writePool_jobHolds (cs : List Host.Cell) : (s.writePool cs).jobHolds = s.jobHolds := rfl
@[simp] theorem State.writePool_mem (cs : List Host.Cell) : (s.writePool cs).mem = s.mem := rfl
@[simp] theorem State.writePool_pool (cs : List Host.Cell) : (s.writePool cs).pool = writeCells s.pool cs := rfl
@[simp] theorem State.writePool_merr (cs : List Host.Cell) : (s.writePool cs).merr = s.merr := rfl
@[simp] theorem State.writePool_perr (cs : List Host.Cell) : (s.writePool cs).perr = freshCells s.perr cs := rfl
@[simp] theorem State.writePool_out (cs : List Host.Cell) : (s.writePool cs).out = s.out := rfl
@[simp] theorem State.writePool_saved (cs : List Host.Cell) : (s.writePool cs).saved = s.saved := rfl

/-! ## save -/

@[simp] theorem State.save_ptime (e : BitVec 8) (xs : List Tile) : (s.save e xs).ptime = s.ptime := rfl
@[simp] theorem State.save_stage (e : BitVec 8) (xs : List Tile) : (s.save e xs).stage = s.stage := rfl
@[simp] theorem State.save_ext (e : BitVec 8) (xs : List Tile) : (s.save e xs).ext = s.ext := rfl
@[simp] theorem State.save_agenda (e : BitVec 8) (xs : List Tile) : (s.save e xs).agenda = s.agenda := rfl
@[simp] theorem State.save_cur (e : BitVec 8) (xs : List Tile) : (s.save e xs).cur = s.cur := rfl
@[simp] theorem State.save_pending (e : BitVec 8) (xs : List Tile) : (s.save e xs).pending = s.pending := rfl
@[simp] theorem State.save_nfree (e : BitVec 8) (xs : List Tile) : (s.save e xs).nfree = s.nfree := rfl
@[simp] theorem State.save_nextId (e : BitVec 8) (xs : List Tile) : (s.save e xs).nextId = s.nextId := rfl
@[simp] theorem State.save_taken (e : BitVec 8) (xs : List Tile) : (s.save e xs).taken = s.taken := rfl
@[simp] theorem State.save_tiles (e : BitVec 8) (xs : List Tile) : (s.save e xs).tiles = s.tiles := rfl
@[simp] theorem State.save_regions (e : BitVec 8) (xs : List Tile) : (s.save e xs).regions = s.regions := rfl
@[simp] theorem State.save_entries (e : BitVec 8) (xs : List Tile) : (s.save e xs).entries = s.entries := rfl
@[simp] theorem State.save_seqrs (e : BitVec 8) (xs : List Tile) : (s.save e xs).seqrs = s.seqrs := rfl
@[simp] theorem State.save_dies (e : BitVec 8) (xs : List Tile) : (s.save e xs).dies = s.dies := rfl
@[simp] theorem State.save_iod (e : BitVec 8) (xs : List Tile) : (s.save e xs).iod = s.iod := rfl
@[simp] theorem State.save_txs (e : BitVec 8) (xs : List Tile) : (s.save e xs).txs = s.txs := rfl
@[simp] theorem State.save_packets (e : BitVec 8) (xs : List Tile) : (s.save e xs).packets = s.packets := rfl
@[simp] theorem State.save_creqs (e : BitVec 8) (xs : List Tile) : (s.save e xs).creqs = s.creqs := rfl
@[simp] theorem State.save_misses (e : BitVec 8) (xs : List Tile) : (s.save e xs).misses = s.misses := rfl
@[simp] theorem State.save_wbs (e : BitVec 8) (xs : List Tile) : (s.save e xs).wbs = s.wbs := rfl
@[simp] theorem State.save_updates (e : BitVec 8) (xs : List Tile) : (s.save e xs).updates = s.updates := rfl
@[simp] theorem State.save_ops (e : BitVec 8) (xs : List Tile) : (s.save e xs).ops = s.ops := rfl
@[simp] theorem State.save_queries (e : BitVec 8) (xs : List Tile) : (s.save e xs).queries = s.queries := rfl
@[simp] theorem State.save_walks (e : BitVec 8) (xs : List Tile) : (s.save e xs).walks = s.walks := rfl
@[simp] theorem State.save_rounds (e : BitVec 8) (xs : List Tile) : (s.save e xs).rounds = s.rounds := rfl
@[simp] theorem State.save_moved (e : BitVec 8) (xs : List Tile) : (s.save e xs).moved = s.moved := rfl
@[simp] theorem State.save_fredNo (e : BitVec 8) (xs : List Tile) : (s.save e xs).fredNo = s.fredNo := rfl
@[simp] theorem State.save_jobHolds (e : BitVec 8) (xs : List Tile) : (s.save e xs).jobHolds = s.jobHolds := rfl
@[simp] theorem State.save_mem (e : BitVec 8) (xs : List Tile) : (s.save e xs).mem = s.mem := rfl
@[simp] theorem State.save_pool (e : BitVec 8) (xs : List Tile) : (s.save e xs).pool = s.pool := rfl
@[simp] theorem State.save_merr (e : BitVec 8) (xs : List Tile) : (s.save e xs).merr = s.merr := rfl
@[simp] theorem State.save_perr (e : BitVec 8) (xs : List Tile) : (s.save e xs).perr = s.perr := rfl
@[simp] theorem State.save_out (e : BitVec 8) (xs : List Tile) : (s.save e xs).out = s.out := rfl
@[simp] theorem State.save_saved (e : BitVec 8) (xs : List Tile) : (s.save e xs).saved = SMap.set [] s.saved e.toNat xs := rfl

/-! ## spend -/

@[simp] theorem State.spend_ptime : (s.spend).ptime = s.ptime := rfl
@[simp] theorem State.spend_stage : (s.spend).stage = s.stage := rfl
@[simp] theorem State.spend_ext : (s.spend).ext = s.ext := rfl
@[simp] theorem State.spend_agenda : (s.spend).agenda = s.agenda := rfl
@[simp] theorem State.spend_cur : (s.spend).cur = s.cur := rfl
@[simp] theorem State.spend_pending : (s.spend).pending = s.pending := rfl
@[simp] theorem State.spend_nfree : (s.spend).nfree = s.nfree + 1 := rfl
@[simp] theorem State.spend_nextId : (s.spend).nextId = s.nextId := rfl
@[simp] theorem State.spend_taken : (s.spend).taken = s.taken := rfl
@[simp] theorem State.spend_tiles : (s.spend).tiles = s.tiles := rfl
@[simp] theorem State.spend_regions : (s.spend).regions = s.regions := rfl
@[simp] theorem State.spend_entries : (s.spend).entries = s.entries := rfl
@[simp] theorem State.spend_seqrs : (s.spend).seqrs = s.seqrs := rfl
@[simp] theorem State.spend_dies : (s.spend).dies = s.dies := rfl
@[simp] theorem State.spend_iod : (s.spend).iod = s.iod := rfl
@[simp] theorem State.spend_txs : (s.spend).txs = s.txs := rfl
@[simp] theorem State.spend_packets : (s.spend).packets = s.packets := rfl
@[simp] theorem State.spend_creqs : (s.spend).creqs = s.creqs := rfl
@[simp] theorem State.spend_misses : (s.spend).misses = s.misses := rfl
@[simp] theorem State.spend_wbs : (s.spend).wbs = s.wbs := rfl
@[simp] theorem State.spend_updates : (s.spend).updates = s.updates := rfl
@[simp] theorem State.spend_ops : (s.spend).ops = s.ops := rfl
@[simp] theorem State.spend_queries : (s.spend).queries = s.queries := rfl
@[simp] theorem State.spend_walks : (s.spend).walks = s.walks := rfl
@[simp] theorem State.spend_rounds : (s.spend).rounds = s.rounds := rfl
@[simp] theorem State.spend_moved : (s.spend).moved = s.moved := rfl
@[simp] theorem State.spend_fredNo : (s.spend).fredNo = s.fredNo := rfl
@[simp] theorem State.spend_jobHolds : (s.spend).jobHolds = s.jobHolds := rfl
@[simp] theorem State.spend_mem : (s.spend).mem = s.mem := rfl
@[simp] theorem State.spend_pool : (s.spend).pool = s.pool := rfl
@[simp] theorem State.spend_merr : (s.spend).merr = s.merr := rfl
@[simp] theorem State.spend_perr : (s.spend).perr = s.perr := rfl
@[simp] theorem State.spend_out : (s.spend).out = s.out := rfl
@[simp] theorem State.spend_saved : (s.spend).saved = s.saved := rfl

/-! ## after -/

@[simp] theorem State.after_ptime (n : Nat) (i : Instr) (x : Ext) : (s.after n i x).ptime = s.ptime := rfl
@[simp] theorem State.after_stage (n : Nat) (i : Instr) (x : Ext) : (s.after n i x).stage = s.stage := rfl
@[simp] theorem State.after_ext (n : Nat) (i : Instr) (x : Ext) : (s.after n i x).ext = s.ext := rfl
@[simp] theorem State.after_agenda (n : Nat) (i : Instr) (x : Ext) : (s.after n i x).agenda = s.agenda := rfl
@[simp] theorem State.after_cur (n : Nat) (i : Instr) (x : Ext) : (s.after n i x).cur = s.cur := rfl
@[simp] theorem State.after_pending (n : Nat) (i : Instr) (x : Ext) : (s.after n i x).pending = s.pending ++ [(s.ptime.toNat + n, i, x)] := rfl
@[simp] theorem State.after_nfree (n : Nat) (i : Instr) (x : Ext) : (s.after n i x).nfree = s.nfree := rfl
@[simp] theorem State.after_nextId (n : Nat) (i : Instr) (x : Ext) : (s.after n i x).nextId = s.nextId := rfl
@[simp] theorem State.after_taken (n : Nat) (i : Instr) (x : Ext) : (s.after n i x).taken = s.taken := rfl
@[simp] theorem State.after_tiles (n : Nat) (i : Instr) (x : Ext) : (s.after n i x).tiles = s.tiles := rfl
@[simp] theorem State.after_regions (n : Nat) (i : Instr) (x : Ext) : (s.after n i x).regions = s.regions := rfl
@[simp] theorem State.after_entries (n : Nat) (i : Instr) (x : Ext) : (s.after n i x).entries = s.entries := rfl
@[simp] theorem State.after_seqrs (n : Nat) (i : Instr) (x : Ext) : (s.after n i x).seqrs = s.seqrs := rfl
@[simp] theorem State.after_dies (n : Nat) (i : Instr) (x : Ext) : (s.after n i x).dies = s.dies := rfl
@[simp] theorem State.after_iod (n : Nat) (i : Instr) (x : Ext) : (s.after n i x).iod = s.iod := rfl
@[simp] theorem State.after_txs (n : Nat) (i : Instr) (x : Ext) : (s.after n i x).txs = s.txs := rfl
@[simp] theorem State.after_packets (n : Nat) (i : Instr) (x : Ext) : (s.after n i x).packets = s.packets := rfl
@[simp] theorem State.after_creqs (n : Nat) (i : Instr) (x : Ext) : (s.after n i x).creqs = s.creqs := rfl
@[simp] theorem State.after_misses (n : Nat) (i : Instr) (x : Ext) : (s.after n i x).misses = s.misses := rfl
@[simp] theorem State.after_wbs (n : Nat) (i : Instr) (x : Ext) : (s.after n i x).wbs = s.wbs := rfl
@[simp] theorem State.after_updates (n : Nat) (i : Instr) (x : Ext) : (s.after n i x).updates = s.updates := rfl
@[simp] theorem State.after_ops (n : Nat) (i : Instr) (x : Ext) : (s.after n i x).ops = s.ops := rfl
@[simp] theorem State.after_queries (n : Nat) (i : Instr) (x : Ext) : (s.after n i x).queries = s.queries := rfl
@[simp] theorem State.after_walks (n : Nat) (i : Instr) (x : Ext) : (s.after n i x).walks = s.walks := rfl
@[simp] theorem State.after_rounds (n : Nat) (i : Instr) (x : Ext) : (s.after n i x).rounds = s.rounds := rfl
@[simp] theorem State.after_moved (n : Nat) (i : Instr) (x : Ext) : (s.after n i x).moved = s.moved := rfl
@[simp] theorem State.after_fredNo (n : Nat) (i : Instr) (x : Ext) : (s.after n i x).fredNo = s.fredNo := rfl
@[simp] theorem State.after_jobHolds (n : Nat) (i : Instr) (x : Ext) : (s.after n i x).jobHolds = s.jobHolds := rfl
@[simp] theorem State.after_mem (n : Nat) (i : Instr) (x : Ext) : (s.after n i x).mem = s.mem := rfl
@[simp] theorem State.after_pool (n : Nat) (i : Instr) (x : Ext) : (s.after n i x).pool = s.pool := rfl
@[simp] theorem State.after_merr (n : Nat) (i : Instr) (x : Ext) : (s.after n i x).merr = s.merr := rfl
@[simp] theorem State.after_perr (n : Nat) (i : Instr) (x : Ext) : (s.after n i x).perr = s.perr := rfl
@[simp] theorem State.after_out (n : Nat) (i : Instr) (x : Ext) : (s.after n i x).out = s.out := rfl
@[simp] theorem State.after_saved (n : Nat) (i : Instr) (x : Ext) : (s.after n i x).saved = s.saved := rfl

/-! ## later -/

@[simp] theorem State.later_ptime (i : Instr) : (s.later i).ptime = s.ptime := rfl
@[simp] theorem State.later_stage (i : Instr) : (s.later i).stage = s.stage := rfl
@[simp] theorem State.later_ext (i : Instr) : (s.later i).ext = s.ext := rfl
@[simp] theorem State.later_agenda (i : Instr) : (s.later i).agenda = s.agenda := rfl
@[simp] theorem State.later_cur (i : Instr) : (s.later i).cur = s.cur := rfl
@[simp] theorem State.later_pending (i : Instr) : (s.later i).pending = s.pending ++ [(s.ptime.toNat + s.delay, i, .none)] := rfl
@[simp] theorem State.later_nfree (i : Instr) : (s.later i).nfree = s.nfree + 1 := rfl
@[simp] theorem State.later_nextId (i : Instr) : (s.later i).nextId = s.nextId := rfl
@[simp] theorem State.later_taken (i : Instr) : (s.later i).taken = s.taken := rfl
@[simp] theorem State.later_tiles (i : Instr) : (s.later i).tiles = s.tiles := rfl
@[simp] theorem State.later_regions (i : Instr) : (s.later i).regions = s.regions := rfl
@[simp] theorem State.later_entries (i : Instr) : (s.later i).entries = s.entries := rfl
@[simp] theorem State.later_seqrs (i : Instr) : (s.later i).seqrs = s.seqrs := rfl
@[simp] theorem State.later_dies (i : Instr) : (s.later i).dies = s.dies := rfl
@[simp] theorem State.later_iod (i : Instr) : (s.later i).iod = s.iod := rfl
@[simp] theorem State.later_txs (i : Instr) : (s.later i).txs = s.txs := rfl
@[simp] theorem State.later_packets (i : Instr) : (s.later i).packets = s.packets := rfl
@[simp] theorem State.later_creqs (i : Instr) : (s.later i).creqs = s.creqs := rfl
@[simp] theorem State.later_misses (i : Instr) : (s.later i).misses = s.misses := rfl
@[simp] theorem State.later_wbs (i : Instr) : (s.later i).wbs = s.wbs := rfl
@[simp] theorem State.later_updates (i : Instr) : (s.later i).updates = s.updates := rfl
@[simp] theorem State.later_ops (i : Instr) : (s.later i).ops = s.ops := rfl
@[simp] theorem State.later_queries (i : Instr) : (s.later i).queries = s.queries := rfl
@[simp] theorem State.later_walks (i : Instr) : (s.later i).walks = s.walks := rfl
@[simp] theorem State.later_rounds (i : Instr) : (s.later i).rounds = s.rounds := rfl
@[simp] theorem State.later_moved (i : Instr) : (s.later i).moved = s.moved := rfl
@[simp] theorem State.later_fredNo (i : Instr) : (s.later i).fredNo = s.fredNo := rfl
@[simp] theorem State.later_jobHolds (i : Instr) : (s.later i).jobHolds = s.jobHolds := rfl
@[simp] theorem State.later_mem (i : Instr) : (s.later i).mem = s.mem := rfl
@[simp] theorem State.later_pool (i : Instr) : (s.later i).pool = s.pool := rfl
@[simp] theorem State.later_merr (i : Instr) : (s.later i).merr = s.merr := rfl
@[simp] theorem State.later_perr (i : Instr) : (s.later i).perr = s.perr := rfl
@[simp] theorem State.later_out (i : Instr) : (s.later i).out = s.out := rfl
@[simp] theorem State.later_saved (i : Instr) : (s.later i).saved = s.saved := rfl

/-! ## fresh -/

@[simp] theorem State.fresh_ptime : (s.fresh).ptime = s.ptime := rfl
@[simp] theorem State.fresh_stage : (s.fresh).stage = s.stage := rfl
@[simp] theorem State.fresh_ext : (s.fresh).ext = s.ext := rfl
@[simp] theorem State.fresh_agenda : (s.fresh).agenda = s.agenda := rfl
@[simp] theorem State.fresh_cur : (s.fresh).cur = s.cur := rfl
@[simp] theorem State.fresh_pending : (s.fresh).pending = s.pending := rfl
@[simp] theorem State.fresh_nfree : (s.fresh).nfree = s.nfree := rfl
@[simp] theorem State.fresh_nextId : (s.fresh).nextId = s.nextId + 1 := rfl
@[simp] theorem State.fresh_taken : (s.fresh).taken = s.taken := rfl
@[simp] theorem State.fresh_tiles : (s.fresh).tiles = s.tiles := rfl
@[simp] theorem State.fresh_regions : (s.fresh).regions = s.regions := rfl
@[simp] theorem State.fresh_entries : (s.fresh).entries = s.entries := rfl
@[simp] theorem State.fresh_seqrs : (s.fresh).seqrs = s.seqrs := rfl
@[simp] theorem State.fresh_dies : (s.fresh).dies = s.dies := rfl
@[simp] theorem State.fresh_iod : (s.fresh).iod = s.iod := rfl
@[simp] theorem State.fresh_txs : (s.fresh).txs = s.txs := rfl
@[simp] theorem State.fresh_packets : (s.fresh).packets = s.packets := rfl
@[simp] theorem State.fresh_creqs : (s.fresh).creqs = s.creqs := rfl
@[simp] theorem State.fresh_misses : (s.fresh).misses = s.misses := rfl
@[simp] theorem State.fresh_wbs : (s.fresh).wbs = s.wbs := rfl
@[simp] theorem State.fresh_updates : (s.fresh).updates = s.updates := rfl
@[simp] theorem State.fresh_ops : (s.fresh).ops = s.ops := rfl
@[simp] theorem State.fresh_queries : (s.fresh).queries = s.queries := rfl
@[simp] theorem State.fresh_walks : (s.fresh).walks = s.walks := rfl
@[simp] theorem State.fresh_rounds : (s.fresh).rounds = s.rounds := rfl
@[simp] theorem State.fresh_moved : (s.fresh).moved = s.moved := rfl
@[simp] theorem State.fresh_fredNo : (s.fresh).fredNo = s.fredNo := rfl
@[simp] theorem State.fresh_jobHolds : (s.fresh).jobHolds = s.jobHolds := rfl
@[simp] theorem State.fresh_mem : (s.fresh).mem = s.mem := rfl
@[simp] theorem State.fresh_pool : (s.fresh).pool = s.pool := rfl
@[simp] theorem State.fresh_merr : (s.fresh).merr = s.merr := rfl
@[simp] theorem State.fresh_perr : (s.fresh).perr = s.perr := rfl
@[simp] theorem State.fresh_out : (s.fresh).out = s.out := rfl
@[simp] theorem State.fresh_saved : (s.fresh).saved = s.saved := rfl

/-! ## say -/

@[simp] theorem State.say_ptime (m : OutMsg) : (s.say m).ptime = s.ptime := rfl
@[simp] theorem State.say_stage (m : OutMsg) : (s.say m).stage = s.stage := rfl
@[simp] theorem State.say_ext (m : OutMsg) : (s.say m).ext = s.ext := rfl
@[simp] theorem State.say_agenda (m : OutMsg) : (s.say m).agenda = s.agenda := rfl
@[simp] theorem State.say_cur (m : OutMsg) : (s.say m).cur = s.cur := rfl
@[simp] theorem State.say_pending (m : OutMsg) : (s.say m).pending = s.pending := rfl
@[simp] theorem State.say_nfree (m : OutMsg) : (s.say m).nfree = s.nfree := rfl
@[simp] theorem State.say_nextId (m : OutMsg) : (s.say m).nextId = s.nextId := rfl
@[simp] theorem State.say_taken (m : OutMsg) : (s.say m).taken = s.taken := rfl
@[simp] theorem State.say_tiles (m : OutMsg) : (s.say m).tiles = s.tiles := rfl
@[simp] theorem State.say_regions (m : OutMsg) : (s.say m).regions = s.regions := rfl
@[simp] theorem State.say_entries (m : OutMsg) : (s.say m).entries = s.entries := rfl
@[simp] theorem State.say_seqrs (m : OutMsg) : (s.say m).seqrs = s.seqrs := rfl
@[simp] theorem State.say_dies (m : OutMsg) : (s.say m).dies = s.dies := rfl
@[simp] theorem State.say_iod (m : OutMsg) : (s.say m).iod = s.iod := rfl
@[simp] theorem State.say_txs (m : OutMsg) : (s.say m).txs = s.txs := rfl
@[simp] theorem State.say_packets (m : OutMsg) : (s.say m).packets = s.packets := rfl
@[simp] theorem State.say_creqs (m : OutMsg) : (s.say m).creqs = s.creqs := rfl
@[simp] theorem State.say_misses (m : OutMsg) : (s.say m).misses = s.misses := rfl
@[simp] theorem State.say_wbs (m : OutMsg) : (s.say m).wbs = s.wbs := rfl
@[simp] theorem State.say_updates (m : OutMsg) : (s.say m).updates = s.updates := rfl
@[simp] theorem State.say_ops (m : OutMsg) : (s.say m).ops = s.ops := rfl
@[simp] theorem State.say_queries (m : OutMsg) : (s.say m).queries = s.queries := rfl
@[simp] theorem State.say_walks (m : OutMsg) : (s.say m).walks = s.walks := rfl
@[simp] theorem State.say_rounds (m : OutMsg) : (s.say m).rounds = s.rounds := rfl
@[simp] theorem State.say_moved (m : OutMsg) : (s.say m).moved = s.moved := rfl
@[simp] theorem State.say_fredNo (m : OutMsg) : (s.say m).fredNo = s.fredNo := rfl
@[simp] theorem State.say_jobHolds (m : OutMsg) : (s.say m).jobHolds = s.jobHolds := rfl
@[simp] theorem State.say_mem (m : OutMsg) : (s.say m).mem = s.mem := rfl
@[simp] theorem State.say_pool (m : OutMsg) : (s.say m).pool = s.pool := rfl
@[simp] theorem State.say_merr (m : OutMsg) : (s.say m).merr = s.merr := rfl
@[simp] theorem State.say_perr (m : OutMsg) : (s.say m).perr = s.perr := rfl
@[simp] theorem State.say_out (m : OutMsg) : (s.say m).out = s.out ++ [m] := rfl
@[simp] theorem State.say_saved (m : OutMsg) : (s.say m).saved = s.saved := rfl

/-! ## now -/

@[simp] theorem State.now_ptime (i : Instr) : (s.now i).ptime = s.ptime := rfl
@[simp] theorem State.now_stage (i : Instr) : (s.now i).stage = s.stage := rfl
@[simp] theorem State.now_ext (i : Instr) : (s.now i).ext = s.ext := rfl
@[simp] theorem State.now_agenda (i : Instr) : (s.now i).agenda = (i, .none) :: s.agenda := rfl
@[simp] theorem State.now_cur (i : Instr) : (s.now i).cur = s.cur := rfl
@[simp] theorem State.now_pending (i : Instr) : (s.now i).pending = s.pending := rfl
@[simp] theorem State.now_nfree (i : Instr) : (s.now i).nfree = s.nfree := rfl
@[simp] theorem State.now_nextId (i : Instr) : (s.now i).nextId = s.nextId := rfl
@[simp] theorem State.now_taken (i : Instr) : (s.now i).taken = s.taken := rfl
@[simp] theorem State.now_tiles (i : Instr) : (s.now i).tiles = s.tiles := rfl
@[simp] theorem State.now_regions (i : Instr) : (s.now i).regions = s.regions := rfl
@[simp] theorem State.now_entries (i : Instr) : (s.now i).entries = s.entries := rfl
@[simp] theorem State.now_seqrs (i : Instr) : (s.now i).seqrs = s.seqrs := rfl
@[simp] theorem State.now_dies (i : Instr) : (s.now i).dies = s.dies := rfl
@[simp] theorem State.now_iod (i : Instr) : (s.now i).iod = s.iod := rfl
@[simp] theorem State.now_txs (i : Instr) : (s.now i).txs = s.txs := rfl
@[simp] theorem State.now_packets (i : Instr) : (s.now i).packets = s.packets := rfl
@[simp] theorem State.now_creqs (i : Instr) : (s.now i).creqs = s.creqs := rfl
@[simp] theorem State.now_misses (i : Instr) : (s.now i).misses = s.misses := rfl
@[simp] theorem State.now_wbs (i : Instr) : (s.now i).wbs = s.wbs := rfl
@[simp] theorem State.now_updates (i : Instr) : (s.now i).updates = s.updates := rfl
@[simp] theorem State.now_ops (i : Instr) : (s.now i).ops = s.ops := rfl
@[simp] theorem State.now_queries (i : Instr) : (s.now i).queries = s.queries := rfl
@[simp] theorem State.now_walks (i : Instr) : (s.now i).walks = s.walks := rfl
@[simp] theorem State.now_rounds (i : Instr) : (s.now i).rounds = s.rounds := rfl
@[simp] theorem State.now_moved (i : Instr) : (s.now i).moved = s.moved := rfl
@[simp] theorem State.now_fredNo (i : Instr) : (s.now i).fredNo = s.fredNo := rfl
@[simp] theorem State.now_jobHolds (i : Instr) : (s.now i).jobHolds = s.jobHolds := rfl
@[simp] theorem State.now_mem (i : Instr) : (s.now i).mem = s.mem := rfl
@[simp] theorem State.now_pool (i : Instr) : (s.now i).pool = s.pool := rfl
@[simp] theorem State.now_merr (i : Instr) : (s.now i).merr = s.merr := rfl
@[simp] theorem State.now_perr (i : Instr) : (s.now i).perr = s.perr := rfl
@[simp] theorem State.now_out (i : Instr) : (s.now i).out = s.out := rfl
@[simp] theorem State.now_saved (i : Instr) : (s.now i).saved = s.saved := rfl

/-! ## updIod -/

@[simp] theorem State.updIod_ptime (f : Iod → Iod) : (s.updIod f).ptime = s.ptime := rfl
@[simp] theorem State.updIod_stage (f : Iod → Iod) : (s.updIod f).stage = s.stage := rfl
@[simp] theorem State.updIod_ext (f : Iod → Iod) : (s.updIod f).ext = s.ext := rfl
@[simp] theorem State.updIod_agenda (f : Iod → Iod) : (s.updIod f).agenda = s.agenda := rfl
@[simp] theorem State.updIod_cur (f : Iod → Iod) : (s.updIod f).cur = s.cur := rfl
@[simp] theorem State.updIod_pending (f : Iod → Iod) : (s.updIod f).pending = s.pending := rfl
@[simp] theorem State.updIod_nfree (f : Iod → Iod) : (s.updIod f).nfree = s.nfree := rfl
@[simp] theorem State.updIod_nextId (f : Iod → Iod) : (s.updIod f).nextId = s.nextId := rfl
@[simp] theorem State.updIod_taken (f : Iod → Iod) : (s.updIod f).taken = s.taken := rfl
@[simp] theorem State.updIod_tiles (f : Iod → Iod) : (s.updIod f).tiles = s.tiles := rfl
@[simp] theorem State.updIod_regions (f : Iod → Iod) : (s.updIod f).regions = s.regions := rfl
@[simp] theorem State.updIod_entries (f : Iod → Iod) : (s.updIod f).entries = s.entries := rfl
@[simp] theorem State.updIod_seqrs (f : Iod → Iod) : (s.updIod f).seqrs = s.seqrs := rfl
@[simp] theorem State.updIod_dies (f : Iod → Iod) : (s.updIod f).dies = s.dies := rfl
@[simp] theorem State.updIod_iod (f : Iod → Iod) : (s.updIod f).iod = f s.iod := rfl
@[simp] theorem State.updIod_txs (f : Iod → Iod) : (s.updIod f).txs = s.txs := rfl
@[simp] theorem State.updIod_packets (f : Iod → Iod) : (s.updIod f).packets = s.packets := rfl
@[simp] theorem State.updIod_creqs (f : Iod → Iod) : (s.updIod f).creqs = s.creqs := rfl
@[simp] theorem State.updIod_misses (f : Iod → Iod) : (s.updIod f).misses = s.misses := rfl
@[simp] theorem State.updIod_wbs (f : Iod → Iod) : (s.updIod f).wbs = s.wbs := rfl
@[simp] theorem State.updIod_updates (f : Iod → Iod) : (s.updIod f).updates = s.updates := rfl
@[simp] theorem State.updIod_ops (f : Iod → Iod) : (s.updIod f).ops = s.ops := rfl
@[simp] theorem State.updIod_queries (f : Iod → Iod) : (s.updIod f).queries = s.queries := rfl
@[simp] theorem State.updIod_walks (f : Iod → Iod) : (s.updIod f).walks = s.walks := rfl
@[simp] theorem State.updIod_rounds (f : Iod → Iod) : (s.updIod f).rounds = s.rounds := rfl
@[simp] theorem State.updIod_moved (f : Iod → Iod) : (s.updIod f).moved = s.moved := rfl
@[simp] theorem State.updIod_fredNo (f : Iod → Iod) : (s.updIod f).fredNo = s.fredNo := rfl
@[simp] theorem State.updIod_jobHolds (f : Iod → Iod) : (s.updIod f).jobHolds = s.jobHolds := rfl
@[simp] theorem State.updIod_mem (f : Iod → Iod) : (s.updIod f).mem = s.mem := rfl
@[simp] theorem State.updIod_pool (f : Iod → Iod) : (s.updIod f).pool = s.pool := rfl
@[simp] theorem State.updIod_merr (f : Iod → Iod) : (s.updIod f).merr = s.merr := rfl
@[simp] theorem State.updIod_perr (f : Iod → Iod) : (s.updIod f).perr = s.perr := rfl
@[simp] theorem State.updIod_out (f : Iod → Iod) : (s.updIod f).out = s.out := rfl
@[simp] theorem State.updIod_saved (f : Iod → Iod) : (s.updIod f).saved = s.saved := rfl

end Sys2Proof.Machine
end

