-- ==== Sys2Proof/Tests/Slice0.lean ====
section
/-! SUPPORT. Tests: words of every syllable, terms each check of WellFormed refuses, states that meet the hypotheses of the statements, and worked examples of the spec. -/

namespace Sys2Proof.Tests

open Sys2Proof.Machine

set_option Elab.async false

/-! ## Small states -/

/-- An extent of 4,096 bytes of a class, readable and writable. -/
def extAt (cls : BitVec 2) (a : Nat) : ExtentDecl :=
  { vbase := a, len := 4096, cls := cls, r := true, w := true, a := true, coh := 0, fmt := 15, peer := 0 }

/-- A header of one phase whose sets hold the whole scratchpad, with a CACHED and a POOL extent. -/
def hdrAll : Header0 :=
  { encv := 3, idem := false, spol := false, tprof := 0, nphase := 1, widw := [3], widb := [1], tasks := 2, stagger := 0, holdb := 100,
    ppb := 1, retn := 2, seed := 0, sbase := 0, qstride := 4, tstride := 1, slen := 8, regions := [(1, 1)], variants := [4],
    extents := [extAt 1 0, extAt 2 65536], phases := List.replicate 96 0x1FFFC000, sections := [] }

/-- The package after reset with an input at hand. -/
def given (x : Ext) : State := { State.reset with ext := x }

/-- The package after reset with tile 0 changed. -/
def tile0 (f : Tile → Tile) : State := State.reset.updTile 0 f

/-- A running launch in entry 0, with one region of tile 0, and that tile changed. -/
def world (f : Tile → Tile) : State :=
  ((State.reset.setEntry 0 { Entry.reset with st := .running, hdr := some hdrAll }).setRegion 0
    { Region.reset with st := .running, tiles := [0] }).setTile 0 (f { Tile.reset with st := .bound })

/-- A bundle in its shadow that raised the causes given. -/
def bundle (ks : List Cause) : Issued := { Issued.bare with causes := ks }

/-! ## Decoding: a word of every syllable, written from R105 to R114 -/

theorem test_decode_scalar_1 :
    [0x03314720,
     0x05314720,
     0x07314704,
     0x09314720,
     0x0B314720,
     0x0D314720,
     0x0F314704,
     0x11314704,
     0x13314704,
     0x15314720,
     0x17314720,
     0x19314720,
     0x1B314624,
     0x1D314624,
     0x1F314624,
     0x21314720,
     0x23314720,
     0x25314720,
     0x27314720,
     0x29314720,
     0x2B314720,
     0x2D314720,
     0x2F314720,
     0x31314720,
     0x33314600,
     0x35314600].map (decodeWord .scalar) =
    [some (.add 9 34 35 36),
     some (.sub 9 34 35 36),
     some (.addi 9 34 35 260),
     some (.and 9 34 35 36),
     some (.or 9 34 35 36),
     some (.xor 9 34 35 36),
     some (.andi 9 34 35 260),
     some (.ori 9 34 35 260),
     some (.xori 9 34 35 260),
     some (.shl 9 34 35 36),
     some (.shr 9 34 35 36),
     some (.sra 9 34 35 36),
     some (.shli 9 34 35 36),
     some (.shri 9 34 35 36),
     some (.srai 9 34 35 36),
     some (.mul 9 34 35 36),
     some (.mulh 9 34 35 36),
     some (.mulhu 9 34 35 36),
     some (.divu 9 34 35 36),
     some (.remu 9 34 35 36),
     some (.min 9 34 35 36),
     some (.max 9 34 35 36),
     some (.minu 9 34 35 36),
     some (.maxu 9 34 35 36),
     some (.clz 9 34 35),
     some (.popc 9 34 35)] := by decide

theorem test_decode_scalar_2 :
    [0x37314003,
     0x39314003,
     0x3B314722,
     0x3D314602,
     0x3F314614,
     0x41254722,
     0x43354905,
     0x45251663,
     0x47310018,
     0x49204418,
     0x4B314726,
     0x4D314723,
     0x4F314704,
     0x51314720,
     0x53314720,
     0x55314720,
     0x57314720,
     0x59314720,
     0x5B314704].map (decodeWord .scalar) =
    [some (.movi 9 34 16387),
     some (.movsh 9 34 16387),
     some (.sel 9 34 35 36 2),
     some (.extf 9 34 35 2),
     some (.lea 9 34 35 20),
     some (.cmp 9 10 35 36 2),
     some (.cmpi 9 10 2 36 261),
     some (.plog 9 10 11 12 3),
     some (.mfsr 9 34 24),
     some (.mtsr 9 34 24),
     some (.lds 9 34 35 36 6),
     some (.sts 9 34 35 36 3),
     some (.ldf 9 34 35 260),
     some (.addw 9 34 35 36),
     some (.subw 9 34 35 36),
     some (.rotl 9 34 35 36),
     some (.bext 9 34 35 36),
     some (.bins 9 34 35 36),
     some (.muli 9 34 35 260)] := by decide

theorem test_decode_control :
    [0x06600002,
     0x0A620000,
     0x0E600002,
     0x12400000,
     0x16747004,
     0x1A740E04,
     0x1E680000,
     0x22620083,
     0x26620000,
     0x2A706000,
     0x2E747900,
     0x32628003,
     0x36640000,
     0x3A608000,
     0x3E608000,
     0x42400000,
     0x46400000,
     0x4A400000,
     0x4E602000,
     0x52620000,
     0x56604000,
     0x5A600000].map (decodeWord .control) =
    [some (.br 9 2097154),
     some (.bri 9 34),
     some (.call 9 2097154),
     some (.ret 9),
     some (.loop 9 6 35 4100),
     some (.loopi 9 6 259 516),
     some (.brkl 9 5),
     some (.setlc 9 34 131),
     some (.phase 9 34),
     some (.epoch 9 1 131),
     some (.gateset 9 6 35 12 1),
     some (.rdv 9 34 32771),
     some (.fence 9 9),
     some (.snap 9 130),
     some (.trapi 9 130),
     some (.rett 9),
     some (.waiti 9),
     some (.endt 9),
     some (.nopn 9 514),
     some (.sprng 9 34),
     some (.inten 9 1 2),
     some (.secs 9 1)] := by decide

theorem test_decode_memory_1 :
    [0x0331460080000005,
     0x0531460080000005,
     0x0731472180000006,
     0x0931472180000006,
     0x0B31460080000004,
     0x0D31472180000006,
     0x0F31472180000006,
     0x2131010384000000,
     0x2331000083000000,
     0x2520450384200005,
     0x2720440083200004,
     0x2931010384400000,
     0x2B31000083000000,
     0x4131472500000000,
     0x4331472000000000,
     0x4531000000000000,
     0x4720451886980004,
     0x4920451800900000,
     0x4B31472000900002,
     0x4D31000000000003,
     0x4F20000000000040,
     0x5120451980000000,
     0x5320451980000000,
     0x5520451980000000,
     0x6131472013300000,
     0x63314724A1300000].map (decodeWord .memory) =
    [some (.vld 9 34 35 0 2147483653),
     some (.vst 9 34 35 0 2147483653),
     some (.vldx 9 34 35 36 1 2147483654),
     some (.vstx 9 34 35 36 1 2147483654),
     some (.vldb 9 34 35 2147483652),
     some (.vlds 9 34 35 36 1 2147483654),
     some (.vsts 9 34 35 36 1 2147483654),
     some (.send 9 34 259 132),
     some (.recv 9 34 131),
     some (.lsend 9 34 259 132 2097157),
     some (.lrecv 9 34 131 2097156),
     some (.dsend 9 34 259 132 1),
     some (.drecv 9 34 131),
     some (.fnest 9 34 35 36 5),
     some (.fbase 9 34 35 36),
     some (.fidx 9 34),
     some (.fgo 9 34 35 524292 9 134),
     some (.fsig 9 34 35 9),
     some (.fred 9 34 35 36 2 9),
     some (.fqry 9 34 3),
     some (.fcan 9 0 1),
     some (.wbr 9 34 35 3),
     some (.invr 9 34 35 3),
     some (.discr 9 34 35 3),
     some (.amo 9 34 35 36 9 9 1),
     some (.cas 9 34 35 36 37 9 1)] := by decide

theorem test_decode_memory_2 :
    [0x7120440000800003,
     0x7320440480800004,
     0x7520451800000000,
     0x7731460000000000,
     0x7920440000800003].map (decodeWord .memory) =
    [some (.binit 9 34 8388611),
     some (.barrive 9 34 9 8388612),
     some (.bexpect 9 34 35),
     some (.bread 9 34 35),
     some (.brearm 9 34 8388611)] := by decide

theorem test_decode_vector_1 :
    [0x033A392500000000,
     0x053A392500000000,
     0x073A392500000000,
     0x093A392500000000,
     0x0B3A392500000000,
     0x0D3A392500000000,
     0x0F3A392500000000,
     0x113A392500000000,
     0x133A392500000000,
     0x153A392500000000,
     0x173A392500000000,
     0x193A392500000000,
     0x1B3A392500000000,
     0x1D38792500000002,
     0x1F3A392500000000,
     0x213A392501100000,
     0x233A392501100000,
     0x253A392501100000,
     0x273A392599100000,
     0x293A392599100000,
     0x2B3A392500100000,
     0x2D3A392500100000,
     0x2F38792500100002,
     0x313A390000100000,
     0x333A390000100000,
     0x353A392501200000].map (decodeWord .vector) =
    [some (.vadd 9 6 35 36 37),
     some (.vsub 9 6 35 36 37),
     some (.vmul 9 6 35 36 37),
     some (.vand 9 6 35 36 37),
     some (.vor 9 6 35 36 37),
     some (.vxor 9 6 35 36 37),
     some (.vshl 9 6 35 36 37),
     some (.vshr 9 6 35 36 37),
     some (.vsra 9 6 35 36 37),
     some (.vmin 9 6 35 36 37),
     some (.vmax 9 6 35 36 37),
     some (.vminu 9 6 35 36 37),
     some (.vmaxu 9 6 35 36 37),
     some (.vcmp 9 6 7 36 37 2),
     some (.vadds 9 6 35 36 37),
     some (.vfadd 9 6 35 36 37 1),
     some (.vfsub 9 6 35 36 37 1),
     some (.vfmul 9 6 35 36 37 1),
     some (.vfma 9 6 35 36 37 38 1),
     some (.vfnma 9 6 35 36 37 38 1),
     some (.vfmin 9 6 35 36 37),
     some (.vfmax 9 6 35 36 37),
     some (.vfcmp 9 6 7 36 37 2),
     some (.vfabs 9 6 35 36),
     some (.vfneg 9 6 35 36),
     some (.vbadd 9 6 35 36 37 1)] := by decide

theorem test_decode_vector_2 :
    [0x373A392501200000,
     0x393A392599200000,
     0x3B3A390001100000,
     0x413A392500300000,
     0x433A392500300000,
     0x453A390000300000,
     0x473A390000300000,
     0x513A390001100884,
     0x533A390001100000,
     0x553A390001100000,
     0x613A302400000000,
     0x633A392508000000,
     0x653A392500000000,
     0x673A390000000025,
     0x693A390001100000,
     0x6B2228C000000024,
     0x6D22202300000024,
     0x6F3A300000000000,
     0x712228E400000000,
     0x733A390000000001,
     0x752061C000000002,
     0x7720603F00000000,
     0x792221C000000000,
     0x7B3A390000000000,
     0x7D3A390000000000,
     0x7F3A392500000000].map (decodeWord .vector) =
    [some (.vbmul 9 6 35 36 37 1),
     some (.vbfma 9 6 35 36 37 38 1),
     some (.vfrnd 9 6 35 36 1),
     some (.vlmul 9 6 35 36 37),
     some (.vldiv 9 6 35 36 37),
     some (.vlsqrt 9 6 35 36),
     some (.vlinv 9 6 35 36),
     some (.vcvt 9 6 35 36 1 1 4 136),
     some (.vexp2 9 6 35 36 1),
     some (.vlog2 9 6 35 36 1),
     some (.vmov 9 6 35 36),
     some (.vsel 9 6 35 36 37 2),
     some (.vperm 9 6 35 36 37),
     some (.vrot 9 6 35 36 37),
     some (.vred 9 6 35 36 1 1 0),
     some (.vext 9 34 35 36),
     some (.vins 9 34 35 36),
     some (.viota 9 6 35),
     some (.vpack 9 34 35 36),
     some (.vunpk 9 6 35 36 1),
     some (.qlog 9 6 7 0 2),
     some (.qset 9 6),
     some (.qget 9 34 7),
     some (.vclz 9 6 35 36),
     some (.vpopc 9 6 35 36),
     some (.vmulh 9 6 35 36 37)] := by decide

theorem test_decode_matrix :
    [0x064400014724B194,
     0x0A44000100000000,
     0x0E740001C9281190,
     0x12740001C9281190,
     0x1644000146000000,
     0x1A44000100046000].map (decodeWord .matrix) =
    [some (.mldw 9 524290 35 36 37 70 5),
     some (.mswap 9 524290),
     some (.mstr 9 6 524291 36 37 70 4),
     some (.mstrz 9 6 524291 36 37 70 4),
     some (.mcbt 9 524290 35),
     some (.mscl 9 524290 35)] := by decide

theorem test_decode_accum :
    [0x06743CB9D0000000,
     0x0A74349990000000,
     0x0E74349990000000,
     0x1274349998800000,
     0x16743CB9C0000000,
     0x1A74349980000000,
     0x1E74301940000000,
     0x2274349980000000].map (decodeWord .accum) =
    [some (.ard 9 6 67 1 37 1 39 1),
     some (.ardb 9 6 67 36 1 38 1),
     some (.ardl 9 6 67 36 1 38 1),
     some (.ardl8 9 6 67 36 1 38 1 136),
     some (.awr 9 6 67 1 37 1 39),
     some (.awrb 9 6 67 36 1 38),
     some (.aclr 9 6 67 1 37),
     some (.aadd 9 6 67 36 1 38)] := by decide

theorem test_decode_channel :
    [0x07015C0020000000,
     0x0B015E3000C00000,
     0x0F015E3000C00000,
     0x1301580000000000,
     0x1701000000000000,
     0x1B01000000000000,
     0x1F01580000000000,
     0x2200004000000000,
     0x26C001401E400280,
     0x2A01000000000000,
     0x2E04000000000000,
     0x3000000000000000].map (decodeWord .channel) =
    [some (.act 1 514 11 32772),
     some (.rd 1 514 11 12 1 32774),
     some (.wr 1 514 11 12 1 32774),
     some (.pre 1 514 11),
     some (.prea 1 514),
     some (.ref 1 514),
     some (.refpb 1 514 11),
     some (.waitc 524289),
     some (.tnest 5 32770 2051 12 32773),
     some (.tend 513),
     some (.troute 129),
     some .thalt] := by decide

/-! ## WellFormed: an ill-formed term for each check -/

theorem test_ill_formed_scalar :
    [Instr.extf 0 0 0 6, .cmp 0 0 0 0 6, .plog 0 0 0 0 6, .plog 0 0 0 1 4, .mfsr 0 0 0x17, .mtsr 0 0 0x17, .lds 0 0 0 0 7].map WellFormed =
      List.replicate 7 false := by decide

theorem test_ill_formed_control :
    [Instr.brkl 0 0, .brkl 0 7, .fence 0 10, .nopn 0 0, .inten 0 0 4].map WellFormed = List.replicate 5 false := by decide

theorem test_ill_formed_memory :
    [Instr.fnest 0 0 0 0 6, .fgo 0 0 0 0 10 0, .fsig 0 0 0 10, .fred 0 0 0 0 0 10, .fcan 0 1 1, .wbr 0 0 0 2, .invr 0 0 0 2, .discr 0 0 0 4,
     .amo 0 0 0 0 10 0 0, .amo 0 0 0 0 0 10 0, .amo 0 0 0 0 1 0 1, .cas 0 0 0 0 0 10 0, .barrive 0 0 10 0].map WellFormed =
      List.replicate 13 false := by decide

theorem test_ill_formed_vector :
    [Instr.vcmp 0 0 0 0 0 6, .vfadd 0 0 0 0 0 3, .vfsub 0 0 0 0 0 3, .vfmul 0 0 0 0 0 3, .vfma 0 0 0 0 0 0 3, .vfnma 0 0 0 0 0 0 3,
     .vfcmp 0 0 0 0 0 5, .vbadd 0 0 0 0 0 3, .vbmul 0 0 0 0 0 3, .vbfma 0 0 0 0 0 0 3, .vfrnd 0 0 0 0 3, .vexp2 0 0 0 0 3, .vlog2 0 0 0 0 3,
     .vcvt 0 0 0 0 0 5 0 0, .vcvt 0 0 0 0 0 0 5 0, .vcvt 0 0 0 0 0 1 1 0, .vcvt 0 0 0 0 0 1 3 1, .vcvt 0 0 0 0 2 1 3 0,
     .vred 0 0 0 0 0 0 3, .vred 0 0 0 0 0 2 0, .vred 0 0 0 0 3 1 0, .vred 0 0 0 0 1 0 0, .qlog 0 0 0 0 6, .qlog 0 0 0 1 4].map WellFormed =
      List.replicate 24 false := by decide

theorem test_ill_formed_matrix :
    [Instr.mldw 0 0 0 0 0 0 2, .mstr 0 0 0 0 0 0 5, .mstrz 0 0 0 0 0 0 5, .ardl 0 0 0 0 0 0 2, .ardl8 0 0 0 0 0 0 2 0].map WellFormed =
      List.replicate 5 false := by decide

theorem test_ill_formed_channel : WellFormed (.tnest 6 0 0 0 0) = false := by decide

/-! ## States that meet the hypotheses of the statements -/

theorem witness_canon : State.reset.Canon :=
  ⟨rfl, rfl, rfl, rfl, rfl, rfl, rfl, fun _ h => absurd h List.not_mem_nil, fun _ h => absurd h List.not_mem_nil⟩

theorem witness_EncodeDecode : (Instr.addi 0 5 5 0x80).cls ≠ .event ∧ WellFormed (.addi 0 5 5 0x80) = true := by decide

theorem witness_StepRuns :
    decodeWord (placeCls 0) 0x06028A80 = some (.addi 0 5 5 0x80) ∧ decodeWord (placeCls 0) 0 = none ∧
    ({ State.reset with cur := { Cursor.empty with code := [(0, 0x06028A80)] } } : State).cur.code = (0, 0x06028A80) :: [] ∧
    State.reset.cur.code = [] ∧ State.reset.agenda = [] ∧ (State.reset.now .snapcmpMatch).agenda = (.snapcmpMatch, .none) :: [] := by decide

theorem witness_StepKeepsCanon : ∃ t, step State.reset = .next t := ⟨_, rfl⟩

theorem witness_SyllableFrame :
    (Instr.addi 0 5 5 0x80).cls ≠ .event ∧ (Instr.addi 0 5 5 0x80).cls ≠ .channel ∧
    ∃ t, exec (.addi 0 5 5 0x80) { State.reset with cur := { Cursor.empty with bp := true } } = .next t :=
  ⟨by decide, by decide, _, rfl⟩

theorem witness_PredicatedOff : (∀ p, State.reset.on p = false) ∧ decodeWord .scalar 0x06228A80 = some (.addi 1 5 5 0x80) ∧
    ({ State.reset with cur := { Cursor.empty with bp := true } } : State).rp (fld 0x06228A80 21 4) = false ∧
    (Instr.addi 1 5 5 0x80).cls ≠ .event := ⟨fun _ => rfl, by decide, by decide, by decide⟩

theorem witness_ScalarCompares :
    decodeWord .scalar 0x40000005 = some (.cmp 0 0 0 0 5) ∧ decodeWord .scalar 0x44000004 = some (.plog 0 0 0 0 4) ∧
    (15 : BitVec 4) ≠ 0 := by decide

theorem witness_SystemRegisters :
    (0x18 : BitVec 6).toNat = 0x18 ∧ 0x18 ≤ (0x1F : BitVec 6).toNat ∧ (0x1F : BitVec 6).toNat < 0x20 ∧
    ¬ (0x18 ≤ (0x13 : BitVec 6).toNat) ∧ (0x09 : BitVec 6).toNat = 0x09 := by decide

theorem witness_ScratchpadChecks :
    ([(0, 0x10000), (1, 0xFFFF)] : List Access).find? (fun y => decide (y.2 < 0x10000)) = some (1, 0xFFFF) ∧
    (∀ y ∈ ([(0, 0x10000)] : List Access), (0x10000 : Int) ≤ y.2) ∧
    ([(0, 0x10000), (1, 0x10002)] : List Access).find? (misaligned 4) = some (1, 0x10002) ∧
    ([(0, 0x3FFFFF), (1, 0x400000)] : List Access).find? (misaligned 1) = none ∧
    ([(0, 0x3FFFFF), (1, 0x400000)] : List Access).find? (fun x => !(decide (0 ≤ x.2) && decide (x.2 < 0x400000))) =
      some (1, 0x400000) ∧
    inSet hdrAll 0 0 true (0x3FFFFF / 256) = true ∧ inSet hdrAll 1 0 true (0x3FFFFF / 256) = false := by decide

theorem witness_LoopsAndLevels :
    let l : Level := ⟨0, 9, 2, 0, 0⟩
    l.last = 9 ∧ l.fl.getLsbD 1 = false ∧ (l.index + 1).toNat < l.count.toNat ∧
    ({ l with index := 1 } : Level).count.toNat ≤ (({ l with index := 1 } : Level).index + 1).toNat ∧
    ({ l with fl := 2 } : Level).fl.getLsbD 1 = true ∧ Regs.reset.lc = 0 ∧ Regs.reset.ec = 0 ∧
    ({ Regs.reset with lc := 1 } : Regs).lc ≠ 0 ∧ ({ Regs.reset with ec := 1 } : Regs).ec ≠ 0 := by decide

theorem witness_CommitEffects : (1 : Nat) < 2 ∧ Ctx.primary ≠ .handler := by decide

theorem witness_CauseChoice :
    let b : Cause := ⟨1, 0, 0, 0, false, false⟩
    let a : Cause := ⟨8, 4, 0, 0, false, false⟩
    chooseCause [] = none ∧ chooseCause [a, b] = some b ∧ chooseCause [a] = some a ∧ (∃ d ∈ [a, b], d.code = 1) ∧
    (∀ d ∈ [a], d.code ≠ 1) := by decide

theorem witness_BlockingCommitsNothing :
    let s := tile0 fun x => { x with prim := { x.prim with issued := some (bundle [⟨8, 4, 0, 0, false, false⟩]) } }
    (s.tile 0).prim.issued = some (bundle [⟨8, 4, 0, 0, false, false⟩]) ∧ (bundle [⟨8, 4, 0, 0, false, false⟩]).causes ≠ [] ∧
    SMap.wf Tile.reset s.tiles = true ∧ Memory.wf (s.tile 0).spad = true ∧ s.secCauses 0 = [] ∧ (8 : BitVec 6) ∉ [(0x0A : BitVec 6), 0x0B, 0x0C] ∧
    (8 : BitVec 6) ≠ 0x14 := by decide +kernel

theorem witness_TakeTrap :
    let s := State.reset.updDie 0 fun x => { x with actions := [(0x0F, 0x82)] }
    (1 : Nat) ≠ 0 ∧ (State.reset.action 0 0x0F).getLsbD 7 = false ∧ (s.action 0 0x0F).getLsbD 7 = true ∧ s.iod.snapFull = false ∧
    s.iod.snapAt = none := by decide +kernel

theorem witness_EnterHandler :
    let r : Result := ⟨5, 3, 0, .s 1, 7, 0, 0, 0, 0⟩
    let x : Tile := { Tile.reset with prim := { Stream.reset with inflight := List.replicate 32 r, loops := List.replicate 6 ⟨0, 9, 2, 0, 0⟩ } }
    (x.prim.inflight.filter fun r => decide (5 ≤ r.land)).length ≤ 32 ∧ x.prim.loops.length ≤ 6 ∧ x.prim.loops[5]? = some ⟨0, 9, 2, 0, 0⟩ ∧
    ((sortBy resultLe [r, { r with land := 3, dest := .v 2 }]).map fun r => r.dest) = [.v 2, .s 1] ∧
    ((sortBy resultLe [{ r with dest := .q 0, issue := 4 }, { r with dest := .p 2 }]).map fun r => r.dest) = [.p 2, .q 0] := by decide +kernel

theorem witness_LeaveHandler :
    let h : Handler := ⟨0, 0, 3, 0, 0, [], [], [], false, none, false, true⟩
    let s := tile0 fun x => { x with hm := some h, spad := [(0x13B, 1), (0x203, 0x80), (0x223, 0x90), (0x243, 0xA0), (0x263, 0xB0), (0x5E3, 0xC0)] }
    let m := (s.tile 0).spad
    (s.tile 0).hm = some h ∧ (((s.leaveHandler 0).tile 0).prim.loops[0]? = some ⟨0, 0, 0, 0, 0⟩) ∧
    (∀ i ∈ [0, 1, 2, 3, 31], readN m (0x200 + 32 * i) 4 / 2 ^ 31 = 1) ∧
    (∀ i ∈ [0, 1, 2, 3], readN m (0x200 + 32 * i) 4 / 2 ^ 28 % 8 = i) ∧ ¬ readN m (0x200 + 32 * 31) 4 / 2 ^ 28 % 8 < 4 := by decide +kernel

theorem witness_VectorMemoryAndMoves :
    (1 : BitVec 64) ≠ 0 ∧
    (∃ t, State.memAccess { State.reset with cur := { Cursor.empty with ctx := .handler } } false true (misaligned 4) none 0 [(0, 0)] = (t, true)) ∧
    (∃ t, State.memAccess { State.reset with cur := { Cursor.empty with ctx := .handler } } true true (misaligned 4) none 0 [(0, 0)] = (t, true)) ∧
    (∃ t, State.reset.memAccess false true (misaligned 4) none 0 [(0, 0)] = (t, false)) ∧
    (∃ t, State.reset.memAccess true true (misaligned 4) none 0 [(0, 0)] = (t, false)) :=
  ⟨by decide, ⟨_, rfl⟩, ⟨_, rfl⟩, ⟨_, rfl⟩, ⟨_, rfl⟩⟩

theorem witness_RangesAndAtomics :
    (0xFFFFFFFF : W64).toNat < 2 ^ (if false = true then 64 else 32) ∧
    (0xFFFFFFFFFFFFFFFF : W64).toNat < 2 ^ (if true = true then 64 else 32) := by decide

theorem witness_BasinOperations :
    let un := basinOf 0 false false false false 0 0 0 0
    let ar := basinOf 15 false false false true 1 0 0 1
    let se := basinOf 15 false false false true 0 1 0 1
    un / 2 ^ 7 % 2 = 0 ∧ ar.testBit 7 = true ∧ ar / 2 ^ 8 % 2 ^ 24 = 1 ∧ ar / 2 ^ 8 % 2 ^ 24 < 2 ∧ ar / 2 ^ 32 % 2 ^ 32 = 0 ∧
    0 < se / 2 ^ 32 % 2 ^ 32 ∧ 1 + (2 ^ 32 - 2) < 2 ^ 32 ∧ basinUpdate ar (.arrive 1) = basinOf 0 false false false true 1 0 0 1 := by decide

theorem witness_VectorFrame :
    State.reset.rq 1 = 0 ∧ State.reset.rq 0 ≠ 0 := by decide

theorem witness_Rounding :
    (0 : Int) ≤ 0 ∧ (0 : Int) < 1 ∧ Mode.rdn ≠ .rz ∧ roundMag .rne false 3 0 1 = (2, true) ∧ roundMag .rdn true 3 0 1 = (2, true) ∧
    roundMag .rne false 5 0 1 = (2, true) ∧ roundMag (.sr 32767) false 3 0 1 = (2, true) ∧ roundMag (.sr 32768) false 3 0 1 = (1, true) := by
  decide

theorem witness_VectorLog :
    let L := fun (x : BitVec 32) => (((x.setWidth 16 : BitVec 16)).setWidth 15).toInt
    ((0x3FFF : BitVec 32).setWidth 16 : BitVec 16) ≠ 0x4000 ∧ ((0x3FFF : BitVec 32).setWidth 16 : BitVec 16) ≠ 0xC000 ∧
    L 0x3FFF + L 0 = 16383 ∧ L 0x4001 + L 0 = -16383 ∧ L 0x4001 + L 0xFFFF = -16384 := by decide

theorem witness_VectorLanes : 2 * 31 + 1 < (List.replicate 64 (1 : BitVec 32)).length ∧ (List.replicate 64 (1 : BitVec 32)).length = 64 := by
  decide

/-- A matrix command of an operation. -/
def mcmd (op wf base : Nat) : MCmd :=
  { op := op, start := 9, pc := 0, gate := none, base := base, row0 := 0, stride := 256, scales := 0, rows := 1, wf := wf, acc := 0, cb := 0 }

theorem witness_MatrixCommands :
    let busy : Matrix := { Matrix.reset with
      loader := some ⟨false, 0, 0, 256, 0, 1, 3, true⟩, array := some ⟨0, 0, 256, 1, 3, false, 0, 0, false, 0⟩ }
    let pair : Matrix := { Matrix.reset with planes := (⟨[], true⟩, ⟨[], true⟩) }
    (mcmd 2 0 0).op = 2 ∧ Matrix.reset.array = none ∧ (mcmd 6 0 0).op = 6 ∧ (mcmd 1 3 0).op = 1 ∧ Matrix.reset.loader = none ∧
    (mcmd 5 0 0).op = 5 ∧ (mcmd 4 4 256).op = 4 ∧ (pair.plane pair.act).pair = true ∧ (mcmd 4 4 256).wf = 4 ∧
    (mcmd 4 4 256).base % 256 = 0 ∧ (mcmd 4 4 256).stride % 256 = 0 ∧ busy.loader ≠ none ∧ busy.array ≠ none := by decide

theorem witness_PassRows : (127 : Nat) < 128 := by decide

theorem witness_AccumulatorArithmetic :
    acIsNaR 0x7FFFFFFFFF = true ∧ acIsNaR 0x3FFFFFFFFF = false ∧ (0xBFFF : BitVec 16) ≠ 0xC000 ∧ (0xBFFF : BitVec 16) ≠ 0x4000 := by decide

/-- A burst for a sector of tile 0. -/
def burst (sec : Nat) : Burst := ⟨0, 0, 0, sec, 5, 0, false, none⟩

theorem witness_BurstsAndRefresh :
    (world id).chanSet 0 0xFFFF true = none ∧ (world id).chanSet 0 0x10000 true = some (setInfo 3 true 1) ∧
    (∃ i, State.reset.chanSet 0 0xFFFF true = some i) ∧ clashes ((world id).tile 0).uses (chanUse 0 true 0xFFFF) = false ∧
    clashes ((world fun x => { x with uses := List.replicate 2 ⟨false, 31, true, 5, 0, 0, 0⟩ }).tile 0).uses (chanUse 0 true 0xFFFF) = true :=
  ⟨by decide +kernel, by decide +kernel, ⟨_, rfl⟩, by decide +kernel, by decide +kernel⟩

/-- A handler context whose next bundle is due. -/
def hand : Handler := ⟨0, 0, 0, 64, 0, [], [], [], false, none, false, false⟩

theorem witness_IssueEvents :
    let r (n : Nat) := world fun x => { x with prim := { x.prim with rerun := some ⟨n, 3⟩ } }
    let h := world fun x => { x with hm := some hand }
    ((world id).tile 0).prim.rerun = none ∧ ((r 8).tile 0).prim.rerun = some ⟨8, 3⟩ ∧ 0 < (8 : Nat) ∧
    ((r 0).tile 0).prim.rerun = some ⟨0, 3⟩ ∧ ((world id).tile 0).hm = none ∧ (h.tile 0).hm = some hand ∧
    hand.next ≤ h.ptime.toNat ∧ h.ptime.toNat < ({ hand with next := 1 } : Handler).next ∧ hand.leaving = false ∧ hand.waiting = false ∧
    hand.issued = none ∧ h.tileHalted 0 = false ∧ Ctx.secondary ≠ .handler := by decide +kernel

/-- A stream at its signature bundle, with a fold, and a checkpoint of its block. -/
def atSignature (foldH cfs : Nat) (nr : Bool) (fails : BitVec 4) : State := world fun x => { x with
  store := [0x40000000, cfs, 0, if nr then 2 ^ 30 else 0], fails := fails
  prim := { x.prim with fresh := false, foldH := BitVec.ofNat 32 foldH, ck := some ⟨0, 0, Regs.reset, [], [], [], [], 0, []⟩ } }

theorem witness_SignatureChecks :
    let st := fun (s : State) => (s.openBlock 0 .primary 5).tile 0
    (((st (atSignature 7 7 false 0)).stream .primary).foldH = BitVec.ofNat 32 ((st (atSignature 7 7 false 0)).word .primary 1) ∧
      ((st (atSignature 7 7 false 0)).stream .primary).foldL ^^^ epx32 0 = BitVec.ofNat 32 ((st (atSignature 7 7 false 0)).word .primary 2)) ∧
    ((st (atSignature 7 8 false 0)).stream .primary).foldH ≠ BitVec.ofNat 32 ((st (atSignature 7 8 false 0)).word .primary 1) ∧
    ((st (atSignature 7 8 true 0)).word .primary 3).testBit 30 = true ∧ ((st (atSignature 7 8 false 0)).word .primary 3).testBit 30 = false ∧
    ((st (atSignature 7 8 false 0)).stream .primary).nrm = false ∧
    ((st (atSignature 7 8 false 0)).stream .primary).ck = some ⟨0, 0, Regs.reset, [], [], [], [], 0, []⟩ ∧
    ((st (atSignature 7 8 false 0)).fails.toNat + 1 < retnOf hdrAll ∧ retnOf hdrAll ≤ (st (atSignature 7 8 false 1)).fails.toNat + 1) ∧
    ((world fun x => { x with prim := { x.prim with fresh := false } }).openBlock 0 .primary 5).thdr 0 = hdrAll := by decide +kernel

theorem witness_TileTimers :
    let m := world fun x => { x with mx := { x.mx with queue := [mcmd 2 0 0] } }
    let due := m.updRegion 0 fun r => { r with rtime := 9, holdc := 100 }
    m.commandDue 0 false = false ∧ due.commandDue 0 false = true ∧ due.commandDue 0 true = false ∧
    (due.updTile 0 fun x => { x with far := { x.far with
      port := [⟨9, 0, none, false, false, 0, Nest.reset, 0, 0, 0, 0, 1⟩] } }).commandDue 0 true = true ∧
    (m.region 0).holdc.toNat < (m.hdrOf (m.region 0).entry).holdb ∧ (due.hdrOf (due.region 0).entry).holdb ≤ (due.region 0).holdc.toNat ∧
    (let asks := due.updTile 0 fun x => { x with fenced := [⟨0, .primary, .endt, 0, []⟩] }
     0 ∈ asks.overBudget) ∧ 0 ∉ due.overBudget ∧
    (due.region 0).tiles = 0 :: [] ∧ ((due.updRegion 0 fun r => { r with tiles := [] }).region 0).tiles = [] := by decide +kernel

theorem witness_LaunchEvents :
    let r := fun st => (world id).updRegion 0 fun x => { x with st := st }
    let ended := world fun x => { x with ended := true }
    let dyn := State.reset.setEntry 0 { Entry.reset with st := .admitted, ctl := 2, hdr := some hdrAll, predAt := some 0 }
    let at1024 : State := { dyn with ptime := 1024 }
    ((r .placed).region 0).st = .placed ∧ ((r (.frozen 1)).region 0).st = .frozen 1 ∧ ((r .done).region 0).st ≠ .placed ∧
    ((r .done).region 0).st ≠ .frozen 1 ∧ (r .done).mayStart 0 = false ∧ (r (.waiting 0)).mayStart 0 = true ∧
    (world id).taskOver 0 = false ∧ ended.taskOver 0 = true ∧ dyn.predDone (dyn.entry 0) = false ∧ (at1024.entry 0).st = .admitted ∧
    (at1024.entry 0).ctl.getLsbD 1 = true ∧ at1024.ptime.toNat % 1024 = 0 ∧ at1024.predDone (at1024.entry 0) = true ∧
    (at1024.entry 0).hdr = some hdrAll ∧ (∀ p ∈ State.reset.regions, p.1 ≠ 0) ∧ (∃ p ∈ (r .placed).regions, p.1 = 0) ∧
    (let w := r (.waiting 0)
     w.mayStart 0 = true ∧ (State.reset.updTile 0 Tile.start).overlap 0 0 = none ∧ ((world id).updTile 0 Tile.start).overlap 0 0 = some (1, 0)) ∧
    (r (.frozen 0)).allParked 0 = true ∧ (r .done).allParked 0 = false ∧ (∃ s : Seqr, s.code ≠ []) := by
  refine ⟨?_, ?_, ?_, ?_, ?_, ?_, ?_, ?_, ?_, ?_, ?_, ?_, ?_, ?_, ?_, ?_, ?_, ?_, ?_, { Seqr.reset with code := [0] }, ?_⟩ <;> decide +kernel

theorem witness_LaunchEvents_replacement :
    let e := fun (f : Entry → Entry) => (world id).updEntry 0 f
    ((e fun x => { x with saving := true }).entry 0).saving = true ∧ ((e fun x => { x with st := .admitted }).entry 0).st ≠ .running ∧
    ((e fun x => { x with st := .admitted }).entry 0).st ≠ .parked ∧ ((world id).entry 0).saving = false ∧ ((world id).entry 0).st = .running ∧
    ((e fun x => { x with st := .parked }).entry 0).st = .parked ∧
    (e fun x => { x with bases := [some 0] }).replaced 0 ((e fun x => { x with bases := [some 0] }).entry 0) hdrAll = some 0 ∧
    (((List.range 4).foldl (fun s t => s.updTile t fun x => { x with st := .dead }) (e fun x => { x with bases := [some 0] })).replaced
      0 ((e fun x => { x with bases := [some 0] }).entry 0) hdrAll = none) := by decide +kernel

/-- The smallest image the rules of R18 accept: one region of one node on die 0, one variant of four tiles, four empty streams. -/
def smallImage : List Host.Cell :=
  [(0, 0x48), (1, 0x4B), (2, 0x59), (3, 0x44), (4, 7), (6, 3), (8, 0x02), (9, 0x0C), (10, 0x31), (11, 0x7A), (0x0C, 1), (0x0E, 1), (0x0F, 1),
   (0x1C, 1), (0x22, 4), (0x24, 1), (0x40, 4), (0x48, 1), (0x50, 4), (0x60, 1), (0x61, 1), (0x80, 4), (0x680, 1), (0x681, 0xFF), (0x689, 7),
   (0x690, 1), (0x691, 0xFF), (0x692, 1), (0x699, 7), (0x6A0, 1), (0x6A1, 0xFF), (0x6A2, 2), (0x6A9, 7), (0x6B0, 1), (0x6B1, 0xFF),
   (0x6B2, 3), (0x6B9, 7)]

/-- An entry that waits for admission, of the image at 0. -/
def asked (ctl : Byte) (locked : Bool) : State :=
  { State.reset.setEntry 0 { Entry.reset with st := .admitting, asid := 1, ctl := ctl, pred := 0xFF, start := 524288 } with
    mem := smallImage, iod := { Iod.reset with agrant := [1], locked := locked } }

theorem witness_AdmissionSteps_image :
    (asked 0 true).pass1 0 ((asked 0 true).imgHeader 0) = none ∧ (asked 0 true).pass2 0 ((asked 0 true).imgHeader 0) 0 0 = none := by
  decide +kernel

theorem witness_AdmissionSteps :
    ((asked 0 true).entry 0).st = .admitting ∧ (State.reset.entry 0).st ≠ .admitting ∧ (asked 0 true).step1 ((asked 0 true).entry 0) = none ∧
    ((asked 0 true).entry 0).ctl.getLsbD 1 = false ∧ ((asked 2 true).entry 0).ctl.getLsbD 1 = true ∧ (asked 0 true).iod.locked = true ∧
    (asked 0 false).iod.locked = false ∧ (asked 0 false).iod.agrant.contains 2 = false ∧ (Entry.reset.asid = 0) ∧
    (∃ f, (asked 0 true).step1 Entry.reset = some f) ∧ (∃ f, State.reset.pass1 0 (State.reset.imgHeader 0) = some f) ∧
    (∃ f, (asked 0 true).pass2 0 { hdrAll with regions := [(1, 0)] } 0 0 = some f) :=
  ⟨by decide +kernel, by decide +kernel, by decide +kernel, by decide +kernel, by decide +kernel, rfl, rfl, by decide, rfl, ⟨_, rfl⟩,
    ⟨(0x01, 0), by decide +kernel⟩, ⟨(0x01, 0x60), by decide +kernel⟩⟩

/-- A contribution of a rank. -/
def contrib (rank : Nat) : Contribution :=
  { job := 0, grp := 1, round := 0, rank := rank, count := 2, len := 1, op := 0, data := List.replicate 64 1, tile := some (0, 0) }

theorem witness_CollectiveRounds :
    (∀ c, State.reset.ext ≠ .contribution c) ∧ (given (.contribution (contrib 0))).ext = .contribution (contrib 0) ∧
    (contrib 0).data.length = 64 * 1 ∧ 4 * 15 < 64 * 1 ∧
    (({ State.reset.round 0 1 0 with got := [contrib 0] } : Round).got = contrib 0 :: []) ∧ (contrib 0).tile = some (0, 0) ∧
    ({ contrib 0 with tile := none } : Contribution).tile = none :=
  ⟨nofun, rfl, by decide, by decide, rfl, rfl, rfl⟩

theorem witness_CollectiveRounds_deadline :
    let s : State := { State.reset with moved := [(3, 0, 1024), (4, 9, 1024), (3, 1024, 2048)] }
    (∀ m ∈ s.moved, m.1 ≠ 5) ∧ s.moved.filter (fun m => m.1 == 3) = [(3, 0, 1024), (3, 1024, 2048)] ∧ (0 : Nat) ≤ 1024 ∧ 0 < (1024 : Nat) :=
  by decide +kernel

/-- A transmission of tile 0 to tile 8 that is `age` cycles old. -/
def tx (id age : Nat) : Tx :=
  { id := id, region := 0, src := 0, lt := 0, dst := 8, die := false, issue := 0, sid := 1, data := 0, tag := 0, dropped := none, age := age,
    ended := none, bad := false }

/-- The world with transmissions in flight, its region on an unheld cycle. -/
def txWorld (l : List Tx) : State := { world id with txs := l }

/-- A packet at node 0 of die 0, for node `n` of a die. -/
def pkt (die n : Nat) : Packet := { id := 4, die := 0, node := 0, inp := 4, toDie := die, dst := n, moved := 0, parcel := .port 0 9 }

theorem witness_MeshEvents :
    let s := txWorld [tx 3 1]
    let t := txWorld [tx 3 24, tx 4 24]
    let hit : W64 := 2 ^ 63 + 1 * 2 ^ 33
    (State.reset.txs.find? fun y => y.id == 3) = none ∧ (s.txs.find? fun y => y.id == 3) = some (tx 3 1) ∧ s.txStop (tx 3 1) = none ∧
    (txWorld [tx 3 24]).txStop (tx 3 24) = some (⟨0, 2, 4, 0⟩, 24) ∧ (txWorld [tx 3 24]).txMates (tx 3 24) ⟨0, 2, 4, 0⟩ = [] ∧
    t.txStop (tx 3 24) = some (⟨0, 2, 4, 0⟩, 24) ∧ t.txMates (tx 3 24) ⟨0, 2, 4, 0⟩ ≠ [] ∧
    (Stop.mk 0 31 7 0).node < 32 ∧ (Stop.mk 0 31 7 0).dir < 8 ∧ 511 < 512 ∧ 23 < 24 ∧
    (minjStep 0 0 1).2 = false ∧ (tx 3 24).bad = false ∧ ({ tx 3 24 with bad := true } : Tx).bad = true ∧ (minjStep hit 0 1).2 = true ∧
    (hit.getLsbD 63 = true ∧ field hit.toNat 41 9 = 0 ∧ field hit.toNat 33 8 = (1 : BitVec 8).toNat) ∧ field hit.toNat 0 16 = 0 ∧
    field (hit + 65535).toNat 0 16 ≠ 0 ∧ ¬ ((0 : W64).getLsbD 63 = true) := by decide +kernel

theorem witness_MeshEvents_packets :
    let s := fun (k : Packet) => ({ State.reset with packets := [k], ptime := 1 } : State)
    (State.reset.packets.find? fun j => j.id == 4) = none ∧ ((s (pkt 0 1)).packets.find? fun j => j.id == 4) = some (pkt 0 1) ∧
    routeDirs (pkt 0 1).node (if (pkt 0 1).die = (pkt 0 1).toDie then (pkt 0 1).dst else 0) ≠ [] ∧
    routeDirs (pkt 0 0).node (if (pkt 0 0).die = (pkt 0 0).toDie then (pkt 0 0).dst else 0) = [] ∧
    routeDirs (pkt 3 23).node (if (pkt 3 23).die = (pkt 3 23).toDie then (pkt 3 23).dst else 0) = [] ∧
    (s (pkt 0 0)).mayMove (pkt 0 0) = true ∧ (s (pkt 3 23)).bridgeBusy 0 3 = false := by decide +kernel

/-- A miss, a write-back and a range operation under way. -/
def missAt : Miss :=
  { id := 7, die := 0, sector := 3, causal := true, clock := [0, 0, 0, 0, 0], answer := none, stale := false, newer := [] }
def wbAt : WBack := { id := 8, die := 0, sector := 0, mask := 1, data := 0, ranges := [], client := .nobody }
def rangeAt : HoldOp :=
  { id := 9, tile := 0, ctx := .primary, kind := .range 0 [(1, 0, 256)], result := none, e := 0, pa := none, parked := none, issued := 0,
    raised := 0, left := 0, sc := 3, err := none, via := none, clock := [] }

/-- A request for eight bytes. -/
def reqAt (k : CKind) : CReq :=
  { id := 3, die := 0, pa := 64, causal := false, home := false, kind := k, client := .nobody, held := false, met := false }

theorem witness_CacheSlices :
    let s : State := { State.reset.updSeqr 0 fun x => { x with cached := [7, 8, 9] } with misses := [missAt], wbs := [wbAt], ops := [rangeAt] }
    let at_ := fun l : List Nat => s.updSeqr 0 fun x => { x with cached := l }
    let u : State := { State.reset with ptime := 2 ^ 20 }
    let m := s.updDie 0 fun x => { x with moving := some (0, 5) }
    let b := u.updDie 0 fun x => { x with counts := [(0, 100)] }
    (State.reset.seqr 0).cached = [] ∧ (s.seqr 0).cached = 7 :: [8, 9] ∧ (s.misses.find? fun m => m.id == 7) = some missAt ∧
    ((at_ [8]).seqr 0).cached = 8 :: [] ∧ ((at_ [9]).seqr 0).cached = 9 :: [] ∧
    (s.misses.find? fun m => m.id == 8) = none ∧ (s.wbs.find? fun w => w.id == 8) = some wbAt ∧ (s.wbs.find? fun w => w.id == 9) = none ∧
    (s.misses.find? fun m => m.id == 9) = none ∧
    (s.ops.find? fun o => o.id == 9) = some rangeAt ∧ (s.ops.find? fun o => o.id == 7) = none ∧ rangeAt.kind = .range 0 [(1, 0, 256)] ∧
    u.ptime.toNat % 2 ^ 20 = 0 ∧ (1 : W64).toNat % 2 ^ 20 ≠ 0 ∧ (State.reset.die 0).moving = none ∧ (m.die 0).moving = some (0, 5) ∧
    (m.wbs.any fun w => w.die == 0 && bucketOf (w.sector * 64) == 0) = true ∧
    (({ m with wbs := [] } : State).wbs.any fun w => w.die == 0 && bucketOf (w.sector * 64) == 0) = false ∧
    3 * 100 < 48 * (b.die 0).sliceCount 0 ∧
    (((b.die 0).counts.map fun c => c.1).filter fun k => (b.die 0).sliceNo k == 0 && !((b.die 0).bucket k).getLsbD 15) ≠ [] := by decide +kernel

theorem witness_CacheSlices_requests :
    let s : State := { State.reset with creqs := [reqAt (.read 8)] }
    (State.reset.creqs.find? fun r => r.id == 3 && !r.held) = none ∧
    (s.creqs.find? fun r => r.id == 3 && !r.held) = some (reqAt (.read 8)) ∧ (reqAt (.read 8)).met = false ∧
    ({ reqAt (.read 8) with met := true } : CReq).met = true ∧ (reqAt (.read 8)).kind = .read 8 ∧
    (reqAt (.amo false 0 true 1 0)).kind = .amo false 0 true 1 0 ∧ (reqAt (.write [])).causal = false ∧ 3 < 4 ∧
    (fillSector (CLine.blank 0) 3 0 1 0).sec 3 = .v := by decide +kernel

/-- An update of writer 0, the first it made. -/
def update : Update :=
  { id := 5, src := 0, cells := [(64, 1)], clock := [1, 0, 0, 0, 0], left := [1, 4], stuck := [], client := .nobody }

theorem witness_CausalUpdates :
    let s := State.reset.setUpdatesAt 4 [update]
    let d := State.reset.setUpdatesAt 1 [update]
    let moves := d.updDie 1 fun x => { x with moving := some (0, 5), buckets := [(0, 0x4000)] }
    let late : Update := { update with clock := [2, 0, 0, 0, 0] }
    let turns : State := { State.reset with updates := [update, { late with id := 6 }] }
    let came : State := { State.reset with updates := [late] }
    let full := came.setUpdatesAt 1 (List.replicate 256 late)
    ((State.reset.updatesAt 4).find? fun u => u.src == 0 && canApply (State.reset.clockOf 4) u) = none ∧
    ((s.updatesAt 4).find? fun u => u.src == 0 && canApply (s.clockOf 4) u) = some update ∧ update.src < 5 ∧
    ((moves.updatesAt 1).find? fun u => u.src == 0 && canApply (moves.clockOf 1) u) = some update ∧
    (update.cells.any fun c => moves.bucketMoves 1 c.1) = true ∧ (update.cells.any fun c => d.bucketMoves 1 c.1) = false ∧
    ((d.updatesAt 1).find? fun u => u.src == 0 && canApply (d.clockOf 1) u) = some update ∧
    canApply [0, 0, 0, 0, 0] update = true ∧ canApply [1, 0, 0, 0, 0] update = false ∧
    (State.reset.updates.find? fun u => u.id == 5) = none ∧ (came.updates.find? fun u => u.id == 5) = some late ∧
    (came.updatesAt 1).length < 256 ∧ 256 ≤ (full.updatesAt 1).length ∧ canApply (full.clockOf 1) late = false ∧
    (full.updates.find? fun u => u.id == 5) = some late ∧ (State.reset.misses.find? fun m => m.id == 7 && m.answer.isNone) = none ∧
    (({ State.reset with misses := [missAt] } : State).misses.find? fun m => m.id == 7 && m.answer.isNone) = some missAt ∧
    (State.reset.clockOf 4).length = 5 ∧ 4 < 5 ∧ 2 ∉ update.left ∧ 1 ∈ update.left ∧ turns.inTurn update 1 = true ∧
    turns.inTurn { late with id := 6 } 1 = false ∧ full.inTurn late 1 = true ∧ update.left ≠ [1] ∧ update.src < 5 := by decide +kernel

/-- A result for s1. -/
def resAt : Result := { land := 0, issue := 0, slot := 0, dest := .s 1, value := 0, lanes := 0, tag := 0, vf := 0, mf := 0 }

/-- An LDF that is answered, a query of it and a walk of the query. -/
def opAt : HoldOp :=
  { id := 6, tile := 0, ctx := .primary, kind := .ldf, result := some resAt, e := 0, pa := some 0, parked := none, issued := 0, raised := 0,
    left := 0, sc := 0, err := none, via := none, clock := [] }
def query : TlbQ := { id := 2, home := State.reset.homeOf 1 0, here := true, leg := .asks, asid := 1, va := 0, client := .stream 0 6 }
def walkAt : Walk := { id := 3, q := query, die := 0, slice := 0 }

/-- A frame of the active port. -/
def frameOf (flags : Byte) (port : Bool) : Frame :=
  { port := port, ty := 0x01, flags := flags, seq := 9, len := 0, addr := 0, data := [], who := .monitor, reg := .tsync, a := 0, b := 0,
    c := 0, all := false, read := false }

/-- An invalidation of the first page of address space 1, which die 0 has still to acknowledge. -/
def inval : Inval :=
  { id := 0, frame := frameOf 0 false, asid := 1, base := 0, len := 1, all := false, acks := 1, stepped := 0, copies := [], ops := [], tick := 0 }

/-- A translation it takes. -/
def entryAt : TlbEntry := { asid := 1, page := 0, big := false, leaf := 0 }

theorem witness_TranslationEvents :
    let s : State := { world id with ops := [opAt], queries := [query] }
    let late : State := { s with ptime := 2 ^ 24 }
    let pool : HoldOp := { opAt with e := 2 ^ 59 }
    let down : State := { s with iod := { s.iod with down := [s.routeOf (extAt 2 65536) 0] } }
    (State.reset.ops.find? fun o => o.id == 6 && o.left == 0) = none ∧ (s.ops.find? fun o => o.id == 6 && o.left == 0) = some opAt ∧
    s.asleep opAt.tile = false ∧ State.asleep (s.updEntry 0 fun x => { x with st := .parked }) 0 = true ∧
    s.iod.down = [] ∧ s.opErr opAt = none ∧ s.opErr { opAt with err := some 64 } = some 64 ∧ opAt.result = some resAt ∧
    ({ opAt with result := none } : HoldOp).result = none ∧
    (s.extent opAt.tile (extIndex opAt.e)).map (·.cls) = some 1 ∧ (s.extent pool.tile (extIndex pool.e)).map (·.cls) = some 2 ∧
    (∃ x, s.extent pool.tile (extIndex pool.e) = some x ∧ pool.pa = some 0 ∧ x.cls ≠ 1 ∧ down.routeOf x 0 ∈ down.iod.down) ∧
    (s.ops.find? fun o => o.id == 6 && !o.isRange) = some opAt ∧ (State.reset.ops.find? fun o => o.id == 6 && !o.isRange) = none ∧
    opAt.issued + 2 ^ 24 ≤ late.ptime.toNat ∧ (State.reset.queries.find? fun y => y.id == 2) = none ∧
    (s.queries.find? fun y => y.id == 2) = some query ∧ (s.queryAt (s.homeOf 1 0)).map (·.id) = some 2 ∧
    (s.walks.any fun w => w.q.id == 2) = false ∧
    (({ s with queries := [{ query with id := 1 }, query] } : State).queryAt (s.homeOf 1 0)).map (·.id) = some 1 ∧
    ({ query with here := false } : TlbQ).here = false ∧ query.client = .stream 0 6 := by
  refine ⟨?_, ?_, ?_, ?_, ?_, ?_, ?_, ?_, ?_, ?_, ?_, ⟨extAt 2 65536, ?_, ?_, ?_, ?_⟩, ?_, ?_, ?_, ?_, ?_, ?_, ?_, ?_, ?_, ?_⟩ <;> decide +kernel

theorem witness_TranslationEvents_walk :
    let s : State := { State.reset with walks := [walkAt] }
    let i : State := { State.reset with iod := { Iod.reset with invals := [inval] } }
    let done : Inval := { inval with stepped := 1 }
    (State.reset.walks.find? fun x => x.id == 3) = none ∧ (s.walks.find? fun x => x.id == 3) = some walkAt ∧
    s.walk 0 1 0 = .none ∧ ({ s with mem := [(7, 0xC0), (15, 0x80)] } : State).walk 0 1 0 = .bad 3 0 ∧
    ({ s with mem := [(9, 0x20), (15, 0x80), (0x2002, 1), (0x2007, 0x80), (0x10002, 2), (0x10007, 0x80), (0x20007, 0xC0)] } : State).walk
      0 1 0 = .leaf 0xC000000000000000 1 ∧
    (i.iod.invals.find? fun x => x.id == 0 && x.acks.getLsbD 0) = some inval ∧ (i.iod.invals.find? fun y => y.id == inval.id) = some inval ∧
    (State.reset.iod.invals.find? fun x => x.id == 0 && x.acks.getLsbD 0) = none ∧ inval.stepped.getLsbD 0 = false ∧
    done.stepped.getLsbD 0 = true ∧ inval.hits entryAt = true ∧ SMap.wf [] (i.die 0).tlb = true := by decide +kernel

/-- A command of the FAR engine, its record, and a copy of it. -/
def cmdAt : FgoCmd :=
  { start := 0, pc := 0, gate := none, sec := false, hm := false, phase := 0, nest := Nest.reset, rel := 0, vis := 0, sc := 0, ls := 0, mask := 1 }
def recAt (k : FarKind) : FarRec :=
  { id := 1, kind := k, cmd := cmdAt, next := 0, total := 1, first := none, relLeft := 1, visLeft := 1, after := [] }
def copyOf (m : Bool) (st : CopyState) (rel vis : SMap Bool) : Copy :=
  { slot := 0, rec_ := 1, cls := 0, index := 0, e := 0, spad := 0x10000, toMem := m, size := 64, st := st, pas := [(0, 64)], data := [], parts := [],
    errs := [], relDone := rel, visDone := vis, last := 0, via := [] }

/-- The world with one copy, of a record of a kind. -/
def copyWorld (k : FarKind) (c : Copy) : State := world fun x => { x with far := { x.far with recs := [recAt k], copies := [c] } }

theorem witness_Copies_start :
    let s := copyWorld .fgo (copyOf true .queued [] [])
    let p := s.updTile 0 fun x => { x with far := { x.far with copies := [{ copyOf true .queued [] [] with e := 2 ^ 59 }] } }
    let full := s.updTile 0 fun x => { x with far := { x.far with copies := List.replicate 32 (copyOf true .queued [] []) } }
    (∀ r ∈ ((world id).tile 0).far.recs, ¬ r.next < r.total) ∧ ((s.tile 0).far.recs.find? fun r => decide (r.next < r.total)) = some (recAt .fgo) ∧
    (s.tile 0).far.freeSlot = some 1 ∧ (s.tile 0).far.queueLen (s.nextCopy 0 (recAt .fgo)).1 < 32 ∧
    32 ≤ (full.tile 0).far.queueLen (full.nextCopy 0 (recAt .fgo)).1 ∧
    (((world id).tile 0).far.copies.find? fun c => c.cls == 0 && c.st == .queued) = none ∧
    ((s.tile 0).far.copies.find? fun c => c.cls == 0 && c.st == .queued) = some (copyOf true .queued [] []) ∧
    s.recOf 0 (copyOf true .queued [] []) = some (recAt .fgo) ∧ (recAt (.fsig 1)).kind ≠ .fgo ∧ (s.extent 0 0).map (·.cls) = some 1 ∧
    (p.extent 0 1).map (·.cls) = some 2 ∧ p.extent 0 2 = none ∧ State.reset.copyAt 0 0 = none ∧ s.asleep 0 = false ∧
    s.copyAt 0 0 = some (copyOf true .queued [] []) ∧ 63 < 64 := by decide +kernel

theorem witness_Copies_sectors :
    let s := copyWorld .fgo (copyOf true .issued [] [])
    let sick := s.updTile 0 fun x => { x with uses := [⟨false, 0, false, 0, 0, 0, 0⟩], ecc := [(0x10000 / 8, 2)] }
    s.copyAt 0 0 = some (copyOf true .issued [] []) ∧ (s.recOf 0 (copyOf true .issued [] [])).isSome = true ∧
    (s.extent 0 (extIndex (copyOf true .issued [] []).e)).isSome = true ∧ s.recOf 0 { copyOf true .issued [] [] with rec_ := 2 } = none ∧
    (copyOf true .issued [] []).st = .issued ∧ SMap.get false (copyOf true .issued [(0, true)] []).relDone 0 = true ∧
    SMap.get false (copyOf false .issued [] []).relDone 0 = false ∧ SMap.get false (copyOf false .issued [] [(0, true)]).visDone 0 = true ∧
    s.asleep 0 = false ∧ s.copyDown 0 (copyOf true .issued [] []) = false ∧ (copyOf false .issued [] []).toMem = false ∧
    (copyOf false .issued [] []).errAt 0 = none ∧ ({ copyOf false .issued [] [] with errs := [(0, 64)] } : Copy).errAt 0 = some 64 ∧
    sick.portTaken 0 0 false = true ∧ s.portTaken 0 0 false = false := by decide +kernel

theorem witness_FarServices :
    let k := FarKind.fred 1 1 2 0 0x10000 0
    let c := copyOf true .issued [] []
    let s := copyWorld k c
    let read : Copy := { c with relDone := [(0, true)] }
    let d := (world id).updEntry 0 fun x => { x with job := 4 }
    (copyWorld (.fsig 1) c).copyAt 0 0 = some c ∧ (copyWorld (.fsig 1) c).recOf 0 c = some (recAt (.fsig 1)) ∧ State.reset.copyAt 0 0 = none ∧
    s.recOf 0 c = some (recAt k) ∧ c.st = .issued ∧ c.relDone.length < 1 ∧ s.afterDone 0 (recAt k) = true ∧
    ¬ (copyOf true .queued [] []).st = .issued ∧ (c.unread.foldl (State.readChunk 0 (recAt k) c) (s, true)).2 = true ∧
    ((c.unread.foldl (State.readChunk 0 (recAt k) c) (s, true)).1.copyAt 0 0).any (fun y => decide (1 ≤ y.relDone.length)) = true ∧
    1 ≤ read.relDone.length ∧ s.portTaken 0 256 false = false ∧
    s.farSet 0 (recAt k) 0x3FFFC0 false = none ∧ s.farSet 0 (recAt k) 0x400000 false = some (setInfo 2 false 1) ∧
    (s.tile 0).before.uecc 0x10000 64 = false ∧
    (d.entries.find? fun e => e.2.job == 5 && (e.2.st == .running || e.2.st == .parked)) = none ∧
    (d.entries.find? fun e => e.2.job == 4 && (e.2.st == .running || e.2.st == .parked)) = some (0, d.entry 0) ∧
    (given (.peer (.write true 0 [1]))).writerWaits 4 = false ∧
    (given (.peer (.write true 0 [1]))).ext = .peer (.write true 0 [1]) ∧ (given (.peer (.read true 0 1))).ext = .peer (.read true 0 1) ∧
    (given (.peer (.amo 0 0 true 1))).ext = .peer (.amo 0 0 true 1) ∧ (given (.peer (.cas 0 true 1 0))).ext = .peer (.cas 0 true 1 0) := by
  decide +kernel

theorem witness_FarServices_waits :
    let s := (State.reset.setUpdatesAt 1 (List.replicate 256 update))
    ({ s with updates := [{ update with src := 4, stuck := [1] }] } : State).writerWaits 4 = true := by decide +kernel

theorem witness_no_input : (∀ p, State.reset.ext ≠ .peer p) ∧ (∀ n, State.reset.ext ≠ .notice n) ∧ (∀ l, State.reset.ext ≠ .temps l) ∧
    (∀ l, State.reset.ext ≠ .rails l) ∧ (∀ f, State.reset.ext ≠ .frame f) ∧ (∀ q bs, State.reset.ext ≠ .raw q bs) :=
  ⟨nofun, nofun, nofun, nofun, nofun, nofun⟩

theorem witness_HoldsAndNotices :
    let w := fun (t : Option Nat) => (world id).updRegion 0 fun x => { x with rdv := t }
    let hot := fun (p : W64) (h : Option Nat) (l : List Int) =>
      ({ given (.temps l) with ptime := p, iod := { Iod.reset with hot := h } } : State)
    ((w none).region 0).rdv = none ∧ ((w (some 1)).region 0).rdv = some 1 ∧ (w (some 1)).ptime.toNat < 1 ∧ ((w (some 0)).region 0).rdv = some 0 ∧
    0 ≤ (w (some 0)).ptime.toNat ∧ (given (.notice ⟨1, 0, 1024, true⟩)).ext = .notice ⟨1, 0, 1024, true⟩ ∧
    ((world id).entry 0).lastRdv = none ∧ (((world id).updEntry 0 fun x => { x with lastRdv := some 5 }).entry 0).lastRdv = some 5 ∧
    (∀ k ∈ (w (some 1)).keysOf 0, ∀ t, ((w (some 1)).region k).rdv = some t → t < 2) ∧
    ((w none).region 0).busy = true ∧ (Region.reset).busy = false ∧
    (0 = 0 ∨ 1 * 800 ≤ 0 * 1) ∧ (1 : Nat) ≠ 0 ∧ (2048 : Nat) % 1024 = 0 ∧ 1 * 800 ≤ 1 * (1 + 2048) ∧
    (hot 0 none [105]).iod.hot = none ∧ (∀ x ∈ [(105 : Int)], x ≤ Iod.reset.temerg) ∧ (∃ x ∈ [(106 : Int)], Iod.reset.temerg < x) ∧
    (hot 16384 (some 0) [100]).iod.hot = some 0 ∧ (hot 16383 (some 0) [100]).ptime.toNat < 0 + 16384 ∧
    (∃ x ∈ [(101 : Int)], Iod.reset.temerg - 5 < x) ∧ 0 + 16384 ≤ (hot 16384 (some 0) [100]).ptime.toNat ∧
    (∀ x ∈ [(100 : Int)], x ≤ Iod.reset.temerg - 5) := by
  refine ⟨?_, ?_, ?_, ?_, ?_, ?_, ?_, ?_, ?_, ?_⟩ <;> decide +kernel

theorem witness_PackageEvents :
    let e := fun (f : Entry → Entry) => (world id).updEntry 0 f
    let snap := fun (p : W64) => ({ State.reset with ptime := p, iod := { Iod.reset with snapAt := some (0, 2, 9) } } : State)
    let waits := fun (n : Nat) => ((e fun x => { x with st := .parked }).updRegion 0 fun x => { x with rdv := some n })
    let i : State := { State.reset with iod := { Iod.reset with invals := [inval] } }
    Route.cxl 1 ∉ State.reset.iod.down ∧ Route.cxl 1 ∈ ({ Iod.reset with down := [.cxl 1] } : Iod).down ∧ ((world id).entry 0).saving = false ∧
    (i.iod.invals.find? fun x => x.id == 0 && x.acks.getLsbD 0) = some inval ∧
    ((e fun x => { x with saving := true }).entry 0).saving = true ∧ ((e fun x => { x with saving := true }).entry 0).st = .running ∧
    ((e fun x => { x with st := .parked }).entry 0).st = .parked ∧ ((world id).entry 0).st ≠ .parked ∧
    (((waits 5).keysOf 0).filterMap fun k => ((waits 5).region k).rdv) = [5] ∧ resumeShift 0 5 ≠ 0 ∧ resumeShift 0 256 = 0 ∧
    State.reset.iod.snapAt = none ∧ (snap 63).iod.snapAt = some (0, 2, 9) ∧ (snap 63).ptime.toNat < 0 + 64 ∧ 0 + 64 ≤ (snap 64).ptime.toNat ∧
    ((world id).tile 0).retiring = none ∧ ((world fun x => { x with retiring := some (0x0A, 7) }).tile 0).retiring = some (0x0A, 7) := by
  decide +kernel

theorem witness_Frames :
    let s := fun (ds : BitVec 32) (f : Frame) => ({ given (.frame f) with iod := { Iod.reset with dstate := ds } } : State)
    let ty := fun (n : Byte) => ({ frameOf 0 false with ty := n } : Frame)
    (s 0x155 (frameOf 0 false)).ioLive = false ∧ (s 0x2AA (frameOf 0 true)).ioLive = true ∧ (frameOf 0 true).port ≠ Iod.reset.port ∧
    (frameOf 0 false).port = Iod.reset.port ∧ (frameOf 1 false).flags ≠ 0 ∧ (frameOf 0 false).flags = 0 ∧
    (s 0x2AA (frameOf 0 false)).ext = .frame (frameOf 0 false) ∧ (given (.raw false [])).ext = .raw false [] ∧
    (List.replicate 15 (0 : Byte)).length < 16 ∧ 16 ≤ (List.replicate 16 (0 : Byte)).length ∧
    (ty 1).ty = 1 ∧ (ty 2).ty = 2 ∧ (ty 3).ty = 3 ∧ (ty 4).ty = 4 ∧ (ty 5).ty = 5 ∧ (ty 6).ty = 6 ∧ (ty 7).ty = 7 ∧ (ty 0).ty = 0 ∧ 8 ≤ (ty 8).ty.toNat := by
  decide +kernel

theorem witness_Frames_command : ∀ bs : List Byte, Config.mctpStep bs = some 28 → mctpSteps[28]? = some .handlerInstall := fun _ _ => rfl

theorem witness_PowerDomain :
    let s := fun (l : List Rail) => ({ given (.rails railOrder) with iod := { Iod.reset with rails := l } } : State)
    let part := fun (l : List Rail) => ({ given (.rails [.vtrust]) with iod := { Iod.reset with rails := l } } : State)
    (s []).ext = .rails railOrder ∧ Iod.reset.powerSeq = false ∧ [] ++ railOrder = railOrder ∧ (s []).iod.rails ≠ railOrder ∧
    [Rail.vio] ≠ railOrder.take [Rail.vio].length ∧ (s railOrder).iod.rails = railOrder ∧ (part []).ext = .rails [.vtrust] ∧
    [Rail.vtrust] = railOrder.take [Rail.vtrust].length ∧ [Rail.vtrust] ≠ railOrder ∧
    ({ Iod.reset with powerSeq := true } : Iod).powerSeq = true ∧ dieOf 383 = (3 : BitVec 2).toNat ∧ 383 < 384 ∧
    (State.reset.tile 383).st ≠ .dead ∧ ((State.reset.updTile 383 fun x => { x with st := .dead }).tile 383).st = .dead := by
  decide +kernel

/-! ## What each remaining statement asks for -/

theorem witness_ScratchpadChecks_room :
    let b : Store := { issue := 0, seen := 0, slot := 0, bytes := [], lines := (List.range 64).map (· + 256), tagIn := 0, whole := false }
    let s : State := { world fun x => { x with prim := { x.prim with sbuf := [b] } } with cur := Cursor.empty }
    64 ≤ (bufferLines s.buffered).length ∧ ¬ (0x20000 / 256 ∈ bufferLines s.buffered) ∧
    bankTwice (touched [(0, 0x10000)]) [] = none ∧ ((world id).clashWith true 0) = none := by decide +kernel

theorem witness_ScratchpadChecks_ports :
    let use : PortUse := ⟨false, 3, false, 259, 1, 0x20, 0x10300⟩
    let s : State := { world fun x => { x with uses := [use], ecc := [(0x10000 / 8, 2)] } with cur := Cursor.empty }
    let two : List Access := [(0, 0x10000), (1, 0x12000)]
    s.cur.ctx = .primary ∧ s.buffered = [] ∧ touched two = [(256, 0x10000)] ++ (288, 0x12000) :: [] ∧ 288 % 32 ∈ [(256 : Nat)].map (· % 32) ∧
    ([(256 : Nat)].map (· % 32)).Nodup ∧ s.clashWith false 3 = some (0x20, 1, 0x10300) ∧ s.clashWith false 0 = none ∧
    inSet (s.thdr 0) (s.accessPhase true) 0 true 256 = true ∧ (s.ctile.view .primary 0).ueccLine 256 = true ∧
    (s.ctile.view .primary 0).ueccLine 257 = false ∧ Ctx.secondary ≠ .primary := by decide +kernel

theorem witness_CommitEffects_phase :
    (State.reset.overlap 0 0 = none) ∧ (world id).overlap 0 0 = some (1, 0) := by decide +kernel

theorem witness_MeshEvents_ended :
    let e := fun (k : Nat) => ({ tx 3 24 with ended := some (k, true) } : Tx)
    let s : State := { world id with ptime := 5, jobHolds := [⟨0, some 0, 0, 9, some 9, false, true⟩] }
    (e 5).ended = some (5, true) ∧ s.ptime.toNat ≤ 5 ∧ 4 < s.ptime.toNat ∧ (world id).pkgHeld 0 = false ∧ s.pkgHeld 0 = true ∧
    (∀ k ∈ List.range 3, ((world id).region 0).st ≠ .frozen k) ∧ nodeOf (e 5).dst < 32 ∧ (e 5).lt < 512 := by decide +kernel

theorem witness_FarServices_mark :
    let k := FarKind.fred 1 1 2 0 0x10000 0
    let c := copyOf true .issued [] []
    let s := copyWorld k c
    let at_ := fun (x : Tile → Tile) => s.updTile 0 x
    (at_ fun x => { x with uses := [⟨false, 0, false, 0, 0, 0, 0⟩] }).portTaken 0 256 false = true ∧
    (at_ fun x => { x with far := { x.far with recs := [{ recAt k with cmd := { cmdAt with phase := 40 } }] } }).recOf 0 c ≠ none ∧
    s.farSet 0 (recAt k) 0x10000 false = none ∧
    ([0].find? fun i => ((at_ fun x => { x with still := { x.still with ecc := [(0x10000 / 8, 2)] } }).tile 0).before.uecc (0x10000 + 64 * i) 64) = some 0 ∧
    (s.recOf 0 c = some (recAt k)) ∧ s.asleep 0 = false ∧ (s.physTile 0 0 = some 0) ∧ s.physTile 0 100 = none ∧
    covers (s.die (dieOf 0)).clock [0, 0, 0, 0, 0] = true ∧ covers (s.die (dieOf 0)).clock [1, 0, 0, 0, 0] = false ∧
    (given (.peer (.write true 0 [1]))).causalPA 64 = false := by decide +kernel

theorem witness_HoldsAndNotices_sensors :
    let s := fun (p : W64) (h : Option Nat) (l : List Int) => ({ State.reset with ptime := p, iod := { Iod.reset with hot := h, temps := l } } : State)
    let news := fun (p : W64) => ({ State.reset with ptime := p, iod := { Iod.reset with hot := some 1, hotNews := some (2, 106) } } : State)
    (s 1 none []).ptime.toNat % 1024 ≠ 0 ∧ (s 1024 none [105]).ptime.toNat % 1024 = 0 ∧ (∀ x ∈ [(105 : Int)], x ≤ Iod.reset.temerg) ∧
    (∃ x ∈ [(106 : Int)], Iod.reset.temerg < x) ∧ (s 16384 (some 1) [100]).ptime.toNat < 1 + 16384 ∧
    1 + 16384 ≤ (s 17408 (some 1) [100]).ptime.toNat ∧ (s 17408 (some 1) [100]).ptime.toNat % 1024 = 0 ∧
    (∃ x ∈ [(101 : Int)], Iod.reset.temerg - 5 < x) ∧ (∀ x ∈ [(100 : Int)], x ≤ Iod.reset.temerg - 5) ∧
    (news 1).iod.hotNews = some (2, 106) ∧ (news 1).iod.hot = some 1 ∧ 1 ≤ (news 1).ptime.toNat ∧ (news 0).ptime.toNat < 1 ∧
    State.reset.iod.hotNews = none ∧ (news 1).hotHeld 0 = true ∧ (news 0).hotHeld 0 = false := by
  refine ⟨?_, ?_, ?_, ?_, ?_, ?_, ?_, ?_, ?_, ?_, ?_, ?_, ?_, ?_, ?_, ?_⟩ <;> decide +kernel

theorem witness_HoldsAndNotices_rdv :
    let w := (world id).updRegion 0 fun x => { x with rdv := some 0 }
    (w.region 0).runs = true ∧ (Region.reset).runs = false ∧ ((w.updEntry 0 fun x => { x with st := .parked }).entry 0).st = .parked ∧
    ((world id).entry 0).saving = false ∧ (∃ k ∈ w.keysOf 0, ∃ t, (w.region k).rdv = some t ∧ ¬ t < 0) ∧ (1 : Nat) ≠ 0 := by
  refine ⟨?_, ?_, ?_, ?_, ⟨0, ?_, 0, ?_, ?_⟩, ?_⟩ <;> decide +kernel

theorem witness_IssueEvents_waits :
    let r := fun (n : Nat) => world fun x => { x with prim := { x.prim with rerun := some ⟨n, 3⟩ } }
    let f := (r 0).updTile 0 fun x => { x with fenced := [⟨0, .primary, .endt, 0, []⟩] }
    let h := world fun x => { x with hm := some hand }
    let u := h.asyncPorts 0 .handler h.ptime.toNat
    let sick := h.updTile 0 fun x => { x with ecc := [(64 / 2, 2)] }
    let mts := world fun x => { x with prim := { x.prim with delayed := [⟨9, 0, .sysreg 0x08 3⟩] } }
    (r 0).streamWaits 0 .primary = false ∧ f.streamWaits 0 .primary = true ∧ u.streamWaits 0 .handler = false ∧ u.tileHalted 0 = false ∧
    ((world id).tile 0).portsOf .handler = [] ∧ (∃ ln ∈ fetchLines 64 65, (sick.tile 0).ueccLine ln = true) ∧ hand.started = false ∧
    (∀ ln ∈ fetchLines 64 65, (u.tile 0).ueccLine ln = false) ∧ (0x08 : BitVec 6) ∈ (mts.tile 0).pendingSys .primary 5 ∧
    (0x08 : BitVec 6) ∉ ((world id).tile 0).pendingSys .primary 5 ∧ 64 < 65 := by decide +kernel

theorem witness_PackageEvents_parking :
    let s := copyWorld .fgo (copyOf true (.parked 64) [] [])
    (world id).iod.snapAt = none ∧ 0 ∈ s.tilesOf 0 ∧ (∃ c ∈ ((s.requeuePaged 0).tile 0).far.copies, c.st = .queued) ∧
    (((world id).keysOf 0).filterMap fun k => ((world id).region k).rdv) = [] ∧ 383 < 384 ∧ 0x4FFFFF < 0x500000 ∧
    ¬ (Route.cxl 1 ∈ State.reset.iod.down) := by decide +kernel

theorem witness_TranslationEvents_legs :
    let q := fun (l : TlbLeg) => ({ query with leg := l } : TlbQ)
    let s := fun (l : TlbLeg) => ({ world id with ops := [opAt], queries := [q l] } : State)
    let peer : HoldOp := { opAt with e := 0 }
    let h3 := (world id).updEntry 0 fun x => { x with hdr := some { hdrAll with extents := [extAt 3 0] } }
    let late := (s .asks).updDie 0 fun x => { x with clock := [0, 0, 0, 0, 0] }
    let w := fun (m : List Host.Cell) => ({ s .asks with mem := m } : State)
    ((s (.copies entryAt)).queries.find? fun y => y.id == 2) = some (q (.copies entryAt)) ∧ (s .asks).backupOf 1 0 ≠ none ∧
    ({ s .asks with iod := { Iod.reset with failover := 15 } } : State).backupOf 1 0 = none ∧ (q .again).leg = .again ∧
    (q (.answers none)).leg = .answers none ∧ (q (.copied entryAt)).leg = .copied entryAt ∧ query.client.tile = some 0 ∧
    (h3.extent 0 (extIndex peer.e)).map (·.cls) = some 3 ∧ covers (late.die (dieOf 0)).clock [1, 0, 0, 0, 0] = false ∧
    covers (late.die (dieOf 0)).clock opAt.clock = true ∧ opAt.kind = .ldf ∧
    ((s .asks).ops.find? fun o => o.id == 6) = some opAt ∧ (w []).walk 0 1 0 = .none ∧
    ({ query with client := .copy 0 0 0 0 } : TlbQ).client = .copy 0 0 0 0 ∧
    ((copyWorld .fgo (copyOf true .issued [] [])).copyAt 0 0).isSome = true := by decide +kernel

theorem witness_SystemRegisters_delays :
    let d : Delayed := ⟨4, 0, .sample 5 resAt⟩
    let w : Delayed := ⟨4, 0, .sysreg 5 9⟩
    let s := tile0 fun x => { x with prim := { x.prim with delayed := [d] } }
    let y : Tile := { Tile.reset with prim := { Stream.reset with delayed := [w] } }
    Ctx.primary ≠ .handler ∧ d ∈ ((s.tile 0).stream .primary).delayed ∧ d.at_ ≤ 4 ∧ d.op = .sample 5 resAt ∧
    (y.stream .primary).delayed = [⟨4, 0, .sysreg 5 9⟩] ∧ (y.stream .primary).inflight = [] := by decide +kernel

theorem witness_Transfers :
    let x : Stream := { Stream.reset with jump := some (9, 3) }
    let s := tile0 fun x => { x with hm := some hand }
    ({ Issued.bare with sig := true } : Issued).sig = true ∧ x.jump = some (9, 3) ∧ (s.tile 0).hm = some hand ∧ Ctx.secondary ≠ .handler := by
  decide +kernel

theorem witness_CommitEffects_handler :
    let s := tile0 fun x => { x with hm := some hand }
    Ctx.handler = .handler ∧ (s.tile 0).hm = some hand ∧ State.reset.iod.snapFull = false ∧ State.reset.iod.snapAt = none ∧
    ¬ ((3 : BitVec 4) = 0) ∧ ¬ ((3 : BitVec 4) = 1) := by decide +kernel

theorem witness_FarCommands :
    let s := world fun x => { x with far := { x.far with port := [cmdAt] } }
    let c := copyWorld .fgo (copyOf true .issued [] [])
    let d : Delayed := ⟨4, 0, .farQuery 0 false resAt⟩
    let q := tile0 fun x => { x with prim := { x.prim with delayed := [d] } }
    (s.tile 0).far.port = cmdAt :: [] ∧ gateTrap ((s.tile 0).gateState cmdAt.ctx cmdAt.start cmdAt.gate) = none ∧ 0 < cmdAt.nest.count ∧
    ((s.updFar 0 fun f => { f with port := [] }).fgoCheck 0 { cmdAt with nest := { Nest.reset with size := 64, dst := 0x10000, dsp := true } } = none) ∧
    State.reset.copyAt 0 0 = none ∧ c.copyAt 0 0 = some (copyOf true .issued [] []) ∧
    c.recOf 0 (copyOf true .issued [] []) = some (recAt .fgo) ∧ (recAt .fgo).cmd.sec = false ∧
    d ∈ ((q.tile 0).stream .primary).delayed ∧ d.at_ ≤ 4 ∧ d.op = .farQuery 0 false resAt := by decide +kernel

theorem witness_RangesAndAtomics_out :
    let s := world fun x => { x with prim := { x.prim with fence := [6] } }
    let f : State := { s with ops := [opAt] }
    let ws := fun (s : State) => ((s.tile 0).stream .primary).fence.filter fun k => (s.outstanding 0 .primary).contains k
    ws (world id) = [] ∧ ws f ≠ [] ∧ ((world id).extent 0 0).map (·.cls) = some 1 ∧
    (∃ r a, Effect.ldf resAt 0 = .ldf r a) := by
  refine ⟨?_, ?_, ?_, resAt, 0, rfl⟩ <;> decide +kernel

theorem witness_BasinOperations_tile :
    let x : Tile := { Tile.reset with basinOps := [(2, 64, .init 1)], breads := [(.primary, 64, resAt)] }
    x.basinOps = [(2, 64, .init 1)] ∧ Memory.wf x.spad = true ∧ basinUpdate (readN x.spad 64 16) (.init 1) < 2 ^ 128 ∧
    x.breads = [(.primary, 64, resAt)] := by decide +kernel

theorem witness_PassRows_steps :
    let p : PassJob := { start := 0, base := 256, stride := 256, rows := 1, wf := 3, pair := false, acc := 0, row0 := 0, zero := true, cb := 0 }
    let l : LoadJob := { cb := true, row := 0, base := 0, stride := 256, scales := 0, rows := 8, wf := 0, plane := false }
    let r : PassRow := { due := 0, acc := 1, row := 127, zero := false, pair := false, x := [], plane := [], mf := 0 }
    let s := tile0 fun x => { x with mx := { x.mx with array := some p, loader := some l } }
    (s.tile 0).mx.array = some p ∧ (s.tile 0).mx.loader = some l ∧ l.cb = true ∧ ({ l with cb := false } : LoadJob).cb = false ∧
    SMap.wf [] (s.tile 0).mx.acc = true ∧ SMap.wf 0 ((s.tile 0).mx.row 1 127) = true ∧ clashes [] (accUse true 1 1 127 0) = false ∧
    clashes [] (accUse false 1 1 127 0) = false ∧ (s.tile 0).mx.ueccRow 1 127 = false ∧ r.zero = false ∧
    SMap.wf [] ((s.tile 0).mx.plane false).rows = true ∧ ((s.tile 0).mx.mag.map Prod.fst).Pairwise (· < ·) := by decide +kernel

theorem witness_AccumulatorPort :
    let bad := (tile0 fun x => { x with mx := { x.mx with aecc := [((1 * 128 + 7) * 128, 2)] } })
    (State.reset.tile 0).mx.ueccRow 1 7 = false ∧ (bad.tile 0).mx.ueccRow 1 7 = true ∧ clashes Tile.reset.uses (accUse true 7 1 7 0) = false ∧
    SMap.wf [] Tile.reset.mx.acc = true ∧ SMap.wf 0 (Tile.reset.mx.row 1 7) = true := by decide +kernel

theorem witness_BurstsAndRefresh_landing :
    ({ burst 0x400 with err := some 64 } : Burst).err = some 64 ∧ (burst 0x400).err = none ∧ SMap.wf 0 ((world id).tile 0).ltag = true := by
  decide +kernel

/-! ## Worked examples of the spec, and small steps -/

/-- What the bundle of tile 0 will do at its commit, after an outcome. -/
def effectsOf : Out → List Effect
  | .next t => ((t.tile 0).prim.issued.map Issued.effects).getD []
  | _ => []

/-- The causes the bundle of tile 0 has raised, after an outcome. -/
def causesOf : Out → List (BitVec 6)
  | .next t => ((t.tile 0).prim.issued.map fun b => b.causes.map Cause.code).getD []
  | _ => []

/-- Value and tag of the first result an outcome leaves. -/
def resultOf (o : Out) : Option (Nat × Tag) := (effectsOf o).head?.bind fun e => match e with
  | .result r => some (r.value.toNat, r.tag)
  | _ => none

/-- A bundle of tile 0 at hand, with scalar registers holding the values given. -/
def with_ (rs : List (BitVec 6 × W64)) : State :=
  (State.reset.withFetchWord 32 0x4C001000).updTile 0 fun x =>
    { x with prim := { x.prim with regs := { x.prim.regs with s := rs.foldl (fun f r => wr f r.1 r.2) x.prim.regs.s } } }

/-- R157: ADDI of a register with tag 0. -/
theorem test_step_addi : resultOf (step (State.reset.withFetchWord 32 0x06028A80)) = some (0x80, 0xDBA4) := by decide +kernel

/-- R157: the tags of MOVI and ADDI, and the lineage fold of the block. -/
theorem test_lineage :
    tagOf [immTag] (opk 0 0x1B) = 0xA7C5 ∧ tagOf [0xA7C5, immTag] (opk 0 0x03) = 0xE589 ∧
    (rotl32 0xA7C5 1 ^^^ 0xE589) ^^^ epx32 3 = 0x0302A900 := by decide

/-- R127: the control-flow fold of four words. -/
theorem test_fold : foldWords 0 [0x1, 0x42090A00, 0x4, 0x04800012] = 0x10094823 := by decide

/-- R58: the first word of the ffn_up seed, and element 4 of V0's draw. -/
theorem test_spring : spring 0x2C419B07 0 = 0x7D1B3DFF ∧ draw 0x7D1B3DFF 4 4 = 0x132C := by decide +kernel

/-- R34: the work identifier of launch tile 61 in task 17 with argument 11. -/
theorem test_wid : widOf [(5, 13), (2, 2), (5, 17), (8, 11)] = 0xB8CD := by decide

/-- R51: the product of 0x7F80 and 0x0030. -/
theorem test_acProduct : acProduct 0x7F80 0x0030 = 0x3FA7128000 := by decide +kernel

/-- R218: VLOG2 of 3.0, and VEXP2 of the result. -/
theorem test_log2_exp2 : log2F32 .rne 0x40400000 = (0x3FCB0000, 0x10) ∧ exp2F32 .rne 0x3FCB0000 = (0x40402100, 0) := by decide +kernel

/-- R220: the reduction tree of 2^24, 1, 1 and 1. -/
theorem test_vred :
    (redTree (redOp true 0 .rne) 6 ([0x4B800000, 0x3F800000, 0x3F800000, 0x3F800000] ++ List.replicate 60 0, 0)).1 = [0x4B800001] := by
  decide +kernel

/-- R219: the tag of a VCVT whose source has tag 0x0042. -/
theorem test_vcvt_tag : tagOf [0x0042] (opk 3 0x28) = 0x0908 := by decide

/-- R87: the bucket of 2^36 under ASID 0x0123. -/
theorem test_tlbBucket : tlbBucket 0x0123 (2 ^ 36) = 0x523 := by decide

/-- R161: a division by 0, and the signed shifts and products at the least number. -/
theorem test_divu_by_zero : (resultOf (exec (.divu 0 3 1 2) (with_ [(1, 5)]))).map Prod.fst = some (2 ^ 64 - 1) := by decide +kernel
theorem test_remu : (resultOf (exec (.remu 0 3 1 2) (with_ [(1, 17), (2, 5)]))).map Prod.fst = some 2 := by decide +kernel
theorem test_sra : (resultOf (exec (.sra 0 3 1 2) (with_ [(1, 2 ^ 63), (2, 63)]))).map Prod.fst = some (2 ^ 64 - 1) := by decide +kernel
theorem test_mulh : (resultOf (exec (.mulh 0 3 1 1) (with_ [(1, 2 ^ 63)]))).map Prod.fst = some (2 ^ 62) := by decide +kernel
theorem test_addw : (resultOf (exec (.addw 0 3 1 1) (with_ [(1, 2 ^ 30)]))).map Prod.fst = some (2 ^ 64 - 2 ^ 31) := by decide +kernel

/-- R163: LT is signed and LTU is not; a write to p0 leaves no result. -/
theorem test_cmp : resultOf (exec (.cmp 0 1 1 2 2) (with_ [(1, 2 ^ 63)])) = some (1, 0) ∧
    resultOf (exec (.cmp 0 1 1 2 3) (with_ [(1, 2 ^ 63)])) = some (0, 0) ∧ resultOf (exec (.cmp 0 0 1 2 0) (with_ [])) = none := by decide +kernel

/-- R168: an address below 0x1_0000 outside handler mode, a misaligned one, and one outside every set. -/
theorem test_lds_order :
    causesOf (exec (.lds 0 1 2 0 3) (with_ [(2, 0xFFFC)])) = [0x19] ∧ causesOf (exec (.lds 0 1 2 0 3) (with_ [(2, 0x10004)])) = [0x08] ∧
    causesOf (exec (.sts 0 1 2 0 3) (with_ [(2, 0x10008)])) = [0x06] := by decide +kernel

/-- R167: TSTAT's read-only fields, PHASE and a misaligned gate. -/
theorem test_mtsr : causesOf (exec (.mtsr 0 1 0x0A) (with_ [])) = [0x19] ∧ causesOf (exec (.mtsr 0 1 0x18) (with_ [(1, 8)])) = [0x08] ∧
    causesOf (exec (.mtsr 0 1 0x18) (with_ [(1, 16)])) = [] := by decide +kernel

/-- R170: RET from an empty return stack, and a branch to a word that is no successor. -/
theorem test_ret : causesOf (exec (.ret 0) (with_ [])) = [0x02] := by decide +kernel
theorem test_br : causesOf (exec (.br 0 5) (with_ [])) = [0x0B] := by decide +kernel

/-- R311: the count an armed basin of one arrival reaches, and one it cannot. -/
theorem test_basin : basinUpdate (basinOf 3 false false false true 2 0 0 7) (.arrive 2) = basinOf 4 false false false true 7 0 0 7 ∧
    basinUpdate (basinOf 3 false false false true 2 0 0 7) (.arrive 3) = basinOf 3 false true true true 2 0 0 7 := by decide

/-- R317: FADD, MIN of two's complement numbers, and a 32-bit ADD that wraps. -/
theorem test_atomics : atomicNew false 1 false 0x3F800000 0x3F800000 0 = 0x40000000 ∧ atomicNew false 2 false 1 0xFFFFFFFF 0 = 0xFFFFFFFF ∧
    atomicNew false 0 false 0xFFFFFFFF 1 0 = 0 := by decide +kernel

/-- What an outcome's state shows through a reading of it. -/
def shows {α : Type} (f : State → α) : Out → Option α
  | .next t => some (f t)
  | _ => none

/-- R63: a frame with FLAGS is answered BADFRAME. -/
theorem test_frame_flags :
    shows State.out (exec .snapnow { given (.frame (frameOf 1 false)) with iod := { Iod.reset with dstate := 0x2AA } }) =
      some [.completion 9 0x0A []] := by decide +kernel

/-- R63: the header of a frame, least significant byte first, and the step its TYPE selects. -/
theorem test_raw_frame :
    ((State.reset.receive false [2, 0, 7, 1, 64, 0, 0, 0, 5, 0, 0, 0, 0, 0, 0, 0, 0xAA]).agenda.map fun k => (k.1, match k.2 with
      | .frame f => (f.seq.toNat, f.len.toNat, f.addr.toNat, f.data.length)
      | _ => (0, 0, 0, 0))) = [(.ltwr, (0x107, 64, 5, 1))] := by decide +kernel

/-- R60: a second is 800,000,000 ticks, and 1.25 ns one tick. -/
theorem test_ptp_tick : ptpTick 1 0 0 = 800000000 ∧ ptpTick 0 1 (2 ^ 14) = 1 ∧ ptpTick 0 1 (2 ^ 14 - 1) = 0 := by decide +kernel

/-- R12: rails raised in the order of the rule bring the four dies up. -/
theorem test_power_up : shows (fun t => (t.iod.dstate, t.iod.powerSeq)) (exec .powerUp (given (.rails railOrder))) = some (0x2AA, false) := by
  decide +kernel

/-- Words of the opcode table as the host numbers them. -/
theorem test_decodeTableWord : decodeTableWord 32 0x06000000 = some (.addi 0 0 0 0) ∧ decodeTableWord 32 0x04000000 = some (.sub 0 0 0 0) := by
  decide +kernel

end Sys2Proof.Tests
end

section
/-! PROOFS. The I32 lanes of the vector unit: each operation on bit vectors is the integer operation of R209, wrapped to 32 bits. -/

namespace Sys2Proof.Machine

/-! ## The I32 lanes (R9, R209) -/

/-- A two-source lane operation is known by its value on each pair of elements. -/
theorem vectorAB_of_vint2 {i : BitVec 4 → BitVec 3 → BitVec 6 → BitVec 6 → BitVec 6 → Instr} {op l : Nat}
    {g f : BitVec 32 → BitVec 32 → BitVec 32}
    (hi : ∀ p q d a b s, exec (i p q d a b) s = s.vint2 p q op l d a b g) (hf : ∀ x y, g x y = f x y) : VectorAB i op l f := by
  have hgf : g = f := funext fun x => funext fun y => hf x y
  intro p q d a b s
  rw [hi, hgf]
  rfl

/-- A one-source lane operation is known by its value on each element. -/
theorem vectorFlagsA_of_vint1 {i : BitVec 4 → BitVec 3 → BitVec 6 → BitVec 6 → Instr} {op l : Nat} {g f : BitVec 32 → BitVec 32}
    (hi : ∀ p q d a s, exec (i p q d a) s = s.vint1 p q op l d a g) (hf : ∀ x, g x = f x) :
    VectorFlagsA i op l fun x => (f x, 0) := by
  have hgf : g = f := funext hf
  intro p q d a s
  rw [hi, hgf]
  rfl

section Lanes
variable (x y : BitVec 32)

theorem wrap32_natCast (n : Nat) : wrap32 n = BitVec.ofNat 32 n := BitVec.ofInt_natCast 32 n

@[simp] theorem wrap32_toInt : wrap32 x.toInt = x := BitVec.ofInt_toInt

@[simp] theorem wrap32_toNat : wrap32 x.toNat = x := by simp [wrap32_natCast]

theorem add_eq_wrap32 : x + y = wrap32 (x.toNat + y.toNat) := by
  rw [← Nat.cast_add, wrap32_natCast, BitVec.ofNat_add]; simp

theorem sub_eq_wrap32 : x - y = wrap32 (x.toInt - y.toInt) := by
  apply BitVec.eq_of_toInt_eq
  rw [BitVec.toInt_sub, wrap32, BitVec.toInt_ofInt]

theorem mul_eq_wrap32 : x * y = wrap32 (x.toNat * y.toNat) := by
  rw [← Nat.cast_mul, wrap32_natCast, BitVec.ofNat_mul]; simp

theorem shiftLeft_eq_wrap32 (n : Nat) : x <<< n = wrap32 (x.toNat * 2 ^ n) := by
  apply BitVec.eq_of_toNat_eq
  have h : ((x.toNat : Int) * 2 ^ n) = ((x.toNat * 2 ^ n : Nat) : Int) := by push_cast; rfl
  rw [h, wrap32_natCast]
  simp [Nat.shiftLeft_eq]

theorem ushiftRight_eq_wrap32 (n : Nat) : x >>> n = wrap32 ((x.toNat / 2 ^ n : Nat)) := by
  apply BitVec.eq_of_toNat_eq
  rw [wrap32_natCast, BitVec.toNat_ofNat, BitVec.toNat_ushiftRight, Nat.shiftRight_eq_div_pow,
    Nat.mod_eq_of_lt ((Nat.div_le_self _ _).trans_lt x.isLt)]

theorem sshiftRight_eq_wrap32 (n : Nat) : x.sshiftRight n = wrap32 (x.toInt / 2 ^ n) := by
  rw [BitVec.sshiftRight, Int.shiftRight_eq_div_pow]
  rfl

theorem ite_sle_eq_wrap32_min : (if x.sle y then x else y) = wrap32 (min x.toInt y.toInt) := by
  rw [BitVec.sle_eq_decide, min_def, apply_ite wrap32]
  simp

theorem ite_sle_eq_wrap32_max : (if x.sle y then y else x) = wrap32 (max x.toInt y.toInt) := by
  rw [BitVec.sle_eq_decide, max_def, apply_ite wrap32]
  simp

theorem ite_ule_eq_wrap32_min : (if x.ule y then x else y) = wrap32 (min x.toNat y.toNat : Nat) := by
  rw [BitVec.ule_eq_decide, Nat.min_def, apply_ite Nat.cast, apply_ite wrap32]
  simp

theorem ite_ule_eq_wrap32_max : (if x.ule y then y else x) = wrap32 (max x.toNat y.toNat : Nat) := by
  rw [BitVec.ule_eq_decide, Nat.max_def, apply_ite Nat.cast, apply_ite wrap32]
  simp

theorem addSat_eq_wrap32 : addSat x y = wrap32 (max (-2147483648) (min 2147483647 (x.toInt + y.toInt))) := by
  simp only [addSat]
  split
  · rw [min_eq_left (by omega)]; decide
  · split
    · rw [min_eq_right (by omega), max_eq_left (by omega)]; decide
    · rw [min_eq_right (by omega), max_eq_right (by omega)]; rfl

theorem mulHigh_eq_wrap32 : BitVec.ofInt 32 (Int.fdiv (x.toInt * y.toInt) (2 ^ 32)) = wrap32 (x.toInt * y.toInt / 2 ^ 32) := by
  rw [Int.fdiv_eq_ediv_of_nonneg _ (by norm_num), wrap32]

theorem clz_eq_wrap32 : BitVec.ofNat 32 (clz 32 x.toNat) = wrap32 (if x = 0 then 32 else 31 - Nat.log2 x.toNat : Nat) := by
  rw [wrap32_natCast, clz, Nat.mod_eq_of_lt x.isLt]
  simp [← BitVec.toNat_inj]

theorem popc_eq_wrap32 : BitVec.ofNat 32 (popc 32 x.toNat) = wrap32 ((List.range 32).filter fun i => x.getLsbD i).length :=
  (wrap32_natCast _).symm

/-- The conditions of VCMP on numbers, signed or not (R209). -/
theorem condI_eq (f : BitVec 3) : condI f x y = match f with
    | 0 => decide (x.toNat = y.toNat)
    | 1 => decide (x.toNat ≠ y.toNat)
    | 2 => decide (x.toInt < y.toInt)
    | 3 => decide (x.toNat < y.toNat)
    | 4 => decide (y.toInt ≤ x.toInt)
    | _ => decide (y.toNat ≤ x.toNat) := by
  unfold condI
  split <;> simp [BitVec.toNat_inj, Bool.beq_eq_decide_eq, bne, BitVec.slt_eq_decide, BitVec.ult_eq_decide, BitVec.sle_eq_decide,
    BitVec.ule_eq_decide]

end Lanes
end Sys2Proof.Machine

open Sys2Proof Sys2Proof.Machine

/-- Settles O31: each instruction's lane operation in bit vectors is the integer operation of R209 wrapped to 32 bits. -/
theorem vectorInteger : Obligations.VectorInteger := by
  refine ⟨vectorAB_of_vint2 (fun _ _ _ _ _ _ => exec_vadd) add_eq_wrap32,
    vectorAB_of_vint2 (fun _ _ _ _ _ _ => exec_vsub) sub_eq_wrap32,
    vectorAB_of_vint2 (fun _ _ _ _ _ _ => exec_vmul) mul_eq_wrap32,
    vectorAB_of_vint2 (fun _ _ _ _ _ _ => exec_vand) (fun _ _ => rfl),
    vectorAB_of_vint2 (fun _ _ _ _ _ _ => exec_vor) (fun _ _ => rfl),
    vectorAB_of_vint2 (fun _ _ _ _ _ _ => exec_vxor) (fun _ _ => rfl),
    vectorAB_of_vint2 (fun _ _ _ _ _ _ => exec_vshl) (fun x y => shiftLeft_eq_wrap32 x (vcount y)),
    vectorAB_of_vint2 (fun _ _ _ _ _ _ => exec_vshr) (fun x y => ushiftRight_eq_wrap32 x (vcount y)),
    vectorAB_of_vint2 (fun _ _ _ _ _ _ => exec_vsra) (fun x y => sshiftRight_eq_wrap32 x (vcount y)),
    vectorAB_of_vint2 (fun _ _ _ _ _ _ => exec_vmin) ite_sle_eq_wrap32_min,
    vectorAB_of_vint2 (fun _ _ _ _ _ _ => exec_vmax) ite_sle_eq_wrap32_max,
    vectorAB_of_vint2 (fun _ _ _ _ _ _ => exec_vminu) ite_ule_eq_wrap32_min,
    vectorAB_of_vint2 (fun _ _ _ _ _ _ => exec_vmaxu) ite_ule_eq_wrap32_max,
    vectorAB_of_vint2 (fun _ _ _ _ _ _ => exec_vadds) addSat_eq_wrap32,
    vectorAB_of_vint2 (fun _ _ _ _ _ _ => exec_vmulh) mulHigh_eq_wrap32,
    vectorFlagsA_of_vint1 (fun _ _ _ _ _ => exec_vclz) clz_eq_wrap32,
    vectorFlagsA_of_vint1 (fun _ _ _ _ _ => exec_vpopc) popc_eq_wrap32, ?_⟩
  intro p q d a b f s
  simp only [exec_vcmp, execVcmp, condI_eq]
  rfl

end

section
/-! PROOFS. The management reads and writes: a frame's step by its effect, the monitor's own writes, and the tile map's word. -/

namespace Sys2Proof.Machine

/-! ## Management frames (R63) -/

/-- A frame's step is known by its effect on the frame and the state at hand. -/
theorem onFrame_of_framed {i : Instr} {standby : Bool} {g g' : Frame → State → State} (hi : ∀ s, exec i s = s.framed standby g')
    (hg : ∀ f s, g' f s = g f s) : OnFrame i standby g := by
  obtain rfl : g' = g := funext fun f => funext fun s => hg f s
  refine ⟨fun s hf hr => ?_, fun s q bs hr => ?_, fun s f hf => ?_⟩
  · rw [hi, State.framed]
    split
    · exact absurd ‹_› (hr _ _)
    · exact absurd ‹_› (hf _)
    · rfl
  · rw [hi]; simp only [State.framed, hr]
  · rw [hi]; simp only [State.framed, hf]
    refine ⟨fun hoff => ?_, fun hlive hport hflags => ?_, fun hlive hport hflags => ?_⟩
    · rw [if_pos (by simpa using hoff)]
    · rw [if_neg (by simpa [hlive, or_iff_not_imp_left] using hport), if_pos hflags]; rfl
    · rw [if_neg (by simpa [hlive, or_iff_not_imp_left] using hport), if_neg (not_not.2 hflags)]

/-- A write of the monitor alone. -/
theorem State.locked_eq (s : State) (f : Frame) (g : State → State) :
    s.locked f g = if f.who = .firmware then s.complete f 0x01 else (g s).complete f 0x00 := by
  unfold State.locked
  split <;> simp_all [State.refused]

/-- A tile-map entry by its fields, STATE as a number (R73). -/
theorem Tile.mapWord_eq (x : Tile) : x.mapWord = (match x.st with | .free => 0 | .bound => 1 | .dead => 2) * 2 ^ 30 +
    (if x.st = .bound then x.lte.toNat * 2 ^ 16 + x.reg.toNat * 2 ^ 13 + x.lpos.toNat * 2 ^ 6 else 0) + x.fails.toNat := by
  rw [Tile.mapWord]
  cases x.st <;> simp

end Sys2Proof.Machine

open Sys2Proof Sys2Proof.Machine

/-- Settles O59: each write is a frame's step with the effect of its rule, register by register; each read lists its register's bytes. -/
theorem managementWrites : Obligations.ManagementWrites := by
  refine ⟨onFrame_of_framed (fun _ => exec_dbgbWrite) fun f s => ?_, onFrame_of_framed (fun _ => exec_tinjWrite) fun f s => ?_,
    onFrame_of_framed (fun _ => exec_minjWrite) fun f s => ?_, onFrame_of_framed (fun _ => exec_actionEntryWrite) fun f s => ?_,
    onFrame_of_framed (fun _ => exec_snapcmpWrite) fun f s => ?_, onFrame_of_framed (fun _ => exec_tileMapWrite) fun f s => ?_,
    onFrame_of_framed (fun _ => exec_handlerInstall) fun f s => ?_, onFrame_of_framed (fun _ => exec_mgmtRegisterWrite) fun f s => ?_,
    fun s => ?_, fun s e => ?_⟩
  · simp only [Bool.not_eq_true']; rfl
  · simp only [Bool.not_eq_true']; rfl
  · simp only [Bool.not_eq_true']; rfl
  · rfl
  · rfl
  · simp only [Bool.not_eq_true']; rfl
  · simp only [State.locked_eq]; rfl
  · simp only [State.locked_eq, Bool.and_eq_true, decide_eq_true_eq]
    refine if_congr Iff.rfl rfl ?_
    cases f.reg <;> rfl
  · refine ⟨rfl, fun t => ?_, fun _ => rfl, rfl, rfl, rfl, fun _ => rfl, fun _ => ⟨rfl, rfl⟩,
      fun _ _ => rfl, fun _ => rfl, fun _ => rfl⟩
    exact congrArg (toBytes 4) (Tile.mapWord_eq _)
  · exact ⟨rfl, rfl, rfl, rfl, rfl, rfl, rfl, rfl, rfl, rfl, rfl, rfl⟩

end

section
/-! PROOFS. Power, die reset and die release: reads of changed tables, what a kill leaves, what asking lost
queries again leaves, and the state a die reset leaves. -/

namespace Sys2Proof.Machine

/-! ## Changed tables -/

/-- A read of a table whose listed values have all been changed, for a change that leaves an unlisted key as it is. -/
theorem SMap.get_mapV {V : Type} [DecidableEq V] {d : V} {m : SMap V} {f : Nat → V → V} {i : Nat} (hw : SMap.wf d m = true)
    (hd : f i d = d) : SMap.get d (SMap.mapV d f m) i = f i (SMap.get d m i) := by
  suffices ∀ lo, SMap.wfFrom d lo m = true → SMap.get d (SMap.mapV d f m) i = f i (SMap.get d m i) from this 0 hw
  clear hw
  induction m with
  | nil => exact fun _ _ => hd.symm
  | cons p m ih =>
    obtain ⟨k, v⟩ := p
    intro lo hw
    have hm : SMap.wfFrom d (k + 1) m = true := by
      simp only [SMap.wfFrom, Bool.and_eq_true] at hw
      exact hw.2
    have hrest := ih (k + 1) hm
    have hbelow : i ≤ k → SMap.get d (SMap.mapV d f m) i = d := fun hi => by
      rw [hrest, SMap.get_below hm (by omega), hd]
    simp only [SMap.mapV, List.filterMap_cons, SMap.get] at hrest hbelow ⊢
    by_cases hv : f k v = d
    · simp only [hv, if_true]
      rcases lt_trichotomy i k with hi | hi | hi
      · simp [hi, hi.ne, hd, hbelow hi.le]
      · subst hi; simp [hv, hbelow le_rfl]
      · simp [hi.ne', hi.not_gt, hrest]
    · simp only [hv, if_false, SMap.get]
      rcases lt_trichotomy i k with hi | hi | hi
      · simp [hi, hi.ne, hd]
      · subst hi; simp
      · simp [hi.ne', hi.not_gt, hrest]

section Reads
variable {s : State}

theorem State.Canon.tile_mapTiles (h : s.Canon) {f : Nat → Tile → Tile} {t : Nat} (hf : f t Tile.reset = Tile.reset) :
    (s.mapTiles f).tile t = f t (s.tile t) := SMap.get_mapV h.tiles hf

theorem State.Canon.seqr_mapSeqrs (h : s.Canon) {f : Nat → Seqr → Seqr} {q : Nat} (hf : f q Seqr.reset = Seqr.reset) :
    (s.mapSeqrs f).seqr q = f q (s.seqr q) := SMap.get_mapV h.seqrs hf

theorem State.Canon.entry_mapEntries (h : s.Canon) {f : Nat → Entry → Entry} {e : BitVec 8}
    (hf : f e.toNat Entry.reset = Entry.reset) : (s.mapEntries f).entry e = f e.toNat (s.entry e) := SMap.get_mapV h.entries hf

end Reads

/-! ## What a kill leaves (R65, R94) -/

section Kill
variable {s : State} {e u : BitVec 8}

/-- The chain of refusals turns admitted entries alone into refused ones. -/
theorem State.Canon.entry_refuseAfter (h : s.Canon) (hu : (s.entry u).st ≠ .admitted) (fuel : Nat) :
    (s.refuseAfter fuel e).entry u = s.entry u := by
  induction fuel generalizing s e with
  | zero => rfl
  | succ fuel ih =>
    rw [State.refuseAfter]
    have hmap : (s.mapEntries fun _ x => if x.waitsFor e then { x with st := .refused, status := 0x08, hdr := none } else x).entry u =
        s.entry u := by
      rw [h.entry_mapEntries (by simp [Entry.waitsFor, Entry.reset])]
      simp [Entry.waitsFor, hu]
    exact (List.foldlRecOn _ _ (motive := fun t : State => t.Canon ∧ t.entry u = s.entry u) ⟨h.mapEntries, hmap⟩
      fun t ⟨ht, hs⟩ v _ => ⟨canon_refuseAfter ht, (ih ht (hs ▸ hu)).trans hs⟩).2

@[simp] theorem State.refuseAfter_regions (fuel : Nat) : (s.refuseAfter fuel e).regions = s.regions := by
  induction fuel generalizing s e with
  | zero => rfl
  | succ fuel ih =>
    rw [State.refuseAfter]
    exact List.foldlRecOn _ _ (motive := fun t : State => t.regions = s.regions) rfl fun _ ht _ _ => ih.trans ht

@[simp] theorem State.endJob_entry {job : BitVec 32} : (s.endJob job).entry u = s.entry u := by
  unfold State.endJob; split <;> rfl

@[simp] theorem State.endJob_regions {job : BitVec 32} : (s.endJob job).regions = s.regions := by
  unfold State.endJob; split <;> rfl

/-- The entry of a launch that leaves. -/
theorem State.Canon.entry_leave (h : s.Canon) {status : Byte} {killed : Bool} :
    ((s.leave e status killed).entry e).st = .retired ∧ ((s.leave e status killed).entry e).killed = killed ∧
      ((s.leave e status killed).entry e).status = status := by
  unfold State.leave
  have hfree : ((s.freeTiles e).freeSeqrs e killed).Canon := canon_freeSeqrs (canon_freeTiles h)
  simp only [State.endJob_entry]
  rw [State.Canon.entry_updEntry (State.Canon.mapEntries (by rw [canon_eta]; exact hfree.dropRegions.drop))]
  simp

/-- No region of a launch that leaves is left. -/
theorem State.leave_regions {status : Byte} {killed : Bool} : ∀ k ∈ (s.leave e status killed).regions, k.2.entry ≠ e := by
  unfold State.leave
  simp [State.dropRegions]

/-- KILL retires the entry with the status of a kill, and frees its regions. -/
theorem State.Canon.kill_retires (h : s.Canon) : ((s.kill e).entry e).st = .retired ∧ ((s.kill e).entry e).killed = true ∧
    ((s.kill e).entry e).status = 0x0B ∧ ∀ k ∈ (s.kill e).regions, k.2.entry ≠ e := by
  obtain ⟨hst, hkilled, hstatus⟩ := (canon_discard (a1 := e) h).entry_leave (e := e) (status := 0x0B) (killed := true)
  have hleft := canon_leave (a1 := e) (a2 := 0x0B) (a3 := true) (canon_discard (a1 := e) h)
  unfold State.kill
  rw [hleft.entry_refuseAfter (by rw [hst]; simp), State.refuseAfter_regions]
  exact ⟨hst, hkilled, hstatus, State.leave_regions⟩

end Kill

/-! ## What asking TLB queries again leaves (R88, R92) -/

/-- Everything but the queries, the packets that carry them, the numbers given and the agenda is as it was. -/
structure State.QueriesOnly (s t : State) : Prop where
  same : { t with queries := s.queries, packets := s.packets, nextId := s.nextId, agenda := s.agenda } = s

section Queries
variable {s t : State}

theorem State.QueriesOnly.trans {u : State} (h : s.QueriesOnly t) (h' : t.QueriesOnly u) : s.QueriesOnly u :=
  have hu := congrArg (fun x : State =>
    { x with queries := s.queries, packets := s.packets, nextId := s.nextId, agenda := s.agenda }) h'.same
  ⟨hu.trans h.same⟩

theorem State.QueriesOnly.foldl {α : Type} {g : State → α → State} (hg : ∀ s x, State.QueriesOnly s (g s x)) (l : List α) :
    s.QueriesOnly (l.foldl g s) :=
  List.foldlRecOn l g (motive := s.QueriesOnly) ⟨rfl⟩ fun _ ht x _ => ht.trans (hg _ x)

theorem State.ask_queriesOnly {n asid va c} : s.QueriesOnly (s.ask n asid va c) := by
  unfold State.ask; split <;> exact ⟨rfl⟩

theorem State.askAgain_queriesOnly {y : TlbQ} : s.QueriesOnly (s.askAgain y) := by
  unfold State.askAgain
  split
  · exact .trans (t := { s with queries := s.queries.filter fun z => z.id != y.id }) ⟨rfl⟩ State.ask_queriesOnly
  · exact ⟨rfl⟩

theorem State.nextQuery_queriesOnly {h : Nat × Nat} : s.QueriesOnly (s.nextQuery h) := by
  unfold State.nextQuery; split <;> exact ⟨rfl⟩

theorem State.sendAnswer_queriesOnly {y : TlbQ} {x : Option TlbEntry} : s.QueriesOnly (s.sendAnswer y x) := by
  unfold State.sendAnswer
  refine .trans ?_ State.nextQuery_queriesOnly
  split <;> exact ⟨rfl⟩

/-- Asking a die's queries again drops its walks and changes no more than queries do. -/
theorem State.requery_queriesOnly {d : Nat} : State.QueriesOnly { s with walks := s.walks.filter fun w => w.die != d } (s.requery d) := by
  unfold State.requery
  refine State.QueriesOnly.trans (State.QueriesOnly.trans ?_ (.foldl (fun _ _ => State.askAgain_queriesOnly) _))
    (.foldl (fun s y => ?_) _)
  · exact ⟨rfl⟩
  · split
    · exact State.sendAnswer_queriesOnly
    · exact State.sendAnswer_queriesOnly
    · exact ⟨rfl⟩

@[simp] theorem State.requery_entries (d : Nat) : (s.requery d).entries = s.entries :=
  (congrArg State.entries (requery_queriesOnly (s := s) (d := d)).same :)
@[simp] theorem State.requery_regions (d : Nat) : (s.requery d).regions = s.regions :=
  (congrArg State.regions (requery_queriesOnly (s := s) (d := d)).same :)
@[simp] theorem State.requery_mem (d : Nat) : (s.requery d).mem = s.mem :=
  (congrArg State.mem (requery_queriesOnly (s := s) (d := d)).same :)
@[simp] theorem State.requery_iod (d : Nat) : (s.requery d).iod = s.iod :=
  (congrArg State.iod (requery_queriesOnly (s := s) (d := d)).same :)
@[simp] theorem State.requery_tile (d t : Nat) : (s.requery d).tile t = s.tile t :=
  (congrArg (State.tile · t) (requery_queriesOnly (s := s) (d := d)).same :)
@[simp] theorem State.requery_seqr (d q : Nat) : (s.requery d).seqr q = s.seqr q :=
  (congrArg (State.seqr · q) (requery_queriesOnly (s := s) (d := d)).same :)
@[simp] theorem State.requery_die (d n : Nat) : (s.requery d).die n = s.die n :=
  (congrArg (State.die · n) (requery_queriesOnly (s := s) (d := d)).same :)
@[simp] theorem State.requery_creqs (d : Nat) : (s.requery d).creqs = s.creqs :=
  (congrArg State.creqs (requery_queriesOnly (s := s) (d := d)).same :)
@[simp] theorem State.requery_misses (d : Nat) : (s.requery d).misses = s.misses :=
  (congrArg State.misses (requery_queriesOnly (s := s) (d := d)).same :)
@[simp] theorem State.requery_pending (d : Nat) : (s.requery d).pending = s.pending :=
  (congrArg State.pending (requery_queriesOnly (s := s) (d := d)).same :)
@[simp] theorem State.requery_walks (d : Nat) : (s.requery d).walks = s.walks.filter fun w => w.die != d :=
  (congrArg State.walks (requery_queriesOnly (s := s) (d := d)).same :)

end Queries

/-! ## Rails (R12, R91) -/

section Rails
variable {s : State} {l : List Rail}

/-- Of the prefixes of the rails' order only the whole has four rails. -/
theorem eq_railOrder_of_length {rs : List Rail} (h : rs = railOrder.take rs.length) (hl : rs.length = 4) : rs = railOrder := by
  rw [hl] at h; exact h

/-- No rail rises. -/
theorem execPowerUp_no_rails (h : ∀ l, s.ext ≠ .rails l) : execPowerUp s = .next s := by
  unfold execPowerUp
  split
  · exact absurd ‹_› (h _)
  · rfl

/-- Rails out of order, or a state that has seen them so. -/
theorem execPowerUp_out_of_order (h : s.ext = .rails l)
    (hbad : s.iod.powerSeq = true ∨ s.iod.rails ++ l ≠ railOrder.take (s.iod.rails ++ l).length) :
    execPowerUp s = .next { s with iod := { s.iod with rails := s.iod.rails ++ l, powerSeq := true, dstate := 0x155 } } := by
  have hb : (s.iod.powerSeq || s.iod.rails ++ l != railOrder.take (s.iod.rails ++ l).length) = true := by simpa using hbad
  simp only [execPowerUp, h, hb]
  simp [State.updIod, h]

/-- The last rail in its order. -/
theorem execPowerUp_complete (h : s.ext = .rails l) (hseq : s.iod.powerSeq = false) (hall : s.iod.rails ++ l = railOrder)
    (hnew : s.iod.rails ≠ railOrder) :
    execPowerUp s = .next { s with iod := { s.iod with
      rails := railOrder, powerSeq := false, dstate := 0x2AA, powerUps := s.iod.powerUps + 1
      measured := (List.range 7).map fun k => Config.measurement (k + 1) (s.iod.powerUps + 1) } } := by
  have hb : (railOrder != railOrder.take railOrder.length) = false := by decide
  simp only [execPowerUp, h, hall, hseq, hb, Bool.or_self]
  simp [State.updIod, h, hnew, show railOrder.length = 4 from rfl]

/-- A rail in its order that is not the last, or none at all. -/
theorem execPowerUp_in_order (h : s.ext = .rails l) (hseq : s.iod.powerSeq = false)
    (hord : s.iod.rails ++ l = railOrder.take (s.iod.rails ++ l).length)
    (hpart : s.iod.rails ++ l ≠ railOrder ∨ s.iod.rails = railOrder) :
    execPowerUp s = .next { s with iod := { s.iod with rails := s.iod.rails ++ l } } := by
  have hb : (s.iod.rails ++ l != railOrder.take (s.iod.rails ++ l).length) = false := by rw [← hord]; simp
  have hup : ((s.iod.rails ++ l).length == 4 && s.iod.rails != railOrder) = false := by
    rcases hpart with hne | heq
    · have hlen : (s.iod.rails ++ l).length ≠ 4 := fun h4 => hne (eq_railOrder_of_length hord h4)
      rw [beq_eq_false_iff_ne.2 hlen, Bool.false_and]
    · simp [heq]
  simp only [execPowerUp, h, hseq, hb, hup, Bool.or_self, Bool.not_false, Bool.true_and]
  simp [State.updIod, h]

end Rails

/-! ## Die reset and release (R92, R390) -/

/-- A bit of a field: the bit it stands at, within the field's width. -/
theorem testBit_field {x lo n i : Nat} : (field x lo n).testBit i = (decide (i < n) && x.testBit (lo + i)) := by
  rw [field, Nat.testBit_mod_two_pow, Nat.testBit_div_two_pow, Nat.add_comm]

/-- The bits of a number one field of which has been written over. -/
theorem testBit_setField {x lo w v : Nat} (hv : v < 2 ^ w) (i : Nat) :
    (x - field x lo w * 2 ^ lo + v * 2 ^ lo).testBit i = if lo ≤ i ∧ i < lo + w then v.testBit (i - lo) else x.testBit i := by
  have hx := Nat.div_add_mod x (2 ^ lo)
  have ha := Nat.div_add_mod (x / 2 ^ lo) (2 ^ w)
  have hl : x % 2 ^ lo < 2 ^ lo := Nat.mod_lt _ (by positivity)
  have hf : field x lo w < 2 ^ w := Nat.mod_lt _ (by positivity)
  rw [← field] at ha
  generalize x / 2 ^ lo / 2 ^ w = a at ha
  rw [← ha] at hx
  have hnew : x - field x lo w * 2 ^ lo + v * 2 ^ lo = 2 ^ lo * (2 ^ w * a + v) + x % 2 ^ lo := by
    have h1 : 2 ^ lo * (2 ^ w * a + field x lo w) = 2 ^ lo * (2 ^ w * a) + field x lo w * 2 ^ lo := by ring
    have h2 : 2 ^ lo * (2 ^ w * a + v) = 2 ^ lo * (2 ^ w * a) + v * 2 ^ lo := by ring
    omega
  have hold : x.testBit i = (2 ^ lo * (2 ^ w * a + field x lo w) + x % 2 ^ lo).testBit i := by rw [hx]
  rw [hnew, hold, Nat.testBit_two_pow_mul_add _ hl, Nat.testBit_two_pow_mul_add _ hl]
  by_cases h1 : i < lo
  · simp [h1, h1.not_ge]
  · rw [if_neg h1, if_neg h1, Nat.testBit_two_pow_mul_add _ hv, Nat.testBit_two_pow_mul_add _ hf]
    by_cases h2 : i < lo + w
    · rw [if_pos (by omega), if_pos (by omega)]
    · rw [if_neg (by omega), if_neg (by omega), if_neg (by omega)]

/-- A field written over reads what was written. -/
theorem field_setField_same {x lo w v : Nat} (hv : v < 2 ^ w) : field (x - field x lo w * 2 ^ lo + v * 2 ^ lo) lo w = v := by
  apply Nat.eq_of_testBit_eq
  intro i
  rw [testBit_field, testBit_setField hv]
  by_cases hi : i < w
  · simp [hi]
  · simp [hi, Nat.testBit_lt_two_pow (hv.trans_le (Nat.pow_le_pow_right two_pos (not_lt.1 hi)))]

/-- A field beside the one written over reads as before. -/
theorem field_setField_other {x lo w v b c : Nat} (hv : v < 2 ^ w) (hb : b + c ≤ lo ∨ lo + w ≤ b) :
    field (x - field x lo w * 2 ^ lo + v * 2 ^ lo) b c = field x b c := by
  apply Nat.eq_of_testBit_eq
  intro i
  rw [testBit_field, testBit_field, testBit_setField hv]
  by_cases hi : i < c
  · rw [if_neg (by omega)]
  · simp [hi]

/-- Writing a field over stays within the width of a word that holds the field. -/
theorem setField_lt {x lo w v n : Nat} (hv : v < 2 ^ w) (hx : x < 2 ^ n) (hn : lo + w ≤ n) :
    x - field x lo w * 2 ^ lo + v * 2 ^ lo < 2 ^ n := by
  apply Nat.lt_pow_two_of_testBit
  intro i hi
  rw [testBit_setField hv, if_neg (by omega)]
  exact Nat.testBit_lt_two_pow (hx.trans_le (Nat.pow_le_pow_right two_pos hi))

/-- Completions go out in order and change nothing else. -/
theorem State.foldl_say {α : Type} (f : α → OutMsg) (l : List α) (s : State) :
    l.foldl (fun s x => s.say (f x)) s = { s with out := s.out ++ l.map f } := by
  induction l generalizing s with
  | nil => simp
  | cons x l ih => rw [List.foldl_cons, ih]; simp [State.say]

/-- The invalidations that every die has acked leave, each with its completion. -/
theorem State.invalDone_eq (s : State) : s.invalDone =
    { s with
      iod := { s.iod with invals := s.iod.invals.dropWhile fun x => x.acks == 0 }
      out := s.out ++ (s.iod.invals.takeWhile fun x => x.acks == 0).map fun x => .completion x.frame.seq 0 [] } :=
  State.foldl_say _ _ _

theorem Tile.dieReset_of_dead {x : Tile} (h : x.st = .dead) : x.dieReset = { Tile.reset with
    st := .dead, lte := x.lte, reg := x.reg, lpos := x.lpos, fails := x.fails } := by
  simp [Tile.dieReset, h]

theorem Tile.dieReset_of_not_dead {x : Tile} (h : x.st ≠ .dead) : x.dieReset = Tile.reset := by
  unfold Tile.dieReset
  split
  · contradiction
  · rfl

/-- What a die reset leaves of a die: its records, its clock and its power registers (R390). -/
def Die.afterReset (x : Die) : Die :=
  { Die.reset with
    mailbox := x.mailbox, fifo := x.fifo, lostNext := x.lostNext, clock := x.clock, updates := x.updates, plim := x.plim, estep := x.estep }

/-- Die `d` reset, its launches killed: DSTATE and the failover bit, the acks awaited, its tiles, sequencers and caches (R92, R390). Only
the TLB queries it has lost are still to be asked again. -/
def State.dieCleared (k : State) (d : BitVec 2) : State :=
  let n := d.toNat
  let ds := k.iod.dstate.toNat
  let waits := k.iod.invals.map fun (x : Inval) => { x with acks := x.acks &&& ~~~ BitVec.twoPow 4 n }
  { k with
    iod := { k.iod with
      dstate := BitVec.ofNat 32 (ds - field ds (2 * n) 2 * 2 ^ (2 * n) + 2 ^ (2 * n)), failover := k.iod.failover ||| BitVec.twoPow 4 n
      invals := waits.dropWhile fun x => x.acks == 0 }
    out := k.out ++ (waits.takeWhile fun x => x.acks == 0).map fun x => .completion x.frame.seq 0 []
    tiles := SMap.mapV Tile.reset (fun t x => if dieOf t = n then x.dieReset else x) k.tiles
    seqrs := SMap.mapV Seqr.reset (fun q x => if q / 96 = n then Seqr.reset else x) k.seqrs
    dies := SMap.set Die.reset k.dies n (k.die n).afterReset
    creqs := k.creqs.filter fun r => r.die != n
    misses := k.misses.filter fun m => m.die != n
    packets := k.packets.filter fun p => p.toDie != n || p.toPort || p.isUpdate
    taken := k.taken.filter fun p => dieOf p.tile != n
    pending := k.pending.filter fun p => p.2.1 != .dieLive d }

section DieReset
variable {s k : State} {d : BitVec 2}

/-- DIE_RESET: the die's launches killed, the die cleared, its lost queries asked again. -/
theorem execDieReset_eq : execDieReset d s =
    .next (State.requery (State.dieCleared ((s.launchesOn d.toNat).foldl (fun s e => s.kill e) s) d) d.toNat) := by
  unfold execDieReset
  extract_lets n k ds awaited unawaited
  have hacks : awaited.invalDone = { k with iod := (k.dieCleared d).iod, out := (k.dieCleared d).out } := State.invalDone_eq awaited
  have htiles : unawaited = { k with
      iod := (k.dieCleared d).iod, out := (k.dieCleared d).out, tiles := (k.dieCleared d).tiles } := by
    simp only [unawaited, hacks]; rfl
  clear_value unawaited
  subst htiles
  rfl

theorem State.Canon.dieCleared_tile (h : k.Canon) (t : Nat) :
    (k.dieCleared d).tile t = if dieOf t = d.toNat then (k.tile t).dieReset else k.tile t :=
  h.tile_mapTiles (f := fun t x => if dieOf t = d.toNat then x.dieReset else x) (by simp [Tile.dieReset, Tile.reset])

theorem State.Canon.dieCleared_seqr (h : k.Canon) (q : Nat) :
    (k.dieCleared d).seqr q = if q / 96 = d.toNat then Seqr.reset else k.seqr q :=
  h.seqr_mapSeqrs (f := fun q x => if q / 96 = d.toNat then Seqr.reset else x) (by simp)

theorem State.Canon.dieCleared_die (h : k.Canon) : (k.dieCleared d).die d.toNat = (k.die d.toNat).afterReset :=
  h.die_setDie.trans (if_pos rfl)

/-- DSTATE shows RESET for the die and is as before for every other. -/
theorem State.dieCleared_dstate {j : Nat} (hj : j < 5) : field (k.dieCleared d).iod.dstate.toNat (2 * j) 2 =
    if j = d.toNat then 1 else field k.iod.dstate.toNat (2 * j) 2 := by
  have hd : d.toNat < 4 := d.isLt
  have hone : 1 < 2 ^ 2 := by decide
  have hwrite := Nat.mod_eq_of_lt (setField_lt (lo := 2 * d.toNat) hone k.iod.dstate.isLt (by omega))
  have hsame := field_setField_same (x := k.iod.dstate.toNat) (lo := 2 * d.toNat) hone
  have hother := field_setField_other (x := k.iod.dstate.toNat) (lo := 2 * d.toNat) (b := 2 * j) (c := 2) hone
  rw [Nat.one_mul] at hwrite hsame hother
  simp only [State.dieCleared, BitVec.toNat_ofNat, hwrite]
  split
  · subst j; exact hsame
  · exact hother (by omega)

/-- No invalidation awaits the die's ack. -/
theorem State.dieCleared_acks : ∀ x ∈ (k.dieCleared d).iod.invals, x.acks.getLsbD d.toNat = false := by
  intro x hx
  obtain ⟨y, -, rfl⟩ := List.mem_map.1 ((List.dropWhile_sublist _).subset hx)
  simp [BitVec.getLsbD_twoPow]

end DieReset

/-- DIE_LIVE with the package's power in order: measured and LIVE, and back from its backups or later again. -/
theorem execDieLive_powered {s : State} (d : BitVec 2) (hseq : s.iod.powerSeq = false) (hrails : s.iod.rails = railOrder) :
    let n := d.toNat
    let ds := s.iod.dstate.toNat
    let u := { s with iod := { s.iod with
      dstate := BitVec.ofNat 32 (ds - ds / 2 ^ (2 * n) % 4 * 2 ^ (2 * n) + 2 * 2 ^ (2 * n))
      measured := s.iod.measured.set (3 + n) (Config.measurement (4 + n) s.iod.powerUps) } }
    execDieLive d s = .next (if s.iod.invals = [] then
      { u with iod := { u.iod with failover := u.iod.failover &&& ~~~ BitVec.twoPow 4 n } }
    else u.later (.dieLive d)) := by
  simp only [execDieLive, hseq, hrails, State.updIod, field, List.isEmpty_iff]
  simp

end Sys2Proof.Machine

open Sys2Proof Sys2Proof.Machine

/-- Settles O60: each way the rails come up by `execPowerUp`'s case, a kill by what the launch's entry is left with, a die reset by the tables of
`State.dieCleared`, which asking the lost queries again does not change. -/
theorem powerDomain : Obligations.PowerDomain := by
  refine ⟨rfl, ?_, ?_, ?_, ?_, ?_, ?_, ?_, ?_, ?_⟩
  · exact fun s h => execPowerUp_no_rails h
  · exact fun s l h hbad => execPowerUp_out_of_order h hbad
  · exact fun s l h hseq hall hnew => execPowerUp_complete h hseq hall hnew
  · exact fun s l h hseq hord hpart => execPowerUp_in_order h hseq hord hpart
  · exact fun s => rfl
  · intro s e h
    obtain ⟨hst, hkilled, hstatus, hleft⟩ := h.kill_retires (e := e)
    exact ⟨hst, hkilled, hstatus, fun k hk => .inl (hleft k hk)⟩
  · intro d s h n k
    have hk : k.Canon := foldl_canon h fun _ _ => canon_kill
    refine ⟨(k.dieCleared d).requery n, execDieReset_eq, ?_⟩
    simp only [State.requery_entries, State.requery_regions, State.requery_mem, State.requery_iod, State.requery_tile, State.requery_seqr,
      State.requery_die, State.requery_creqs, State.requery_misses, State.requery_walks, State.requery_pending,
      hk.dieCleared_tile, hk.dieCleared_seqr]
    refine ⟨rfl, rfl, rfl, fun j => State.dieCleared_dstate, rfl, State.dieCleared_acks, fun t ht => if_neg ht,
      fun t ht hdead => ?_, fun t ht hdead => ?_, fun q => rfl, hk.dieCleared_die, ?_, ?_, ?_, ?_⟩
    · rw [if_pos ht, Tile.dieReset_of_dead hdead]
    · rw [if_pos ht, Tile.dieReset_of_not_dead hdead]
    · simp [State.dieCleared, n]
    · simp [State.dieCleared, n]
    · simp
    · simp [State.dieCleared]
  · intro d s hoff
    simp only [exec_dieLive, execDieLive, if_pos hoff]
  · exact fun d s => execDieLive_powered d

end

section
/-! PROOFS. Gates, engine starts, hold budgets, timers, waits and FIFOs: each event of a tile by its outcomes. -/

namespace Sys2Proof.Machine

/-! ## The hold budget (R25, R145) -/

section Budget
variable {s : State} {r u : Nat} {us : List Nat}

/-- A region is over its budget when it runs, has used the budget up, and this tick's hold is one that counts. -/
theorem State.mem_overBudget : r ∈ s.overBudget ↔ r ∈ s.runningRegions ∧
    (s.hdrOf (s.region r).entry).holdb ≤ (s.region r).holdc.toNat ∧ s.commits.1.asksNow.isCounted r = true := by
  have hfilter : s.overBudget = (s.runningRegions.filter s.budgetFull).filter s.commits.1.asksNow.isCounted := by
    unfold State.overBudget
    extract_lets full
    split
    case isTrue hnone => rw [show s.runningRegions.filter s.budgetFull = [] from List.isEmpty_iff.1 hnone, List.filter_nil]
    case isFalse => rfl
  rw [hfilter, List.mem_filter, List.mem_filter, and_assoc, State.budgetFull, decide_eq_true_iff]

theorem State.isCounted_iff : s.isCounted r = true ↔
    s.holds r = true ∧ s.rdvWaits r = false ∧ s.pkgHeld r = false ∧ s.handlerTick r = false := by
  simp only [State.isCounted, Bool.and_eq_true, Bool.not_eq_true', and_assoc]

theorem execHoldBudget_within (h : r ∉ s.overBudget) : execHoldBudget r s = .next s := by
  simp [execHoldBudget, h]

theorem execHoldBudget_no_tiles (h : (s.region r).tiles = []) : execHoldBudget r s = .next s := by
  simp [execHoldBudget, h]

/-- The trap goes to the first tile that asks for a hold; where none does, to the region's first. -/
theorem execHoldBudget_over (h : r ∈ s.overBudget) (htiles : (s.region r).tiles = u :: us) : execHoldBudget r s =
    .next (s.raiseExt (((s.region r).tiles.find? s.commits.1.asksNow.asksHold).getD u) 0x12 s.anyInfo s.anyAddr).spend := by
  have hfirst : (s.region r).tiles.head? = some u := by rw [htiles]; rfl
  simp only [execHoldBudget, List.contains_iff_mem.2 h, hfirst]
  cases (s.region r).tiles.find? s.commits.1.asksNow.asksHold <;> rfl

end Budget

/-! ## Waits and FIFOs (R181, R312, R366) -/

section Waits
variable {s : State} {t src : Nat} {b : Barr}

/-- A decrement may go once its BARRIVE lets it and no access it waits for is outstanding in either stream. -/
theorem State.barrReady_iff : s.barrReady t b = true ↔
    b.free = true ∧ ∀ k ∈ b.waits, k ∉ s.outstanding t .primary ∧ k ∉ s.outstanding t .secondary := by
  simp [State.barrReady]

theorem execWaitiWake_eq : execWaitiWake t s =
    .next (if (s.tile t).ip &&& (s.tile t).ie.setWidth 8 = 0 then s else s.updHm t fun h => { h with waiting := false }) := by
  simp only [execWaitiWake, ne_eq, ite_not]

/-- A FIFO that holds no record, or finds no entry free, is left as it is. -/
theorem execEventFifoDrain_eq : execEventFifoDrain src s =
    let f := s.holding src
    let d := drainFifo src f.1 f.2 s.iod.queue
    .next (if f.1 = [] ∨ freeEntry s.iod.queue src = none then s
      else State.setHolding { s with iod := { s.iod with queue := d.1 } } src d.2) := by
  unfold execEventFifoDrain
  extract_lets f d
  cases hrecs : f.1 with
  | nil => simp
  | cons r rs => simp only [Option.isNone_iff_eq_none, reduceCtorEq, false_or]; split <;> simp [d, hrecs]

end Waits

end Sys2Proof.Machine

open Sys2Proof Sys2Proof.Machine

/-- Settles O45: each event of a tile by its outcomes; the hold budget by who is over it, and the FIFOs by whether a record waits and an
entry is free. -/
theorem tileTimers : Obligations.TileTimers := by
  refine ⟨fun t s => rfl, fun t far s h => ?_, fun t s h => ?_, fun t s h => ?_, fun s r => State.mem_overBudget,
    fun s r => propext State.isCounted_iff, fun r s => execHoldBudget_within, fun r s => execHoldBudget_no_tiles,
    fun r s u us => execHoldBudget_over, fun t s => rfl, fun t s => execWaitiWake_eq, fun t sec s => rfl,
    fun s t b => propext State.barrReady_iff, fun s t => rfl, fun src s => execEventFifoDrain_eq⟩
  · simp [execEngineCommandStart, h]
  · simp [execEngineCommandStart, h]
  · simp [execEngineCommandStart, h]

end

section
/-! PROOFS. Stretches, the amounts that move a job's targets, notices, job holds and the thermal hold: each by its cases. -/

namespace Sys2Proof.Machine

/-! ## Supersteps (R71, R376, R377) -/

section Stretch
variable {plim energy span x : Nat}

theorem stretchOf_of_within (h : plim = 0 ∨ energy * 800 ≤ plim * span) : stretchOf plim energy span = 0 := if_pos h

/-- The energy is within the limit of a span once the span is as long as the energy divided by the limit, rounded up. -/
theorem within_iff_ceilDiv_le (hp : plim ≠ 0) : energy * 800 ≤ plim * x ↔ (energy * 800 + plim - 1) / plim ≤ x := by
  rw [← Nat.ceilDiv_eq_add_pred_div]
  exact (ceilDiv_le_iff_le_mul (Nat.pos_of_ne_zero hp)).symm

/-- The ticks still needed, rounded up to a multiple of 1,024, 2^20 at most; none are where the energy is within the limit already. -/
theorem stretchOf_eq_min (hp : plim ≠ 0) : stretchOf plim energy span =
    min (2 ^ 20) (((energy * 800 + plim - 1) / plim - span + 1023) / 1024 * 1024) := by
  unfold stretchOf
  split
  case isTrue h =>
    have hle := (within_iff_ceilDiv_le hp).1 (h.resolve_left hp)
    rw [Nat.sub_eq_zero_of_le hle, Nat.min_zero]
  case isFalse => rfl

/-- A stretch is the least multiple of 1,024 ticks that brings the energy within the limit, cut off at 2^20. -/
theorem stretchOf_least (hp : plim ≠ 0) : stretchOf plim energy span % 1024 = 0 ∧ stretchOf plim energy span ≤ 2 ^ 20 ∧
    (stretchOf plim energy span = 2 ^ 20 ∨ energy * 800 ≤ plim * (span + stretchOf plim energy span)) ∧
    ∀ y, y % 1024 = 0 → energy * 800 ≤ plim * (span + y) → stretchOf plim energy span ≤ y := by
  simp only [within_iff_ceilDiv_le hp, stretchOf_eq_min hp]
  generalize (energy * 800 + plim - 1) / plim = c
  refine ⟨?_, ?_, ?_, fun y hy hc => ?_⟩ <;> omega

end Stretch

section Rdv
variable {s : State} {r t : Nat}

theorem execRdvLeave_no_wait (h : (s.region r).rdv = none) : execRdvLeave r s = .next s := by
  simp only [execRdvLeave, h]

theorem execRdvLeave_early (h : (s.region r).rdv = some t) (hearly : s.ptime.toNat < t ∨ (s.region r).runs = false) :
    execRdvLeave r s = .next s := by
  simp only [execRdvLeave, h]
  exact if_pos (by simpa using hearly)

theorem execRdvLeave_due (h : (s.region r).rdv = some t) (hdue : t ≤ s.ptime.toNat) (hruns : (s.region r).runs = true) :
    let u := (s.meetClocks r t).updRegion r fun y => { y with rdv := none, exch := some (t, y.rtime) }
    execRdvLeave r s = .next (if (u.entry (s.region r).entry).lastRdv = some t then u else u.superstep (s.region r).entry t) := by
  simp only [execRdvLeave, h, beq_iff_eq]
  exact if_neg (by simpa [hruns] using hdue)

theorem State.superstep_first {e : BitVec 8} (h : (s.entry e).lastRdv = none) :
    s.superstep e t = s.updEntry e fun y => { y with lastRdv := some t } := by
  simp only [State.superstep, h]

theorem State.superstep_next {e : BitVec 8} {t0 : Nat} (h : (s.entry e).lastRdv = some t0) :
    let u := (List.range 4).foldl (fun s d => s.updDie d fun y => { y with estep := Config.energy d t0 t })
      (s.updEntry e fun y => { y with lastRdv := some t })
    let ask := ((List.range 4).map fun d => stretchOf (u.die d).plim.toNat (u.die d).estep.toNat (t - t0)).foldl max 0
    s.superstep e t = if ask = 0 then u else u.say (.stretch (s.entry e).job ask) := by
  simp only [State.superstep, h]

end Rdv

/-! ## Amounts (R323, R377 to R379, R381) -/

section Amounts
variable {s : State} {e : BitVec 8} {tb : Nat}

/-- No region of the launch waits for a target as late as `tb`. -/
theorem State.waitedFrom_eq_none (h : ∀ k ∈ s.keysOf e, ∀ t, (s.region k).rdv = some t → t < tb) : s.waitedFrom e tb = none := by
  refine List.foldlRecOn (motive := (· = none)) _ _ rfl fun m hm k hk => ?_
  subst hm
  cases hrdv : (s.region k).rdv with
  | none => rfl
  | some t => simp [h k hk t hrdv]

theorem State.meetWaiting_of_none_waits (h : ∀ k ∈ s.keysOf e, ∀ t, (s.region k).rdv = some t → t < tb) : s.meetWaiting e tb = s := by
  simp only [State.meetWaiting, State.waitedFrom_eq_none h]

/-- The kinds whose amounts move the target itself are 0, 2, 3 and 4; a hold's length moves the later ones by what kind 4 has not yet. -/
theorem Entry.meets_eq (x : Entry) (t base own : Nat) :
    let k := kindSum (x.waitTb.filter fun w => decide (w.1 ≤ base))
    (x.meets t base own).1 = k 0 + k 2 + k 3 + k 4 ∧
    (x.meets t base own).2.pstr = x.pstr + (own + (k 0 + k 2 + k 3 + k 4) + (k 1 - k 4)) ∧
    (x.meets t base own).2.waitTb = x.waitTb.filter fun w => decide (base < w.1) := by
  have hsum : ∀ f : Nat → Nat, ([0, 2, 3].map f).sum + f 4 = f 0 + f 2 + f 3 + f 4 := fun f => by simp [Nat.add_assoc]
  intro k
  rw [← hsum k]
  exact ⟨rfl, rfl, rfl⟩

end Amounts

/-! ## Notices (R325, R377, R384, R385) -/

/-- A step that takes its notice and acts on it, or, with none in hand, does nothing. -/
def State.onNotice (s : State) (g : Notice → State → State) : Out :=
  match s.ext with
  | .notice n => .next (g n s)
  | _ => .next s

section Notices
variable {s : State} {g : Notice → State → State}

theorem State.onNotice_of_notice {n : Notice} (h : s.ext = .notice n) : s.onNotice g = .next (g n s) := by
  simp only [State.onNotice, h]

theorem State.onNotice_of_none (h : ∀ n, s.ext ≠ .notice n) : s.onNotice g = .next s := by
  unfold State.onNotice
  split
  · exact absurd ‹_› (h _)
  · rfl

/-- An overrun leaves its record for each launch of the job. -/
def State.overrunRecords (s : State) (n : Notice) : State :=
  (s.jobEntries n.job).foldl (fun s e => (s.packageCause 4 e 0x22 s.anyInfo s.anyAddr).spend) s

/-- A release ends the open holds of its job. -/
def State.endOpenHolds (s : State) (n : Notice) : State :=
  { s with jobHolds := s.jobHolds.filter fun h => !(h.job == n.job && h.open_) }

/-- The tasks of the launches of a job that run or are parked start again. -/
def State.restartJob (s : State) (n : Notice) : State :=
  ((s.jobEntries n.job).filter fun e => (s.entry e).st == .running || (s.entry e).st == .parked).foldl
    (fun s e => (s.requeue e (max n.tick s.ptime.toNat)).save e []) s

theorem execStretchResult_eq : execStretchResult s = s.onNotice fun n s => s.amount n.job n.tick 0 n.amount := rfl

theorem execDisplacementNotice_eq : execDisplacementNotice s =
    s.onNotice fun n s => s.amount n.job n.tick (if n.inTime = true then 2 else 3) n.amount := rfl

theorem execFlitRetry_eq : execFlitRetry s =
    s.onNotice fun n s => if n.inTime = true then s else (s.after s.delay .overrunNotice (.notice n)).spend := rfl

theorem execOverrunNotice_eq : execOverrunNotice s =
    s.onNotice fun n s => ((s.overrunRecords n).addJobHold n.job n.tick n.amount false).amount n.job n.tick 1 n.amount := rfl

theorem execJobHoldNotice_eq : execJobHoldNotice s = s.onNotice fun n s => s.addJobHold n.job n.tick 0 true := rfl

theorem execJobReleaseNotice_eq : execJobReleaseNotice s = s.onNotice fun n s => (s.endOpenHolds n).restartJob n := rfl

end Notices

/-! ## Job holds and tasks that start again (R95, R325) -/

section Holds
variable {s : State}

theorem State.addJobHold_eq (job : BitVec 32) (dt hl : Nat) (opened : Bool) :
    let tb := (((s.jobEntries job).filterMap fun e => s.waitedFrom e (dt + 131072)).map fun x => x.1).min?
    let u := { s with jobHolds := s.jobHolds ++ [⟨job, tb, dt, hl, none, opened, false⟩] }
    s.addJobHold job dt hl opened = tb.elim u fun t => u.after (t - u.ptime.toNat) (.jobHoldBegin job) := by
  unfold State.addJobHold
  extract_lets tb u
  cases tb <;> rfl

theorem State.requeue_eq (e : BitVec 8) (k : Nat) :
    let stays := (s.entry e).saving = true ∨ (s.entry e).st = .parked
    let y := fun (r : Region) => r.requeue k (s.parkedPages e)
    s.requeue e k = (s.discard e).mapRegions fun _ r =>
      if r.entry = e then (if stays then { y r with st := (y r).st.freeze } else y r) else r := by
  simp only [State.requeue, Bool.or_eq_true, beq_iff_eq]

theorem Region.requeue_of_busy {r : Region} {k : Nat} {ps : List Nat} (h : r.busy = true) : r.requeue k ps =
    { r with st := .waiting k, rdv := none, exch := none, held := false, awaits := ps, restart := some k } := if_pos h

theorem Region.requeue_of_not_busy {r : Region} {k : Nat} {ps : List Nat} (h : r.busy = false) :
    r.requeue k ps = { r with st := r.st.thaw } := if_neg (by simp [h])

end Holds

/-! ## The thermal hold (R24, R352, R380, R381) -/

section Thermal
variable {s : State} {b : Nat}

theorem State.thermalNews_quiet (h : s.iod.hotNews = none ∨ s.iod.hot = none ∨ ∃ b, s.iod.hot = some b ∧ s.ptime.toNat < b) :
    s.thermalNews = s := by
  unfold State.thermalNews
  split
  case h_1 => rfl
  case h_2 hnews =>
    obtain hnone | hhot | ⟨b, hhot, hb⟩ := h
    · cases hnone.symm.trans hnews
    · simp [hhot]
    · simp [hhot, hb]

/-- The record of a hold on its first tick. -/
def State.hotRecord (s : State) (die : Nat) (top : Int) : EvRec :=
  { EvRec.package s 5 with code := 0x1F, info := BitVec.ofNat 8 die, addr := BitVec.ofInt 64 top }

theorem State.thermalNews_first {die : Nat} {top : Int} (hnews : s.iod.hotNews = some (die, top)) (hhot : s.iod.hot = some b)
    (hb : b ≤ s.ptime.toNat) :
    let u := { s with iod := { s.iod with hotNews := none } }
    s.thermalNews = (u.packageAct 5 (u.hotRecord die top)).spend := by
  simp only [State.thermalNews, hnews, hhot]
  exact if_neg (by simpa using hb)

theorem State.sensorTick_between (h : s.ptime.toNat % 1024 ≠ 0) : s.sensorTick = s := if_pos h

/-- A hold from the next tick on, with the reading that began it to be recorded then. -/
def State.beginHot (s : State) : State :=
  State.after { s with iod := { s.iod with
    hot := some (s.ptime.toNat + 1), hotNews := some (firstAbove s.iod.temps s.iod.temerg, s.iod.temps.foldl max 0) } } 1 .sensorRead

/-- The end of the hold that began on tick `b`, its length given to every running job. -/
def State.endHot (s : State) (b : Nat) : State :=
  let now := s.ptime.toNat
  let hl := (now + 1 - b + 1023) / 1024 * 1024
  let jobs := ((s.entries.filter fun e => e.2.st == .running).map fun e => e.2.job).dedup
  jobs.foldl (fun s j => (s.amount j now 4 hl).say (.overrun j now hl))
    { s with iod := { s.iod with hot := none, cooled := s.iod.cooled ++ [(b, now + 1)] } }

/-- With no hold under way, a reading above the limit begins one. -/
theorem State.sensorTick_of_not_hot (h : s.ptime.toNat % 1024 = 0) (hhot : s.iod.hot = none) :
    s.sensorTick = if ∀ x ∈ s.iod.temps, x ≤ s.iod.temerg then s else s.beginHot := by
  simp only [State.sensorTick, h, hhot, List.all_eq_true, decide_eq_true_eq]
  rfl

/-- A hold ends when it has lasted 16,384 ticks and every reading is 5 degrees below the limit. -/
theorem State.sensorTick_of_hot (h : s.ptime.toNat % 1024 = 0) (hhot : s.iod.hot = some b) :
    s.sensorTick = if b + 16384 ≤ s.ptime.toNat ∧ ∀ x ∈ s.iod.temps, x ≤ s.iod.temerg - 5 then s.endHot b else s := by
  simp only [State.sensorTick, h, hhot, List.all_eq_true, decide_eq_true_eq, Bool.and_eq_true]
  rfl

/-- A hold holds a region from its stagger after the first tick on, and one that is over until its stagger after the last. -/
theorem State.hotHeld_iff {r : Nat} : let late := (s.hdrOf (s.region r).entry).stagger * (s.region r).idx
    s.hotHeld r = true ↔ (∃ b, s.iod.hot = some b ∧ b + late ≤ s.ptime.toNat) ∨
      ∃ w ∈ s.iod.cooled, w.1 + late ≤ s.ptime.toNat ∧ s.ptime.toNat < w.2 + late := by
  simp only [State.hotHeld, Bool.or_eq_true, Option.any_eq_true, List.any_eq_true, Bool.and_eq_true, decide_eq_true_eq]

end Thermal

end Sys2Proof.Machine

open Sys2Proof Sys2Proof.Machine

/-- Settles O55: the waits for an RDV by whether their target has come, a stretch by its least length, each notice by its effect, and the
sensors by whether a hold is under way. -/
theorem holdsAndNotices : Obligations.HoldsAndNotices := by
  refine ⟨fun r s => execRdvLeave_no_wait, fun r s t => execRdvLeave_early, fun r s t => execRdvLeave_due,
    fun s e t => State.superstep_first, fun s e t t0 => State.superstep_next,
    fun plim energy span => ⟨stretchOf_of_within, stretchOf_least⟩, fun s job tick kind => if_pos rfl,
    fun s job tick kind n hn => if_neg hn, fun s e tb => State.meetWaiting_of_none_waits, fun x t base own => x.meets_eq t base own,
    fun e s he hnone => ?_, fun s n hn => ?_, fun s => s.addJobHold_eq, fun s e k => s.requeue_eq e k,
    fun r k ps => ⟨fun hr => ?_, Region.requeue_of_not_busy⟩,
    fun s job => ⟨rfl, rfl⟩, fun s => rfl, fun s => State.thermalNews_quiet, fun s b die top hnews hhot hb => ?_,
    fun s => State.sensorTick_between, fun s h hhot hcool => ?_, fun s h hhot habove => ?_, fun s b h hhot hstays => ?_,
    fun s b h hhot hlong hcool => ?_, fun s r => State.hotHeld_iff⟩
  · obtain rfl | rfl | rfl | rfl | rfl | rfl := he
    · exact execStretchResult_eq.trans (State.onNotice_of_none hnone)
    · exact execDisplacementNotice_eq.trans (State.onNotice_of_none hnone)
    · exact execFlitRetry_eq.trans (State.onNotice_of_none hnone)
    · exact execOverrunNotice_eq.trans (State.onNotice_of_none hnone)
    · exact execJobHoldNotice_eq.trans (State.onNotice_of_none hnone)
    · exact execJobReleaseNotice_eq.trans (State.onNotice_of_none hnone)
  · exact ⟨execStretchResult_eq.trans (State.onNotice_of_notice hn), execDisplacementNotice_eq.trans (State.onNotice_of_notice hn),
      execFlitRetry_eq.trans (State.onNotice_of_notice hn), execOverrunNotice_eq.trans (State.onNotice_of_notice hn),
      execJobHoldNotice_eq.trans (State.onNotice_of_notice hn), execJobReleaseNotice_eq.trans (State.onNotice_of_notice hn)⟩
  · rw [Region.requeue_of_busy hr]
    exact ⟨rfl, rfl, rfl, rfl, rfl⟩
  · exact ⟨_, rfl, rfl, rfl, rfl, State.thermalNews_first hnews hhot hb⟩
  · rw [State.sensorTick_of_not_hot h hhot, if_pos hcool]
  · rw [State.sensorTick_of_not_hot h hhot, if_neg (by simpa using habove)]
    rfl
  · rw [State.sensorTick_of_hot h hhot, if_neg]
    rintro ⟨hlong, hcool⟩
    obtain hshort | ⟨x, hx, hwarm⟩ := hstays
    · omega
    · exact absurd (hcool x hx) (by omega)
  · rw [State.sensorTick_of_hot h hhot, if_pos ⟨hlong, hcool⟩]
    rfl

end

section
/-! PROOFS. Rounding a magnitude: exact where it is a multiple already, elsewhere its quotient or one more, by the rule of the mode. -/

namespace Sys2Proof.Machine

/-! ## Rounding (R52, R210) -/

section Rounding
variable {mode : Mode} {neg : Bool} {m n r d : Nat} {e q : Int}

theorem roundMag_of_le (h : q ≤ e) : roundMag mode neg m e q = (m * 2 ^ (e - q).toNat, false) := if_pos h

theorem roundMag_of_lt (h : e < q) : let d := 2 ^ (q - e).toNat
    roundMag mode neg m e q = (if roundsUp mode neg (m / d) (m % d) d = true then m / d + 1 else m / d, decide (0 < m % d)) :=
  if_neg (by omega)

/-- No mode rounds a multiple up. -/
theorem pos_of_roundsUp (hd : 0 < d) (h : roundsUp mode neg n r d = true) : 0 < r := by
  rcases Nat.eq_zero_or_pos r with rfl | hr
  · cases mode <;> simp [roundsUp, hd.ne] at h
  · exact hr

/-- The number nearest to `n + r / d`, the even one of two that are equally near. -/
theorem roundsUp_rne_nearest (hr : r < d) : let k := if roundsUp .rne neg n r d = true then n + 1 else n
    2 * k * d ≤ 2 * (d * n + r) + d ∧ 2 * (d * n + r) ≤ 2 * k * d + d ∧
      (2 * k * d = 2 * (d * n + r) + d ∨ 2 * (d * n + r) = 2 * k * d + d → k % 2 = 0) := by
  have hdown : 2 * n * d = 2 * (d * n) := by ring
  have hup : 2 * (n + 1) * d = 2 * (d * n) + 2 * d := by ring
  simp only [roundsUp, Bool.or_eq_true, Bool.and_eq_true, decide_eq_true_eq, beq_iff_eq]
  split
  · rw [hup]; omega
  · rw [hdown]; omega

/-- A negative number rounded downward has the magnitude rounded up. -/
theorem roundsUp_rdn_covers (hr : r < d) : d * n + r ≤ (if roundsUp .rdn true n r d = true then n + 1 else n) * d := by
  simp only [roundsUp, Bool.true_and, decide_eq_true_eq]
  split
  · rw [add_one_mul, mul_comm n]; omega
  · rw [mul_comm n]; omega

end Rounding

end Sys2Proof.Machine

open Sys2Proof Sys2Proof.Machine

/-- Settles O33: a magnitude that is no multiple is its quotient or one more, as `roundsUp` says of the remainder, mode by mode. -/
theorem rounding : Obligations.Rounding := by
  refine fun mode neg m e q => ⟨roundMag_of_le, fun h => ?_⟩
  simp only [roundMag_of_lt h]
  have hd : 0 < 2 ^ (q - e).toNat := Nat.two_pow_pos _
  generalize 2 ^ (q - e).toNat = d at hd ⊢
  have hr : m % d < d := Nat.mod_lt m hd
  have hm : m = d * (m / d) + m % d := (Nat.div_add_mod m d).symm
  refine ⟨by simp [Nat.pos_iff_ne_zero], ?_, ?_, ?_, ?_, ?_, fun w => ?_⟩
  · split
    case isTrue hup => exact .inr ⟨rfl, (pos_of_roundsUp hd hup).ne'⟩
    case isFalse => exact .inl rfl
  · rintro rfl; rfl
  · rintro rfl rfl; rfl
  · rintro rfl rfl
    exact hm.trans_le (roundsUp_rdn_covers hr)
  · rintro rfl
    simpa only [← hm] using roundsUp_rne_nearest (neg := neg) (n := m / d) hr
  · rintro rfl
    simp [roundsUp]

end

section
/-! PROOFS. The arithmetic of AC40: sums and products of NaR, of zero, and of finite values. -/

namespace Sys2Proof.Machine

/-! ## Sums and products in AC40 (R47, R49 to R51) -/

section Sums
variable {a b : BitVec 40}

theorem acAdd_of_NaR (h : acIsNaR a = true ∨ acIsNaR b = true) : acAdd a b = (acNaR, mNAR) := if_pos (by simpa using h)

theorem acAdd_of_finite (ha : acIsNaR a = false) (hb : acIsNaR b = false) : acAdd a b =
    ((rne30 ((acValue a).add (acValue b))).1, if (rne30 ((acValue a).add (acValue b))).2 = true then mOVF else 0) :=
  if_neg (by simp [ha, hb])

end Sums

section Products
variable {a b : BitVec 16}

theorem acProduct_of_NaR (h : a = flNaR ∨ b = flNaR) : acProduct a b = acNaR := if_pos (by simpa using h)

theorem acProduct_of_zero (ha : a ≠ flNaR) (hb : b ≠ flNaR) (h : a = flZero ∨ b = flZero) : acProduct a b = 0 := by
  rw [acProduct, if_neg (by simp [ha, hb]), if_pos (by simpa using h)]

/-- A product of finite values by the floor and the remainder of the sum of their L fields. -/
theorem acProduct_of_finite (ha : a ≠ flNaR) (hb : b ≠ flNaR) (hza : a ≠ flZero) (hzb : b ≠ flZero) : let p := flL a + flL b
    acProduct a b =
      (rne30 ⟨(if a.getLsbD 15 ≠ b.getLsbD 15 then -1 else 1) * (tTable (p % 256).toNat : Int), p / 256 - 15⟩).1 := by
  intro p
  have hfloor : Int.fdiv p 256 = p / 256 := Int.fdiv_eq_ediv_of_nonneg p (by norm_num)
  have hrest : p - 256 * (p / 256) = p % 256 := (Int.emod_def p 256).symm
  rw [acProduct, if_neg (by simp [ha, hb]), if_neg (by simp [hza, hzb])]
  simp only [p, hfloor, hrest, bne_iff_ne, ite_mul, neg_one_mul, one_mul]

end Products

end Sys2Proof.Machine

open Sys2Proof Sys2Proof.Machine

/-- Settles O39: a sum by whether an input is NaR, a product by whether a factor is NaR or zero. -/
theorem accumulatorArithmetic : Obligations.AccumulatorArithmetic :=
  ⟨fun _ _ => acAdd_of_NaR, fun _ _ => acAdd_of_finite, fun _ _ => acProduct_of_NaR, fun _ _ => acProduct_of_zero,
    fun _ _ => acProduct_of_finite, by decide⟩

end

section
/-! PROOFS. The rows of passes and loads: reads of tables written key by key, the columns of a pass row, and the engine after a row
enters, is written, or is loaded. -/

namespace Sys2Proof.Machine

/-! ## Tables written key by key -/

section Order
variable {V : Type} {d : V} {m : SMap V} {i : Nat}

/-- Strictly rising keys, whatever an unlisted key reads as: the order of a table whose default depends on the key. -/
def SMap.Rising (m : SMap V) : Prop := (m.map Prod.fst).Pairwise (· < ·)

theorem SMap.rising_cons {p : Nat × V} : SMap.Rising (p :: m) ↔ (∀ q ∈ m, p.1 < q.1) ∧ SMap.Rising m := by
  simp [SMap.Rising]

theorem SMap.get_of_all_above (h : ∀ q ∈ m, i < q.1) : SMap.get d m i = d := by
  cases m with
  | nil => rfl
  | cons q m =>
    have hq := h q (by simp)
    simp [SMap.get, hq, hq.ne]

end Order

section Tables
variable {V : Type} [DecidableEq V] {d : V} {m : SMap V} {i j : Nat} {x v : V}

theorem SMap.get_foldl_set_of_notMem {cells : List (Nat × V)} (hw : SMap.wf d m = true) (hj : j ∉ cells.map Prod.fst) :
    SMap.get d (cells.foldl (fun m c => SMap.set d m c.1 c.2) m) j = SMap.get d m j := by
  induction cells generalizing m with
  | nil => rfl
  | cons c cells ih =>
    simp only [List.map_cons, List.mem_cons, not_or] at hj
    rw [List.foldl_cons, ih (SMap.wf_set hw) hj.2, SMap.get_set hw, if_neg hj.1]

theorem SMap.get_foldl_set_of_mem {cells : List (Nat × V)} (hw : SMap.wf d m = true) (hn : (cells.map Prod.fst).Nodup)
    (hj : (j, v) ∈ cells) : SMap.get d (cells.foldl (fun m c => SMap.set d m c.1 c.2) m) j = v := by
  induction cells generalizing m with
  | nil => cases hj
  | cons c cells ih =>
    rw [List.map_cons, List.nodup_cons] at hn
    rw [List.foldl_cons]
    obtain rfl | hj := List.mem_cons.1 hj
    · rw [SMap.get_foldl_set_of_notMem (SMap.wf_set hw) hn.1, SMap.get_set hw, if_pos rfl]
    · exact ih (SMap.wf_set hw) hn.2 hj

/-- A read of the table that lists a function on an interval of keys. -/
theorem SMap.get_filterMap_range' (f : Nat → V) (lo n : Nat) :
    SMap.get d ((List.range' lo n).filterMap fun k => if f k = d then none else some (k, f k)) j =
      if lo ≤ j ∧ j < lo + n then f j else d := by
  induction n generalizing lo with
  | zero => simp [SMap.get]
  | succ n ih =>
    have hsplit : lo ≤ j ∧ j < lo + (n + 1) ↔ j = lo ∨ (lo + 1 ≤ j ∧ j < lo + 1 + n) := by omega
    rw [List.range'_succ, List.filterMap_cons]
    by_cases hd : f lo = d
    · simp only [if_pos hd, ih, hsplit]
      by_cases hj : j = lo
      · simp [hj, hd]
      · simp [hj]
    · simp only [if_neg hd, SMap.get, ih, hsplit]
      by_cases hj : j = lo
      · simp [hj]
      · by_cases hlt : j < lo
        · simp [hj, hlt, show ¬ (lo + 1 ≤ j) by omega]
        · simp [hj, hlt]

theorem SMap.rising_set (hm : SMap.Rising m) : SMap.Rising (SMap.set d m i x) := by
  induction m with
  | nil => by_cases hx : x = d <;> simp [SMap.set, SMap.Rising, hx]
  | cons p m ih =>
    obtain ⟨k, v⟩ := p
    obtain ⟨hk, hm'⟩ := SMap.rising_cons.1 hm
    simp only [SMap.set]
    split
    case isTrue hi =>
      subst hi
      split
      · exact hm'
      · exact SMap.rising_cons.2 ⟨hk, hm'⟩
    case isFalse hi =>
      split
      case isTrue hlt =>
        split
        · exact hm
        · refine SMap.rising_cons.2 ⟨fun q hq => ?_, hm⟩
          obtain rfl | hq := List.mem_cons.1 hq
          · exact hlt
          · exact hlt.trans (hk q hq)
      case isFalse hlt =>
        refine SMap.rising_cons.2 ⟨fun q hq => ?_, ih hm'⟩
        obtain hq | rfl := mem_set hq
        · exact hk q hq
        · show k < i
          omega

theorem SMap.get_set_same_of_rising (hm : SMap.Rising m) : SMap.get d (SMap.set d m i x) i = x := by
  induction m with
  | nil => by_cases hx : x = d <;> simp [SMap.set, SMap.get, hx]
  | cons p m ih =>
    obtain ⟨k, v⟩ := p
    obtain ⟨hk, hm⟩ := SMap.rising_cons.1 hm
    rcases lt_trichotomy i k with hi | rfl | hi
    · by_cases hx : x = d <;> simp [SMap.set, SMap.get, hi, hi.ne, hx]
    · by_cases hx : x = d
      · simpa [SMap.set, hx] using SMap.get_of_all_above hk
      · simp [SMap.set, SMap.get, hx]
    · simp [SMap.set, SMap.get, hi.ne', hi.not_gt, ih hm]

theorem SMap.get_set_other_of_rising {d' : V} (hm : SMap.Rising m) (hj : j ≠ i) :
    SMap.get d' (SMap.set d m i x) j = SMap.get d' m j := by
  induction m with
  | nil => by_cases hx : x = d <;> simp [SMap.set, SMap.get, hx, hj]
  | cons p m ih =>
    obtain ⟨k, v⟩ := p
    obtain ⟨hk, hm⟩ := SMap.rising_cons.1 hm
    rcases lt_trichotomy i k with hi | rfl | hi
    · by_cases hx : x = d
      · simp [SMap.set, hi, hi.ne, hx]
      · simp only [SMap.set, hi, hi.ne, hx, if_true, if_false, SMap.get, hj]
        split
        · rw [if_neg (by omega), if_pos (by omega)]
        · rfl
    · by_cases hx : x = d
      · simp only [SMap.set, hx, if_true, SMap.get, hj, if_false]
        split
        case isTrue hlt => exact SMap.get_of_all_above fun q hq => hlt.trans (hk q hq)
        case isFalse => rfl
      · simp [SMap.set, SMap.get, hx, hj]
    · simp [SMap.set, SMap.get, hi.ne', hi.not_gt, ih hm]

end Tables

/-! ## Rows of a plane and of MAG (R43, R235, R238) -/

theorem get_planeRow {f : Nat → BitVec 16} {k : Nat} (hk : k < 256) : SMap.get flZero (planeRow f) k = f k := by
  rw [planeRow, List.range_eq_range', SMap.get_filterMap_range', if_pos ⟨Nat.zero_le k, by omega⟩]

/-- MAG after the first `n` entries of a codebook load's line `j`. -/
def magLine (g : SMap (BitVec 7)) (v : Nat → BitVec 7) (j n : Nat) : SMap (BitVec 7) :=
  (List.range n).foldl (fun g i => setMag g (32 * j + i / 8) (i % 8) (v i)) g

section Mag
variable {g : SMap (BitVec 7)} {v : Nat → BitVec 7} {j n : Nat}

theorem magLine_succ : magLine g v j (n + 1) = setMag (magLine g v j n) (32 * j + n / 8) (n % 8) (v n) := by
  simp [magLine, List.range_succ]

theorem rising_magLine (hg : SMap.Rising g) : SMap.Rising (magLine g v j n) := by
  induction n with
  | zero => exact hg
  | succ n ih =>
    rw [magLine_succ]
    exact SMap.rising_set ih

theorem get_magLine (hg : SMap.Rising g) {i : Nat} (hi : i < n) :
    SMap.get (magD8 (32 * j + i / 8) (i % 8)) (magLine g v j n) (8 * (32 * j + i / 8) + i % 8) = v i := by
  induction n with
  | zero => omega
  | succ n ih =>
    rw [magLine_succ, setMag]
    by_cases hin : i = n
    · subst hin
      exact SMap.get_set_same_of_rising (rising_magLine hg)
    · rw [SMap.get_set_other_of_rising (rising_magLine hg) (by omega)]
      exact ih (by omega)

theorem Matrix.magAt_of_magLine {x : Matrix} (hx : x.mag = magLine g v j n) (hg : SMap.Rising g) {i : Nat} (hi : i < n) :
    x.magAt (32 * j + i / 8) (i % 8) = v i := by
  rw [Matrix.magAt, hx, get_magLine hg hi]

end Mag

section Planes
variable {x : Matrix} {b : Bool} {p : Plane}

@[simp] theorem Matrix.plane_setPlane : (x.setPlane b p).plane b = p := by cases b <;> rfl

@[simp] theorem Matrix.plane_not_setPlane : (x.setPlane b p).plane (!b) = x.plane (!b) := by cases b <;> rfl

end Planes

/-! ## Rows of the accumulator (R194, R231) -/

section Accumulator
variable {x : Matrix} {bank r : Nat} {cells : List (Nat × BitVec 40)}

theorem Matrix.row_putRow_same (ha : SMap.wf [] x.acc = true) : (x.putRow bank r cells).row bank r =
    cells.foldl (fun m c => SMap.set 0 m c.1 c.2) (x.row bank r) := by
  simp only [Matrix.row, Matrix.putRow, SMap.get_set ha, if_true]

theorem Matrix.row_putRow_other (ha : SMap.wf [] x.acc = true) {b n : Nat} (h : b * 128 + n ≠ bank * 128 + r) :
    (x.putRow bank r cells).row b n = x.row b n := by
  simp only [Matrix.row, Matrix.putRow, SMap.get_set ha, if_neg h]

end Accumulator

/-! ## The columns of a pass row (R50, R237) -/

theorem accumulate_single {x w : BitVec 16} {xs ws : List (BitVec 16)} {a : BitVec 40 × MFl} :
    accumulate (x :: xs) (w :: ws) false a =
      accumulate xs ws false ((acAdd a.1 (acProduct x w)).1, a.2 ||| (acAdd a.1 (acProduct x w)).2) := by rw [accumulate]

/-- The sum of column `j` of a pass row, with its flags. -/
def PassRow.column (r : PassRow) (old : SMap (BitVec 40)) (j : Nat) : BitVec 40 × MFl :=
  accumulate r.x ((List.range r.x.length).map fun k => SMap.get flZero (SMap.get [] r.plane j) k) r.pair
    (if r.zero = true then 0 else SMap.get 0 old j, 0)

section Columns
variable {r : PassRow} {old : SMap (BitVec 40)} {j : Nat}

theorem PassRow.result_cells : (r.result old).1 = (List.range 128).map fun j => (j, (r.column old j).1) := by
  refine List.ext_getElem (by simp [PassRow.result]) fun n h₁ h₂ => ?_
  simp only [PassRow.result, PassRow.column, List.getElem_map, List.getElem_zipIdx, List.getElem_range, Nat.zero_add]

theorem PassRow.result_cells_getElem? (hj : j < 128) : (r.result old).1[j]? = some (j, (r.column old j).1) := by
  simp [PassRow.result_cells, hj]

/-- The cells of a pass row replace every column of the row they are written to. -/
theorem PassRow.get_foldl_result {m : SMap (BitVec 40)} (hm : SMap.wf 0 m = true) (hj : j < 128) :
    SMap.get 0 ((r.result old).1.foldl (fun m c => SMap.set 0 m c.1 c.2) m) j = (r.column old j).1 := by
  have hkeys : (r.result old).1.map Prod.fst = List.range 128 := by simp [PassRow.result_cells, Function.comp_def]
  refine SMap.get_foldl_set_of_mem hm (hkeys ▸ List.nodup_range) ?_
  rw [PassRow.result_cells]
  exact List.mem_map_of_mem (List.mem_range.2 hj)

end Columns

/-! ## A row that enters, a row that is written, a row that is loaded (R226, R228, R235, R238) -/

@[simp] theorem Tile.mx_scrub (x : Tile) (ln : Nat) : (x.scrub ln).mx = x.mx := rfl

@[simp] theorem Tile.spad_scrub (x : Tile) (ln : Nat) : (x.scrub ln).spad = x.spad := rfl

theorem Tile.foldl_scrub (lns : List Int) (f : Int → Nat) (x : Tile) :
    (lns.foldl (fun x a => x.scrub (f a)) x).mx = x.mx ∧ (lns.foldl (fun x a => x.scrub (f a)) x).spad = x.spad := by
  induction lns generalizing x with
  | nil => exact ⟨rfl, rfl⟩
  | cons a lns ih => exact ih (x.scrub (f a))

theorem PassJob.addrs_headD {a : PassJob} {i : Nat} : (a.addrs i).headD 0 = a.base + i * a.stride := by
  unfold PassJob.addrs
  extract_lets y
  split <;> rfl

/-- The row of a pass that enters on a cycle, from the tile it enters on. -/
def Tile.enteringRow (x : Tile) (c : Nat) (a : PassJob) (i : Nat) : PassRow :=
  let es := (List.range (if a.pair then 256 else 128)).map fun k =>
    actElem x.spad a.wf ((a.base : Int) + i * a.stride).toNat k (a.cb + x.mx.rscAt i)
  ⟨c + 136, a.acc, (a.row0 + i) % 128, a.zero, a.pair, es.map (·.1), (x.mx.plane x.mx.act).rows,
    mflOfV (es.foldl (fun (f : VFl) e => f ||| e.2) 0)⟩

/-- A tile once a pass row has left the pipeline. -/
def Tile.leaveRow (x : Tile) (r : PassRow) : Tile := { x with mx := { x.mx with rows := x.mx.rows.erase r } }

/-- What is left of a load once row `j` of it is in. -/
def LoadJob.rest (l : LoadJob) (j : Nat) : Option LoadJob := if l.rows ≤ j + 1 then none else some { l with row := j + 1 }

section Rows
variable {s : State} {t : Nat} (h : s.Canon)
include h

theorem State.Canon.mx_enterRow {c i : Nat} {a : PassJob} : ((s.enterRow t c a i).tile t).mx =
    { (s.tile t).mx with
      rows := (s.tile t).mx.rows ++ [(s.tile t).enteringRow c a i]
      array := if a.rows ≤ i + 1 then none else (s.tile t).mx.array } := by
  obtain ⟨hmx, hspad⟩ := Tile.foldl_scrub (a.addrs i) (fun r => r.toNat / 256) (s.tile t)
  simp only [State.enterRow, h.tile_setTile, if_true, hmx, hspad, PassJob.addrs_headD]
  rfl

/-- A pass row that meets no clash and no uncorrectable element writes its columns and its flags. -/
theorem State.Canon.tile_rowTick {us : List PortUse} {r : PassRow} (hwr : clashes us (accUse true 1 r.acc r.row 0) = false)
    (hrd : r.zero = true ∨ clashes us (accUse false 1 r.acc r.row 0) = false ∧ (s.tile t).mx.ueccRow r.acc r.row = false) :
    let x := (s.tile t).leaveRow r
    let n := r.result (x.mx.row r.acc r.row)
    (s.rowTick t us r).tile t = { x with mx := x.mx.putRow r.acc r.row n.1 }.orM n.2 := by
  unfold State.rowTick
  extract_lets x n u y n'
  have hu : u.Canon := h.updTile fun _ hx => hx
  have hy : y = x := h.tile_updTile.trans (if_pos rfl)
  have hport : ¬ (clashes us (accUse true 1 r.acc r.row 0) || (!r.zero && clashes us (accUse false 1 r.acc r.row 0))) = true := by
    obtain hzero | ⟨hrd, -⟩ := hrd
    · rw [hwr, hzero]; exact Bool.false_ne_true
    · rw [hwr, hrd, Bool.and_false]; exact Bool.false_ne_true
  have hecc : ¬ (!r.zero && y.mx.ueccRow r.acc r.row) = true := by
    obtain hzero | ⟨-, hecc⟩ := hrd
    · rw [hzero]; exact Bool.false_ne_true
    · rw [hy, show x.mx.ueccRow r.acc r.row = false from hecc, Bool.and_false]; exact Bool.false_ne_true
  rw [if_neg hport, if_neg hecc, hu.tile_setTile, if_pos rfl]
  simp only [n', hy, n]

theorem State.Canon.mx_loadRow_codebook {l : LoadJob} {j : Nat} (hcb : l.cb = true) : ((s.loadRow t l j).tile t).mx =
    { (s.tile t).mx with
      mag := magLine (s.tile t).mx.mag (fun i => BitVec.ofNat 7 (readN (s.tile t).spad ((l.addr j).toNat + i) 1)) j 256
      loader := l.rest j } := by
  simp only [State.loadRow, if_pos hcb, h.tile_setTile, if_true, Tile.mx_scrub, Tile.spad_scrub]
  rfl

theorem State.Canon.mag_loadRow_codebook {l : LoadJob} {j : Nat} (hcb : l.cb = true) : ((s.loadRow t l j).tile t).mx.mag =
    magLine (s.tile t).mx.mag (fun i => BitVec.ofNat 7 (readN (s.tile t).spad ((l.addr j).toNat + i) 1)) j 256 := by
  rw [h.mx_loadRow_codebook hcb]

theorem State.Canon.mx_loadRow_weights {l : LoadJob} {j : Nat} (hcb : l.cb = false) : ((s.loadRow t l j).tile t).mx =
    { (s.tile t).mx.setPlane l.plane { (s.tile t).mx.plane l.plane with
        rows := SMap.set [] ((s.tile t).mx.plane l.plane).rows j (planeRow fun k =>
          (loadEntry (s.tile t).mx (s.tile t).spad l.wf (l.addr j).toNat k (byteOf l.scales j).toInt).1) } with
      loader := l.rest j } := by
  simp only [State.loadRow, if_neg (show ¬ l.cb = true by simp [hcb]), h.tile_setTile, if_true, Tile.mx_scrub, Tile.spad_scrub]
  rfl

/-- A load's row takes the place of row `j` of its plane, and the other rows stay. -/
theorem State.Canon.row_loadRow_weights {l : LoadJob} {j n : Nat} (hcb : l.cb = false)
    (hrows : SMap.wf [] ((s.tile t).mx.plane l.plane).rows = true) :
    SMap.get [] (((s.loadRow t l j).tile t).mx.plane l.plane).rows n =
      if n = j then planeRow fun k => (loadEntry (s.tile t).mx (s.tile t).spad l.wf (l.addr j).toNat k (byteOf l.scales j).toInt).1
      else SMap.get [] ((s.tile t).mx.plane l.plane).rows n := by
  rw [h.mx_loadRow_weights hcb]
  exact (congrArg (fun p : Plane => SMap.get [] p.rows n) Matrix.plane_setPlane).trans (SMap.get_set hrows)

end Rows

end Sys2Proof.Machine

open Sys2Proof Sys2Proof.Machine

/-- Settles O38: the columns of a pass row by `PassRow.column`, and the engine after a row enters, is written, or is loaded by what each
leaves of it. -/
theorem passRows : Obligations.PassRows := by
  refine ⟨fun r old j => PassRow.result_cells_getElem?, fun r old => by simp [PassRow.result_cells], fun a m => ⟨rfl, rfl⟩,
    fun x xs w ws a m => accumulate_single, fun x y xs w v ws a m => rfl, fun s t cyc a i h ha => ?_,
    fun s t us r h hacc hrow hwr hrd => ?_, fun s t l j h hl => ?_, fun x m r k c => rfl, fun x m r k c => rfl, fun x m r k c => ?_⟩
  · rw [h.mx_enterRow]
    refine ⟨_, rfl, rfl, rfl, rfl, rfl, rfl, rfl, ?_, by rw [ha]⟩
    rw [Tile.enteringRow, List.map_map]
    refine List.map_congr_left fun k _ => ?_
    simp only [Function.comp_apply, actElem]
  · rw [h.tile_rowTick hwr hrd]
    refine ⟨fun j hj => ?_, rfl, fun b n hbn => Matrix.row_putRow_other hacc hbn⟩
    have hj' := PassRow.get_foldl_result (r := r) (old := (s.tile t).mx.row r.acc r.row) hrow hj
    rw [PassRow.result_cells_getElem? hj, ← hj']
    exact congrArg (fun m => some (j, SMap.get 0 m j)) (Matrix.row_putRow_same hacc)
  · obtain hcb | hcb := Bool.eq_false_or_eq_true l.cb
    · have hmx := h.mx_loadRow_codebook (t := t) (j := j) hcb
      have hmag := h.mag_loadRow_codebook (t := t) (j := j) hcb
      refine ⟨?_, ?_, fun hno => absurd (hcb.symm.trans hno) (by decide), fun _ hrise => ⟨fun i hi => ?_, ?_⟩⟩
      · rw [hmx]
      · rw [hmx]; rfl
      · exact Matrix.magAt_of_magLine hmag hrise hi
      · rw [hmx]
    · have hmx := h.mx_loadRow_weights (t := t) (j := j) hcb
      refine ⟨by rw [hmx]; rfl, by rw [hmx]; rfl, fun _ hrows => ⟨fun k hk => ?_, fun n hn => ?_, ?_, ?_⟩,
        fun hyes => absurd (hcb.symm.trans hyes) (by decide)⟩
      · rw [h.row_loadRow_weights hcb hrows, if_pos rfl, get_planeRow hk]; rfl
      · rw [h.row_loadRow_weights hcb hrows, if_neg hn]
      · rw [hmx]; exact Matrix.plane_not_setPlane
      · rw [hmx]; rfl
  · simp only [loadEntry, fc2Entry, field, pow_one]

end

section
/-! PROOFS. Admission: the entry that a refusal leaves, and each step by its outcome. -/

namespace Sys2Proof.Machine

section Admission
variable {s t : State} {e u : BitVec 8} {x : Entry} {f : Fail}

/-! ## The entry that a refusal leaves (R66) -/

/-- The chain of refusals reads and changes the table of entries alone. -/
theorem State.refuseAfter_entries_congr (h : s.entries = t.entries) (fuel : Nat) :
    (s.refuseAfter fuel e).entries = (t.refuseAfter fuel e).entries := by
  induction fuel generalizing s t e with
  | zero => exact h
  | succ fuel ih =>
    simp only [State.refuseAfter, h]
    exact List.foldl_rel (r := fun a b : State => a.entries = b.entries) (by simp [h]) fun _ _ _ _ h' => ih h'

/-- The reset state with the launch table of `s`: it is in canonical form as soon as that table is. -/
def State.tableAlone (s : State) : State := { State.reset with entries := s.entries }

theorem State.canon_tableAlone (hw : SMap.wf Entry.reset s.entries = true) : s.tableAlone.Canon :=
  ⟨rfl, rfl, hw, rfl, rfl, rfl, rfl, fun _ h => absurd h List.not_mem_nil, fun _ h => absurd h List.not_mem_nil⟩

/-- `State.Canon.entry_refuseAfter` for a state with its entries alone in canonical form. -/
theorem State.entry_refuseAfter (hw : SMap.wf Entry.reset s.entries = true) (hu : (s.entry u).st ≠ .admitted) (fuel : Nat) :
    (s.refuseAfter fuel e).entry u = s.entry u :=
  have hsame : (s.refuseAfter fuel e).entries = (s.tableAlone.refuseAfter fuel e).entries :=
    State.refuseAfter_entries_congr (show s.entries = s.tableAlone.entries from rfl) fuel
  calc (s.refuseAfter fuel e).entry u
      = (s.tableAlone.refuseAfter fuel e).entry u := congrArg (fun m => SMap.get Entry.reset m u.toNat) hsame
    _ = s.entry u := (State.canon_tableAlone hw).entry_refuseAfter hu fuel

@[simp] theorem State.postQueue_entries {r : EvRec} : (s.postQueue r).entries = s.entries := by
  simp only [State.postQueue]
  split <;> split_ifs <;> rfl

@[simp] theorem State.snapTrigger_entries {src : BitVec 3} {tag : Byte} : (s.snapTrigger src tag).entries = s.entries := by
  simp only [State.snapTrigger]
  split_ifs
  · rfl
  · split
    · rfl
    · split_ifs <;> rfl

/-- The fields of an entry that a refusal writes. -/
def Entry.refusedWith (x : Entry) (f : Fail) : Entry := { x with st := .refused, status := f.1, foff := f.2, hdr := none }

/-- A refusal's VERSION record and its snapshot leave the entries as the chain of refusals leaves them. -/
theorem State.refuse_entries : (s.refuse e f).entries = ((s.updEntry e (·.refusedWith f)).refuseAfter 256 e).entries := by
  simp only [State.refuse]
  split_ifs <;> simp [State.post, EvRec.package, EvRec.base, Entry.refusedWith]

theorem State.entry_refuse (hw : SMap.wf Entry.reset s.entries = true) : (s.refuse e f).entry e = (s.entry e).refusedWith f := by
  have hset : (s.updEntry e (·.refusedWith f)).entry e = (s.entry e).refusedWith f := (SMap.get_set hw).trans (if_pos rfl)
  calc (s.refuse e f).entry e
      = ((s.updEntry e (·.refusedWith f)).refuseAfter 256 e).entry e :=
        congrArg (fun m => SMap.get Entry.reset m e.toNat) State.refuse_entries
    _ = (s.updEntry e (·.refusedWith f)).entry e := State.entry_refuseAfter (SMap.wf_set hw) (by rw [hset]; exact nofun) 256
    _ = (s.entry e).refusedWith f := hset

/-! ## The steps (R67) -/

@[simp] theorem firstFail_singleton {f : Option Fail} : firstFail [f] = f := by cases f <;> rfl

/-- Step 1 refuses an entry that fails one of its checks, with no offset. -/
theorem State.step1_refuses (h : x.rsvd = true ∨ x.asid = 0 ∨ s.iod.agrant.contains x.asid.toNat = false ∨ x.image.toNat < s.iod.imageBase ∨
    s.iod.imageBase + s.iod.imageLen ≤ x.image.toNat ∨ x.image.toNat % 4096 ≠ 0) : s.step1 x = some (0x01, 0xFFFFFFFF) := by
  refine if_neg fun hok => ?_
  simp only [Bool.and_eq_true, Bool.not_eq_true', bne_iff_ne, decide_eq_true_eq] at hok
  obtain ⟨⟨⟨⟨⟨hrsvd, hasid⟩, hgrant⟩, hbase⟩, hend⟩, halign⟩ := hok
  rcases h with h | h | h | h | h | h
  · exact Bool.false_ne_true (hrsvd.symm.trans h)
  · exact hasid h
  · exact Bool.false_ne_true (h.symm.trans hgrant)
  · exact hbase.not_gt h
  · exact hend.not_ge h
  · exact h halign

end Admission

end Sys2Proof.Machine

open Sys2Proof Sys2Proof.Machine

/-- Settles O47: each step by `execAdmission` with the steps before it passed; step 1 by `State.step1_refuses`, and the refused entry by
`State.entry_refuse`. -/
theorem admissionSteps : Obligations.AdmissionSteps := by
  intro e s
  dsimp only
  refine ⟨fun hst => if_pos hst, fun hst f h1 => ?_, fun hst h1 f hp1 => ?_, fun hst h1 hp1 f hp2 => ?_, fun hst h1 hp1 hp2 hdyn => ?_,
    fun hst h1 hp1 hp2 htimed hlock => ?_, fun hst h1 hp1 hp2 htimed hlock => ?_, State.step1_refuses, fun f hw => ?_⟩
  · simp only [exec_admission, execAdmission, hst, h1, ne_eq, not_true_eq_false, if_false]
  · simp only [exec_admission, execAdmission, hst, h1, hp1, firstFail_singleton, ne_eq, not_true_eq_false, if_false]
  · simp only [exec_admission, execAdmission, hst, h1, hp1, hp2, firstFail_singleton, ne_eq, not_true_eq_false, if_false]
  · simp only [exec_admission, execAdmission, hst, h1, hp1, hp2, hdyn, firstFail_singleton, ne_eq, not_true_eq_false, if_false, if_true]
    cases s.fitsLater e (s.imgHeader (s.entry e).image.toNat) <;> rfl
  · simp only [exec_admission, execAdmission, hst, h1, hp1, hp2, htimed, hlock, firstFail_singleton, ne_eq, not_true_eq_false, if_false]
    rfl
  · simp only [exec_admission, execAdmission, hst, h1, hp1, hp2, htimed, hlock, firstFail_singleton, ne_eq, not_true_eq_false, if_false]
    cases (s.step4 e (s.imgHeader (s.entry e).image.toNat)).2 <;> rfl
  · rw [State.entry_refuse hw]
    exact ⟨rfl, rfl, rfl⟩

end

section
/-! PROOFS. The state after reset: every table is empty, so each tile and entry reads as its reset value. -/

namespace Sys2Proof.Machine

@[simp] theorem State.reset_tile (t : Nat) : State.reset.tile t = Tile.reset := rfl

@[simp] theorem State.reset_entry (e : BitVec 8) : State.reset.entry e = Entry.reset := rfl

theorem State.reset_canon : State.reset.Canon where
  tiles := SMap.wf_nil
  regions := SMap.wf_nil
  entries := SMap.wf_nil
  seqrs := SMap.wf_nil
  dies := SMap.wf_nil
  mem := Memory.wf_nil
  pool := Memory.wf_nil
  spads := fun _ h => absurd h List.not_mem_nil
  saved := fun _ h => absurd h List.not_mem_nil

/-- MAG of a tile at reset lists nothing, and an unlisted place reads D8 (R44). -/
theorem Tile.reset_magAt (m j : Nat) : Tile.reset.mx.magAt m j = magD8 m j := rfl

end Sys2Proof.Machine

open Sys2Proof Sys2Proof.Machine

/-- Settles O6: each tile and entry at reset is its reset value, and empty tables are in canonical form. -/
theorem resetState : Obligations.ResetState := by
  refine ⟨⟨fun t => ?_, fun t m j => ?_, fun e => ?_, rfl, rfl, rfl⟩, State.reset_canon⟩
  · rw [State.reset_tile]
    exact ⟨rfl, rfl, rfl, rfl, rfl, rfl, rfl, rfl, rfl, rfl⟩
  · rw [State.reset_tile]
    exact Tile.reset_magAt m j
  · rw [State.reset_entry]
    rfl

end

section
/-! PROOFS. The life of a launch: its release, the start and end of its tasks, a dynamic launch's placement and a new placement, each
event by its outcomes. -/

namespace Sys2Proof.Machine

/-- What no step of a fold changes is as before the fold. -/
theorem State.foldl_unchanged {α β : Type} (p : State → β) {g : State → α → State} (hg : ∀ s x, p (g s x) = p s) (l : List α)
    (s : State) : p (l.foldl g s) = p s :=
  List.foldlRecOn l g (motive := fun t => p t = p s) rfl fun t ht x _ => (hg t x).trans ht

/-! ## Release (R24, R69) -/

section Release
variable {s : State} {e : BitVec 8} {r : Nat}

theorem execLaunchStart_eq : execLaunchStart e s = .next
    (if (s.entry e).st = .admitted ∧ (s.entry e).ctl.getLsbD 1 = false ∧ (s.entry e).start = s.ptime then s.release e else s) := by
  by_cases hst : (s.entry e).st = .admitted
  · simp [execLaunchStart, hst]
  · rw [if_neg fun h => hst h.1]
    unfold execLaunchStart
    extract_lets x
    split
    · exact absurd ‹_› hst
    · rfl

theorem execRegionRelease_unlisted (h : ∀ p ∈ s.regions, p.1 ≠ r) : execRegionRelease r s = .next s := by
  have hnone : s.regions.any (fun p => p.1 == r) = false := by simpa using h
  simp [execRegionRelease, hnone]

theorem execRegionRelease_placed (h : ∃ p ∈ s.regions, p.1 = r) (hst : (s.region r).st = .placed) : execRegionRelease r s =
    .next ((s.updRegion r fun x => { x with st := .waiting s.ptime.toNat }).now (.taskStart r)) := by
  have hsome : s.regions.any (fun p => p.1 == r) = true := by simpa using h
  simp [execRegionRelease, hsome, hst]

theorem execRegionRelease_frozen (h : ∃ p ∈ s.regions, p.1 = r) (hst : (s.region r).st = .frozen 1) : execRegionRelease r s =
    .next (s.updRegion r fun x => { x with st := .frozen (s.ptime.toNat + 2) }) := by
  have hsome : s.regions.any (fun p => p.1 == r) = true := by simpa using h
  simp [execRegionRelease, hsome, hst]

/-- A region that is neither placed nor frozen before its release is left as it is. -/
theorem execRegionRelease_other (hplaced : (s.region r).st ≠ .placed) (hfrozen : (s.region r).st ≠ .frozen 1) :
    execRegionRelease r s = .next s := by
  unfold execRegionRelease
  split
  · rfl
  · split
    · exact absurd ‹_› hplaced
    · exact absurd ‹_› hfrozen
    · rfl

end Release

/-! ## Tasks (R77, R78, R182) -/

section Tasks
variable {s : State} {r t : Nat}

/-- The conditions under which the next task of a region starts. -/
theorem State.mayStart_iff : s.mayStart r = true ↔ ∃ k, (s.region r).st = .waiting k ∧ k ≤ s.ptime.toNat ∧ (s.region r).awaits = [] ∧
    s.pkgHeld r = false ∧ (s.die (s.region r).die).halted = false ∧ ∀ q ∈ s.regSeqrs r, s.refreshHolds 0 q = false ∧
      ((s.seqr q).run = false ∨ (s.seqr q).inIteration = false) := by
  unfold State.mayStart
  split
  case h_1 k hk =>
    simp only [hk, RegionSt.waiting.injEq, exists_eq_left']
    simp [and_assoc, or_iff_not_imp_left]
  case h_2 hno =>
    refine ⟨fun h => absurd h Bool.false_ne_true, ?_⟩
    rintro ⟨k, hk, -⟩
    exact absurd hk (hno k)

theorem execTaskStart_idle (h : s.mayStart r = false) : execTaskStart r s = .next s := by
  simp [execTaskStart, h]

/-- A task's start: the region's sequencers, the region, its surplus tiles and its live tiles, in this order. -/
theorem execTaskStart_starts (h : s.mayStart r = true) :
    let u := (s.regSeqrs r).foldl (fun s q => s.updSeqr q Seqr.start) s
    let v := u.updRegion r fun x =>
      { x with st := .running, rtime := 0, holdc := 0, held := false, rdv := none, exch := none,
               restart := x.restart.map fun _ => u.ptime.toNat }
    let z := (v.region r).surplus.foldl (fun s t => s.updTile t fun x => if x.st = .dead then x else x.start) v
    execTaskStart r s = .next (((z.region r).tiles.filter fun t => (z.tile t).st != .dead).foldl State.startTile z) := by
  simp only [execTaskStart, h, Bool.not_true, Bool.false_eq_true, if_false, beq_iff_eq]

/-- A tile starts its task in the state of R78 where the engines of phase 0 share no line. -/
theorem State.startTile_of_no_overlap (h : (s.updTile t Tile.start).overlap t 0 = none) : s.startTile t = s.updTile t Tile.start := by
  simp only [State.startTile, h]

/-- Where they share one, SET_OVERLAP waits for the first bundle (R198). -/
theorem State.Canon.tile_startTile_of_overlap (hs : s.Canon) {i : BitVec 8} {a : W64}
    (h : (s.updTile t Tile.start).overlap t 0 = some (i, a)) :
    (s.startTile t).tile t = { (s.tile t).start with after := [⟨0x05, 0, i, a, true, false⟩] } := by
  have hstart : (s.updTile t Tile.start).Canon := hs.updTile fun _ hx => hx
  simp only [State.startTile, h]
  rw [hstart.tile_updTile, if_pos rfl, hs.tile_updTile, if_pos rfl]
  rfl

/-- A sequencer at region cycle 0 runs if it has code. -/
theorem Seqr.start_run (x : Seqr) : x.start.run = true ↔ x.code ≠ [] := by
  simp [Seqr.start]

theorem Tile.over_iff (x : Tile) :
    x.over = true ↔ x.ended = true ∧ x.mx.queue = [] ∧ x.mx.rows = [] ∧ x.far.port = [] ∧ x.far.recs = [] := by
  simp only [Tile.over, Bool.and_eq_true, List.isEmpty_iff, and_assoc]

/-- A running region's task is over once each of its tiles is dead or over. -/
theorem State.taskOver_iff :
    s.taskOver r = true ↔ (s.region r).st = .running ∧ ∀ t ∈ (s.region r).tiles, (s.tile t).st = .dead ∨ (s.tile t).over = true := by
  unfold State.taskOver
  split
  case h_1 hrun => simp [hrun]
  case h_2 hno => simp [show (s.region r).st ≠ .running from hno]

theorem execTaskEnd_goes_on (h : s.taskOver r = false) : execTaskEnd r s = .next s := by
  simp [execTaskEnd, h]

/-- The sequencers of a region take its time as their tail, which none of these writes changes. -/
theorem State.foldl_tail_eq {u : State} (hu : u.regions = s.regions) (qs : List Nat) :
    qs.foldl (fun a q => a.updSeqr q fun y => { y with tail := some (s.region r).rtime }) u =
      qs.foldl (fun a q => a.updSeqr q fun y => { y with tail := some (a.region r).rtime }) u := by
  refine (List.foldl_rel (r := fun a b : State => a = b ∧ a.regions = s.regions) ⟨rfl, hu⟩ ?_).1
  rintro q - a b ⟨rfl, ha⟩
  have hrtime : (a.region r).rtime = (s.region r).rtime := congrArg (fun m => (SMap.get Region.reset m r).rtime) ha
  exact ⟨by rw [hrtime], ha⟩

/-- A task's end: the secondary streams, the region's transmissions and sequencers, the region; the launch retires with its last region,
or is parked where the others have been frozen for it. -/
theorem execTaskEnd_ends (h : s.taskOver r = true) :
    let e := (s.region r).entry
    let u := (s.region r).tiles.foldl (fun s t => s.updTile t fun y => { y with sec := { Stream.reset with barr := y.sec.barr }, secRun := false }) s
    let w : State := (u.regSeqrs r).foldl (fun s q => s.updSeqr q fun y => { y with tail := some ((s.region r).rtime) }) (u.endTxs r)
    let more := decide ((s.region r).seq + 1 < (w.hdrOf e).tasks)
    let v := w.updRegion r fun x => { x with
      st := if more = true then .waiting (w.ptime.toNat + 256) else .done
      seq := if more = true then (s.region r).seq + 1 else (s.region r).seq
      rdv := none, exch := none, aborts := 0, restart := none }
    execTaskEnd r s = .next
      (if ((v.keysOf e).all fun k => (v.region k).st == .done) = true then v.retire e else if v.allParked e = true then v.park e else v) := by
  intro e u w more v
  unfold execTaskEnd
  rw [if_neg (by simp [h])]
  extract_lets x blank u' w' more' v' all
  have hu : u.regions = s.regions := State.foldl_unchanged State.regions (by intros; rfl) _ _
  have hregions : w.regions = s.regions := (State.foldl_unchanged State.regions (by intros; rfl) _ _).trans hu
  have hregion : w.region r = s.region r := congrArg (SMap.get Region.reset · r) hregions
  have hw : w' = w := State.foldl_tail_eq (u := u.endTxs r) hu _
  clear_value w'
  subst hw
  have hv : v' = v := by
    simp only [v', v, State.updRegion, hregion]
    rfl
  have hall : all = (v.keysOf e).all fun k => (v.region k).st == .done := by
    rw [← hv]
    refine congrArg (v'.keysOf e).all (funext fun k => ?_)
    cases (v'.region k).st <;> rfl
  rw [hall, hv]

end Tasks

/-! ## Dynamic launches (R69, R70) -/

section Dynamic
variable {s : State} {e : BitVec 8} {h : Header0}

theorem execDynamicRelease_waits (hwait : (s.entry e).st ≠ .admitted ∨ (s.entry e).ctl.getLsbD 1 = false ∨ s.ptime.toNat % 1024 ≠ 0 ∨
    s.predDone (s.entry e) = false) : execDynamicRelease e s = .next s := by
  unfold execDynamicRelease
  exact if_pos (by simpa [or_assoc] using hwait)

theorem execDynamicRelease_due (hst : (s.entry e).st = .admitted) (hdyn : (s.entry e).ctl.getLsbD 1 = true)
    (htick : s.ptime.toNat % 1024 = 0) (hpred : s.predDone (s.entry e) = true) (hhdr : (s.entry e).hdr = some h) :
    execDynamicRelease e s = .next (match (s.step4 e h).2 with
      | .ok b => ((s.step4 e h).1.bind e h b.1 b.2.1 b.2.2 true).release e
      | .error f => if f.1 = 0x05 ∧ s.fitsLater e h = true then (s.step4 e h).1 else (s.step4 e h).1.refuse e f) := by
  unfold execDynamicRelease
  rw [if_neg (by simp [hst, hdyn, htick, hpred])]
  simp only [hhdr]
  cases (s.step4 e h).2 with
  | ok b => rfl
  | error f => simp only [Bool.and_eq_true, decide_eq_true_eq]

end Dynamic

/-! ## Placement again (R385) -/

section Again
variable {s : State} {e : BitVec 8}

theorem execReplacement_saving (h : (s.entry e).saving = true) : execReplacement e s = .next (s.within 32000000 (.replacement e)) := by
  simp only [execReplacement, h, if_true]

theorem execReplacement_idle (h : (s.entry e).saving = false) (hrun : (s.entry e).st ≠ .running) (hpark : (s.entry e).st ≠ .parked) :
    execReplacement e s = .next s := by
  simp [execReplacement, h, hrun, hpark]

section Placed
variable (hsaved : (s.entry e).saving = false) (hst : (s.entry e).st = .running ∨ (s.entry e).st = .parked)
include hsaved hst

/-- A launch with no place to go to is killed. -/
theorem execReplacement_kills (hnone : s.replaced e (s.entry e) (s.hdrOf e) = none) : execReplacement e s = .next (s.kill e) := by
  unfold execReplacement
  rw [if_neg (by simp [hsaved]), if_neg (by simpa [or_iff_not_imp_left] using hst)]
  simp only [hnone]

/-- A launch that some variant still fits is bound to it, and its tasks start again. -/
theorem execReplacement_moves {v : Nat} (hsome : s.replaced e (s.entry e) (s.hdrOf e) = some v) :
    let b := (List.range 4).filterMap fun d => ((s.entry e).bases.getD d none).map fun b => (d, b)
    let t := s.ptime.toNat + 256 + Nat.min s.delay 16000
    let u := ((s.spend.requeue e t).bind e (s.hdrOf e) (s.entry e).phys v b false).save e []
    execReplacement e s = .next ((u.updEntry e fun y => { y with st := .running }).say (.jobRelease (s.entry e).job t)) := by
  unfold execReplacement
  rw [if_neg (by simp [hsaved]), if_neg (by simpa [or_iff_not_imp_left] using hst)]
  simp only [hsome]

end Placed

end Again

end Sys2Proof.Machine

open Sys2Proof Sys2Proof.Machine

/-- Settles O46: each event by its outcomes; a task's start and end by the states they go through. -/
theorem launchEvents : Obligations.LaunchEvents := by
  refine ⟨fun e s => execLaunchStart_eq, fun r s => execRegionRelease_unlisted, fun r s => execRegionRelease_placed,
    fun r s => execRegionRelease_frozen, fun r s => execRegionRelease_other, fun r s => execTaskStart_idle,
    fun r s => propext State.mayStart_iff, fun r s => execTaskStart_starts,
    fun s t hs => ⟨State.startTile_of_no_overlap, fun i a => hs.tile_startTile_of_overlap⟩, fun x => ?_, fun x => ?_, fun r q => ?_, ?_,
    fun r s => execTaskEnd_goes_on, fun r s => execTaskEnd_ends, fun r s => propext State.taskOver_iff,
    fun x => propext x.over_iff, fun e s => execDynamicRelease_waits, fun e s h => execDynamicRelease_due,
    fun e s => execReplacement_saving, fun e s => execReplacement_idle, fun e s => execReplacement_kills,
    fun e s v h hst => execReplacement_moves h hst⟩
  · exact ⟨rfl, rfl, rfl, rfl, rfl, rfl, rfl, x.start_run, rfl, rfl, rfl⟩
  · exact ⟨rfl, rfl, rfl, rfl, rfl, rfl, rfl, rfl, rfl, rfl, rfl, rfl, rfl, rfl, rfl⟩
  · simp [Stream.reset, Regs.reset]
  · exact ⟨rfl, rfl, rfl, rfl, rfl, rfl, rfl, rfl, rfl⟩

end

section
/-! PROOFS. Translation: an answer's return by whether it waits, what an operation on each class of extent brings, the legs of a query, the
ends of a walk, and a die's step of an invalidation. -/

namespace Sys2Proof.Machine

/-! ## Returns (R169, R296, R319, R333) -/

section Returns
variable {s : State} {k : Nat} {o : HoldOp}

/-- Does an answer wait, its route down, its tile asleep or its die behind the clock it owes? -/
def State.AnswerWaits (s : State) (o : HoldOp) : Prop :=
  (∃ x pa, s.extent o.tile (extIndex o.e) = some x ∧ o.pa = some pa ∧ x.cls ≠ 1 ∧ s.routeOf x pa ∈ s.iod.down) ∨
    s.asleep o.tile = true ∨ covers (s.die (dieOf o.tile)).clock o.clock = false

/-- The state without an operation. -/
def State.dropOp (s : State) (k : Nat) : State := { s with ops := s.ops.filter fun (x : HoldOp) => x.id != k }

theorem State.returnOp_none (h : (s.ops.find? fun o => o.id == k && o.left == 0) = none) : s.returnOp k = .next s := by
  simp only [State.returnOp, h]

section Found
variable (ho : (s.ops.find? fun o => o.id == k && o.left == 0) = some o)
include ho

theorem State.returnOp_waits (h : s.AnswerWaits o) :
    ∃ i, (i = .ldfReturn k ∨ i = .atomicReturn k) ∧ s.returnOp k = .next (s.later i) := by
  unfold State.returnOp
  simp only [ho]
  rw [if_pos]
  · split
    · exact ⟨_, .inr rfl, rfl⟩
    · exact ⟨_, .inl rfl, rfl⟩
  · obtain ⟨x, pa, hx, hpa, hcls, hdown⟩ | h := h
    · simpa [hx, hpa, hdown] using .inl (.inl hcls)
    · simpa [or_assoc] using .inr h

/-- An answer that waits for nothing ends its operation. -/
theorem State.returnOp_goes (h : ¬ s.AnswerWaits o) : s.returnOp k = match s.opErr o with
    | some a => .next ((s.dropOp k).farFault o.tile 0x09 s.anyInfo (BitVec.ofNat 64 a)).spend
    | none => .next (o.result.elim ((s.opValue o).1.dropOp k) fun r =>
        ((s.opValue o).1.dropOp k).landOp o { r with value := (s.opValue o).2.setWidth 2048 }) := by
  unfold State.returnOp
  simp only [ho]
  rw [if_neg]
  · cases s.opErr o with
    | some a => rfl
    | none => cases o.result <;> rfl
  · contrapose! h
    simp only [Bool.or_eq_true, Bool.not_eq_true'] at h
    obtain (hdown | hasleep) | hclock := h
    · left
      split at hdown
      · rename_i x pa hx hpa
        simp only [Bool.and_eq_true, decide_eq_true_eq] at hdown
        exact ⟨x, pa, hx, hpa, hdown⟩
      · exact absurd hdown Bool.false_ne_true
    · exact .inr (.inl hasleep)
    · exact .inr (.inr hclock)

end Found

end Returns

/-! ## What an operation brings (R169, R317, R319) -/

section Brings
variable {s : State} {o : HoldOp} {x : ExtentDecl} {pa : Nat} (hx : s.extent o.tile (extIndex o.e) = some x) (hpa : o.pa = some pa)
include hx hpa

theorem State.opValue_cached (h : x.cls = 1) : s.opValue o = (s, ((o.result.map Result.value).getD 0).setWidth 64) := by
  simp [State.opValue, hx, hpa, h]

theorem State.opErr_cached (h : x.cls = 1) : s.opErr o = o.err := by
  simp [State.opErr, hx, hpa, h]

theorem State.opErr_pool (h : x.cls = 2) : s.opErr o = badWord s.perr pa o.kind.width := by
  simp [State.opErr, hx, hpa, h]

theorem State.opErr_peer (h : x.cls = 3) : s.opErr o = peerBad x.peer pa o.kind.width s.nfree := by
  simp [State.opErr, hx, hpa, h]

/-- An LDF reads eight bytes of the pool. -/
theorem State.opValue_pool_ldf (h : x.cls = 2) (hk : o.kind = .ldf) : s.opValue o = (s, BitVec.ofNat 64 (readN s.pool pa 8)) := by
  simp [State.opValue, hx, hpa, h, hk, HoldKind.width]

/-- An atomic reads the pool's word and writes it where it assigns. -/
theorem State.opValue_pool_atomic (h : x.cls = 2) {cas op wide b c} (hk : o.kind = .atomic cas op wide b c) :
    let old : W64 := BitVec.ofNat 64 (readN s.pool pa (if wide = true then 8 else 4))
    s.opValue o = (if atomicSets cas wide old c = true then s.writePool (amoCells pa wide (atomicNew cas op wide old b c)) else s, old) := by
  simp [State.opValue, hx, hpa, h, hk, HoldKind.width]

end Brings

section Timeout
variable {s : State} {k : Nat} {o : HoldOp}

theorem execFarAnswerTimeout_none (h : (s.ops.find? fun o => o.id == k && !o.isRange) = none) : execFarAnswerTimeout k s = .next s := by
  simp only [execFarAnswerTimeout, h]

theorem execFarAnswerTimeout_some (h : (s.ops.find? fun o => o.id == k && !o.isRange) = some o) :
    execFarAnswerTimeout k s = .next (if o.issued + 2 ^ 24 ≤ s.ptime.toNat then s.faultOp o 1 else s) := by
  simp only [execFarAnswerTimeout, h]

end Timeout

/-! ## Queries (R87, R88) -/

section Queries
variable {s : State} {q : Nat} {y : TlbQ} {e : TlbEntry}

theorem TlbQ.id_of_find {l : List TlbQ} (h : (l.find? fun y => y.id == q) = some y) : y.id = q := by
  simpa using List.find?_some h

theorem execTlbQuery_none (h : (s.queries.find? fun y => y.id == q) = none) : execTlbQuery q s = .next s := by
  simp only [execTlbQuery, h]

/-- A query that is not the first at its home, or walks already, waits there. -/
theorem State.homeQuery_waits (h : (¬ ∃ z, (s.arriveQuery y).queryAt y.home = some z ∧ z.id = y.id) ∨
    ((s.arriveQuery y).walks.any fun w => w.q.id == y.id) = true) : s.homeQuery y = s.arriveQuery y := by
  unfold State.homeQuery
  refine if_pos ?_
  rw [Bool.or_eq_true]
  refine h.imp_left fun hno => ?_
  rw [Option.all_eq_true]
  exact fun z hz => bne_iff_ne.2 fun hid => hno ⟨z, hz, hid⟩

/-- The first query at its home is answered from the slice's entries, or walks. -/
theorem State.homeQuery_first (hfirst : ∃ z, (s.arriveQuery y).queryAt y.home = some z ∧ z.id = y.id)
    (hwalk : ((s.arriveQuery y).walks.any fun w => w.q.id == y.id) = false) :
    let u := s.arriveQuery y
    s.homeQuery y = match (u.tlbAt y.home).find? fun e => e.maps y.asid y.va && !u.stale y.home.1 y.client e with
      | some e => u.sendAnswer y (some e)
      | none => (State.fresh { u with walks := u.walks ++ [⟨u.nextId, y, y.home.1, y.home.2⟩] }).later (.tlbWalkDone u.nextId) := by
  obtain ⟨z, hz, hid⟩ := hfirst
  unfold State.homeQuery
  exact if_neg (by simp [hz, hid, hwalk])

section Leg
variable (h : (s.queries.find? fun y => y.id == q) = some y)
include h

theorem execTlbQuery_asks (hleg : y.leg = .asks) : execTlbQuery q s = .next (s.homeQuery y) := by
  simp only [execTlbQuery, h, hleg]

/-- Where the entry's bucket has no BACKUP home, the answer leaves. -/
theorem execTlbQuery_copies_none (hleg : y.leg = .copies e) (hb : s.backupOf e.asid y.va = none) :
    execTlbQuery q s = .next (s.sendAnswer y (some e)) := by
  simp only [execTlbQuery, h, hleg, hb]

/-- The BACKUP home takes the entry, unless an invalidation keeps it from doing so, and its word goes back. -/
theorem execTlbQuery_copies_some (hleg : y.leg = .copies e) {b : Nat × Nat} (hb : s.backupOf e.asid y.va = some b) :
    execTlbQuery q s = .next ((State.setLeg (if s.staleAt y.home.1 b.1 e = true then s else s.installAt b e) y (.copied e)).carry
      b.1 b.2 y.home.1 y.home.2 (.tlbQuery q)) := by
  simp only [execTlbQuery, h, hleg, hb]

theorem execTlbQuery_copied (hleg : y.leg = .copied e) : execTlbQuery q s = .next (s.sendAnswer y (some e)) := by
  simp only [execTlbQuery, h, hleg]

theorem execTlbQuery_answers {x : Option TlbEntry} (hleg : y.leg = .answers x) :
    execTlbQuery q s = .next (if x.any (s.stale y.home.1 y.client) = true then s.askAgain y else s.tlbAnswer y x) := by
  simp only [execTlbQuery, h, hleg]

theorem execTlbQuery_again (hleg : y.leg = .again) : execTlbQuery q s = .next (s.askAgain y) := by
  simp only [execTlbQuery, h, hleg]

end Leg

section Answers
variable {t k : Nat}

theorem State.sendAnswer_of_tile (hc : y.client.tile = some t) (x : Option TlbEntry) :
    s.sendAnswer y x = ((s.setLeg y (.answers x)).carry y.home.1 y.home.2 (dieOf t) (nodeOf t) (.tlbQuery y.id)).nextQuery y.home := by
  simp only [State.sendAnswer, hc]

theorem State.askAgain_of_tile (hc : y.client.tile = some t) :
    s.askAgain y = State.ask { s with queries := s.queries.filter fun (z : TlbQ) => z.id != y.id } t y.asid y.va y.client := by
  simp only [State.askAgain, hc]

theorem State.arriveQuery_of_away (h : y.here = false) :
    s.arriveQuery y = { s with queries := (s.queries.filter fun (x : TlbQ) => x.id != y.id) ++ [{ y with here := true }] } := by
  simp [State.arriveQuery, h]

theorem State.tlbAnswer_stream_some (hc : y.client = .stream t k) : s.tlbAnswer y (some e) =
    (State.installTile { s with queries := s.queries.filter fun (x : TlbQ) => x.id != y.id } t e).opStep k := by
  unfold State.tlbAnswer
  simp only [hc, Client.tile]

theorem State.tlbAnswer_copy_some {slot sec half : Nat} {c : Copy} (hc : y.client = .copy t slot sec half) :
    let u := State.installTile { s with queries := s.queries.filter fun (x : TlbQ) => x.id != y.id } t e
    u.copyAt t slot = some c → s.tlbAnswer y (some e) = u.now (.copyIssue t c.cls) := by
  intro u hcopy
  unfold State.tlbAnswer
  simp only [hc, Client.tile]
  split
  · cases hcopy.symm.trans ‹_›
  · cases hcopy.symm.trans ‹_›
    rfl

/-- An access without a translation parks on its page, and the pager is asked. -/
theorem State.tlbAnswer_stream_none {o : HoldOp} (hc : y.client = .stream t k) (ho : (s.ops.find? fun o => o.id == k) = some o) :
    let u := State.updOp { s with queries := s.queries.filter fun (x : TlbQ) => x.id != y.id } k fun o => { o with parked := some y.va }
    s.tlbAnswer y none = u.pageReq t (if o.kind.code = 1 then 64 else 65) (o.kind.code == 2) y.va := by
  unfold State.tlbAnswer
  simp only [hc, Client.tile, ho]

end Answers

end Queries

/-! ## Walks (R81, R88) -/

section Walks
variable {s : State} {w : Nat} {x : Walk}

theorem execTlbWalkDone_unknown (h : (s.walks.find? fun x => x.id == w) = none) : execTlbWalkDone w s = .next s := by
  simp only [execTlbWalkDone, h]

/-- The state without a walk. -/
def State.dropWalk (s : State) (w : Nat) : State := { s with walks := s.walks.filter fun (y : Walk) => y.id != w }

/-- The warning of a malformed table entry, for the tile that asked (R81, R365). -/
def State.ptBad (s : State) (x : Walk) (level pa : Nat) : EvRec :=
  { EvRec.warning s x.die with
    info := 0x03, lte := x.q.client.tile.elim 0xFF fun t => (s.tile t).lte, ltile := x.q.client.tile.elim 0x1FF fun t => BitVec.ofNat 9 (s.ltOf t)
    asid := x.q.asid, mask := BitVec.ofNat 8 level, addr := BitVec.ofNat 64 pa }

section Known
variable (h : (s.walks.find? fun x => x.id == w) = some x)
include h

theorem execTlbWalkDone_leaf {l : W64} {n : Nat} (hwalk : (s.dropWalk w).walk x.die x.q.asid x.q.va = .leaf l n) :
    execTlbWalkDone w s = .next ((s.dropWalk w).installHome x.q
      ⟨x.q.asid, if n = 1 then x.q.va / 2 ^ 26 * 1024 else x.q.va / 65536, n == 1, l⟩) := by
  rw [State.dropWalk] at hwalk
  simp only [execTlbWalkDone, h, hwalk, State.dropWalk]

theorem execTlbWalkDone_none (hwalk : (s.dropWalk w).walk x.die x.q.asid x.q.va = .none) :
    execTlbWalkDone w s = .next ((s.dropWalk w).sendAnswer x.q none) := by
  rw [State.dropWalk] at hwalk
  simp only [execTlbWalkDone, h, hwalk, State.dropWalk]

theorem execTlbWalkDone_bad {level pa : Nat} (hwalk : (s.dropWalk w).walk x.die x.q.asid x.q.va = .bad level pa) :
    execTlbWalkDone w s = .next ((((s.dropWalk w).post ((s.dropWalk w).ptBad x level pa)).spend).sendAnswer x.q none) := by
  rw [State.dropWalk] at hwalk
  simp only [execTlbWalkDone, h, hwalk, State.dropWalk, State.ptBad]
  cases x.q.client.tile <;> rfl

end Known

/-- A leaf whose bucket has no BACKUP home is installed at its home alone, and the answer leaves. -/
theorem State.installHome_alone {y : TlbQ} {e : TlbEntry} (hb : (s.installAt y.home e).backupOf e.asid y.va = none) :
    s.installHome y e = (s.installAt y.home e).sendAnswer y (some e) := by
  simp only [State.installHome, hb]

theorem State.installHome_copies {y : TlbQ} {e : TlbEntry} {b : Nat × Nat} (hb : (s.installAt y.home e).backupOf e.asid y.va = some b) :
    s.installHome y e =
      ((s.installAt y.home e).setLeg y (.copies e)).carry y.home.1 y.home.2 b.1 b.2 (.tlbQuery y.id) := by
  simp only [State.installHome, hb]

end Walks

/-! ## Invalidation (R90) -/

section Inval
variable {s : State} {x : Inval} {d n : Nat} {e : TlbEntry}

@[simp] theorem State.mapTiles_die (f : Nat → Tile → Tile) (d : Nat) : (s.mapTiles f).die d = s.die d := rfl

/-- A change that a test does not see leaves the first element that passes it in its place. -/
theorem find?_map_of_forall {α : Type} {p : α → Bool} {g : α → α} (hg : ∀ y, p (g y) = p y) (l : List α) :
    (l.map g).find? p = (l.find? p).map g := by
  rw [List.find?_map, show p ∘ g = p from funext hg]

/-- The entries that an invalidation leaves of a list. -/
def Inval.kept (x : Inval) (es : List TlbEntry) : List TlbEntry := es.filter fun e => !x.hits e

theorem Inval.notMem_kept (h : x.hits e = true) (es : List TlbEntry) : e ∉ x.kept es := by
  simp [Inval.kept, h]

/-- The entries an invalidation removes are gone from a die's slices and from its tiles' micro-TLBs. -/
def State.dropEntries (s : State) (x : Inval) (d : Nat) : State :=
  (s.updDie d fun y => { y with tlb := SMap.mapV [] (fun _ es => x.kept es) y.tlb }).mapTiles fun t y =>
    if dieOf t = d then { y with far := { y.far with utlb := x.kept y.far.utlb } } else y

/-- Taking up the queries and walks anew changes no die, no tile and nothing of the I/O die. -/
theorem State.invalDie_tables : ((s.invalDie x d).dies, (s.invalDie x d).tiles, (s.invalDie x d).iod) =
    ((s.dropEntries x d).dies, (s.dropEntries x d).tiles, (s.dropEntries x d).iod) := by
  let tables := fun (s : State) => (s.dies, s.tiles, s.iod)
  have hqueries : tables ((s.dropEntries x d).invalQueries x d) = tables (s.dropEntries x d) :=
    State.foldl_unchanged tables (by intros; rfl) _ _
  exact (State.foldl_unchanged tables (by intros; rfl) _ _).trans hqueries

theorem State.Canon.dropEntries_tlbAt (hs : s.Canon) (hw : SMap.wf [] (s.die d).tlb = true) (h : Nat) :
    (s.dropEntries x d).tlbAt (d, h) = x.kept (s.tlbAt (d, h)) := by
  have hdie := hs.die_updDie (d := d) (u := d) (f := fun y => { y with tlb := SMap.mapV [] (fun _ es => x.kept es) y.tlb })
  rw [if_pos rfl] at hdie
  simp only [State.tlbAt, State.dropEntries, State.mapTiles_die, hdie]
  exact SMap.get_mapV (f := fun _ es => x.kept es) hw rfl

theorem State.Canon.dropEntries_utlb (hs : s.Canon) {t : Nat} (ht : dieOf t = d) :
    ((s.dropEntries x d).tile t).far.utlb = x.kept (s.tile t).far.utlb := by
  have hmap := hs.updDie (r := d) (f := fun y => { y with tlb := SMap.mapV [] (fun _ es => x.kept es) y.tlb })
  rw [State.dropEntries, hmap.tile_mapTiles (by split <;> rfl), if_pos ht]
  rfl

section Step
variable (hnot : x.stepped.getLsbD d = false)
include hnot

/-- A die's step leaves its tables as the entries' removal does. -/
theorem State.invalStep_tables : (s.invalStep x d).dies = (s.dropEntries x d).dies ∧ (s.invalStep x d).tiles = (s.dropEntries x d).tiles := by
  have h := State.invalDie_tables (s := s) (x := x) (d := d)
  simp only [Prod.mk.injEq] at h
  obtain ⟨hdies, htiles, -⟩ := h
  rw [State.invalStep, if_neg (by simp [hnot])]
  exact ⟨hdies, htiles⟩

theorem State.Canon.invalStep_tlbAt (hs : s.Canon) (hw : SMap.wf [] (s.die d).tlb = true) (h : Nat) :
    (s.invalStep x d).tlbAt (d, h) = x.kept (s.tlbAt (d, h)) := by
  rw [← hs.dropEntries_tlbAt hw, State.tlbAt, State.die, (State.invalStep_tables hnot).1]
  rfl

theorem State.Canon.invalStep_utlb (hs : s.Canon) {t : Nat} (ht : dieOf t = d) :
    ((s.invalStep x d).tile t).far.utlb = x.kept (s.tile t).far.utlb := by
  rw [← hs.dropEntries_utlb ht, State.tile, (State.invalStep_tables hnot).2]
  rfl

/-- The invalidation itself notes the step. -/
theorem State.invalStep_notes (hx : (s.iod.invals.find? fun y => y.id == x.id) = some x) :
    ∃ y, ((s.invalStep x d).iod.invals.find? fun y => y.id == x.id) = some y ∧ y.stepped = (x.stepped ||| BitVec.twoPow 4 d) := by
  have h := State.invalDie_tables (s := s) (x := x) (d := d)
  simp only [Prod.mk.injEq] at h
  obtain ⟨-, -, hiod⟩ := h
  rw [State.invalStep, if_neg (by simp [hnot])]
  simp only [hiod]
  refine ⟨_, (find?_map_of_forall (fun y => ?_) _).trans (congrArg _ hx), ?_⟩
  · split <;> rfl
  · exact congrArg Inval.stepped (if_pos rfl)

end Step

theorem State.invalStep_stepped (h : x.stepped.getLsbD d = true) : s.invalStep x d = s := by
  simp [State.invalStep, h]

theorem execTlbinvAck_none {d : BitVec 2} (h : (s.iod.invals.find? fun x => x.id == n && x.acks.getLsbD d.toNat) = none) :
    execTlbinvAck n d s = .next s := by
  simp only [execTlbinvAck, h]

theorem execTlbinvAck_some {d : BitVec 2} (h : (s.iod.invals.find? fun x => x.id == n && x.acks.getLsbD d.toNat) = some x) :
    let u := s.invalStep x d.toNat
    execTlbinvAck n d s = .next
      (if ((u.iod.invals.find? fun y => y.id == n).any fun y => u.invalWaits y d.toNat) = true then u.later (.tlbinvAck n d)
       else u.invalAck n d.toNat) := by
  simp only [execTlbinvAck, h]

end Inval

end Sys2Proof.Machine

open Sys2Proof Sys2Proof.Machine

/-- Settles O52: returns by whether the answer waits, queries by their legs, walks by their ends, and an invalidation's step by the entries
it leaves. -/
theorem translationEvents : Obligations.TranslationEvents := by
  refine ⟨fun i k s hi => ?_, fun s o x pa hx hpa h => ⟨State.opValue_cached hx hpa h, State.opErr_cached hx hpa h⟩,
    fun s o x pa hx hpa h => ⟨State.opErr_pool hx hpa h, State.opValue_pool_ldf hx hpa h,
      fun cas op wide b c => State.opValue_pool_atomic hx hpa h⟩,
    fun s o x pa hx hpa h => State.opErr_peer hx hpa h, fun k s => execFarAnswerTimeout_none, fun k s o => execFarAnswerTimeout_some,
    fun s o rsn => rfl, fun q s => execTlbQuery_none, fun q s y hy hleg => ?_,
    fun q s y e hy hleg => ⟨execTlbQuery_copies_none hy hleg, fun b => execTlbQuery_copies_some hy hleg⟩,
    fun q s y hy => ⟨fun e => execTlbQuery_copied hy, fun x => execTlbQuery_answers hy, execTlbQuery_again hy⟩,
    fun s y x t hc => ⟨State.sendAnswer_of_tile hc x, State.askAgain_of_tile hc⟩, fun s y => State.arriveQuery_of_away,
    fun s y e t k => State.tlbAnswer_stream_some, fun s y e t slot sec half c => State.tlbAnswer_copy_some,
    fun s y t k o => State.tlbAnswer_stream_none, fun w s => execTlbWalkDone_unknown,
    fun w s x hx => ⟨fun l n => execTlbWalkDone_leaf hx, execTlbWalkDone_none hx,
      fun level pa hbad => ⟨_, rfl, rfl, rfl, rfl, execTlbWalkDone_bad hx hbad⟩⟩,
    fun s y x => ⟨State.installHome_alone, fun b => State.installHome_copies⟩, fun n d s => execTlbinvAck_none,
    fun n d s x => execTlbinvAck_some, fun s x d => State.invalStep_stepped, fun s x d e hs hd hx hnot hhits hw => ?_⟩
  · have hexec : exec i s = s.returnOp k := by obtain rfl | rfl := hi <;> rfl
    rw [hexec]
    refine ⟨State.returnOp_none, fun o ho => ⟨State.returnOp_waits ho, fun a hgo herr => ?_, fun hgo herr hres => ?_,
      fun r hgo herr hres => ?_⟩⟩
    · rw [State.returnOp_goes ho hgo, herr]; rfl
    · rw [State.returnOp_goes ho hgo, herr, hres]; rfl
    · rw [State.returnOp_goes ho hgo, herr, hres]; rfl
  · obtain rfl := TlbQ.id_of_find hy
    have hasks := execTlbQuery_asks hy hleg
    refine ⟨rfl, fun hwait => hasks.trans (congrArg _ (State.homeQuery_waits hwait)), fun hfirst hwalk => ?_⟩
    exact hasks.trans (congrArg _ (State.homeQuery_first hfirst hwalk))
  · refine ⟨fun h => ?_, fun t ht => ?_, State.invalStep_notes hnot hx⟩
    · rw [hs.invalStep_tlbAt hnot hw]
      exact Inval.notMem_kept hhits _
    · rw [hs.invalStep_utlb hnot ht]
      exact Inval.notMem_kept hhits _

end

section
/-! PROOFS. Routes, parking, snapshots and retirement: each event by its outcomes, the places of a saved context, and the values that a
snapshot latches. -/

namespace Sys2Proof.Machine

/-! ## Invalidations and routes (R93, R296) -/

section Routes
variable {s : State} {route : Route}

theorem execInvalTimeout_none {n : Nat} {d : BitVec 2} (h : (s.iod.invals.find? fun x => x.id == n && x.acks.getLsbD d.toNat) = none) :
    execInvalTimeout n d s = .next s := by
  simp only [execInvalTimeout, h]

theorem execInvalTimeout_some {n : Nat} {d : BitVec 2} {x : Inval}
    (h : (s.iod.invals.find? fun x => x.id == n && x.acks.getLsbD d.toNat) = some x) : execInvalTimeout n d s =
    .next (if x.tick + 2 ^ 20 ≤ s.ptime.toNat then
      s.packageCause 4 0xFF 0x23 (BitVec.ofNat 8 d.toNat) (x.frame.seq.setWidth 64) else s) := by
  simp only [execInvalTimeout, h]

/-- A route goes down, with a record; the same step comes again later. -/
theorem execLinkDown_falls (h : route ∉ s.iod.down) :
    let u := s.packageCause 4 0xFF 0x21 s.anyInfo s.anyAddr
    execLinkDown route s =
      .next (State.later { u.spend with iod := { u.spend.iod with down := route :: u.spend.iod.down } } (.linkDown route)) :=
  if_neg h

/-- A route still down loses what waits on it: the copies that an FGO has under way over it, and the operations. -/
theorem execLinkDown_lost (h : route ∈ s.iod.down) :
    let hit := fun (t : Nat) (c : Copy) =>
      if (s.recOf t c).any fun r => r.kind == .fgo then (s.extent t (extIndex c.e)).bind fun x =>
        if x.cls = 1 then none else s.routeAt c x fun y => y == route
      else none
    let cs := s.tiles.flatMap fun p => p.2.far.copies.filterMap fun c => (hit p.1 c).map fun i => (p.1, c, i)
    let os := s.ops.filter fun o => (s.extent o.tile (extIndex o.e)).any fun x => x.cls != 1 &&
      (o.pa.any (fun pa => s.routeOf x pa == route) || (x.cls == 3 && route == .fabric x.peer))
    let u := cs.foldl (fun s c =>
      if (s.copyAt c.1 c.2.1.slot).any (fun y => y.rec_ == c.2.1.rec_) then s.faultCopy c.1 c.2.1 3 c.2.2 else s)
        { s with iod := { s.iod with lost := route :: s.iod.lost } }
    execLinkDown route s = .next (os.foldl (fun s o => s.faultOp o 3) u) :=
  if_pos h

end Routes

/-! ## Saved context (R302, R370 to R375) -/

section Context
variable {s : State} {e : BitVec 8}

theorem execContextSaveDone_idle (h : (s.entry e).saving = false ∨ (s.entry e).st ≠ .running) : execContextSaveDone e s = .next s :=
  if_pos (by simpa using h)

/-- The copies beyond the package go back to their queues, the contexts are written, and the launch is parked. -/
theorem execContextSaveDone_saves (hsaving : (s.entry e).saving = true) (hst : (s.entry e).st = .running) :
    let ts := s.tilesOf e
    let moves := fun (t : Nat) (c : Copy) => c.cls != 0 && c.st == .issued && (s.recOf t c).any fun r => r.kind == .fgo
    let away := ts.flatMap fun t => ((s.tile t).far.copies.filter (moves t)).map fun c => (t, c.slot)
    let u := { s with pending := s.pending.filter fun p => !away.any fun a => stepOfSlot a.1 a.2 p.2.1 }
    let v := ts.foldl (fun s t => s.updFar t fun f => { f with
      copies := f.copies.map fun c => if moves t c then { c with st := .queued, pas := [], parts := [], errs := [], via := [] } else c }) u
    execContextSaveDone e s =
      .next (((ts.foldl State.writeContext v).save e (ts.map v.tile)).updEntry e fun y => { y with st := .parked, saving := false }) :=
  if_neg (by simp [hsaving, hst])

theorem execContextRestoreDone_idle (h : (s.entry e).st ≠ .parked) : execContextRestoreDone e s = .next s :=
  if_pos h

/-- The saved contexts are back in their tiles, to be translated afresh where they waited for a page, and the regions go on. -/
def State.contextsBack (s : State) (e : BitVec 8) : State :=
  let a := ((s.tilesOf e).zip (SMap.get [] s.saved e.toNat)).foldl (fun s p =>
    s.setTile p.1 (restoreTile (s.tile p.1) (s.readContext p.1 p.2))) s
  ((a.save e []).requeuePaged e).mapRegions fun _ r => if r.entry = e then { r with st := r.st.thaw } else r

/-- The targets that the launch's regions wait for. -/
def State.waitedTargets (s : State) (e : BitVec 8) : List Nat := (s.keysOf e).filterMap fun k => (s.region k).rdv

/-- The launch runs again. -/
def State.resumed (s : State) (e : BitVec 8) : State := s.updEntry e fun y => { y with st := .running, saving := false }

/-- The target `t` that the launch's regions wait for, and those after it, move `d` ticks on, and the job is told (R375). -/
def State.displaced (s : State) (e : BitVec 8) (job : BitVec 32) (t d : Nat) : State :=
  ((((s.mapRegions fun _ r => if r.entry = e then { r with rdv := r.rdv.map (· + d) } else r).updEntry e fun y =>
    { y with applied := y.applied ++ [(0, false, d)], pstr := y.pstr + d }).noteMove job t d).say (.displacement job d))

theorem execContextRestoreDone_parked (h : (s.entry e).st = .parked) :
    let c := (s.contextsBack e).resumed e
    let waits := (s.contextsBack e).waitedTargets e
    let t := waits.tail.foldl min (waits.headD 0)
    let d := resumeShift s.ptime.toNat t
    execContextRestoreDone e s = .next (if waits = [] then c.updEntry e fun y => { y with restart := some s.ptime.toNat }
      else if d = 0 then c else c.displaced e (s.entry e).job t d) := by
  intro c waits t d
  unfold execContextRestoreDone
  rw [if_neg (not_not.2 h)]
  extract_lets now back s1 s2 s3 waits' s4
  have hwaits : waits' = waits := rfl
  clear_value waits' waits
  subst hwaits
  cases waits' with
  | nil => rfl
  | cons w ws =>
    rw [if_neg (List.cons_ne_nil w ws)]
    exact (apply_ite Host.Outcome.next _ _ _).symm

/-! ### Pages -/

/-- The copies of an engine that wait for a page go back to their queues. -/
def FarEngine.offPages (f : FarEngine) : FarEngine := { f with copies := f.copies.map fun c => if c.onPage then c.requeued else c }

/-- Does no copy of a tile wait for a page? -/
def Tile.NoPages (x : Tile) : Prop := ∀ c ∈ x.far.copies, c.onPage = false

theorem Tile.noPages_offPages (x : Tile) : Tile.NoPages { x with far := x.far.offPages } := by
  intro c hc
  obtain ⟨c', -, rfl⟩ := List.mem_map.1 hc
  split
  · rfl
  · exact Bool.eq_false_iff.2 ‹_›

/-- A tile that has been gone through, or that no copy on a page was left in, has none in the end. -/
theorem State.Canon.noPages_foldl {s : State} (hs : s.Canon) {t : Nat} {l : List Nat} (h : t ∈ l ∨ (s.tile t).NoPages) :
    ((l.foldl (fun s t => s.updFar t FarEngine.offPages) s).tile t).NoPages := by
  induction l generalizing s with
  | nil => exact h.resolve_left List.not_mem_nil
  | cons x l ih =>
    have hstep : (s.updFar x FarEngine.offPages).tile t =
        if t = x then { s.tile x with far := (s.tile x).far.offPages } else s.tile t := hs.tile_updTile
    refine ih (hs.updTile fun _ hx => hx) ?_
    rw [hstep]
    split
    · subst x
      exact .inr (s.tile t).noPages_offPages
    · rename_i hne
      exact h.imp_left fun hl => (List.mem_cons.1 hl).resolve_left hne

theorem Copy.st_ne_parked {c : Copy} (h : c.onPage = false) (va : Nat) : c.st ≠ .parked va := by
  intro hst
  simp [Copy.onPage, hst] at h

theorem State.Canon.noPages_requeuePaged (hs : s.Canon) {t : Nat} (ht : t ∈ s.tilesOf e) : ((s.requeuePaged e).tile t).NoPages :=
  hs.noPages_foldl (.inl ht)

/-! ### Places (R373) -/

/-- The fields of an address put together from a slab, a bank, a row, a column and a byte. -/
theorem slabAddr_fields {n b r c z : Nat} (hb : b < 16) (hr : r < 4096) (hc : c < 16) (hz : z < 64) :
    let pa := (n * 16 + 15) * 2 ^ 26 + b * 2 ^ 22 + r * 2 ^ 10 + c * 64 + z
    pa / 2 ^ 30 = n ∧ pa / 2 ^ 26 % 16 = 15 ∧ pa / 2 ^ 22 % 16 = b ∧ pa / 2 ^ 10 % 4096 = r ∧ pa / 64 % 16 = c ∧ pa % 64 = z := by
  intro pa
  simp only [pa]
  refine ⟨?_, ?_, ?_, ?_, ?_, ?_⟩ <;> omega

theorem contextPA_fields {t o : Nat} (ho : o < 0x500000) :
    contextPA t o / 2 ^ 30 = t / 4 * 8 + o / 64 % 8 ∧ contextPA t o / 2 ^ 26 % 16 = 15 ∧ contextPA t o / 2 ^ 22 % 16 = o / 8192 % 16 ∧
      contextPA t o / 2 ^ 10 % 4096 = 1280 * (t % 4) + o / 131072 ∧ contextPA t o / 64 % 16 = o / 512 % 16 ∧ contextPA t o % 64 = o % 64 :=
  slabAddr_fields (by omega) (by omega) (by omega) (by omega)

/-- A place is put together from its row, bank, column, slab and byte. -/
theorem place_eq_digits (o : Nat) : o / 131072 * 131072 + o / 8192 % 16 * 8192 + o / 512 % 16 * 512 + o / 64 % 8 * 64 + o % 64 = o := by
  have hrow : o / 8192 / 16 = o / 131072 := Nat.div_div_eq_div_mul o 8192 16
  have hbank : o / 512 / 16 = o / 8192 := Nat.div_div_eq_div_mul o 512 16
  have hcol : o / 64 / 8 = o / 512 := Nat.div_div_eq_div_mul o 64 8
  omega

/-- A place of a context is found again at its address, in bank 15 of a slab of the tile's node. -/
theorem contextOff_contextPA {t o : Nat} (ho : o < 0x500000) : contextOff t (contextPA t o) = some o ∧
    contextPA t o % 2 ^ 30 / 2 ^ 26 = 15 ∧ contextPA t o / 2 ^ 33 = t / 4 := by
  obtain ⟨hslab, hfifteen, hbank, hrow, hcol, hbyte⟩ := contextPA_fields (t := t) ho
  have hnode : contextPA t o / 2 ^ 33 = t / 4 := by omega
  refine ⟨?_, (Nat.mod_mul_right_div_self _ (2 ^ 26) 16).trans hfifteen, hnode⟩
  simp only [contextOff, hslab, hfifteen, hbank, hrow, hcol, hbyte, hnode]
  rw [if_pos ⟨trivial, trivial, Nat.le_add_right _ _, by omega⟩, Option.some_inj, Nat.add_sub_cancel_left, Nat.mul_add_mod_self_right,
    Nat.mod_mod]
  exact place_eq_digits o

/-- A target as moved lies 256 ticks off at least (R375). -/
theorem le_add_resumeShift (now t : Nat) : now + 256 ≤ t + resumeShift now t := by
  unfold resumeShift
  split <;> omega

end Context

/-! ## Snapshots (R382, R383) -/

section Snapshots
variable {s : State}

theorem execSnapshotLatch_none (h : s.iod.snapAt = none) : execSnapshotLatch s = .next s := by
  simp only [execSnapshotLatch, h]

theorem execSnapshotLatch_early {t : Nat} {src : BitVec 3} {tag : Byte} (h : s.iod.snapAt = some (t, src, tag))
    (hearly : s.ptime.toNat < t + 64) : execSnapshotLatch s = .next s := by
  simp only [execSnapshotLatch, h, if_pos hearly]

/-- A read of a table whose listed values have all been changed gives a changed value, or the default where it gave that before. -/
theorem SMap.get_mapV_cases {V : Type} [DecidableEq V] {d : V} {f : Nat → V → V} {i : Nat} (m : SMap V) :
    (∃ v, SMap.get d (SMap.mapV d f m) i = f i v) ∨ (SMap.get d (SMap.mapV d f m) i = d ∧ SMap.get d m i = d) := by
  induction m with
  | nil => exact .inr ⟨rfl, rfl⟩
  | cons p m ih =>
    obtain ⟨k, v⟩ := p
    have hmap : SMap.mapV d f ((k, v) :: m) = if f k v = d then SMap.mapV d f m else (k, f k v) :: SMap.mapV d f m := by
      simp only [SMap.mapV, List.filterMap_cons]
      split <;> simp_all
    by_cases hv : f k v = d
    · rw [hmap, if_pos hv]
      refine ih.elim .inl fun ⟨hmapped, hget⟩ => ?_
      by_cases hi : i = k
      · exact .inl ⟨v, by rw [hmapped, hi, hv]⟩
      · exact .inr ⟨hmapped, by simp only [SMap.get, if_neg hi, hget, ite_self]⟩
    · rw [hmap, if_neg hv]
      simp only [SMap.get]
      split_ifs with hi hlt
      · exact .inl ⟨v, by rw [hi]⟩
      · exact .inr ⟨rfl, rfl⟩
      · exact ih

theorem SMap.get_of_unlisted {V : Type} {d : V} {i : Nat} {m : SMap V} (h : ∀ p ∈ m, p.1 ≠ i) : SMap.get d m i = d := by
  induction m with
  | nil => rfl
  | cons p m ih =>
    rw [List.forall_mem_cons] at h
    simp only [SMap.get, if_neg h.1.symm, ih h.2, ite_self]

/-- A tile at its reset values latches zeros. -/
theorem State.tileSnap_of_reset {i : Nat} (h : s.tile i = Tile.reset) : s.tileSnap i = TileSnap.reset := by
  simp only [State.tileSnap, h]
  rfl

/-- Every tile latches its values. -/
def State.latchTiles (s : State) : State := s.mapTiles fun i x => { x with snap := s.tileSnap i }

/-- What a tile that the table lists has latched, whatever the table's form. -/
theorem State.latchTiles_snap (i : Nat) : (s.latchTiles.tile i).snap =
    if (s.tiles.any fun p => p.1 == i) = true then s.tileSnap i else (s.tile i).snap := by
  split
  case isTrue =>
    obtain ⟨v, hv⟩ | ⟨hd, hreset⟩ := SMap.get_mapV_cases (d := Tile.reset) (f := fun i x => { x with snap := s.tileSnap i }) (i := i) s.tiles
    · exact congrArg Tile.snap hv
    · exact (congrArg Tile.snap hd).trans (State.tileSnap_of_reset hreset).symm
  case isFalse h =>
    have hno : ∀ p ∈ s.tiles, p.1 ≠ i := fun p hp hi => h (List.any_eq_true.2 ⟨p, hp, beq_iff_eq.2 hi⟩)
    have hno' : ∀ p ∈ s.latchTiles.tiles, p.1 ≠ i := by
      intro p hp
      rw [State.latchTiles, State.mapTiles_tiles] at hp
      obtain ⟨q, hq, rfl⟩ := mem_mapV hp
      exact hno q hq
    rw [State.tile, State.tile, SMap.get_of_unlisted hno, SMap.get_of_unlisted hno']

/-- The tiles, the sequencers, the slices and the routers latch their values. -/
def State.latchBlocks (s : State) : State :=
  let slices := fun (d : Die) => SMap.mapV Slice.reset (fun _ (y : Slice) => { y with snap := (y.hits, y.misses, y.moves) }) d.slices
  (List.range 4).foldl (fun s d => s.updDie d fun y => { y with routerSnap := y.lineCounts, slices := slices y })
    (s.latchTiles.mapSeqrs fun _ x => { x with snap := (x.pos, x.pch.1.debt, x.pch.2.debt, x.openBanks) })

theorem State.latchBlocks_kept : s.latchBlocks.tiles = s.latchTiles.tiles ∧ s.latchBlocks.mem = s.mem ∧ s.latchBlocks.regions = s.regions ∧
    s.latchBlocks.entries = s.entries ∧ s.latchBlocks.ptime = s.ptime := by
  have h : (fun s : State => (s.tiles, s.mem, s.regions, s.entries, s.ptime)) s.latchBlocks =
      (s.latchTiles.tiles, s.mem, s.regions, s.entries, s.ptime) :=
    State.foldl_unchanged (fun s : State => (s.tiles, s.mem, s.regions, s.entries, s.ptime)) (by intros; rfl) _ _
  simpa only [Prod.mk.injEq] using h

/-- 64 ticks after its trigger the snapshot is held, every block with its values. -/
theorem execSnapshotLatch_due {t : Nat} {src : BitVec 3} {tag : Byte} (h : s.iod.snapAt = some (t, src, tag))
    (hdue : t + 64 ≤ s.ptime.toNat) : let u := s.latchBlocks
    execSnapshotLatch s = .next { u with iod := { u.iod with
      snapFull := true, snapTag := tag, snapSrc := src, snapt := BitVec.ofNat 64 (t + 64), snapAt := none
      snapTime := (u.ptime, (List.range 256).map fun e => (u.entry (BitVec.ofNat 8 e)).pstr) } } := by
  unfold execSnapshotLatch
  simp only [h]
  exact if_neg hdue.not_gt

end Snapshots

/-! ## Retirement (R384) -/

section Retirement
variable {s : State} {t : Nat}

theorem execTileRetire_none (h : (s.tile t).retiring = none) : execTileRetire t s = .next s := by
  simp only [execTileRetire, h]

theorem execTileRetire_some {why : BitVec 8} {cyc : Nat} (h : (s.tile t).retiring = some (why, cyc)) :
    let e := (s.tile t).lte
    let u := s.updTile t fun x => { x with st := .dead, retiring := none }
    let r := { EvRec.base s (dieOf t) with
      code := 0x20, lte := e, info := why, rcyc := BitVec.ofNat 32 cyc, addr := BitVec.ofNat 64 t }
    execTileRetire t s = .next (((u.packageAct (dieOf t) r).say (.jobHold (s.entry e).job)).within 32000000 (.replacement e)) := by
  simp only [execTileRetire, h]
  rfl

end Retirement

end Sys2Proof.Machine

open Sys2Proof Sys2Proof.Machine

/-- Settles O56: each event by its outcomes; a save's places by the fields of their addresses, and a snapshot by the blocks that latch. -/
theorem packageEvents : Obligations.PackageEvents := by
  refine ⟨fun n d s => execInvalTimeout_none, fun n d s x => execInvalTimeout_some, fun route s => execLinkDown_falls,
    fun route s => execLinkDown_lost, fun route s => rfl, fun e s => execContextSaveDone_idle, fun e s => execContextSaveDone_saves,
    fun e s => execContextRestoreDone_idle, fun e s hst => ?_, fun s e t c hs ht hc => Copy.st_ne_parked (hs.noPages_requeuePaged ht c hc),
    fun t o ht => contextOff_contextPA, le_add_resumeShift, fun s => rfl, fun s => execSnapshotLatch_none,
    fun s t src tag => execSnapshotLatch_early, fun s t src tag h hdue => ⟨_, execSnapshotLatch_due h hdue, rfl, rfl, rfl, rfl, rfl, ?_⟩,
    fun t s => execTileRetire_none, fun t s why cyc => execTileRetire_some⟩
  · have hexec := execContextRestoreDone_parked hst
    refine ⟨fun hw => ?_, fun hw hd => ?_, fun hw hd => ?_⟩
    · exact hexec.trans (congrArg _ (if_pos hw))
    · exact hexec.trans (congrArg _ ((if_neg hw).trans (if_pos hd)))
    · exact hexec.trans (congrArg _ ((if_neg hw).trans (if_neg hd)))
  · obtain ⟨htiles, hmem, hregions, hentries, hptime⟩ := s.latchBlocks_kept
    refine ⟨?_, fun i => ?_, hmem, hregions, hentries, hptime⟩
    · simp only [hptime, State.entry, hentries]
    · rw [← State.latchTiles_snap, State.tile, htiles]
      rfl

end

section
/-! PROOFS. Encoding and predicates: a word's raw decoding gives back what was encoded, a step's fetch by what it finds, the registers
that read as constants, and the one predicate every syllable acts under. -/

namespace Sys2Proof.Laws

/-! ## Decoding (R99 to R118) -/

/-- The fields a syllable's words hold are cut out of them again, whatever its opcode. -/
theorem rawOf_encode (i : Instr) : Encoded.Statement i := by
  cases i with
  | add => apply Encoded.add | sub => apply Encoded.sub | addi => apply Encoded.addi | and => apply Encoded.and | or => apply Encoded.or
  | xor => apply Encoded.xor | andi => apply Encoded.andi | ori => apply Encoded.ori | xori => apply Encoded.xori
  | shl => apply Encoded.shl | shr => apply Encoded.shr | sra => apply Encoded.sra | shli => apply Encoded.shli
  | shri => apply Encoded.shri | srai => apply Encoded.srai | mul => apply Encoded.mul | mulh => apply Encoded.mulh
  | mulhu => apply Encoded.mulhu | divu => apply Encoded.divu | remu => apply Encoded.remu | min => apply Encoded.min
  | max => apply Encoded.max | minu => apply Encoded.minu | maxu => apply Encoded.maxu | clz => apply Encoded.clz
  | popc => apply Encoded.popc | movi => apply Encoded.movi | movsh => apply Encoded.movsh | sel => apply Encoded.sel
  | extf => apply Encoded.extf | lea => apply Encoded.lea | cmp => apply Encoded.cmp | cmpi => apply Encoded.cmpi
  | plog => apply Encoded.plog | mfsr => apply Encoded.mfsr | mtsr => apply Encoded.mtsr | lds => apply Encoded.lds
  | sts => apply Encoded.sts | ldf => apply Encoded.ldf | addw => apply Encoded.addw | subw => apply Encoded.subw
  | rotl => apply Encoded.rotl | bext => apply Encoded.bext | bins => apply Encoded.bins | muli => apply Encoded.muli
  | br => apply Encoded.br | bri => apply Encoded.bri | call => apply Encoded.call | ret => apply Encoded.ret
  | loop => apply Encoded.loop | loopi => apply Encoded.loopi | brkl => apply Encoded.brkl | setlc => apply Encoded.setlc
  | phase => apply Encoded.phase | epoch => apply Encoded.epoch | gateset => apply Encoded.gateset | rdv => apply Encoded.rdv
  | fence => apply Encoded.fence | snap => apply Encoded.snap | trapi => apply Encoded.trapi | rett => apply Encoded.rett
  | waiti => apply Encoded.waiti | endt => apply Encoded.endt | nopn => apply Encoded.nopn | sprng => apply Encoded.sprng
  | inten => apply Encoded.inten | secs => apply Encoded.secs | vld => apply Encoded.vld | vst => apply Encoded.vst
  | vldx => apply Encoded.vldx | vstx => apply Encoded.vstx | vldb => apply Encoded.vldb | vlds => apply Encoded.vlds
  | vsts => apply Encoded.vsts | send => apply Encoded.send | recv => apply Encoded.recv | lsend => apply Encoded.lsend
  | lrecv => apply Encoded.lrecv | dsend => apply Encoded.dsend | drecv => apply Encoded.drecv | fnest => apply Encoded.fnest
  | fbase => apply Encoded.fbase | fidx => apply Encoded.fidx | fgo => apply Encoded.fgo | fsig => apply Encoded.fsig
  | fred => apply Encoded.fred | fqry => apply Encoded.fqry | fcan => apply Encoded.fcan | wbr => apply Encoded.wbr
  | invr => apply Encoded.invr | discr => apply Encoded.discr | amo => apply Encoded.amo | cas => apply Encoded.cas
  | binit => apply Encoded.binit | barrive => apply Encoded.barrive | bexpect => apply Encoded.bexpect | bread => apply Encoded.bread
  | brearm => apply Encoded.brearm | vadd => apply Encoded.vadd | vsub => apply Encoded.vsub | vmul => apply Encoded.vmul
  | vand => apply Encoded.vand | vor => apply Encoded.vor | vxor => apply Encoded.vxor | vshl => apply Encoded.vshl
  | vshr => apply Encoded.vshr | vsra => apply Encoded.vsra | vmin => apply Encoded.vmin | vmax => apply Encoded.vmax
  | vminu => apply Encoded.vminu | vmaxu => apply Encoded.vmaxu | vcmp => apply Encoded.vcmp | vadds => apply Encoded.vadds
  | vfadd => apply Encoded.vfadd | vfsub => apply Encoded.vfsub | vfmul => apply Encoded.vfmul | vfma => apply Encoded.vfma
  | vfnma => apply Encoded.vfnma | vfmin => apply Encoded.vfmin | vfmax => apply Encoded.vfmax | vfcmp => apply Encoded.vfcmp
  | vfabs => apply Encoded.vfabs | vfneg => apply Encoded.vfneg | vbadd => apply Encoded.vbadd | vbmul => apply Encoded.vbmul
  | vbfma => apply Encoded.vbfma | vfrnd => apply Encoded.vfrnd | vlmul => apply Encoded.vlmul | vldiv => apply Encoded.vldiv
  | vlsqrt => apply Encoded.vlsqrt | vlinv => apply Encoded.vlinv | vcvt => apply Encoded.vcvt | vexp2 => apply Encoded.vexp2
  | vlog2 => apply Encoded.vlog2 | vmov => apply Encoded.vmov | vsel => apply Encoded.vsel | vperm => apply Encoded.vperm
  | vrot => apply Encoded.vrot | vred => apply Encoded.vred | vext => apply Encoded.vext | vins => apply Encoded.vins
  | viota => apply Encoded.viota | vpack => apply Encoded.vpack | vunpk => apply Encoded.vunpk | qlog => apply Encoded.qlog
  | qset => apply Encoded.qset | qget => apply Encoded.qget | vclz => apply Encoded.vclz | vpopc => apply Encoded.vpopc
  | vmulh => apply Encoded.vmulh | mldw => apply Encoded.mldw | mswap => apply Encoded.mswap | mstr => apply Encoded.mstr
  | mstrz => apply Encoded.mstrz | mcbt => apply Encoded.mcbt | mscl => apply Encoded.mscl | ard => apply Encoded.ard
  | ardb => apply Encoded.ardb | ardl => apply Encoded.ardl | ardl8 => apply Encoded.ardl8 | awr => apply Encoded.awr
  | awrb => apply Encoded.awrb | aclr => apply Encoded.aclr | aadd => apply Encoded.aadd | act => apply Encoded.act
  | rd => apply Encoded.rd | wr => apply Encoded.wr | pre => apply Encoded.pre | prea => apply Encoded.prea | ref => apply Encoded.ref
  | refpb => apply Encoded.refpb | waitc => apply Encoded.waitc | tnest => apply Encoded.tnest | tend => apply Encoded.tend
  | troute => apply Encoded.troute | thalt => apply Encoded.thalt
  | _ => exact fun h => absurd rfl h

/-- A word decodes to a syllable within its limits that has the word's opcode and, encoded, no other bit (R116). -/
theorem decodeWord_eq_some {c : Cls} {w : Nat} {i : Instr} :
    decodeWord c w = some i ↔ rawOf c w = some i ∧ WellFormed i = true ∧ encode i = w := by
  cases h : rawOf c w with
  | none => simp [decodeWord, h]
  | some j =>
    simp only [decodeWord, h, Option.ite_none_right_eq_some, Option.some.injEq, Bool.and_eq_true, beq_iff_eq]
    constructor
    · rintro ⟨hj, rfl⟩; exact ⟨rfl, hj⟩
    · rintro ⟨rfl, hj⟩; exact ⟨hj, rfl⟩

end Sys2Proof.Laws

namespace Sys2Proof.Machine

/-! ## What a step takes up (95) -/

section Fetch
variable {s : State} {place w : Nat} {rest : List (Nat × Nat)}

theorem step_syllable {i : Instr} (hs : s.cur.code = (place, w) :: rest) (hi : decodeWord (placeCls place) w = some i) :
    step s = exec i (s.takeWord place rest) := by
  simp only [step, hs, hi]

theorem step_illegalWord (hs : s.cur.code = (place, w) :: rest) (hi : decodeWord (placeCls place) w = none) :
    step s = .refused .illegalWord := by
  simp only [step, hs, hi]

theorem step_agenda {i : Instr} {x : Ext} {todo : List (Instr × Ext)} (hs : s.cur.code = []) (ha : s.agenda = (i, x) :: todo) :
    step s = exec i (s.takeStep x todo) := by
  simp only [step, hs, ha]

theorem step_clock (hs : s.cur.code = []) (ha : s.agenda = []) : step s = .next s.clock := by
  simp only [step, hs, ha]

end Fetch

/-! ## Hardwired registers (R103) -/

section Hardwired
variable {g : Regs} {r : Result} {k : Bool}

theorem readP_zero (g : Regs) (rrb : BitVec 5) : readP g rrb 0 = true := rfl

theorem readQ_zero (g : Regs) : readQ g 0 = BitVec.allOnes 64 := if_pos rfl

theorem setP_zero (p : BitVec 16) (b : Bool) : setP p 0 b = p := if_pos rfl

theorem State.resultP_zero (s : State) (l : Nat) (v : Bool) : s.resultP 0 l v = s := if_pos rfl

theorem Regs.land_p_of_dest_p0 (h : r.dest = .p 0) : (g.land r k).p = g.p := by
  simp only [Regs.land, h, setP_zero]

theorem Regs.land_q_of_dest_q0 (h : r.dest = .q 0) : (g.land r k).q = g.q := by
  simp only [Regs.land, h, if_true]

end Hardwired

/-! ## Predicates (R101, R158) -/

/-- An instruction acts under a predicate: it leaves its effect where p[BP] and the predicate hold, and the state as it was elsewhere. -/
def GuardedBy (i : Instr) (p : BitVec 4) : Prop := ∀ s, ∃ t, exec i s = .next (s.guarded p t)

/-- The lowest bit of the predicate field in the words of a class (R105, R107, R109, R111, R113). -/
def predLo : Cls → Nat
  | .scalar => 21
  | .control => 22
  | .memory | .vector => 53
  | _ => 54

theorem State.on_eq_false {s : State} {p : BitVec 4} : s.on p = false ↔ s.cur.bp = false ∨ s.rp p = false :=
  Bool.and_eq_false_iff

theorem State.guarded_off {s : State} {p : BitVec 4} (h : s.on p = false) (t : State) : s.guarded p t = s :=
  if_neg (by simp [h])

theorem GuardedBy.exec_off {i : Instr} {p : BitVec 4} (hi : GuardedBy i p) {s : State} (h : s.on p = false) : exec i s = .next s := by
  obtain ⟨t, ht⟩ := hi s
  rw [ht, s.guarded_off h]

/-- Every opcode of a tile's classes acts under the predicate field of its word. -/
theorem rawOf_guardedBy {c : Cls} {w : Nat} {i : Instr} (h : rawOf c w = some i) (hc : c ≠ .channel) :
    GuardedBy i (fld w (predLo c) 4) := by
  cases c with
  | channel => exact absurd rfl hc
  | event => cases h
  | scalar | control | memory | vector | matrix | accum =>
    simp only [rawOf, rawScalar, rawControl, rawMemory, rawVector, rawMatrix, rawAccum] at h
    delta rawScalarOp rawControlOp rawMemoryOp rawVectorOp rawMatrixOp rawAccumOp at h
    split at h <;> cases h <;> exact fun s => ⟨_, rfl⟩

end Sys2Proof.Machine

open Sys2Proof Sys2Proof.Machine Sys2Proof.Laws

/-- Settles O1: the raw decoding of the encoding is the syllable, and the two checks of decode hold of it. -/
theorem encodeDecode : Obligations.EncodeDecode := fun _ hi hwf => decodeWord_eq_some.2 ⟨rawOf_encode _ hi, hwf, rfl⟩

/-- Settles O8: a word's opcode acts under the word's predicate field, and every syllable is the raw decoding of its own encoding. -/
theorem predicatedOff : Obligations.PredicatedOff := by
  refine ⟨fun c w i s hw hc hoff => ?_, fun i s hi hc hoff => ?_⟩
  · obtain ⟨hraw, -, -⟩ := decodeWord_eq_some.1 hw
    exact (rawOf_guardedBy hraw hc).exec_off (State.on_eq_false.2 hoff)
  · exact (rawOf_guardedBy (rawOf_encode _ hi) hc).exec_off (hoff _)

/-- Settles O3: a step by what the bundle register, and then the agenda, hold. -/
theorem stepRuns : Obligations.StepRuns :=
  ⟨fun _ _ _ _ hs => ⟨fun _ => step_syllable hs, step_illegalWord hs⟩, fun _ hs => ⟨fun _ _ _ => step_agenda hs, step_clock hs⟩⟩

/-- Settles O9: p0 and q0 at a read, at a result and when a result lands. -/
theorem hardwiredRegisters : Obligations.HardwiredRegisters :=
  ⟨readP_zero, readQ_zero, State.resultP_zero, fun _ _ _ => Regs.land_p_of_dest_p0, fun _ _ _ => Regs.land_q_of_dest_q0⟩

/-- Settles O36: each mask instruction is its result under its predicate, QLOG's by `qlogOp`. -/
theorem maskInstructions : Obligations.MaskInstructions :=
  ⟨fun _ _ _ _ _ _ => exec_qlog, fun _ _ _ => exec_qset, fun _ _ _ _ => exec_qget⟩

end

section
/-! PROOFS. The checks of a signature bundle: what each outcome leaves, and the tile after a block that fails its check. -/

namespace Sys2Proof.Machine

/-! ## What setting a stream or restoring kept registers leaves alone -/

section Tiles
variable (x : Tile) (c : Ctx)

@[simp] theorem Tile.fails_setStream (st : Stream) : (x.setStream c st).fails = x.fails := by cases c <;> rfl

@[simp] theorem Tile.lte_setStream (st : Stream) : (x.setStream c st).lte = x.lte := by cases c <;> rfl

@[simp] theorem Tile.fenced_setStream (st : Stream) : (x.setStream c st).fenced = x.fenced := by cases c <;> rfl

@[simp] theorem Tile.lte_keep (f : Shadow → Shadow) : (x.keep c f).lte = x.lte := by
  unfold Tile.keep; split <;> rfl

@[simp] theorem Tile.stream_restoreKept : (x.restoreKept c).stream c = x.stream c := by cases c <;> rfl

end Tiles

section Header
variable {s : State} {t : Nat}

/-- A change of a tile that leaves its launch alone leaves it under the same header. -/
theorem State.Canon.thdr_updTile (h : s.Canon) {f : Tile → Tile} (hf : (f (s.tile t)).lte = (s.tile t).lte) :
    (s.updTile t f).thdr t = s.thdr t := by
  have htile : (s.updTile t f).tile t = f (s.tile t) := h.tile_updTile.trans (if_pos rfl)
  rw [State.thdr, State.thdr, htile, hf]
  rfl

theorem State.Canon.thdr_openBlock (h : s.Canon) {c : Ctx} {cyc : Nat} : (s.openBlock t c cyc).thdr t = s.thdr t := by
  unfold State.openBlock
  split
  case isTrue => rfl
  case isFalse => exact h.thdr_updTile (by simp)

end Header

/-! ## The outcome of a check (R127, R151, R156) -/

/-- The control-flow fold of a stream is the CFS of the signature bundle at `pc` (R127). -/
abbrev State.flowAgrees (u : State) (t : Nat) (c : Ctx) (pc : Nat) : Prop :=
  ((u.tile t).stream c).foldH = BitVec.ofNat 32 ((u.tile t).word c (pc + 1))

/-- The lineage fold of a stream, with EPOCH, is the LSIG of the signature bundle at `pc` (R151). -/
abbrev State.lineageAgrees (u : State) (t : Nat) (c : Ctx) (pc : Nat) : Prop :=
  ((u.tile t).stream c).foldL ^^^ epx32 ((u.tile t).stream c).regs.epoch = BitVec.ofNat 32 ((u.tile t).word c (pc + 2))

/-- Both folds agree. -/
abbrev State.foldsAgree (u : State) (t : Nat) (c : Ctx) (pc : Nat) : Prop := u.flowAgrees t c pc ∧ u.lineageAgrees t c pc

/-- The block that ends at `pc` may not run again: NR is 1 in its signature bundle, or it was marked (R120, R155). -/
abbrev State.notRerunnable (u : State) (t : Nat) (c : Ctx) (pc : Nat) : Prop :=
  ((u.tile t).word c (pc + 3)).testBit 30 = true ∨ ((u.tile t).stream c).nrm = true

/-- The cause a failed check is charged to: CF_SIGNATURE where the control-flow fold disagrees, else LINEAGE (R156). -/
abbrev State.checkCause (u : State) (t : Nat) (c : Ctx) (pc : Nat) : BitVec 6 := if u.flowAgrees t c pc then 0x0C else 0x0A

/-- The signature bundle of a stream in its shadow, with the causes it raises. -/
def State.signatureShadow (u : State) (t : Nat) (c : Ctx) (pc cyc : Nat) (ks : List Cause) : Issued :=
  { pc := pc, next := pc + 4, cycle := cyc, slots := 0, pp := false, pops := false, sig := true, effects := [], causes := ks,
    entries := [], marks := false, fold := ((u.tile t).stream c).foldH }

/-- The checkpoint a failed check runs the block again from, where it may (R155). -/
def State.rerunFrom (u : State) (t : Nat) (c : Ctx) (pc : Nat) : Option Checkpoint :=
  if ((u.tile t).word c (pc + 3)).testBit 30 || ((u.tile t).stream c).nrm then none else ((u.tile t).stream c).ck

section Rerunnable
variable {u : State} {t : Nat} {c : Ctx} {pc : Nat}

theorem State.rerunFrom_eq_none (h : u.notRerunnable t c pc ∨ ((u.tile t).stream c).ck = none) : u.rerunFrom t c pc = none := by
  simp only [State.rerunFrom, Bool.or_eq_true, ite_eq_left_iff]
  exact h.resolve_left

theorem State.rerunFrom_of_rerunnable (h : ¬ u.notRerunnable t c pc) : u.rerunFrom t c pc = ((u.tile t).stream c).ck := by
  simp only [State.rerunFrom, Bool.or_eq_true]
  exact if_neg h

theorem State.checkCause_eq :
    (if ((u.tile t).stream c).foldH == BitVec.ofNat 32 ((u.tile t).word c (pc + 1)) then 0x0C else 0x0A) = u.checkCause t c pc := by
  simp only [beq_iff_eq]

/-- The cause as the tile keeps it when it is to retire. -/
theorem State.setWidth_checkCause : (u.checkCause t c pc).setWidth 8 = if u.flowAgrees t c pc then 0x0C else 0x0A :=
  apply_ite (BitVec.setWidth 8) _ _ _

end Rerunnable

section Outcome
variable {s : State} {t : Nat} {c : Ctx} {pc cyc : Nat}

theorem State.signature_passes (hgood : (s.openBlock t c cyc).foldsAgree t c pc) :
    let u := s.openBlock t c cyc
    s.signature t c pc cyc = (u.shadow t c (u.signatureShadow t c pc cyc [])).updTile t fun x =>
      { x.setStream c { x.stream c with rerun := none } with fails := 0 } := by
  unfold State.signature
  exact if_pos (by simpa using hgood)

/-- A failed check of a block that may not run again is a cause of the signature bundle. -/
theorem State.signature_raises (hbad : ¬ (s.openBlock t c cyc).foldsAgree t c pc)
    (hnot : (s.openBlock t c cyc).notRerunnable t c pc ∨ (((s.openBlock t c cyc).tile t).stream c).ck = none) :
    let u := s.openBlock t c cyc
    s.signature t c pc cyc = ((u.shadow t c (u.signatureShadow t c pc cyc
      [⟨u.checkCause t c pc, 0, u.anyInfo, u.anyAddr, false, false⟩])).updStream t c fun x => { x with rerun := none }).spend := by
  unfold State.signature
  extract_lets u x st okH okL b code
  have hck : (if (x.word c (pc + 3)).testBit 30 || st.nrm then none else st.ck) = none := State.rerunFrom_eq_none hnot
  have hcode : code = u.checkCause t c pc := State.checkCause_eq
  rw [if_neg (by simpa [okH, okL] using hbad), hck, ← hcode]
  rfl

/-- A failed check of a block that may run again counts against it. -/
theorem State.signature_fails {k : Checkpoint} (hbad : ¬ (s.openBlock t c cyc).foldsAgree t c pc)
    (hmay : ¬ (s.openBlock t c cyc).notRerunnable t c pc) (hk : (((s.openBlock t c cyc).tile t).stream c).ck = some k) :
    let u := s.openBlock t c cyc
    s.signature t c pc cyc = u.failCheck t c cyc (u.checkCause t c pc) k := by
  unfold State.signature
  extract_lets u x st okH okL b code
  have hck : (if (x.word c (pc + 3)).testBit 30 || st.nrm then none else st.ck) = some k := (State.rerunFrom_of_rerunnable hmay).trans hk
  have hcode : code = u.checkCause t c pc := State.checkCause_eq
  rw [if_neg (by simpa [okH, okL] using hbad), hck, ← hcode]

end Outcome

/-! ## A block that fails its check (R155, R156) -/

/-- FAILS of a tile counts one failed check more, up to 15. -/
def State.countFail (s : State) (t : Nat) : State :=
  s.updTile t fun x => { x with fails := BitVec.ofNat 4 (min 15 ((s.tile t).fails.toNat + 1)) }

/-- The far accesses of a stream that bring a result and that a checkpoint does not list leave. -/
def State.dropOwnOps (s : State) (t : Nat) (c : Ctx) (k : Checkpoint) : State :=
  { s with ops := s.ops.filter fun (o : HoldOp) => !(o.tile == t && o.ctx == c && o.result.isSome && !k.ops.contains o.id) }

/-- A stream and the registers kept for it, back at the checkpoint. -/
def State.rewindTo (s : State) (t : Nat) (c : Ctx) (k : Checkpoint) : State :=
  (s.updTile t fun x => x.restoreKept c).updStream t c fun x => x.rewind k

/-- A stream's block is undone: its registers, its stream and its far accesses stand as at the checkpoint (R155, steps 2 to 4). -/
def State.undoBlock (s : State) (t : Nat) (c : Ctx) (k : Checkpoint) : State :=
  ((s.rewindTo t c k).dropOwnOps t c k).updTile t fun x =>
    { x with fenced := x.fenced.filter fun f => f.ctx != c || k.ops.contains f.id }

/-- When the block of a tile's stream issues again: the primary's at the checkpoint's cycle after 8 ticks, the secondary's nine cycles on
(R155, step 5; R157). -/
def Tile.issueAgain (x : Tile) (c : Ctx) (cyc : Nat) (k : Checkpoint) : Tile :=
  match c with
  | .primary => { x with spring := k.spring, prim := { x.prim with nextIssue := k.cycle, rerun := some ⟨8, k.cycle⟩ } }
  | c => x.setStream c { x.stream c with nextIssue := cyc + 9 }

section Rewind
variable {s : State} {t : Nat} {c : Ctx} {cyc : Nat} {code : BitVec 6} {k : Checkpoint}

@[simp] theorem State.tile_now (i : Instr) : (s.now i).tile t = s.tile t := rfl

theorem State.Canon.countFail (hs : s.Canon) : (s.countFail t).Canon := hs.updTile fun _ hx => hx

theorem State.Canon.tile_countFail (hs : s.Canon) :
    (s.countFail t).tile t = { s.tile t with fails := BitVec.ofNat 4 (min 15 ((s.tile t).fails.toNat + 1)) } :=
  hs.tile_updTile.trans (if_pos rfl)

theorem State.Canon.failCheck_at_limit (hs : s.Canon) (hlim : retnOf (s.thdr t) ≤ (s.tile t).fails.toNat + 1) :
    s.failCheck t c cyc code k =
      ((s.countFail t).updTile t fun x => { x with retiring := some (code.setWidth 8, cyc) }).now (.tileRetire t) := by
  have hhdr : (s.countFail t).thdr t = s.thdr t := hs.thdr_updTile rfl
  exact if_pos (hhdr ▸ hlim)

theorem State.Canon.failCheck_below_limit (hs : s.Canon) (hlim : (s.tile t).fails.toNat + 1 < retnOf (s.thdr t)) :
    s.failCheck t c cyc code k = ((s.countFail t).undoBlock t c k).updTile t fun x => x.issueAgain c cyc k := by
  have hhdr : (s.countFail t).thdr t = s.thdr t := hs.thdr_updTile rfl
  unfold State.failCheck
  refine (if_neg (not_le.2 (hhdr ▸ hlim))).trans ?_
  cases c <;> rfl

theorem State.Canon.rewindTo (hs : s.Canon) : (s.rewindTo t c k).Canon := canon_updStream (hs.updTile fun _ => spad_restoreKept)

theorem State.Canon.dropOwnOps (hs : s.Canon) : (s.dropOwnOps t c k).Canon := canon_eta.2 hs

theorem State.Canon.undoBlock (hs : s.Canon) : (s.undoBlock t c k).Canon := hs.rewindTo.dropOwnOps.updTile fun _ hx => hx

theorem State.Canon.tile_rewindTo (hs : s.Canon) :
    (s.rewindTo t c k).tile t = ((s.tile t).restoreKept c).setStream c (((s.tile t).stream c).rewind k) := by
  have hkept : (s.updTile t fun x => x.restoreKept c).Canon := hs.updTile fun _ => spad_restoreKept
  rw [State.rewindTo, State.updStream, hkept.tile_updTile, if_pos rfl, hs.tile_updTile, if_pos rfl, Tile.stream_restoreKept]

@[simp] theorem State.tile_dropOwnOps : (s.dropOwnOps t c k).tile t = s.tile t := rfl

/-- A tile whose block is undone: the kept registers and the stream as at the checkpoint, and no fenced access of the block. -/
theorem State.Canon.tile_undoBlock (hs : s.Canon) :
    let x := ((s.tile t).restoreKept c).setStream c (((s.tile t).stream c).rewind k)
    (s.undoBlock t c k).tile t = { x with fenced := x.fenced.filter fun f => f.ctx != c || k.ops.contains f.id } := by
  rw [State.undoBlock, hs.rewindTo.dropOwnOps.tile_updTile, if_pos rfl, State.tile_dropOwnOps, hs.tile_rewindTo]

/-- Issuing again sets two fields of a stream that runs blocks: when it issues next, and the re-run under way. -/
theorem Tile.stream_issueAgain (x : Tile) (hc : c ≠ .handler) :
    (x.issueAgain c cyc k).stream c = { x.stream c with
      nextIssue := ((x.issueAgain c cyc k).stream c).nextIssue, rerun := ((x.issueAgain c cyc k).stream c).rerun } := by
  cases c with
  | primary => rfl
  | secondary => rfl
  | handler => exact absurd rfl hc

@[simp] theorem Tile.fails_issueAgain (x : Tile) : (x.issueAgain c cyc k).fails = x.fails := by cases c <;> rfl

@[simp] theorem Tile.fenced_issueAgain (x : Tile) : (x.issueAgain c cyc k).fenced = x.fenced := by cases c <;> rfl

@[simp] theorem Tile.fails_restoreKept (x : Tile) : (x.restoreKept c).fails = x.fails := rfl

/-- The tile of a block that failed its check at the limit: it is to retire. -/
theorem State.Canon.tile_failCheck_at_limit (hs : s.Canon) (hlim : retnOf (s.thdr t) ≤ (s.tile t).fails.toNat + 1) :
    (s.failCheck t c cyc code k).tile t = { (s.countFail t).tile t with retiring := some (code.setWidth 8, cyc) } := by
  rw [hs.failCheck_at_limit hlim, State.tile_now, hs.countFail.tile_updTile, if_pos rfl]

/-- The tile of a block that failed its check short of the limit: it runs the block again. -/
theorem State.Canon.tile_failCheck_below_limit (hs : s.Canon) (hlim : (s.tile t).fails.toNat + 1 < retnOf (s.thdr t)) :
    (s.failCheck t c cyc code k).tile t = (((s.countFail t).undoBlock t c k).tile t).issueAgain c cyc k := by
  rw [hs.failCheck_below_limit hlim, hs.countFail.undoBlock.tile_updTile, if_pos rfl]

theorem State.Canon.fails_failCheck (hs : s.Canon) :
    ((s.failCheck t c cyc code k).tile t).fails = BitVec.ofNat 4 (min 15 ((s.tile t).fails.toNat + 1)) := by
  rcases le_or_gt (retnOf (s.thdr t)) ((s.tile t).fails.toNat + 1) with hlim | hlim
  · rw [hs.tile_failCheck_at_limit hlim, hs.tile_countFail]
  · rw [hs.tile_failCheck_below_limit hlim, hs.countFail.tile_undoBlock]
    simp [hs.tile_countFail]

theorem State.Canon.retiring_failCheck (hs : s.Canon) (hlim : retnOf (s.thdr t) ≤ (s.tile t).fails.toNat + 1) :
    ((s.failCheck t c cyc code k).tile t).retiring = some (code.setWidth 8, cyc) ∧
      (.tileRetire t, .none) ∈ (s.failCheck t c cyc code k).agenda := by
  refine ⟨by rw [hs.tile_failCheck_at_limit hlim], ?_⟩
  rw [hs.failCheck_at_limit hlim]
  exact List.mem_cons_self

/-- The stream that runs its block again is rewound, and waits for the block's first bundle. -/
theorem State.Canon.stream_failCheck (hs : s.Canon) (hlim : (s.tile t).fails.toNat + 1 < retnOf (s.thdr t)) (hc : c ≠ .handler) :
    let z := ((s.failCheck t c cyc code k).tile t).stream c
    z = { ((s.tile t).stream c).rewind k with nextIssue := z.nextIssue, rerun := z.rerun } := by
  have hstream : (((s.countFail t).undoBlock t c k).tile t).stream c = ((s.tile t).stream c).rewind k := by
    rw [hs.countFail.tile_undoBlock, hs.tile_countFail]
    cases c <;> rfl
  rw [hs.tile_failCheck_below_limit hlim, ← hstream]
  exact Tile.stream_issueAgain _ hc

/-- The far accesses of the stream that still bring a result are those of the checkpoint. -/
theorem State.Canon.ops_failCheck (hs : s.Canon) (hlim : (s.tile t).fails.toNat + 1 < retnOf (s.thdr t)) {o : HoldOp}
    (ho : o ∈ (s.failCheck t c cyc code k).ops) (ht : o.tile = t) (hoc : o.ctx = c) (hr : o.result ≠ none) : o.id ∈ k.ops := by
  rw [hs.failCheck_below_limit hlim] at ho
  obtain ⟨-, hkeep⟩ := List.mem_filter.1 ho
  simpa [ht, hoc, Option.isSome_iff_ne_none.2 hr] using hkeep

theorem State.Canon.fenced_failCheck (hs : s.Canon) (hlim : (s.tile t).fails.toNat + 1 < retnOf (s.thdr t)) {f : Fenced}
    (hf : f ∈ ((s.failCheck t c cyc code k).tile t).fenced) (hfc : f.ctx = c) : f.id ∈ k.ops := by
  rw [hs.tile_failCheck_below_limit hlim, Tile.fenced_issueAgain, hs.countFail.tile_undoBlock] at hf
  obtain ⟨-, hkeep⟩ := List.mem_filter.1 hf
  simpa [hfc] using hkeep

/-- The primary's block issues again after eight ticks, on its own cycles, with its Spring words (R155). -/
theorem State.Canon.failCheck_primary (hs : s.Canon) (hlim : (s.tile t).fails.toNat + 1 < retnOf (s.thdr t)) :
    let z := (s.failCheck t .primary cyc code k).tile t
    (z.stream .primary).rerun = some ⟨8, k.cycle⟩ ∧ (z.stream .primary).nextIssue = k.cycle ∧ z.spring = k.spring := by
  rw [hs.tile_failCheck_below_limit hlim]
  exact ⟨rfl, rfl, rfl⟩

/-- The secondary's block issues again nine cycles on (R157). -/
theorem State.Canon.failCheck_secondary (hs : s.Canon) (hlim : (s.tile t).fails.toNat + 1 < retnOf (s.thdr t)) :
    (((s.failCheck t .secondary cyc code k).tile t).stream .secondary).nextIssue = cyc + 9 := by
  rw [hs.tile_failCheck_below_limit hlim]
  rfl

end Rewind

end Sys2Proof.Machine

open Sys2Proof Sys2Proof.Machine

/-- Settles O44: the outcome of a check by whether both folds agree and the block may run again, and a block that fails by whether its tile is at
the limit of failures. -/
theorem signatureChecks : Obligations.SignatureChecks := by
  intro s t c pc cyc u x st okH okL b nr
  refine ⟨fun hflow hlineage => State.signature_passes ⟨hflow, hlineage⟩, fun hbad hnot => State.signature_raises hbad hnot,
    fun k hbad hmay hk hs => ?_⟩
  have hu : u.Canon := canon_openBlock hs
  have hhdr : u.thdr t = s.thdr t := hs.thdr_openBlock
  have hfail : s.signature t c pc cyc = u.failCheck t c cyc (u.checkCause t c pc) k := State.signature_fails hbad hmay hk
  rw [hfail, ← hhdr]
  refine ⟨hu.fails_failCheck, fun hlim => ?_, fun hlim hc => ?_⟩
  · obtain ⟨hretiring, hagenda⟩ := hu.retiring_failCheck hlim
    rw [State.setWidth_checkCause] at hretiring
    exact ⟨hretiring, hagenda⟩
  · have hstream := hu.stream_failCheck (cyc := cyc) (code := u.checkCause t c pc) (k := k) hlim hc
    exact ⟨congrArg Stream.pc hstream, congrArg Stream.regs hstream, congrArg Stream.loops hstream, congrArg Stream.rstack hstream,
      congrArg Stream.inflight hstream, congrArg Stream.issued hstream, congrArg Stream.jump hstream,
      fun o ho => hu.ops_failCheck hlim ho, fun f hf => hu.fenced_failCheck hlim hf,
      fun hprim => by subst hprim; exact hu.failCheck_primary hlim, fun hsec => by subst hsec; exact hu.failCheck_secondary hlim⟩

end

section
/-! PROOFS. The frame of a syllable: the one frame law of each opcode, gathered over all the syllables of a tile. -/

namespace Sys2Proof.Machine

/-! ## The frame of a syllable (R134, R152, R158, R343) -/

/-- A syllable of a tile changes nothing before its commit point but its bundle's shadow, its tile's ports and corrected errors, and the
count of free values (R134, R152). -/
theorem same_exec {i : Instr} {s : State} (hevent : i.cls ≠ .event) (hchannel : i.cls ≠ .channel)
    (hwf : SMap.wf Tile.reset s.tiles = true) : OutSame s (exec i s) := by
  have hw : Same s s := Same.refl hwf
  cases i with
  | add => exact same_execAdd hw | sub => exact same_execSub hw | addi => exact same_execAddi hw | and => exact same_execAnd hw
  | or => exact same_execOr hw | xor => exact same_execXor hw | andi => exact same_execAndi hw | ori => exact same_execOri hw
  | xori => exact same_execXori hw | shl => exact same_execShl hw | shr => exact same_execShr hw | sra => exact same_execSra hw
  | shli => exact same_execShli hw | shri => exact same_execShri hw | srai => exact same_execSrai hw
  | mul => exact same_execMul hw | mulh => exact same_execMulh hw | mulhu => exact same_execMulhu hw
  | divu => exact same_execDivu hw | remu => exact same_execRemu hw | min => exact same_execMin hw | max => exact same_execMax hw
  | minu => exact same_execMinu hw | maxu => exact same_execMaxu hw | clz => exact same_execClz hw
  | popc => exact same_execPopc hw | movi => exact same_execMovi hw | movsh => exact same_execMovsh hw
  | sel => exact same_execSel hw | extf => exact same_execExtf hw | lea => exact same_execLea hw | cmp => exact same_execCmp hw
  | cmpi => exact same_execCmpi hw | plog => exact same_execPlog hw | mfsr => exact same_execMfsr hw
  | mtsr => exact same_execMtsr hw | lds => exact same_execLds hw | sts => exact same_execSts hw | ldf => exact same_execLdf hw
  | addw => exact same_execAddw hw | subw => exact same_execSubw hw | rotl => exact same_execRotl hw
  | bext => exact same_execBext hw | bins => exact same_execBins hw | muli => exact same_execMuli hw | br => exact same_execBr hw
  | bri => exact same_execBri hw | call => exact same_execCall hw | ret => exact same_execRet hw | loop => exact same_execLoop hw
  | loopi => exact same_execLoopi hw | brkl => exact same_execBrkl hw | setlc => exact same_execSetlc hw
  | phase => exact same_execPhase hw | epoch => exact same_execEpoch hw | gateset => exact same_execGateset hw
  | rdv => exact same_execRdv hw | fence => exact same_execFence hw | snap => exact same_execSnap hw
  | trapi => exact same_execTrapi hw | rett => exact same_execRett hw | waiti => exact same_execWaiti hw
  | endt => exact same_execEndt hw | nopn => exact same_execNopn hw | sprng => exact same_execSprng hw
  | inten => exact same_execInten hw | secs => exact same_execSecs hw | vld => exact same_execVld hw
  | vst => exact same_execVst hw | vldx => exact same_execVldx hw | vstx => exact same_execVstx hw
  | vldb => exact same_execVldb hw | vlds => exact same_execVlds hw | vsts => exact same_execVsts hw
  | send => exact same_execSend hw | recv => exact same_execRecv hw | lsend => exact same_execLsend hw
  | lrecv => exact same_execLrecv hw | dsend => exact same_execDsend hw | drecv => exact same_execDrecv hw
  | fnest => exact same_execFnest hw | fbase => exact same_execFbase hw | fidx => exact same_execFidx hw
  | fgo => exact same_execFgo hw | fsig => exact same_execFsig hw | fred => exact same_execFred hw
  | fqry => exact same_execFqry hw | fcan => exact same_execFcan hw | wbr => exact same_execWbr (a3 := 0) hw
  | invr => exact same_execInvr (a3 := 0) hw | discr => exact same_execDiscr (a3 := 0) hw | amo => exact same_execAmo hw
  | cas => exact same_execCas hw | binit => exact same_execBinit hw | barrive => exact same_execBarrive hw
  | bexpect => exact same_execBexpect hw | bread => exact same_execBread hw | brearm => exact same_execBrearm hw
  | vadd => exact same_execVadd hw | vsub => exact same_execVsub hw | vmul => exact same_execVmul hw
  | vand => exact same_execVand hw | vor => exact same_execVor hw | vxor => exact same_execVxor hw
  | vshl => exact same_execVshl hw | vshr => exact same_execVshr hw | vsra => exact same_execVsra hw
  | vmin => exact same_execVmin hw | vmax => exact same_execVmax hw | vminu => exact same_execVminu hw
  | vmaxu => exact same_execVmaxu hw | vcmp => exact same_execVcmp hw | vadds => exact same_execVadds hw
  | vfadd => exact same_execVfadd hw | vfsub => exact same_execVfsub hw | vfmul => exact same_execVfmul hw
  | vfma => exact same_execVfma hw | vfnma => exact same_execVfnma hw | vfmin => exact same_execVfmin hw
  | vfmax => exact same_execVfmax hw | vfcmp => exact same_execVfcmp hw | vfabs => exact same_execVfabs hw
  | vfneg => exact same_execVfneg hw | vbadd => exact same_execVbadd hw | vbmul => exact same_execVbmul hw
  | vbfma => exact same_execVbfma hw | vfrnd => exact same_execVfrnd hw | vlmul => exact same_execVlmul hw
  | vldiv => exact same_execVldiv hw | vlsqrt => exact same_execVlsqrt hw | vlinv => exact same_execVlinv hw
  | vcvt => exact same_execVcvt hw | vexp2 => exact same_execVexp2 hw | vlog2 => exact same_execVlog2 hw
  | vmov => exact same_execVmov hw | vsel => exact same_execVsel hw | vperm => exact same_execVperm hw
  | vrot => exact same_execVrot hw | vred => exact same_execVred hw | vext => exact same_execVext hw
  | vins => exact same_execVins hw | viota => exact same_execViota hw | vpack => exact same_execVpack hw
  | vunpk => exact same_execVunpk hw | qlog => exact same_execQlog hw | qset => exact same_execQset hw
  | qget => exact same_execQget hw | vclz => exact same_execVclz hw | vpopc => exact same_execVpopc hw
  | vmulh => exact same_execVmulh hw | mldw => exact same_execMldw hw | mswap => exact same_execMswap hw
  | mstr => exact same_execMstr hw | mstrz => exact same_execMstrz hw | mcbt => exact same_execMcbt hw
  | mscl => exact same_execMscl hw | ard => exact same_execArd hw | ardb => exact same_execArdb hw
  | ardl => exact same_execArdl hw | ardl8 => exact same_execArdl8 hw | awr => exact same_execAwr hw
  | awrb => exact same_execAwrb hw | aclr => exact same_execAclr hw | aadd => exact same_execAadd hw
  | act | rd | wr | pre | prea | ref | refpb | waitc | tnest | tend | troute | thalt => exact absurd rfl hchannel
  | _ => exact absurd rfl hevent

end Sys2Proof.Machine

open Sys2Proof Sys2Proof.Machine

/-- Settles O7: the next state of a syllable's step is the same but for what the frame law of its opcode leaves open. -/
theorem syllableFrame : Obligations.SyllableFrame :=
  fun _ _ _ hevent hchannel hs hexec => ((same_exec hevent hchannel hs.tiles).next _ hexec).but

end

section
/-! PROOFS. Results in flight: reads of a register file after a write, the lanes of a packed register and the bits of a packed mask, the
flags of the active lanes, and a register context after a result has landed. -/

namespace Sys2Proof.Machine

/-! ## Register files and predicates (R103) -/

section Files
variable {k w : Nat}

theorem rd_wr (f : RegFile k w) (i j : BitVec k) (x : BitVec w) : rd (wr f i x) j = if j = i then x else rd f j := by
  have hij : (i.toNat = j.toNat) = (j = i) := by rw [BitVec.toNat_inj, eq_comm (a := i)]
  simp [rd, wr, Vector.get_eq_getElem, Vector.getElem_set, hij]

@[simp] theorem rd_wr_same (f : RegFile k w) (i : BitVec k) (x : BitVec w) : rd (wr f i x) i = x := by rw [rd_wr, if_pos rfl]

theorem rd_wr_other {i j : BitVec k} (f : RegFile k w) (x : BitVec w) (h : j ≠ i) : rd (wr f i x) j = rd f j := by
  rw [rd_wr, if_neg h]

theorem getLsbD_setP (p : BitVec 16) (d : BitVec 4) (b : Bool) {i : Nat} (hi : i < 16) :
    (setP p d b).getLsbD i = if i = d.toNat ∧ d ≠ 0 then b else p.getLsbD i := by
  by_cases hd : d = 0
  · rw [setP, if_pos hd, if_neg (fun h => h.2 hd)]
  · simp only [setP, ne_eq, hd, not_false_eq_true, and_true]
    by_cases h : i = d.toNat
    · subst h
      cases b <;> simp [hi, -BitVec.getLsbD_eq_getElem]
    · cases b <;> simp [h, hi, eq_comm (a := d.toNat), BitVec.getLsbD_twoPow, -BitVec.getLsbD_eq_getElem]

end Files

/-! ## Packed lanes and masks (R186, R205) -/

/-- A digit of a number that packs digits of `w` bits, lowest first. -/
theorem testBit_foldr_digits {w : Nat} {g : Nat → Nat} (hg : ∀ l, g l < 2 ^ w) {j : Nat} (hj : j < w) (ls : List Nat) {i : Nat}
    (hi : i < ls.length) : (ls.foldr (fun l acc => g l + 2 ^ w * acc) 0).testBit (w * i + j) = (g ls[i]).testBit j := by
  induction ls generalizing i with
  | nil => exact absurd hi (Nat.not_lt_zero i)
  | cons l ls ih =>
    rw [List.foldr_cons, add_comm, Nat.testBit_two_pow_mul_add _ (hg l)]
    cases i with
    | zero => simp [hj]
    | succ i =>
      rw [if_neg (by rw [Nat.mul_succ]; omega), Nat.mul_succ, show w * i + w + j - w = w * i + j by omega]
      exact ih (Nat.succ_lt_succ_iff.1 hi)

theorem lane_ofLanes (f : Nat → BitVec 32) {l : Nat} (hl : l < 64) : lane (ofLanes f) l = f l := by
  apply BitVec.eq_of_getLsbD_eq
  intro j hj
  have hdigit := testBit_foldr_digits (fun l => (f l).isLt) hj (List.range 64) (i := l) (by simpa using hl)
  rw [List.getElem_range, BitVec.testBit_toNat] at hdigit
  rw [lane, BitVec.getLsbD_extractLsb', ofLanes, BitVec.getLsbD_ofNat, hdigit, decide_eq_true hj,
    decide_eq_true (show 32 * l + j < 2048 by omega), Bool.true_and, Bool.true_and]

theorem getLsbD_ofMask (f : Nat → Bool) {l : Nat} (hl : l < 64) : (ofMask f).getLsbD l = f l := by
  have hdigit := testBit_foldr_digits (w := 1) (g := fun l => if f l then 1 else 0) (fun l => by split <;> decide)
    Nat.one_pos (List.range 64) (i := l) (by simpa using hl)
  simp only [one_mul, add_zero, List.getElem_range, pow_one] at hdigit
  rw [ofMask, BitVec.getLsbD_ofNat, hdigit]
  cases f l <;> simp [hl]

theorem lane_mergeLanes (m : BitVec 64) (new old : VReg) {l : Nat} (hl : l < 64) :
    lane (mergeLanes m new old) l = if m.getLsbD l then lane new l else lane old l := by
  unfold mergeLanes
  split
  case isTrue h => rw [h, BitVec.getLsbD_allOnes, decide_eq_true hl, if_pos rfl]
  case isFalse => exact lane_ofLanes _ hl

theorem mem_lanesOf {m : BitVec 64} {l : Nat} : l ∈ lanesOf m ↔ l < 64 ∧ m.getLsbD l = true := by
  rw [lanesOf, List.mem_filter, List.mem_range]

/-- A bit of the OR of flags is set where one of them has it set. -/
theorem getLsbD_foldl_or {w : Nat} (g : Nat → BitVec w) (i : Nat) (ls : List Nat) (fl : BitVec w) :
    (ls.foldl (fun fl l => fl ||| g l) fl).getLsbD i = true ↔ fl.getLsbD i = true ∨ ∃ l ∈ ls, (g l).getLsbD i = true := by
  induction ls generalizing fl with
  | nil => simp
  | cons l ls ih => rw [List.foldl_cons, ih]; simp [or_assoc]

theorem getLsbD_lanesFlags {m : BitVec 64} {g : Nat → VFl} {i : Nat} :
    (lanesFlags m g).getLsbD i = true ↔ ∃ l, l < 64 ∧ m.getLsbD l = true ∧ (g l).getLsbD i = true := by
  rw [lanesFlags, getLsbD_foldl_or]
  simp [mem_lanesOf, and_assoc]

/-! ## A result lands (R134, R205, R206, R355) -/

/-- The registers with the flags of a result ORed in. -/
def Regs.orFlags (g : Regs) (r : Result) : Regs := { g with vflags := g.vflags ||| r.vf }

section Land
variable {g : Regs} {r : Result} {k : Bool}

theorem Regs.land_scalar {d : BitVec 6} (h : r.dest = .s d) : g.land r k =
    { g.orFlags r with s := wr g.s d (r.value.setWidth 64), st := if k then g.st else wr g.st d r.tag } := by
  simp only [Regs.land, h, Regs.orFlags]

theorem Regs.land_vector {d : BitVec 6} (h : r.dest = .v d) : g.land r k =
    { g.orFlags r with v := wr g.v d (mergeLanes r.lanes r.value (rd g.v d)), vt := if k then g.vt else wr g.vt d r.tag } := by
  simp only [Regs.land, h, Regs.orFlags]

theorem Regs.land_predicate {d : BitVec 4} (h : r.dest = .p d) : g.land r k =
    { g.orFlags r with p := setP g.p d (r.value.getLsbD 0) } := by
  simp only [Regs.land, h, Regs.orFlags]

theorem Regs.land_mask {d : BitVec 3} (h : r.dest = .q d) : g.land r k =
    { g.orFlags r with q := if d = 0 then g.q else wr g.q d ((r.value.setWidth 64 &&& r.lanes) ||| (rd g.q d &&& ~~~ r.lanes)) } := by
  simp only [Regs.land, h, Regs.orFlags]
  split <;> rfl

/-- The tag of a register after a result: the result's at its register, unless a handler keeps the tag. -/
theorem rd_tag_landed {n : Nat} (f : RegFile n 16) (d i : BitVec n) (x : Tag) :
    rd (if k then f else wr f d x) i = if i = d ∧ k = false then x else rd f i := by
  cases k <;> simp [rd_wr]

end Land

end Sys2Proof.Machine

open Sys2Proof Sys2Proof.Machine

/-- Settles O10: each kind of destination by the write it makes; the flags and the other registers by the frame of that write. -/
theorem resultsLand : Obligations.ResultsLand := by
  intro g r k h
  cases hd : r.dest with
  | s d =>
    have hh : h = _ := Regs.land_scalar hd
    simp only [hh]
    exact ⟨rfl, rfl, rfl, rfl, rfl, rfl, fun i => rd_wr _ _ _ _, fun i => rd_tag_landed _ _ _ _, rfl, rfl, rfl, rfl⟩
  | v d =>
    have hh : h = _ := Regs.land_vector hd
    simp only [hh]
    refine ⟨rfl, rfl, rfl, rfl, rfl, rfl, fun i hi => rd_wr_other _ _ hi, fun l hl => ?_, fun i => rd_tag_landed _ _ _ _, rfl, rfl,
      rfl, rfl⟩
    rw [rd_wr_same, lane_mergeLanes _ _ _ hl]
  | p d =>
    have hh : h = _ := Regs.land_predicate hd
    simp only [hh]
    exact ⟨rfl, rfl, rfl, rfl, rfl, rfl, fun i hi => getLsbD_setP _ _ _ hi, rfl, rfl, rfl, rfl, rfl⟩
  | q d =>
    have hh : h = _ := Regs.land_mask hd
    simp only [hh]
    refine ⟨rfl, rfl, rfl, rfl, rfl, rfl, fun i hi => ?_, fun hne l hl => ?_, rfl, rfl, rfl, rfl, rfl⟩
    · split
      case isTrue => rfl
      case isFalse => exact rd_wr_other _ _ hi
    · rw [if_neg hne, rd_wr_same]
      simp only [BitVec.getLsbD_or, BitVec.getLsbD_and, BitVec.getLsbD_not, BitVec.getLsbD_setWidth, decide_eq_true hl, Bool.true_and]
      cases r.lanes.getLsbD l <;> simp

end

section
/-! PROOFS. The shared frame of the vector unit: nothing with no active lane, and with one the result on the active lanes. -/

namespace Sys2Proof.Machine

/-! ## The shared frame (R205, R206) -/

section Frame
variable {s : State} {q : BitVec 3} {lat : Nat}

theorem State.vmap_inactive (h : s.rq q = 0) (d : BitVec 6) (op : Nat) (tags : List Tag) (f : Nat → BitVec 32 × VFl) :
    s.vmap d op lat q tags f = s := if_pos h

theorem State.vmap_active (h : s.rq q ≠ 0) (d : BitVec 6) (op : Nat) (tags : List Tag) (f : Nat → BitVec 32 × VFl) :
    s.vmap d op lat q tags f = s.resultV d lat (s.rq q) (ofLanes fun l => if (s.rq q).getLsbD l then (f l).1 else 0)
      (tagOf tags (opk 3 op)) (lanesFlags (s.rq q) fun l => (f l).2) 0 := if_neg h

theorem State.vmask_inactive (h : s.rq q = 0) (d : BitVec 3) (f : Nat → Bool × VFl) : s.vmask d lat q f = s := if_pos h

theorem State.vmask_active (h : s.rq q ≠ 0) (d : BitVec 3) (f : Nat → Bool × VFl) :
    s.vmask d lat q f = s.resultQ d lat (s.rq q) (ofMask fun l => (s.rq q).getLsbD l && (f l).1)
      (lanesFlags (s.rq q) fun l => (f l).2) := if_neg h

end Frame

end Sys2Proof.Machine

open Sys2Proof Sys2Proof.Machine

/-- Settles O30: with no active lane nothing, else the one result on the active lanes, whose lanes and flags are read back. -/
theorem vectorFrame : Obligations.VectorFrame := by
  intro s lat op q
  refine ⟨fun h => ⟨fun d => State.vmap_inactive h d op, State.vmask_inactive h⟩, fun h => ⟨fun d tags f => ?_, fun d f => ?_⟩,
    fun _ _ => rfl, fun _ => rfl, readQ_zero _⟩
  · refine ⟨_, _, State.vmap_active h d op tags f, fun l hl hact => ?_, fun i => getLsbD_lanesFlags⟩
    rw [lane_ofLanes _ hl, if_pos hact]
  · refine ⟨_, _, State.vmask_active h d f, fun l hl hact => ?_, fun i => getLsbD_lanesFlags⟩
    rw [getLsbD_ofMask _ hl, hact, Bool.true_and]

end

section
/-! PROOFS. The timed transfers: the two checks of a target, and each transfer by the check that fails. -/

namespace Sys2Proof.Machine

/-! ## Effects under a predicate (R101) -/

/-- A syllable whose effect is `t` leaves `t` under its predicate. -/
theorem State.when_eq_guarded {s t : State} {p : BitVec 4} {f : State → State} (h : f s = t) : s.when p f = .next (s.guarded p t) :=
  congrArg (fun u => Host.Outcome.next (s.guarded p u)) h

/-! ## Targets (R270) -/

section Targets
variable {s : State} {tgt : BitVec 9} {t : Nat}

theorem State.sendCheck_of_no_target (h : s.target (dieOf s.cur.tile) tgt.toNat = none) : s.sendCheck tgt = (some 0x02, 0) := by
  simp only [State.sendCheck, h]

theorem State.sendCheck_of_target (h : s.target (dieOf s.cur.tile) tgt.toNat = some t) : s.sendCheck tgt =
    (if s.regionOf t ≠ s.regionOf s.cur.tile ∧ s.inExchange = false then some 0x13 else none, t) := by
  simp only [State.sendCheck, h, Bool.and_eq_true, decide_eq_true_eq, Bool.not_eq_true']

end Targets

end Sys2Proof.Machine

open Sys2Proof Sys2Proof.Machine

/-- Settles O26: a transmission by whether its target exists and whether the window allows it; a receive by the latch it reads. -/
theorem timedTransfers : Obligations.TimedTransfers := by
  refine ⟨fun p v tgt sid s => ?_, fun p v tgt sid d s => ?_, fun _ _ _ _ => rfl, fun _ _ _ _ => rfl, fun p a tgt sid off s => ?_,
    fun _ _ _ _ _ => rfl⟩
  · rw [exec_send]
    refine State.when_eq_guarded ?_
    cases h : s.target (dieOf s.cur.tile) tgt.toNat with
    | none => simp only [State.sendCheck_of_no_target h]
    | some t =>
      rw [State.sendCheck_of_target h]
      split_ifs with hwindow
      · exact (if_pos hwindow).symm
      · exact (if_neg hwindow).symm
  · rw [exec_dsend]
    refine State.when_eq_guarded ?_
    simp only [Bool.not_eq_true']
    rfl
  · rw [exec_lsend]
    refine State.when_eq_guarded ?_
    cases h : s.target (dieOf s.cur.tile) tgt.toNat with
    | none => simp only [State.sendCheck_of_no_target h]
    | some t =>
      rw [State.sendCheck_of_target h]
      split_ifs with hwindow
      · exact (if_pos hwindow).symm
      · exact (if_neg hwindow).symm

end

section
/-! PROOFS. What a committing bundle's effects do to its stream or to its handler, and the transfers: their targets, their successors, and
what each leaves at its commit. -/

namespace Sys2Proof.Machine

/-! ## A tile after one of its own updates -/

section Updates
variable {s : State} {t : Nat} {c : Ctx}

theorem State.Canon.tile_updTile_same (hs : s.Canon) {f : Tile → Tile} : (s.updTile t f).tile t = f (s.tile t) :=
  hs.tile_updTile.trans (if_pos rfl)

theorem State.Canon.tile_updStream (hs : s.Canon) {f : Stream → Stream} :
    (s.updStream t c f).tile t = (s.tile t).setStream c (f ((s.tile t).stream c)) := hs.tile_updTile_same

theorem State.Canon.stream_updStream (hs : s.Canon) {f : Stream → Stream} :
    ((s.updStream t c f).tile t).stream c = f ((s.tile t).stream c) := by
  rw [hs.tile_updStream, Tile.stream_setStream]

theorem State.Canon.hm_updHm (hs : s.Canon) {f : Handler → Handler} : ((s.updHm t f).tile t).hm = (s.tile t).hm.map f :=
  congrArg Tile.hm hs.tile_updTile_same

end Updates

/-! ## Effects on a stream and on a handler (R134, R152, R170, R181 to R183, R343) -/

/-- What an effect that a stream and a handler make differently does to the stream its bundle commits in; `none` for every other effect. -/
def Effect.onStream (b : Issued) : Effect → Option (Stream → Stream)
  | .result r => some fun x => { x with inflight := x.inflight ++ [r] }
  | .delay d => some fun x => { x with delayed := x.delayed ++ [d] }
  | .store st => some fun x => { x with sbuf := x.sbuf ++ [st] }
  | .jump target => some fun x => { x with jump := some (target, 3) }
  | .push z => some fun x => { x with rstack := z :: x.rstack }
  | .pop => some fun x => { x with rstack := x.rstack.tail }
  | .endt => some fun x => { x with endt := true }
  | .nopn n => some fun x => { x with nextIssue := b.cycle + n }
  | _ => none

/-- What an effect does to the handler its bundle commits in; `none` for an effect that changes anything else. -/
def Effect.onHandler (b : Issued) : Effect → Option (Handler → Handler)
  | .result r => some fun h => { h with flight := h.flight ++ [r] }
  | .delay d => some fun h => { h with delayed := h.delayed ++ [d] }
  | .jump target => some fun h => { h with pc := target, next := b.cycle + 4 }
  | .push z => some fun h => { h with rstack := z :: h.rstack }
  | .pop => some fun h => { h with rstack := h.rstack.tail }
  | .rett => some fun h => { h with leaving := true, next := 2 ^ 64 }
  | .waiti => some fun h => { h with waiting := true }
  | .nopn n => some fun h => { h with next := b.cycle + n }
  | _ => none

section Effects
variable {s : State} {t : Nat} {c : Ctx} {b : Issued} {e : Effect}

theorem State.applyEffect_of_onStream {f : Stream → Stream} (hc : c ≠ .handler) (he : e.onStream b = some f) :
    s.applyEffect t c b e = s.updStream t c f := by
  cases c with
  | handler => exact absurd rfl hc
  | primary | secondary => cases e <;> cases he <;> rfl

theorem State.applyEffect_of_onHandler {f : Handler → Handler} (he : e.onHandler b = some f) :
    s.applyEffect t .handler b e = s.updHm t f := by
  cases e <;> cases he <;> rfl

theorem State.Canon.stream_applyEffect (hs : s.Canon) {f : Stream → Stream} (hc : c ≠ .handler) (he : e.onStream b = some f) :
    ((s.applyEffect t c b e).tile t).stream c = f ((s.tile t).stream c) := by
  rw [State.applyEffect_of_onStream hc he, hs.stream_updStream]

theorem State.Canon.hm_applyEffect (hs : s.Canon) {f : Handler → Handler} {h : Handler} (hh : (s.tile t).hm = some h)
    (he : e.onHandler b = some f) : ((s.applyEffect t .handler b e).tile t).hm = some (f h) := by
  rw [State.applyEffect_of_onHandler he, hs.hm_updHm, hh, Option.map_some]

end Effects

/-! ## Targets and successors (R128 to R130, R170) -/

section Transfers
variable {s : State}

theorem State.isAB_iff {a : Nat} : s.isAB a = true ↔ a = s.succA ∨ s.succB = some a := by
  simp [State.isAB]

/-- A transfer is made in handler mode, and elsewhere to a successor; else it raises CF_SUCCESSOR. -/
theorem State.transfer_eq {target : Nat} {full : W64} {ok : Bool} {P : Prop} [Decidable P] (h : ok = true ↔ P) :
    s.transfer target full ok = if s.cur.ctx = .handler ∨ P then s.emit (.jump target) else s.raise 0x0B 0 full := by
  refine if_congr ?_ rfl rfl
  rw [Bool.or_eq_true, h, beq_iff_eq, or_comm]

/-- A bundle that ends its block makes the jump of its stream: on the cycle the jump sets, with none left (R133). -/
theorem Stream.settle_jump {x : Stream} {b : Issued} {target n : Nat} (hsig : b.sig = true) (hjump : x.jump = some (target, n)) :
    (x.settle b).pc = target ∧ (x.settle b).nextIssue = b.cycle + n ∧ (x.settle b).jump = none := by
  simp [Stream.settle, hsig, hjump]

end Transfers

end Sys2Proof.Machine

open Sys2Proof Sys2Proof.Machine

/-- Settles O16: each transfer by its target and the successors it may take; what it leaves by its effect on the stream or the handler. -/
theorem transfers : Obligations.Transfers := by
  refine ⟨fun p disp s => ?_, fun p a s => ?_, fun p disp s => ?_, fun p s => rfl, fun s t c b target z hs hc => ?_,
    fun x b target n => Stream.settle_jump, fun s t b h target z hs hh => ?_⟩
  · rw [exec_br]
    exact State.when_eq_guarded (State.transfer_eq State.isAB_iff)
  · rw [exec_bri]
    refine State.when_eq_guarded (State.transfer_eq ?_)
    rw [Bool.and_eq_true, decide_eq_true_eq]
    refine and_congr_right fun _ => ?_
    split
    · rfl
    · exact State.isAB_iff
  · rw [exec_call]
    refine State.when_eq_guarded ?_
    simp only [State.transfer_eq decide_eq_true_iff]
    rfl
  · intro x y
    have hy {e : Effect} {f : Stream → Stream} (he : e.onStream b = some f) : y e = f x := hs.stream_applyEffect hc he
    rw [hy (e := .jump target) rfl, hy (e := .push z) rfl, hy (e := .pop) rfl]
    exact ⟨rfl, rfl, rfl, rfl, rfl⟩
  · intro y
    have hy {e : Effect} {f : Handler → Handler} (he : e.onHandler b = some f) : y e = some (f h) := hs.hm_applyEffect hh he
    rw [hy (e := .jump target) rfl, hy (e := .push z) rfl, hy (e := .pop) rfl]
    exact ⟨rfl, rfl, rfl⟩

end

section
/-! PROOFS. The checks of a scratchpad access: the lines a store's block has touched by each access, the first access that breaks a rule,
the ports an access takes, and what a load reads. -/

namespace Sys2Proof.Machine

/-! ## The lines a store buffer holds, access by access (R152, R202) -/

/-- The line an access falls in. -/
abbrev Access.line (x : Access) : Nat := x.2.toNat / 256

/-- The lines of a store buffer with the line of one access more. -/
def addLine (b : List Nat) (x : Access) : List Nat := if Access.line x ∈ b then b else Access.line x :: b

/-- The lines of a store buffer after some accesses. -/
def linesAfter (held : List Nat) (us : List Access) : List Nat := us.foldl addLine held

section Lines
variable {held : List Nat} {us : List Access} {x : Access}

theorem linesAfter_concat : linesAfter held (us ++ [x]) = addLine (linesAfter held us) x := List.foldl_concat ..

theorem mem_addLine {b : List Nat} {l : Nat} : l ∈ addLine b x ↔ l ∈ b ∨ l = Access.line x := by
  unfold addLine
  split
  case isTrue h => exact ⟨.inl, fun hl => hl.elim id fun hl => hl ▸ h⟩
  case isFalse => rw [List.mem_cons, or_comm]

theorem mem_linesAfter {l : Nat} : l ∈ linesAfter held us ↔ l ∈ held ∨ l ∈ us.map Access.line := by
  induction us using List.reverseRecOn with
  | nil => simp [linesAfter]
  | append_singleton us x ih => rw [linesAfter_concat, mem_addLine, ih]; simp [or_assoc]

/-- A buffer has grown by the distinct lines that it did not hold. -/
theorem length_linesAfter : (linesAfter held us).length =
    held.length + ((us.map Access.line).filter fun l => decide (l ∉ held)).dedup.length := by
  rw [← List.card_toFinset]
  induction us using List.reverseRecOn with
  | nil => simp [linesAfter]
  | append_singleton us x ih =>
    rw [linesAfter_concat, List.map_append, List.filter_append, List.toFinset_append]
    unfold addLine
    split
    case isTrue h =>
      rw [mem_linesAfter] at h
      rw [ih, Finset.union_eq_left.2]
      intro l hl
      simp only [List.map_cons, List.map_nil, List.mem_toFinset, List.mem_filter, List.mem_singleton, decide_eq_true_eq] at hl ⊢
      obtain ⟨rfl, hnew⟩ := hl
      exact ⟨h.resolve_left hnew, hnew⟩
    case isFalse h =>
      rw [mem_linesAfter, not_or] at h
      obtain ⟨hheld, hus⟩ := h
      have hlast : [Access.line x].filter (fun l => decide (l ∉ held)) = [Access.line x] := by simp [hheld]
      rw [List.length_cons, ih, List.map_cons, List.map_nil, hlast, Finset.card_union_of_disjoint]
      · rfl
      · rw [List.toFinset_cons, List.toFinset_nil, insert_empty_eq, Finset.disjoint_singleton_right, List.mem_toFinset, List.mem_filter]
        exact fun hmem => hus hmem.1

end Lines

/-! ## The first access that breaks a set rule (R152, R202) -/

/-- What an access breaks, with the lines a store buffer holds: a rule of the sets, or the buffer's 64 lines. -/
def breaksAt (out : Access → Option Nat) (buf : Option (List Nat)) (x : Access) : Option Nat :=
  (out x).or (buf.bind fun b => if Access.line x ∉ b ∧ 64 ≤ b.length then some 2 else none)

section First
variable {out : Access → Option Nat} {buf : Option (List Nat)} {x : Access}

theorem firstOut_cons_of_breaks {r : Nat} (h : breaksAt out buf x = some r) (xs : List Access) :
    firstOut out buf (x :: xs) = some (x, r) := by
  unfold breaksAt at h
  cases hx : out x with
  | some k =>
    rw [hx, Option.some_or] at h
    cases h
    cases buf <;> simp [firstOut, hx]
  | none =>
    rw [hx, Option.none_or] at h
    cases buf with
    | none => cases h
    | some b =>
      simp only [Option.bind_some, Option.ite_none_right_eq_some, Option.some.injEq] at h
      obtain ⟨⟨hnew, hfull⟩, rfl⟩ := h
      simp [firstOut, hx, hnew, hfull]

theorem firstOut_cons_of_keeps (h : breaksAt out buf x = none) (xs : List Access) :
    firstOut out buf (x :: xs) = firstOut out (buf.map fun b => addLine b x) xs := by
  obtain ⟨hx, hbuf⟩ := Option.or_eq_none_iff.1 h
  cases buf with
  | none => simp [firstOut, hx]
  | some b =>
    simp only [Option.bind_some, ite_eq_right_iff, reduceCtorEq, imp_false, not_and] at hbuf
    by_cases hmem : Access.line x ∈ b
    · simp [firstOut, hx, addLine, hmem]
    · simp [firstOut, hx, addLine, hmem, hbuf hmem]

/-- Accesses that break nothing are passed over. -/
theorem firstOut_append {ys : List Access}
    (h : ∀ us u vs, ys = us ++ u :: vs → breaksAt out (buf.map fun b => linesAfter b us) u = none) (xs : List Access) :
    firstOut out buf (ys ++ xs) = firstOut out (buf.map fun b => linesAfter b ys) xs := by
  induction ys using List.reverseRecOn generalizing xs with
  | nil => cases buf <;> rfl
  | append_singleton ys y ih =>
    have hlast := h ys y [] rfl
    rw [List.append_assoc, ih (fun us u vs hys => h us u (vs ++ [y]) (by simp [hys])), List.singleton_append,
      firstOut_cons_of_keeps hlast, Option.map_map]
    simp only [linesAfter_concat, Function.comp_def]

theorem firstOut_eq_none {xs : List Access}
    (h : ∀ us u vs, xs = us ++ u :: vs → breaksAt out (buf.map fun b => linesAfter b us) u = none) : firstOut out buf xs = none := by
  rw [← List.append_nil xs, firstOut_append h]
  cases buf <;> rfl

theorem firstOut_eq_some {ys zs : List Access} {r : Nat}
    (h : ∀ us u vs, ys = us ++ u :: vs → breaksAt out (buf.map fun b => linesAfter b us) u = none)
    (hx : breaksAt out (buf.map fun b => linesAfter b ys) x = some r) : firstOut out buf (ys ++ x :: zs) = some (x, r) := by
  rw [firstOut_append h, firstOut_cons_of_breaks hx]

end First

/-! ## The checks in their order (R168, R188, R191, R202) -/

/-- The lines of the store buffer an access of the bundle at hand goes to: a store's outside handler mode. -/
def State.storeLines (s : State) (write : Bool) : Option (List Nat) :=
  if write && s.cur.ctx != .handler then some (bufferLines s.buffered) else none

/-- The set rule an access of the bundle at hand breaks on its own: the bound, or the set of its engine. -/
def State.setRule (s : State) (eng : Option Nat) (write : Bool) (x : Access) : Option Nat :=
  if x.2 < 0 ∨ 0x400000 ≤ x.2 then some 1
  else match eng with
    | none => none
    | some e => if inSet (s.thdr s.cur.tile) (s.accessPhase write) e write (Access.line x) then none else some 0

section Rules
variable {s : State} {write : Bool} {eng : Option Nat}

theorem State.setRule_eq (x : Access) : s.setRule eng write x = if x.2 < 0 ∨ 0x400000 ≤ x.2 then some 1
    else if eng.any (fun e => !inSet (s.thdr s.cur.tile) (s.accessPhase write) e write (Access.line x)) then some 0 else none := by
  unfold State.setRule
  refine if_congr Iff.rfl rfl ?_
  cases eng with
  | none => rfl
  | some e => cases h : inSet (s.thdr s.cur.tile) (s.accessPhase write) e write (Access.line x) <;> simp [h]

/-- The line of a store that its block's buffer has no room for, after the accesses before it (R152). -/
theorem State.storeLines_full (us : List Access) (x : Access) :
    (((s.storeLines write).map fun b => linesAfter b us).bind fun b => if Access.line x ∉ b ∧ 64 ≤ b.length then some 2 else none) =
      if write = true ∧ (s.cur.ctx == .handler) = false ∧ Access.line x ∉ bufferLines s.buffered ∧
        Access.line x ∉ us.map Access.line ∧ 64 ≤ (bufferLines s.buffered).length +
          ((us.map Access.line).filter fun l => decide (l ∉ bufferLines s.buffered)).dedup.length
      then some 2 else none := by
  unfold State.storeLines
  by_cases h : (write && s.cur.ctx != .handler) = true
  · rw [if_pos h, Option.map_some, Option.bind_some]
    refine if_congr ?_ rfl rfl
    rw [mem_linesAfter, length_linesAfter, not_or]
    simp only [Bool.and_eq_true, bne_iff_ne, ne_eq] at h
    obtain ⟨hw, hctx⟩ := h
    simp only [hw, beq_eq_false_iff_ne.2 hctx, true_and, and_assoc]
  · rw [if_neg h, Option.map_none, Option.bind_none, if_neg]
    rintro ⟨hw, hctx, -⟩
    exact h (by simp [hw, beq_eq_false_iff_ne.1 hctx])

end Rules

/-- The cause the checks of an access find. -/
def State.accessCheck (s : State) (write : Bool) (bad : Access → Bool) (eng : Option Nat) (xs : List Access) :
    Option (BitVec 6 × BitVec 8 × W64) :=
  s.spadCheck s.cur.tile (s.cur.ctx == .handler) eng write bad (s.accessPhase write) (s.storeLines write) xs

/-- The ports of an access: taken at once in the primary stream, and whether they clash. -/
def State.accessPorts (s : State) (write : Bool) (code : Nat) (ls : List (Nat × Nat)) : State × Bool :=
  if s.cur.ctx == .primary then s.takePorts write code ls else (s.laterPorts write ls, false)

/-- The contents of the tile that a load reads: a transfer's are the committed ones. -/
def State.readView (s : State) (code : Nat) : Tile := if code = 6 then s.ctile else s.ctile.view s.cur.ctx s.cur.cycle

section Checks
variable {s : State} {write vec : Bool} {bad : Access → Bool} {eng : Option Nat} {code : Nat} {xs : List Access} {x : Access}

theorem State.accessCheck_privilege (hm : (s.cur.ctx == .handler) = false) (hx : xs.find? (fun y => decide (y.2 < 0x10000)) = some x) :
    s.accessCheck write bad eng xs = some (0x19, s.anyInfo, wrap64 x.2) := by
  simp only [State.accessCheck, State.spadCheck, hm, Bool.false_eq_true, if_false, hx]
  rfl

theorem State.find_privilege_eq_none (h : (s.cur.ctx == .handler) = true ∨ ∀ y ∈ xs, (0x10000 : Int) ≤ y.2) :
    (if (s.cur.ctx == .handler) = true then none else xs.find? fun y => decide (y.2 < 0x10000)) = none := by
  rcases h with h | h
  · exact if_pos h
  · rw [ite_eq_left_iff]
    exact fun _ => List.find?_eq_none.2 fun y hy => by simpa using h y hy

theorem State.accessCheck_alignment (h : (s.cur.ctx == .handler) = true ∨ ∀ y ∈ xs, (0x10000 : Int) ≤ y.2)
    (hx : xs.find? bad = some x) : s.accessCheck write bad eng xs = some (0x08, s.anyInfo, wrap64 x.2) := by
  simp only [State.accessCheck, State.spadCheck, State.find_privilege_eq_none h, hx]
  rfl

theorem State.accessCheck_sets (h : (s.cur.ctx == .handler) = true ∨ ∀ y ∈ xs, (0x10000 : Int) ≤ y.2) (hx : xs.find? bad = none) :
    s.accessCheck write bad eng xs = (firstOut (s.setRule eng write) (s.storeLines write) xs).map fun x =>
      (0x06, setInfo (eng.getD 0) write x.2, wrap64 x.1.2) := by
  simp only [State.accessCheck, State.spadCheck, State.find_privilege_eq_none h, hx]
  rfl

theorem State.memAccess_of_check {c : BitVec 6} {i : BitVec 8} {a : W64} (h : s.accessCheck write bad eng xs = some (c, i, a)) :
    s.memAccess write vec bad eng code xs = (s.raise c i a, false) := by
  simp only [State.accessCheck, State.storeLines] at h
  simp only [State.memAccess, h]

theorem State.memAccess_of_clash (h : s.accessCheck write bad eng xs = none) {t : State}
    (hp : s.accessPorts write code (touched xs) = (t, true)) : s.memAccess write vec bad eng code xs = (t, false) := by
  simp only [State.accessCheck, State.storeLines] at h
  simp only [State.accessPorts] at hp
  simp only [State.memAccess, h, hp, if_true]

theorem State.memAccess_of_uecc (h : s.accessCheck write bad eng xs = none) {t : State}
    (hp : s.accessPorts write code (touched xs) = (t, false)) (hw : write = false)
    (hx : xs.find? (fun y => (s.readView code).ueccLine (Access.line y)) = some x) : s.memAccess write vec bad eng code xs =
      (t.raiseUecc (if vec then wrap64 x.2 else (((s.readView code).ueccWord (Access.line x)).map (BitVec.ofNat 64)).getD t.anyAddr)
        (decide (x.2 < 0x10000)), false) := by
  subst hw
  simp only [State.accessCheck, State.storeLines] at h
  simp only [State.accessPorts] at hp
  simp only [State.readView] at hx
  simp only [State.memAccess, h, hp, Bool.false_eq_true, if_false, hx]
  rfl

theorem State.memAccess_of_clean (h : s.accessCheck write bad eng xs = none) {t : State}
    (hp : s.accessPorts write code (touched xs) = (t, false))
    (hx : write = true ∨ xs.find? (fun y => (s.readView code).ueccLine (Access.line y)) = none) :
    (s.memAccess write vec bad eng code xs).2 = true := by
  simp only [State.accessCheck, State.storeLines] at h
  simp only [State.accessPorts] at hp
  simp only [State.readView] at hx
  have hnone : (if write then none else xs.find? fun y => (s.readView code).ueccLine (Access.line y)) = none := by
    rw [ite_eq_left_iff]
    exact fun hw => hx.resolve_left hw
  simp only [State.readView] at hnone
  simp only [State.memAccess, h, hp, Bool.false_eq_true, if_false, hnone]

end Checks

/-! ## Ports (R191, R202) -/

section Ports
variable {s : State} {write : Bool} {code : Nat} {ls ys zs : List (Nat × Nat)} {x : Nat × Nat} {seen : List Nat}

/-- Lines of banks not met before are passed over. -/
theorem bankTwice_append (hys : (ys.map fun y => y.1 % 32).Nodup) (hseen : ∀ y ∈ ys, y.1 % 32 ∉ seen) :
    bankTwice (ys ++ zs) seen = bankTwice zs ((ys.map fun y => y.1 % 32).reverse ++ seen) := by
  induction ys generalizing seen with
  | nil => rfl
  | cons y ys ih =>
    obtain ⟨hy, hys⟩ := List.nodup_cons.1 hys
    obtain ⟨hyseen, hseen⟩ := List.forall_mem_cons.1 hseen
    have hnext : ∀ z ∈ ys, z.1 % 32 ∉ y.1 % 32 :: seen := fun z hz hmem => by
      rcases List.mem_cons.1 hmem with heq | hmem
      · exact hy (List.mem_map.2 ⟨z, hz, heq⟩)
      · exact hseen z hz hmem
    simp [bankTwice, hyseen, ih hys hnext]

theorem bankTwice_eq_none (h : (ls.map fun y => y.1 % 32).Nodup) : bankTwice ls [] = none := by
  rw [← List.append_nil ls, bankTwice_append h (by simp)]
  rfl

theorem bankTwice_eq_some (hys : (ys.map fun y => y.1 % 32).Nodup) (hx : x.1 % 32 ∈ ys.map fun y => y.1 % 32) :
    bankTwice (ys ++ x :: zs) [] = some x.2 := by
  rw [bankTwice_append hys (by simp)]
  exact if_pos (by simpa using hx)

theorem State.takePorts_own_bank {a : Nat} (h : bankTwice ls [] = some a) :
    s.takePorts write code ls = (s.raise 0x04 (BitVec.ofNat 8 (code * 17)) (bankAddr write a), true) := by
  simp only [State.takePorts, h]

/-- The first line, and what it clashes with. -/
theorem State.findSome_clash {c : BitVec 8 × Nat × Nat} (hys : ∀ y ∈ ys, s.clashWith write (y.1 % 32) = none)
    (hx : s.clashWith write (x.1 % 32) = some c) :
    (ys ++ x :: zs).findSome? (fun x => (s.clashWith write (x.1 % 32)).map fun c => (x, c)) = some (x, c) := by
  have hnone : ys.findSome? (fun x => (s.clashWith write (x.1 % 32)).map fun c => (x, c)) = none :=
    List.findSome?_eq_none_iff.2 fun y hy => by rw [hys y hy, Option.map_none]
  rw [List.findSome?_append, hnone, Option.none_or, List.findSome?_cons, hx, Option.map_some]

theorem State.takePorts_other_syllable {m : BitVec 8} {c a : Nat} (h : bankTwice ls [] = none)
    (hx : ls.findSome? (fun x => (s.clashWith write (x.1 % 32)).map fun c => (x, c)) = some (x, m, c, a)) :
    s.takePorts write code ls = (s.updIssued fun b => { b with causes := b.causes ++
      [⟨0x04, slotBit s.cur.slot ||| m, BitVec.ofNat 8 (min code c * 16 + max code c),
        bankAddr write (if c = 0 ∨ c < code then a else x.2), false, false⟩] }, true) := by
  simp only [State.takePorts, h, hx]

theorem State.takePorts_free (h : bankTwice ls [] = none) (hx : ∀ x ∈ ls, s.clashWith write (x.1 % 32) = none) :
    (s.takePorts write code ls).2 = false := by
  have hnone : ls.findSome? (fun x => (s.clashWith write (x.1 % 32)).map fun c => (x, c)) = none :=
    List.findSome?_eq_none_iff.2 fun y hy => by rw [hx y hy, Option.map_none]
  simp only [State.takePorts, h, hnone]

theorem State.accessPorts_primary (hc : s.cur.ctx = .primary) : s.accessPorts write code ls = s.takePorts write code ls :=
  if_pos (beq_iff_eq.2 hc)

/-- The ports of a load that is not the primary stream's were taken at its issue (R192). -/
theorem State.accessPorts_load (hc : s.cur.ctx ≠ .primary) : s.accessPorts false code ls = (s, false) :=
  if_neg (by simpa using hc)

/-- Ports clash in the primary stream alone, and not where the banks are apart and free. -/
theorem State.accessPorts_free
    (h : s.cur.ctx = .primary → (ls.map fun y => y.1 % 32).Nodup ∧ ∀ x ∈ ls, s.clashWith write (x.1 % 32) = none) :
    (s.accessPorts write code ls).2 = false := by
  unfold State.accessPorts
  split
  case isTrue hc =>
    obtain ⟨hapart, hfree⟩ := h (beq_iff_eq.1 hc)
    exact State.takePorts_free (bankTwice_eq_none hapart) hfree
  case isFalse => rfl

end Ports

end Sys2Proof.Machine

open Sys2Proof Sys2Proof.Machine

/-- Settles O15: each check by `State.accessCheck` with those before it passed; the accesses a store's rules pass over, by `firstOut_append`;
the ports by the first line that clashes. -/
theorem scratchpadChecks : Obligations.ScratchpadChecks := by
  intro s write vec bad eng code xs hm adr line held why seen bank apart free
  have hwhy (us : List Access) (u : Access) :
      breaksAt (s.setRule eng write) ((s.storeLines write).map fun b => linesAfter b us) u = why us u := by
    rw [breaksAt, State.setRule_eq, State.storeLines_full]
    simp only [why]
    split_ifs <;> rfl
  refine ⟨fun x hnot hx => ?_, fun hpriv => ⟨fun x hx => ?_, fun hbad => ?_⟩⟩
  · exact State.memAccess_of_check (State.accessCheck_privilege hnot hx)
  · exact State.memAccess_of_check (State.accessCheck_alignment hpriv hx)
  have hsets := State.accessCheck_sets (eng := eng) (write := write) hpriv hbad
  refine ⟨fun ys x zs reason hxs hys hx => ?_, fun hkeeps => ?_⟩
  · subst hxs
    refine State.memAccess_of_check (hsets.trans ?_)
    rw [firstOut_eq_some (fun us u vs hus => (hwhy us u).trans (hys us u vs hus)) ((hwhy ys x).trans hx), Option.map_some]
  have hcheck : s.accessCheck write bad eng xs = none := by
    rw [hsets, firstOut_eq_none fun us u vs hus => (hwhy us u).trans (hkeeps us u vs hus), Option.map_none]
  have hview : seen = s.readView code := rfl
  refine ⟨fun ys x zs hctx hls hys hx => ?_, fun ys x zs m c a hctx hapart hls hys hx => ?_, fun hfree => ?_, fun x hctx hw hx => ?_⟩
  · refine State.memAccess_of_clash hcheck ?_
    rw [State.accessPorts_primary hctx, State.takePorts_own_bank (hls ▸ bankTwice_eq_some hys hx)]
  · refine State.memAccess_of_clash hcheck ?_
    rw [State.accessPorts_primary hctx, State.takePorts_other_syllable (bankTwice_eq_none hapart) (hls ▸ State.findSome_clash hys hx)]
  · have hports : s.accessPorts write code (touched xs) = (_, false) := Prod.ext rfl (State.accessPorts_free hfree)
    refine ⟨fun hclean => State.memAccess_of_clean hcheck hports ?_, fun ⟨hw, x, hmem, hx⟩ => ?_⟩
    · refine hclean.imp_right fun hclean => List.find?_eq_none.2 fun x hmem => ?_
      rw [← hview, hclean x hmem]
      exact Bool.false_ne_true
    · obtain ⟨y, hy⟩ := Option.isSome_iff_exists.1 (List.find?_isSome (p := fun y => seen.ueccLine (line y)).2 ⟨x, hmem, hx⟩)
      rw [State.memAccess_of_uecc hcheck hports hw hy]
  · subst hw
    exact State.memAccess_of_uecc hcheck (State.accessPorts_load hctx) rfl hx

end

section
/-! PROOFS. Burst landings, refresh and cached windows: each burst by what it meets, the tile it leaves, and each event of a sequencer by its
outcomes. -/

namespace Sys2Proof.Machine

/-! ## What a burst meets (R144, R191, R197, R251) -/

/-- A burst leaves the bursts under way of its sequencer. -/
def State.takeBurst (s : State) (q : Nat) (b : Burst) : State := s.updSeqr q fun x => { x with bursts := x.bursts.erase b }

/-- The set of its tile's phase a burst breaks. -/
abbrev State.burstSet (s : State) (b : Burst) : Option (BitVec 8) :=
  if (s.tile b.tile).st = .bound then s.chanSet b.tile b.sec true else none

/-- Does a burst meet another use of its bank port? -/
abbrev State.burstClash (s : State) (q : Nat) (b : Burst) : Bool := clashes (s.tile b.tile).uses (chanUse q true b.sec)

/-- A tile after a burst is written: its sector, and its line's tag of the stream (R150). -/
def Tile.landSector (y : Tile) (b : Burst) : Tile :=
  (y.putBytes (b.sec * 64) (toBytes 64 b.data.toNat)).setTag (b.sec / 4) (0xC000 ^^^ b.sid.setWidth 16 ^^^ epx16 y.prim.regs.epoch)

section Landing
variable {s : State} {q : Nat} {b : Burst}

theorem State.tile_spend (t : Nat) : s.spend.tile t = s.tile t := rfl

@[simp] theorem State.tile_takeBurst (t : Nat) : (s.takeBurst q b).tile t = s.tile t := rfl

theorem State.Canon.takeBurst (hs : s.Canon) : (s.takeBurst q b).Canon := hs.updSeqr

theorem State.landBurst_eq : s.landBurst q b =
    match s.burstSet b with
    | some i => (s.takeBurst q b).raiseExt b.tile 0x06 i (BitVec.ofNat 64 (b.sec * 64))
    | none =>
      if s.burstClash q b = true then (s.takeBurst q b).haltSeqr q
      else match b.err with
      | some a => ((s.takeBurst q b).raiseExt b.tile 0x09 (s.takeBurst q b).anyInfo (BitVec.ofNat 64 a)).spend
      | none => (s.takeBurst q b).setTile b.tile ((s.tile b.tile).landSector b) := by
  simp only [State.landBurst, beq_iff_eq]
  rfl

/-- A burst that breaks its set is a cause of its tile and not written. -/
theorem State.Canon.tile_landBurst_of_set (hs : s.Canon) {i : BitVec 8} (hset : s.burstSet b = some i) :
    (s.landBurst q b).tile b.tile = { s.tile b.tile with
      pend := (s.tile b.tile).pend ++ [⟨0x06, 0, i, BitVec.ofNat 64 (b.sec * 64), true, false⟩] } := by
  rw [State.landBurst_eq, hset]
  exact hs.takeBurst.tile_updTile_same

/-- A burst whose port another use takes is not written, and its sequencer stops. -/
theorem State.Canon.landBurst_of_clash (hs : s.Canon) (hset : s.burstSet b = none) (hclash : s.burstClash q b = true) :
    (s.landBurst q b).tile b.tile = s.tile b.tile ∧ ((s.landBurst q b).seqr q).run = false := by
  rw [State.landBurst_eq, hset]
  simp only [hclash, if_true]
  refine ⟨rfl, ?_⟩
  rw [State.haltSeqr, hs.takeBurst.seqr_updSeqr, if_pos rfl]
  rfl

/-- A burst of an uncorrectable word is a cause of its tile and not written. -/
theorem State.Canon.tile_landBurst_of_error (hs : s.Canon) (hset : s.burstSet b = none) (hclash : s.burstClash q b = false) {a : Nat}
    (herr : b.err = some a) : (s.landBurst q b).tile b.tile = { s.tile b.tile with
      pend := (s.tile b.tile).pend ++ [⟨0x09, 0, s.anyInfo, BitVec.ofNat 64 a, true, false⟩] } := by
  rw [State.landBurst_eq, hset]
  simp only [hclash, herr, Bool.false_eq_true, if_false, State.tile_spend]
  exact hs.takeBurst.tile_updTile_same

theorem State.Canon.tile_landBurst_written (hs : s.Canon) (hset : s.burstSet b = none) (hclash : s.burstClash q b = false)
    (herr : b.err = none) : (s.landBurst q b).tile b.tile = (s.tile b.tile).landSector b := by
  rw [State.landBurst_eq, hset]
  simp only [hclash, herr, Bool.false_eq_true, if_false]
  rw [hs.takeBurst.tile_setTile, if_pos rfl]

end Landing

section Sector
variable {y : Tile} {b : Burst}

theorem toNat_lt_bytes (n : Nat) (x : BitVec (8 * n)) : x.toNat < 256 ^ n := by
  rw [show 256 = 2 ^ 8 from rfl, ← pow_mul]
  exact x.isLt

theorem Tile.spad_landSector : (y.landSector b).spad = writeBytes y.spad (b.sec * 64) (toBytes 64 b.data.toNat) := by
  simp only [Tile.landSector, Tile.setTag, Tile.putBytes]

theorem Tile.readN_landSector (hy : Memory.wf y.spad = true) : readN (y.landSector b).spad (b.sec * 64) 64 = b.data.toNat := by
  rw [Tile.spad_landSector, readN_writeBytes hy, Nat.mod_eq_of_lt (toNat_lt_bytes 64 b.data)]

theorem Tile.get_landSector_outside (hy : Memory.wf y.spad = true) {a : Nat} (ha : a < b.sec * 64 ∨ b.sec * 64 + 64 ≤ a) :
    SMap.get 0 (y.landSector b).spad a = SMap.get 0 y.spad a := by
  rw [Tile.spad_landSector, get_writeBytes_outside hy]
  rwa [length_toBytes]

theorem Tile.ltag_landSector : (y.landSector b).ltag =
    SMap.set 0 y.ltag (b.sec / 4) (0xC000 ^^^ b.sid.setWidth 16 ^^^ epx16 y.prim.regs.epoch) := by
  simp only [Tile.landSector, Tile.setTag, Tile.putBytes]

theorem Tile.get_ltag_landSector (hy : SMap.wf 0 y.ltag = true) :
    SMap.get 0 (y.landSector b).ltag (b.sec / 4) = 0xC000 ^^^ b.sid.setWidth 16 ^^^ epx16 y.prim.regs.epoch := by
  rw [Tile.ltag_landSector, SMap.get_set hy, if_pos rfl]

end Sector

/-! ## Refresh and cached windows (R256 to R259) -/

section Refresh
variable {s : State} {q : Nat}

theorem execRefreshDebtRise_eq : execRefreshDebtRise q s = .next
    (let c := (s.region ((s.seqr q).regKey q)).rtime
     if s.seqrLive q = true ∧ 0 < c ∧ 0 < s.profHi 8 ∧ c % s.profHi 8 = 0 then
       [0, 1].foldl (fun s pc =>
         if 8 ≤ ((s.seqr q).pc pc).debt then (if (s.seqr q).run = true then s.breach q 0x10 0x0F pc 0 0 c else s)
         else s.updSeqr q fun x => x.updPc pc fun p => { p with debt := p.debt + 1 }) s
     else s) := by
  simp only [execRefreshDebtRise, Bool.and_eq_true, decide_eq_true_eq, and_assoc]
  exact (apply_ite Host.Outcome.next _ _ _).symm

theorem execAutonomousRefresh_eq : execAutonomousRefresh q s = .next
    (if s.seqrIdle q = true ∧ (s.seqr q).inIteration = false then (s.refreshPc q 0).refreshPc q 1 else s) := by
  simp only [execAutonomousRefresh, Bool.and_eq_true, Bool.not_eq_true']
  exact (apply_ite Host.Outcome.next _ _ _).symm

end Refresh

end Sys2Proof.Machine

open Sys2Proof Sys2Proof.Machine

/-- Settles O42: a landing burst by what it meets first, the set, the port or the word in error, and else by the sector it writes; refresh
and the cached window by the conditions of their cycle. -/
theorem burstsAndRefresh : Obligations.BurstsAndRefresh := by
  refine ⟨⟨fun _ _ => rfl, fun _ _ => rfl, fun s q b hs => ?_⟩, fun q s => execRefreshDebtRise_eq, fun q s => execAutonomousRefresh_eq,
    fun q s => ?_⟩
  · intro y z set_ clash
    refine ⟨fun i hset => ?_, fun hset hclash => hs.landBurst_of_clash hset hclash, fun a hset hclash herr => ?_,
      fun hset hclash herr => ?_⟩
    · have hz : z = _ := hs.tile_landBurst_of_set hset
      rw [hz]
      exact ⟨rfl, _, rfl, rfl, rfl⟩
    · have hz : z = _ := hs.tile_landBurst_of_error hset hclash herr
      rw [hz]
      exact ⟨rfl, rfl, _, rfl, rfl, rfl⟩
    · have hz : z = y.landSector b := hs.tile_landBurst_written hset hclash herr
      have hy : Memory.wf y.spad = true := hs.tile b.tile
      rw [hz]
      exact ⟨Tile.readN_landSector hy, fun a => Tile.get_landSector_outside hy, Tile.get_ltag_landSector⟩
  · simp only [exec_cachedWindowOpen, execCachedWindowOpen, Bool.and_eq_true, decide_eq_true_eq, and_assoc]
    split
    · split <;> rename_i hbad <;> rw [hbad]
    · rfl

end

section
/-! PROOFS. What a commit does with each effect: RDV's change of its region, the first overlap of a phase, and the tile and the package
after each effect. -/

namespace Sys2Proof.Machine

/-! ## RDV at its commit point (R71, R178) -/

theorem State.tiles_noteMove {s : State} {job : BitVec 32} {tb n : Nat} : (s.noteMove job tb n).tiles = s.tiles := by
  unfold State.noteMove
  split
  · rfl
  · split <;> rfl

/-- A state in canonical form whose tiles are those of another. -/
structure SameTiles (s v : State) : Prop where
  canon : v.Canon
  tiles : v.tiles = s.tiles

/-- RDV changes its region last: what comes before leaves the tiles alone. -/
theorem State.Canon.enterRdv_eq {s : State} {t : Nat} (hs : s.Canon) (nominal : W64) : ∃ v : State, SameTiles s v ∧
    s.enterRdv t nominal = v.updRegion (s.regionOf t) fun g => { g with
      rdv := some ((s.entry (s.tile t).lte).rdvTarget (s.region (s.regionOf t)).restart nominal.toNat).1
      nominal := nominal.toNat, seen := v.ownClocks } := by
  unfold State.enterRdv
  extract_lets e x again r s1 s2 s3 due s4 s5
  have h1 : SameTiles s s1 := ⟨canon_noteMove hs.setEntry, State.tiles_noteMove⟩
  have h2 : SameTiles s s2 := iteInduction (fun _ => h1) fun _ => ⟨h1.canon.mapRegions, h1.tiles⟩
  have h3 : SameTiles s s3 := iteInduction (fun _ => h2) fun _ => ⟨canon_say h2.canon, h2.tiles⟩
  have h4 : SameTiles s s4 := ⟨canon_eta.2 h3.canon, h3.tiles⟩
  have h5 : SameTiles s s5 := iteInduction (fun _ => h4) fun _ => ⟨canon_after h4.canon, h4.tiles⟩
  have hregion : s5.regionOf t = s.regionOf t := by simp only [State.regionOf, State.tile, h5.tiles]
  exact ⟨s5, h5, by rw [hregion]⟩

theorem State.Canon.enterRdv_spec {s : State} {t : Nat} (hs : s.Canon) (nominal : W64) :
    (s.enterRdv t nominal).tile t = s.tile t ∧ ((s.enterRdv t nominal).region (s.regionOf t)).nominal = nominal.toNat ∧
      ((s.enterRdv t nominal).region (s.regionOf t)).rdv =
        some ((s.entry (s.tile t).lte).rdvTarget (s.region (s.regionOf t)).restart nominal.toNat).1 := by
  obtain ⟨v, hv, heq⟩ := hs.enterRdv_eq (t := t) nominal
  rw [heq, hv.canon.region_updRegion, if_pos rfl]
  exact ⟨congrArg (SMap.get Tile.reset · t) hv.tiles, rfl, rfl⟩

/-! ## The first overlap of a phase (R196, R198) -/

/-- A list of ranges holds a line. -/
def HoldsLine (a : List (Nat × Nat)) (l : Nat) : Prop := ∃ r ∈ a, r.1 ≤ l ∧ l ≤ r.2

/-- The lowest lines that a range of one list and a range of another share. -/
def sharedLows (a b : List (Nat × Nat)) : List Nat := a.flatMap fun x => b.filterMap fun y =>
  if max x.1 y.1 ≤ min x.2 y.2 then some (max x.1 y.1) else none

section Shared
variable {a b : List (Nat × Nat)} {l : Nat}

theorem sharedLine_eq_min : sharedLine a b = (sharedLows a b).min? := by
  unfold sharedLine
  change (match sharedLows a b with | [] => none | h :: hs => some (hs.foldl min h)) = _
  cases sharedLows a b <;> rfl

theorem holdsLine_of_mem_sharedLows (h : l ∈ sharedLows a b) : HoldsLine a l ∧ HoldsLine b l := by
  simp only [sharedLows, List.mem_flatMap, List.mem_filterMap, Option.ite_none_right_eq_some, Option.some.injEq] at h
  obtain ⟨x, hx, y, hy, hmeet, rfl⟩ := h
  exact ⟨⟨x, hx, by omega⟩, ⟨y, hy, by omega⟩⟩

theorem exists_mem_sharedLows (ha : HoldsLine a l) (hb : HoldsLine b l) : ∃ m ∈ sharedLows a b, m ≤ l := by
  obtain ⟨x, hx, hxl, hlx⟩ := ha
  obtain ⟨y, hy, hyl, hly⟩ := hb
  refine ⟨max x.1 y.1, List.mem_flatMap.2 ⟨x, hx, List.mem_filterMap.2 ⟨y, hy, if_pos ?_⟩⟩, by omega⟩
  omega

theorem sharedLine_eq_none_iff : sharedLine a b = none ↔ ∀ l, ¬ (HoldsLine a l ∧ HoldsLine b l) := by
  rw [sharedLine_eq_min, List.min?_eq_none_iff, List.eq_nil_iff_forall_not_mem]
  constructor
  · rintro h l ⟨ha, hb⟩
    obtain ⟨m, hm, -⟩ := exists_mem_sharedLows ha hb
    exact h m hm
  · exact fun h l hl => h l (holdsLine_of_mem_sharedLows hl)

theorem lowest_of_sharedLine (h : sharedLine a b = some l) :
    (HoldsLine a l ∧ HoldsLine b l) ∧ ∀ m, HoldsLine a m ∧ HoldsLine b m → l ≤ m := by
  rw [sharedLine_eq_min, List.min?_eq_some_iff] at h
  obtain ⟨hmem, hlow⟩ := h
  refine ⟨holdsLine_of_mem_sharedLows hmem, fun m hm => ?_⟩
  obtain ⟨k, hk, hkm⟩ := exists_mem_sharedLows hm.1 hm.2
  exact (hlow k hk).trans hkm

end Shared

/-- A writing engine and another, in the order R198 takes them. -/
def enginePairs : List (Nat × Nat) :=
  (List.range 6).flatMap fun w => (List.range 6).filterMap fun o => if w = o then none else some (w, o)

theorem mem_enginePairs {p : Nat × Nat} : p ∈ enginePairs ↔ p.1 < 6 ∧ p.2 < 6 ∧ p.1 ≠ p.2 := by
  obtain ⟨w, o⟩ := p
  simp only [enginePairs, List.mem_flatMap, List.mem_filterMap, List.mem_range, Option.ite_none_left_eq_some, Option.some.injEq,
    Prod.mk.injEq]
  constructor
  · rintro ⟨w', hw, o', ho, hne, rfl, rfl⟩; exact ⟨hw, ho, hne⟩
  · rintro ⟨hw, ho, hne⟩; exact ⟨w, hw, o, ho, hne, rfl, rfl⟩

theorem pairwise_enginePairs : enginePairs.Pairwise fun p q => p.1 < q.1 ∨ p.1 = q.1 ∧ p.2 < q.2 := by
  decide

/-- The first of a list with an outcome comes before every other with one, in any order the list is sorted by. -/
theorem first_of_findSome {α β : Type} {R : α → α → Prop} {f : α → Option β} {l : List α} {b : β} (hl : l.Pairwise R)
    (h : l.findSome? f = some b) : ∃ a ∈ l, f a = some b ∧ ∀ x ∈ l, f x ≠ none → x = a ∨ R a x := by
  obtain ⟨l₁, a, l₂, rfl, ha, hnone⟩ := List.findSome?_eq_some_iff.1 h
  refine ⟨a, by simp, ha, fun x hx hfx => ?_⟩
  obtain ⟨-, hrest, -⟩ := List.pairwise_append.1 hl
  rcases List.mem_append.1 hx with hx | hx
  · exact absurd (hnone x hx) hfx
  · rcases List.mem_cons.1 hx with rfl | hx
    · exact .inl rfl
    · exact .inr ((List.pairwise_cons.1 hrest).1 x hx)

/-- Two engines' effective sets in a phase share a line, the first engine writing it. -/
def State.EnginesClash (s : State) (t ph w o l : Nat) : Prop := w < 6 ∧ o < 6 ∧ w ≠ o ∧
  HoldsLine (s.effSet t ph w true) l ∧ HoldsLine (s.effSet t ph o true ++ s.effSet t ph o false) l

/-- The lowest line that a writing engine and another share in a phase. -/
def State.pairLine (s : State) (t ph : Nat) (p : Nat × Nat) : Option Nat :=
  sharedLine (s.effSet t ph p.1 true) (s.effSet t ph p.2 true ++ s.effSet t ph p.2 false)

section Overlap
variable {s : State} {t ph : Nat}

theorem State.overlap_eq : s.overlap t ph = enginePairs.findSome? fun p =>
    (s.pairLine t ph p).map fun l => (BitVec.ofNat 8 (p.1 * 16 + p.2), BitVec.ofNat 64 (l * 256)) := rfl

theorem State.pairLine_eq_none_iff {p : Nat × Nat} (hp : p ∈ enginePairs) :
    s.pairLine t ph p = none ↔ ∀ l, ¬ s.EnginesClash t ph p.1 p.2 l := by
  obtain ⟨hw, ho, hne⟩ := mem_enginePairs.1 hp
  rw [State.pairLine, sharedLine_eq_none_iff]
  simp only [State.EnginesClash, hw, ho, hne, ne_eq, not_false_eq_true, true_and]

theorem State.overlap_eq_none_iff : s.overlap t ph = none ↔ ∀ w o l, ¬ s.EnginesClash t ph w o l := by
  simp only [State.overlap_eq, List.findSome?_eq_none_iff, Option.map_eq_none_iff]
  constructor
  · intro h w o l hclash
    have hp : (w, o) ∈ enginePairs := mem_enginePairs.2 ⟨hclash.1, hclash.2.1, hclash.2.2.1⟩
    exact (State.pairLine_eq_none_iff hp).1 (h _ hp) l hclash
  · exact fun h p hp => (State.pairLine_eq_none_iff hp).2 fun l => h _ _ l

/-- The pair an overlap names is the first that clashes, and its line their lowest. -/
theorem State.first_of_overlap {info : BitVec 8} {addr : W64} (h : s.overlap t ph = some (info, addr)) :
    ∃ w o l, s.EnginesClash t ph w o l ∧ info = BitVec.ofNat 8 (16 * w + o) ∧ addr = low64 (256 * l) ∧
      (∀ l', s.EnginesClash t ph w o l' → l ≤ l') ∧ ∀ w' o' l', s.EnginesClash t ph w' o' l' → w < w' ∨ w = w' ∧ o ≤ o' := by
  rw [State.overlap_eq] at h
  obtain ⟨⟨w, o⟩, hp, hline, hfirst⟩ := first_of_findSome pairwise_enginePairs h
  obtain ⟨hw, ho, hne⟩ := mem_enginePairs.1 hp
  obtain ⟨l, hl, heq⟩ := Option.map_eq_some_iff.1 hline
  obtain ⟨⟨hwl, hol⟩, hlow⟩ := lowest_of_sharedLine hl
  obtain ⟨rfl, rfl⟩ := Prod.mk.inj heq
  refine ⟨w, o, l, ⟨hw, ho, hne, hwl, hol⟩, by rw [mul_comm 16], by rw [low64, mul_comm 256], fun l' hl' => ?_, fun w' o' l' hl' => ?_⟩
  · obtain ⟨-, -, -, hboth⟩ := hl'
    exact hlow l' hboth
  · obtain ⟨hw', ho', hne', -⟩ := id hl'
    have hp' : (w', o') ∈ enginePairs := mem_enginePairs.2 ⟨hw', ho', hne'⟩
    have hsome : s.pairLine t ph (w', o') ≠ none := fun hnone => (State.pairLine_eq_none_iff hp').1 hnone l' hl'
    rcases hfirst (w', o') hp' (by simpa using hsome) with heq | hlt | ⟨hw, ho⟩
    · obtain ⟨rfl, rfl⟩ := Prod.mk.inj heq
      exact .inr ⟨rfl, le_rfl⟩
    · exact .inl hlt
    · exact .inr ⟨hw, ho.le⟩

end Overlap

/-! ## The tile and the package after an effect (R152, R175 to R185, R343) -/

section Commit
variable {s : State} {t : Nat} {c : Ctx} {b : Issued}

@[simp] theorem State.tile_updRegion (r : Nat) (f : Region → Region) : (s.updRegion r f).tile t = s.tile t := rfl

theorem State.region_updRegion_same {r : Nat} {f : Region → Region} (h : SMap.wf Region.reset s.regions = true) :
    (s.updRegion r f).region r = f (s.region r) := (SMap.get_set h).trans (if_pos rfl)

@[simp] theorem State.tile_dropOps (u : Nat) : (s.dropOps u).tile t = s.tile t := rfl

@[simp] theorem Tile.ended_setStream (x : Tile) (st : Stream) : (x.setStream c st).ended = x.ended := by cases c <;> rfl

theorem State.Canon.tile_applyEffect (hs : s.Canon) {e : Effect} {f : Stream → Stream} (hc : c ≠ .handler) (he : e.onStream b = some f) :
    (s.applyEffect t c b e).tile t = (s.tile t).setStream c (f ((s.tile t).stream c)) := by
  rw [State.applyEffect_of_onStream hc he, hs.tile_updStream]

theorem toNat_epoch_set (set : Bool) (e v : BitVec 8) :
    (if set then v else e + v).toNat = if set = true then v.toNat else (e.toNat + v.toNat) % 256 := by
  cases set
  · exact BitVec.toNat_add e v
  · rfl

theorem getLsbD_inten (set : Bool) (ie : BitVec 2) (m : BitVec 8) {i : Nat} (hi : i < 2) :
    (if set then ie ||| m.setWidth 2 else ie &&& ~~~ m.setWidth 2).getLsbD i = if m.getLsbD i = true then set else ie.getLsbD i := by
  cases set <;> cases hm : m.getLsbD i <;>
    simp [BitVec.getLsbD_or, BitVec.getLsbD_and, BitVec.getLsbD_not, BitVec.getLsbD_setWidth, hm, hi, -BitVec.getLsbD_eq_getElem]

theorem State.Canon.regs_epoch (hs : s.Canon) (set : Bool) (v : BitVec 8) :
    (((s.applyEffect t c b (.epoch set v)).tile t).stream c).regs.epoch =
      if set then v else ((s.tile t).stream c).regs.epoch + v :=
  congrArg (fun x : Stream => x.regs.epoch) hs.stream_updStream

theorem State.Canon.regs_gate (hs : s.Canon) (i : BitVec 3) (v : W64) :
    (((s.applyEffect t c b (.gate i v)).tile t).stream c).regs.g = wr ((s.tile t).stream c).regs.g i v :=
  congrArg (fun x : Stream => x.regs.g) hs.stream_updStream

/-- PHASE makes its phase the tile's and closes the exchange window of the region. -/
theorem State.Canon.applyEffect_phase (hs : s.Canon) (ph : BitVec 6) :
    ((s.applyEffect t c b (.phase ph)).tile t).phase = ph ∧
      ((s.applyEffect t c b (.phase ph)).region (s.regionOf t)).exch = none := by
  simp only [State.applyEffect, State.tile_updRegion, hs.tile_updTile_same, true_and]
  rw [State.region_updRegion_same]
  exact hs.regions

theorem State.applyEffect_fence_narrow {sc : BitVec 4} (h : sc = 0 ∨ sc = 1) : s.applyEffect t c b (.fence sc) = s := by
  rcases h with rfl | rfl <;> rfl

theorem State.Canon.fence_wide (hs : s.Canon) {sc : BitVec 4} (h0 : sc ≠ 0) (h1 : sc ≠ 1) :
    (((s.applyEffect t c b (.fence sc)).tile t).stream c).fence = s.outstanding t c := by
  have hwide : ¬ sc.toNat < 2 := by
    rw [ne_eq, ← BitVec.toNat_inj] at h0 h1
    change ¬ sc.toNat = 0 at h0
    change ¬ sc.toNat = 1 at h1
    omega
  have heq : s.applyEffect t c b (.fence sc) = s.updStream t c fun x => { x with fence := s.outstanding t c } := if_neg hwide
  rw [heq, hs.stream_updStream]

theorem State.snapTrigger_free (hfull : s.iod.snapFull = false) (hat : s.iod.snapAt = none) (src : BitVec 3) (tag : Byte) :
    (s.snapTrigger src tag).iod.snapAt = some (s.ptime.toNat, src, tag) ∧
      (s.ptime.toNat + 64, .snapshotLatch, .none) ∈ (s.snapTrigger src tag).pending := by
  simp [State.snapTrigger, hfull, hat]

/-- The tile after ENDT in handler mode: the handler is gone, and what was in flight to the registers with it (R182). -/
theorem State.Canon.tile_endt_handler (hs : s.Canon) : (s.applyEffect t .handler b .endt).tile t =
    { (s.tile t).dropResults with ended := true, hm := none, prim := (s.tile t).prim.discard } := by
  simp only [State.applyEffect, State.tile_dropOps, hs.tile_updTile_same]

/-- A handler's own effects change its handler (R159, R182). -/
theorem State.Canon.effects_handler (hs : s.Canon) {h : Handler} (hh : (s.tile t).hm = some h) :
    let y := fun e => (s.applyEffect t .handler b e).tile t
    (∃ k, (y .rett).hm = some k ∧ k.leaving = true) ∧ (∃ k, (y .waiti).hm = some k ∧ k.waiting = true) ∧
      (∀ n, ∃ k, (y (.nopn n)).hm = some k ∧ k.next = b.cycle + n) ∧
      (∀ r, ∃ k, (y (.result r)).hm = some k ∧ k.flight = h.flight ++ [r]) ∧
      (∀ d, ∃ k, (y (.delay d)).hm = some k ∧ k.delayed = h.delayed ++ [d]) := by
  intro y
  have hy {e : Effect} {f : Handler → Handler} (he : e.onHandler b = some f) : (y e).hm = some (f h) := hs.hm_applyEffect hh he
  exact ⟨⟨_, hy (e := .rett) rfl, rfl⟩, ⟨_, hy (e := .waiti) rfl, rfl⟩, fun n => ⟨_, hy (e := .nopn n) rfl, rfl⟩,
    fun r => ⟨_, hy (e := .result r) rfl, rfl⟩, fun d => ⟨_, hy (e := .delay d) rfl, rfl⟩⟩

end Commit

end Sys2Proof.Machine

open Sys2Proof Sys2Proof.Machine

/-- Settles O19: each effect by what it does to its stream, its handler, its tile or the package; a phase's overlap by the first pair of
engines that clash. -/
theorem commitEffects : Obligations.CommitEffects := by
  intro s t c b hs x u y g
  have hy {e : Effect} {f : Stream → Stream} (hc : c ≠ .handler) (he : e.onStream b = some f) : (y e).stream c = f (x.stream c) :=
    hs.stream_applyEffect hc he
  refine ⟨fun set v => ?_, fun i v j => ?_, fun ph => hs.applyEffect_phase ph, fun set m i hi => ?_, fun go => ?_, fun code => ?_,
    fun n hc => ?_, fun t' => hs.enterRdv_spec t', fun sc => ⟨State.applyEffect_fence_narrow, hs.fence_wide⟩,
    fun tag hfull hat => State.snapTrigger_free hfull hat 0 tag, fun r hc => ?_, fun d hc => ?_, fun st hc => ?_, fun hc => ?_,
    fun h hc hh => ?_, fun o slot => rfl, fun m slot => hs.tile_updTile_same, fun ph pc => rfl, fun ph => ?_⟩
  · exact (congrArg BitVec.toNat (hs.regs_epoch set v)).trans (toNat_epoch_set set _ v)
  · exact (congrArg (rd · j) (hs.regs_gate i v)).trans (rd_wr _ i j v)
  · exact (congrArg (fun z : Tile => z.ie.getLsbD i) hs.tile_updTile_same).trans (getLsbD_inten set _ m hi)
  · exact congrArg Tile.secRun hs.tile_updTile_same
  · exact congrArg Tile.defer hs.tile_updTile_same
  · exact congrArg Stream.nextIssue (hy (e := .nopn n) hc rfl)
  · exact congrArg Stream.inflight (hy (e := .result r) hc rfl)
  · exact congrArg Stream.delayed (hy (e := .delay d) hc rfl)
  · refine ⟨congrArg Stream.sbuf (hy (e := .store st) hc rfl), ?_⟩
    exact (congrArg Tile.spad (hs.tile_applyEffect hc rfl)).trans (Tile.spad_setStream x c _)
  · refine ⟨congrArg Stream.endt (hy (e := .endt) hc rfl), ?_⟩
    exact (congrArg Tile.ended (hs.tile_applyEffect hc rfl)).trans (Tile.ended_setStream x _)
  · subst hc
    obtain ⟨hrett, hwaiti, hnopn, hresult, hdelay⟩ := hs.effects_handler (b := b) hh
    have hendt : y .endt = _ := hs.tile_endt_handler
    rw [hendt]
    exact ⟨hrett, hwaiti, rfl, rfl, rfl, hnopn, hresult, hdelay, fun st => hs.tile_updTile_same⟩
  · intro clash
    exact ⟨State.overlap_eq_none_iff, fun info addr => State.first_of_overlap⟩

end
section
/-! PROOFS. The system registers: which a context may write, the value each reads after MTSR has written it, and the samples and writes that
fall due. -/

namespace Sys2Proof.Machine

/-! ## The registers a context may write (R164, R165, R167) -/

theorem privWrite_handler_iff {x : BitVec 6} : privWrite true x = false ↔ x.toNat ∈ [0x05, 0x06, 0x07, 0x08, 0x09, 0x0A, 0x0B, 0x0C, 0x0D,
    0x0E, 0x0F, 0x12, 0x13, 0x17, 0x18, 0x19, 0x1A, 0x1B, 0x1C, 0x1D, 0x1E, 0x1F] := by
  simp only [privWrite, Bool.or_eq_false_iff, decide_eq_false_iff_not, Bool.not_true, Bool.false_and, List.mem_cons, List.not_mem_nil,
    and_true, or_false]
  omega

theorem privWrite_stream_iff {x : BitVec 6} : privWrite false x = false ↔ x.toNat ∈ [0x05, 0x06, 0x07, 0x08, 0x0E, 0x0F, 0x12, 0x13, 0x17,
    0x18, 0x19, 0x1A, 0x1B, 0x1C, 0x1D, 0x1E, 0x1F] := by
  simp only [privWrite, Bool.or_eq_false_iff, Bool.and_eq_false_iff, decide_eq_false_iff_not, Bool.not_false, Bool.true_and,
    List.mem_cons, List.not_mem_nil, or_false]
  omega

/-! ## What a written register reads (R164, R167) -/

/-- A field cut to its low bits and read back holds those bits. -/
theorem setWidth_setWidth_eq_and (v : W64) {k : Nat} (hk : k ≤ 64) : (v.setWidth k).setWidth 64 = v &&& low64 (2 ^ k - 1) := by
  have hmask : 2 ^ k - 1 < 2 ^ 64 := (Nat.sub_lt (Nat.two_pow_pos k) one_pos).trans_le (Nat.pow_le_pow_right two_pos hk)
  have hv : v.toNat % 2 ^ k < 2 ^ 64 := (Nat.mod_le _ _).trans_lt v.isLt
  apply BitVec.eq_of_toNat_eq
  rw [BitVec.toNat_setWidth, BitVec.toNat_setWidth, BitVec.toNat_and, low64, BitVec.toNat_ofNat, Nat.mod_eq_of_lt hmask,
    Nat.and_two_pow_sub_one_eq_mod, Nat.mod_eq_of_lt hv]

/-- A byte held above another, with bits of it cleared: the bits cleared are those a word's second byte names. -/
theorem pendingByte_clear (ip : BitVec 8) (v : W64) {low : Nat} (hlow : low < 2 ^ 8) :
    low64 ((ip &&& ~~~ v.extractLsb' 8 8).toNat * 2 ^ 8 + low) = low64 (ip.toNat * 2 ^ 8 + low) &&& ~~~ (v &&& 0xFF00) := by
  have hbits (b : BitVec 8) (i : Nat) : (b.toNat * 2 ^ 8 + low).testBit i = if i < 8 then low.testBit i else b.getLsbD (i - 8) := by
    rw [mul_comm, ← BitVec.testBit_toNat]
    exact Nat.testBit_two_pow_mul_add b.toNat hlow i
  have hmask : (0xFF00 : W64) = (BitVec.allOnes 8).setWidth 64 <<< 8 := by decide
  apply BitVec.eq_of_getLsbD_eq
  intro i hi
  simp only [low64, hmask, hbits, BitVec.getLsbD_ofNat, BitVec.getLsbD_and, BitVec.getLsbD_not, BitVec.getLsbD_extractLsb',
    BitVec.getLsbD_shiftLeft, BitVec.getLsbD_setWidth, BitVec.getLsbD_allOnes, hi, decide_true, Bool.true_and]
  by_cases hlo : i < 8
  · simp [hlo]
  · rw [show 8 + (i - 8) = i by omega]
    by_cases hbyte : i - 8 < 8
    · simp [hlo, hbyte, show i - 8 < 64 by omega]
    · simp [hlo, hbyte, BitVec.getLsbD_of_ge ip (i - 8) (by omega)]

section ReadBack
variable {s : State} {t : Nat} {c : Ctx} {x : BitVec 6} {v : W64}

theorem Tile.regs_setStream_regs (y : Tile) (g : Regs) : ((y.setStream c { y.stream c with regs := g }).stream c).regs = g := by
  rw [Tile.stream_setStream]

/-- A register that is part of a tile reads the part as the write leaves it. -/
theorem State.Canon.sysRead_written (hs : s.Canon) (get : Tile → W64) (hread : ∀ u : State, u.sysRead t c x = get (u.tile t)) :
    (s.updTile t fun y => y.sysWrite c x v).sysRead t c x = get ((s.tile t).sysWrite c x v) := by
  rw [hread, hs.tile_updTile_same]

/-- A register that holds a field of the word written reads that field. -/
theorem State.Canon.sysRead_field (hs : s.Canon) {k : Nat} (hk : k ≤ 64) (get : Tile → BitVec k)
    (hread : ∀ u : State, u.sysRead t c x = (get (u.tile t)).setWidth 64) (hwrite : ∀ y : Tile, get (y.sysWrite c x v) = v.setWidth k) :
    (s.updTile t fun y => y.sysWrite c x v).sysRead t c x = v &&& low64 (2 ^ k - 1) := by
  rw [hs.sysRead_written (fun y => (get y).setWidth 64) hread, hwrite, setWidth_setWidth_eq_and v hk]

/-- TSTAT's pending bits are cleared where MTSR writes ones, in handler mode alone (R165). -/
theorem State.Canon.sysRead_tstat_written (hs : s.Canon) : (s.updTile t fun y => y.sysWrite c 0x09 v).sysRead t c 0x09 =
    s.sysRead t c 0x09 &&& ~~~ (if c = .handler then v &&& 0xFF00 else 0) := by
  rw [hs.sysRead_written Tile.tstat fun _ => rfl, show s.sysRead t c 0x09 = (s.tile t).tstat from rfl]
  split_ifs with hc
  · subst hc
    simp only [Tile.tstat, add_assoc]
    refine pendingByte_clear (s.tile t).ip v ?_
    change (if (s.tile t).prim.nrm then 8 else 0) + ((if (s.tile t).secRun then 4 else 0) + ((if (s.tile t).preq then 2 else 0) +
      if (s.tile t).hm.isSome then 1 else 0)) < 2 ^ 8
    split_ifs <;> decide
  · have hwrite : (s.tile t).sysWrite c 0x09 v = s.tile t := if_neg hc
    rw [hwrite]
    exact BitVec.and_allOnes.symm

theorem Tile.sysWrite_gate (hlow : 0x18 ≤ x.toNat) (hhigh : x.toNat < 0x20) (y : Tile) : y.sysWrite c x v =
    y.setStream c { y.stream c with regs := { (y.stream c).regs with
      g := wr (y.stream c).regs.g (BitVec.ofNat 3 (x.toNat - 0x18)) (v &&& gateMask) } } := by
  unfold Tile.sysWrite
  split
  case h_14 => exact if_pos ⟨hlow, hhigh⟩
  all_goals omega

theorem State.sysRead_gate (hlow : 0x18 ≤ x.toNat) (hhigh : x.toNat < 0x20) (u : State) : u.sysRead t c x =
    rd ((u.tile t).stream c).regs.g (BitVec.ofNat 3 (x.toNat - 0x18)) := by
  unfold State.sysRead
  split
  case h_24 => rw [if_neg (by omega), if_pos hlow]
  all_goals omega

/-- A gate register reads the fields of what was written (R138). -/
theorem State.Canon.sysRead_gate_written (hs : s.Canon) (hlow : 0x18 ≤ x.toNat) (hhigh : x.toNat < 0x20) :
    (s.updTile t fun y => y.sysWrite c x v).sysRead t c x = v &&& gateMask := by
  rw [hs.sysRead_written (fun y => rd (y.stream c).regs.g (BitVec.ofNat 3 (x.toNat - 0x18))) (State.sysRead_gate hlow hhigh),
    Tile.sysWrite_gate hlow hhigh, Tile.regs_setStream_regs, rd_wr_same]

end ReadBack

/-! ## What falls due (R134, R167) -/

section Due
variable {s : State} {t : Nat} {c : Ctx} {cyc : Nat}

/-- A sample that falls due joins the results in flight with the register as it then stands. -/
theorem State.Canon.sample_inflight (hs : s.Canon) {d : Delayed} {x : BitVec 6} {r : Result} (hd : d ∈ ((s.tile t).stream c).delayed)
    (hdue : d.at_ ≤ cyc) (hop : d.op = .sample x r) :
    { r with value := (s.sysRead t c x).setWidth 2048 } ∈ (((s.sampleStream t c cyc).tile t).stream c).inflight := by
  have hsampled : s.sampled t c d = some { r with value := (s.sysRead t c x).setWidth 2048 } := by rw [State.sampled, hop]
  rw [State.sampleStream, hs.stream_updStream]
  refine List.mem_append_right _ (List.mem_filterMap.2 ⟨d, List.mem_filter.2 ⟨hd, ?_⟩, hsampled⟩)
  rw [hsampled, decide_eq_true hdue]
  rfl

/-- MTSR's write changes the registers of its stream, or parts of the tile outside both streams. -/
theorem Tile.sysWrite_cases (y : Tile) (x : BitVec 6) (v : W64) :
    (∃ g, y.sysWrite c x v = y.setStream c { y.stream c with regs := g }) ∨
      (y.sysWrite c x v).stream c = y.stream c := by
  unfold Tile.sysWrite
  split
  case h_1 | h_2 | h_3 | h_4 | h_13 => exact .inl ⟨_, rfl⟩
  case h_5 | h_6 | h_7 | h_8 | h_9 | h_10 | h_11 | h_12 =>
    right
    cases c <;> rfl
  case h_14 =>
    split
    · exact .inl ⟨_, rfl⟩
    · exact .inr rfl

/-- A write leaves the writes and the results its stream waits for. -/
theorem Tile.waits_sysWrite (y : Tile) (x : BitVec 6) (v : W64) : ((y.sysWrite c x v).stream c).delayed = (y.stream c).delayed ∧
    ((y.sysWrite c x v).stream c).inflight = (y.stream c).inflight := by
  obtain ⟨g, h⟩ | h := y.sysWrite_cases (c := c) x v
  · rw [h, Tile.stream_setStream]
    exact ⟨rfl, rfl⟩
  · rw [h]
    exact ⟨rfl, rfl⟩

/-- A lone write that falls due is made, and nothing is left to land. -/
theorem Tile.landStream_write {y : Tile} {k sl : Nat} {x : BitVec 6} {v : W64} (hdelayed : (y.stream c).delayed = [⟨k, sl, .sysreg x v⟩])
    (hinflight : (y.stream c).inflight = []) (hdue : k ≤ cyc) :
    y.landStream c cyc = (y.sysWrite c x v).setStream c { (y.sysWrite c x v).stream c with inflight := [], delayed := [] } := by
  obtain ⟨hkeep, hresults⟩ := Tile.waits_sysWrite (c := c) y x v
  have hsys : y.landSys c cyc = y.sysWrite c x v := by
    simp [Tile.landSys, hdelayed, hdue]
  rw [Tile.landStream, hsys, Tile.landResults, hresults, hinflight, hkeep, hdelayed]
  simp [hdue, sortBy]

end Due

end Sys2Proof.Machine

open Sys2Proof Sys2Proof.Machine

/-- Settles O14: MFSR and MTSR by the effect each adds; what is read back by the field each register keeps of the word written. -/
theorem systemRegisters : Obligations.SystemRegisters := by
  refine ⟨⟨fun p d x s => rfl, fun p a x s => ?_, fun x => privWrite_handler_iff, fun x => privWrite_stream_iff⟩,
    fun s t c x v hs => ?_, fun s t c cyc d x r hs _ hd hdue hop => hs.sample_inflight hd hdue hop,
    fun y c cyc k sl x v hdelayed hinflight hdue => Tile.landStream_write hdelayed hinflight hdue⟩
  · rw [exec_mtsr]
    refine State.when_eq_guarded ?_
    have hgate : (0x18 ≤ x.toNat ∧ x.toNat < 0x20 ∧ (s.rs a).toNat % 16 ≠ 0) =
        (0x18 ≤ x.toNat ∧ x.toNat ≤ 0x1F ∧ (s.rs a).toNat % 16 ≠ 0) := by rw [Nat.lt_succ_iff]
    simp only [hgate]
    rfl
  · intro r
    have hx {k : BitVec 6} (h : x.toNat = k.toNat) : x = k := BitVec.eq_of_toNat_eq h
    refine ⟨?_, ?_, fun h => ?_, fun h => ?_, fun h => ?_, fun h => ?_, fun h => ?_, fun h => ?_, fun h => ?_, fun h => ?_⟩
    · rintro (h | h | h)
      · cases hx (k := 0x05) h
        exact (hs.sysRead_written (fun y => (y.stream c).regs.lc) fun _ => rfl).trans (congrArg Regs.lc (Tile.regs_setStream_regs _ _))
      · cases hx (k := 0x0D) h
        exact hs.sysRead_written Tile.taddr fun _ => rfl
      · cases hx (k := 0x0F) h
        exact hs.sysRead_written Tile.tcmp fun _ => rfl
    · rintro (h | h | h)
      · cases hx (k := 0x06) h
        exact hs.sysRead_field (by decide) (fun y => (y.stream c).regs.ec) (fun _ => rfl) fun _ =>
          congrArg Regs.ec (Tile.regs_setStream_regs _ _)
      · cases hx (k := 0x08) h
        exact hs.sysRead_field (by decide) (fun y => (y.stream c).regs.epoch) (fun _ => rfl) fun _ =>
          congrArg Regs.epoch (Tile.regs_setStream_regs _ _)
      · cases hx (k := 0x0C) h
        exact hs.sysRead_field (by decide) Tile.tmask (fun _ => rfl) fun _ => rfl
    · cases hx (k := 0x07) h
      exact hs.sysRead_field (by decide) (fun y => (y.stream c).regs.rrb) (fun _ => rfl) fun _ =>
        congrArg Regs.rrb (Tile.regs_setStream_regs _ _)
    · cases hx (k := 0x0A) h
      exact hs.sysRead_written Tile.tcause fun _ => rfl
    · cases hx (k := 0x0B) h
      exact hs.sysRead_field (by decide) Tile.tpc (fun _ => rfl) fun _ => rfl
    · cases hx (k := 0x0E) h
      exact hs.sysRead_field (by decide) Tile.ie (fun _ => rfl) fun _ => rfl
    · cases hx (k := 0x12) h
      exact hs.sysRead_field (by decide) Tile.mflags (fun _ => rfl) fun _ => rfl
    · cases hx (k := 0x13) h
      exact hs.sysRead_field (by decide) (fun y => (y.stream c).regs.vflags) (fun _ => rfl) fun _ =>
        congrArg Regs.vflags (Tile.regs_setStream_regs _ _)
    · exact hs.sysRead_gate_written h.1 h.2
    · cases hx (k := 0x09) h
      exact hs.sysRead_tstat_written

end

section
/-! PROOFS. The scalar unit: each operation on bit vectors is the integer operation of R161, wrapped to 64 bits. -/

namespace Sys2Proof.Machine

/-! ## Operations by their value on each pair of words (R161) -/

/-- A two-source operation is known by its value on each pair of words. -/
theorem scalarAB_of_alu2 {i : BitVec 4 → BitVec 6 → BitVec 6 → BitVec 6 → Instr} {op l : Nat} {g f : W64 → W64 → W64}
    (hi : ∀ p d a b s, exec (i p d a b) s = s.alu2 p op l d a b g) (hf : ∀ x y, g x y = f x y) : ScalarAB i op l f := by
  obtain rfl : g = f := funext fun x => funext fun y => hf x y
  exact hi

/-- An operation with an immediate is known by its value on each word and extended immediate. -/
theorem scalarAI_of_aluI {i : BitVec 4 → BitVec 6 → BitVec 6 → BitVec 9 → Instr} {op l : Nat} {g f : W64 → W64 → W64}
    (hi : ∀ p d a n s, exec (i p d a n) s = s.aluI p op l d a fun x => g x (imm64 n)) (hf : ∀ x y, g x y = f x y) :
    ScalarAI i op l f := by
  obtain rfl : g = f := funext fun x => funext fun y => hf x y
  exact hi

/-- A shift by an immediate is known by its value on each word and count. -/
theorem scalarShift_of_aluI {i : BitVec 4 → BitVec 6 → BitVec 6 → BitVec 6 → Instr} {op : Nat} {g f : W64 → Nat → W64}
    (hi : ∀ p d a n s, exec (i p d a n) s = s.aluI p op 1 d a fun x => g x n.toNat) (hf : ∀ x n, g x n = f x n) :
    ScalarShift i op f := by
  obtain rfl : g = f := funext fun x => funext fun n => hf x n
  exact hi

/-- A one-source operation is known by its value on each word. -/
theorem scalarA_of_alu1 {i : BitVec 4 → BitVec 6 → BitVec 6 → Instr} {op : Nat} {g f : W64 → W64}
    (hi : ∀ p d a s, exec (i p d a) s = s.alu1 p op 1 d a g) (hf : ∀ x, g x = f x) : ScalarA i op f := by
  obtain rfl : g = f := funext hf
  exact hi

/-! ## Words and numbers (R9, R161) -/

section Words
variable (x y : W64)

@[simp] theorem low64_toNat : low64 x.toNat = x := by rw [low64, BitVec.ofNat_toNat, BitVec.setWidth_eq]

@[simp] theorem wrap64_toInt : wrap64 x.toInt = x := BitVec.ofInt_toInt

theorem sub_eq_wrap64 : x - y = wrap64 (x.toInt - y.toInt) := by
  apply BitVec.eq_of_toInt_eq
  rw [BitVec.toInt_sub, wrap64, BitVec.toInt_ofInt]

theorem mul_eq_low64 : x * y = low64 (x.toNat * y.toNat) := by
  rw [low64, BitVec.ofNat_mul]
  exact congrArg₂ (· * ·) (low64_toNat x).symm (low64_toNat y).symm

theorem mul_eq_wrap64 : x * y = wrap64 (x.toInt * y.toInt) := by
  rw [wrap64, BitVec.ofInt_mul, BitVec.ofInt_toInt, BitVec.ofInt_toInt]

theorem shiftLeft_eq_low64 (n : Nat) : x <<< n = low64 (x.toNat * 2 ^ n) := by
  apply BitVec.eq_of_toNat_eq
  rw [BitVec.toNat_shiftLeft, Nat.shiftLeft_eq, low64, BitVec.toNat_ofNat]

theorem ushiftRight_eq_low64 (n : Nat) : x >>> n = low64 (x.toNat / 2 ^ n) := by
  rw [← low64_toNat (x >>> n), BitVec.toNat_ushiftRight, Nat.shiftRight_eq_div_pow]

theorem sshiftRight_eq_wrap64 (n : Nat) : x.sshiftRight n = wrap64 (x.toInt / 2 ^ n) := by
  rw [BitVec.sshiftRight_eq, Int.shiftRight_eq_div_pow]
  rfl

theorem mulhS_eq_wrap64 : mulhS x y = wrap64 (x.toInt * y.toInt / 2 ^ 64) := by
  rw [mulhS, Int.fdiv_eq_ediv_of_nonneg _ (by norm_num), wrap64]

theorem divu_eq_low64 : divu x y = if y = 0 then BitVec.allOnes 64 else low64 (x.toNat / y.toNat) := by
  rw [divu, BitVec.udiv_def, low64]

theorem remu_eq_low64 : remu x y = if y = 0 then BitVec.allOnes 64 else low64 (x.toNat - y.toNat * (x.toNat / y.toNat)) := by
  rw [remu, BitVec.umod_def, Nat.mod_eq_sub_mul_div, low64]

theorem ite_sle_eq_wrap64_min : (if x.sle y then x else y) = wrap64 (min x.toInt y.toInt) := by
  simp only [BitVec.sle_eq_decide, decide_eq_true_eq, min_def, apply_ite wrap64, wrap64_toInt]

theorem ite_sle_eq_wrap64_max : (if x.sle y then y else x) = wrap64 (max x.toInt y.toInt) := by
  simp only [BitVec.sle_eq_decide, decide_eq_true_eq, max_def, apply_ite wrap64, wrap64_toInt]

theorem ite_ule_eq_low64_min : (if x.ule y then x else y) = low64 (min x.toNat y.toNat) := by
  simp only [BitVec.ule_eq_decide, decide_eq_true_eq, Nat.min_def, apply_ite low64, low64_toNat]

theorem ite_ule_eq_low64_max : (if x.ule y then y else x) = low64 (max x.toNat y.toNat) := by
  simp only [BitVec.ule_eq_decide, decide_eq_true_eq, Nat.max_def, apply_ite low64, low64_toNat]

theorem clz_eq_low64 : BitVec.ofNat 64 (clz 64 x.toNat) = low64 (if x = 0 then 64 else 63 - Nat.log2 x.toNat) := by
  rw [low64, clz, Nat.mod_eq_of_lt x.isLt]
  simp only [← BitVec.toNat_inj]
  rfl

/-- ADDW and SUBW narrow a number that 64 bits have wrapped already to the same 32 bits. -/
theorem signW_eq_wrap64 {x : W64} {n : Int} (h : x = wrap64 n) : signW x = wrap64 (wrap32 n).toInt := by
  have hlow : (wrap64 n).setWidth 32 = wrap32 n := by
    apply BitVec.eq_of_toNat_eq
    simp only [wrap64, wrap32, BitVec.toNat_setWidth, BitVec.toNat_ofInt]
    omega
  rw [signW, h, hlow]
  rfl

theorem add_eq_wrap64 : x + y = wrap64 (x.toInt + y.toInt) := by
  rw [wrap64, BitVec.ofInt_add, BitVec.ofInt_toInt, BitVec.ofInt_toInt]

theorem rotateLeft_eq_low64 : x.rotateLeft (shCount y) =
    low64 (x.toNat * 2 ^ countOf y) ||| low64 (x.toNat / 2 ^ (64 - countOf y)) := by
  have hcount : shCount y % 64 = countOf y := Nat.mod_mod _ _
  rw [BitVec.rotateLeft_def, hcount, shiftLeft_eq_low64, ushiftRight_eq_low64]

end Words

end Sys2Proof.Machine

open Sys2Proof Sys2Proof.Machine

/-- Settles O11: each operation on bit vectors is its operation on integers, wrapped to 64 bits. -/
theorem scalarArithmetic : Obligations.ScalarArithmetic := by
  refine ⟨scalarAB_of_alu2 (fun _ _ _ _ _ => exec_add) BitVec.add_def,
    scalarAB_of_alu2 (fun _ _ _ _ _ => exec_sub) sub_eq_wrap64,
    scalarAI_of_aluI (fun _ _ _ _ _ => exec_addi) BitVec.add_def,
    scalarAB_of_alu2 (fun _ _ _ _ _ => exec_and) fun _ _ => rfl,
    scalarAB_of_alu2 (fun _ _ _ _ _ => exec_or) fun _ _ => rfl,
    scalarAB_of_alu2 (fun _ _ _ _ _ => exec_xor) fun _ _ => rfl,
    scalarAI_of_aluI (fun _ _ _ _ _ => exec_andi) fun _ _ => rfl,
    scalarAI_of_aluI (fun _ _ _ _ _ => exec_ori) fun _ _ => rfl,
    scalarAI_of_aluI (fun _ _ _ _ _ => exec_xori) fun _ _ => rfl,
    scalarAB_of_alu2 (fun _ _ _ _ _ => exec_shl) fun x y => shiftLeft_eq_low64 x (countOf y),
    scalarAB_of_alu2 (fun _ _ _ _ _ => exec_shr) fun x y => ushiftRight_eq_low64 x (countOf y),
    scalarAB_of_alu2 (fun _ _ _ _ _ => exec_sra) fun x y => sshiftRight_eq_wrap64 x (countOf y),
    scalarShift_of_aluI (fun _ _ _ _ _ => exec_shli) shiftLeft_eq_low64,
    scalarShift_of_aluI (fun _ _ _ _ _ => exec_shri) ushiftRight_eq_low64,
    scalarShift_of_aluI (fun _ _ _ _ _ => exec_srai) sshiftRight_eq_wrap64,
    scalarAB_of_alu2 (fun _ _ _ _ _ => exec_mul) mul_eq_low64,
    scalarAB_of_alu2 (fun _ _ _ _ _ => exec_mulh) mulhS_eq_wrap64,
    scalarAB_of_alu2 (fun _ _ _ _ _ => exec_mulhu) fun _ _ => rfl,
    scalarAB_of_alu2 (fun _ _ _ _ _ => exec_divu) divu_eq_low64,
    scalarAB_of_alu2 (fun _ _ _ _ _ => exec_remu) remu_eq_low64,
    scalarAB_of_alu2 (fun _ _ _ _ _ => exec_min) ite_sle_eq_wrap64_min,
    scalarAB_of_alu2 (fun _ _ _ _ _ => exec_max) ite_sle_eq_wrap64_max,
    scalarAB_of_alu2 (fun _ _ _ _ _ => exec_minu) ite_ule_eq_low64_min,
    scalarAB_of_alu2 (fun _ _ _ _ _ => exec_maxu) ite_ule_eq_low64_max,
    scalarA_of_alu1 (fun _ _ _ _ => exec_clz) clz_eq_low64,
    scalarA_of_alu1 (fun _ _ _ _ => exec_popc) fun _ => rfl,
    scalarAB_of_alu2 (fun _ _ _ _ _ => exec_addw) fun x y => signW_eq_wrap64 (add_eq_wrap64 x y),
    scalarAB_of_alu2 (fun _ _ _ _ _ => exec_subw) fun x y => signW_eq_wrap64 (sub_eq_wrap64 x y),
    scalarAB_of_alu2 (fun _ _ _ _ _ => exec_rotl) rotateLeft_eq_low64,
    scalarAB_of_alu2 (fun _ _ _ _ _ => exec_bext) fun _ _ => rfl,
    scalarAI_of_aluI (fun _ _ _ _ _ => exec_muli) mul_eq_wrap64,
    fun _ _ _ _ _ => rfl⟩

end

section
/-! PROOFS. The scalar compares: conditions on bit patterns as conditions on numbers, and the codes decode refuses. -/

namespace Sys2Proof.Machine

/-! ## Conditions (R163) -/

section Conditions
variable {w : Nat} (x y : BitVec w)

theorem beq_eq_decide_toNat : (x == y) = decide (x.toNat = y.toNat) := by
  simp only [BitVec.toNat_inj, beq_eq_decide]

theorem bne_eq_decide_toNat : (x != y) = decide (x.toNat ≠ y.toNat) := by
  rw [bne, beq_eq_decide_toNat, decide_not]

theorem beq_eq_decide_toInt : (x == y) = decide (x.toInt = y.toInt) := by
  simp only [BitVec.toInt_inj, beq_eq_decide]

theorem bne_eq_decide_toInt : (x != y) = decide (x.toInt ≠ y.toInt) := by
  rw [bne, beq_eq_decide_toInt, decide_not]

/-- The conditions of CMP on patterns of any width are conditions on their numbers. -/
theorem condI_eq_decide (f : BitVec 3) : condI f x y = match f with
    | 0 => decide (x.toNat = y.toNat)
    | 1 => decide (x.toNat ≠ y.toNat)
    | 2 => decide (x.toInt < y.toInt)
    | 3 => decide (x.toNat < y.toNat)
    | 4 => decide (y.toInt ≤ x.toInt)
    | _ => decide (y.toNat ≤ x.toNat) := by
  obtain ⟨⟨code, hcode⟩⟩ := f
  interval_cases code
  · exact beq_eq_decide_toNat x y
  · exact bne_eq_decide_toNat x y
  · exact BitVec.slt_eq_decide
  · exact BitVec.ult_eq_decide
  · exact BitVec.sle_eq_decide
  all_goals exact BitVec.ule_eq_decide

/-- The conditions of CMPI compare a word with the number its immediate stands for. -/
theorem condImm_imm64 (c : BitVec 2) (a : W64) (n : BitVec 9) : condImm c a (imm64 n) = match c with
    | 0 => decide (a.toInt = n.toInt)
    | 1 => decide (a.toInt ≠ n.toInt)
    | 2 => decide (a.toInt < n.toInt)
    | _ => decide (n.toInt ≤ a.toInt) := by
  have hn : (imm64 n).toInt = n.toInt := BitVec.toInt_signExtend_of_le (by decide)
  simp only [← hn]
  obtain ⟨⟨code, hcode⟩⟩ := c
  interval_cases code
  · exact beq_eq_decide_toInt a (imm64 n)
  · exact bne_eq_decide_toInt a (imm64 n)
  · exact BitVec.slt_eq_decide
  · exact BitVec.sle_eq_decide

end Conditions

/-! ## The codes decode refuses (R105, R163) -/

section Codes
variable {w : Nat} {f : BitVec 3}

theorem cmp_code_le {p d : BitVec 4} {a b : BitVec 6} (h : decodeWord .scalar w = some (.cmp p d a b f)) : f.toNat ≤ 5 := by
  obtain ⟨_, hwf, _⟩ := Laws.decodeWord_eq_some.1 h
  exact Nat.lt_succ_iff.1 (of_decide_eq_true hwf)

theorem plog_code_le {p d a b : BitVec 4} (h : decodeWord .scalar w = some (.plog p d a b f)) :
    f.toNat ≤ 5 ∧ (4 ≤ f.toNat → b = 0) := by
  obtain ⟨_, hwf, _⟩ := Laws.decodeWord_eq_some.1 h
  simp only [WellFormed, Bool.and_eq_true, Bool.or_eq_true, decide_eq_true_eq, beq_iff_eq] at hwf
  obtain ⟨hcode, hunary⟩ := hwf
  exact ⟨Nat.lt_succ_iff.1 hcode, fun h4 => hunary.resolve_left (Nat.not_lt.2 h4)⟩

end Codes

end Sys2Proof.Machine

open Sys2Proof Sys2Proof.Machine

/-- Settles O13: each condition on patterns as one on numbers, the predicate's result by its register, and the codes by `WellFormed`. -/
theorem scalarCompares : Obligations.ScalarCompares := by
  refine ⟨fun p d a b f s => ?_, fun p d c a n s => ?_, fun p d a b f s => ?_, fun _ _ _ => rfl, fun d l v s hd => if_neg hd,
    fun w p d a b f => cmp_code_le, fun w p d a b f => plog_code_le⟩
  · rw [exec_cmp]
    exact State.when_eq_guarded (congrArg (s.resultP d 1) (condI_eq_decide (s.rs a) (s.rs b) f))
  · rw [exec_cmpi]
    exact State.when_eq_guarded (congrArg (s.resultP d 1) (condImm_imm64 c (s.rs a) n))
  · rw [exec_plog]
    exact State.when_eq_guarded rfl

end

section
/-! PROOFS. Constants, selection and addresses, and the loads and stores of the scalar unit. -/

namespace Sys2Proof.Machine

/-! ## Values (R162, R168) -/

theorem movsh_eq_low64 (x : W64) (imm : BitVec 15) : (x <<< 15) ||| imm.setWidth 64 = low64 (x.toNat * 2 ^ 15) ||| low64 imm.toNat := by
  rw [shiftLeft_eq_low64, low64, low64, BitVec.ofNat_toNat]

/-- LEA's offset saturates at the largest one below 2^59. -/
theorem leaOffset_eq (n : Nat) : min n (2 ^ 59 - 1) = if n < 2 ^ 59 then n else 2 ^ 59 - 1 := by
  split <;> omega

theorem getLsbD_two_iff (f : BitVec 3) : f.getLsbD 2 = true ↔ 4 ≤ f.toNat := by
  revert f; decide

/-! ## The extent of LDF (R86, R169, R277) -/

/-- May LDF load the word at an offset of a declaration: does it lie in a readable, cached extent that the tile's die reaches? -/
def State.ldfReach (s : State) (i : Nat) (o : Int) : Bool :=
  match s.extent s.cur.tile i with
  | none => false
  | some x => x.covers o 8 true false && x.cls != 0 && s.ownsPrivate s.cur.tile x

theorem State.ldfReach_iff {s : State} {i : Nat} {o : Int} : s.ldfReach i o = true ↔
    ∃ x, s.extent s.cur.tile i = some x ∧ x.covers o 8 true false = true ∧ x.cls ≠ 0 ∧ s.ownsPrivate s.cur.tile x = true := by
  unfold State.ldfReach
  cases s.extent s.cur.tile i with
  | none => simp
  | some x => simp [and_assoc]

/-- LDF by its two checks: the extent, then the alignment of the offset. -/
theorem execLdf_eq (p : BitVec 4) (d a : BitVec 6) (n : BitVec 9) (s : State) : execLdf p d a n s = s.when p fun s =>
    let o : Int := ((s.rs a).toNat % 2 ^ 59 : Nat) + n.toInt * 8
    let addr := wrap64 (((s.rs a).toNat / 2 ^ 59 * 2 ^ 59 : Nat) + o)
    let tag := tagOf [s.ts a, immTag] (opk 0 0x27)
    if ¬ s.ldfReach ((s.rs a).toNat / 2 ^ 59) o = true then s.raiseAt 0x07 addr
    else if (s.rs a).toNat % 2 ^ 59 % 8 ≠ 0 then s.raiseAt 0x08 addr
    else (s.emit (.ldf ⟨0, s.cur.cycle, s.cur.slot, .s d, 0, 0, tag, 0, 0⟩ addr)).entryTag tag := by
  simp only [execLdf, Bool.not_eq_true', Bool.not_eq_true, wrap64, Nat.cast_mul, Nat.cast_pow, Nat.cast_ofNat]
  rfl

end Sys2Proof.Machine

open Sys2Proof Sys2Proof.Machine

/-- Settles O12: each constant by its value; LDS and STS by their one access; LDF by whether its extent is there. -/
theorem scalarConstantsAndMemory : Obligations.ScalarConstantsAndMemory := by
  refine ⟨⟨fun p d imm s => rfl, fun p d imm s => ?_, fun p d a b f s => rfl, fun p d a f s => rfl, fun p d a e s => ?_⟩,
    fun p d a b f s => ?_, fun p d a b f s => rfl, fun p d a n s => ?_⟩
  · rw [exec_movsh]
    exact State.when_eq_guarded (congrArg (s.resultS d 1 · _) (movsh_eq_low64 _ imm))
  · rw [exec_lea]
    exact State.when_eq_guarded (congrArg (fun o => s.resultS d 1 (low64 (e.toNat * 2 ^ 59 + o)) _) (leaOffset_eq _))
  · rw [exec_lds]
    refine State.when_eq_guarded ?_
    simp only [getLsbD_two_iff]
    rfl
  · rw [exec_ldf, execLdf_eq]
    refine State.when_eq_guarded ?_
    simp only [State.ldfReach_iff]

end

section
/-! PROOFS. The loop levels: the checks of a loop that opens, the steps of the levels that end at an address, and what each leaves at its
commit. -/

namespace Sys2Proof.Machine

/-! ## Opening a level (R171) -/

section Open

theorem noIteration_iff {rotating : Bool} {count : W64} {ec : BitVec 8} :
    noIteration rotating count ec = true ↔ if rotating = true then count = 0 ∧ ec = 0 else count = 0 := by
  cases rotating <;> simp [noIteration]

theorem any_rotating_iff {ls : List Level} {rotating : Bool} :
    (rotating && ls.any fun l => l.fl.getLsbD 1) = true ↔ rotating = true ∧ ∃ l ∈ ls, l.fl.getLsbD 1 = true := by
  simp only [Bool.and_eq_true, List.any_eq_true]

theorem any_ends_before_iff {ls : List Level} {last : Nat} :
    (ls.any fun l => decide (l.last < last)) = true ↔ ∃ l ∈ ls, l.last < last := by
  simp only [List.any_eq_true, decide_eq_true_eq]

/-- A loop that fails one of the four checks raises the one cause they share. -/
theorem State.openLoop_eq (s : State) (fl : BitVec 3) (count : W64) (off : Nat) : s.openLoop fl count off =
    let last := s.cur.pc + off
    if s.loopsNow.length ≥ 6 ∨ last ≤ (if s.cur.ctx = .handler then s.cur.pc else s.sigAt) ∨ (∃ l ∈ s.loopsNow, l.last < last) ∨
        (fl.getLsbD 1 = true ∧ ∃ l ∈ s.loopsNow, l.fl.getLsbD 1 = true) then s.raiseOpen 0x02
    else if noIteration (fl.getLsbD 1) count s.regs.ec = true then
      (s.emit (.loopSkip count fl)).emit (.jump (if s.cur.ctx = .handler then s.zOfEnd last else s.succA))
    else s.emit (.loopOpen { start := s.zAddr, last := last, count := count, index := 0, fl := fl } count) := by
  simp only [State.openLoop, any_rotating_iff, any_ends_before_iff, ite_or]

end Open

/-! ## The start of an iteration (R148, R171) -/

section Iteration
variable {fl : BitVec 3} {g : Regs}

theorem iterStart_plain (h : fl.getLsbD 1 = false) : iterStart fl g =
    { g with epoch := if fl.getLsbD 2 then g.epoch + 1 else g.epoch } := by
  simp only [iterStart, h]
  split <;> rfl

theorem iterStart_rotating (h : fl.getLsbD 1 = true) : iterStart fl g =
    { g with
      rrb := g.rrb - 1, p := setP g.p (physP (g.rrb - 1) 8) (decide (g.lc ≠ 0)), lc := if g.lc ≠ 0 then g.lc - 1 else g.lc,
      ec := if g.lc ≠ 0 then g.ec else g.ec - 1, epoch := if fl.getLsbD 2 then g.epoch + 1 else g.epoch } := by
  simp only [iterStart, h, decide_eq_true_eq]
  split <;> rfl

/-- Predicates below p8 do not rotate. -/
theorem physP_low (rrb : BitVec 5) {r : BitVec 4} (h : r.toNat < 8) : physP rrb r = r := if_pos h

theorem physP_eight_ne_zero (rrb : BitVec 5) : physP rrb 8 ≠ 0 := by
  revert rrb; decide

/-- A rotating iteration sets p8 of its own numbering to whether it is one of the LC that begin the loop. -/
theorem readP_iterStart_eight (h : fl.getLsbD 1 = true) : readP (iterStart fl g) (iterStart fl g).rrb 8 = decide (g.lc ≠ 0) := by
  simp only [iterStart_rotating h, readP, getLsbD_setP _ _ _ (physP (g.rrb - 1) 8).isLt, physP_eight_ne_zero, ne_eq, not_false_eq_true,
    and_self, if_true]
  rfl

theorem enterRotating_rotating (h : fl.getLsbD 1 = true) (n : W64) : enterRotating fl n g =
    { g with lc := n, rrb := 0, p := g.p &&& 0x00FF } := if_pos h

theorem enterRotating_plain (h : fl.getLsbD 1 = false) (n : W64) : enterRotating fl n g = g := if_neg (Bool.eq_false_iff.1 h)

theorem rrb_enterRotating (h : fl.getLsbD 1 = true) {n : W64} : (iterStart fl (enterRotating fl n g)).rrb = 31 := by
  rw [iterStart_rotating h, enterRotating_rotating h]
  rfl

theorem lc_enterRotating (h : fl.getLsbD 1 = true) {n : W64} :
    (iterStart fl (enterRotating fl n g)).lc = if n = 0 then 0 else n - 1 := by
  rw [iterStart_rotating h, enterRotating_rotating h]
  by_cases hn : n = 0
  · subst hn
    rfl
  · exact (if_pos hn).trans (if_neg hn).symm

theorem ec_enterRotating (h : fl.getLsbD 1 = true) {n : W64} :
    (iterStart fl (enterRotating fl n g)).ec = if n = 0 then g.ec - 1 else g.ec := by
  rw [iterStart_rotating h, enterRotating_rotating h]
  exact ite_not ..

/-- Entering a rotating loop clears p8 to p15, of which its first iteration sets p8. -/
theorem readP_enterRotating (h : fl.getLsbD 1 = true) (n : W64) (r : BitVec 4) :
    readP (iterStart fl (enterRotating fl n g)) (iterStart fl (enterRotating fl n g)).rrb r =
      if r.toNat < 8 then readP g g.rrb r else decide (r = 8 ∧ n ≠ 0) := by
  have hlow : ∀ i : BitVec 4, (0x00FF : BitVec 16).getLsbD i.toNat = decide (i.toNat < 8) := by decide
  have hhigh : ∀ i : BitVec 4, ¬ i.toNat < 8 → i ≠ 0 ∧ ¬ (physP 31 i).toNat < 8 ∧ ((physP 31 i).toNat = (physP 31 8).toNat ↔ i = 8) := by
    decide
  rw [iterStart_rotating h, enterRotating_rotating h]
  change (r == 0 || (setP (g.p &&& 0x00FF) (physP 31 8) (decide (n ≠ 0))).getLsbD (physP 31 r).toNat) = _
  rw [getLsbD_setP _ _ _ (physP 31 r).isLt, BitVec.getLsbD_and, hlow]
  by_cases hr : r.toNat < 8
  · have hne : r.toNat ≠ (physP 31 8).toNat := fun he => (by decide : ¬ (physP 31 8).toNat < 8) (he ▸ hr)
    rw [if_pos hr, readP, physP_low _ hr, physP_low _ hr, if_neg fun he => hne he.1, decide_eq_true hr, Bool.and_true]
  · obtain ⟨hzero, hclear, height⟩ := hhigh r hr
    rw [if_neg hr, beq_eq_false_iff_ne.2 hzero, Bool.false_or, decide_eq_false hclear, Bool.and_false, Bool.decide_and]
    simp only [height, physP_eight_ne_zero, ne_eq, not_false_eq_true, and_true]
    by_cases h8 : r = 8
    · rw [if_pos h8, decide_eq_true h8, Bool.true_and]
    · rw [if_neg h8, decide_eq_false h8, Bool.false_and]

end Iteration

/-! ## The steps of a level (R148, R171) -/

section Steps
variable {g : Regs} {n : Nat} {l : Level} {ls : List Level}

/-- Does a level repeat when its body ends? -/
def Level.again (l : Level) (g : Regs) : Bool :=
  if l.fl.getLsbD 1 then decide (g.lc ≠ 0) || decide (g.ec ≠ 0) else decide (l.index + 1 < l.count)

theorem Level.again_plain (h : l.fl.getLsbD 1 = false) : l.again g = true ↔ (l.index + 1).toNat < l.count.toNat := by
  rw [Level.again, h, if_neg Bool.false_ne_true, decide_eq_true_eq, BitVec.lt_def]

theorem Level.again_rotating (h : l.fl.getLsbD 1 = true) : l.again g = true ↔ g.lc ≠ 0 ∨ g.ec ≠ 0 := by
  rw [Level.again, if_pos h, Bool.or_eq_true, decide_eq_true_eq, decide_eq_true_eq]

/-- A level that ends here and repeats starts its next iteration. -/
theorem stepLevels_again (h : l.again g = true) : stepLevels l.last g n (l :: ls) =
    (⟨iterStart l.fl g, { l with index := l.index + 1 } :: ls⟩, some (l.start, n)) :=
  (if_neg (not_not.2 rfl)).trans (if_pos h)

/-- A level that ends here and is done is closed, and the next one steps. -/
theorem stepLevels_done (h : ¬ l.again g = true) : stepLevels l.last g n (l :: ls) = stepLevels l.last g (n + 1) ls :=
  (if_neg (not_not.2 rfl)).trans (if_neg h)

end Steps

/-! ## What the commit leaves (R134, R171) -/

section Commit
variable {s : State} {t : Nat} {c : Ctx} {b : Issued}

/-- What an effect on the loop levels, other than their step, does to the stream of its context; `none` for every other effect. -/
def Effect.onLevels : Effect → Option (Stream → Stream)
  | .loopOpen l count => some fun x => { x with regs := iterStart l.fl (enterRotating l.fl count x.regs), loops := l :: x.loops }
  | .loopSkip count fl => some fun x => { x with regs := enterRotating fl count x.regs }
  | .brkl n => some fun x => { x with loops := x.loops.drop n }
  | .setlc lc ec => some fun x => { x with regs := { x.regs with lc := lc, ec := ec } }
  | _ => none

theorem State.applyEffect_of_onLevels {e : Effect} {f : Stream → Stream} (he : e.onLevels = some f) :
    s.applyEffect t c b e = s.updStream t c f := by
  cases e <;> cases he <;> rfl

theorem State.Canon.stream_onLevels (hs : s.Canon) {e : Effect} {f : Stream → Stream} (he : e.onLevels = some f) :
    ((s.applyEffect t c b e).tile t).stream c = f ((s.tile t).stream c) := by
  rw [State.applyEffect_of_onLevels he, hs.stream_updStream]

/-- A jump leaves the registers and the levels of its stream. -/
theorem State.Canon.loops_jumpTo (hs : s.Canon) (target n : Nat) :
    (((s.jumpTo t c b target n).tile t).stream c).regs = ((s.tile t).stream c).regs ∧
      (((s.jumpTo t c b target n).tile t).stream c).loops = ((s.tile t).stream c).loops := by
  cases c with
  | handler =>
    have htile : (s.jumpTo t .handler b target n).tile t = _ := hs.tile_updTile_same
    rw [htile]
    exact ⟨rfl, rfl⟩
  | primary | secondary =>
    simp only [State.jumpTo, hs.stream_updStream, and_self]

/-- A loop's step leaves its stream the registers and the levels that stepping its levels gives. -/
theorem State.Canon.stream_loopStep (hs : s.Canon) :
    let x := (s.tile t).stream c
    let y := ((s.applyEffect t c b .loopStep).tile t).stream c
    y.regs = (stepLevels b.pc x.regs 0 x.loops).1.regs ∧ y.loops = (stepLevels b.pc x.regs 0 x.loops).1.loops := by
  intro x
  have hstep : ((s.updStream t c fun x' => { x' with
      regs := (stepLevels b.pc x.regs 0 x.loops).1.regs, loops := (stepLevels b.pc x.regs 0 x.loops).1.loops }).tile t).stream c = _ :=
    hs.stream_updStream
  simp only [State.applyEffect]
  split
  · obtain ⟨hregs, hloops⟩ := State.Canon.loops_jumpTo (t := t) (c := c) (b := b) (canon_updStream hs) _ _
    rw [hregs, hloops, hstep]
    exact ⟨rfl, rfl⟩
  · rw [hstep]
    exact ⟨rfl, rfl⟩

end Commit

end Sys2Proof.Machine

open Sys2Proof Sys2Proof.Machine

/-- Settles O17: a loop by its checks, the step of a level by whether it repeats, and the commit by the effect on the stream. -/
theorem loopsAndLevels : Obligations.LoopsAndLevels := by
  refine ⟨⟨fun p fl a last s => rfl, fun p fl n last s => ?_, fun s fl count off => ?_, fun p lv s => ?_, fun p a ec s => rfl⟩,
    fun pc g n l ls hpc => ?_, fun s t c b hs => ?_⟩
  · rw [exec_loopi]
    refine State.when_eq_guarded ?_
    rw [low64, BitVec.ofNat_toNat]
  · simp only [State.openLoop_eq, noIteration_iff]
  · rw [exec_brkl]
    refine State.when_eq_guarded ?_
    simp only [State.transfer_eq decide_eq_true_iff]
    rfl
  · subst hpc
    intro l'
    refine ⟨fun hfl hlt => ?_, fun hfl hle => ?_, fun hfl hlc => ?_, fun hfl hlc hec => ?_, fun hfl hlc hec => ?_⟩
    · rw [stepLevels_again ((Level.again_plain hfl).2 hlt), iterStart_plain hfl]
    · exact stepLevels_done fun h => absurd ((Level.again_plain hfl).1 h) (Nat.not_lt.2 hle)
    · refine ⟨_, stepLevels_again ((Level.again_rotating hfl).2 (.inl hlc)), ?_, ?_, ?_, ?_⟩
      · rw [iterStart_rotating hfl]
        exact if_pos hlc
      · rw [iterStart_rotating hfl]
        exact if_pos hlc
      · rw [iterStart_rotating hfl]
      · rw [readP_iterStart_eight hfl, decide_eq_true hlc]
    · refine ⟨_, stepLevels_again ((Level.again_rotating hfl).2 (.inr hec)), ?_, ?_, ?_, ?_⟩
      · rw [iterStart_rotating hfl]
        exact (if_neg (not_not.2 hlc)).trans hlc
      · rw [iterStart_rotating hfl]
        exact if_neg (not_not.2 hlc)
      · rw [iterStart_rotating hfl]
      · rw [readP_iterStart_eight hfl, decide_eq_false (not_not.2 hlc)]
    · exact stepLevels_done fun h => ((Level.again_rotating hfl).1 h).elim (absurd hlc) (absurd hec)
  · intro x y
    have hy {e : Effect} {f : Stream → Stream} (he : e.onLevels = some f) : y e = f x := hs.stream_onLevels he
    refine ⟨fun lc ec => ?_, fun n => ?_, fun l n => ?_, fun n fl hfl => ?_, fun n fl hfl => ?_, ?_⟩
    · rw [hy (e := .setlc lc ec) rfl]
      exact ⟨rfl, rfl⟩
    · rw [hy (e := .brkl n) rfl]
      exact ⟨rfl, rfl⟩
    · rw [hy (e := .loopOpen l n) rfl]
      refine ⟨rfl, fun hfl => ?_, fun hfl => ?_⟩
      · change iterStart l.fl (enterRotating l.fl n x.regs) = _
        rw [enterRotating_plain hfl, iterStart_plain hfl]
      · exact ⟨lc_enterRotating hfl, ec_enterRotating hfl, rrb_enterRotating hfl, readP_enterRotating hfl n⟩
    · rw [hy (e := .loopSkip n fl) rfl]
      exact enterRotating_rotating hfl n
    · rw [hy (e := .loopSkip n fl) rfl]
      exact enterRotating_plain hfl n
    · obtain ⟨hregs, hloops⟩ := hs.stream_loopStep (t := t) (c := c) (b := b)
      exact ⟨hregs.symm, hloops.symm⟩

end

section
/-! PROOFS. The services of the control slot: each by the effect it adds or the trap it raises. -/

namespace Sys2Proof.Machine

/-! ## Operands of the services (R177 to R179) -/

/-- The bits of a word above a tile's 22 address bits. -/
theorem field_above_address (v : W64) : field v.toNat 22 42 = v.toNat / 2 ^ 22 := by
  apply Nat.mod_eq_of_lt
  omega

/-- RDV's target is the wrapped sum of its register and its immediate. -/
theorem add_setWidth_eq_low64 (x : W64) {k : Nat} (n : BitVec k) (hk : k ≤ 64) : x + n.setWidth 64 = low64 (x.toNat + n.toNat) := by
  rw [BitVec.add_def, BitVec.toNat_setWidth_of_le hk, low64]

/-- The scopes .tile and .rgn, at which FENCE waits for nothing. -/
theorem scope_lt_two_iff {sc : BitVec 4} : sc.toNat < 2 ↔ sc = 0 ∨ sc = 1 := by
  revert sc; decide

end Sys2Proof.Machine

open Sys2Proof Sys2Proof.Machine

/-- Settles O18: each service by the effect it adds; GATESET, RDV, TRAPI and SECS by the check that raises their trap. -/
theorem controlServices : Obligations.ControlServices := by
  refine ⟨fun p ph s => rfl, fun p md v s => rfl, fun p g a ph en s => ?_, fun p a n s => ?_, fun p sc s => ?_, fun p tag s => rfl,
    fun p code s => rfl, fun p s => rfl, fun p s => rfl, fun p s => rfl, fun p n s => rfl, fun p a s => ?_, fun p md m s => rfl,
    fun p go s => ?_⟩
  · rw [exec_gateset]
    refine State.when_eq_guarded ?_
    simp only [field_above_address]
    rfl
  · rw [exec_rdv]
    refine State.when_eq_guarded ?_
    simp only [add_setWidth_eq_low64 _ _ (by decide : 16 ≤ 64)]
  · rw [exec_fence]
    refine State.when_eq_guarded ?_
    simp only [scope_lt_two_iff]
  · rw [exec_sprng]
    refine State.when_eq_guarded ?_
    rw [low64, BitVec.ofNat_toNat]
    rfl
  · rw [exec_secs]
    refine State.when_eq_guarded ?_
    simp only [Bool.not_eq_true']

end

section
/-! PROOFS. The vector loads and stores: the lane addresses of each form, the lanes a load writes, and the bytes a store leaves. -/

namespace Sys2Proof.Machine

/-! ## Lane addresses (R200) -/

theorem State.baseAddr_eq_low64 (s : State) (a : BitVec 6) (off : BitVec 32) :
    s.baseAddr a off = low64 ((s.rs a).toNat + (off.signExtend 64).toNat) :=
  BitVec.add_def (s.rs a) (off.signExtend 64)

theorem laneStride_eq (b st : W64) (l : Nat) : laneStride b st l = ((low64 (b.toNat + l * st.toNat)).toNat : Int) := by
  simp [laneStride, low64, BitVec.toNat_add, BitVec.toNat_mul]

/-! ## Active lanes (R201) -/

section Access
variable {s : State} {m : BitVec 64} {f : Nat → Int} {bad : Access → Bool} {t : State}

theorem isEmpty_laneAccess : (laneAccess m f).isEmpty = true ↔ m = 0 := by
  rw [laneAccess, List.isEmpty_map, List.isEmpty_iff, List.eq_nil_iff_forall_not_mem]
  refine ⟨fun h => BitVec.eq_of_getLsbD_eq fun l hl => ?_, fun h l hl => ?_⟩
  · rw [show BitVec.getLsbD 0 l = false from BitVec.getLsbD_zero]
    exact Bool.eq_false_iff.2 fun hact => h l (mem_lanesOf.2 ⟨hl, hact⟩)
  · simpa [h] using (mem_lanesOf.1 hl).2

theorem State.vload_inactive (h : m = 0) (d : BitVec 6) (lat : Nat) : s.vload d lat m bad f = s := if_pos (isEmpty_laneAccess.2 h)

theorem State.vstore_inactive (h : m = 0) (v : BitVec 6) (op : Nat) : s.vstore v op m bad f = s := if_pos (isEmpty_laneAccess.2 h)

theorem State.vload_of_fails (h : m ≠ 0) (hf : s.memAccess false true bad s.eng 0 (laneAccess m f) = (t, false)) (d : BitVec 6)
    (lat : Nat) : s.vload d lat m bad f = t := by
  simp only [State.vload, isEmpty_laneAccess, h, hf, Bool.false_eq_true, if_false]

theorem State.vstore_of_fails (h : m ≠ 0) (hf : s.memAccess true true bad s.eng 0 (laneAccess m f) = (t, false)) (v : BitVec 6)
    (op : Nat) : s.vstore v op m bad f = t := by
  simp only [State.vstore, isEmpty_laneAccess, h, hf, Bool.false_eq_true, if_false]

theorem State.vload_of_passes (h : m ≠ 0) (hf : s.memAccess false true bad s.eng 0 (laneAccess m f) = (t, true)) (d : BitVec 6)
    (lat : Nat) : s.vload d lat m bad f = t.resultV d (s.loadLat lat (touched (laneAccess m f))) m
      (ofLanes fun l => if m.getLsbD l then BitVec.ofNat 32 (readN (s.ctile.view s.cur.ctx s.cur.cycle).spad (f l).toNat 4) else 0)
      (foldTags (s.ctile.view s.cur.ctx s.cur.cycle).ltag (touched (laneAccess m f))) 0 0 := by
  simp only [State.vload, isEmpty_laneAccess, h, hf, if_false, if_true]

/-- The bytes a store buffers: each lane's, in lane order. -/
def storeBytes (v : VReg) (m : BitVec 64) (f : Nat → Int) : List Host.Cell :=
  (lanesOf m).flatMap fun l => (toBytes 4 (lane v l).toNat).zipIdx.map fun b => ((f l).toNat + b.2, b.1)

theorem State.vstore_of_passes (h : m ≠ 0) (hf : s.memAccess true true bad s.eng 0 (laneAccess m f) = (t, true)) (v : BitVec 6)
    (op : Nat) : s.vstore v op m bad f = t.bufferStore 3 (storeBytes (s.rv v) m f) ((touched (laneAccess m f)).map (·.1))
      (s.tv v ^^^ opk 2 op) false := by
  simp only [State.vstore, isEmpty_laneAccess, h, hf, if_false, if_true]
  rfl

end Access

/-! ## What a load reads and what a store leaves (R201) -/

theorem ofBytes_lt (bs : List Byte) : ofBytes bs < 256 ^ bs.length := by
  induction bs with
  | nil => exact Nat.one_pos
  | cons b bs ih =>
    have hb : b.toNat < 256 := b.isLt
    rw [ofBytes, List.length_cons, pow_succ]
    omega

theorem readN_lt (m : List Host.Cell) (a n : Nat) : readN m a n < 256 ^ n := by
  have h := ofBytes_lt (readBytes m a n)
  rwa [show (readBytes m a n).length = n by simp [readBytes]] at h

/-- The byte of a word stored at `b` that falls on an address. -/
theorem find_word_cells (x b a : Nat) :
    (((toBytes 4 x).zipIdx.map fun c => (b + c.2, c.1)).reverse.find? fun c => c.1 == a).map Prod.snd =
      if b ≤ a ∧ a < b + 4 then some (BitVec.ofNat 8 (x / 2 ^ (8 * (a - b)))) else none := by
  by_cases h : b ≤ a ∧ a < b + 4
  · rw [if_pos h]
    obtain ⟨i, rfl⟩ := Nat.exists_eq_add_of_le h.1
    have hi : i < 4 := by omega
    interval_cases i <;> simp [toBytes, Nat.div_div_eq_div_mul]
  · rw [if_neg h, Option.map_eq_none_iff, List.find?_eq_none]
    simp [toBytes]
    omega

/-- The first element that passes a test, and its image, are the first image of an element that passes it. -/
theorem findSome_ite {α β : Type} (p : α → Prop) [DecidablePred p] (g : α → β) (xs : List α) :
    xs.findSome? (fun x => if p x then some (g x) else none) = (xs.find? fun x => decide (p x)).map g := by
  rw [List.find?_eq_findSome?_guard, List.map_findSome?]
  refine congrArg (fun k => List.findSome? k xs) (funext fun x => ?_)
  by_cases h : p x <;> simp [Option.guard, h]

/-- The byte a store leaves at an address is that of the highest active lane that covers it. -/
theorem find_storeBytes (v : VReg) (m : BitVec 64) (f : Nat → Int) (a : Nat) :
    ((storeBytes v m f).reverse.find? fun c => c.1 == a).map Prod.snd =
      ((List.range 64).reverse.find? fun l => m.getLsbD l && decide ((f l).toNat ≤ a) && decide (a < (f l).toNat + 4)).map
        fun l => BitVec.ofNat 8 ((lane v l).toNat / 2 ^ (8 * (a - (f l).toNat))) := by
  rw [storeBytes, List.reverse_flatMap, List.find?_flatMap, List.map_findSome?]
  simp only [Function.comp_def, find_word_cells, findSome_ite]
  rw [lanesOf, ← List.filter_reverse, List.find?_filter]
  simp only [Bool.decide_and, Bool.decide_eq_true, Bool.and_assoc]

end Sys2Proof.Machine

open Sys2Proof Sys2Proof.Machine

/-- Settles O25: each form by its lane addresses; a load by the lanes of its result, a store by its last byte at each address. -/
theorem vectorMemoryAndMoves : Obligations.VectorMemoryAndMoves := by
  refine ⟨⟨fun p v a q off s => ?_, fun p v a q off s => ?_, fun _ _ _ _ _ _ _ => rfl, fun _ _ _ _ _ _ _ => rfl, fun _ _ _ _ _ => rfl,
    fun p v a b q off s => ?_, fun p v a b q off s => ?_⟩, fun s v lat op m bad f => ?_⟩
  · rw [exec_vld]
    refine State.when_eq_guarded ?_
    simp only [State.baseAddr_eq_low64]
    rfl
  · rw [exec_vst]
    refine State.when_eq_guarded ?_
    simp only [State.baseAddr_eq_low64]
    rfl
  · rw [exec_vlds]
    refine State.when_eq_guarded ?_
    simp only [funext (laneStride_eq _ _)]
    rfl
  · rw [exec_vsts]
    refine State.when_eq_guarded ?_
    simp only [funext (laneStride_eq _ _)]
    rfl
  · intro xs see
    refine ⟨fun h => ⟨State.vload_inactive h v lat, State.vstore_inactive h v op⟩, fun h t ht => ?_, fun h t ht => ?_,
      fun h t ht => State.vload_of_fails h ht v lat, fun h t ht => State.vstore_of_fails h ht v op⟩
    · refine ⟨_, State.vload_of_passes h ht v lat, fun l hl hact => ?_⟩
      rw [lane_ofLanes _ hl, if_pos hact, BitVec.toNat_ofNat]
      exact Nat.mod_eq_of_lt (readN_lt _ _ 4)
    · exact ⟨_, State.vstore_of_passes h ht v op, find_storeBytes (s.rv v) m f⟩

end

section
/-! PROOFS. The accumulator port: each K instruction by the row it names, and what a row written column by column reads as. -/

namespace Sys2Proof.Machine

/-! ## The registers a read of a row leaves (R136, R230) -/

/-- An entry that is put and is not the default is read back, whatever the order of the table. -/
theorem SMap.get_set_same_of_ne {V : Type} [DecidableEq V] {d x : V} (hx : x ≠ d) (m : SMap V) (i : Nat) :
    SMap.get d (SMap.set d m i x) i = x := by
  induction m with
  | nil => simp [SMap.set, SMap.get, hx]
  | cons p m ih =>
    rcases lt_trichotomy i p.1 with hi | hi | hi
    · simp [SMap.set, SMap.get, hi, hi.ne, hx]
    · simp [SMap.set, SMap.get, hi, hx]
    · simp [SMap.set, SMap.get, hi.ne', hi.not_gt, ih]

section Use
variable {s : State} (v : PortUse)

/-- The tile at hand with one use of its ports more. -/
theorem State.ctile_use : (s.updTile s.cur.tile fun y => { y with uses := y.uses ++ [v] }).ctile =
    { s.ctile with uses := s.ctile.uses ++ [v] } :=
  SMap.get_set_same_of_ne (fun h => by simpa [Tile.reset] using congrArg Tile.uses h) s.tiles s.cur.tile

theorem State.rs_use (a : BitVec 6) : (s.updTile s.cur.tile fun y => { y with uses := y.uses ++ [v] }).rs a = s.rs a := by
  unfold State.rs State.regs
  rw [State.ctile_use, State.updTile_cur]
  cases s.cur.ctx <;> rfl

theorem State.krow_use (r : BitVec 7) (ae : BitVec 1) (a : BitVec 6) :
    (s.updTile s.cur.tile fun y => { y with uses := y.uses ++ [v] }).krow r ae a = s.krow r ae a := by
  rw [State.krow, State.rs_use, State.krow]

end Use

/-- A read of a row by what stands in it: its uncorrectable element, or its columns (R231). -/
theorem State.kread_eq (s : State) (acc : BitVec 3) (r : Nat) (f : State → SMap (BitVec 40) → State) :
    s.kread acc r f =
      let u := s.updTile s.cur.tile fun y => { y with uses := y.uses ++ [accUse false 7 acc.toNat r (slotBit s.cur.slot)] }
      if s.ctile.mx.ueccRow acc.toNat r = true then u.raiseAt 0x09 (BitVec.ofNat 64 (2 ^ 63 + acc.toNat * 256 + r))
      else f u (s.ctile.mx.row acc.toNat r) := by
  rw [add_assoc]
  rfl

/-! ## Rows written column by column (R194, R241) -/

/-- A read of a table after some writes: what the last write of its key left, or what stood there. -/
theorem SMap.get_foldl_set {V : Type} [DecidableEq V] {d : V} {m : SMap V} (hw : SMap.wf d m = true) (cells : List (Nat × V)) (j : Nat) :
    SMap.get d (cells.foldl (fun m c => SMap.set d m c.1 c.2) m) j =
      ((cells.reverse.find? fun c => c.1 == j).map Prod.snd).getD (SMap.get d m j) := by
  induction cells generalizing m with
  | nil => rfl
  | cons c cells ih =>
    rw [List.foldl_cons, ih (SMap.wf_set hw), List.reverse_cons, List.find?_append, SMap.get_set hw]
    cases cells.reverse.find? fun c => c.1 == j with
    | some e => rfl
    | none =>
      by_cases h : j = c.1
      · simp [h]
      · simp [h, Ne.symm h]

/-- A write of the port that meets no clash writes its row, with its flags. -/
theorem Tile.accWrite_row {x : Tile} {bank r : Nat} (h : clashes x.uses (accUse true 7 bank r 0) = false) (k sl : Nat)
    (cells : List (Nat × BitVec 40)) (mf : MFl) :
    x.accWrite ⟨k, sl, .accRow bank r cells mf⟩ = { x with mx := x.mx.putRow bank r cells }.orM mf := by
  simp only [Tile.accWrite, h, Bool.false_eq_true, if_false]

end Sys2Proof.Machine

open Sys2Proof Sys2Proof.Machine

/-- Settles O40: each instruction by its read or its write of a row; a read by whether its row has an uncorrectable element, a write by the
row that it puts. -/
theorem accumulatorPort : Obligations.AccumulatorPort := by
  refine ⟨fun _ _ _ _ _ _ _ _ _ => rfl, fun _ _ _ _ _ _ _ _ => rfl, fun _ _ _ _ _ _ _ _ => rfl, fun _ _ _ _ _ _ _ _ _ => rfl,
    fun _ _ _ _ _ _ _ _ => rfl, fun _ _ _ _ _ _ _ => rfl, fun p acc r ae a s => ?_, fun p acc r v ae a s => ?_,
    fun s acc r f => ?_, fun x k sl bank r cells mf hacc hrow hfree => ?_⟩
  · rw [exec_aclr]
    refine State.when_eq_guarded ?_
    simp only [cellsOf, zero_add]
    rfl
  · rw [exec_aadd]
    refine State.when_eq_guarded ?_
    simp only [State.kread_eq, State.krow_use]
    rfl
  · rw [State.kread_eq]
    exact ⟨fun h => if_pos h, fun h => if_neg (by rw [h]; decide)⟩
  · intro y
    have hy : y = _ := Tile.accWrite_row hfree k sl cells mf
    rw [hy]
    refine ⟨rfl, fun b n hne => Matrix.row_putRow_other hacc hne, fun j => ?_⟩
    rw [← SMap.get_foldl_set hrow, ← Matrix.row_putRow_same hacc]
    rfl

end

section
/-! PROOFS. The sectors of a chunk are read where the copy that holds the slot has its chunk, which another copy of the same slot number
need not share: a state in which the two differ. -/

namespace Sys2Proof.Machine

/-! ## A copy that does not stand in its slot (R299) -/

/-- A copy of one sector in slot 0 whose chunk stands at an address. -/
def chunkAt (a : Nat) : Copy :=
  { slot := 0, rec_ := 0, cls := 0, index := 0, e := 0, spad := a, toMem := true, size := 64, st := .issued, pas := [], data := [],
    parts := [], errs := [], relDone := [], visDone := [], last := 0, via := [] }

/-- A FRED of one sector committed in handler mode, whose accesses no declared set binds (R197). -/
def handlerFred : FarRec :=
  { id := 0, kind := .fred 1 1 2 0 0x10040 0, next := 1, total := 1, first := none, relLeft := 1, visLeft := 1, after := [],
    cmd := { start := 0, pc := 0, gate := none, sec := false, hm := true, phase := 0, nest := Nest.reset, rel := 0, vis := 0, sc := 0,
             ls := 0, mask := 1 } }

/-- Tile 0 holds the byte 1 at 0x10040, where the copy in its slot 0 has its chunk; at 0x10000 it holds zeros. -/
def strayState : State := State.reset.setTile 0
  { Tile.reset with still := { Tile.reset.still with spad := [(0x10040, 1)] }
                    far := { FarEngine.reset with recs := [handlerFred], copies := [chunkAt 0x10040] } }

/-- What the copy in slot 0 of tile 0 has read of its first sector. -/
def readSector (a : ChunkRead) : Option (BitVec 512) := (a.1.copyAt 0 0).map fun k => SMap.get 0 k.data 0

/-- The sector is read at 0x10040, though the copy given has its chunk at 0x10000. -/
theorem readSector_readChunk_strayState :
    readSector (State.readChunk 0 handlerFred (chunkAt 0x10000) (strayState, true) (256, [0])) = some 1 := by decide +kernel

end Sys2Proof.Machine

open Sys2Proof Sys2Proof.Machine

/-- Refutes O54: what reading a line brings is stated for every copy, at that copy's own chunk, where the model reads at the chunk of the
copy that holds its slot. The two differ in `strayState` for a copy of slot 0 with its chunk at 0x10000: the statement's sector is zero. -/
theorem not_farServices : ¬ Obligations.FarServices := by
  intro h
  obtain ⟨-, -, -, hread, -⟩ := h
  obtain ⟨-, -, -, -, hclean⟩ := hread 0 handlerFred (chunkAt 0x10000) strayState 256 [0]
  have hzero := congrArg readSector (hclean (by decide +kernel) (by decide +kernel) (by decide +kernel))
  rw [readSector_readChunk_strayState] at hzero
  exact absurd hzero (by decide +kernel)

end

section
/-! PROOFS. The log-domain lanes: the L field as a signed number, the saturating assembly in its lane, and products in
range. -/

namespace Sys2Proof.Machine

/-! ## Operations with flags by their value on each lane (R206) -/

/-- A two-source operation with flags is known by its value on each pair of elements. -/
theorem vectorFlagsAB_of_vop2 {i : BitVec 4 → BitVec 3 → BitVec 6 → BitVec 6 → BitVec 6 → Instr} {op l : Nat}
    {g f : BitVec 32 → BitVec 32 → BitVec 32 × VFl}
    (hi : ∀ p q d a b s, exec (i p q d a b) s = s.vop2 p q op l d a b g) (hf : ∀ x y, g x y = f x y) : VectorFlagsAB i op l f := by
  obtain rfl : g = f := funext fun x => funext fun y => hf x y
  exact hi

/-- A one-source operation with flags is known by its value on each element. -/
theorem vectorFlagsA_of_vop1 {i : BitVec 4 → BitVec 3 → BitVec 6 → BitVec 6 → Instr} {op l : Nat} {g f : BitVec 32 → BitVec 32 × VFl}
    (hi : ∀ p q d a s, exec (i p q d a) s = s.vop1 p q op l d a g) (hf : ∀ x, g x = f x) : VectorFlagsA i op l f := by
  obtain rfl : g = f := funext hf
  exact hi

/-! ## FL16 elements and their lanes (R38, R53, R214) -/

/-- The L field of an FL16 element is its low fifteen bits as a signed number. -/
theorem flL_eq_toInt (x : BitVec 16) : flL x = (x.setWidth 15).toInt := by
  simp only [flL, sext, field, BitVec.toInt_eq_toNat_cond, BitVec.toNat_setWidth]
  split_ifs <;> omega

/-- The saturating assembly in its lane. -/
theorem lane16_flPack (s : Bool) (l : Int) : lane16 (flPack s l) =
    if 16383 < l then (if s then 0xBFFF else 0x3FFF, 0x20)
    else if l < -16383 then (0x4000, 0x40)
    else (BitVec.ofNat 32 ((if s then 0x8000 else 0) + (l % 32768).toNat), 0) := by
  have hl : (l % 32768).toNat < 32768 := by omega
  unfold flPack
  split
  · cases s <;> rfl
  · split
    · rfl
    · refine Prod.ext (BitVec.eq_of_toNat_eq ?_) rfl
      simp only [lane16, wrapN, BitVec.toNat_setWidth, BitVec.toNat_ofNat]
      cases s <;> simp <;> omega

/-- Half of a number to the nearest integer, ties to even, by its remainder modulo four. -/
theorem halfEven_eq (x : Int) : halfEven x = if x % 2 = 0 ∨ x % 4 = 1 then x / 2 else x / 2 + 1 := by
  have hfloor : Int.fdiv x 2 = x / 2 := Int.fdiv_eq_ediv_of_nonneg x (by norm_num)
  simp only [halfEven, hfloor]
  split <;> split <;> omega

/-! ## Products in range (R49, R214) -/

section InRange
variable {l : Int} (hlo : -16383 ≤ l) (hhi : l ≤ 16383) (s : Bool)
include hlo hhi

theorem flPack_of_inRange : flPack s l = (BitVec.ofNat 16 ((if s then 0x8000 else 0) + wrapN 15 l), 0) := by
  rw [flPack, if_neg (by omega), if_neg (by omega)]

theorem toNat_flPack_of_inRange : (flPack s l).1.toNat = (if s then 0x8000 else 0) + (l % 32768).toNat := by
  rw [flPack_of_inRange hlo hhi, BitVec.toNat_ofNat, Nat.mod_eq_of_lt]
  · rfl
  · cases s <;> simp [wrapN] <;> omega

/-- The L field of an assembled element is the number that was assembled. -/
theorem flL_flPack : flL (flPack s l).1 = l := by
  simp only [flL, sext, field, toNat_flPack_of_inRange hlo hhi]
  cases s <;> simp <;> split <;> omega

/-- The sign of an assembled element is the sign that was assembled. -/
theorem sign_flPack : (flPack s l).1.getLsbD 15 = s := by
  rw [BitVec.getLsbD, toNat_flPack_of_inRange hlo hhi, Nat.testBit_eq_decide_div_mod_eq]
  cases s <;> simp <;> omega

end InRange

/-- The product of two finite elements is the value of their assembled product, where the sum of their L fields is in range. -/
theorem acProduct_eq_flValue_flPack {a b : BitVec 16} (ha : a ≠ flNaR) (hb : b ≠ flNaR) (hza : a ≠ flZero) (hzb : b ≠ flZero)
    (hlo : -16383 ≤ flL a + flL b) (hhi : flL a + flL b ≤ 16383) :
    acProduct a b = (rne30 (flValue (flPack (a.getLsbD 15 != b.getLsbD 15) (flL a + flL b)).1)).1 := by
  rw [acProduct, if_neg (by simp [ha, hb]), if_neg (by simp [hza, hzb])]
  simp only [flValue, flL_flPack hlo hhi, sign_flPack hlo hhi]

/-- An element read back from its lane. -/
theorem setWidth_lane16 (x : BitVec 16 × VFl) : (lane16 x).1.setWidth 16 = x.1 := BitVec.setWidth_setWidth_of_le x.1 (by decide)

end Sys2Proof.Machine

open Sys2Proof Sys2Proof.Machine

/-- Settles O34: each operation's special elements in their lanes, and the saturating assembly in its lane; a product in AC40 is the value
of the assembled element. -/
theorem vectorLog : Obligations.VectorLog := by
  unfold Obligations.VectorLog
  intro low z n L sg pack
  have hL : ∀ x, flL (low16 x) = L x := fun x => flL_eq_toInt _
  have hpack : ∀ s l, lane16 (flPack s l) = pack s l := lane16_flPack
  refine ⟨vectorFlagsAB_of_vop2 (fun _ _ _ _ _ _ => exec_vlmul) fun a b => ?_,
    vectorFlagsAB_of_vop2 (fun _ _ _ _ _ _ => exec_vldiv) fun a b => ?_,
    vectorFlagsA_of_vop1 (fun _ _ _ _ _ => exec_vlsqrt) fun a => ?_,
    vectorFlagsA_of_vop1 (fun _ _ _ _ _ => exec_vlinv) fun a => ?_, fun a b hna hnb hza hzb hlo hhi => ?_⟩
  · simp only [flMul, apply_ite lane16, hpack, hL, Bool.bne_eq_xor]
    rfl
  · simp only [flDiv, apply_ite lane16, hpack, hL, Bool.bne_eq_xor]
    rfl
  · simp only [flSqrt, apply_ite lane16, hpack, hL, halfEven_eq]
    rfl
  · simp only [flInv, apply_ite lane16, hpack, hL]
    rfl
  · rw [← hL, ← hL] at hlo hhi ⊢
    rw [← hpack, ← Bool.bne_eq_xor]
    refine (acProduct_eq_flValue_flPack hna hnb hza hzb hlo hhi).trans ?_
    exact congrArg (fun x => (rne30 (flValue x)).1) (setWidth_lane16 _).symm

end

section
/-! PROOFS. Conversion, the lane operations and the reduction tree: the pairs of a level, and the sum that a tree of additions leaves. -/

namespace Sys2Proof.Machine

/-! ## Levels of the tree (R220) -/

section Level
variable (op : BitVec 32 → BitVec 32 → BitVec 32 × VFl)

/-- An element of a level is the operation on its pair, the left one first. -/
theorem getElem?_redLevel : ∀ (xs : List (BitVec 32)) (i : Nat), 2 * i + 1 < xs.length →
    (redLevel op xs).1[i]? = some (op (xs.getD (2 * i) 0) (xs.getD (2 * i + 1) 0)).1
  | [], _, h | [_], _, h => absurd h (by simp)
  | _ :: _ :: _, 0, _ => rfl
  | _ :: _ :: xs, i + 1, h => getElem?_redLevel xs i (by simp only [List.length_cons] at h; omega)

/-- A level halves the number of its elements. -/
theorem length_redLevel : ∀ (xs : List (BitVec 32)) (n : Nat), xs.length = 2 * n → (redLevel op xs).1.length = n
  | [], _, h => Nat.eq_of_mul_eq_mul_left two_pos h
  | [_], _, h => absurd h (by simp only [List.length_singleton]; omega)
  | _ :: _ :: _, 0, h => absurd h (by simp)
  | _ :: _ :: xs, n + 1, h => congrArg (· + 1) (length_redLevel xs n (by simp only [List.length_cons] at h; omega))

end Level

/-! ## Trees of additions (R220) -/

theorem redOp_add (m : Mode) (a b : BitVec 32) : redOp false 0 m a b = (a + b, 0) := rfl

/-- A level of additions keeps the sum and sets no flag. -/
theorem sum_redLevel_add (m : Mode) : ∀ xs : List (BitVec 32),
    (redLevel (redOp false 0 m) xs).1.sum = xs.sum ∧ (redLevel (redOp false 0 m) xs).2 = 0
  | [] | [_] => ⟨rfl, rfl⟩
  | a :: b :: xs => by
    obtain ⟨hsum, hflags⟩ := sum_redLevel_add m xs
    simp only [redLevel, redOp_add, hflags, BitVec.or_self, List.sum_cons, hsum, add_assoc, and_self]

/-- A full tree of additions leaves the sum alone and sets no flag. -/
theorem redTree_add (m : Mode) (n : Nat) (xs : List (BitVec 32)) (h : xs.length = 2 ^ n) :
    redTree (redOp false 0 m) n (xs, 0) = ([xs.sum], 0) := by
  induction n generalizing xs with
  | zero =>
    obtain ⟨x, rfl⟩ := List.length_eq_one_iff.1 h
    simp [redTree]
  | succ n ih =>
    obtain ⟨hsum, hflags⟩ := sum_redLevel_add m xs
    have hlen := length_redLevel (redOp false 0 m) xs (2 ^ n) (h.trans (pow_succ' 2 n))
    simp only [redTree, hflags, BitVec.or_self]
    rw [ih _ hlen, hsum]

theorem sum_eq_ofNat_sum_toNat (xs : List (BitVec 32)) : xs.sum = BitVec.ofNat 32 (xs.map BitVec.toNat).sum := by
  induction xs with
  | nil => rfl
  | cons x xs ih => rw [List.sum_cons, ih, List.map_cons, List.sum_cons, BitVec.ofNat_add, BitVec.ofNat_toNat, BitVec.setWidth_eq]

end Sys2Proof.Machine

open Sys2Proof Sys2Proof.Machine

/-- Settles O35: each instruction by the lanes of its result, and the tree by the pairs of a level and the sum that every level keeps. -/
theorem vectorLanes : Obligations.VectorLanes := by
  refine ⟨⟨fun _ _ _ _ _ _ _ _ _ => rfl, fun _ _ _ _ _ => rfl, fun _ _ _ _ _ _ _ => rfl, fun _ _ _ _ _ _ => rfl,
    fun _ _ _ _ _ _ => rfl, fun p d a n s => ?_, fun _ _ _ _ _ => rfl, fun _ _ _ _ => rfl, fun _ _ _ _ _ => rfl,
    fun _ _ _ _ _ _ => rfl, fun _ _ _ _ _ _ _ _ => rfl⟩, getElem?_redLevel, fun m xs h => ?_⟩
  · rw [exec_vext]
    refine State.when_eq_guarded ?_
    rw [low64, BitVec.ofNat_toNat]
  · rw [redTree_add m 6 xs h, sum_eq_ofNat_sum_toNat]
    exact ⟨rfl, rfl⟩

end

section
/-! PROOFS. The canonical form, kept by every instruction, every event and every part of a tick. -/

namespace Sys2Proof.Machine

/-- Every instruction and every event keeps the canonical form: one law for each. -/
theorem canon_exec {i : Instr} {s : State} (h : s.Canon) : Out.Canon (exec i s) := by
  cases i with
  | powerUp => exact canon_execPowerUp h | imgwr => exact canon_execImgwr h | ltwr => exact canon_execLtwr h
  | ltctlKill => exact canon_execLtctlKill h | ltctlClear => exact canon_execLtctlClear h
  | unknownFrame => exact canon_execUnknownFrame h | evrd => exact canon_execEvrd h | evrdMailbox => exact canon_execEvrdMailbox h
  | ptp => exact canon_execPtp h | portsel => exact canon_execPortsel h | asidgrant => exact canon_execAsidgrant h
  | asidrevoke => exact canon_execAsidrevoke h | tlbinv => exact canon_execTlbinv h | pagein => exact canon_execPagein h
  | pagedeny => exact canon_execPagedeny h | preemptRequest => exact canon_execPreemptRequest h | resume => exact canon_execResume h
  | snapnow => exact canon_execSnapnow h | snapclr => exact canon_execSnapclr h | dieReset => exact canon_execDieReset h
  | dieLive => exact canon_execDieLive h | hostInterrupt => exact canon_execHostInterrupt h
  | getVersion => exact canon_execGetVersion h | getCapabilities => exact canon_execGetCapabilities h
  | negotiateAlgorithms => exact canon_execNegotiateAlgorithms h | getDigests => exact canon_execGetDigests h
  | getCertificate => exact canon_execGetCertificate h | challenge => exact canon_execChallenge h
  | getMeasurements => exact canon_execGetMeasurements h | keyExchange => exact canon_execKeyExchange h
  | finish => exact canon_execFinish h | endSession => exact canon_execEndSession h
  | spdmUnsupportedRequest => exact canon_execSpdmUnsupportedRequest h | mgmtRegisterWrite => exact canon_execMgmtRegisterWrite h
  | dbgbWrite => exact canon_execDbgbWrite h | tinjWrite => exact canon_execTinjWrite h | minjWrite => exact canon_execMinjWrite h
  | actionEntryWrite => exact canon_execActionEntryWrite h | snapcmpWrite => exact canon_execSnapcmpWrite h
  | tileMapWrite => exact canon_execTileMapWrite h | admission => exact canon_execAdmission h
  | launchStart => exact canon_execLaunchStart h | dynamicRelease => exact canon_execDynamicRelease h
  | regionRelease => exact canon_execRegionRelease h | taskStart => exact canon_execTaskStart h | taskEnd => exact canon_execTaskEnd h
  | bundleIssue => exact canon_execBundleIssue h | signatureBundle => exact canon_execSignatureBundle h
  | blockRerun => exact canon_execBlockRerun h | tileRetire => exact canon_execTileRetire h
  | secondaryIssue => exact canon_execSecondaryIssue h | handlerBundleIssue => exact canon_execHandlerBundleIssue h
  | gateHoldRelease => exact canon_execGateHoldRelease h | engineCommandStart => exact canon_execEngineCommandStart h
  | holdBudget => exact canon_execHoldBudget h | rdvLeave => exact canon_execRdvLeave h
  | stretchResult => exact canon_execStretchResult h | timerCompare => exact canon_execTimerCompare h
  | waitiWake => exact canon_execWaitiWake h | eventFifoDrain => exact canon_execEventFifoDrain h
  | tlbQuery => exact canon_execTlbQuery h | tlbWalkDone => exact canon_execTlbWalkDone h | tlbinvAck => exact canon_execTlbinvAck h
  | invalTimeout => exact canon_execInvalTimeout h | rdBurstLanding => exact canon_execRdBurstLanding h
  | parkedBurstWrite => exact canon_execParkedBurstWrite h | refreshDebtRise => exact canon_execRefreshDebtRise h
  | autonomousRefresh => exact canon_execAutonomousRefresh h | cachedWindowOpen => exact canon_execCachedWindowOpen h
  | cachedPathAccess => exact canon_execCachedPathAccess h | timedHop => exact canon_execTimedHop h
  | meshLatchWrite => exact canon_execMeshLatchWrite h | dieLatchWrite => exact canon_execDieLatchWrite h
  | bePacketHop => exact canon_execBePacketHop h | cacheRequest => exact canon_execCacheRequest h
  | sectorFill => exact canon_execSectorFill h | writebackApply => exact canon_execWritebackApply h
  | rebalance => exact canon_execRebalance h | bucketMoveEnd => exact canon_execBucketMoveEnd h
  | causalUpdateArrive => exact canon_execCausalUpdateArrive h | causalUpdateApply => exact canon_execCausalUpdateApply h
  | causalMissAnswer => exact canon_execCausalMissAnswer h | rangePerformed => exact canon_execRangePerformed h
  | copyExpansion => exact canon_execCopyExpansion h | copyIssue => exact canon_execCopyIssue h
  | releaseEvent => exact canon_execReleaseEvent h | visibilityEvent => exact canon_execVisibilityEvent h
  | remoteDecrement => exact canon_execRemoteDecrement h | copyAgeTimeout => exact canon_execCopyAgeTimeout h
  | linkDown => exact canon_execLinkDown h | fsigApply => exact canon_execFsigApply h | fredSend => exact canon_execFredSend h
  | fredResultSector => exact canon_execFredResultSector h | ldfReturn => exact canon_execLdfReturn h
  | atomicReturn => exact canon_execAtomicReturn h | farAnswerTimeout => exact canon_execFarAnswerTimeout h
  | barriveRelease => exact canon_execBarriveRelease h | contributionArrival => exact canon_execContributionArrival h
  | roundDeadline => exact canon_execRoundDeadline h | flitRetry => exact canon_execFlitRetry h
  | overrunNotice => exact canon_execOverrunNotice h | jobHoldBegin => exact canon_execJobHoldBegin h
  | jobHoldEnd => exact canon_execJobHoldEnd h | sensorRead => exact canon_execSensorRead h
  | contextSaveDone => exact canon_execContextSaveDone h | contextRestoreDone => exact canon_execContextRestoreDone h
  | snapcmpMatch => exact canon_execSnapcmpMatch h | snapshotLatch => exact canon_execSnapshotLatch h
  | jobHoldNotice => exact canon_execJobHoldNotice h | replacement => exact canon_execReplacement h
  | jobReleaseNotice => exact canon_execJobReleaseNotice h | add => exact canon_execAdd h | sub => exact canon_execSub h
  | addi => exact canon_execAddi h | and => exact canon_execAnd h | or => exact canon_execOr h | xor => exact canon_execXor h
  | andi => exact canon_execAndi h | ori => exact canon_execOri h | xori => exact canon_execXori h | shl => exact canon_execShl h
  | shr => exact canon_execShr h | sra => exact canon_execSra h | shli => exact canon_execShli h | shri => exact canon_execShri h
  | srai => exact canon_execSrai h | mul => exact canon_execMul h | mulh => exact canon_execMulh h | mulhu => exact canon_execMulhu h
  | divu => exact canon_execDivu h | remu => exact canon_execRemu h | min => exact canon_execMin h | max => exact canon_execMax h
  | minu => exact canon_execMinu h | maxu => exact canon_execMaxu h | clz => exact canon_execClz h | popc => exact canon_execPopc h
  | movi => exact canon_execMovi h | movsh => exact canon_execMovsh h | sel => exact canon_execSel h | extf => exact canon_execExtf h
  | lea => exact canon_execLea h | cmp => exact canon_execCmp h | cmpi => exact canon_execCmpi h | plog => exact canon_execPlog h
  | mfsr => exact canon_execMfsr h | mtsr => exact canon_execMtsr h | lds => exact canon_execLds h | sts => exact canon_execSts h
  | ldf => exact canon_execLdf h | addw => exact canon_execAddw h | subw => exact canon_execSubw h | rotl => exact canon_execRotl h
  | bext => exact canon_execBext h | bins => exact canon_execBins h | muli => exact canon_execMuli h | br => exact canon_execBr h
  | bri => exact canon_execBri h | call => exact canon_execCall h | ret => exact canon_execRet h | loop => exact canon_execLoop h
  | loopi => exact canon_execLoopi h | brkl => exact canon_execBrkl h | setlc => exact canon_execSetlc h
  | phase => exact canon_execPhase h | epoch => exact canon_execEpoch h | gateset => exact canon_execGateset h
  | rdv => exact canon_execRdv h | fence => exact canon_execFence h | snap => exact canon_execSnap h | trapi => exact canon_execTrapi h
  | rett => exact canon_execRett h | waiti => exact canon_execWaiti h | endt => exact canon_execEndt h | nopn => exact canon_execNopn h
  | sprng => exact canon_execSprng h | inten => exact canon_execInten h | secs => exact canon_execSecs h | vld => exact canon_execVld h
  | vst => exact canon_execVst h | vldx => exact canon_execVldx h | vstx => exact canon_execVstx h | vldb => exact canon_execVldb h
  | vlds => exact canon_execVlds h | vsts => exact canon_execVsts h | send => exact canon_execSend h | recv => exact canon_execRecv h
  | lsend => exact canon_execLsend h | lrecv => exact canon_execLrecv h | dsend => exact canon_execDsend h
  | drecv => exact canon_execDrecv h | fnest => exact canon_execFnest h | fbase => exact canon_execFbase h
  | fidx => exact canon_execFidx h | fgo => exact canon_execFgo h | fsig => exact canon_execFsig h | fred => exact canon_execFred h
  | fqry => exact canon_execFqry h | fcan => exact canon_execFcan h | wbr => exact canon_execWbr (a3 := 0) h | invr => exact canon_execInvr (a3 := 0) h
  | discr => exact canon_execDiscr (a3 := 0) h | amo => exact canon_execAmo h | cas => exact canon_execCas h | binit => exact canon_execBinit h
  | barrive => exact canon_execBarrive h | bexpect => exact canon_execBexpect h | bread => exact canon_execBread h
  | brearm => exact canon_execBrearm h | vadd => exact canon_execVadd h | vsub => exact canon_execVsub h
  | vmul => exact canon_execVmul h | vand => exact canon_execVand h | vor => exact canon_execVor h | vxor => exact canon_execVxor h
  | vshl => exact canon_execVshl h | vshr => exact canon_execVshr h | vsra => exact canon_execVsra h | vmin => exact canon_execVmin h
  | vmax => exact canon_execVmax h | vminu => exact canon_execVminu h | vmaxu => exact canon_execVmaxu h
  | vcmp => exact canon_execVcmp h | vadds => exact canon_execVadds h | vfadd => exact canon_execVfadd h
  | vfsub => exact canon_execVfsub h | vfmul => exact canon_execVfmul h | vfma => exact canon_execVfma h
  | vfnma => exact canon_execVfnma h | vfmin => exact canon_execVfmin h | vfmax => exact canon_execVfmax h
  | vfcmp => exact canon_execVfcmp h | vfabs => exact canon_execVfabs h | vfneg => exact canon_execVfneg h
  | vbadd => exact canon_execVbadd h | vbmul => exact canon_execVbmul h | vbfma => exact canon_execVbfma h
  | vfrnd => exact canon_execVfrnd h | vlmul => exact canon_execVlmul h | vldiv => exact canon_execVldiv h
  | vlsqrt => exact canon_execVlsqrt h | vlinv => exact canon_execVlinv h | vcvt => exact canon_execVcvt h
  | vexp2 => exact canon_execVexp2 h | vlog2 => exact canon_execVlog2 h | vmov => exact canon_execVmov h
  | vsel => exact canon_execVsel h | vperm => exact canon_execVperm h | vrot => exact canon_execVrot h | vred => exact canon_execVred h
  | vext => exact canon_execVext h | vins => exact canon_execVins h | viota => exact canon_execViota h
  | vpack => exact canon_execVpack h | vunpk => exact canon_execVunpk h | qlog => exact canon_execQlog h
  | qset => exact canon_execQset h | qget => exact canon_execQget h | vclz => exact canon_execVclz h | vpopc => exact canon_execVpopc h
  | vmulh => exact canon_execVmulh h | mldw => exact canon_execMldw h | mswap => exact canon_execMswap h
  | mstr => exact canon_execMstr h | mstrz => exact canon_execMstrz h | mcbt => exact canon_execMcbt h | mscl => exact canon_execMscl h
  | ard => exact canon_execArd h | ardb => exact canon_execArdb h | ardl => exact canon_execArdl h | ardl8 => exact canon_execArdl8 h
  | awr => exact canon_execAwr h | awrb => exact canon_execAwrb h | aclr => exact canon_execAclr h | aadd => exact canon_execAadd h
  | act => exact canon_execAct (a1 := 0) h | rd => exact canon_execRd (a1 := 0) h | wr => exact canon_execWr (a1 := 0) h | pre => exact canon_execPre (a1 := 0) h
  | prea => exact canon_execPrea (a1 := 0) h | ref => exact canon_execRef (a1 := 0) h | refpb => exact canon_execRefpb (a1 := 0) h | waitc => exact canon_execWaitc h
  | tnest => exact canon_execTnest h | tend => exact canon_execTend h | troute => exact canon_execTroute h
  | thalt => exact canon_execThalt h | railRemoval => exact canon_execRailRemoval State.reset_canon
  | linkRestored => exact canon_execLinkRestored h | peerAccessArrival => exact canon_execPeerAccessArrival h
  | displacementNotice => exact canon_execDisplacementNotice h | handlerInstall => exact canon_execHandlerInstall h

theorem out_canon_refused {r : Refusal} : Out.Canon (.refused r) := ⟨fun _ hr => by injection hr⟩

/-- A step keeps the canonical form, whatever it takes up. -/
theorem canon_step {s : State} (h : s.Canon) : Out.Canon (step s) := by
  cases hcode : s.cur.code with
  | cons w rest =>
    obtain ⟨place, w⟩ := w
    cases hw : decodeWord (placeCls place) w with
    | some i => rw [step_syllable hcode hw]; exact canon_exec (canon_takeWord h)
    | none => rw [step_illegalWord hcode hw]; exact out_canon_refused
  | nil =>
    cases hagenda : s.agenda with
    | cons x rest => rw [step_agenda hcode hagenda]; exact canon_exec (canon_takeStep h)
    | nil => rw [step_clock hcode hagenda]; exact out_canon (canon_clock h)

end Sys2Proof.Machine

open Sys2Proof Sys2Proof.Machine

/-- Settles O5: a step runs one instruction, one event or one part of a tick, and each keeps the canonical form. -/
theorem stepKeepsCanon : Obligations.StepKeepsCanon :=
  fun _ t h hstep => (canon_step h).next t hstep

end

section
/-! PROOFS. Every instruction and every event answers: a syllable of a tile by its predicate, a command of a sequencer by its shape, an
event by its branches. -/

namespace Sys2Proof.Machine

/-- An outcome that is a next state. -/
def Answers (o : Out) : Prop := ∃ t, o = .next t

theorem answers_next {t : State} : Answers (.next t) := ⟨t, rfl⟩

/-- A frame is dropped, decoded, answered BADFRAME or given its effect. -/
theorem answers_framed {s : State} {b : Bool} {g : Frame → State → State} : Answers (s.framed b g) := by
  unfold State.framed
  split
  · exact answers_next
  · split
    · exact answers_next
    · split <;> exact answers_next
  · exact answers_next

/-- A command issues, is refused as a breach, or meets a stopped program. -/
theorem answers_command {s : State} {cmd bk : Nat} {pc : BitVec 1} {f : Nat → State → State} : Answers (s.command cmd pc bk f) := by
  unfold State.command
  dsimp only
  split
  · exact answers_next
  · split <;> exact answers_next

theorem answers_program {s : State} {f : Seqr → Seqr} : Answers (s.program f) := by
  unfold State.program
  split <;> exact answers_next

/-- A command or another syllable of a channel program answers. -/
theorem answers_channel {i : Instr} {s : State} (h : i.cls = .channel) : Answers (exec i s) := by
  cases i with
  | act | rd | wr | pre | prea | ref | refpb =>
    dsimp only [exec, execAct, execRd, execWr, execPre, execPrea, execRef, execRefpb]
    exact answers_command
  | waitc | tnest | tend | troute | thalt => exact answers_program
  | _ => nomatch h

/-- An event is a frame's step, a single next state, or branches that each end in one. -/
theorem answers_event {i : Instr} {s : State} (h : i.cls = .event) : Answers (exec i s) := by
  cases i with
  | imgwr | ltwr | ltctlKill | ltctlClear | unknownFrame | evrd | evrdMailbox | ptp | portsel | asidgrant | asidrevoke | tlbinv
    | pagein | pagedeny | preemptRequest | resume | snapnow | snapclr | hostInterrupt | getVersion | getCapabilities
    | negotiateAlgorithms | getDigests | getCertificate | challenge | getMeasurements | keyExchange | finish | endSession
    | spdmUnsupportedRequest | mgmtRegisterWrite | dbgbWrite | tinjWrite | minjWrite | actionEntryWrite | snapcmpWrite | tileMapWrite
    | handlerInstall =>
    dsimp only [exec, execImgwr, execLtwr, execLtctlKill, execLtctlClear, execUnknownFrame, execEvrd, execEvrdMailbox, execPtp,
      execPortsel, execAsidgrant, execAsidrevoke, execTlbinv, execPagein, execPagedeny, execPreemptRequest, execResume, execSnapnow,
      execSnapclr, execHostInterrupt, execGetVersion, execGetCapabilities, execNegotiateAlgorithms, execGetDigests,
      execGetCertificate, execChallenge, execGetMeasurements, execKeyExchange, execFinish, execEndSession,
      execSpdmUnsupportedRequest, execMgmtRegisterWrite, execDbgbWrite, execTinjWrite, execMinjWrite, execActionEntryWrite,
      execSnapcmpWrite, execTileMapWrite, execHandlerInstall, State.ltctl, State.evread]
    exact answers_framed
  | dieReset | rdBurstLanding | parkedBurstWrite | jobHoldBegin | jobHoldEnd | sensorRead | snapcmpMatch | railRemoval
    | linkRestored => exact answers_next
  | powerUp | dieLive | admission | launchStart | dynamicRelease | regionRelease | taskStart | taskEnd | bundleIssue | signatureBundle
    | blockRerun | tileRetire | secondaryIssue | handlerBundleIssue | gateHoldRelease | engineCommandStart | holdBudget | rdvLeave
    | stretchResult | timerCompare | waitiWake | eventFifoDrain | tlbQuery | tlbWalkDone | tlbinvAck | invalTimeout | refreshDebtRise
    | autonomousRefresh | cachedWindowOpen | cachedPathAccess | timedHop | meshLatchWrite | dieLatchWrite | bePacketHop | cacheRequest
    | sectorFill | writebackApply | rebalance | bucketMoveEnd | causalUpdateArrive | causalUpdateApply | causalMissAnswer
    | rangePerformed | copyExpansion | copyIssue | releaseEvent | visibilityEvent | remoteDecrement | copyAgeTimeout | linkDown
    | fsigApply | fredSend | fredResultSector | ldfReturn | atomicReturn | farAnswerTimeout | barriveRelease | contributionArrival
    | roundDeadline | flitRetry | overrunNotice | contextSaveDone | contextRestoreDone | snapshotLatch | jobHoldNotice | replacement
    | jobReleaseNotice | peerAccessArrival | displacementNotice =>
    dsimp only [exec, State.latchWrite, State.returnOp, execAdmission, execAtomicReturn, execAutonomousRefresh, execBarriveRelease
      , execBePacketHop, execBlockRerun, execBucketMoveEnd, execBundleIssue, execCacheRequest, execCachedPathAccess
      , execCachedWindowOpen, execCausalMissAnswer, execCausalUpdateApply, execCausalUpdateArrive, execContextRestoreDone
      , execContextSaveDone, execContributionArrival, execCopyAgeTimeout, execCopyExpansion, execCopyIssue, execDieLatchWrite
      , execDieLive, execDisplacementNotice, execDynamicRelease, execEngineCommandStart, execEventFifoDrain, execFarAnswerTimeout
      , execFlitRetry, execFredResultSector, execFredSend, execFsigApply, execGateHoldRelease, execHandlerBundleIssue, execHoldBudget
      , execInvalTimeout, execJobHoldNotice, execJobReleaseNotice, execLaunchStart, execLdfReturn, execLinkDown, execMeshLatchWrite
      , execOverrunNotice, execPeerAccessArrival, execPowerUp, execRangePerformed, execRdvLeave, execRebalance, execRefreshDebtRise
      , execRegionRelease, execReleaseEvent, execRemoteDecrement, execReplacement, execRoundDeadline, execSecondaryIssue
      , execSectorFill, execSignatureBundle, execSnapshotLatch, execStretchResult, execTaskEnd, execTaskStart, execTileRetire
      , execTimedHop, execTimerCompare, execTlbQuery, execTlbWalkDone, execTlbinvAck, execVisibilityEvent, execWaitiWake
      , execWritebackApply]
    (repeat' split) <;> exact answers_next
  | _ => nomatch h

/-- No instruction and no event faults or is refused: a tile's syllable leaves its effect under its predicate. -/
theorem answers_exec (i : Instr) (s : State) : Answers (exec i s) := by
  by_cases hevent : i.cls = .event
  · exact answers_event hevent
  · by_cases hchannel : i.cls = .channel
    · exact answers_channel hchannel
    · obtain ⟨t, ht⟩ := rawOf_guardedBy (Laws.rawOf_encode i hevent) hchannel s
      exact ⟨_, ht⟩

end Sys2Proof.Machine

open Sys2Proof Sys2Proof.Machine

/-- Settles O4: every step answers, by its class. -/
theorem execAnswers : Obligations.ExecAnswers := answers_exec

end

section
/-! PROOFS. The worked examples' words. -/

/-- Settles O2: each word is decoded by the kernel's evaluation of `decodeWord`. -/
theorem decodeWords : Obligations.DecodeWords := by
  unfold Obligations.DecodeWords
  decide +kernel

end

section
/-! PROOFS. The SPDM responder: each request by its effect on the session and the body its answer begins with. -/

namespace Sys2Proof.Machine

/-! ## Requests (R387, R388) -/

/-- A request is known by its effect on the I/O die and its answer. -/
theorem onSpdm_of_framed {i : Instr} {code : Byte} {g : Iod → Iod} {lead : List Byte}
    (hi : ∀ s, exec i s = s.framed false fun f s => (s.updIod g).spdm code f lead) : OnSpdm i code g lead :=
  onFrame_of_framed hi fun _ _ => rfl

/-- A request that leaves the session alone. -/
theorem onSpdm_id_of_framed {i : Instr} {code : Byte} {lead : List Byte}
    (hi : ∀ s, exec i s = s.framed false fun f s => s.spdm code f lead) : OnSpdm i code id lead :=
  onFrame_of_framed hi fun _ _ => rfl

theorem spdmVersion_eq : spdmVersion = [0x04, 0x01, 0x00, 0x13] := by decide

theorem spdmAlgorithms_eq : spdmAlgorithms = [0x63, 0x80, 0, 0, 0, 0x02, 0, 0, 0, 0x02, 0] := by decide

end Sys2Proof.Machine

open Sys2Proof Sys2Proof.Machine

/-- Settles O58: each request is an answer of the responder after its effect on the session. -/
theorem spdmResponder : Obligations.SpdmResponder := by
  refine ⟨onSpdm_id_of_framed fun s => ?_, onSpdm_id_of_framed fun _ => exec_getCapabilities, onSpdm_id_of_framed fun s => ?_,
    onSpdm_id_of_framed fun _ => exec_getDigests, onSpdm_id_of_framed fun _ => exec_getCertificate,
    onSpdm_id_of_framed fun _ => exec_challenge, onSpdm_of_framed fun _ => exec_keyExchange, onSpdm_of_framed fun _ => exec_finish,
    onSpdm_of_framed fun _ => exec_endSession, onFrame_of_framed (fun _ => exec_getMeasurements) fun _ _ => rfl,
    onFrame_of_framed (fun _ => exec_spdmUnsupportedRequest) fun _ _ => rfl⟩
  · rw [exec_getVersion, execGetVersion, spdmVersion_eq]
  · rw [exec_negotiateAlgorithms, execNegotiateAlgorithms, spdmAlgorithms_eq]

end

section
/-! PROOFS. Frames: the header and the step its TYPE selects, the bytes of an event record, the slave clock of PTP, and each frame's step
by its effect. -/

namespace Sys2Proof.Machine

/-! ## Fields among bytes (R63, R364) -/

theorem drop_toBytes_append {n o x : Nat} (l : List Byte) (h : n ≤ o) : (toBytes n x ++ l).drop o = l.drop (o - n) := by
  rw [List.drop_append, length_toBytes, List.drop_eq_nil_of_le (by rw [length_toBytes]; exact h), List.nil_append]

theorem take_toBytes {n x : Nat} : (toBytes n x).take n = toBytes n x := List.take_of_length_le (length_toBytes n x).le

theorem take_toBytes_append {n x : Nat} (l : List Byte) : (toBytes n x ++ l).take n = toBytes n x := by
  rw [List.take_append_of_le_length (length_toBytes n x).ge, take_toBytes]

/-- The number `n` bytes hold from byte `o` on. -/
def bytesAt (l : List Byte) (o n : Nat) : Nat := ofBytes ((l.drop o).take n)

/-- A flag at bit `i`. -/
def flagAt (b : Bool) (i : Nat) : Nat := if b then 2 ^ i else 0

theorem flagAt_le (b : Bool) (i : Nat) : flagAt b i ≤ 2 ^ i := by
  unfold flagAt
  split <;> simp

section Record
variable (r : EvRec)

theorem EvRec.length_bytes : r.bytes.length = 32 := by
  simp only [EvRec.bytes, List.length_append, length_toBytes]

/-- The first two bytes: the code and its flags, and the action and its flags. -/
theorem EvRec.bytes_flags :
    bytesAt r.bytes 0 1 = flagAt r.fatal 7 + flagAt r.lost 6 + r.code.toNat ∧
    bytesAt r.bytes 1 1 =
      flagAt r.warn 7 + flagAt r.superseded 6 + flagAt r.harea 5 + flagAt r.hm 4 + flagAt r.nrforced 3 + r.act.toNat := by
  have hfatal := flagAt_le r.fatal 7
  have hlost := flagAt_le r.lost 6
  have hwarn := flagAt_le r.warn 7
  have hsuperseded := flagAt_le r.superseded 6
  have hharea := flagAt_le r.harea 5
  have hhm := flagAt_le r.hm 4
  have hnrforced := flagAt_le r.nrforced 3
  simp only [flagAt] at hfatal hlost hwarn hsuperseded hharea hhm hnrforced
  simp only [bytesAt, flagAt, EvRec.bytes, List.append_assoc, drop_toBytes_append, List.drop_zero, Nat.reduceSub, Nat.reduceLeDiff,
    take_toBytes_append, ofBytes_toBytes]
  constructor <;> omega

/-- The fields behind them, each at its place (R364). -/
theorem EvRec.bytes_fields :
    bytesAt r.bytes 2 2 = min r.count 65535 ∧ bytesAt r.bytes 4 1 = r.die % 256 ∧ bytesAt r.bytes 5 1 = r.lte.toNat ∧
    bytesAt r.bytes 6 2 = r.ltile.toNat ∧ bytesAt r.bytes 8 1 = r.info.toNat ∧ bytesAt r.bytes 9 1 = r.mask.toNat ∧
    bytesAt r.bytes 10 2 = r.asid.toNat ∧ bytesAt r.bytes 12 4 = r.rcyc.toNat ∧ bytesAt r.bytes 16 8 = r.ptime.toNat ∧
    bytesAt r.bytes 24 8 = r.addr.toNat := by
  simp only [bytesAt, EvRec.bytes, List.append_assoc, drop_toBytes_append, List.drop_zero, Nat.reduceSub, Nat.reduceLeDiff,
    take_toBytes_append, take_toBytes, ofBytes_toBytes]
  refine ⟨?_, ?_, ?_, ?_, ?_, ?_, ?_, ?_, ?_, ?_⟩ <;> omega

end Record

/-! ## The step a frame's TYPE selects (R63) -/

section Step
variable {f : Frame}

theorem frameStep_of_mctp {k : Nat} {i : Instr} (hty : f.ty = 6) (hk : Config.mctpStep f.data = some k) (hi : mctpSteps[k]? = some i) :
    (frameStep f).1 = i := by
  simp only [frameStep, hty, hk, hi]
  rfl

theorem frameStep_of_other (hty : f.ty = 0 ∨ 8 ≤ f.ty.toNat) : frameStep f = (.unknownFrame, f) := by
  have h : f.ty.toNat = 0 ∨ 8 ≤ f.ty.toNat := hty.imp_left fun h => by rw [h]; rfl
  unfold frameStep
  split
  case h_8 => rfl
  all_goals omega

end Step

/-! ## PTP (R60 to R62) -/

/-- 800,000,000 ticks a second are 4 ticks in 5 ns. -/
theorem ptpTick_eq (sec ns : Nat) (corr : Int) :
    ptpTick sec ns corr = BitVec.ofInt 64 ((((sec * 10 ^ 9 + ns : Nat) : Int) * 65536 + corr) * 800000000 / (10 ^ 9 * 65536)) := by
  have h (x : Int) : x * 4 / (5 * 65536) = x * 800000000 / (10 ^ 9 * 65536) := by omega
  rw [ptpTick, h]

section Slave
variable (s : State)

theorem State.measured_eq (ofs : Int) :
    let far := ofs < -32 ∨ 32 < ofs
    let good := if -4 ≤ ofs ∧ ofs ≤ 4 then s.iod.goodSyncs + 1 else 0
    let v := { s with iod := { s.iod with
      ofs := max (-(2 ^ 23)) (min (2 ^ 23 - 1) ofs), goodSyncs := min good 16, locked := !decide far && (s.iod.locked || decide (16 ≤ good)) } }
    s.measured ofs = if s.iod.locked = true ∧ far then (v.warn 4 0x02 0xFF 0x1FF v.anyAddr).spend else v := by
  simp only [State.measured, Bool.and_eq_true, Bool.or_eq_true, decide_eq_true_eq, Bool.decide_or]
  rfl

theorem State.synced_eq (t2 t1 : W64) :
    let ofs := (t2 - t1).toInt - s.iod.ptp.delay
    let u := { s with iod := { s.iod with ptp := { s.iod.ptp with sync := none, last := (t2 - t1).toInt } } }
    let v := if (s.entries.any fun p => p.2.live) = false ∧ ofs ≠ 0 then u.stepTime (s.ptime - BitVec.ofInt 64 ofs) else u
    let w := { v with iod := { v.iod with ptp := { v.iod.ptp with
      req := some (s.iod.ptp.seq, v.ptime), seq := (s.iod.ptp.seq + 1) % 65536 } } }
    s.synced t2 t1 = (w.measured ofs).say (.delayReq s.iod.ptpDomain s.iod.ptp.seq) := by
  intro ofs u v w
  have hv : (if (!(u.entries.any fun p => p.2.live) && ofs != 0) = true then u.stepTime (u.ptime - BitVec.ofInt 64 ofs) else u) = v :=
    if_congr (by simp [u]) rfl rfl
  have hseq : v.iod.ptp.seq = s.iod.ptp.seq := by simp only [v]; split <;> rfl
  have hdomain : v.iod.ptpDomain = s.iod.ptpDomain := by simp only [v]; split <;> rfl
  simp only [w, ← hseq, ← hdomain, ← hv]
  rfl

end Slave

end Sys2Proof.Machine

open Sys2Proof Sys2Proof.Machine

/-- Settles O57: a frame's header and step, a record's fields and the slave clock by the lemmas above; each frame by its step's effect, LTWR
and LTCTL by the entry's state, PTP by the message's type. -/
theorem frames : Obligations.Frames := by
  refine ⟨fun q l => ⟨rfl, BitVec.toNat_ofNat _ _, BitVec.toNat_ofNat _ _, BitVec.toNat_ofNat _ _, BitVec.toNat_ofNat _ _,
      BitVec.toNat_ofNat _ _, rfl⟩, fun q l s hl => ?_, fun q l s hl => ?_,
    fun f => ⟨fun h => ?imgwr, fun h => ?ltwr, fun h => ?ltctl, fun h => ?evrd, fun h => ?time, fun h => ?portsel,
      fun h _ _ hk hi => frameStep_of_mctp h hk hi, frameStep_of_other⟩,
    fun r => ⟨r.length_bytes, r.bytes_flags.1, r.bytes_flags.2, r.bytes_fields⟩,
    onFrame_of_framed (fun _ => exec_imgwr) fun f s => rfl, onFrame_of_framed (fun _ => exec_ltwr) fun f s => ?entry,
    onFrame_of_framed (fun _ => exec_ltctlKill) fun f s => ?kill, onFrame_of_framed (fun _ => exec_ltctlClear) fun f s => ?clear,
    onFrame_of_framed (fun _ => exec_unknownFrame) fun f s => rfl, onFrame_of_framed (fun _ => exec_evrd) fun f s => ?queue,
    onFrame_of_framed (fun _ => exec_evrdMailbox) fun f s => ?mailbox, onFrame_of_framed (fun _ => exec_portsel) fun f s => rfl,
    ptpTick_eq, State.measured_eq, State.synced_eq, fun s t => ⟨rfl, rfl⟩,
    onFrame_of_framed (fun _ => exec_ptp) fun f s => ?ptp, onFrame_of_framed (fun _ => exec_asidgrant) fun f s => ?_,
    onFrame_of_framed (fun _ => exec_asidrevoke) fun f s => ?_, onFrame_of_framed (fun _ => exec_tlbinv) fun f s => ?_,
    onFrame_of_framed (fun _ => exec_pagein) fun f s => rfl, onFrame_of_framed (fun _ => exec_pagedeny) fun f s => rfl,
    onFrame_of_framed (fun _ => exec_preemptRequest) fun f s => ?_, onFrame_of_framed (fun _ => exec_resume) fun f s => rfl,
    onFrame_of_framed (fun _ => exec_snapnow) fun f s => rfl, onFrame_of_framed (fun _ => exec_snapclr) fun f s => rfl,
    onFrame_of_framed (fun _ => exec_hostInterrupt) fun f s => rfl⟩
  · rw [State.receive, if_pos hl]
  · rw [State.receive, if_neg (by omega)]
  case imgwr | ltwr | ltctl | evrd | time | portsel =>
    simp only [frameStep, h]
    rfl
  case entry =>
    refine if_congr Iff.rfl rfl ?_
    obtain ⟨st, hst⟩ : ∃ st, (s.entry (f.addr.setWidth 8)).st = st := ⟨_, rfl⟩
    simp only [Entry.open_, hst]
    cases st <;> rfl
  case kill | clear =>
    obtain ⟨st, hst⟩ : ∃ st, (s.entry (f.addr.setWidth 8)).st = st := ⟨_, rfl⟩
    generalize f.data.head? = o
    by_cases hkill : o = some 1
    · subst hkill
      rfl
    by_cases hclear : o = some 2
    · subst hclear
      simp only [hst]
      cases st <;> rfl
    trans s.badFrame f
    all_goals
      split
      · contradiction
      · contradiction
      · rfl
  case queue | mailbox =>
    simp only [field, Nat.pow_zero, Nat.div_one]
    rfl
  case ptp =>
    refine if_congr Iff.rfl rfl (if_congr (by simp) rfl ?_)
    split
    case h_1 hk => rw [if_pos hk]; rfl
    case h_2 hk =>
      rw [if_neg (by omega), if_pos hk]
      cases s.iod.ptp.sync with
      | none => rfl
      | some x => simp only [Option.any_some, Option.getD_some, beq_iff_eq]; rfl
    case h_3 hk =>
      rw [if_neg (by omega), if_neg (by omega), if_pos hk]
      cases s.iod.ptp.req with
      | none => rfl
      | some x => simp only [Option.any_some, Option.getD_some, beq_iff_eq]; rfl
    case h_4 h0 h8 h9 => rw [if_neg h0, if_neg h8, if_neg h9]; rfl
  · simp only [Bool.not_eq_true', List.contains_iff_mem]; rfl
  · simp only [Bool.not_eq_true']; rfl
  · simp only [Bool.or_eq_true, decide_eq_true_eq]; rfl
  · simp only [Bool.and_eq_true, beq_iff_eq]; rfl
end

section
/-! PROOFS. The matrix commands: what each enters at its bundle's commit, and what each does on its start cycle. -/

namespace Sys2Proof.Machine

/-! ## Commands entered (R226, R232 to R239) -/

/-- The low byte read in two's complement (R9). -/
theorem sext_toNat_eight (x : W64) : sext x.toNat 8 = (x.setWidth 8 : BitVec 8).toInt := by
  simp only [sext, field, BitVec.toInt_eq_toNat_cond, BitVec.toNat_setWidth]
  split_ifs <;> omega

theorem State.mcommand_eq (s : State) (op : Nat) (dl : BitVec 20) (base row : Nat) (stride : Int) (sc : VReg) (n wf acc : Nat) :
    s.mcommand op dl base row stride sc n wf acc =
      (s.emit (.mcmd { op := op, start := s.cur.cycle + 1 + dl.toNat, pc := s.cur.pc, gate := s.cur.gate, base := base, row0 := row,
                       stride := stride, scales := sc, rows := n, wf := wf, acc := acc,
                       cb := if s.cur.bcv = true then ((s.cur.bcs.setWidth 8 : BitVec 8)).toInt else 0 } s.cur.slot)).mark := by
  simp only [State.mcommand, sext_toNat_eight]

/-- A check of alignment, the one that passes first. -/
theorem ite_not_alignedBy {α : Type} (n base : Nat) (stride : Int) (a b : α) :
    (if (!alignedBy n base stride) = true then a else b) = if base % n = 0 ∧ stride % (n : Int) = 0 then b else a := by
  simp only [alignedBy, Bool.not_eq_true', Bool.and_eq_false_iff, decide_eq_false_iff_not, ← not_and_or, ite_not]

/-! ## Starts (R226, R227, R232, R235 to R239) -/

section Start
variable {s : State} {t : Nat} {m : MCmd}

theorem State.Canon.tile_raiseExt (hs : s.Canon) (code : BitVec 6) (info : BitVec 8) (addr : W64) (mask : BitVec 8) (area : Bool) :
    (s.raiseExt t code info addr mask area).tile t =
      { s.tile t with pend := (s.tile t).pend ++ [⟨code, mask, info, addr, true, area⟩] } := hs.tile_updTile_same

/-- A trap on a start cycle stops the engine and waits for the commit point. -/
theorem State.Canon.tile_startTrap (hs : s.Canon) (code : BitVec 6) (pc : Nat) : (s.startTrap t code pc).tile t =
    { s.tile t with
      mx := (s.tile t).mx.stop, pend := (s.tile t).pend ++ [⟨code, mBit, s.anyInfo, BitVec.ofNat 64 pc, true, false⟩] } := by
  have hstop : (s.updTile t fun x => { x with mx := x.mx.stop }).Canon := hs.updTile fun _ h => h
  exact (hstop.tile_raiseExt ..).trans (by rw [hs.tile_updTile_same])

theorem Matrix.plane_setPlane_same (x : Matrix) (b : Bool) (p : Plane) : (x.setPlane b p).plane b = p := by
  cases b <;> rfl

theorem Matrix.plane_setPlane_not (x : Matrix) (b : Bool) (p : Plane) : (x.setPlane (!b) p).plane b = x.plane b := by
  cases b <;> rfl

theorem State.runMatrix_swap (hop : m.op = 2) (hfree : (s.tile t).mx.array = none) :
    s.runMatrix t m = s.updTile t fun y => { y with mx := { y.mx with act := !y.mx.act } } := by
  simp only [State.runMatrix, hop, hfree]
  rfl

theorem State.runMatrix_scales (hop : m.op = 6) :
    s.runMatrix t m = s.updTile t fun y => { y with mx := { y.mx with
      rsc := (List.range 128).filterMap fun i => let v := byteOf m.scales i; if v = 0 then none else some (i, v) } } := by
  simp only [State.runMatrix, hop]

theorem State.runMatrix_load (hop : m.op = 1) : s.runMatrix t m =
    if (s.tile t).mx.loader.isSome then s.startTrap t 0x0E m.pc
    else s.updTile t fun y => { y with mx := { (y.mx.setPlane (!(s.tile t).mx.act)
        { y.mx.plane (!(s.tile t).mx.act) with pair := decide (m.wf ≠ 3) }) with
      loader := some ⟨false, 0, m.base, m.stride, m.scales, m.rows, m.wf, !(s.tile t).mx.act⟩ } } := by
  simp only [State.runMatrix, hop]

theorem State.runMatrix_codebook (hop : m.op = 5) : s.runMatrix t m =
    if (s.tile t).mx.loader.isSome then s.startTrap t 0x0E m.pc
    else s.updTile t fun y => { y with mx := { y.mx with loader := some ⟨true, 0, m.base, m.stride, 0, 8, 0, false⟩ } } := by
  simp only [State.runMatrix, hop]

theorem State.runMatrix_pass (hop : m.op = 3 ∨ m.op = 4) : s.runMatrix t m =
    if (s.tile t).mx.array.isSome then s.startTrap t 0x0E m.pc
    else if ((s.tile t).mx.plane (s.tile t).mx.act).pair && m.wf == 4 && !alignedBy 256 m.base m.stride then s.startTrap t 0x08 m.pc
    else s.updTile t fun y => { y with mx := { y.mx with
      array := some ⟨m.start, m.base, m.stride, m.rows, m.wf, ((s.tile t).mx.plane (s.tile t).mx.act).pair, m.acc, m.row0, m.op == 4,
        m.cb⟩ } } := by
  obtain hop | hop := hop <;> simp only [State.runMatrix, hop]

end Start

end Sys2Proof.Machine

open Sys2Proof Sys2Proof.Machine

/-- Settles O37: an instruction by its alignment and the command it enters, a command's start by its operation and the part it needs. -/
theorem matrixCommands : Obligations.MatrixCommands := by
  refine ⟨⟨fun p dl a b v n wf s => ?_, fun p dl s => ?_, fun p acc dl a b n wf s => ?_, fun p acc dl a b n wf s => ?_,
      fun p dl a s => ?_, fun p dl v s => ?_⟩,
    fun s t m hs => ?_⟩
  · rw [exec_mldw]
    refine State.when_eq_guarded ?_
    simp only [ite_not_alignedBy, State.mcommand_eq, low22]
  · rw [exec_mswap]
    exact State.when_eq_guarded (State.mcommand_eq ..)
  · rw [exec_mstr]
    refine State.when_eq_guarded ?_
    simp only [State.pass, ite_not_alignedBy, State.mcommand_eq, low22, field]
    rfl
  · rw [exec_mstrz]
    refine State.when_eq_guarded ?_
    simp only [State.pass, ite_not_alignedBy, State.mcommand_eq, low22, field]
    rfl
  · rw [exec_mcbt]
    refine State.when_eq_guarded ?_
    simp only [State.mcommand_eq, low22, ite_not]
  · rw [exec_mscl]
    exact State.when_eq_guarded (State.mcommand_eq ..)
  intro x y
  refine ⟨fun hop hfree => ?_, fun hop i hi => ?_, fun hop hfree => ?_, fun hop hfree => ?_, fun hop hfree hal => ?_,
    fun hop hbusy => ?_, fun hop hbusy => ?_⟩
  · simp only [y, State.runMatrix_swap hop hfree, hs.tile_updTile_same]
    rfl
  · simp only [y, State.runMatrix_scales hop, hs.tile_updTile_same, Matrix.rscAt, List.range_eq_range']
    rw [SMap.get_filterMap_range', if_pos (by omega)]
  · simp only [y, State.runMatrix_load hop, show (s.tile t).mx.loader = none from hfree, Option.isSome_none, Bool.false_eq_true, if_false,
      hs.tile_updTile_same]
    refine ⟨⟨_, rfl, rfl, rfl, rfl, rfl, rfl⟩, ?_, ?_, rfl⟩
    · exact congrArg Plane.pair (Matrix.plane_setPlane_same ..)
    · exact Matrix.plane_setPlane_not ..
  · simp only [y, State.runMatrix_codebook hop, show (s.tile t).mx.loader = none from hfree, Option.isSome_none, Bool.false_eq_true,
      if_false, hs.tile_updTile_same]
    exact ⟨_, rfl, rfl, rfl, rfl, rfl⟩
  · have hgo : (((s.tile t).mx.plane (s.tile t).mx.act).pair && m.wf == 4 && !alignedBy 256 m.base m.stride) = false := by
      simpa [alignedBy] using hal
    simp only [y, State.runMatrix_pass hop, show (s.tile t).mx.array = none from hfree, Option.isSome_none, Bool.false_eq_true, if_false,
      hgo, hs.tile_updTile_same]
    exact ⟨_, rfl, rfl, rfl, rfl, rfl, rfl, rfl, rfl⟩
  · have hbusy : (s.tile t).mx.loader.isSome = true := Option.isSome_iff_ne_none.2 hbusy
    have hrun : s.runMatrix t m = s.startTrap t 0x0E m.pc := by
      obtain hop | hop := hop
      · rw [State.runMatrix_load hop, if_pos hbusy]
      · rw [State.runMatrix_codebook hop, if_pos hbusy]
    simp only [y, hrun, hs.tile_startTrap]
    exact ⟨rfl, _, rfl, rfl⟩
  · have hrun : s.runMatrix t m = s.startTrap t 0x0E m.pc := by
      rw [State.runMatrix_pass hop, if_pos (Option.isSome_iff_ne_none.2 hbusy)]
    simp only [y, hrun, hs.tile_startTrap]
    exact ⟨rfl, _, rfl, rfl⟩

end

section
/-! PROOFS. The channel program: a command by what keeps it from issuing, the other syllables by the sequencer they change, and what a
breach leaves. -/

namespace Sys2Proof.Machine

/-! ## Commands (R247 to R251, R253 to R256, R259) -/

/-- What a command leaves: nothing changes where the program has stopped; a breach in a cached window or on a broken constraint;
elsewhere its own effect. -/
def State.issued (s : State) (cmd : Nat) (pc : BitVec 1) (bk : Nat) (f : Nat → Seqr → State) : State :=
  let q := s.cur.seqr
  let x := s.seqr q
  let c := s.breaks x cmd pc.toNat bk
  if x.run = false then s
  else if x.now % 1024 < 64 then s.breach q 0x11 0x21 pc.toNat bk cmd x.now
  else if c ≠ 0 then s.breach q 0x10 c pc.toNat bk cmd x.now
  else f q x

theorem State.command_eq_issued {s : State} {cmd bk : Nat} {pc : BitVec 1} {g : Nat → State → State} {f : Nat → Seqr → State}
    (h : g s.cur.seqr s = f s.cur.seqr (s.seqr s.cur.seqr)) : s.command cmd pc bk g = .next (s.issued cmd pc bk f) := by
  simp only [State.command, State.cmdCheck, State.issued, Bool.not_eq_true', ne_eq, ite_not, ← h]
  split_ifs <;> rfl

/-- The two ways to write the debt that a refresh repays (R256). -/
theorem PchT.repay_eq (p : PchT) : p.repay = { p with debt := max (p.debt - 1) (min p.debt (-8)) } := by
  have h : (if p.debt ≤ -8 then p.debt else p.debt - 1) = max (p.debt - 1) (min p.debt (-8)) := by split <;> omega
  rw [PchT.repay, h]

theorem State.program_eq (s : State) (f : Seqr → Seqr) : s.program f =
    .next (if (s.seqr s.cur.seqr).run = true then s.setSeqr s.cur.seqr (f (s.seqr s.cur.seqr)) else s) := by
  rw [State.program, apply_ite Host.Outcome.next]
  rfl

/-- A breach halts its sequencer, and its trap waits for the commit point of the node's lowest live tile. -/
theorem State.Canon.breach_eq {s : State} (hs : s.Canon) (q : Nat) (code : BitVec 6) (con pc bk cmd cyc : Nat) :
    (s.breach q code con pc bk cmd cyc).seqr q = { (s.seqr q).halt with failed := true } ∧
    (s.breach q code con pc bk cmd cyc).tile (s.nodeTile q) = { s.tile (s.nodeTile q) with
      pend := (s.tile (s.nodeTile q)).pend ++ [⟨code, 0, BitVec.ofNat 8 con, dramAddr q pc bk cmd cyc, true, false⟩] } :=
  ⟨(hs.seqr_updSeqr (q := q) (u := q) (f := fun x => { x.halt with failed := true })).trans (if_pos rfl), hs.updSeqr.tile_raiseExt ..⟩

end Sys2Proof.Machine

open Sys2Proof Sys2Proof.Machine

/-- Settles O41: a command by `State.issued`, another syllable by `State.program_eq`, a breach by what it changes. -/
theorem channelCommands : Obligations.ChannelCommands := by
  refine ⟨?commands, ?others, fun s q code con pc bk cmd cyc hs => ?breach⟩
  case commands =>
    intro run
    have hrun : run = State.issued := rfl
    clear_value run
    subst hrun
    refine ⟨fun pc o bk r s => ?_, fun pc o bk col tl sec s => ?_, fun pc o bk col tl sec s => ?_, fun pc o bk s => ?_,
      fun pc o s => ?_, fun pc o s => ?_, fun pc o bk s => ?_⟩
    · rw [exec_act, execAct]
      exact State.command_eq_issued rfl
    · rw [exec_rd, execRd]
      exact State.command_eq_issued rfl
    · rw [exec_wr, execWr]
      refine State.command_eq_issued ?_
      dsimp only
      cases s.chanSet ((s.seqTile s.cur.seqr tl.toNat).getD 0) ((s.seqr s.cur.seqr).addr 0 col.toNat sec.toNat).2.2 false with
      | some i => rfl
      | none => simp only [State.updTile_ptime, State.writeMem_ptime]
    · rw [exec_pre, execPre]
      exact State.command_eq_issued rfl
    · rw [exec_prea, execPrea]
      exact State.command_eq_issued rfl
    · rw [exec_ref, execRef]
      refine State.command_eq_issued ?_
      simp only [PchT.repay_eq]
      rfl
    · rw [exec_refpb, execRefpb]
      exact State.command_eq_issued rfl
  case others =>
    refine ⟨fun n s => ?_, fun lv n rs cs ds s => ?_, fun n s => ?_, fun sid s => ?_, fun s => ?_⟩
    · rw [exec_waitc]; exact State.program_eq ..
    · rw [exec_tnest]; exact State.program_eq ..
    · rw [exec_tend]; exact State.program_eq ..
    · rw [exec_troute]; exact State.program_eq ..
    · rw [exec_thalt]; exact State.program_eq ..
  case breach =>
    obtain ⟨hseqr, hpend⟩ := hs.breach_eq q code con pc bk cmd cyc
    simp only [hseqr, hpend]
    exact ⟨rfl, trivial, rfl, rfl⟩
end

section
/-! PROOFS. The cause taken among several, and the action table at reset. -/

namespace Sys2Proof.Machine

/-! ## The order of causes (R344) -/

section Choice
variable {a b c k : Cause} {cs : List Cause}

/-- What a cause and a later one of the order share: ILLEGAL_BUNDLE first, elsewhere by lowest slot and code. -/
def Cause.NoLater (a b : Cause) : Prop :=
  a.code = 1 ∨ (b.code ≠ 1 ∧ (lowSlot a.mask < lowSlot b.mask ∨ lowSlot a.mask = lowSlot b.mask ∧ a.code.toNat ≤ b.code.toNat))

theorem Cause.before_iff : a.before b = true ↔ a.NoLater b := by
  have hcode : a.code ≤ b.code ↔ a.code.toNat ≤ b.code.toNat := BitVec.le_def
  simp only [Cause.before, Cause.NoLater]
  split_ifs <;> simp_all <;> omega

theorem Cause.NoLater.refl (a : Cause) : a.NoLater a := by
  by_cases h : a.code = 1
  · exact .inl h
  · exact .inr ⟨h, .inr ⟨rfl, le_rfl⟩⟩

theorem Cause.NoLater.trans (hab : a.NoLater b) (hbc : b.NoLater c) : a.NoLater c := by
  unfold Cause.NoLater at *
  obtain ha | ⟨hb, hab⟩ := hab
  · exact .inl ha
  · obtain hb' | ⟨hc, hbc⟩ := hbc
    · exact absurd hb' hb
    · exact .inr ⟨hc, by omega⟩

theorem Cause.NoLater.total (a b : Cause) : a.NoLater b ∨ b.NoLater a := by
  by_cases ha : a.code = 1
  · exact .inl (.inl ha)
  · by_cases hb : b.code = 1
    · exact .inr (.inl hb)
    · have h : (lowSlot a.mask < lowSlot b.mask ∨ lowSlot a.mask = lowSlot b.mask ∧ a.code.toNat ≤ b.code.toNat) ∨
          (lowSlot b.mask < lowSlot a.mask ∨ lowSlot b.mask = lowSlot a.mask ∧ b.code.toNat ≤ a.code.toNat) := by omega
      exact h.imp (fun h => .inr ⟨hb, h⟩) fun h => .inr ⟨ha, h⟩

theorem chooseCause_cons (c : Cause) (cs : List Cause) : chooseCause (c :: cs) = some (match chooseCause cs with
    | none => c
    | some d => if c.before d = true then c else d) := by
  rw [chooseCause]
  cases chooseCause cs <;> rfl

theorem chooseCause_eq_none : chooseCause cs = none ↔ cs = [] := by
  cases cs with
  | nil => simp [chooseCause]
  | cons c cs => simp [chooseCause_cons]

/-- The cause taken is one of those raised, and none of them comes before it. -/
theorem mem_and_noLater_of_chooseCause (h : chooseCause cs = some k) : k ∈ cs ∧ ∀ d ∈ cs, k.NoLater d := by
  induction cs generalizing k with
  | nil => cases h
  | cons c cs ih =>
    rw [chooseCause_cons, Option.some_inj] at h
    subst h
    cases hd : chooseCause cs with
    | none =>
      rw [chooseCause_eq_none.1 hd]
      exact ⟨List.mem_cons_self, fun e he => List.mem_singleton.1 he ▸ .refl _⟩
    | some d =>
      obtain ⟨hmem, hle⟩ := ih hd
      dsimp only
      split
      case isTrue hcd =>
        have hcd := Cause.before_iff.1 hcd
        exact ⟨List.mem_cons_self, List.forall_mem_cons.2 ⟨.refl c, fun e he => hcd.trans (hle e he)⟩⟩
      case isFalse hcd =>
        have hdc := (Cause.NoLater.total c d).resolve_left (Cause.before_iff.not.1 hcd)
        exact ⟨List.mem_cons_of_mem _ hmem, List.forall_mem_cons.2 ⟨hdc, hle⟩⟩

/-- TMASK holds the slots of the cause taken and those of every cause of the bundle. -/
theorem getLsbD_allMask {i : Nat} :
    (allMask cs k).getLsbD i = true ↔ k.mask.getLsbD i = true ∨ ∃ d ∈ cs, d.ext = false ∧ d.mask.getLsbD i = true := by
  have hfold (l : List Cause) (m : BitVec 8) : (l.foldl (fun m c => m ||| c.mask) m).getLsbD i = true ↔
      m.getLsbD i = true ∨ ∃ d ∈ l, d.mask.getLsbD i = true := by
    induction l generalizing m with
    | nil => simp
    | cons c l ih => simp [ih, or_assoc]
  simp [allMask, hfold, and_assoc]

end Choice

/-- After reset every entry reads its value of R347. -/
theorem State.reset_action (d code : Nat) : State.reset.action d code = actionReset code := rfl

end Sys2Proof.Machine

open Sys2Proof Sys2Proof.Machine

/-- Settles O20: the cause taken comes no later than any other, and the table at reset is evaluated code by code. -/
theorem causeChoice : Obligations.CauseChoice := by
  refine ⟨fun cs => ⟨chooseCause_eq_none, fun k hk => ?_, fun k i => getLsbD_allMask⟩, fun d => ?_⟩
  · obtain ⟨hmem, hle⟩ := mem_and_noLater_of_chooseCause hk
    refine ⟨hmem, fun ⟨d, hd, hcode⟩ => ?_, fun hnot d hd => ?_⟩
    · exact (hle d hd).resolve_right fun h => h.1 hcode
    · obtain ⟨-, h⟩ := (hle d hd).resolve_left (hnot k hmem)
      omega
  · simp only [State.reset_action]
    decide

end

section
/-! PROOFS. What taking a trap leaves: its tile, the package where the entry asks for a snapshot, and the trap kept. -/

namespace Sys2Proof.Machine

/-! ## Taking a trap (R344, R347, R348, R351, R382) -/

section Take
variable (s : State)

/-- A trigger changes the package alone: no tile, and no trap taken. -/
theorem State.snapTrigger_tiles_taken (src : BitVec 3) (tag : Byte) :
    (s.snapTrigger src tag).tiles = s.tiles ∧ (s.snapTrigger src tag).taken = s.taken := by
  unfold State.snapTrigger
  split
  · exact ⟨rfl, rfl⟩
  · split
    · exact ⟨rfl, rfl⟩
    · split_ifs <;> exact ⟨rfl, rfl⟩

/-- A trigger looks at the package's part of the state alone. -/
theorem State.snapTrigger_of_tiles (m : SMap Tile) (src : BitVec 3) (tag : Byte) :
    ({ s with tiles := m } : State).snapTrigger src tag = { s.snapTrigger src tag with tiles := m } := by
  unfold State.snapTrigger
  dsimp only
  split
  · rfl
  · split
    · rfl
    · split_ifs <;> rfl

theorem State.snapTrigger_updTile (t : Nat) (f : Tile → Tile) (src : BitVec 3) (tag : Byte) :
    (s.updTile t f).snapTrigger src tag = { s.snapTrigger src tag with tiles := (s.updTile t f).tiles } :=
  s.snapTrigger_of_tiles (s.updTile t f).tiles src tag

/-- The tile after a trap is taken (R344, R351). -/
theorem State.Canon.tile_take {s : State} (hs : s.Canon) (t : Nat) (c : Cause) (mask : BitVec 8) (pc cyc : Nat) (sec nrforced harea : Bool) (v : Nat) :
    (s.take t c mask pc cyc sec nrforced harea).tile v = if v = t then { s.tile t with
      tcause := BitVec.ofNat 64 (c.info.toNat * 256 + c.code.toNat), tpc := BitVec.ofNat 33 ((if sec then 2 ^ 32 else 0) + pc),
      tmask := mask, taddr := c.addr
      fails := if (s.action (dieOf t) (if harea then 0x1D else c.code.toNat)).getLsbD 6 && decide ((s.tile t).fails < 15)
        then (s.tile t).fails + 1 else (s.tile t).fails } else s.tile v := by
  have htiles : (s.take t c mask pc cyc sec nrforced harea).tiles = (s.updTile t fun x => { x with
      tcause := BitVec.ofNat 64 (c.info.toNat * 256 + c.code.toNat), tpc := BitVec.ofNat 33 ((if sec then 2 ^ 32 else 0) + pc),
      tmask := mask, taddr := c.addr
      fails := if (s.action (dieOf t) (if harea then 0x1D else c.code.toNat)).getLsbD 6 && decide (x.fails < 15)
        then x.fails + 1 else x.fails }).tiles := by
    unfold State.take
    dsimp only
    generalize (s.action (dieOf t) (if harea then 0x1D else c.code.toNat)).getLsbD 7 = snap
    cases snap with
    | true => exact (State.snapTrigger_tiles_taken ..).1
    | false => rfl
  exact (congrArg (fun m => SMap.get Tile.reset m v) htiles).trans hs.tile_updTile

/-- The package after a trap is taken: the trigger of its entry, and nothing else (R382). -/
theorem State.take_iod_pending (t : Nat) (c : Cause) (mask : BitVec 8) (pc cyc : Nat) (sec nrforced harea : Bool) :
    let u := s.take t c mask pc cyc sec nrforced harea
    let w := if (s.action (dieOf t) (if harea then 0x1D else c.code.toNat)).getLsbD 7 = true
      then s.snapTrigger 1 (BitVec.ofNat 8 c.code.toNat) else s
    u.iod = w.iod ∧ u.pending = w.pending := by
  simp only [State.take, State.snapTrigger_updTile]
  generalize (s.action (dieOf t) (if harea then 0x1D else c.code.toNat)).getLsbD 7 = snap
  cases snap <;> exact ⟨rfl, rfl⟩

/-- The trap kept for the end of the tick. -/
theorem State.take_taken (t : Nat) (c : Cause) (mask : BitVec 8) (pc cyc : Nat) (sec nrforced harea : Bool) :
    (s.take t c mask pc cyc sec nrforced harea).taken = s.taken ++ [⟨t, { c with mask := mask },
      (s.action (dieOf t) (if harea then 0x1D else c.code.toNat)).extractLsb' 0 3, cyc, sec, nrforced, (s.tile t).hm.isSome && !sec,
      harea⟩] := by
  unfold State.take
  dsimp only
  generalize (s.action (dieOf t) (if harea then 0x1D else c.code.toNat)).getLsbD 7 = snap
  cases snap with
  | true => exact congrArg (· ++ _) (State.snapTrigger_tiles_taken ..).2
  | false => rfl

end Take
end Sys2Proof.Machine

open Sys2Proof Sys2Proof.Machine

/-- Settles O22: the tile by `tile_take`, the trap kept by `take_taken`, the trigger by `take_iod_pending`. -/
theorem takeTrap : Obligations.TakeTrap := by
  intro s t c mask pc cyc sec nrforced harea hs ent x u
  obtain ⟨hiod, hpending⟩ := s.take_iod_pending t c mask pc cyc sec nrforced harea
  refine ⟨?_, fun v hv => ?_, ⟨_, s.take_taken .., rfl, rfl, rfl⟩, fun hsnap => ?_, fun hsnap => ?_⟩
  · have hfails : ((s.tile t).fails < 15) ↔ (s.tile t).fails ≠ 15 := by
      rw [BitVec.lt_def, ne_eq, ← BitVec.toNat_inj]
      show _ < 15 ↔ ¬ _ = 15
      omega
    rw [hs.tile_take, if_pos rfl]
    simp only [Bool.and_eq_true, decide_eq_true_eq, hfails]
    rfl
  · rw [hs.tile_take, if_neg hv]
  · rw [hiod, hpending, if_neg (by simpa using hsnap)]
    exact ⟨rfl, rfl⟩
  · rw [hiod, hpending, if_pos hsnap]
    refine ⟨rfl, rfl, fun hfull hat => ?_⟩
    simp only [State.snapTrigger, hfull, hat]
    exact ⟨rfl, rfl⟩

end

section
/-! PROOFS. Entering handler mode: sorted results, fields of bytes written to a memory, the records of a capture one by one, and the
frame they make. -/

namespace Sys2Proof.Machine

/-! ## Sorting by insertion -/

section Insertion
variable {α : Type} {le : α → α → Bool}

theorem perm_insertBy (x : α) (l : List α) : (insertBy le x l).Perm (x :: l) := by
  induction l with
  | nil => exact .refl _
  | cons y l ih =>
    rw [insertBy]
    split
    · exact (ih.cons y).trans (.swap x y l)
    · exact .refl _

theorem perm_sortBy (l : List α) : (sortBy le l).Perm l := by
  have h (acc : List α) : (l.foldl (fun ys x => insertBy le x ys) acc).Perm (acc ++ l) := by
    induction l generalizing acc with
    | nil => simp
    | cons x l ih => exact (ih _).trans (((perm_insertBy x acc).append_right l).trans List.perm_middle.symm)
  exact h []

variable (htotal : ∀ a b, le a b = true ∨ le b a = true) (htrans : ∀ a b c, le a b = true → le b c = true → le a c = true)
include htotal htrans

theorem pairwise_insertBy (x : α) (l : List α) (h : l.Pairwise fun a b => le a b = true) :
    (insertBy le x l).Pairwise fun a b => le a b = true := by
  induction l with
  | nil => exact List.pairwise_singleton _ x
  | cons y l ih =>
    obtain ⟨hy, hl⟩ := List.pairwise_cons.1 h
    rw [insertBy]
    split
    case isTrue hyx =>
      refine List.pairwise_cons.2 ⟨fun z hz => ?_, ih hl⟩
      obtain rfl | hz := List.mem_cons.1 ((perm_insertBy x l).mem_iff.1 hz)
      · exact hyx
      · exact hy z hz
    case isFalse hyx =>
      have hxy := (htotal y x).resolve_left hyx
      exact List.pairwise_cons.2 ⟨List.forall_mem_cons.2 ⟨hxy, fun z hz => htrans _ _ _ hxy (hy z hz)⟩, h⟩

theorem pairwise_sortBy (l : List α) : (sortBy le l).Pairwise fun a b => le a b = true := by
  have h (acc : List α) (hacc : acc.Pairwise fun a b => le a b = true) :
      (l.foldl (fun ys x => insertBy le x ys) acc).Pairwise fun a b => le a b = true := by
    induction l generalizing acc with
    | nil => exact hacc
    | cons x l ih => exact ih _ (pairwise_insertBy htotal htrans x acc hacc)
  exact h [] List.Pairwise.nil

end Insertion

/-- The order of the records: landing cycle, then issue cycle, then slot (R358). -/
theorem resultLe_iff (a b : Result) : resultLe a b = true ↔
    a.land < b.land ∨ a.land = b.land ∧ (a.issue < b.issue ∨ a.issue = b.issue ∧ a.slot ≤ b.slot) := by
  unfold resultLe
  split_ifs <;> simp only [decide_eq_true_eq] <;> omega

theorem pairwise_sortBy_resultLe (rs : List Result) : (sortBy resultLe rs).Pairwise fun a b =>
    a.land < b.land ∨ a.land = b.land ∧ (a.issue < b.issue ∨ a.issue = b.issue ∧ a.slot ≤ b.slot) := by
  simp only [← resultLe_iff]
  refine pairwise_sortBy (fun a b => ?_) (fun a b c => ?_) rs
  · simp only [resultLe_iff]; omega
  · simp only [resultLe_iff]; omega

/-! ## Fields of bytes written -/

section Fields
variable {m : List Host.Cell} {A B : List Byte} {a o n : Nat}

theorem toBytes_zero (n : Nat) : toBytes n 0 = List.replicate n 0 := by
  induction n with
  | zero => rfl
  | succ n ih => rw [toBytes, Nat.zero_div, ih]; rfl

theorem bytesAt_replicate_zero (k o n : Nat) : bytesAt (List.replicate k 0) o n = 0 := by
  have h (j : Nat) : ofBytes (List.replicate j 0) = 0 := by
    induction j with
    | zero => rfl
    | succ j ih => rw [List.replicate_succ, ofBytes, ih]; rfl
  rw [bytesAt, List.drop_replicate, List.take_replicate, h]

theorem bytesAt_append_left (h : o + n ≤ A.length) : bytesAt (A ++ B) o n = bytesAt A o n := by
  rw [bytesAt, List.drop_append_of_le_length (by omega), List.take_append_of_le_length (by rw [List.length_drop]; omega), bytesAt]

theorem bytesAt_append_right (h : A.length ≤ o) : bytesAt (A ++ B) o n = bytesAt B (o - A.length) n := by
  rw [bytesAt, List.drop_append, List.drop_eq_nil_of_le h, List.nil_append, bytesAt]

/-- The bytes of the item at an index, among items of one length each. -/
theorem bytesAt_flatMap {α : Type} {f : α → List Byte} {k i : Nat} {l : List α} {x : α} (hf : ∀ x, (f x).length = k)
    (hi : l[i]? = some x) (hn : o + n ≤ k) : bytesAt (l.flatMap f) (k * i + o) n = bytesAt (f x) o n := by
  induction l generalizing i with
  | nil => cases hi
  | cons y l ih =>
    rw [List.flatMap_cons]
    cases i with
    | zero =>
      obtain rfl : y = x := Option.some_inj.1 hi
      rw [Nat.mul_zero, Nat.zero_add, bytesAt_append_left (by rw [hf]; exact hn)]
    | succ i =>
      rw [bytesAt_append_right (by rw [hf, Nat.mul_succ]; omega), hf, ← ih hi]
      congr 1
      rw [Nat.mul_succ]; omega

/-- A number read among bytes that were written. -/
theorem readN_writeBytes_field (hw : Memory.wf m = true) (h : o + n ≤ A.length) :
    readN (writeBytes m a A) (a + o) n = bytesAt A o n := by
  have hbytes : readBytes (writeBytes m a A) (a + o) n = (A.drop o).take n := by
    refine List.ext_getElem (by simp [readBytes]; omega) fun i h1 h2 => ?_
    have hi : i < n := by simpa [readBytes] using h1
    simp only [readBytes, List.getElem_map, List.getElem_range, get_writeBytes hw]
    rw [if_pos (by omega), show a + o + i - a = o + i by omega]
    simp [List.getD_eq_getElem?_getD, show o + i < A.length by omega]
  rw [readN, hbytes, bytesAt]

theorem readN_congr {m' : List Host.Cell} (h : ∀ k < n, SMap.get 0 m (a + k) = SMap.get 0 m' (a + k)) : readN m a n = readN m' a n := by
  rw [readN, readN]
  refine congrArg ofBytes (List.map_congr_left fun k hk => h k (List.mem_range.1 hk))

end Fields

/-! ## The records of a capture (R357, R358) -/

/-- The kind, the register and the value of a record, and the register's value where it is a vector; `g` holds the registers as the
result lands. -/
def Result.kindOf (r : Result) (g : Regs) : Nat × BitVec 6 × BitVec 64 × VReg :=
  match r.dest with
  | .s d => (0, d, r.value.setWidth 64, 0)
  | .v d => (1, d, 0, rd g.v d)
  | .p d => (2, d.setWidth 6, r.value.setWidth 64, 0)
  | .q d => (3, d.setWidth 6, if d = 0 then r.value.setWidth 64 else rd g.q d, 0)

/-- The tag a record holds: only scalar and vector registers have one. -/
def Result.recordTag (r : Result) : Tag :=
  match r.dest with
  | .s _ => r.tag
  | .v _ => r.tag
  | _ => 0

/-- The 32 bytes of a record. -/
def Result.recordBytes (r : Result) (g : Regs) (c : Nat) : List Byte :=
  let k := r.kindOf g
  toBytes 4 (2 ^ 31 + k.1 * 2 ^ 28 + k.2.1.toNat * 2 ^ 22 + r.vf.toNat * 2 ^ 15 + r.mf.toNat * 2 ^ 11) ++ toBytes 2 r.recordTag.toNat ++
    toBytes 2 (r.land - c) ++ toBytes 8 k.2.2.1.toNat ++ toBytes 16 0

/-- The memory after one record, and its value slot where it is a vector. -/
def Result.capture (r : Result) (g : Regs) (c i : Nat) (m : List Host.Cell) : List Host.Cell :=
  let m := writeBytes m (0x200 + 32 * i) (r.recordBytes g c)
  if (r.kindOf g).1 = 1 then writeBytes m (0x600 + 256 * i) (toBytes 256 (r.kindOf g).2.2.2.toNat) else m

/-- The registers once the first `n` results have landed. -/
def landed (g : Regs) (rs : List Result) (n : Nat) : Regs := (rs.take n).foldl (fun g r => g.land r false) g

section Capture
variable {r : Result} {g : Regs} {c i j : Nat} {m : List Host.Cell} {rs : List Result}

theorem captureAll_cons : captureAll g c (r :: rs) i m =
    captureAll (g.land r false) c rs (i + 1) (r.capture (g.land r false) c i m) := rfl

theorem Result.length_recordBytes : (r.recordBytes g c).length = 32 := by
  simp only [Result.recordBytes, List.length_append, length_toBytes]

theorem Result.kindOf_eq_one : (r.kindOf g).1 = 1 ↔ ∃ d, r.dest = .v d := by
  unfold Result.kindOf
  cases r.dest <;> simp

theorem Memory.wf_capture (hw : Memory.wf m = true) : Memory.wf (r.capture g c i m) = true := by
  unfold Result.capture
  dsimp only
  split
  · exact Memory.wf_writeBytes (Memory.wf_writeBytes hw)
  · exact Memory.wf_writeBytes hw

/-- A capture leaves every byte outside its record and its value slot alone. -/
theorem Result.get_capture_outside (hw : Memory.wf m = true) {a : Nat} (ha : a < 0x200 + 32 * i ∨ 0x200 + 32 * i + 32 ≤ a)
    (hv : (∃ d, r.dest = .v d) → a < 0x600 + 256 * i ∨ 0x600 + 256 * i + 256 ≤ a) :
    SMap.get 0 (r.capture g c i m) a = SMap.get 0 m a := by
  have hrec : SMap.get 0 (writeBytes m (0x200 + 32 * i) (r.recordBytes g c)) a = SMap.get 0 m a :=
    get_writeBytes_outside hw (by rw [Result.length_recordBytes]; exact ha)
  unfold Result.capture
  dsimp only
  split
  case isTrue hk =>
    rw [get_writeBytes_outside (Memory.wf_writeBytes hw) (by rw [length_toBytes]; exact hv (Result.kindOf_eq_one.1 hk)), hrec]
  case isFalse => exact hrec

theorem get_captureAll_outside (hw : Memory.wf m = true) {a : Nat}
    (ha : ∀ j < rs.length, a < 0x200 + 32 * (i + j) ∨ 0x200 + 32 * (i + j) + 32 ≤ a)
    (hv : ∀ j r d, rs[j]? = some r → r.dest = .v d → a < 0x600 + 256 * (i + j) ∨ 0x600 + 256 * (i + j) + 256 ≤ a) :
    SMap.get 0 (captureAll g c rs i m) a = SMap.get 0 m a := by
  induction rs generalizing g i m with
  | nil => rfl
  | cons r rs ih =>
    rw [captureAll_cons, ih (Memory.wf_capture hw) (fun j hj => ?_) (fun j r d hj hd => ?_)]
    · exact Result.get_capture_outside hw (ha 0 (by simp)) fun ⟨d, hd⟩ => hv 0 r d rfl hd
    · rw [Nat.add_right_comm]; exact ha (j + 1) (by simpa using hj)
    · rw [Nat.add_right_comm]; exact hv (j + 1) r d hj hd

/-- Behind its own record a capture writes nothing over it. -/
theorem readN_captureAll_record (hw : Memory.wf m = true) (hj : rs[j]? = some r) (hlen : i + rs.length ≤ 32) {o n : Nat}
    (hn : o + n ≤ 32) : readN (captureAll g c rs i m) (0x200 + 32 * (i + j) + o) n =
      bytesAt (r.recordBytes (landed g rs (j + 1)) c) o n := by
  induction rs generalizing g i m j with
  | nil => cases hj
  | cons r0 rs ih =>
    rw [List.length_cons] at hlen
    rw [captureAll_cons]
    cases j with
    | zero =>
      obtain rfl : r0 = r := Option.some_inj.1 hj
      rw [readN_congr (m' := writeBytes m (0x200 + 32 * i) (r0.recordBytes (g.land r0 false) c)) fun k hk => ?_]
      · exact readN_writeBytes_field hw (by rw [Result.length_recordBytes]; exact hn)
      · rw [get_captureAll_outside (Memory.wf_capture hw) (fun j hj => by omega) (fun j r d hj hd => by omega)]
        unfold Result.capture
        dsimp only
        split
        · exact get_writeBytes_outside (Memory.wf_writeBytes hw) (.inl (by omega))
        · rfl
    | succ j =>
      rw [show i + (j + 1) = i + 1 + j by omega]
      exact ih (Memory.wf_capture hw) hj (by omega)

theorem toNat_mod_pow {n : Nat} (x : BitVec (8 * n)) : x.toNat % 256 ^ n = x.toNat :=
  Nat.mod_eq_of_lt (x.isLt.trans_eq (Nat.pow_mul 2 8 n))

theorem readN_captureAll_value (hw : Memory.wf m = true) (hj : rs[j]? = some r) (hlen : i + rs.length ≤ 32) {d : BitVec 6}
    (hd : r.dest = .v d) : readN (captureAll g c rs i m) (0x600 + 256 * (i + j)) 256 = (rd (landed g rs (j + 1)).v d).toNat := by
  induction rs generalizing g i m j with
  | nil => cases hj
  | cons r0 rs ih =>
    rw [List.length_cons] at hlen
    rw [captureAll_cons]
    cases j with
    | zero =>
      obtain rfl : r0 = r := Option.some_inj.1 hj
      have hcap : r0.capture (g.land r0 false) c i m = writeBytes (writeBytes m (0x200 + 32 * i) (r0.recordBytes (g.land r0 false) c))
          (0x600 + 256 * i) (toBytes 256 (rd (g.land r0 false).v d).toNat) := by
        simp only [Result.capture, Result.kindOf, hd, if_true]
      rw [readN_congr (m' := r0.capture (g.land r0 false) c i m) fun k hk =>
        get_captureAll_outside (Memory.wf_capture hw) (fun j hj => by omega) (fun j r d hj hd => by omega), hcap, Nat.add_zero,
        readN_writeBytes (Memory.wf_writeBytes hw)]
      exact toNat_mod_pow (n := 256) (rd (g.land r0 false).v d)
    | succ j =>
      rw [show i + (j + 1) = i + 1 + j by omega]
      exact ih (Memory.wf_capture hw) hj (by omega)

end Capture
/-! ## The frame (R354 to R358) -/

/-- The 64 bytes of the frame's header. -/
def Tile.headerBytes (x : Tile) (c now n : Nat) : List Byte :=
  let g := x.prim.regs
  toBytes 8 x.tcause.toNat ++ toBytes 8 x.tpc.toNat ++ toBytes 8 x.tmask.toNat ++ toBytes 8 x.taddr.toNat ++ toBytes 8 c ++
    toBytes 8 now ++ toBytes 8 g.lc.toNat ++
    toBytes 4 (g.ec.toNat + g.rrb.toNat * 2 ^ 8 + g.epoch.toNat * 2 ^ 16 + x.prim.loops.length * 2 ^ 24) ++ toBytes 4 n

/-- The six loop levels of the frame. -/
def levelsBytes (ls : List Level) : List Byte := ls.flatMap levelBytes ++ toBytes (24 * (6 - ls.length)) 0

/-- s60 to s63. -/
def Regs.topBytes (g : Regs) : List Byte := ([60, 61, 62, 63] : List (BitVec 6)).flatMap fun i => toBytes 8 (rd g.s i).toNat

/-- The tags of s60 to s63, and the eight bytes behind them. -/
def Regs.topTagBytes (g : Regs) : List Byte :=
  (([60, 61, 62, 63] : List (BitVec 6)).flatMap fun i => toBytes 2 (rd g.st i).toNat) ++ toBytes 8 0

/-- The scratchpad with the frame's first 256 bytes written. -/
def Tile.headFrame (x : Tile) (c now n : Nat) : List Host.Cell :=
  writeBytes (writeBytes (writeBytes (writeBytes x.spad 0x100 (x.headerBytes c now n)) 0x140 (levelsBytes x.prim.loops))
    0x1D0 x.prim.regs.topBytes) 0x1F0 x.prim.regs.topTagBytes

/-- The scratchpad with the frame written. -/
def Tile.frame (x : Tile) (c now : Nat) (rs : List Result) : List Host.Cell :=
  writeBytes (captureAll x.prim.regs c rs 0 (x.headFrame c now rs.length)) (0x200 + 32 * rs.length) (toBytes (32 * (32 - rs.length)) 0)

section Frame
variable {x : Tile} {c now n : Nat} {rs : List Result}

theorem Tile.length_headerBytes : (x.headerBytes c now n).length = 64 := by
  simp only [Tile.headerBytes, List.length_append, length_toBytes]

theorem length_levelBytes (l : Level) : (levelBytes l).length = 24 := by
  simp only [levelBytes, List.length_append, length_toBytes]

theorem levelBytes_fields (l : Level) :
    bytesAt (levelBytes l) 0 4 = l.start % 2 ^ 32 ∧ bytesAt (levelBytes l) 4 4 = l.fl.toNat * 2 ^ 29 + l.last % 2 ^ 29 ∧
    bytesAt (levelBytes l) 8 8 = l.count.toNat ∧ bytesAt (levelBytes l) 16 8 = l.index.toNat := by
  have hfl := l.fl.isLt
  simp only [bytesAt, levelBytes, List.append_assoc, drop_toBytes_append, List.drop_zero, Nat.reduceSub, Nat.reduceLeDiff,
    take_toBytes_append, take_toBytes, ofBytes_toBytes]
  omega

theorem length_flatMap_const {α : Type} {f : α → List Byte} {k : Nat} (l : List α) (hf : ∀ x, (f x).length = k) :
    (l.flatMap f).length = k * l.length := by
  induction l with
  | nil => rfl
  | cons x l ih => rw [List.flatMap_cons, List.length_append, hf, ih, List.length_cons, Nat.mul_succ, Nat.add_comm]

theorem length_levelsBytes {ls : List Level} (h : ls.length ≤ 6) : (levelsBytes ls).length = 144 := by
  rw [levelsBytes, List.length_append, length_flatMap_const ls length_levelBytes, length_toBytes]
  omega

theorem Regs.length_topBytes (g : Regs) : g.topBytes.length = 32 :=
  length_flatMap_const [60, 61, 62, 63] fun _ => length_toBytes ..

theorem Regs.length_topTagBytes (g : Regs) : g.topTagBytes.length = 16 := by
  rw [Regs.topTagBytes, List.length_append, length_flatMap_const [60, 61, 62, 63] fun _ => length_toBytes .., length_toBytes]
  rfl

theorem Tile.wf_headFrame (hw : Memory.wf x.spad = true) : Memory.wf (x.headFrame c now n) = true :=
  Memory.wf_writeBytes (Memory.wf_writeBytes (Memory.wf_writeBytes (Memory.wf_writeBytes hw)))

theorem Memory.wf_captureAll {g : Regs} {i : Nat} {m : List Host.Cell} (hw : Memory.wf m = true) :
    Memory.wf (captureAll g c rs i m) = true := by
  induction rs generalizing g i m with
  | nil => exact hw
  | cons r rs ih => exact ih (Memory.wf_capture hw)

variable (hw : Memory.wf x.spad = true) (hrs : rs.length ≤ 32)
include hw hrs

theorem Tile.get_frame_low {a : Nat} (ha : a < 0x200) :
    SMap.get 0 (x.frame c now rs) a = SMap.get 0 (x.headFrame c now rs.length) a := by
  rw [Tile.frame, get_writeBytes_outside (Memory.wf_captureAll (Tile.wf_headFrame hw)) (.inl (by omega)),
    get_captureAll_outside (Tile.wf_headFrame hw) (fun j hj => .inl (by omega)) (fun j r d hj hd => .inl (by omega))]

theorem Tile.readN_frame_low {a n : Nat} (ha : a + n ≤ 0x200) :
    readN (x.frame c now rs) a n = readN (x.headFrame c now rs.length) a n :=
  readN_congr fun k hk => Tile.get_frame_low hw hrs (by omega)

variable (hl : x.prim.loops.length ≤ 6)

theorem Tile.readN_frame_tags {o n : Nat} (hn : o + n ≤ 16) :
    readN (x.frame c now rs) (0x1F0 + o) n = bytesAt x.prim.regs.topTagBytes o n := by
  rw [Tile.readN_frame_low hw hrs (by omega), Tile.headFrame, readN_writeBytes_field
    (Memory.wf_writeBytes (Memory.wf_writeBytes (Memory.wf_writeBytes hw))) (by rw [Regs.length_topTagBytes]; exact hn)]

theorem Tile.readN_frame_top {o n : Nat} (hn : o + n ≤ 32) :
    readN (x.frame c now rs) (0x1D0 + o) n = bytesAt x.prim.regs.topBytes o n := by
  have hw' := Memory.wf_writeBytes (bs := levelsBytes x.prim.loops) (a := 0x140)
    (Memory.wf_writeBytes (bs := x.headerBytes c now rs.length) (a := 0x100) hw)
  rw [Tile.readN_frame_low hw hrs (by omega), Tile.headFrame, readN_writeBytes_outside (Memory.wf_writeBytes hw') (.inl (by omega)),
    readN_writeBytes_field hw' (by rw [Regs.length_topBytes]; exact hn)]

include hl

theorem Tile.readN_frame_levels {o n : Nat} (hn : o + n ≤ 144) :
    readN (x.frame c now rs) (0x140 + o) n = bytesAt (levelsBytes x.prim.loops) o n := by
  have hw' := Memory.wf_writeBytes (bs := x.headerBytes c now rs.length) (a := 0x100) hw
  rw [Tile.readN_frame_low hw hrs (by omega), Tile.headFrame,
    readN_writeBytes_outside (Memory.wf_writeBytes (Memory.wf_writeBytes hw')) (.inl (by omega)),
    readN_writeBytes_outside (Memory.wf_writeBytes hw') (.inl (by omega)),
    readN_writeBytes_field hw' (by rw [length_levelsBytes hl]; exact hn)]

omit hl in
theorem Tile.readN_frame_header {o n : Nat} (hn : o + n ≤ 64) :
    readN (x.frame c now rs) (0x100 + o) n = bytesAt (x.headerBytes c now rs.length) o n := by
  have hw' := Memory.wf_writeBytes (bs := x.headerBytes c now rs.length) (a := 0x100) hw
  rw [Tile.readN_frame_low hw hrs (by omega), Tile.headFrame,
    readN_writeBytes_outside (Memory.wf_writeBytes (Memory.wf_writeBytes hw')) (.inl (by omega)),
    readN_writeBytes_outside (Memory.wf_writeBytes hw') (.inl (by omega)), readN_writeBytes_outside hw' (.inl (by omega)),
    readN_writeBytes_field hw (by rw [Tile.length_headerBytes]; exact hn)]

omit hl in
theorem Tile.readN_frame_record {j o n : Nat} {r : Result} (hj : rs[j]? = some r) (hn : o + n ≤ 32) :
    readN (x.frame c now rs) (0x200 + 32 * j + o) n = bytesAt (r.recordBytes (landed x.prim.regs rs (j + 1)) c) o n := by
  have hlt := (List.getElem?_eq_some_iff.1 hj).1
  rw [Tile.frame, readN_writeBytes_outside (Memory.wf_captureAll (Tile.wf_headFrame hw)) (.inl (by omega))]
  have h := readN_captureAll_record (g := x.prim.regs) (c := c) (i := 0) (o := o) (n := n)
    (Tile.wf_headFrame (c := c) (now := now) (n := rs.length) hw) hj (by omega) hn
  rwa [Nat.zero_add] at h

omit hl in
theorem Tile.readN_frame_value {j : Nat} {r : Result} {d : BitVec 6} (hj : rs[j]? = some r) (hd : r.dest = .v d) :
    readN (x.frame c now rs) (0x600 + 256 * j) 256 = (rd (landed x.prim.regs rs (j + 1)).v d).toNat := by
  rw [Tile.frame, readN_writeBytes_outside (Memory.wf_captureAll (Tile.wf_headFrame hw)) (.inr (by rw [length_toBytes]; omega))]
  have h := readN_captureAll_value (g := x.prim.regs) (c := c) (i := 0)
    (Tile.wf_headFrame (c := c) (now := now) (n := rs.length) hw) hj (by omega) hd
  rwa [Nat.zero_add] at h

omit hl in
/-- Behind the last record the frame holds zeros. -/
theorem Tile.readN_frame_empty {j : Nat} (h : rs.length ≤ j) (hj : j < 32) : readN (x.frame c now rs) (0x200 + 32 * j) 32 = 0 := by
  rw [Tile.frame, show 0x200 + 32 * j = 0x200 + 32 * rs.length + 32 * (j - rs.length) by omega,
    readN_writeBytes_field (Memory.wf_captureAll (Tile.wf_headFrame hw)) (by rw [length_toBytes]; omega), toBytes_zero,
    bytesAt_replicate_zero]

omit hrs in
theorem Tile.get_headFrame_outside {a n : Nat} (ha : a < 0x100 ∨ 0x200 ≤ a) :
    SMap.get 0 (x.headFrame c now n) a = SMap.get 0 x.spad a := by
  have hw' := Memory.wf_writeBytes (bs := x.headerBytes c now n) (a := 0x100) hw
  rw [Tile.headFrame,
    get_writeBytes_outside (Memory.wf_writeBytes (Memory.wf_writeBytes hw')) (by rw [Regs.length_topTagBytes]; omega),
    get_writeBytes_outside (Memory.wf_writeBytes hw') (by rw [Regs.length_topBytes]; omega),
    get_writeBytes_outside hw' (by rw [length_levelsBytes hl]; omega),
    get_writeBytes_outside hw (by rw [Tile.length_headerBytes]; omega)]

theorem Tile.get_frame_below {a : Nat} (ha : a < 0x100) : SMap.get 0 (x.frame c now rs) a = SMap.get 0 x.spad a := by
  rw [Tile.get_frame_low hw hrs (by omega), Tile.get_headFrame_outside hw hl (.inl ha)]

/-- Where no value slot stands, behind the records, the scratchpad is as it was. -/
theorem Tile.get_frame_high {a : Nat} (ha : 0x600 ≤ a)
    (hv : ∀ j r d, rs[j]? = some r → r.dest = .v d → a < 0x600 + 256 * j ∨ 0x600 + 256 * j + 256 ≤ a) :
    SMap.get 0 (x.frame c now rs) a = SMap.get 0 x.spad a := by
  rw [Tile.frame, get_writeBytes_outside (Memory.wf_captureAll (Tile.wf_headFrame hw)) (.inr (by rw [length_toBytes]; omega)),
    get_captureAll_outside (Tile.wf_headFrame hw) (fun j hj => .inr (by omega))
      (fun j r d hj hd => by rw [Nat.zero_add]; exact hv j r d hj hd),
    Tile.get_headFrame_outside hw hl (.inr (by omega))]

omit hl in
/-- The header, field by field (R354). -/
theorem Tile.frame_header (hl : x.prim.loops.length ≤ 6) :
    let m := x.frame c now rs
    readN m 0x100 8 = x.tcause.toNat ∧ readN m 0x108 8 = x.tpc.toNat ∧ readN m 0x110 8 = x.tmask.toNat ∧
    readN m 0x118 8 = x.taddr.toNat ∧ readN m 0x120 8 = c % 2 ^ 64 ∧ readN m 0x128 8 = now % 2 ^ 64 ∧ readN m 0x130 8 = x.prim.regs.lc.toNat ∧
    readN m 0x138 4 = x.prim.regs.ec.toNat + x.prim.regs.rrb.toNat * 2 ^ 8 + x.prim.regs.epoch.toNat * 2 ^ 16 + x.prim.loops.length * 2 ^ 24 ∧
    readN m 0x13C 4 = rs.length := by
  have hread (o n : Nat) (hn : o + n ≤ 64) := Tile.readN_frame_header (c := c) (now := now) hw hrs hn
  intro m
  have hec := x.prim.regs.ec.isLt
  have hrrb := x.prim.regs.rrb.isLt
  have hepoch := x.prim.regs.epoch.isLt
  refine ⟨(hread 0 8 (by omega)).trans ?_, (hread 8 8 (by omega)).trans ?_, (hread 0x10 8 (by omega)).trans ?_,
    (hread 0x18 8 (by omega)).trans ?_, (hread 0x20 8 (by omega)).trans ?_, (hread 0x28 8 (by omega)).trans ?_,
    (hread 0x30 8 (by omega)).trans ?_, (hread 0x38 4 (by omega)).trans ?_, (hread 0x3C 4 (by omega)).trans ?_⟩ <;>
  simp only [bytesAt, Tile.headerBytes, List.append_assoc, drop_toBytes_append, List.drop_zero, Nat.reduceSub, Nat.reduceLeDiff,
    take_toBytes_append, take_toBytes, ofBytes_toBytes]
  all_goals omega

/-- A loop level's fields in the frame (R356). -/
theorem Tile.frame_level {i : Nat} {l : Level} (hi : x.prim.loops[i]? = some l) :
    let m := x.frame c now rs
    let a := 0x140 + 24 * i
    readN m a 4 = l.start % 2 ^ 32 ∧ readN m (a + 4) 4 = l.fl.toNat * 2 ^ 29 + l.last % 2 ^ 29 ∧
    readN m (a + 8) 8 = l.count.toNat ∧ readN m (a + 16) 8 = l.index.toNat := by
  have hlt := (List.getElem?_eq_some_iff.1 hi).1
  have hread (o n : Nat) (hn : o + n ≤ 24) : readN (x.frame c now rs) (0x140 + 24 * i + o) n = bytesAt (levelBytes l) o n := by
    rw [Nat.add_assoc, Tile.readN_frame_levels hw hrs hl (by omega), levelsBytes,
      bytesAt_append_left (by rw [length_flatMap_const _ length_levelBytes]; omega), bytesAt_flatMap length_levelBytes hi hn]
  obtain ⟨hstart, hlast, hcount, hindex⟩ := levelBytes_fields l
  exact ⟨(hread 0 4 (by omega)).trans hstart, (hread 4 4 (by omega)).trans hlast, (hread 8 8 (by omega)).trans hcount,
    (hread 16 8 (by omega)).trans hindex⟩

theorem Tile.frame_noLevel {i : Nat} (hi : x.prim.loops.length ≤ i) (hi6 : i < 6) : readN (x.frame c now rs) (0x140 + 24 * i) 24 = 0 := by
  rw [Tile.readN_frame_levels hw hrs hl (by omega), levelsBytes,
    bytesAt_append_right (by rw [length_flatMap_const _ length_levelBytes]; omega), toBytes_zero, bytesAt_replicate_zero]

omit hl in
/-- s60 to s63 and their tags. -/
theorem Tile.frame_top {i : Nat} (hi : i < 4) :
    readN (x.frame c now rs) (0x1D0 + 8 * i) 8 = (rd x.prim.regs.s (BitVec.ofNat 6 (60 + i))).toNat ∧
    readN (x.frame c now rs) (0x1F0 + 2 * i) 2 = (rd x.prim.regs.st (BitVec.ofNat 6 (60 + i))).toNat := by
  have hget : ([60, 61, 62, 63] : List (BitVec 6))[i]? = some (BitVec.ofNat 6 (60 + i)) := by
    interval_cases i <;> rfl
  have hs := bytesAt_flatMap (f := fun i => toBytes 8 (rd x.prim.regs.s i).toNat) (o := 0) (n := 8) (fun _ => length_toBytes ..) hget (by omega)
  have hst := bytesAt_flatMap (f := fun i => toBytes 2 (rd x.prim.regs.st i).toNat) (o := 0) (n := 2) (fun _ => length_toBytes ..) hget
    (by omega)
  constructor
  · rw [Tile.readN_frame_top hw hrs (by omega), Regs.topBytes]
    refine hs.trans ?_
    rw [bytesAt, List.drop_zero, take_toBytes, ofBytes_toBytes]
    exact toNat_mod_pow (n := 8) (rd x.prim.regs.s (BitVec.ofNat 6 (60 + i)))
  · rw [Tile.readN_frame_tags hw hrs (by omega), Regs.topTagBytes,
      bytesAt_append_left (by rw [length_flatMap_const _ fun _ => length_toBytes ..]; simp; omega)]
    refine hst.trans ?_
    rw [bytesAt, List.drop_zero, take_toBytes, ofBytes_toBytes]
    exact toNat_mod_pow (n := 2) (rd x.prim.regs.st (BitVec.ofNat 6 (60 + i)))

omit hl in
theorem Tile.frame_pad : readN (x.frame c now rs) 0x1F8 8 = 0 := by
  have h := Tile.readN_frame_tags (c := c) (now := now) hw hrs (o := 8) (n := 8) (by omega)
  rw [Regs.topTagBytes,
    bytesAt_append_right (by rw [length_flatMap_const _ fun _ => length_toBytes ..]; simp), toBytes_zero, bytesAt_replicate_zero] at h
  exact h

end Frame

/-! ## The fields of a record (R357) -/

section Record
variable (r : Result) (g : Regs) (c : Nat)

theorem Result.recordBytes_fields :
    let k := r.kindOf g
    bytesAt (r.recordBytes g c) 0 4 = 2 ^ 31 + k.1 * 2 ^ 28 + k.2.1.toNat * 2 ^ 22 + r.vf.toNat * 2 ^ 15 + r.mf.toNat * 2 ^ 11 ∧
    bytesAt (r.recordBytes g c) 4 2 = r.recordTag.toNat ∧ bytesAt (r.recordBytes g c) 6 2 = (r.land - c) % 2 ^ 16 ∧
    bytesAt (r.recordBytes g c) 8 8 = k.2.2.1.toNat ∧ bytesAt (r.recordBytes g c) 16 16 = 0 := by
  have hk : (r.kindOf g).1 ≤ 3 := by
    unfold Result.kindOf
    cases r.dest <;> simp
  have hreg := (r.kindOf g).2.1.isLt
  have hvf := r.vf.isLt
  have hmf := r.mf.isLt
  simp only [bytesAt, Result.recordBytes, List.append_assoc, drop_toBytes_append, List.drop_zero, Nat.reduceSub, Nat.reduceLeDiff,
    take_toBytes_append, take_toBytes, ofBytes_toBytes]
  refine ⟨?_, ?_, ?_, ?_, ?_⟩ <;> omega

end Record

/-! ## The tile that has entered handler mode -/

theorem Tile.scrub_eq (x : Tile) (ln : Nat) :
    x.scrub ln = { x with soft := (x.scrub ln).soft, ecc := (x.scrub ln).ecc, tecc := (x.scrub ln).tecc } := rfl

/-- Reading lines corrects errors and changes nothing else. -/
theorem Tile.foldl_scrub_eq (x : Tile) (ls : List Nat) : ∃ n e te, ls.foldl (fun (x : Tile) ln => x.scrub ln) x =
    { x with soft := n, ecc := e, tecc := te } := by
  induction ls generalizing x with
  | nil => exact ⟨x.soft, x.ecc, x.tecc, rfl⟩
  | cons ln ls ih =>
    obtain ⟨n, e, te, h⟩ := ih (x.scrub ln)
    exact ⟨n, e, te, h⟩

theorem vectorAt_ofNat (n : Nat) : vectorAt (BitVec.ofNat 6 n) =
    let code := n % 64
    if code = 0x1A then 0 else if code = 0x1B then 4 else if code = 0x1C then 8 else 12 := by
  simp only [vectorAt, ← BitVec.toNat_inj, BitVec.toNat_ofNat, Nat.reducePow]
  rfl

/-- The tile as it enters handler mode, whether or not its first fetch fails. -/
theorem State.Canon.tile_enterHandler {s : State} (hs : s.Canon) {t c : Nat} {x y : Tile} {rs : List Result} {m : List Host.Cell}
    (hx : x = s.tile t) (hrs : rs = sortBy resultLe (x.prim.inflight.filter fun r => decide (c ≤ r.land)))
    (hm : m = x.frame c s.ptime.toNat rs) (hy : y = (s.enterHandler t c).tile t) :
    (∃ h, y.hm = some h ∧ h.cyc = c ∧ h.first = s.ptime.toNat + 9 + rs.length ∧ h.rstack = [] ∧ h.issued = none ∧ h.flight = [] ∧
      h.pc = readN m (vectorAt (BitVec.ofNat 6 x.tcause.toNat)) 4 / 4) ∧
    y.prim.loops = [] ∧ y.prim.regs = { x.prim.regs with lc := 0, ec := 0, rrb := 0 } ∧
    y.prim.inflight = x.prim.inflight.filter (fun r => decide (r.land < c)) ∧ y.spad = m := by
  obtain ⟨n, e, te, hscrub⟩ := Tile.foldl_scrub_eq (s.tile t) (List.range 6)
  have hwm : Memory.wf m = true := hm ▸ Memory.wf_writeBytes (Memory.wf_captureAll (Tile.wf_headFrame (hx ▸ hs.tile t)))
  subst hx hrs
  simp only [Tile.frame, Tile.headFrame, Tile.headerBytes, levelsBytes, Regs.topBytes, Regs.topTagBytes] at hm
  simp only [State.enterHandler, hscrub, ← hm] at hy
  split at hy
  case isTrue =>
    rw [State.double, State.Canon.tile_updTile_same (hs.setTile hwm), hs.tile_setTile, if_pos rfl] at hy
    subst hy
    exact ⟨⟨_, rfl, rfl, rfl, rfl, rfl, rfl, rfl⟩, rfl, rfl, rfl, rfl⟩
  case isFalse =>
    rw [hs.tile_setTile, if_pos rfl] at hy
    subst hy
    exact ⟨⟨_, rfl, rfl, rfl, rfl, rfl, rfl, rfl⟩, rfl, rfl, rfl, rfl⟩

end Sys2Proof.Machine

open Sys2Proof Sys2Proof.Machine

/-- Settles O23: the bytes the entry writes are read back field by field, the records in the order of their capture. -/
theorem enterHandler : Obligations.EnterHandler := by
  unfold Obligations.EnterHandler
  intro s t c hs x g rs sorted y hrs hloops
  have hperm : sorted.Perm rs := perm_sortBy rs
  have hpairwise : sorted.Pairwise _ := pairwise_sortBy_resultLe rs
  have hlen : sorted.length ≤ 32 := hperm.length_eq ▸ hrs
  have hw : Memory.wf x.spad = true := hs.tile t
  obtain ⟨⟨h, hhm, hcyc, hfirst, hstack, hissued, hflight, hpc⟩, hnoLoops, hregs, hinflight, hspad⟩ :=
    hs.tile_enterHandler (x := x) (rs := sorted) rfl rfl rfl (rfl : y = _)
  clear_value y sorted rs x
  rw [readN_congr fun k hk => Tile.get_frame_below hw hlen hloops (by unfold vectorAt; split_ifs <;> omega)] at hpc
  obtain ⟨hcause, htpc, hmask, haddr, hc, hnow, hlc, hst, hn⟩ := Tile.frame_header (x := x) (c := c) (now := s.ptime.toNat) hw hlen hloops
  rw [hspad]
  refine ⟨⟨h, hhm, hcyc, hperm.length_eq ▸ hfirst, hstack, hissued, hflight, hpc.trans ?_⟩, hnoLoops, hregs, hinflight, hcause, htpc,
    hmask, haddr, hc, hnow.trans (Nat.mod_eq_of_lt s.ptime.isLt), hlc, hst, hperm.length_eq ▸ hn,
    fun i l hi => Tile.frame_level hw hlen hloops hi, fun i hi => Tile.frame_noLevel hw hlen hloops hi,
    fun i hi => Tile.frame_top hw hlen hi, Tile.frame_pad hw hlen, hperm, hpairwise, fun i r hi => ?_,
    fun i hi => Tile.readN_frame_empty hw hlen (hperm.length_eq ▸ hi), fun i hi hnv b hb => ?_, fun a ha => ?_⟩
  · exact congrArg (fun a => readN x.spad a 4 / 4) (vectorAt_ofNat x.tcause.toNat)
  · intro a gi written
    have hread (o n : Nat) (hn : o + n ≤ 32) := Tile.readN_frame_record (c := c) (now := s.ptime.toNat) hw hlen hi hn
    obtain ⟨hword, htag, hremain, hvalue, hzero⟩ := r.recordBytes_fields gi c
    have hwritten : written (r.kindOf gi).1 (r.kindOf gi).2.1.toNat r.recordTag.toNat (r.kindOf gi).2.2.1.toNat :=
      ⟨(hread 0 4 (by omega)).trans hword, (hread 4 2 (by omega)).trans htag, (hread 6 2 (by omega)).trans hremain,
        (hread 8 8 (by omega)).trans hvalue, (hread 16 16 (by omega)).trans hzero⟩
    have hvec (d : BitVec 6) (hd : r.dest = .v d) : readN (x.frame c s.ptime.toNat sorted) (0x600 + 256 * i) 256 = (rd gi.v d).toNat :=
      Tile.readN_frame_value hw hlen hi hd
    clear_value written gi
    unfold Result.kindOf Result.recordTag at hwritten
    cases hd : r.dest <;> simp only [hd, BitVec.toNat_setWidth] at hwritten ⊢
    case s d => exact hwritten
    case v d => exact ⟨hwritten, hvec d hd⟩
    case p d =>
      rw [Nat.mod_eq_of_lt (d.isLt.trans (by omega))] at hwritten
      exact hwritten
    case q d =>
      rw [Nat.mod_eq_of_lt (d.isLt.trans (by omega))] at hwritten
      by_cases hd0 : d = 0
      · rw [if_pos hd0, BitVec.toNat_setWidth] at hwritten
        rw [if_pos hd0]
        exact hwritten
      · rw [if_neg hd0] at hwritten ⊢
        exact hwritten
  · refine Tile.get_frame_high hw hlen hloops (by omega) fun j r d hj hd => ?_
    have hij : j ≠ i := fun h => hnv r d (h ▸ hj) hd
    omega
  · obtain ha | ha := ha
    · exact Tile.get_frame_below hw hlen hloops ha
    · refine Tile.get_frame_high hw hlen hloops (by omega) fun j r d hj hd => ?_
      have hlt := (List.getElem?_eq_some_iff.1 hj).1
      omega

end

section
/-! PROOFS. Leaving handler mode: what the frame gives back, field by field. -/

namespace Sys2Proof.Machine

/-! ## What a record of the frame is as a result (R357, R359) -/

section Record
variable (m : List Host.Cell) (c i : Nat)

/-- The result of a record, but for its register and its value. -/
def frameResult (d : Dest) (v : Nat) : Result :=
  let a := 0x200 + 32 * i
  let w := readN m a 4
  { land := c + readN m (a + 6) 2, issue := 0, slot := i, dest := d, value := BitVec.ofNat (8 * 256) v, lanes := BitVec.allOnes 64,
    tag := BitVec.ofNat 16 (readN m (a + 4) 2), vf := fld w 15 7, mf := fld w 11 4 }

variable {m c i}

theorem readN_eq_zero_or_one_top (a : Nat) : readN m a 4 / 2 ^ 31 < 2 := by
  have h := readN_lt m a 4
  omega

theorem ofNat_field {n k : Nat} (w lo : Nat) (h : n ≤ k) : BitVec.ofNat n (field w lo k) = fld w lo n :=
  BitVec.eq_of_toNat_eq (by simp [field, fld, Nat.mod_mod_of_dvd _ (Nat.pow_dvd_pow 2 h)])

/-- The register and the value a record's kind selects, from the memory the record stands in. -/
def frameDest (m : List Host.Cell) (i : Nat) : Nat → Option (Dest × Nat)
  | 0 => some (.s (fld (readN m (0x200 + 32 * i) 4) 22 6), readN m (0x200 + 32 * i + 8) 8)
  | 1 => some (.v (fld (readN m (0x200 + 32 * i) 4) 22 6), readN m (0x600 + 256 * i) 256)
  | 2 => some (.p (fld (readN m (0x200 + 32 * i) 4) 22 4), readN m (0x200 + 32 * i + 8) 8 % 2)
  | 3 => some (.q (fld (readN m (0x200 + 32 * i) 4) 22 3), readN m (0x200 + 32 * i + 8) 8)
  | _ => none

theorem isSome_frameDest {k : Nat} : (frameDest m i k).isSome ↔ k < 4 := by
  match k with
  | 0 | 1 | 2 | 3 => simp [frameDest]
  | k + 4 => simp [frameDest]

theorem frameRecord_eq : frameRecord m c i =
    if readN m (0x200 + 32 * i) 4 / 2 ^ 31 = 1
    then (frameDest m i (readN m (0x200 + 32 * i) 4 / 2 ^ 28 % 8)).map fun d => frameResult m c i d.1 d.2
    else none := by
  have htop := readN_eq_zero_or_one_top (m := m) (0x200 + 32 * i)
  unfold frameRecord
  dsimp only
  by_cases h1 : readN m (0x200 + 32 * i) 4 / 2 ^ 31 = 1
  · rw [if_pos h1, if_neg (by unfold field; omega)]
    simp only [ofNat_field (n := 3) (k := 6) _ _ (by omega), ofNat_field (n := 4) (k := 6) _ _ (by omega), ofNat_field _ _ le_rfl]
    rw [show field (readN m (0x200 + 32 * i) 4) 28 3 = readN m (0x200 + 32 * i) 4 / 2 ^ 28 % 8 from rfl]
    generalize readN m (0x200 + 32 * i) 4 / 2 ^ 28 % 8 = k
    match k with
    | 0 | 1 | 2 | 3 => rfl
    | _ + 4 => rfl
  · rw [if_neg h1, if_pos (by unfold field; omega)]

/-- A result that leaving adds is that of a record with V = 1 and a kind of its own. -/
theorem frameRecord_some {r : Result} (h : frameRecord m c i = some r) :
    r.slot = i ∧ readN m (0x200 + 32 * i) 4 / 2 ^ 31 = 1 ∧ readN m (0x200 + 32 * i) 4 / 2 ^ 28 % 8 < 4 := by
  rw [frameRecord_eq] at h
  split at h
  case isTrue h1 =>
    obtain ⟨d, hd, rfl⟩ := Option.map_eq_some_iff.1 h
    exact ⟨rfl, h1, isSome_frameDest.1 (Option.isSome_of_mem hd)⟩
  case isFalse => cases h

theorem frameRecord_of_dest {k : Nat} {d : Dest × Nat} (h1 : readN m (0x200 + 32 * i) 4 / 2 ^ 31 = 1)
    (hk : readN m (0x200 + 32 * i) 4 / 2 ^ 28 % 8 = k) (hd : frameDest m i k = some d) :
    frameRecord m c i = some (frameResult m c i d.1 d.2) := by
  rw [frameRecord_eq, if_pos h1, hk, hd, Option.map_some]

theorem frameResult_fields (d : Dest) (v : Nat) :
    let r := frameResult m c i d v
    r.tag.toNat = readN m (0x200 + 32 * i + 4) 2 ∧ r.vf.toNat = readN m (0x200 + 32 * i) 4 / 2 ^ 15 % 2 ^ 7 ∧
    r.mf.toNat = readN m (0x200 + 32 * i) 4 / 2 ^ 11 % 2 ^ 4 ∧ (∀ l < 64, r.lanes.getLsbD l = true) :=
  ⟨(BitVec.toNat_ofNat ..).trans (Nat.mod_eq_of_lt (readN_lt ..)), BitVec.toNat_ofNat .., BitVec.toNat_ofNat ..,
    fun l hl => by rw [frameResult, BitVec.getLsbD_allOnes, decide_eq_true hl]⟩

theorem toNat_ofNat_of_lt_pow {n v : Nat} (hv : v < 256 ^ n) : (BitVec.ofNat (8 * n) v).toNat = v :=
  (BitVec.toNat_ofNat ..).trans (Nat.mod_eq_of_lt (hv.trans_eq (Nat.pow_mul 2 8 n).symm))

theorem frameResult_value {d : Dest} {v : Nat} (hv : v < 256 ^ 256) : (frameResult m c i d v).value.toNat = v :=
  toNat_ofNat_of_lt_pow hv

/-- The value a record's kind selects fits a register. -/
theorem frameDest_lt {k : Nat} {d : Dest × Nat} (hd : frameDest m i k = some d) : d.2 < 256 ^ 256 := by
  have hvalue := readN_lt m (0x200 + 32 * i + 8) 8
  have h8 : 256 ^ 8 < 256 ^ 256 := Nat.pow_lt_pow_right (by omega) (by omega)
  match k with
  | 0 | 3 => cases hd; exact hvalue.trans h8
  | 1 => cases hd; exact readN_lt ..
  | 2 => cases hd; exact ((Nat.mod_le ..).trans_lt hvalue).trans h8
  | _ + 4 => cases hd

end Record

/-! ## s60 to s63 from the frame -/

/-- The registers with the last `n` of s60 to s63, and their tags, from the frame. -/
def Regs.restoreTop (g : Regs) (m : List Host.Cell) : Regs := (List.range 4).foldl (fun g i =>
  let r := BitVec.ofNat 6 (60 + i)
  { g with s := wr g.s r (BitVec.ofNat 64 (readN m (0x1D0 + 8 * i) 8)),
           st := wr g.st r (BitVec.ofNat 16 (readN m (0x1F0 + 2 * i) 2)) }) g

section Top
variable (g : Regs) (m : List Host.Cell)

theorem Regs.restoreTop_eq : g.restoreTop m = { g with s := (g.restoreTop m).s, st := (g.restoreTop m).st } := rfl

theorem Regs.rd_restoreTop {i : Nat} (hi : i < 4) :
    (rd (g.restoreTop m).s (BitVec.ofNat 6 (60 + i))).toNat = readN m (0x1D0 + 8 * i) 8 ∧
    (rd (g.restoreTop m).st (BitVec.ofNat 6 (60 + i))).toNat = readN m (0x1F0 + 2 * i) 2 := by
  have h8 (a : Nat) : readN m a 8 < 18446744073709551616 := readN_lt m a 8
  have h2 (a : Nat) : readN m a 2 < 65536 := readN_lt m a 2
  simp only [Regs.restoreTop, show List.range 4 = [0, 1, 2, 3] from rfl, List.foldl_cons, List.foldl_nil]
  interval_cases i <;> simp [rd_wr, h8, h2]

theorem Regs.rd_restoreTop_low {i : BitVec 6} (hi : i.toNat < 60) :
    rd (g.restoreTop m).s i = rd g.s i ∧ rd (g.restoreTop m).st i = rd g.st i := by
  have hne (j : BitVec 6) (hj : 60 ≤ j.toNat) : i ≠ j := fun h => by rw [h] at hi; omega
  simp only [Regs.restoreTop, show List.range 4 = [0, 1, 2, 3] from rfl, List.foldl_cons, List.foldl_nil]
  simp [rd_wr, hne 60#6 (by decide), hne 61#6 (by decide), hne 62#6 (by decide), hne 63#6 (by decide)]

end Top

theorem frameLevel_fields (m : List Host.Cell) (i : Nat) :
    let l := frameLevel m i
    let a := 0x140 + 24 * i
    l.start = readN m a 4 ∧ l.last = readN m (a + 4) 4 % 2 ^ 29 ∧ l.fl.toNat = readN m (a + 4) 4 / 2 ^ 29 ∧
    l.count.toNat = readN m (a + 8) 8 ∧ l.index.toNat = readN m (a + 16) 8 := by
  have hw := readN_lt m (0x140 + 24 * i + 4) 4
  refine ⟨rfl, rfl, (BitVec.toNat_ofNat ..).trans (Nat.mod_eq_of_lt (by omega)),
    (BitVec.toNat_ofNat ..).trans (Nat.mod_eq_of_lt (readN_lt ..)), (BitVec.toNat_ofNat ..).trans (Nat.mod_eq_of_lt (readN_lt ..))⟩

/-- The registers the frame gives back. -/
def Regs.restored (g : Regs) (m : List Host.Cell) : Regs :=
  let stw := readN m 0x138 4
  Regs.restoreTop { g with
    lc := BitVec.ofNat 64 (readN m 0x130 8), ec := BitVec.ofNat 8 (field stw 0 8), rrb := BitVec.ofNat 5 (field stw 8 5),
    epoch := BitVec.ofNat 8 (field stw 16 8) } m

theorem Regs.restored_fields (g : Regs) (m : List Host.Cell) :
    let stw := readN m 0x138 4
    let g' := g.restored m
    g'.lc.toNat = readN m 0x130 8 ∧ g'.ec.toNat = stw % 256 ∧ g'.rrb.toNat = stw / 2 ^ 8 % 32 ∧ g'.epoch.toNat = stw / 2 ^ 16 % 256 ∧
    g'.v = g.v ∧ g'.p = g.p ∧ g'.q = g.q :=
  ⟨(BitVec.toNat_ofNat ..).trans (Nat.mod_eq_of_lt (readN_lt ..)),
    (BitVec.toNat_ofNat ..).trans (by unfold field; omega), (BitVec.toNat_ofNat ..).trans (by unfold field; omega),
    (BitVec.toNat_ofNat ..).trans (by unfold field; omega), rfl, rfl, rfl⟩

/-- The tile that has left handler mode: but for its corrected errors, its stream and its mode, it is as it was. -/
theorem State.Canon.tile_leaveHandler {s : State} (hs : s.Canon) {t : Nat} {h : Handler} (hh : (s.tile t).hm = some h) :
    let x := s.tile t
    ∃ n e te, (s.leaveHandler t).tile t = { x with
      soft := n, ecc := e, tecc := te, hm := none
      prim := { x.prim with
        regs := x.prim.regs.restored x.spad
        loops := (List.range (Nat.min 6 (field (readN x.spad 0x138 4) 24 3))).map (frameLevel x.spad)
        pc := x.tpc.toNat % 2 ^ 32
        inflight := x.prim.inflight ++ (List.range 32).filterMap (frameRecord x.spad h.cyc) } } := by
  obtain ⟨n, e, te, hscrub⟩ := Tile.foldl_scrub_eq (s.tile t) (s.tile t).frameLines
  refine ⟨n, e, te, ?_⟩
  simp only [State.leaveHandler, hh, hscrub]
  exact hs.tile_setTile.trans (if_pos rfl)

theorem getElem?_map_range {α : Type} {f : Nat → α} {n i : Nat} {x : α} (h : ((List.range n).map f)[i]? = some x) : f i = x := by
  rw [List.getElem?_map] at h
  obtain ⟨j, hj, hx⟩ := Option.map_eq_some_iff.1 h
  obtain ⟨hlt, rfl⟩ := List.getElem?_eq_some_iff.1 hj
  rwa [List.getElem_range] at hx

/-- Results taken from distinct indices have distinct slots where each has its index as its slot. -/
theorem nodup_slots_filterMap {f : Nat → Option Result} {n : Nat} (hf : ∀ i r, f i = some r → r.slot = i) :
    (((List.range n).filterMap f).map fun r => r.slot).Nodup := by
  have hmap : ((List.range n).filterMap f).map (fun r => r.slot) = (List.range n).filter fun i => (f i).isSome := by
    rw [List.map_filterMap, ← List.filterMap_eq_filter]
    refine List.filterMap_congr fun i _ => ?_
    cases hfi : f i with
    | none => simp [hfi, Option.guard]
    | some r => simp [hf i r hfi, hfi, Option.guard]
  rw [hmap]
  exact List.nodup_range.filter _

end Sys2Proof.Machine

open Sys2Proof Sys2Proof.Machine

/-- Settles O24: each field is read where the entry's frame has it; the records' results have their records' indices as slots. -/
theorem leaveHandler : Obligations.LeaveHandler := by
  unfold Obligations.LeaveHandler
  intro s t h hs hh x m stw y
  obtain ⟨n, e, te, hy⟩ := hs.tile_leaveHandler hh
  obtain ⟨hlc, hec, hrrb, hepoch, hv, hp, hq⟩ := x.prim.regs.restored_fields m
  rw [show y = _ from hy]
  refine ⟨rfl, rfl, hlc, hec, hrrb, hepoch, ?_, fun i l hi => ?_, fun i hi => Regs.rd_restoreTop _ m hi,
    fun i hi => Regs.rd_restoreTop_low _ m hi, hv, hp, hq, rfl, _, rfl, fun i hi => ?_, fun r hr => ?_, ?_⟩
  · exact List.length_map _ |>.trans List.length_range
  · obtain rfl := getElem?_map_range hi
    exact frameLevel_fields m i
  · intro a w h1 h4
    obtain ⟨d, hd⟩ := Option.isSome_iff_exists.1 (isSome_frameDest (m := m) (i := i).2 h4)
    obtain ⟨htag, hvf, hmf, hlanes⟩ := frameResult_fields (m := m) (c := h.cyc) (i := i) d.1 d.2
    refine ⟨_, List.mem_filterMap.2 ⟨i, List.mem_range.2 hi, frameRecord_of_dest h1 rfl hd⟩, rfl, rfl, htag, hvf, hmf, hlanes, ?_⟩
    rw [frameResult_value (frameDest_lt hd)]
    refine ⟨fun hk => ?_, fun hk => ?_, fun hk => ?_, fun hk => ?_⟩ <;> rw [hk] at hd <;> cases hd <;> exact ⟨rfl, rfl⟩
  · obtain ⟨i, hi, hri⟩ := List.mem_filterMap.1 hr
    obtain ⟨rfl, h1, h4⟩ := frameRecord_some hri
    exact ⟨List.mem_range.1 hi, h1, h4⟩
  · exact nodup_slots_filterMap fun i r h => (frameRecord_some h).1

end

section
/-! PROOFS. Basins: their fields, the updates field by field, and the updates and samples of a tick. -/

namespace Sys2Proof.Machine

/-! ## The fields of a basin (R304) -/

section Fields
variable {p ar se lf it hi : Nat} {o e g r : Bool}

/-- A basin, with what stands above its fields. -/
def basinWith (hi p : Nat) (o e g r : Bool) (ar se lf it : Nat) : Nat := basinOf p o e g r ar se lf it + hi * 2 ^ 104

theorem basinWith_eq : basinWith hi p o e g r ar se lf it =
    p + o.toNat * 2 ^ 4 + e.toNat * 2 ^ 5 + g.toNat * 2 ^ 6 + r.toNat * 2 ^ 7 + ar * 2 ^ 8 + se * 2 ^ 32 + lf * 2 ^ 64 + it * 2 ^ 80 +
      hi * 2 ^ 104 := by
  have hbit (b : Bool) (k : Nat) : (if b then k else 0) = b.toNat * k := by cases b <;> simp
  simp only [basinWith, basinOf, hbit]

theorem testBit_of_div {n i : Nat} {b : Bool} (h : n / 2 ^ i % 2 = b.toNat) : n.testBit i = b := by
  rw [Nat.testBit_eq_decide_div_mod_eq, h]
  cases b <;> rfl

/-- Each field is read back at its place. -/
theorem basinWith_fields (hp : p < 16) (har : ar < 2 ^ 24) (hse : se < 2 ^ 32) (hlf : lf < 2 ^ 16) (hit : it < 2 ^ 24) :
    let b := basinWith hi p o e g r ar se lf it
    basinPhase b = p ∧ b.testBit 4 = o ∧ b.testBit 5 = e ∧ b.testBit 6 = g ∧ basinArmed b = r ∧ basinArrive b = ar ∧ basinSectors b = se ∧
    basinLfold b = lf ∧ basinInit b = it ∧ b / 2 ^ 104 = hi := by
  intro b
  have hb : b = _ := basinWith_eq
  have ho := o.toNat_le
  have he := e.toNat_le
  have hg := g.toNat_le
  have hr := r.toNat_le
  unfold basinPhase basinArmed basinArrive basinSectors basinLfold basinInit field
  refine ⟨?_, testBit_of_div ?_, testBit_of_div ?_, testBit_of_div ?_, testBit_of_div ?_, ?_, ?_, ?_, ?_, ?_⟩ <;> omega

/-- Every number is the basin of its fields. -/
theorem eq_basinWith (b : Nat) : b = basinWith (b / 2 ^ 104) (basinPhase b) (b.testBit 4) (b.testBit 5) (b.testBit 6) (basinArmed b)
    (basinArrive b) (basinSectors b) (basinLfold b) (basinInit b) := by
  rw [basinWith_eq]
  simp only [basinPhase, basinArmed, basinArrive, basinSectors, basinLfold, basinInit, field, Nat.toNat_testBit]
  omega

theorem setBit_digits (b i : Nat) :
    setBit b i % 2 ^ i = b % 2 ^ i ∧ setBit b i / 2 ^ i % 2 = 1 ∧ setBit b i / 2 ^ (i + 1) = b / 2 ^ (i + 1) := by
  refine ⟨?_, ?_, ?_⟩
  · rw [setBit, Nat.or_mod_two_pow, Nat.mod_self, Nat.or_zero]
  · rw [← Nat.toNat_testBit, setBit, Nat.testBit_or, Nat.testBit_two_pow_self, Bool.or_true, Bool.toNat_true]
  · rw [setBit, Nat.or_div_two_pow, Nat.div_eq_of_lt (Nat.pow_lt_pow_right (by omega) (Nat.lt_succ_self i)), Nat.or_zero]

section Set
variable (hp : p < 16)
include hp

theorem setBit_ovf : setBit (basinWith hi p o e g r ar se lf it) 4 = basinWith hi p true e g r ar se lf it := by
  obtain ⟨hlow, hbit, hhigh⟩ := setBit_digits (basinWith hi p o e g r ar se lf it) 4
  have ho := o.toNat_le
  simp only [basinWith_eq, Bool.toNat_true] at hlow hbit hhigh ⊢
  omega

theorem setBit_err : setBit (basinWith hi p o e g r ar se lf it) 5 = basinWith hi p o true g r ar se lf it := by
  obtain ⟨hlow, hbit, hhigh⟩ := setBit_digits (basinWith hi p o e g r ar se lf it) 5
  have ho := o.toNat_le
  have he := e.toNat_le
  simp only [basinWith_eq, Bool.toNat_true] at hlow hbit hhigh ⊢
  omega

theorem setBit_neg : setBit (basinWith hi p o e g r ar se lf it) 6 = basinWith hi p o e true r ar se lf it := by
  obtain ⟨hlow, hbit, hhigh⟩ := setBit_digits (basinWith hi p o e g r ar se lf it) 6
  have ho := o.toNat_le
  have he := e.toNat_le
  have hg := g.toNat_le
  simp only [basinWith_eq, Bool.toNat_true] at hlow hbit hhigh ⊢
  omega

end Set

/-! ## The updates (R305 to R307, R311) -/

section Update
variable (hp : p < 16) (har : ar < 2 ^ 24) (hse : se < 2 ^ 32) (hlf : lf < 2 ^ 16) (hit : it < 2 ^ 24)
include hp har hse hlf hit

theorem basinFlip_basinWith : basinFlip (basinWith hi p o e g r ar se lf it) =
    if r = true ∧ ar = 0 ∧ se = 0 ∧ (o || e) = false then basinWith hi ((p + 1) % 16) false false g true it 0 0 it
    else basinWith hi p o e g r ar se lf it := by
  obtain ⟨hphase, hovf, herr, hneg, harmed, harrive, hsectors, hlfold, hinit, hhigh⟩ :=
    basinWith_fields (hi := hi) (o := o) (e := e) (g := g) (r := r) hp har hse hlf hit
  rw [basinFlip, hphase, hneg, harmed, harrive, hsectors, hinit, hhigh, basinBad, hovf, herr]
  refine if_congr ?_ rfl rfl
  simp only [Bool.and_eq_true, decide_eq_true_eq, Bool.not_eq_true', and_assoc]

theorem basinUpdate_arrive (n : Nat) : basinUpdate (basinWith hi p o e g r ar se lf it) (.arrive n) =
    if n = 0 then basinWith hi p o e g r ar se lf it
    else if r = false then basinWith hi p o true g r ar se lf it
    else if ar < n then basinWith hi p o true true r ar se lf it
    else if ar = n ∧ se = 0 ∧ (o || e) = false then basinWith hi ((p + 1) % 16) false false g true it 0 0 it
    else basinWith hi p o e g r (ar - n) se lf it := by
  obtain ⟨hphase, hovf, herr, hneg, harmed, harrive, hsectors, hlfold, hinit, hhigh⟩ :=
    basinWith_fields (hi := hi) (o := o) (e := e) (g := g) (r := r) hp har hse hlf hit
  simp only [basinUpdate, harmed, harrive, setBit_err hp, setBit_neg hp, Bool.not_eq_true']
  by_cases hn : n = 0
  · rw [if_pos hn, if_pos hn]
  by_cases hr : r = false
  · rw [if_neg hn, if_neg hn, if_pos hr, if_pos hr]
  by_cases hlt : ar < n
  · rw [if_neg hn, if_neg hn, if_neg hr, if_neg hr, if_pos hlt, if_pos hlt]
  have hsub : basinWith hi p o e g r ar se lf it - n * 2 ^ 8 = basinWith hi p o e g r (ar - n) se lf it := by
    rw [basinWith_eq, basinWith_eq]
    omega
  rw [if_neg hn, if_neg hn, if_neg hr, if_neg hr, if_neg hlt, if_neg hlt, hsub,
    basinFlip_basinWith hp (by omega) hse hlf hit]
  refine if_congr ?_ rfl rfl
  rw [Bool.not_eq_false] at hr
  simp only [hr, true_and]
  exact and_congr_left' (by omega)

theorem basinUpdate_sector (t : Tag) : basinUpdate (basinWith hi p o e g r ar se lf it) (.sector t) =
    if r = false then basinWith hi p o true g r ar se lf it
    else if se = 0 then basinWith hi p o true true r ar se lf it
    else if se = 1 ∧ ar = 0 ∧ (o || e) = false then basinWith hi ((p + 1) % 16) false false g true it 0 0 it
    else basinWith hi p o e g r ar (se - 1) ((lf + t.toNat) % 2 ^ 16) it := by
  obtain ⟨hphase, hovf, herr, hneg, harmed, harrive, hsectors, hlfold, hinit, hhigh⟩ :=
    basinWith_fields (hi := hi) (o := o) (e := e) (g := g) (r := r) hp har hse hlf hit
  simp only [basinUpdate, harmed, hsectors, hlfold, setBit_err hp, setBit_neg hp, Bool.not_eq_true', Nat.lt_one_iff]
  by_cases hr : r = false
  · rw [if_pos hr, if_pos hr]
  by_cases hse0 : se = 0
  · rw [if_neg hr, if_neg hr, if_pos hse0, if_pos hse0]
  have hsub : basinWith hi p o e g r ar se lf it - 2 ^ 32 - lf * 2 ^ 64 + (lf + t.toNat) % 2 ^ 16 * 2 ^ 64 =
      basinWith hi p o e g r ar (se - 1) ((lf + t.toNat) % 2 ^ 16) it := by
    rw [basinWith_eq, basinWith_eq]
    omega
  rw [if_neg hr, if_neg hr, if_neg hse0, if_neg hse0, hsub,
    basinFlip_basinWith hp har (by omega) (Nat.mod_lt _ (by omega)) hit]
  refine if_congr ?_ rfl rfl
  rw [Bool.not_eq_false] at hr
  simp only [hr, true_and]
  rw [and_left_comm]
  exact and_congr_left' (by omega)

theorem basinUpdate_expect (n : Nat) : basinUpdate (basinWith hi p o e g r ar se lf it) (.expect n) =
    if n ≠ 0 ∧ r = false then basinWith hi p o true g r ar se lf it else basinWith hi p o e g r ar (se + n) lf it := by
  obtain ⟨hphase, hovf, herr, hneg, harmed, harrive, hsectors, hlfold, hinit, hhigh⟩ :=
    basinWith_fields (hi := hi) (o := o) (e := e) (g := g) (r := r) hp har hse hlf hit
  have hadd : basinWith hi p o e g r ar se lf it + n * 2 ^ 32 = basinWith hi p o e g r ar (se + n) lf it := by
    rw [basinWith_eq, basinWith_eq]
    omega
  simp only [basinUpdate, harmed, setBit_err hp, Bool.not_eq_true', hadd]
  by_cases hn : n = 0
  · rw [if_pos hn, if_neg (fun h => h.1 hn), hn, Nat.add_zero]
  · rw [if_neg hn]
    exact if_congr (by simp [hn]) rfl rfl

end Update

end Fields

/-! ## The updates and the samples of a tick -/

theorem State.basinOp_eq (s : State) (a : W64) (f : State → State) : s.basinOp a f =
    if a.toNat / 2 ^ 22 ≠ 0 ∨ a.toNat % 16 ≠ 0 then s.raiseOpen 0x08
    else if a.toNat < 0x10000 ∧ s.cur.ctx ≠ .handler then s.raiseAt 0x19 a else f s := by
  have ha := a.isLt
  unfold State.basinOp field
  refine if_congr ?_ rfl rfl
  rw [Nat.mod_eq_of_lt (by omega)]

section Tick
variable {x : Tile} {a : Nat} {u : BasinUpd} {info : BitVec 8} {ad : W64}

theorem Tile.updBasin_put (h : (∃ n, u = .init n) ∨ x.uecc a 16 = false) :
    (x.updBasin info ad a u).spad = writeBytes x.spad a (toBytes 16 (basinUpdate (readN x.spad a 16) u)) := by
  cases u with
  | init n => rfl
  | sector | arrive | expect | rearm | err | ovf =>
    have hecc : x.uecc a 16 = false := h.resolve_left (by simp)
    unfold Tile.updBasin
    dsimp only
    rw [if_neg (by rw [hecc]; exact Bool.false_ne_true)]
    simp only [Tile.putBytes, Tile.spad_scrub, basinAt]

theorem Tile.updBasin_uecc (hu : ∀ n, u ≠ .init n) (h : x.uecc a 16 = true) : x.updBasin info ad a u =
    { x with pend := x.pend ++ [⟨0x09, 0, info, ((x.ueccIn a 16).map (BitVec.ofNat 64)).getD ad, true, false⟩] } := by
  cases u with
  | init n => exact absurd rfl (hu n)
  | sector | arrive | expect | rearm | err | ovf =>
    unfold Tile.updBasin
    exact if_pos h

/-- One update of a tick. -/
theorem Tile.runBasins_one {o : Nat} (h : x.basinOps = [(o, a, u)]) :
    x.runBasins info ad = { x.updBasin info ad a u with basinOps := [] } := by
  unfold Tile.runBasins
  rw [h]
  rfl

theorem Tile.sampleBasins_one {c : Ctx} {r : Result} (hc : c ≠ .handler) (h : x.breads = [(c, a, r)]) :
    (x.sampleBasins.stream c).inflight = (x.stream c).inflight ++ [{ r with value := BitVec.ofNat 2048 (readN x.spad a 8) }] := by
  unfold Tile.sampleBasins
  rw [h]
  cases c with
  | handler => exact absurd rfl hc
  | primary | secondary => rfl

end Tick

end Sys2Proof.Machine

open Sys2Proof Sys2Proof.Machine

/-- Settles O29: every number is the basin of its fields, on which each update is computed. -/
theorem basinOperations : Obligations.BasinOperations := by
  unfold Obligations.BasinOperations
  refine ⟨⟨fun s a f => State.basinOp_eq s a f, fun p a n s => ?_, fun p a n s => ?_, fun p a b s => ?_, fun p d a s => ?_,
      fun p a sc n s => ?_⟩,
    fun s t c b hs => ?_, fun x o a u info ad hops hw hlt => ?_, fun x c a r hc hbr => Tile.sampleBasins_one hc hbr, fun b => ?_⟩
  · exact exec_binit.trans (State.when_eq_guarded rfl)
  · exact exec_brearm.trans (State.when_eq_guarded rfl)
  · exact exec_bexpect.trans (State.when_eq_guarded rfl)
  · exact exec_bread.trans (State.when_eq_guarded rfl)
  · exact exec_barrive.trans (State.when_eq_guarded rfl)
  · refine ⟨fun a n => hs.tile_updTile_same, fun a n => hs.tile_updTile_same, fun a n slot => hs.tile_updTile_same,
      fun a r => hs.tile_updTile_same, fun a sc n => ?_⟩
    have hsc : sc.toNat < 2 ↔ sc = 0 ∨ sc = 1 := by
      rw [← BitVec.toNat_inj, ← BitVec.toNat_inj]
      exact Nat.lt_succ_iff.trans Nat.le_one_iff_eq_zero_or_eq_one
    dsimp only
    rw [show s.applyEffect t c b (.barrive a sc n) = s.updStream t c fun x =>
      { x with barr := x.barr ++ [⟨a, n, if sc.toNat < 2 then [] else s.outstanding t c, c == .handler⟩] } from rfl,
      hs.tile_updStream, Tile.stream_setStream]
    exact congrArg (fun w => ((s.tile t).stream c).barr ++ [⟨a, n, w, c == .handler⟩]) (if_congr hsc rfl rfl)
  · intro y
    rw [show y = _ from Tile.runBasins_one hops]
    refine ⟨rfl, fun hu => ?_, fun hu hecc => ?_⟩
    · have hput := Tile.updBasin_put (info := info) (ad := ad) hu
      dsimp only
      rw [hput, readN_writeBytes hw]
      exact ⟨Nat.mod_eq_of_lt (hlt.trans_eq (Nat.pow_mul 2 8 16)),
        fun i hi => get_writeBytes_outside hw (by rw [length_toBytes]; exact hi)⟩
    · rw [Tile.updBasin_uecc hu hecc]
      exact ⟨rfl, rfl⟩
  · have hb := eq_basinWith b
    have hp : basinPhase b < 16 := Nat.mod_lt _ (by omega)
    have har : basinArrive b < 2 ^ 24 := Nat.mod_lt _ (by omega)
    have hse : basinSectors b < 2 ^ 32 := Nat.mod_lt _ (by omega)
    have hlf : basinLfold b < 2 ^ 16 := Nat.mod_lt _ (by omega)
    have hit : basinInit b < 2 ^ 24 := Nat.mod_lt _ (by omega)
    have harrive (n : Nat) := basinUpdate_arrive (hi := b / 2 ^ 104) (o := b.testBit 4) (e := b.testBit 5) (g := b.testBit 6)
      (r := basinArmed b) hp har hse hlf hit n
    have hsector (t : Tag) := basinUpdate_sector (hi := b / 2 ^ 104) (o := b.testBit 4) (e := b.testBit 5) (g := b.testBit 6)
      (r := basinArmed b) hp har hse hlf hit t
    have hexpect (n : Nat) := basinUpdate_expect (hi := b / 2 ^ 104) (o := b.testBit 4) (e := b.testBit 5) (g := b.testBit 6)
      (r := basinArmed b) hp har hse hlf hit n
    have herr := setBit_err (hi := b / 2 ^ 104) (o := b.testBit 4) (e := b.testBit 5) (g := b.testBit 6) (r := basinArmed b)
      (ar := basinArrive b) (se := basinSectors b) (lf := basinLfold b) (it := basinInit b) hp
    have hovf := setBit_ovf (hi := b / 2 ^ 104) (o := b.testBit 4) (e := b.testBit 5) (g := b.testBit 6) (r := basinArmed b)
      (ar := basinArrive b) (se := basinSectors b) (lf := basinLfold b) (it := basinInit b) hp
    rw [← hb] at harrive hsector hexpect herr hovf
    intro ph ar se lf it bad ng armed mk
    refine ⟨hb, fun n hn (harmed : basinArmed b = false) => ⟨?_, ?_⟩, fun t (harmed : basinArmed b = false) => ?_, rfl, rfl,
      fun n (harmed : basinArmed b = true) (hlt : basinArrive b < n) => ?_,
      fun t (harmed : basinArmed b = true) (hse0 : basinSectors b = 0) => ?_,
      fun n (harmed : basinArmed b = true) hn (hle : n ≤ basinArrive b) => ?_,
      fun t (harmed : basinArmed b = true) (hse1 : 0 < basinSectors b) => ?_,
      fun n (harmed : basinArmed b = true) hsum => ?_, fun n => ⟨rfl, rfl⟩, herr, hovf⟩
    · rw [harrive, if_neg hn.ne', if_pos harmed]; rfl
    · rw [hexpect, if_pos ⟨hn.ne', harmed⟩]; rfl
    · rw [hsector, if_pos harmed]; rfl
    · rw [harrive, if_neg (by omega), if_neg (by rw [harmed]; simp), if_pos hlt]; rfl
    · rw [hsector, if_neg (by rw [harmed]; simp), if_pos hse0]; rfl
    · rw [harrive, if_neg (by omega), if_neg (by rw [harmed]; simp), if_neg (Nat.not_lt.2 hle), harmed]; rfl
    · rw [hsector, if_neg (by rw [harmed]; simp), if_neg hse1.ne', harmed]; rfl
    · rw [hexpect, if_neg (by rw [harmed]; simp), harmed]; rfl

end

section
/-! PROOFS. Range maintenance and atomics: their checks, the access each leaves at its commit, and the new value of a word. -/

namespace Sys2Proof.Machine

section Checks
variable (s : State) (kind : Nat) (cas : Bool) (op : BitVec 4) (d a b c : BitVec 6) (sc : BitVec 4) (w : BitVec 1) (tag : Tag)

theorem ExtentDecl.covers_iff (x : ExtentDecl) (o n : Nat) (r w : Bool) :
    x.covers o n r w = true ↔ (n = 0 ∨ o + n ≤ x.len) ∧ (r = true → x.r = true) ∧ (w = true → x.w = true) := by
  have ho : (0 : Int) ≤ (o : Int) := Int.natCast_nonneg o
  have hn : ((o : Int) + (n : Int) ≤ (x.len : Int)) ↔ o + n ≤ x.len := by omega
  cases r <;> cases w <;> simp [ExtentDecl.covers, ho, hn, and_assoc]

theorem State.rangeOp_eq :
    let i := (s.rs a).toNat / 2 ^ 59
    let o := (s.rs a).toNat % 2 ^ 59
    let n := (s.rs b).toNat
    s.rangeOp kind a b =
      if ¬ ∃ x, s.extent s.cur.tile i = some x ∧ x.cls = 1 ∧ (n = 0 ∨ o + n ≤ x.len) ∧ (kind = 2 → x.w = true) ∧
          s.ownsPrivate s.cur.tile x = true then s.raiseAt 0x07 (s.rs a)
      else if o % 4 ≠ 0 ∨ n % 4 ≠ 0 then s.raiseAt 0x08 (s.rs a) else s.emit (.range kind (s.rs a) (s.rs b)) := by
  intro i o n
  unfold State.rangeOp
  dsimp only
  refine if_congr ?_ rfl (if_congr (by simp [o, n, extOffset]) rfl rfl)
  rw [Bool.not_eq_true']
  cases hx : s.extent s.cur.tile (extIndex (s.rs a)) with
  | none => simp [show s.extent s.cur.tile i = none from hx]
  | some x =>
    have hcov := x.covers_iff (extOffset (s.rs a)) (s.rs b).toNat false (kind == 2)
    simp only [show s.extent s.cur.tile i = some x from hx, Option.some.injEq, exists_eq_left', ← Bool.not_eq_true, not_iff_not,
      Bool.and_eq_true, hcov, beq_iff_eq, Bool.false_eq_true, false_imp_iff, true_and]
    change _ ↔ _ ∧ (_ ∨ extOffset (s.rs a) + _ ≤ _) ∧ _
    tauto

theorem State.atomicOp_eq :
    let i := (s.rs a).toNat / 2 ^ 59
    let o := (s.rs a).toNat % 2 ^ 59
    let z := if w = 1 then 8 else 4
    s.atomicOp cas op d a b c sc w tag = match s.extent s.cur.tile i with
      | none => s.raiseAt 0x07 (s.rs a)
      | some x =>
        if x.cls = 0 ∨ x.len < o + z ∨ x.r = false ∨ x.w = false ∨ s.ownsPrivate s.cur.tile x = false then s.raiseAt 0x07 (s.rs a)
        else if o % z ≠ 0 then s.raiseAt 0x08 (s.rs a)
        else if s.routeOk x sc.toNat = false then
          s.raise 0x17 (BitVec.ofNat 8 (x.cls.toNat * 64 + x.coh.toNat * 16 + sc.toNat)) (s.rs a)
        else ((s.emit (.atomic ⟨0, s.cur.cycle, s.cur.slot, .s d, 0, 0, tag, 0, 0⟩ cas op sc (w == 1) (s.rs a) (s.rs b)
          (s.rs c))).entryTag tag).mark := by
  intro i o z
  unfold State.atomicOp
  dsimp only
  cases hx : s.extent s.cur.tile (extIndex (s.rs a)) with
  | none => simp only [show s.extent s.cur.tile i = none from hx]
  | some x =>
    simp only [show s.extent s.cur.tile i = some x from hx]
    have hz : z ≠ 0 := by
      unfold z
      split <;> omega
    have hcov := x.covers_iff (extOffset (s.rs a)) z true true
    refine if_congr ?_ rfl (if_congr Iff.rfl rfl (if_congr (by simp) rfl rfl))
    rw [Bool.not_eq_true', ← Bool.not_eq_true, Bool.and_eq_true, Bool.and_eq_true, hcov]
    simp only [hz, false_or, true_imp_iff, bne_iff_ne, ne_eq, ← Bool.not_eq_true]
    rw [← Nat.not_le]
    tauto

end Checks

/-! ## The new value of a word (R317) -/

section Value
variable {old b c : W64} {wide : Bool}

/-- The bits of an atomic's word. -/
def wordBits (wide : Bool) : Nat := if wide = true then 64 else 32

theorem wordBits_dvd (wide : Bool) : 2 ^ wordBits wide ∣ 2 ^ 64 := Nat.pow_dvd_pow 2 (by cases wide <;> decide)

/-- A pattern cut to an atomic's word. -/
def cutWord (wide : Bool) (x : W64) : W64 := if wide then x else (x.setWidth 32).setWidth 64

theorem toNat_cutWord (x : W64) : (cutWord wide x).toNat = x.toNat % 2 ^ wordBits wide := by
  cases wide
  · simp [cutWord, wordBits, BitVec.toNat_setWidth]
    omega
  · exact (Nat.mod_eq_of_lt x.isLt).symm

theorem low64_mod (n : Nat) : low64 (n % 2 ^ wordBits wide) = cutWord wide (low64 n) := by
  refine BitVec.eq_of_toNat_eq ?_
  rw [toNat_cutWord, low64, low64, BitVec.toNat_ofNat, BitVec.toNat_ofNat]
  cases wide <;> simp only [wordBits, if_true, Bool.false_eq_true, if_false] <;> omega

theorem cutWord_eq_self (h : old.toNat < 2 ^ wordBits wide) : cutWord wide old = old :=
  BitVec.eq_of_toNat_eq (by rw [toNat_cutWord, Nat.mod_eq_of_lt h])

theorem sext_cutWord (x : W64) : sext (cutWord wide x).toNat (wordBits wide) = sext x.toNat (wordBits wide) := by
  have hbit : field (x.toNat % 2 ^ wordBits wide) (wordBits wide - 1) 1 = field x.toNat (wordBits wide - 1) 1 := by
    cases wide <;> simp only [wordBits, field, if_true, Bool.false_eq_true, if_false]
    all_goals omega
  rw [toNat_cutWord, sext, sext, hbit, Nat.mod_mod]

/-- The cut of a bitwise operation, where both operands are cut. -/
theorem cutWord_idem (x : W64) : cutWord wide (cutWord wide x) = cutWord wide x :=
  BitVec.eq_of_toNat_eq (by simp only [toNat_cutWord, Nat.mod_mod])

/-- Each operation, its operand cut before and its value after. -/
theorem atomicNew_eqs :
    let b' := cutWord wide b
    let n := wordBits wide
    atomicNew false 0 wide old b c = cutWord wide (old + b') ∧
    atomicNew false 1 wide old b c = cutWord wide ((faddBits (old.setWidth 32) (b'.setWidth 32)).setWidth 64) ∧
    atomicNew false 2 wide old b c = cutWord wide (if sext old.toNat n ≤ sext b'.toNat n then old else b') ∧
    atomicNew false 3 wide old b c = cutWord wide (if sext old.toNat n ≤ sext b'.toNat n then b' else old) ∧
    atomicNew false 4 wide old b c = cutWord wide (if old ≤ b' then old else b') ∧
    atomicNew false 5 wide old b c = cutWord wide (if old ≤ b' then b' else old) ∧
    atomicNew false 6 wide old b c = cutWord wide b' ∧ atomicNew false 7 wide old b c = cutWord wide (old &&& b') ∧
    atomicNew false 8 wide old b c = cutWord wide (old ||| b') ∧ atomicNew false 9 wide old b c = cutWord wide (old ^^^ b') ∧
    atomicNew true 0 wide old b c = (if old = cutWord wide c then b' else old) :=
  ⟨rfl, rfl, rfl, rfl, rfl, rfl, rfl, rfl, rfl, rfl, rfl⟩

/-- What an operation of two words leaves is cut once; each operation by its arithmetic. -/
theorem atomicNew_words (hold : old.toNat < 2 ^ wordBits wide) :
    let n := wordBits wide
    let lo := fun (x : W64) => low64 (x.toNat % 2 ^ n)
    atomicNew false 0 wide old b c = low64 ((old.toNat + b.toNat) % 2 ^ n) ∧
    atomicNew false 2 wide old b c = low64 (if sext old.toNat n ≤ sext b.toNat n then old.toNat else b.toNat % 2 ^ n) ∧
    atomicNew false 3 wide old b c = low64 (if sext old.toNat n ≤ sext b.toNat n then b.toNat % 2 ^ n else old.toNat) ∧
    atomicNew false 4 wide old b c = low64 (min old.toNat (b.toNat % 2 ^ n)) ∧
    atomicNew false 5 wide old b c = low64 (max old.toNat (b.toNat % 2 ^ n)) ∧
    atomicNew false 6 wide old b c = lo b ∧ atomicNew false 7 wide old b c = lo (old &&& b) ∧
    atomicNew false 8 wide old b c = lo (old ||| b) ∧ atomicNew false 9 wide old b c = lo (old ^^^ b) ∧
    atomicNew true 0 wide old b c = (if old = lo c then lo b else old) := by
  intro n lo
  have hlo (x : W64) : lo x = cutWord wide x := by rw [show lo x = low64 (x.toNat % 2 ^ wordBits wide) from rfl, low64_mod, low64_toNat]
  have hcut : low64 (b.toNat % 2 ^ n) = cutWord wide b := hlo b
  have hself := cutWord_eq_self hold
  obtain ⟨hadd, -, hmin, hmax, hminu, hmaxu, hswap, hand, hor, hxor, hcas⟩ := atomicNew_eqs (wide := wide) (old := old) (b := b) (c := c)
  simp only [hlo, hadd, hmin, hmax, hminu, hmaxu, hswap, hand, hor, hxor, hcas, sext_cutWord, n, low64_mod]
  refine ⟨?_, ?_, ?_, ?_, ?_, cutWord_idem b, ?_, ?_, ?_, trivial⟩
  · refine BitVec.eq_of_toNat_eq ?_
    rw [toNat_cutWord, toNat_cutWord, BitVec.toNat_add, toNat_cutWord, low64, BitVec.toNat_ofNat,
      Nat.mod_mod_of_dvd _ (wordBits_dvd wide), Nat.mod_mod_of_dvd _ (wordBits_dvd wide), Nat.add_mod_mod]
  · split
    · rw [hself, low64_toNat]
    · rw [cutWord_idem, hcut]
  · split
    · rw [cutWord_idem, hcut]
    · rw [hself, low64_toNat]
  · split
    case isTrue hle =>
      rw [BitVec.le_def, toNat_cutWord] at hle
      rw [hself, Nat.min_eq_left hle, low64_toNat]
    case isFalse hlt =>
      rw [BitVec.le_def, toNat_cutWord] at hlt
      rw [cutWord_idem, Nat.min_eq_right (Nat.le_of_not_le hlt), hcut]
  · split
    case isTrue hle =>
      rw [BitVec.le_def, toNat_cutWord] at hle
      rw [cutWord_idem, Nat.max_eq_right hle, hcut]
    case isFalse hlt =>
      rw [BitVec.le_def, toNat_cutWord] at hlt
      rw [hself, Nat.max_eq_left (Nat.le_of_not_le hlt), low64_toNat]
  · refine BitVec.eq_of_toNat_eq ?_
    rw [toNat_cutWord, toNat_cutWord, BitVec.toNat_and, BitVec.toNat_and, toNat_cutWord, Nat.and_mod_two_pow, Nat.mod_mod,
      ← Nat.and_mod_two_pow]
  · refine BitVec.eq_of_toNat_eq ?_
    rw [toNat_cutWord, toNat_cutWord, BitVec.toNat_or, BitVec.toNat_or, toNat_cutWord, Nat.or_mod_two_pow, Nat.mod_mod,
      ← Nat.or_mod_two_pow]
  · refine BitVec.eq_of_toNat_eq ?_
    rw [toNat_cutWord, toNat_cutWord, BitVec.toNat_xor, BitVec.toNat_xor, toNat_cutWord, Nat.xor_mod_two_pow, Nat.mod_mod,
      ← Nat.xor_mod_two_pow]

theorem atomicNew_fadd : atomicNew false 1 false old b c =
    low64 (faddBits (BitVec.ofNat 32 old.toNat) (BitVec.ofNat 32 b.toNat)).toNat := by
  have hb : (cutWord false b).setWidth 32 = BitVec.ofNat 32 b.toNat :=
    BitVec.eq_of_toNat_eq (by rw [BitVec.toNat_setWidth, toNat_cutWord, BitVec.toNat_ofNat]; exact Nat.mod_mod ..)
  obtain ⟨-, hfadd, -⟩ := atomicNew_eqs (wide := false) (old := old) (b := b) (c := c)
  rw [hfadd, hb, show old.setWidth 32 = BitVec.ofNat 32 old.toNat from rfl]
  generalize faddBits (BitVec.ofNat 32 old.toNat) (BitVec.ofNat 32 b.toNat) = r
  refine BitVec.eq_of_toNat_eq ?_
  rw [toNat_cutWord, BitVec.toNat_setWidth, low64, BitVec.toNat_ofNat]
  exact Nat.mod_eq_of_lt ((Nat.mod_le ..).trans_lt r.isLt)

end Value
/-! ## The access at its commit (R169, R179, R182, R273) -/

section Access
variable {s : State} {t : Nat} {c : Ctx} {b : Issued}

/-- The effects that are accesses. -/
inductive Effect.IsAccess : Effect → Prop
  | ldf (r : Result) (a : W64) : IsAccess (.ldf r a)
  | atomic (r : Result) (cas : Bool) (o : BitVec 4) (sc : BitVec 4) (w : Bool) (a x y : W64) : IsAccess (.atomic r cas o sc w a x y)
  | range (n : Nat) (a l : W64) : IsAccess (.range n a l)

theorem State.applyEffect_access {e : Effect} (he : e.IsAccess) : s.applyEffect t c b e = s.access t c e := by
  cases he <;> rfl

theorem State.Canon.access_fenced (hs : s.Canon) {e : Effect} {ws : List Nat}
    (hw : ((s.tile t).stream c).fence.filter (fun k => (s.outstanding t c).contains k) = ws) (hne : ws ≠ []) :
    ((s.access t c e).tile t).fenced = (s.tile t).fenced ++ [⟨s.nextId, c, e, s.ptime.toNat, ws⟩] ∧ (s.access t c e).ops = s.ops := by
  subst hw
  unfold State.access
  dsimp only
  rw [if_neg (by rw [List.isEmpty_iff]; exact hne)]
  exact ⟨congrArg Tile.fenced (State.Canon.tile_updTile_same (canon_fresh hs)), rfl⟩

theorem State.access_out {e : Effect} (hw : ((s.tile t).stream c).fence.filter (fun k => (s.outstanding t c).contains k) = []) :
    s.access t c e = s.fresh.startAccess t c s.nextId s.ptime.toNat e := by
  unfold State.access
  dsimp only
  rw [hw]
  rfl

theorem State.startAccess_ended {k raised : Nat} {e : Effect} (hended : (s.tile t).ended = true) {o : HoldOp}
    (ho : o ∈ (s.startAccess t c k raised e).ops) (hot : o.tile = t) : o.result = none := by
  unfold State.startAccess at ho
  rw [hended] at ho
  obtain ⟨o', ho', rfl⟩ := List.mem_map.1 ho
  split at hot
  case isTrue h => rw [if_pos h]
  case isFalse h => exact absurd hot h

/-- What an access of a CACHED extent leaves: the operation, the request it makes of its line's slice, and the packet that carries it. -/
theorem State.startOp_cached {k raised : Nat} {kind : HoldKind} {r : Result} {e : W64} {sc : BitVec 4} {x : ExtentDecl} {pa : Nat}
    (hx : s.extent t (e.toNat / 2 ^ 59) = some x) (hcls : x.cls = 1)
    (hpa : s.cachedPA t (e.toNat / 2 ^ 59) (e.toNat % 2 ^ 59) = some pa) :
    let v := s.startOp t c k raised kind r e sc
    let want : CKind := match kind with
      | .atomic cas op wide b c => .amo cas op wide b c
      | _ => .read 8
    let home := match kind with
      | .atomic .. => decide (3 ≤ sc.toNat)
      | _ => false
    v.ops = s.ops ++ [⟨k, t, c, kind, some r, e, some pa, none, s.ptime.toNat, raised, 1, sc, none, none, []⟩] ∧
    v.creqs = s.creqs ++ [⟨s.nextId, dieOf t, pa, x.coh == 2, home, want, .stream t k, false, false⟩] ∧
    v.packets = s.packets ++ [⟨s.nextId + 1, dieOf t, nodeOf t, 4, dieOf t, s.sliceOf (dieOf t) pa, s.ptime.toNat,
      .step (.cacheRequest s.nextId)⟩] := by
  intro v want home
  have hv : v = s.startOp t c k raised kind r e sc := rfl
  unfold State.startOp at hv
  rw [show extIndex e = e.toNat / 2 ^ 59 from rfl, show extOffset e = e.toNat % 2 ^ 59 from rfl, hx, hpa] at hv
  dsimp only at hv
  rw [if_pos (by rw [Option.any_some, hcls]; rfl)] at hv
  rw [hv]
  cases kind <;> exact ⟨rfl, rfl, rfl⟩

/-- A range goes out by its first step. -/
theorem State.startRange_eq {k raised kind : Nat} {e n : W64} :
    exec (.rangePerformed k) { s with ops := s.ops ++
      [⟨k, t, c, .range kind (s.rangeLines t e n.toNat), none, e, none, none, s.ptime.toNat, raised, 0, 3, none, none, []⟩] } =
    .next (s.startRange t c k raised kind e n) := by
  obtain ⟨v, hv⟩ := answers_exec (.rangePerformed k) { s with ops := s.ops ++
    [⟨k, t, c, .range kind (s.rangeLines t e n.toNat), none, e, none, none, s.ptime.toNat, raised, 0, 3, none, none, []⟩] }
  rw [exec_rangePerformed] at hv ⊢
  unfold State.startRange
  dsimp only
  rw [hv]

section Out
variable (hw : ((s.tile t).stream c).fence.filter (fun k => (s.outstanding t c).contains k) = [])
include hw

theorem State.access_ended {e : Effect} (hended : (s.tile t).ended = true) {o : HoldOp} (ho : o ∈ (s.access t c e).ops)
    (hot : o.tile = t) : o.result = none := by
  rw [State.access_out hw] at ho
  exact State.startAccess_ended (s := s.fresh) hended ho hot

variable (hrun : (s.tile t).ended = false)
include hrun

theorem State.access_ldf (r : Result) (e : W64) :
    s.access t c (.ldf r e) = s.fresh.startOp t c s.nextId s.ptime.toNat .ldf r e 3 := by
  rw [State.access_out hw, State.startAccess, show (s.fresh.tile t).ended = false from hrun]
  rfl

theorem State.access_atomic (r : Result) (cas : Bool) (o sc : BitVec 4) (w : Bool) (e x y : W64) : s.access t c (.atomic r cas o sc w e x y) =
    s.fresh.startOp t c s.nextId s.ptime.toNat (.atomic cas o w x y) r e sc := by
  rw [State.access_out hw, State.startAccess, show (s.fresh.tile t).ended = false from hrun]
  rfl

theorem State.access_range (n : Nat) (e l : W64) :
    s.access t c (.range n e l) = s.fresh.startRange t c s.nextId s.ptime.toNat n e l := by
  rw [State.access_out hw, State.startAccess, show (s.fresh.tile t).ended = false from hrun]
  rfl

end Out

end Access

end Sys2Proof.Machine

open Sys2Proof Sys2Proof.Machine

/-- Settles O28: the checks by the extent's coverage, the operation by the access at its commit, the word by its cut operands. -/
theorem rangesAndAtomics : Obligations.RangesAndAtomics := by
  unfold Obligations.RangesAndAtomics
  refine ⟨⟨fun p a b sc s => ?_, fun p a b sc s => ?_, fun p a b sc s => ?_, fun p d a b f sc w s => ?_, fun p d a b c sc w s => ?_,
      fun s kind a b => s.rangeOp_eq kind a b, fun s cas op d a b c sc w tag => ?_⟩,
    fun s t c b hs => ?_, fun old b c wide => ?_⟩
  · exact exec_wbr.trans (State.when_eq_guarded rfl)
  · exact exec_invr.trans (State.when_eq_guarded rfl)
  · exact exec_discr.trans (State.when_eq_guarded rfl)
  · exact exec_amo.trans (State.when_eq_guarded rfl)
  · exact exec_cas.trans (State.when_eq_guarded rfl)
  · exact (s.atomicOp_eq cas op d a b c sc w tag).trans rfl
  · intro ws k now op ask
    refine ⟨fun hws e he => ?_, fun hws hended e he o ho hot => ?_, fun hws hended => ⟨fun r e => ?_, fun r cas o sc w e x y => ?_,
      fun n e l => ?_⟩⟩
    · have hacc : e.IsAccess := by
        obtain ⟨r, a, rfl⟩ | ⟨r, cas, o, sc, w, a, x, y, rfl⟩ | ⟨n, a, l, rfl⟩ := he <;> constructor
      rw [State.applyEffect_access hacc]
      exact hs.access_fenced rfl hws
    · have hacc : e.IsAccess := by
        obtain ⟨r, a, rfl⟩ | ⟨r, cas, o, sc, w, a, x, y, rfl⟩ := he <;> constructor
      rw [State.applyEffect_access hacc] at ho
      exact State.access_ended hws hended ho hot
    · intro x pa hx hcls hpa
      rw [State.applyEffect_access (.ldf r e), State.access_ldf hws hended]
      exact State.startOp_cached (s := s.fresh) hx hcls hpa
    · intro x' pa hx hcls hpa
      rw [State.applyEffect_access (.atomic ..), State.access_atomic hws hended]
      exact State.startOp_cached (s := s.fresh) hx hcls hpa
    · rw [State.applyEffect_access (.range ..), State.access_range hws hended]
      exact State.startRange_eq (s := s.fresh)
  · intro n lo hold
    obtain ⟨hadd, hmin, hmax, hminu, hmaxu, hswap, hand, hor, hxor, hcas⟩ := atomicNew_words (wide := wide) (b := b) (c := c) hold
    exact ⟨hadd, hmin, hmax, hminu, hmaxu, hswap, hand, hor, hxor, hcas, atomicNew_fadd⟩

end

section
/-! PROOFS. Far commands: their checks, what each leaves at its commit, and the start of an FGO. -/

namespace Sys2Proof.Machine

/-! ## The checks (R286, R298, R299) -/

section Checks
variable {s : State} {p : BitVec 4} {x a b : BitVec 6}

theorem mult64_eq_false_iff (w : W64) : (!mult64 w) = true ↔ w.toNat % 64 ≠ 0 := by
  simp [mult64]

theorem exec_fnest_guarded (lv : BitVec 3) : exec (.fnest p x a b lv) s = .next (s.guarded p
    (if 65535 < (s.rs a).toNat then s.raiseOpen 0x02
     else if (s.rs b).toNat % 64 ≠ 0 ∨ (s.rs x).toNat % 64 ≠ 0 then s.raiseOpen 0x08
     else s.emit (.fnest lv.toNat (s.rs a).toNat (s.rs b).toInt (s.rs x).toInt))) := by
  refine exec_fnest.trans (State.when_eq_guarded ?_)
  refine if_congr Iff.rfl rfl (if_congr ?_ rfl rfl)
  rw [Bool.or_eq_true, mult64_eq_false_iff, mult64_eq_false_iff]

theorem exec_fbase_guarded : exec (.fbase p x a b) s = .next (s.guarded p
    (let w := (s.rs x).toNat
     let size := w % 2 ^ 17
     let ssp := w / 2 ^ 62 % 2 = 1
     let dsp := w / 2 ^ 63 = 1
     if (ssp ↔ dsp) ∨ w / 2 ^ 17 % 2 ^ 45 ≠ 0 ∨ size < 64 ∨ 65536 < size then s.raiseOpen 0x02
     else if size % 64 ≠ 0 ∨ (if ssp then s.rs a else s.rs b).toNat % 64 ≠ 0 then s.raiseOpen 0x08
     else s.emit (.fbase (s.rs a) (s.rs b) size (decide ssp) (decide dsp)))) := by
  have hw := (s.rs x).isLt
  have hssp : (s.rs x).getLsbD 62 = decide ((s.rs x).toNat / 2 ^ 62 % 2 = 1) := Nat.testBit_eq_decide_div_mod_eq
  have hdsp : (s.rs x).getLsbD 63 = decide ((s.rs x).toNat / 2 ^ 63 = 1) := by
    rw [BitVec.getLsbD, Nat.testBit_eq_decide_div_mod_eq]
    exact decide_eq_decide.2 (by omega)
  have hsize : field (s.rs x).toNat 0 17 = (s.rs x).toNat % 2 ^ 17 := by rw [field, Nat.pow_zero, Nat.div_one]
  refine exec_fbase.trans (State.when_eq_guarded ?_)
  dsimp only
  rw [hssp, hdsp, hsize]
  refine if_congr ?_ rfl (if_congr ?_ rfl rfl)
  · simp only [Bool.or_eq_true, beq_iff_eq, decide_eq_decide, decide_eq_true_eq, or_assoc]
    rfl
  · simp only [Bool.or_eq_true, decide_eq_true_eq, mult64_eq_false_iff]

theorem exec_fidx_guarded : exec (.fidx p x) s = .next (s.guarded p
    (if ∃ l : Fin 64, (lane (s.rv x) l).toNat % 64 ≠ 0 then s.raiseOpen 0x08 else s.emit (.fidx (s.rv x)))) := by
  refine exec_fidx.trans (State.when_eq_guarded (if_congr ?_ rfl rfl))
  simp only [List.any_eq_true, List.mem_range, decide_eq_true_eq]
  exact ⟨fun ⟨l, hl, h⟩ => ⟨⟨l, hl⟩, h⟩, fun ⟨l, h⟩ => ⟨l, l.isLt, h⟩⟩

theorem exec_fgo_guarded (dl : BitVec 20) (sc : BitVec 4) (ls : BitVec 8) : exec (.fgo p a b dl sc ls) s = .next (s.guarded p
    (if s.badRef s.cur.tile (s.rs a) true = true ∨ s.badRef s.cur.tile (s.rs b) false = true then s.raiseOpen 0x02
     else (s.emit (.fgo (s.cur.cycle + 1 + dl.toNat) s.cur.pc s.cur.gate (s.rs a) (s.rs b) sc ls s.cur.slot)).mark)) :=
  exec_fgo.trans (State.when_eq_guarded (if_congr (by rw [Bool.or_eq_true]) rfl rfl))

theorem exec_fsig_guarded (sc : BitVec 4) : exec (.fsig p a b sc) s = .next (s.guarded p
    (if s.badRef s.cur.tile (s.rs a) false = true ∨ 2 ^ 24 ≤ (s.rs b).toNat then s.raiseOpen 0x02
     else (s.emit (.fsig (s.rs a) (s.rs b).toNat sc s.cur.slot)).mark)) :=
  exec_fsig.trans (State.when_eq_guarded (if_congr (by rw [Bool.or_eq_true, decide_eq_true_eq]) rfl rfl))

theorem exec_fred_guarded (f sc : BitVec 4) : exec (.fred p x a b f sc) s = .next (s.guarded p
    (let g := (s.rs a).toNat
     let len := g / 2 ^ 48
     let count := g / 2 ^ 16 % 2 ^ 16
     let rank := g % 2 ^ 16
     if 4 < f.toNat ∨ len = 0 ∨ 1024 < len ∨ s.badRef s.cur.tile (s.rs x) true = true then s.raiseOpen 0x02
     else if count = 0 ∨ count ≤ rank then s.raiseOpen 0x18
     else if (s.rs b).toNat % 64 ≠ 0 then s.raiseOpen 0x08
     else match s.chunkCheck (s.rs b) len with
       | some k => s.raise k.1 k.2.1 k.2.2
       | none => (s.emit (.fred len (g / 2 ^ 32 % 2 ^ 16) count rank (s.rs b).toNat (s.rs x) f sc s.cur.slot)).mark)) := by
  have hg := (s.rs a).isLt
  have hlen : field (s.rs a).toNat 48 16 = (s.rs a).toNat / 2 ^ 48 := by
    unfold field
    exact Nat.mod_eq_of_lt (by omega)
  have hrank : field (s.rs a).toNat 0 16 = (s.rs a).toNat % 2 ^ 16 := by rw [field, Nat.pow_zero, Nat.div_one]
  refine exec_fred.trans (State.when_eq_guarded ?_)
  dsimp only
  rw [hlen, hrank]
  refine if_congr ?_ rfl (if_congr ?_ rfl (if_congr (mult64_eq_false_iff _) rfl ?_))
  · simp only [Bool.or_eq_true, decide_eq_true_eq, or_assoc]
  · rw [Bool.or_eq_true, decide_eq_true_eq, decide_eq_true_eq]
    rfl
  · obtain ⟨k, hk⟩ : ∃ k, s.chunkCheck (s.rs b) ((s.rs a).toNat / 2 ^ 48) = k := ⟨_, rfl⟩
    rw [hk]
    cases k <;> rfl

end Checks

/-! ## What each leaves at its commit -/

section Commit
variable {s : State} {t : Nat} {c : Ctx} {b : Issued}

theorem FarEngine.nestOf_updNest (x : FarEngine) (sec : Bool) (f : Nest → Nest) : (x.updNest sec f).nestOf sec = f (x.nestOf sec) := by
  cases sec <;> rfl

theorem Tile.far_keep (x : Tile) (f : Shadow → Shadow) : (x.keep c f).far = x.far := by
  unfold Tile.keep
  split <;> rfl

theorem State.Canon.far_updFar (hs : s.Canon) (f : FarEngine → FarEngine) : ((s.updFar t f).tile t).far = f (s.tile t).far :=
  congrArg Tile.far hs.tile_updTile_same

/-- A command of the nest changes its stream's nest. -/
theorem State.Canon.nest_updNest (hs : s.Canon) (f : Nest → Nest) :
    ((((s.keepNest t c).updFar t fun x => x.updNest (c == .secondary) f).tile t).far.nestOf (c == .secondary)) =
      f ((s.tile t).far.nestOf (c == .secondary)) := by
  have hkeep : (s.keepNest t c).Canon := hs.updTile fun x hx => by
    unfold Tile.keep
    split <;> exact hx
  rw [hkeep.far_updFar, FarEngine.nestOf_updNest, State.keepNest, hs.tile_updTile_same, Tile.far_keep]

/-- Marking a basin leaves every engine alone. -/
theorem State.Canon.far_markErr (hs : s.Canon) (r : BasinRef) (u : Nat) : ((s.markErr t r).tile u).far = (s.tile u).far := by
  unfold State.markErr
  dsimp only
  split_ifs
  case pos => rfl
  case neg =>
    rw [hs.tile_updTile]
    split
    case isTrue h => rw [h]; rfl
    case isFalse => rfl
  case pos => split <;> rfl
  case neg => rfl

theorem State.Canon.far_foldl_markErr (hs : s.Canon) (rs : List BasinRef) (u : Nat) :
    ((rs.foldl (fun s r => s.markErr t r) s).tile u).far = (s.tile u).far := by
  induction rs generalizing s with
  | nil => rfl
  | cons r rs ih => exact (ih (canon_markErr hs)).trans (hs.far_markErr r u)

/-- What every step of a fold keeps, the fold keeps. -/
theorem foldl_keeps {α β σ : Type} (g : σ → β) {f : σ → α → σ} (hf : ∀ s i, g (f s i) = g s) (l : List α) (s : σ) :
    g (l.foldl f s) = g s := by
  induction l generalizing s with
  | nil => rfl
  | cons i l ih => rw [List.foldl_cons, ih, hf]

theorem State.tiles_landPool (d : Copy) : (s.landPool t d).tiles = s.tiles := by
  unfold State.landPool
  split
  · refine foldl_keeps State.tiles (fun s i => ?_) _ s
    split
    · exact s.writePool_tiles _
    · rfl
  · rfl

/-- The engine of a tile one of whose slots is freed. -/
theorem State.Canon.far_freeSlot (hs : s.Canon) (slot : Nat) : ((s.freeSlot t slot).tile t).far =
    { (s.tile t).far with copies := (s.tile t).far.copies.filter fun d => d.slot != slot } := by
  have hfree (u : State) (hu : u.Canon) (htiles : u.tiles = s.tiles) : ((u.updTile t fun x =>
      { x with far := { x.far with copies := x.far.copies.filter fun d => d.slot != slot } }).tile t).far =
      { (s.tile t).far with copies := (s.tile t).far.copies.filter fun d => d.slot != slot } := by
    rw [hu.tile_updTile_same, show u.tile t = s.tile t by rw [State.tile, htiles]; rfl]
  unfold State.freeSlot
  cases s.copyAt t slot with
  | none => exact hfree s hs rfl
  | some d => exact hfree _ (canon_landPool hs) (State.tiles_landPool d)

/-- A cancelled slot holds no copy. -/
theorem State.Canon.copyAt_cancelSlot (hs : s.Canon) (d : Copy) : (s.cancelSlot t d).copyAt t d.slot = none := by
  have hfree : (s.freeSlot t d.slot).Canon := canon_freeSlot hs
  have hupd (f : FarEngine → FarEngine) : ((s.freeSlot t d.slot).updFar t f).Canon := hfree.updTile fun x hx => hx
  unfold State.cancelSlot State.copyAt
  dsimp only
  rw [(hupd _).far_foldl_markErr, hfree.far_updFar, hs.far_freeSlot]
  refine List.find?_eq_none.2 fun e he heq => ?_
  exact absurd (eq_of_beq heq) (bne_iff_ne.1 (List.mem_filter.1 he).2)

theorem State.cancel_none {sec : Bool} {slot : Nat} (h : s.copyAt t slot = none) : s.cancel t sec slot false = s := by
  unfold State.cancel
  rw [h]
  rfl

theorem State.Canon.copyAt_cancel (hs : s.Canon) {sec : Bool} {slot : Nat} {d : Copy} {r : FarRec} (hd : s.copyAt t slot = some d)
    (hr : s.recOf t d = some r) (hsec : r.cmd.sec = sec) : (s.cancel t sec slot false).copyAt t slot = none := by
  have hslot : d.slot = slot := eq_of_beq (List.find?_some (p := fun d : Copy => d.slot == slot) hd)
  unfold State.cancel
  rw [hd]
  dsimp only
  rw [hr, if_neg Bool.false_ne_true, if_pos (by rw [Option.any_some, hsec, beq_self_eq_true]), ← hslot]
  exact hs.copyAt_cancelSlot d

/-! ## An FGO (R282, R288, R290) -/

/-- The command an FGO enters. -/
def FgoCmd.entered (x : Tile) (c : Ctx) (start pc : Nat) (gate : Option (BitVec 3 × Bool)) (rel vis : BasinRef) (sc : BitVec 4)
    (ls mask : BitVec 8) : FgoCmd :=
  { start := if c == .handler then 0 else start, pc := pc, gate := gate, sec := c == .secondary, hm := c == .handler, phase := x.phase,
    nest := x.far.nestOf (c == .secondary), rel := rel, vis := vis, sc := sc, ls := ls, mask := mask }

section Enter
variable {cyc start pc : Nat} {gate : Option (BitVec 3 × Bool)} {rel vis : BasinRef} {sc : BitVec 4} {ls mask : BitVec 8}

theorem State.enterFgo_eq : s.enterFgo t c cyc start pc gate rel vis sc ls mask =
    let k := FgoCmd.entered (s.tile t) c start pc gate rel vis sc ls mask
    if c = .handler ∨ (start = cyc + 1 ∧ gate = none ∧ (s.tile t).far.port = []) then
      ((s.updFar t fun f => { f with port := [k] }).startFar t).updFar t fun f => { f with port := (s.tile t).far.port }
    else s.updFar t fun f => { f with port := f.port ++ [k] } := by
  unfold State.enterFgo
  refine if_congr ?_ rfl rfl
  simp only [Bool.or_eq_true, Bool.and_eq_true, beq_iff_eq, Option.isNone_iff_eq_none, List.isEmpty_iff, and_assoc]

end Enter

/-- The first command of the port, its gate open and its checks passed, becomes a record. -/
theorem State.Canon.far_startFar (hs : s.Canon) {k : FgoCmd} {ks : List FgoCmd} (hport : (s.tile t).far.port = k :: ks)
    (hgate : gateTrap ((s.tile t).gateState k.ctx k.start k.gate) = none)
    (hcheck : (s.updFar t fun f => { f with port := ks }).fgoCheck t k = none) (hcount : 0 < k.nest.count) :
    let x := { (s.tile t).far with port := ks }
    ((s.startFar t).tile t).far = { x.setNewest k.sec with lastStart := some s.ptime.toNat }.addRec .fgo k k.nest.count
      (k.nest.count * (k.nest.size / 64)) := by
  have hs' : (s.updFar t fun f => { f with port := ks }).Canon := hs.updTile fun x hx => hx
  have htile : (s.updFar t fun f => { f with port := ks }).tile t = { s.tile t with far := { (s.tile t).far with port := ks } } :=
    hs.tile_updTile_same
  unfold State.startFar
  rw [hport]
  dsimp only
  rw [htile, show Tile.gateState { s.tile t with far := { (s.tile t).far with port := ks } } k.ctx k.start k.gate =
    (s.tile t).gateState k.ctx k.start k.gate from rfl, hgate, hcheck]
  dsimp only
  rw [hs'.far_updFar, htile, if_neg hcount.ne']
  rfl

theorem FarEngine.addRec_recs (x : FarEngine) (kind : FarKind) (cmd : FgoCmd) (total n : Nat) :
    ∃ r, (x.addRec kind cmd total n).recs = x.recs ++ [r] ∧ r.kind = kind ∧ r.cmd = cmd ∧ r.next = 0 ∧ r.total = total :=
  ⟨_, rfl, rfl, rfl, rfl, rfl⟩

theorem FarEngine.setNewest_keeps (x : FarEngine) (sec : Bool) : (x.setNewest sec).port = x.port ∧ (x.setNewest sec).recs = x.recs := by
  cases sec <;> exact ⟨rfl, rfl⟩

/-- A sample that falls due is a result in flight. -/
theorem State.Canon.mem_inflight_sampleStream (hs : s.Canon) {cyc : Nat} {d : Delayed} {r : Result} (hd : d ∈ ((s.tile t).stream c).delayed)
    (hat : d.at_ ≤ cyc) (hr : s.sampled t c d = some r) : r ∈ (((s.sampleStream t c cyc).tile t).stream c).inflight := by
  unfold State.sampleStream
  rw [hs.tile_updStream, Tile.stream_setStream]
  refine List.mem_append_right _ (List.mem_filterMap.2 ⟨d, List.mem_filter.2 ⟨hd, ?_⟩, hr⟩)
  rw [decide_eq_true hat, hr]
  rfl

end Commit

end Sys2Proof.Machine

open Sys2Proof Sys2Proof.Machine

/-- Settles O27: the checks condition by condition, the records and the port by the engine after each effect. -/
theorem farCommands : Obligations.FarCommands := by
  unfold Obligations.FarCommands
  refine ⟨fun p x a b lv s => exec_fnest_guarded lv, fun p x a b s => exec_fbase_guarded, fun p x s => exec_fidx_guarded,
    fun p a b dl sc ls s => exec_fgo_guarded dl sc ls, fun p a b sc s => exec_fsig_guarded sc,
    fun p x a b f sc s => (exec_fred_guarded f sc).trans rfl, fun p x sel s => exec_fqry.trans (State.when_eq_guarded rfl),
    fun p n al s => exec_fcan.trans (State.when_eq_guarded rfl), fun s t c b hs => ?_,
    fun s t k ks hs hport hgate hcheck hcount => ?_, fun s t c cyc d sel sec r hs hc hd hat hop => ?_⟩
  · intro x sec u y
    refine ⟨fun lv n ss ds => hs.nest_updNest _, fun src dst n ssp dsp => hs.nest_updNest _, fun v => hs.nest_updNest _,
      fun v n sc slot => ?_, fun len grp count rank chunk v op sc slot => ?_, fun start pc gate rel vis sc ls slot => ?_,
      fun n hn => State.cancel_none hn, fun n d r hd hr hsec => hs.copyAt_cancel hd hr hsec⟩
    · obtain ⟨r, hrecs, hkind, hcmd, hnext, htotal⟩ := x.addRec_recs (.fsig n)
        (plainCmd 0 b.pc sec (c == .handler) (s.tile t).phase 0 v sc 0 (slotBit slot)) 1 0
      exact ⟨r, (congrArg FarEngine.recs (hs.far_updFar _)).trans hrecs, hkind, congrArg FgoCmd.vis hcmd, congrArg FgoCmd.sec hcmd,
        hnext, htotal⟩
    · obtain ⟨r, hrecs, hkind, hcmd, hnext, htotal⟩ := x.addRec_recs (.fred len grp count rank chunk op)
        (plainCmd 0 b.pc sec (c == .handler) (s.tile t).phase 0 v sc 0 (slotBit slot)) 1 len
      exact ⟨r, (congrArg FarEngine.recs (hs.far_updFar _)).trans hrecs, hkind, congrArg FgoCmd.vis hcmd, congrArg FgoCmd.sec hcmd,
        hnext, htotal⟩
    · refine ⟨FgoCmd.entered (s.tile t) c start pc gate rel vis sc ls (slotBit slot), rfl, rfl, rfl, rfl, rfl, rfl, rfl, ?_⟩
      have hu : u (.fgo start pc gate rel vis sc ls slot) = s.enterFgo t c b.cycle start pc gate rel vis sc ls (slotBit slot) := rfl
      rw [show y (.fgo start pc gate rel vis sc ls slot) = ((u (.fgo start pc gate rel vis sc ls slot)).tile t).far from rfl, hu,
        State.enterFgo_eq]
      split
      case isTrue hnow =>
        intro v
        have hv : v.Canon := canon_startFar (hs.updTile fun _ h => h)
        exact hv.far_updFar _
      case isFalse hlater =>
        have hc : (c == .handler) = false := beq_false_of_ne fun h => hlater (.inl h)
        exact ⟨if_neg (by rw [hc]; exact Bool.false_ne_true), hs.far_updFar _⟩
  · rw [hs.far_startFar hport hgate hcheck hcount]
    obtain ⟨hold, hrecs⟩ := FarEngine.setNewest_keeps { (s.tile t).far with port := ks } k.sec
    obtain ⟨r, hadd, hr⟩ := FarEngine.addRec_recs
      { FarEngine.setNewest { (s.tile t).far with port := ks } k.sec with lastStart := some s.ptime.toNat } .fgo k k.nest.count
      (k.nest.count * (k.nest.size / 64))
    exact ⟨hold, r, hadd.trans (congrArg (· ++ [r]) hrecs), hr⟩
  · exact hs.mem_inflight_sampleStream hd hat (by rw [State.sampled, hop])

end

section
/-! PROOFS. Rounds of a collective: contributions, deadlines, and the fold of a round element by element. -/

namespace Sys2Proof.Machine

/-! ## Elements (R321) -/

section Elements

theorem unF32_isNaN (x : BitVec 32) : (unF32 x).isNaN = true ↔ 0x7F800000 < x.toNat % 2 ^ 31 := by
  have hx := x.isLt
  unfold unF32 field
  dsimp only
  split_ifs <;> simp [FV.isNaN] <;> omega

theorem enterElem_add (x : Nat) : enterElem 4 x = BitVec.ofNat 32 x := rfl

theorem enterElem_f32 {op : BitVec 4} (h4 : op ≠ 4) (h3 : op ≠ 3) (x : Nat) : enterElem op x =
    if (BitVec.ofNat 32 x).toNat % 2 ^ 31 > 0x7F800000 then 0x7FC00000 else BitVec.ofNat 32 x := by
  unfold enterElem
  dsimp only
  rw [if_neg h4, if_neg h3]
  exact if_congr (unF32_isNaN _) rfl rfl

theorem enterElem_bf16 (x : Nat) : enterElem 3 x =
    if (BitVec.ofNat 16 x).toNat % 2 ^ 15 > 0x7F80 then 0x7FC00000 else BitVec.ofNat 32 ((BitVec.ofNat 16 x).toNat * 65536) := by
  have hwide : (BitVec.ofNat 16 x ++ (0 : BitVec 16)) = BitVec.ofNat 32 ((BitVec.ofNat 16 x).toNat * 65536) := by
    refine BitVec.eq_of_toNat_eq ?_
    rw [BitVec.toNat_append, BitVec.toNat_ofNat (w := 32), Nat.shiftLeft_eq]
    have := (BitVec.ofNat 16 x).isLt
    rw [show (0 : BitVec 16).toNat = 0 from rfl, Nat.or_zero]
    omega
  have hlt := (BitVec.ofNat 16 x).isLt
  have hnan : (unF32 (BitVec.ofNat 16 x ++ (0 : BitVec 16))).isNaN = true ↔ (BitVec.ofNat 16 x).toNat % 2 ^ 15 > 0x7F80 := by
    rw [unF32_isNaN, hwide, BitVec.toNat_ofNat (w := 32)]
    omega
  unfold enterElem
  dsimp only
  rw [if_neg (by decide), if_pos rfl, hwide]
  exact if_congr (by rw [← hwide]; exact hnan) rfl rfl

theorem length_elements (z n : Nat) (bs : List Byte) : (elements z n bs).length = n := by
  induction n generalizing bs with
  | zero => rfl
  | succ n ih => rw [elements, List.length_cons, ih]

theorem getElem?_elements {z n i : Nat} (bs : List Byte) (hi : i < n) : (elements z n bs)[i]? = some (ofBytes ((bs.drop (z * i)).take z)) := by
  induction n generalizing i bs with
  | zero => omega
  | succ n ih =>
    cases i with
    | zero => rfl
    | succ i =>
      rw [elements, List.getElem?_cons_succ, ih _ (by omega), List.drop_drop]
      rw [Nat.mul_succ, Nat.add_comm]

/-- The element at an index of a fold of rows, each with one at it. -/
theorem getElem?_foldl_zipWith {α β : Type} {f : α → α → α} {r : List α} {x : α} {i : Nat} (hx : r[i]? = some x) (at_ : β → α)
    (row : β → List α) (rs : List β) (hrow : ∀ b ∈ rs, (row b)[i]? = some (at_ b)) :
    ((rs.foldl (fun acc b => acc.zipWith f (row b)) r))[i]? = some (rs.foldl (fun acc b => f acc (at_ b)) x) := by
  induction rs generalizing r x with
  | nil => exact hx
  | cons b rs ih =>
    refine ih ?_ fun b hb => hrow b (List.mem_cons_of_mem _ hb)
    rw [List.getElem?_zipWith, hx, hrow b List.mem_cons_self]

/-- Items of one length each, one after another: those of one of them. -/
theorem drop_take_flatten {z i : Nat} {ls : List (List Byte)} {l : List Byte} (hz : ∀ l ∈ ls, l.length = z) (hl : ls[i]? = some l) :
    (ls.flatten.drop (z * i)).take z = l := by
  induction ls generalizing i with
  | nil => cases hl
  | cons y ls ih =>
    have hy := hz y List.mem_cons_self
    rw [List.flatten_cons]
    cases i with
    | zero =>
      obtain rfl : y = l := Option.some_inj.1 hl
      rw [Nat.mul_zero, List.drop_zero, List.take_append_of_le_length hy.ge, List.take_of_length_le hy.le]
    | succ i =>
      rw [Nat.mul_succ, Nat.add_comm, ← List.drop_drop, List.drop_append_of_le_length hy.ge, List.drop_of_length_le hy.le,
        List.nil_append]
      exact ih (fun l hl => hz l (List.mem_cons_of_mem _ hl)) hl

theorem elemSize_dvd (op : BitVec 4) (len : Nat) : elemSize op ∣ 64 * len := by
  unfold elemSize
  split
  · exact Dvd.dvd.mul_right (by decide) len
  · exact Dvd.dvd.mul_right (by decide) len

/-- The result of a round at an element: the left fold of the contributions there (R321). -/
theorem reduceRound_elem (op : BitVec 4) (len : Nat) (a : List Byte) (cs : List (List Byte)) (i : Nat) (hi : elemSize op * i < 64 * len) :
    let at_ : List Byte → Nat := fun b => ofBytes ((b.drop (elemSize op * i)).take (elemSize op))
    at_ (reduceRound op len (a :: cs)) =
      leaveElem op (cs.foldl (fun acc b => foldElem op acc (enterElem op (at_ b))) (enterElem op (at_ a))) % 256 ^ elemSize op := by
  intro at_
  have hlt : i < 64 * len / elemSize op := by
    rw [Nat.lt_div_iff_mul_lt' (elemSize_dvd op len)]
    exact hi
  have hrow (b : List Byte) : ((elements (elemSize op) (64 * len / elemSize op) b).map (enterElem op))[i]? = some (enterElem op (at_ b)) := by
    rw [List.getElem?_map, getElem?_elements b hlt, Option.map_some]
  have hfold := getElem?_foldl_zipWith (f := foldElem op) (hrow a) (fun b => enterElem op (at_ b))
    (fun b => (elements (elemSize op) (64 * len / elemSize op) b).map (enterElem op)) cs fun b _ => hrow b
  have hget := congrArg (Option.map fun x => toBytes (elemSize op) (leaveElem op x)) hfold
  rw [← List.getElem?_map, Option.map_some] at hget
  have hbytes := drop_take_flatten (z := elemSize op) (fun l hl => by
    obtain ⟨x, -, rfl⟩ := List.mem_map.1 hl
    exact length_toBytes ..) hget
  have hred : reduceRound op len (a :: cs) = ((cs.foldl (fun acc b => acc.zipWith (foldElem op)
      ((elements (elemSize op) (64 * len / elemSize op) b).map (enterElem op)))
      ((elements (elemSize op) (64 * len / elemSize op) a).map (enterElem op))).map
        fun x => toBytes (elemSize op) (leaveElem op x)).flatten := by
    unfold reduceRound
    dsimp only
    rw [List.map_cons]
    dsimp only
    rw [List.foldl_map]
  dsimp only [at_]
  rw [hred, hbytes, ofBytes_toBytes]

end Elements

/-! ## Deadlines (R323, R379) -/

section Deadline
variable {s : State} {j : BitVec 32}

/-- A list in order is sorted as it stands. -/
theorem sortBy_of_pairwise {α : Type} {le : α → α → Bool} {l : List α} (h : l.Pairwise fun a b => le a b = true) : sortBy le l = l := by
  have hinsert (x : α) (acc : List α) (hx : ∀ y ∈ acc, le y x = true) : insertBy le x acc = acc ++ [x] := by
    induction acc with
    | nil => rfl
    | cons y acc ih =>
      rw [insertBy, if_pos (hx y List.mem_cons_self), ih fun z hz => hx z (List.mem_cons_of_mem _ hz)]
      rfl
  have hfold (acc l : List α) (h : (acc ++ l).Pairwise fun a b => le a b = true) :
      l.foldl (fun ys x => insertBy le x ys) acc = acc ++ l := by
    induction l generalizing acc with
    | nil => exact (List.append_nil acc).symm
    | cons x l ih =>
      have hx : ∀ y ∈ acc, le y x = true := fun y hy => (List.pairwise_append.1 h).2.2 y hy x List.mem_cons_self
      rw [List.foldl_cons, hinsert x acc hx, ih _ (by rwa [List.append_assoc]), List.append_assoc]
      rfl
  exact hfold [] l h

theorem State.deadline_unmoved (grp : BitVec 16) (n : Nat) (h : ∀ m ∈ s.moved, m.1 ≠ j) :
    s.deadline j grp n = Config.roundDeadline j grp n := by
  have hnone : s.moved.filter (fun m => m.1 == j) = [] := List.filter_eq_nil_iff.2 fun m hm heq => h m hm (eq_of_beq heq)
  rw [State.deadline, hnone]
  rfl

theorem State.deadline_moved (grp : BitVec 16) (n : Nat) {ms : List (BitVec 32 × Nat × Nat)} (hms : s.moved.filter (fun m => m.1 == j) = ms)
    (hsorted : ms.Pairwise fun a b => a.2.1 ≤ b.2.1) :
    s.deadline j grp n = ms.foldl (fun d m => if m.2.1 ≤ d then d + m.2.2 else d) (Config.roundDeadline j grp n) := by
  rw [State.deadline, hms, sortBy_of_pairwise (hsorted.imp fun h => decide_eq_true h)]

/-- The amount noted for a tick of a job, and that no other is changed. -/
theorem State.mem_moved_noteMove {tb k : Nat} (hk : 0 < k) :
    (∃ m, (j, tb, m) ∈ (s.noteMove j tb k).moved ∧ k ≤ m ∧ (m = k ∨ (j, tb, m) ∈ s.moved)) ∧
    ∀ m, m.1 ≠ j ∨ m.2.1 ≠ tb → (m ∈ (s.noteMove j tb k).moved ↔ m ∈ s.moved) := by
  unfold State.noteMove
  rw [if_neg hk.ne']
  cases hfind : s.moved.find? fun m => m.1 == j && m.2.1 == tb with
  | none =>
    refine ⟨⟨k, List.mem_append_right _ List.mem_cons_self, le_rfl, .inl rfl⟩, fun m hm => ?_⟩
    have hne : m ≠ (j, tb, k) := fun h => by subst h; exact hm.elim (fun h => h rfl) fun h => h rfl
    simp [hne]
  | some m0 =>
    have hm0 := List.mem_of_find?_eq_some hfind
    have heq : m0.1 = j ∧ m0.2.1 = tb := by
      simpa only [Bool.and_eq_true, beq_iff_eq] using List.find?_some hfind
    refine ⟨⟨max m0.2.2 k, List.mem_map.2 ⟨m0, hm0, if_pos heq⟩, le_max_right .., ?_⟩, fun m hm => ?_⟩
    · rcases le_total m0.2.2 k with h | h
      · exact .inl (max_eq_right h)
      · obtain ⟨rfl, rfl⟩ := heq
        exact .inr (by rw [max_eq_left h]; exact hm0)
    · have hne : ¬ (m.1 = j ∧ m.2.1 = tb) := fun h => hm.elim (fun hj => hj h.1) fun ht => ht h.2
      refine List.mem_map.trans ⟨fun ⟨m', hm', h⟩ => ?_, fun h => ⟨m, h, if_neg hne⟩⟩
      split at h
      case isTrue => exact absurd ⟨congrArg Prod.fst h.symm, congrArg (fun m => m.2.1) h.symm⟩ hne
      case isFalse => rwa [← h]

end Deadline

/-! ## Contributions (R320, R323) -/

section Contribution
variable (s : State) (c : Contribution)

theorem execContributionArrival_eq (hext : s.ext = .contribution c) :
    let r := s.round c.job c.grp c.round
    let due := s.deadline c.job c.grp c.round
    let first := r.got = [] ∧ r.err = false ∧ r.delivered = false ∧ r.late = false
    let u := if first then s.after (due - s.ptime.toNat) (.roundDeadline c.grp c.round) else s
    execContributionArrival s = .next
      (if r.delivered = true ∨ r.late = true ∨ due < s.ptime.toNat ∨ r.err = true then s.errContributor c
       else if (r.got.any fun x => x.len != c.len || x.count != c.count || x.op != c.op || x.rank == c.rank) = true then
         ((r.got ++ [c]).foldl State.errContributor s).setRound { r with got := [], err := true }
       else if r.got.length + 1 = c.count then
         (u.setRound { r with got := [], delivered := true }).multicast { r with got := r.got ++ [c] }
       else u.setRound { r with got := r.got ++ [c] }) := by
  intro r due first u
  have hr : r = s.round c.job c.grp c.round := rfl
  have hdue : due = s.deadline c.job c.grp c.round := rfl
  have hu : (if r.got.isEmpty && !r.err && !r.delivered && !r.late then s.after (due - s.ptime.toNat) (.roundDeadline c.grp c.round)
      else s) = u := by
    refine if_congr ?_ rfl rfl
    simp only [Bool.and_eq_true, List.isEmpty_iff, Bool.not_eq_true', and_assoc, first]
  unfold execContributionArrival
  rw [hext]
  dsimp only
  rw [← hr, ← hdue, hu]
  clear_value u r due
  by_cases hlate : (r.delivered || r.late || decide (due < s.ptime.toNat)) = true
  · have h : r.delivered = true ∨ r.late = true ∨ due < s.ptime.toNat := by
      simpa only [Bool.or_eq_true, decide_eq_true_eq, or_assoc] using hlate
    rw [if_pos hlate, if_pos (h.imp_right fun h => h.imp_right .inl)]
  have hnot : ¬ (r.delivered = true ∨ r.late = true ∨ due < s.ptime.toNat) := by
    simpa only [Bool.or_eq_true, decide_eq_true_eq, or_assoc] using hlate
  rw [if_neg hlate]
  by_cases herr : r.err = true
  · rw [if_pos herr, if_pos (.inr (.inr (.inr herr)))]
  have hopen : ¬ (r.delivered = true ∨ r.late = true ∨ due < s.ptime.toNat ∨ r.err = true) :=
    fun h => hnot (h.imp_right fun h => h.imp_right fun h => h.resolve_right herr)
  have hlen : (r.got ++ [c]).length = r.got.length + 1 := by rw [List.length_append, List.length_singleton]
  rw [if_neg herr, if_neg hopen, hlen]
  by_cases hdis : disagrees c r.got = true
  · rw [if_pos hdis]
    exact congrArg Host.Outcome.next (if_pos hdis).symm
  · rw [if_neg hdis]
    exact congrArg Host.Outcome.next (if_neg hdis).symm

theorem State.errContributor_none (hc : c.tile = none) : s.errContributor c = s := by
  rw [State.errContributor, hc]

theorem State.errContributor_some {t : Nat} {slot : BitVec 6} {k : Copy} {r : FarRec} (hc : c.tile = some (t, slot))
    (hk : s.copyAt t slot.toNat = some k) (hr : s.recOf t k = some r) : s.errContributor c = s.cancelRec t r := by
  rw [State.errContributor, hc]
  dsimp only
  rw [hk, Option.bind_some, hr]

end Contribution

end Sys2Proof.Machine

open Sys2Proof Sys2Proof.Machine

/-- Settles O48: a round by the branches of its contribution, its result by the fold at each element. -/
theorem collectiveRounds : Obligations.CollectiveRounds := by
  unfold Obligations.CollectiveRounds
  refine ⟨fun s hc => ?_, fun s c hext => exec_contributionArrival.trans (execContributionArrival_eq s c hext), fun g n s => ?_, fun s r => ?_,
    fun s j g n h => State.deadline_unmoved g n h, fun s j g n ms hms hsorted => State.deadline_moved g n hms hsorted,
    fun s j tb k hk => State.mem_moved_noteMove hk, fun s c hc => s.errContributor_none c hc,
    fun s c t slot k r hc hk hr => s.errContributor_some c hc hk hr, fun s t r => ?_, fun s r c cs hgot => ?_,
    fun l => ⟨perm_sortBy _, ?_⟩, fun op len a cs i hlen => ?_, fun a b => ⟨rfl, rfl, rfl, rfl, rfl⟩,
    fun x => ⟨rfl, fun op hop => ?_, enterElem_bf16 x⟩, fun x op hop => ?_, fun x => rfl⟩
  · rw [exec_contributionArrival, execContributionArrival]
    split
    case h_1 c h => exact absurd h (hc c)
    case h_2 => rfl
  · intro rs u ahead
    have hahead : ahead = ((rs.filter fun r => !r.delivered && !r.err && !r.late).map fun r => u.deadline r.job g n).filter
      fun d => decide (u.ptime.toNat < d) := rfl
    rw [exec_roundDeadline, execRoundDeadline, ← hahead]
    cases ahead.min? <;> rfl
  · rw [State.endRound]
    refine if_congr ?_ rfl rfl
    simp only [Bool.or_eq_true, decide_eq_true_eq, or_assoc]
  · intro u
    rw [State.cancelRec, List.foldl_map]
  · intro ranked data
    unfold State.multicast
    split
    case h_1 h =>
      rw [hgot] at h
      cases h
    case h_2 c' cs' h =>
      rw [hgot] at h
      cases h
      rfl
  · have h := pairwise_sortBy (le := fun a b : Contribution => decide (a.rank ≤ b.rank))
      (fun a b => by simp only [decide_eq_true_eq]; omega) (fun a b c => by simp only [decide_eq_true_eq]; omega) l
    exact h.imp of_decide_eq_true
  · intro z at_ hi
    exact reduceRound_elem op len a cs i hi
  · simp only [List.mem_cons, List.not_mem_nil, or_false] at hop
    obtain rfl | rfl | rfl := hop <;> exact enterElem_f32 (by decide) (by decide) x
  · simp only [List.mem_cons, List.not_mem_nil, or_false] at hop
    obtain rfl | rfl | rfl | rfl := hop <;> rfl

end

section
/-! PROOFS. The issue of bundles: each event by its guards, the waiting port uses, and what an issued bundle leaves in its stream. -/

namespace Sys2Proof.Machine

/-! ## The primary stream -/

section Primary
variable {s : State} {t : Nat} {r : Rerun}

theorem execBlockRerun_none (h : (s.tile t).prim.rerun = none) : execBlockRerun t s = .next s := by
  unfold execBlockRerun
  rw [h]

theorem execBlockRerun_rewind (h : (s.tile t).prim.rerun = some r) (hr : 0 < r.rewind) : execBlockRerun t s =
    .next (s.updTile t fun x => { x with prim := { x.prim with rerun := some ⟨r.rewind - 1, r.cyc⟩ } }) := by
  unfold execBlockRerun
  rw [h]
  exact if_pos hr

theorem execBlockRerun_waits (h : (s.tile t).prim.rerun = some r) (hr : r.rewind = 0) (hw : s.streamWaits t .primary = true) :
    execBlockRerun t s = .next s := by
  unfold execBlockRerun
  rw [h]
  dsimp only
  rw [if_neg (by omega), if_pos hw]

theorem execBlockRerun_cycle (h : (s.tile t).prim.rerun = some r) (hr : r.rewind = 0) (hw : s.streamWaits t .primary = false) :
    let u := s.landAll t .primary r.cyc
    let f := u.fetchAt t .primary (u.tile t).prim.pc
    let v := if u.primReady t = true then u.issueNext t .primary (u.tile t).prim.pc r.cyc else u
    execBlockRerun t s = .next
      (if f.fault = none ∧ (u.tile t).gateWaits .primary r.cyc f.issueGate = true then u
       else v.updTile t fun x => { x with prim := { x.prim with rerun := x.prim.rerun.map fun (y : Rerun) =>
         if y.rewind = 0 then ⟨0, y.cyc + 1⟩ else y } }) := by
  intro u f v
  have hu : u = s.landAll t .primary r.cyc := rfl
  unfold execBlockRerun
  rw [h]
  dsimp only
  rw [if_neg (by omega), if_neg (by rw [hw]; exact Bool.false_ne_true), ← hu]
  have hcond : (f.fault.isNone && (u.tile t).gateWaits .primary r.cyc f.issueGate) = true ↔
      f.fault = none ∧ (u.tile t).gateWaits .primary r.cyc f.issueGate = true := by
    rw [Bool.and_eq_true, Option.isNone_iff_eq_none]
  by_cases hf : f.fault = none ∧ (u.tile t).gateWaits .primary r.cyc f.issueGate = true
  · rw [if_pos hf, if_pos (hcond.2 hf)]
  · rw [if_neg hf, if_neg (mt hcond.1 hf)]

end Primary

/-! ## The secondary stream and the handler -/

section Interlocked
variable {s : State} {t : Nat}

theorem execSecondaryIssue_eq :
    let r := s.regionOf t
    let k := (s.region r).rtime
    let u := if s.regionMoves r = true then s.asyncPorts t .secondary k else s
    let x := u.tile t
    let f := u.fetchAt t .secondary x.sec.pc
    execSecondaryIssue t s = .next
      (if x.st = .bound ∧ x.secRun = true ∧ x.ended = false ∧ u.regionMoves r = true ∧ x.sec.issued = none ∧ x.sec.nextIssue ≤ k ∧
          u.streamWaits t .secondary = false ∧ u.tileHalted t = false ∧
          (f.fault ≠ none ∨ f.hdr.slots &&& ((x.prim.issued.map Issued.slots).getD 0) = 0) then
        u.issueInterlocked t .secondary x.sec.pc k else u) := by
  intro r k u x f
  have hcond : (u.secReady t k && u.regionMoves r &&
      (f.fault.isSome || f.hdr.slots &&& ((x.prim.issued.map Issued.slots).getD 0) == 0)) = true ↔
      x.st = .bound ∧ x.secRun = true ∧ x.ended = false ∧ u.regionMoves r = true ∧ x.sec.issued = none ∧ x.sec.nextIssue ≤ k ∧
          u.streamWaits t .secondary = false ∧ u.tileHalted t = false ∧
          (f.fault ≠ none ∨ f.hdr.slots &&& ((x.prim.issued.map Issued.slots).getD 0) = 0) := by
    unfold State.secReady
    simp only [Bool.and_eq_true, Bool.or_eq_true, beq_iff_eq, decide_eq_true_eq, Bool.not_eq_true', Option.isNone_iff_eq_none,
      ← Option.isSome_iff_ne_none]
    tauto
  have hu : u = if s.regionMoves (s.regionOf t) = true then s.asyncPorts t .secondary (s.region (s.regionOf t)).rtime else s := rfl
  unfold execSecondaryIssue
  dsimp only
  rw [← hu]
  clear_value u
  obtain ⟨i, hi⟩ : ∃ i, (u.tile t).prim.issued = i := ⟨_, rfl⟩
  simp only [x, hi] at hcond ⊢
  cases i <;> exact (apply_ite Host.Outcome.next _ _ _).symm.trans (congrArg Host.Outcome.next (if_congr hcond rfl rfl))

theorem mem_fetchLines {pc next ln : Nat} (h : pc < next) :
    ln ∈ fetchLines pc next ↔ ∃ a, 4 * pc ≤ a ∧ a < 4 * next ∧ ln = a / 256 := by
  simp only [fetchLines, List.mem_map, List.mem_range]
  constructor
  · rintro ⟨i, hi, rfl⟩
    exact ⟨max (4 * pc) (256 * (4 * pc / 256 + i)), by omega, by omega, by omega⟩
  · rintro ⟨a, h1, h2, rfl⟩
    exact ⟨a / 256 - 4 * pc / 256, by omega, by omega⟩

section Handler
variable {h : Handler} (hh : (s.tile t).hm = some h)
include hh

theorem execHandlerBundleIssue_waits :
    let u := s.asyncPorts t .handler s.ptime.toNat
    (u.streamWaits t .handler = true ∨ s.ptime.toNat < h.next ∨ h.leaving = true ∨ h.waiting = true ∨ h.issued ≠ none ∨
      u.tileHalted t = true) → execHandlerBundleIssue t s = .next u := by
  intro u hw
  have hu : u = s.asyncPorts t .handler s.ptime.toNat := rfl
  unfold execHandlerBundleIssue
  rw [hh]
  dsimp only
  rw [← hu]
  clear_value u
  by_cases hs : u.streamWaits t .handler = true
  · rw [if_pos hs]
  · rw [if_neg hs, if_pos]
    simp only [Bool.or_eq_true, decide_eq_true_eq, Option.isSome_iff_ne_none]
    tauto

theorem execHandlerBundleIssue_goes :
    let u := s.asyncPorts t .handler s.ptime.toNat
    u.streamWaits t .handler = false → h.next ≤ s.ptime.toNat → h.leaving = false → h.waiting = false → h.issued = none →
    u.tileHalted t = false →
    let f := u.fetchAt t .handler h.pc
    let ls := fetchLines h.pc f.next
    let v := u.updTile t fun x => ls.foldl (fun x ln => x.scrub ln) x
    execHandlerBundleIssue t s = .next
      (if h.started = false ∧ ((∃ ln ∈ ls, (u.tile t).ueccLine ln = true) ∨ f.fault ≠ none) then v.double t
       else if ∃ ln ∈ ls, (u.tile t).ueccLine ln = true then v.issueUecc t h.pc f.next s.ptime.toNat
       else v.issueInterlocked t .handler h.pc s.ptime.toNat) := by
  intro u hw hnext hleaving hwaiting hissued hhalted f ls v
  have hu : u = s.asyncPorts t .handler s.ptime.toNat := rfl
  have hf : f = u.fetchAt t .handler h.pc := rfl
  have hls : ls = fetchLines h.pc f.next := rfl
  have hv : v = u.updTile t fun x => ls.foldl (fun x ln => x.scrub ln) x := rfl
  unfold execHandlerBundleIssue
  rw [hh]
  dsimp only
  rw [← hu, ← hf, ← hls, ← hv, if_neg (by rw [hw]; exact Bool.false_ne_true), if_neg (by
    simp [hleaving, hwaiting, hissued, hhalted, Nat.not_lt.2 hnext])]
  clear_value v ls f u
  have hbad : ls.any (u.tile t).ueccLine = true ↔ ∃ ln ∈ ls, (u.tile t).ueccLine ln = true := List.any_eq_true
  have hdouble : (!h.started && (ls.any (u.tile t).ueccLine || f.fault.isSome)) = true ↔
      h.started = false ∧ ((∃ ln ∈ ls, (u.tile t).ueccLine ln = true) ∨ f.fault ≠ none) := by
    rw [Bool.and_eq_true, Bool.or_eq_true, Bool.not_eq_true', hbad, Option.isSome_iff_ne_none]
  by_cases h2 : h.started = false ∧ ((∃ ln ∈ ls, (u.tile t).ueccLine ln = true) ∨ f.fault ≠ none)
  · rw [if_pos (hdouble.2 h2), if_pos h2]
  · rw [if_neg (mt hdouble.1 h2), if_neg h2]
    exact (apply_ite Host.Outcome.next _ _ _).symm.trans (congrArg Host.Outcome.next (if_congr hbad rfl rfl))

end Handler

/-! ## Port uses that wait (R187, R192) -/

theorem State.asyncPorts_nil {c : Ctx} {cyc : Nat} (h : (s.tile t).portsOf c = []) : s.asyncPorts t c cyc = s := by
  unfold State.asyncPorts
  rw [h]
  rfl

theorem State.asyncPort_eq (c : Ctx) (cyc k sl : Nat) (wr : Bool) (ln n : Nat) (fill : List (Nat × Nat)) :
    s.asyncPort t c cyc ⟨k, sl, .aport wr ln n fill⟩ =
    if cyc < k then s.addPort t c ⟨k, sl, .aport wr ln n fill⟩
    else if s.portTaken t ln wr = true then
      (s.updTile t fun x => x.portLate c ⟨k, sl, .aport wr ln n fill⟩ n wr false cyc).addPort t c ⟨cyc + 1, sl, .aport wr ln n fill⟩
    else (s.takeAsync t ln wr).updTile t fun x => (x.refill c sl n fill).portLate c ⟨k, sl, .aport wr ln n fill⟩ n wr true cyc := rfl

theorem State.issueInterlocked_cases (c : Ctx) (pc cyc : Nat) :
    let f := s.fetchAt t c pc
    let ls := portTurns (s.bundleLines t c pc cyc f) []
    let waits := s.operandsReady t c f = false ∨ (∃ l ∈ ls, s.portTaken t l.ln false = true) ∨
      (s.tile t).gateWaits c cyc f.issueGate = true
    (f.fault ≠ none → s.issueInterlocked t c pc cyc = s.issueNext t c pc cyc) ∧
    (f.fault = none → f.hdr.sig = true → s.issueInterlocked t c pc cyc =
      if (0x08 : BitVec 6) ∈ (s.tile t).pendingSys c cyc then s else s.issueNext t c pc cyc) ∧
    (f.fault = none → f.hdr.sig = false → waits → s.issueInterlocked t c pc cyc = s) ∧
    (f.fault = none → f.hdr.sig = false → ¬ waits → ls = [] → s.issueInterlocked t c pc cyc = s.issueBundle t c pc cyc f) := by
  intro f ls waits
  have hf : f = s.fetchAt t c pc := rfl
  have hls : ls = portTurns (s.bundleLines t c pc cyc f) [] := rfl
  have hwaits : (!s.operandsReady t c f || ls.any (fun l => s.portTaken t l.ln false) || (s.tile t).gateWaits c cyc f.issueGate) = true ↔
      waits := by
    simp only [Bool.or_eq_true, Bool.not_eq_true', List.any_eq_true, or_assoc, waits]
  unfold State.issueInterlocked
  dsimp only
  rw [← hf, ← hls]
  clear_value f
  refine ⟨fun h => ?_, fun h hsig => ?_, fun h hsig hw => ?_, fun h hsig hw hnil => ?_⟩
  · rw [if_pos (Option.isSome_iff_ne_none.2 h)]
  · rw [if_neg (by rw [h]; exact Bool.false_ne_true), if_pos hsig]
    exact if_congr List.contains_iff_mem rfl rfl
  · rw [if_neg (by rw [h]; exact Bool.false_ne_true), if_neg (by rw [hsig]; exact Bool.false_ne_true), if_pos (hwaits.2 hw)]
  · rw [if_neg (by rw [h]; exact Bool.false_ne_true), if_neg (by rw [hsig]; exact Bool.false_ne_true), if_neg (mt hwaits.1 hw), hnil]
    rfl

end Interlocked

/-! ## The bundle at hand (R126, R127, R132) -/

/-- A shadow record is that of a bundle, whatever its syllables have entered in it. -/
def Issued.Of (b i : Issued) : Prop := i.pc = b.pc ∧ i.next = b.next ∧ i.cycle = b.cycle ∧ i.slots = b.slots ∧ i.sig = b.sig

/-- A stream of a tile, not the handler's, has issued a bundle, and is else as `st`. -/
structure State.Issuing (v : State) (t : Nat) (c : Ctx) (st : Stream) (b : Issued) : Prop where
  canon : v.Canon
  tile : v.cur.tile = t
  ctx : v.cur.ctx = c
  stream : ∃ i, (v.tile t).stream c = { st with issued := some i } ∧ b.Of i

section Bundle
variable {v : State} {t : Nat} {c : Ctx} {st : Stream} {b : Issued} {f : Fetched}

theorem State.Issuing.updIssued (h : v.Issuing t c st b) (hc : c ≠ .handler) {f : Issued → Issued} (hf : ∀ i : Issued, i.Of (f i)) :
    (v.updIssued f).Issuing t c st b := by
  obtain ⟨hv, rfl, rfl, i, hi, hpc, hnext, hcycle, hslots, hsig⟩ := h
  obtain ⟨fpc, fnext, fcycle, fslots, fsig⟩ := hf i
  refine ⟨canon_updIssued hv, rfl, rfl, f i, ?_, fpc.trans hpc, fnext.trans hnext, fcycle.trans hcycle, fslots.trans hslots, fsig.trans hsig⟩
  unfold State.updIssued
  rw [hv.tile_updTile_same]
  split
  case h_1 h => exact absurd h hc
  case h_2 => rw [Tile.stream_setStream, hi]; rfl

theorem State.Issuing.spend (h : v.Issuing t c st b) : v.spend.Issuing t c st b :=
  ⟨canon_spend h.canon, h.tile, h.ctx, h.stream⟩

theorem State.Issuing.slot (h : v.Issuing t c st b) (n : Nat) : ({ v with cur := { v.cur with slot := n } } : State).Issuing t c st b :=
  ⟨canon_eta.2 h.canon, h.tile, h.ctx, h.stream⟩

variable (hc : c ≠ .handler)
include hc

theorem State.Issuing.emit (h : v.Issuing t c st b) (e : Effect) : (v.emit e).Issuing t c st b :=
  h.updIssued hc fun _ => ⟨rfl, rfl, rfl, rfl, rfl⟩

theorem State.Issuing.raise (h : v.Issuing t c st b) (code : BitVec 6) (info : BitVec 8) (addr : W64) :
    (v.raise code info addr).Issuing t c st b := by
  unfold State.raise
  refine (State.Issuing.updIssued h hc ?_).spend
  exact fun _ => ⟨rfl, rfl, rfl, rfl, rfl⟩

/-- What the sequencer does of itself at a loop's end is an effect or a cause of the bundle. -/
theorem State.Issuing.bodyEnd (h : v.Issuing t c st b) : (v.bodyEnd f).Issuing t c st b := by
  unfold State.bodyEnd State.loopEnd
  split_ifs
  · exact h
  · exact (h.slot 2).raise hc ..
  · exact h
  · split
    · split_ifs
      · exact h.emit hc _
      · exact (h.slot 2).raise hc ..
    · exact h.emit hc _

omit hc in
/-- The opening of a block changes no register, and no word of a program. -/
theorem State.Canon.openBlock_keeps {s : State} (hs : s.Canon) (hc : c ≠ .handler) (cyc : Nat) :
    (((s.openBlock t c cyc).tile t).stream c).regs = ((s.tile t).stream c).regs ∧
    ∀ a, ((s.openBlock t c cyc).tile t).word c a = (s.tile t).word c a := by
  unfold State.openBlock
  split
  · exact ⟨rfl, fun _ => rfl⟩
  · rw [hs.tile_updTile_same]
    cases c with
    | handler => exact absurd rfl hc
    | primary | secondary => exact ⟨rfl, fun _ => rfl⟩

theorem Tile.word_setStream (x : Tile) (st : Stream) (a : Nat) : (x.setStream c st).word c a = x.word c a := by
  cases c with
  | handler => exact absurd rfl hc
  | primary | secondary => rfl

theorem State.shadow_eq (u : State) (b : Issued) :
    u.shadow t c b = u.updStream t c fun x => { x with issued := some b, pc := b.next, nextIssue := b.cycle + 1 } := by
  unfold State.shadow
  split
  case h_1 => exact absurd rfl hc
  case h_2 => rfl

/-- A bundle that enters its shadow, its words folded. -/
theorem State.Canon.issuing_shadow {u : State} (hu : u.Canon) (b : Issued) (ws : List Nat) (k : Cursor) (hk : k.tile = t) (hkc : k.ctx = c) :
    State.Issuing { (u.shadow t c b).updStream t c fun y => { y with foldH := foldWords y.foldH ws } with cur := k } t c
      { (u.tile t).stream c with pc := b.next, nextIssue := b.cycle + 1, foldH := foldWords ((u.tile t).stream c).foldH ws } b := by
  have hshadow := u.shadow_eq (t := t) hc b
  have hsc : (u.shadow t c b).Canon := canon_shadow hu
  refine ⟨canon_eta.2 (canon_updStream hsc), hk, hkc, b, ?_, rfl, rfl, rfl, rfl, rfl⟩
  change (((u.shadow t c b).updStream t c fun y => { y with foldH := foldWords y.foldH ws }).tile t).stream c = _
  rw [hsc.tile_updStream, Tile.stream_setStream, hshadow, hu.tile_updStream, Tile.stream_setStream]

theorem State.Canon.issuing_issueBundle {s : State} (hs : s.Canon) (pc cyc : Nat) :
    let u := s.openBlock t c cyc
    let ws := (List.range (f.next - pc)).map fun i => (s.tile t).word c (pc + i)
    ∃ b, b.pc = pc ∧ b.next = f.next ∧ b.cycle = cyc ∧ b.slots = f.hdr.slots ∧ b.sig = false ∧
      (s.issueBundle t c pc cyc f).Issuing t c
        { (u.tile t).stream c with pc := f.next, nextIssue := cyc + 1, foldH := foldWords ((u.tile t).stream c).foldH ws } b := by
  intro u ws
  have hu : u.Canon := canon_openBlock hs
  have hword (b : Issued) (a : Nat) : (((s.openBlock t c cyc).shadow t c b).tile t).word c a = (s.tile t).word c a := by
    rw [State.shadow_eq hc, hu.tile_updStream, Tile.word_setStream hc, (hs.openBlock_keeps hc cyc).2]
  unfold State.issueBundle
  dsimp only
  rw [if_neg hc]
  simp only [hword]
  refine ⟨{
      pc := pc, next := f.next, cycle := cyc, slots := f.hdr.slots, pp := f.hdr.pp, pops := (c == .primary && f.instrs.any draws),
      sig := false, effects := [], causes := [], entries := [], marks := false, fold := ((u.tile t).stream c).foldH },
    rfl, rfl, rfl, rfl, rfl, State.Issuing.bodyEnd hc ?_⟩
  split
  · exact hu.issuing_shadow hc _ ws _ rfl rfl
  · refine (State.Issuing.updIssued ?_ hc ?_).spend
    · exact hu.issuing_shadow hc _ ws _ rfl rfl
    · exact fun _ => ⟨rfl, rfl, rfl, rfl, rfl⟩

end Bundle

end Sys2Proof.Machine

open Sys2Proof Sys2Proof.Machine

/-- Settles O43: each event by its guards; an issued bundle by what stays in its stream's shadow while its syllables enter effects. -/
theorem issueEvents : Obligations.IssueEvents := by
  unfold Obligations.IssueEvents
  refine ⟨fun t s => ?_, fun t s => ?_, fun t s h => exec_blockRerun.trans (execBlockRerun_none h),
    fun t s r h hr => exec_blockRerun.trans (execBlockRerun_rewind h hr),
    fun t s r h hr hw => exec_blockRerun.trans (execBlockRerun_waits h hr hw),
    fun t s r h hr hw => exec_blockRerun.trans (execBlockRerun_cycle h hr hw), fun t s => exec_secondaryIssue.trans execSecondaryIssue_eq,
    fun t s h => ?_, fun t s h hh hw => exec_handlerBundleIssue.trans (execHandlerBundleIssue_waits hh hw),
    fun t s h hh hw hnext hleaving hwaiting hissued hhalted =>
      exec_handlerBundleIssue.trans (execHandlerBundleIssue_goes hh hw hnext hleaving hwaiting hissued hhalted),
    fun pc next ln h => mem_fetchLines h, fun s t c cyc h => State.asyncPorts_nil h,
    fun s t c cyc k sl wr ln n fill => State.asyncPort_eq c cyc k sl wr ln n fill, fun s t c pc cyc => State.issueInterlocked_cases c pc cyc,
    fun sl ln fill ls seen => ⟨rfl, rfl⟩, fun s t c pc cyc f hs hc => ?_, fun h w ws => rfl, by decide⟩
  · rw [exec_bundleIssue, execBundleIssue]
    refine congrArg Host.Outcome.next (if_congr ?_ rfl rfl)
    simp only [Bool.and_eq_true, Bool.not_eq_true', and_assoc]
  · rw [exec_signatureBundle, execSignatureBundle]
    refine congrArg Host.Outcome.next (if_congr ?_ rfl rfl)
    simp only [Bool.and_eq_true, Bool.not_eq_true', and_assoc]
  · rw [exec_handlerBundleIssue, execHandlerBundleIssue, h]
  · intro y h
    obtain ⟨b, hpc, hnext, hcycle, hslots, hsig, -, -, -, i, hi, ipc, inext, icycle, islots, isig⟩ :=
      hs.issuing_issueBundle hc (f := f) (t := t) pc cyc
    rw [show y = _ from hi]
    exact ⟨rfl, rfl, (hs.openBlock_keeps hc cyc).1, rfl, i, rfl, ipc.trans hpc, inext.trans hnext, icycle.trans hcycle, islots.trans hslots,
      isig.trans hsig⟩

end

section
/-! PROOFS. The mesh: stages of timed transmissions, latches and the injector, and the hops of packets. -/

namespace Sys2Proof.Machine

/-! ## Timed hops (R262, R265, R267, R268, R271) -/

section Hop
variable {s : State} {y : Tx}

theorem execTimedHop_none {x : Nat} (h : (s.txs.find? fun y => y.id == x) = none) : execTimedHop x s = .next s := by
  unfold execTimedHop
  rw [h]

theorem execTimedHop_waits {x : Nat} (h : (s.txs.find? fun y => y.id == x) = some y) (hstop : s.txStop y = none) :
    execTimedHop x s = .next s := by
  unfold execTimedHop
  rw [h]
  dsimp only
  rw [hstop]

theorem execTimedHop_alone {x : Nat} {p : Stop} {c : Nat} (h : (s.txs.find? fun y => y.id == x) = some y)
    (hstop : s.txStop y = some (p, c)) (hmates : s.txMates y p = []) : execTimedHop x s = .next
      (if p.dir ≠ 4 ∧ 56 ≤ (if y.ended ≠ none then c else (s.region y.region).refCount c) % 64 then
         s.dropTx y y.sid (slotAddr p y.lt 0x1FF c)
       else if p.dir < 4 then s.countLine p.die p.node p.dir true else s) := by
  have hcond : s.reservedCycle y p c = true ↔
      p.dir ≠ 4 ∧ 56 ≤ (if y.ended ≠ none then c else (s.region y.region).refCount c) % 64 := by
    rw [State.reservedCycle, Bool.and_eq_true, bne_iff_ne, decide_eq_true_eq]
    cases y.ended <;> rfl
  unfold execTimedHop
  rw [h]
  dsimp only
  rw [hstop]
  dsimp only
  rw [hmates]
  exact congrArg Host.Outcome.next (if_congr hcond rfl rfl)

theorem execTimedHop_meets {x : Nat} {p : Stop} {c : Nat} (h : (s.txs.find? fun y => y.id == x) = some y)
    (hstop : s.txStop y = some (p, c)) (hmates : s.txMates y p ≠ []) :
    ∃ m ∈ s.txMates y p, (∀ o ∈ s.txMates y p, m.lt ≤ o.lt) ∧
      execTimedHop x s = .next (s.dropTx y (if y.lt ≤ m.lt then y else m).sid
        (slotAddr p (min y.lt m.lt) (max y.lt m.lt) ((if y.lt ≤ m.lt then y else m).issue + (if y.lt ≤ m.lt then y else m).age))) := by
  have hperm := perm_sortBy (le := fun a b : Tx => decide (a.lt ≤ b.lt)) (s.txMates y p)
  have hsorted := pairwise_sortBy (le := fun a b : Tx => decide (a.lt ≤ b.lt))
    (fun a b => by simp only [decide_eq_true_eq]; omega) (fun a b c => by simp only [decide_eq_true_eq]; omega) (s.txMates y p)
  unfold execTimedHop
  rw [h]
  dsimp only
  rw [hstop]
  dsimp only
  cases hs : sortBy (fun a b : Tx => decide (a.lt ≤ b.lt)) (s.txMates y p) with
  | nil => exact absurd (hs ▸ hperm).symm.eq_nil hmates
  | cons m ms =>
    rw [hs] at hperm hsorted
    refine ⟨m, hperm.mem_iff.1 List.mem_cons_self, fun o ho => ?_, ?_⟩
    · obtain rfl | ho := List.mem_cons.1 (hperm.mem_iff.2 ho)
      · exact le_rfl
      · exact of_decide_eq_true ((List.pairwise_cons.1 hsorted).1 o ho)
    · have hmin : min y.lt m.lt = (if y.lt ≤ m.lt then y else m).lt := by split <;> omega
      have hmax : max y.lt m.lt = (if y.lt ≤ m.lt then m else y).lt := by split <;> omega
      rw [hmin, hmax]

theorem State.txStop_eq : s.txStop y = if s.txMoves y = false ∨ (∃ k, y.dropped = some k ∧ k < s.ptime.toNat) then none
    else (hopAt y.src y.dst y.die y.age).map fun p => (p, y.issue + y.age) := by
  unfold State.txStop
  refine if_congr ?_ rfl rfl
  rw [Bool.or_eq_true, Bool.not_eq_true', Option.any_eq_true]
  simp only [decide_eq_true_eq]

theorem State.dropped_dropTx {sid : BitVec 8} {a : W64} {z : Tx} (hz : z ∈ (s.dropTx y sid a).txs) (hid : z.id = y.id) :
    z.dropped = some s.ptime.toNat := by
  obtain ⟨z', -, rfl⟩ := List.mem_map.1 hz
  split at hid
  case isTrue h => rw [if_pos h]
  case isFalse h => exact absurd hid h

theorem toNat_slotAddr {p : Stop} {a b cyc : Nat} (hnode : p.node < 32) (hdir : p.dir < 8) (ha : a < 512) (hb : b < 512) :
    (slotAddr p a b cyc).toNat =
      (if p.dir = 5 then 0 else p.node) * 2 ^ 59 + p.dir * 2 ^ 56 + a * 2 ^ 47 + b * 2 ^ 38 + cyc % 2 ^ 32 := by
  rw [slotAddr, BitVec.toNat_ofNat]
  refine Nat.mod_eq_of_lt ?_
  split <;> omega

theorem State.txMoves_ended {t : Nat} {held : Bool} (h : y.ended = some (t, held)) :
    (s.ptime.toNat ≤ t → s.txMoves y = !held) ∧ (t < s.ptime.toNat → s.pkgHeld y.region = true → s.txMoves y = false) ∧
    (t < s.ptime.toNat → s.pkgHeld y.region = false → (∀ r, (s.region y.region).st ≠ .frozen r) → s.txMoves y = true) := by
  unfold State.txMoves
  rw [h]
  dsimp only
  refine ⟨fun ht => if_pos ht, fun ht hheld => ?_, fun ht hheld hst => ?_⟩
  · rw [if_neg (by omega), hheld]
    rfl
  · rw [if_neg (by omega), hheld]
    split
    case h_1 r hr => exact absurd hr (hst r)
    case h_2 => rfl

end Hop

/-! ## Latches and the injector (R266, R272) -/

section Latch
variable {s : State}

theorem State.latchWrite_eq (x n : Nat) (die : Bool) : s.latchWrite x n die = .next (match s.txs.find? fun y => y.id == x && y.die == die with
    | some y => if s.txMoves y = true ∧ y.age = n ∧ y.dropped = none then s.deliver y else s
    | none => s) := by
  unfold State.latchWrite
  cases s.txs.find? fun y => y.id == x && y.die == die with
  | none => rfl
  | some y =>
    refine congrArg Host.Outcome.next (if_congr ?_ rfl rfl)
    rw [Bool.and_eq_true, Bool.and_eq_true, beq_iff_eq, Option.isNone_iff_eq_none, and_assoc]

theorem State.Canon.deliver_fields (hs : s.Canon) (y : Tx) :
    let m := minjStep (s.die (dieOf y.src)).minj y.lt y.sid
    let u := s.deliver y
    let k : Fin 4 := (y.sid.setWidth 2).toFin
    u.txs = s.txs.filter (fun z => z.id != y.id) ∧ (u.die (dieOf y.src)).minj = m.1 ∧
    (m.2 = true → u.tile y.dst = s.tile y.dst) ∧
    (m.2 = false → y.bad = false → y.die = false → u.tile y.dst = { s.tile y.dst with mport := (s.tile y.dst).mport.set k (y.data, y.tag) }) ∧
    (m.2 = false → y.bad = false → y.die = true → u.tile y.dst = { s.tile y.dst with dport := (s.tile y.dst).dport.set k (y.data, y.tag) }) := by
  intro m u k
  have hdie : ((s.updDie (dieOf y.src) fun d => { d with minj := m.1 }).die (dieOf y.src)).minj = m.1 := by
    rw [hs.die_updDie, if_pos rfl]
  have hu : u = s.deliver y := rfl
  unfold State.deliver at hu
  dsimp only at hu
  rw [show minjStep (s.die (dieOf y.src)).minj y.lt y.sid = m from rfl] at hu
  have hd : (s.updDie (dieOf y.src) fun d => { d with minj := m.1 }).Canon := hs.updDie
  have htxs : (s.updDie (dieOf y.src) fun d => { d with minj := m.1 }).txs = s.txs := rfl
  have htile : (s.updDie (dieOf y.src) fun d => { d with minj := m.1 }).tile y.dst = s.tile y.dst := rfl
  clear_value u m
  generalize s.updDie (dieOf y.src) (fun d => { d with minj := m.1 }) = v at hdie hu hd htxs htile
  have hw : ({ v with txs := v.txs.filter fun z => z.id != y.id } : State).Canon := canon_eta.2 hd
  rw [← htxs, ← htile]
  cases hm : m.2 with
  | true =>
    rw [hm, if_pos rfl] at hu
    subst hu
    exact ⟨rfl, hdie, fun _ => rfl, nofun, nofun⟩
  | false =>
    rw [hm, if_neg Bool.false_ne_true] at hu
    cases hbad : y.bad with
    | true =>
      rw [hbad, if_pos rfl] at hu
      subst hu
      exact ⟨rfl, hdie, nofun, nofun, nofun⟩
    | false =>
      rw [hbad, if_neg Bool.false_ne_true] at hu
      subst hu
      refine ⟨rfl, hdie, nofun, fun _ _ hdie => hw.tile_updTile_same.trans ?_, fun _ _ hdie => hw.tile_updTile_same.trans ?_⟩
      · rw [if_neg (by rw [hdie]; exact Bool.false_ne_true)]
        rfl
      · rw [if_pos hdie]
        rfl

theorem State.deliver_bad {y : Tx} : let m := minjStep (s.die (dieOf y.src)).minj y.lt y.sid
    let u : State := { (s.updDie (dieOf y.src) fun d => { d with minj := m.1 }) with txs := s.txs.filter fun z => z.id != y.id }
    m.2 = false → y.bad = true → s.deliver y = (u.raiseExt y.dst 0x09 u.anyInfo (linkAddr y)).spend := by
  intro m u hm hbad
  unfold State.deliver
  dsimp only
  rw [if_neg (by rw [show (minjStep _ _ _).2 = false from hm]; exact Bool.false_ne_true), if_pos hbad]
  rfl

theorem linkAddr_fields (y : Tx) (hnode : nodeOf y.dst < 32) (hlt : y.lt < 512) : let a := (linkAddr y).toNat
    a / 2 ^ 59 = nodeOf y.dst ∧ a / 2 ^ 56 % 8 = 4 ∧ a / 2 ^ 47 % 512 = y.lt ∧ a % 2 ^ 32 = (y.issue + y.age) % 2 ^ 32 := by
  have hname := (Config.latchName (2 * inNode y.dst + if y.die then 1 else 0) (y.sid.setWidth 2)).isLt
  intro a
  have ha : a = _ := BitVec.toNat_ofNat ..
  rw [Nat.mod_eq_of_lt (by omega)] at ha
  clear_value a
  omega

theorem minjStep_cases (m : W64) (lt : Nat) (sid : BitVec 8) :
    let hit := m.getLsbD 63 = true ∧ field m.toNat 41 9 = lt ∧ field m.toNat 33 8 = sid.toNat
    (¬ hit → minjStep m lt sid = (m, false)) ∧
    (hit → field m.toNat 0 16 ≠ 0 → minjStep m lt sid = (m - 1, false)) ∧
    (hit → field m.toNat 0 16 = 0 → (minjStep m lt sid).2 = true ∧ (minjStep m lt sid).1.getLsbD 63 = false ∧
      (minjStep m lt sid).1.getLsbD 62 = true ∧ ∀ i < 62, (minjStep m lt sid).1.getLsbD i = m.getLsbD i) := by
  intro hit
  have hcond : (m.getLsbD 63 && decide (field m.toNat 41 9 = lt) && decide (field m.toNat 33 8 = sid.toNat)) = true ↔ hit := by
    rw [Bool.and_eq_true, Bool.and_eq_true, decide_eq_true_eq, decide_eq_true_eq, and_assoc]
  unfold minjStep
  refine ⟨fun h => if_neg (mt hcond.1 h), fun h h0 => ?_, fun h h0 => ?_⟩
  · rw [if_pos (hcond.2 h), if_neg h0]
  · rw [if_pos (hcond.2 h), if_pos h0]
    refine ⟨rfl, by simp, by simp, fun i hi => ?_⟩
    simp [show i < 64 by omega, show i ≠ 63 by omega, show i ≠ 62 by omega]

end Latch

/-! ## Packets (R262, R264) -/

section Packet
variable {s : State} {k : Nat} {j : Packet}

theorem execBePacketHop_none (h : (s.packets.find? fun j => j.id == k) = none) : execBePacketHop k s = .next s := by
  unfold execBePacketHop
  rw [h]

theorem execBePacketHop_hop {d : Nat} {ds : List Nat} (h : (s.packets.find? fun j => j.id == k) = some j)
    (hroute : routeDirs j.node (if j.die = j.toDie then j.dst else 0) = d :: ds) :
    let rest := s.packets.filter fun x => x.id != k
    execBePacketHop k s = .next (if s.mayHop j d = true then
      State.countLine { s with packets := rest ++ [{ j with node := neighbour j.node d, inp := d, moved := s.ptime.toNat }] }
        j.die j.node d false
      else s) := by
  intro rest
  unfold execBePacketHop
  rw [h]
  dsimp only
  rw [hroute]
  exact (apply_ite Host.Outcome.next _ _ _).symm

theorem execBePacketHop_arrive (h : (s.packets.find? fun j => j.id == k) = some j)
    (hroute : routeDirs j.node (if j.die = j.toDie then j.dst else 0) = []) :
    let rest := s.packets.filter fun x => x.id != k
    execBePacketHop k s = .next
      (if s.mayMove j = false then s
       else if j.die = j.toDie then State.unpack { s with packets := rest } j.parcel
       else if s.bridgeBusy j.die j.toDie = true ∨ 4 ≤ s.bufferLoad j.toDie 0 (5 + j.die) then s
       else { s with packets := rest ++ [{ j with die := j.toDie, node := 0, inp := 5 + j.die, moved := s.ptime.toNat + 7 }] }) := by
  intro rest
  have hbusy : (s.bridgeBusy j.die j.toDie || decide (4 ≤ s.bufferLoad j.toDie 0 (5 + j.die))) = true ↔
      s.bridgeBusy j.die j.toDie = true ∨ 4 ≤ s.bufferLoad j.toDie 0 (5 + j.die) := by
    rw [Bool.or_eq_true, decide_eq_true_eq]
  unfold execBePacketHop
  rw [h]
  dsimp only
  rw [hroute]
  dsimp only
  by_cases hmove : s.mayMove j = false
  · rw [if_pos (by rw [hmove]; rfl), if_pos hmove]
  rw [if_neg (by simpa using hmove), if_neg hmove]
  by_cases hdie : j.die = j.toDie
  · rw [if_pos hdie, if_pos hdie]
  rw [if_neg hdie, if_neg hdie]
  exact (apply_ite Host.Outcome.next _ _ _).symm.trans (congrArg Host.Outcome.next (if_congr hbusy rfl rfl))

theorem State.mayHop_eq (s : State) (j : Packet) (d : Nat) :
    (s.mayHop j d = true) = (s.mayMove j = true ∧ s.linkBusy j.die j.node d = false ∧
    s.bufferLoad j.die (neighbour j.node d) d < 4 ∧ (j.inp = d ∨ 2 ≤ s.ringFree j.die j.node d)) := by
  simp only [State.mayHop, Bool.and_eq_true, Bool.or_eq_true, Bool.not_eq_true', decide_eq_true_eq, beq_iff_eq, and_assoc]

/-- A route along one ring of `n` is at most half of it and ends where it leads, one coordinate by one. -/
theorem routeDirs_reach : ∀ a < 24, ∀ b < 24, (routeDirs a b).length ≤ 5 ∧ (routeDirs a b).foldl neighbour a = b := by
  decide

end Packet

end Sys2Proof.Machine

open Sys2Proof Sys2Proof.Machine

/-- Settles O49: a hop by the transmissions that meet it, a delivery by the injector's step, a packet by its route. -/
theorem meshEvents : Obligations.MeshEvents := by
  unfold Obligations.MeshEvents
  exact ⟨fun x s h => exec_timedHop.trans (execTimedHop_none h), fun x s y h hstop => exec_timedHop.trans (execTimedHop_waits h hstop),
    fun x s y p c h hstop hmates => exec_timedHop.trans (execTimedHop_alone h hstop hmates),
    fun x s y p c h hstop hmates => exec_timedHop ▸ execTimedHop_meets h hstop hmates, fun s y => State.txStop_eq,
    fun s y sid a z hz hid => State.dropped_dropTx hz hid, fun p a b cyc hnode hdir ha hb => toNat_slotAddr hnode hdir ha hb,
    fun x s => s.latchWrite_eq x 24 false, fun x s => s.latchWrite_eq x 56 true, fun s y hs => hs.deliver_fields y,
    fun s y hm hbad => State.deliver_bad hm hbad, fun y hnode hlt => linkAddr_fields y hnode hlt,
    fun s y t held h => State.txMoves_ended h, fun s => rfl, fun m lt sid => minjStep_cases m lt sid,
    fun k s h => exec_bePacketHop.trans (execBePacketHop_none h),
    fun k s j d ds h hroute => exec_bePacketHop.trans (execBePacketHop_hop h hroute),
    fun k s j h hroute => exec_bePacketHop.trans (execBePacketHop_arrive h hroute), fun s i => rfl, fun s q k => rfl,
    fun s j d => s.mayHop_eq j d, fun a b ha hb => routeDirs_reach a ha b hb⟩

end

section
/-! PROOFS. Causal updates: the order they are taken in, the queue they join, what each one applied leaves, and a party's own writes. -/

namespace Sys2Proof.Machine

section Clocks

theorem covers_iff (a b : List Nat) : covers a b = true ↔ ∀ i < 5, b.getD i 0 ≤ a.getD i 0 := by
  simp only [covers, List.all_eq_true, List.mem_range, decide_eq_true_eq]

theorem canApply_iff (clk : List Nat) {u : Update} (hsrc : u.src < 5) : canApply clk u = true ↔
    u.clock.getD u.src 0 = clk.getD u.src 0 + 1 ∧ ∀ i < 5, i ≠ u.src → u.clock.getD i 0 ≤ clk.getD i 0 := by
  simp only [canApply, List.all_eq_true, List.mem_range]
  refine ⟨fun h => ⟨?_, fun i hi hne => ?_⟩, fun ⟨hown, hothers⟩ i hi => ?_⟩
  · have := h u.src hsrc
    rwa [if_pos rfl, beq_iff_eq] at this
  · have := h i hi
    rwa [if_neg hne, decide_eq_true_eq] at this
  · split
    case isTrue heq => rw [heq, beq_iff_eq]; exact hown
    case isFalse hne => exact decide_eq_true (hothers i hi hne)

theorem State.inTurn_iff (s : State) (u : Update) (d : Nat) :
    s.inTurn u d = true ↔ ∃ y, (s.updates.find? fun y => y.src == u.src && y.left.contains d) = some y ∧ y.id = u.id := by
  simp only [State.inTurn, Option.any_eq_true, beq_iff_eq]

end Clocks

/-! ## Arrival and application (R264, R276, R278) -/

section Arrive
variable {s : State} {k d : Nat} {u : Update}

theorem execCausalUpdateArrive_none (h : (s.updates.find? fun u => u.id == k) = none) : execCausalUpdateArrive k d s = .next s := by
  rw [execCausalUpdateArrive, h]

section Found
variable (h : (s.updates.find? fun u => u.id == k) = some u)
include h

theorem execCausalUpdateArrive_taken (hd : d ∉ u.left) : execCausalUpdateArrive k d s = .next s := by
  rw [execCausalUpdateArrive, h]
  exact if_pos (by simpa using hd)

variable (hd : d ∈ u.left)
include hd

theorem execCausalUpdateArrive_early (hturn : s.inTurn u d = false) :
    execCausalUpdateArrive k d s = .next (s.later (.causalUpdateArrive k d)) := by
  rw [execCausalUpdateArrive, h]
  dsimp only
  rw [if_neg (by simpa using hd), if_pos (by rw [hturn]; rfl)]

variable (hturn : s.inTurn u d = true)
include hturn

theorem execCausalUpdateArrive_full (hfull : 256 ≤ (s.updatesAt d).length) (hwait : canApply (s.clockOf d) u = false) :
    execCausalUpdateArrive k d s = .next (State.later { s with updates := s.updates.map fun (y : Update) =>
      if y.id = k ∧ d ∉ y.stuck then { y with stuck := d :: y.stuck } else y } (.causalUpdateArrive k d)) := by
  rw [execCausalUpdateArrive, h]
  dsimp only
  rw [if_neg (by simpa using hd), if_neg (by rw [hturn]; exact Bool.false_ne_true), if_pos (by rw [decide_eq_true hfull, hwait]; rfl)]

theorem execCausalUpdateArrive_joins (hroom : (s.updatesAt d).length < 256 ∨ canApply (s.clockOf d) u = true) :
    let v := s.setUpdatesAt d (s.updatesAt d ++ [u])
    let came : Update → Option Update := fun y =>
      if y.id = k then (if y.left = [d] then none else some { y with left := y.left.filter fun z => z != d, stuck := y.stuck.filter fun z => z != d }) else some y
    execCausalUpdateArrive k d s = .next (State.now { v with updates := v.updates.filterMap came } (.causalUpdateApply d u.src)) := by
  have hjoin : ¬ (decide (256 ≤ (s.updatesAt d).length) && !canApply (s.clockOf d) u) = true := by
    rw [Bool.and_eq_true, decide_eq_true_eq, Bool.not_eq_true']
    rintro ⟨hlen, hcan⟩
    obtain hlt | hcan' := hroom
    · omega
    · rw [hcan'] at hcan; cases hcan
  rw [execCausalUpdateArrive, h]
  dsimp only
  rw [if_neg (by simpa using hd), if_neg (by rw [hturn]; exact Bool.false_ne_true), if_neg hjoin]

end Found

end Arrive

section Apply
variable {s : State} {d w : Nat} {u : Update}

theorem execCausalUpdateApply_none (h : ((s.updatesAt d).find? fun u => u.src == w && canApply (s.clockOf d) u) = none) :
    execCausalUpdateApply d w s = .next s := by
  rw [execCausalUpdateApply, h]

variable (h : ((s.updatesAt d).find? fun u => u.src == w && canApply (s.clockOf d) u) = some u)
include h

theorem execCausalUpdateApply_moving (hd : d < 4) (hmoves : (u.cells.any fun c => s.bucketMoves d c.1) = true) :
    execCausalUpdateApply d w s = .next (s.awaitMove d (.causalUpdateApply d w)) := by
  rw [execCausalUpdateApply, h]
  exact if_pos (by rw [decide_eq_true hd, hmoves]; rfl)

theorem execCausalUpdateApply_applies (hstays : 4 ≤ d ∨ (u.cells.any fun c => s.bucketMoves d c.1) = false) :
    let n := u.clock.getD w 0
    let v := s.setUpdatesAt d ((s.updatesAt d).filter fun y => y.id != u.id)
    let x := v.setClock d ((v.clockOf d).set w n)
    let y := x.writeMemCells u.cells
    let waits := (y.ops.filterMap fun o => match o.kind with
      | .range .. => some (Instr.rangePerformed o.id)
      | _ => none) ++ y.misses.filterMap fun m => if m.causal && m.answer.isNone then some (.causalMissAnswer m.id) else none
    let z := if d < 4 then x.updateCopies d u.cells w n else (waits.foldl State.now y).answer none u.client 0
    execCausalUpdateApply d w s =
      .next (((z.updatesAt d).map fun y => y.src).dedup.foldl (fun s w => s.now (.causalUpdateApply d w)) z) := by
  intro n v x y waits z
  have hgo : ¬ (decide (d < 4) && u.cells.any fun c => s.bucketMoves d c.1) = true := by
    rw [Bool.and_eq_true, decide_eq_true_eq]
    rintro ⟨hlt, hmoves⟩
    obtain hle | hno := hstays
    · omega
    · rw [hno] at hmoves; cases hmoves
  rw [execCausalUpdateApply, h]
  dsimp only
  rw [if_neg hgo]
  by_cases hd : d < 4
  · simp only [z, if_pos hd]
    rfl
  · simp only [z, if_neg hd]
    rfl

end Apply

theorem execCausalMissAnswer_none {s : State} {k : Nat} (h : (s.misses.find? fun m => m.id == k && m.answer.isNone) = none) :
    execCausalMissAnswer k s = .next s := by
  rw [execCausalMissAnswer, h]

theorem execCausalMissAnswer_eq {s : State} {k : Nat} {m : Miss} (h : (s.misses.find? fun m => m.id == k && m.answer.isNone) = some m) :
    let pa := m.sector * 64
    execCausalMissAnswer k s = .next (if covers s.iod.clock m.clock = true then
      State.later { s with misses := s.misses.map fun (x : Miss) => if x.id = k then
        { x with answer := some (BitVec.ofNat 512 (readN s.mem pa 64), badMask s.merr pa, s.iod.clock) } else x } (.sectorFill k)
      else s) := by
  intro pa
  rw [execCausalMissAnswer, h]
  exact (apply_ite Host.Outcome.next _ _ _).symm

/-! ## A party's own write (R278, R334) -/

section Write
variable {s : State}

/-- What the sending of a write's updates leaves as it was. -/
theorem State.sendUpdates_keeps {β : Type} (g : State → β) (hpacket : ∀ s d1 n1 d2 n2 i, g (State.carry s d1 n1 d2 n2 i) = g s)
    (hlater : ∀ s i, g (State.later s i) = g s) (d k pa : Nat) (es : List Nat) (s : State) :
    g (es.foldl (fun s e => if d < 4 ∧ e < 4 then s.carry d (s.sliceOf d pa) e (s.sliceOf e pa) (.causalUpdateArrive k e)
      else s.later (.causalUpdateArrive k e)) s) = g s := by
  refine foldl_keeps g (fun s e => ?_) es s
  split
  · exact hpacket ..
  · exact hlater ..

/-- A die's copy of one byte's sector, where it is valid, takes the byte. -/
def State.updateCopy (d : Nat) (s : State) (c : Host.Cell) : State :=
  let n := s.sliceOf d c.1
  match ((s.die d).slice n).find (c.1 / 256) with
  | none => s
  | some l =>
    if l.sec (c.1 / 64 % 4) == .v then
      s.updDie d fun x => x.updSlice n fun sl => { sl with lines := sl.lines.map fun y => if y.line = l.line then y.write [c] else y }
    else s

theorem State.Canon.updateCopy_keeps (hs : s.Canon) (d : Nat) (c : Host.Cell) :
    let u := s.updateCopy d c
    u.Canon ∧ (u.die d).clock = (s.die d).clock ∧ u.updates = s.updates ∧ u.nextId = s.nextId := by
  unfold State.updateCopy
  dsimp only
  split
  · exact ⟨hs, rfl, rfl, rfl⟩
  split
  · exact ⟨hs.updDie, by rw [hs.die_updDie, if_pos rfl]; rfl, rfl, rfl⟩
  · exact ⟨hs, rfl, rfl, rfl⟩

theorem State.Canon.foldl_updateCopy_keeps (hs : s.Canon) (d : Nat) (cs : List Host.Cell) :
    let u := cs.foldl (State.updateCopy d) s
    (u.die d).clock = (s.die d).clock ∧ u.updates = s.updates ∧ u.nextId = s.nextId := by
  induction cs generalizing s with
  | nil => exact ⟨rfl, rfl, rfl⟩
  | cons c cs ih =>
    obtain ⟨hcanon, hclock, hupdates, hid⟩ := hs.updateCopy_keeps d c
    obtain ⟨ihclock, ihupdates, ihid⟩ := ih hcanon
    exact ⟨ihclock.trans hclock, ihupdates.trans hupdates, ihid.trans hid⟩

/-- The copies of a die take a write's bytes: its clock, the updates and the ids stay. -/
theorem State.Canon.updateCopies_keeps (hs : s.Canon) (d : Nat) (cs : List Host.Cell) (w n : Nat) :
    let u := s.updateCopies d cs w n
    (u.die d).clock = (s.die d).clock ∧ u.updates = s.updates ∧ u.nextId = s.nextId := by
  unfold State.updateCopies
  generalize hv : { s with misses := s.misses.map _ } = v
  have hcanon : v.Canon := hv ▸ canon_eta.2 hs
  obtain ⟨hclock, hupdates, hid⟩ := hcanon.foldl_updateCopy_keeps d cs
  subst hv
  exact ⟨hclock, hupdates, hid⟩

theorem State.Canon.clockOf_setClock (hs : s.Canon) (d : Nat) (c : List Nat) : (s.setClock d c).clockOf d = c := by
  unfold State.setClock State.clockOf
  split
  case isTrue hd => rw [hs.die_updDie, if_pos rfl]
  case isFalse hd => rfl

theorem State.setClock_keeps (d : Nat) (c : List Nat) :
    (s.setClock d c).updates = s.updates ∧ (s.setClock d c).nextId = s.nextId ∧ (s.setClock d c).mem = s.mem ∧
      (s.setClock d c).merr = s.merr := by
  unfold State.setClock
  split <;> exact ⟨rfl, rfl, rfl, rfl⟩

/-- What the write's own part leaves, before its updates are sent. -/
def State.ownCausal (s : State) (d : Nat) (cs : List Host.Cell) (clk : List Nat) : State :=
  if d < 4 then (s.setClock d clk).updateCopies d cs d (clk.getD d 0) else (s.setClock d clk).writeMemCells cs

theorem State.Canon.ownCausal_keeps (hs : s.Canon) (d : Nat) (cs : List Host.Cell) (clk : List Nat) :
    let u := s.ownCausal d cs clk
    u.clockOf d = clk ∧ u.updates = s.updates ∧ u.nextId = s.nextId ∧ (4 ≤ d → u.mem = (s.writeMemCells cs).mem) := by
  have hclock := hs.clockOf_setClock d clk
  obtain ⟨hupdates, hid, hmem, -⟩ := s.setClock_keeps d clk
  unfold State.ownCausal
  split
  case isTrue hd =>
    have hcanon : (s.setClock d clk).Canon := canon_setClock hs
    obtain ⟨hc, hu, hn⟩ := hcanon.updateCopies_keeps d cs d (clk.getD d 0)
    refine ⟨?_, hu.trans hupdates, hn.trans hid, fun h => absurd h (by omega)⟩
    rw [State.clockOf, if_pos hd] at hclock ⊢
    exact hc.trans hclock
  case isFalse hd =>
    exact ⟨hclock, hupdates, hid, fun _ => congrArg (writeCells · cs) hmem⟩

theorem modify_eq_set_getD {l : List Nat} {i : Nat} (hi : i < l.length) : l.modify i (· + 1) = l.set i (l.getD i 0 + 1) := by
  rw [List.modify_eq_set_getElem? , List.getElem?_eq_getElem hi, List.getD_eq_getElem l 0 hi]
  rfl

theorem State.Canon.causalWrite_leaves (hs : s.Canon) {d : Nat} (cs : List Host.Cell) (client : Client) (hd : d < 5)
    (hlen : (s.clockOf d).length = 5) :
    let u := s.causalWrite d cs client
    u.clockOf d = (s.clockOf d).set d ((s.clockOf d).getD d 0 + 1) ∧
    u.updates = s.updates ++ [⟨s.nextId, d, cs, (s.clockOf d).set d ((s.clockOf d).getD d 0 + 1),
      (List.range 5).filter (fun e => e != d), [], client⟩] ∧
    (4 ≤ d → u.mem = (s.writeMemCells cs).mem) := by
  intro u
  have hclk := modify_eq_set_getD (l := s.clockOf d) (i := d) (by omega)
  obtain ⟨hclock, hupdates, hid, hmem⟩ := hs.ownCausal_keeps d cs ((s.clockOf d).modify d (· + 1))
  rw [← hclk]
  have hu : u = s.causalWrite d cs client := rfl
  unfold State.causalWrite at hu
  dsimp only at hu
  rw [← State.ownCausal] at hu
  generalize s.ownCausal d cs ((s.clockOf d).modify d (· + 1)) = v at hclock hupdates hid hmem hu
  rw [hu]
  refine ⟨(State.sendUpdates_keeps (·.clockOf d) ?_ ?_ _ _ _ _ _).trans hclock,
    (State.sendUpdates_keeps State.updates ?_ ?_ _ _ _ _ _).trans ?_,
    fun h4 => (State.sendUpdates_keeps State.mem ?_ ?_ _ _ _ _ _).trans (hmem h4)⟩
  case refine_5 => rw [← hupdates, ← hid]; rfl
  all_goals intros; rfl

end Write

end Sys2Proof.Machine

open Sys2Proof Sys2Proof.Machine

/-- Settles O51: an update's arrival and its application by the cases of its search and its clock; a write's own entry, copies and
updates by what each of its parts leaves. -/
theorem causalUpdates : Obligations.CausalUpdates := by
  refine ⟨fun k d s h => exec_causalUpdateArrive.trans (execCausalUpdateArrive_none h),
    fun k d s u h hd => exec_causalUpdateArrive.trans (execCausalUpdateArrive_taken h hd),
    fun k d s u h hd hturn => exec_causalUpdateArrive.trans (execCausalUpdateArrive_early h hd hturn),
    State.inTurn_iff,
    fun k d s u h hd hturn hfull hwait => exec_causalUpdateArrive.trans (execCausalUpdateArrive_full h hd hturn hfull hwait),
    fun k d s u h hd hturn hroom => exec_causalUpdateArrive.trans (execCausalUpdateArrive_joins h hd hturn hroom),
    fun d w s h => exec_causalUpdateApply.trans (execCausalUpdateApply_none h),
    fun d w s u h hd hmoves => exec_causalUpdateApply.trans (execCausalUpdateApply_moving h hd hmoves),
    fun d w s u h hstays => exec_causalUpdateApply.trans (execCausalUpdateApply_applies h hstays),
    fun k s h => exec_causalMissAnswer.trans (execCausalMissAnswer_none h),
    fun k s m h => exec_causalMissAnswer.trans (execCausalMissAnswer_eq h),
    fun s d cs client hd hs hlen => hs.causalWrite_leaves cs client hd hlen,
    covers_iff, fun clk u hsrc => canApply_iff clk hsrc⟩
end

section
/-! PROOFS. Cache slices: requests, sectors and their words, fills, write-backs, the miss handler of a port, the rebalancer and ranges. -/

namespace Sys2Proof.Machine

/-! ## Requests (R273, R274, R276) -/

section Requests
variable {s : State} {r : CReq} {k : Nat}

theorem execCacheRequest_none (h : (s.creqs.find? fun r => r.id == k && !r.held) = none) : execCacheRequest k s = .next s := by
  rw [execCacheRequest, h]

/-- A held sector is one whose words are all valid. -/
theorem sec_held_iff (q : SecSt) : (q == .v || q == .d) = true ↔ q = .v ∨ q = .d := by
  rw [Bool.or_eq_true, beq_iff_eq, beq_iff_eq]

theorem execCacheRequest_some (h : (s.creqs.find? fun r => r.id == k && !r.held) = some r) :
    let u := s.meet r
    let n := u.sliceOf r.die r.pa
    execCacheRequest k s = .next
      (if s.bucketMoves r.die r.pa = true then (s.holdReq k).awaitMove r.die (.cacheRequest k)
       else if s.causalKeeps r = true then s.later (.cacheRequest k)
       else if r.home = true then u.homeReq r
       else match r.kind with
         | .write cs => if u.writesPart r cs = true then u.miss r false else u.writeReq r cs
         | _ => match ((u.die r.die).slice n).find (r.pa / 256) with
           | some l => if l.sec (r.pa / 64 % 4) = .v ∨ l.sec (r.pa / 64 % 4) = .d then u.hitReq r n l else u.miss r false
           | none => u.miss r true) := by
  intro u n
  rw [execCacheRequest, h]
  dsimp only
  by_cases hmoves : s.bucketMoves r.die r.pa = true
  · rw [if_pos hmoves, if_pos hmoves]
  by_cases hkeeps : s.causalKeeps r = true
  · rw [if_neg hmoves, if_neg hmoves, if_pos hkeeps, if_pos hkeeps]
  by_cases hhome : r.home = true
  · rw [if_neg hmoves, if_neg hmoves, if_neg hkeeps, if_neg hkeeps, if_pos hhome, if_pos hhome]
  rw [if_neg hmoves, if_neg hmoves, if_neg hkeeps, if_neg hkeeps, if_neg hhome, if_neg hhome]
  have hslice : (match ((u.die r.die).slice n).find (r.pa / 256) with
      | some l => Host.Outcome.next (if (l.sec (r.pa / 64 % 4) == .v || l.sec (r.pa / 64 % 4) == .d) = true then u.hitReq r n l else u.miss r false)
      | none => .next (u.miss r true)) = (.next (match ((u.die r.die).slice n).find (r.pa / 256) with
      | some l => if l.sec (r.pa / 64 % 4) = .v ∨ l.sec (r.pa / 64 % 4) = .d then u.hitReq r n l else u.miss r false
      | none => u.miss r true) : Out) := by
    cases ((u.die r.die).slice n).find (r.pa / 256) with
    | none => rfl
    | some l => exact congrArg Host.Outcome.next (if_congr (sec_held_iff _) rfl rfl)
  cases r.kind with
  | write cs => rfl
  | read _ => exact hslice
  | amo _ _ _ _ _ => exact hslice

theorem State.meet_met (h : r.met = true) : s.meet r = s := if_pos h

theorem State.meet_new (h : r.met = false) :
    s.meet r = { s.updDie r.die (fun x => { x with counts := SMap.upd 0 x.counts (bucketOf r.pa) (· + 1) }) with
      creqs := s.creqs.map fun (y : CReq) => if y.id = r.id then { y with met := true } else y } :=
  if_neg (by rw [h]; exact Bool.false_ne_true)

theorem State.hitReq_read {n : Nat} {l : CLine} (hk : r.kind = .read k) :
    let u := (s.dropReq r.id).updDie r.die fun x => x.updSlice n fun sl => { sl.put l with hits := if r.met = true then sl.hits else sl.hits + 1 }
    s.hitReq r n l = match l.badAt (r.pa % 256) k with
      | some a => u.answer (some (r.die, n)) r.client 0 (some a)
      | none => u.answer (some (r.die, n)) r.client (BitVec.ofNat 512 (field l.data.toNat (8 * (r.pa % 256)) (8 * k))) := by
  intro u
  rw [State.hitReq, hk, CKind.reads]
  cases l.badAt (r.pa % 256) k <;> rfl

theorem State.hitReq_amo {n : Nat} {l : CLine} {cas op wide b c} (hk : r.kind = .amo cas op wide b c) :
    let u := (s.dropReq r.id).updDie r.die fun x => x.updSlice n fun sl => { sl.put l with hits := if r.met = true then sl.hits else sl.hits + 1 }
    let old : W64 := BitVec.ofNat 64 (field l.data.toNat (8 * (r.pa % 256)) (if wide = true then 64 else 32))
    let v := if atomicSets cas wide old c = true then
        u.putCLine r.die n (writeSector l (r.pa / 64 % 4) (amoCells r.pa wide (atomicNew cas op wide old b c))) else u
    s.hitReq r n l = match l.badAt (r.pa % 256) (if wide = true then 8 else 4) with
      | some a => u.answer (some (r.die, n)) r.client 0 (some a)
      | none => v.answer (some (r.die, n)) r.client (old.setWidth 512) := by
  intro u old v
  rw [State.hitReq, hk, CKind.reads]
  cases l.badAt (r.pa % 256) (if wide = true then 8 else 4) <;> rfl

theorem State.writeReq_shared {cs : List Host.Cell} (hcausal : r.causal = false) :
    let u := s.dropReq r.id
    let n := u.sliceOf r.die r.pa
    let i := r.pa / 64 % 4
    let l := writeSector ((((u.die r.die).slice n).find (r.pa / 256)).getD (CLine.blank (r.pa / 256))) i cs
    s.writeReq r cs = if u.clientWide r.client = true then
        (u.putCLine r.die n ((l.setMask i 0).setSec i (if l.sec i = .d then .v else .i))).writeBack r.die l i (l.mask i) [] r.client
      else (u.putCLine r.die n l).answer (some (r.die, n)) r.client 0 := by
  intro u n i l
  rw [State.writeReq]
  dsimp only
  rw [if_neg (by rw [hcausal]; exact Bool.false_ne_true)]
  refine if_congr Iff.rfl ?_ rfl
  rw [show (if (l.sec i == .d) = true then SecSt.v else .i) = if l.sec i = .d then .v else .i from if_congr beq_iff_eq rfl rfl]

end Requests

/-! ## Sectors and their words (R274) -/

section Sectors
variable {l : CLine} {i : Nat}

theorem CLine.mask_setMask (hi : i < 4) (m : BitVec 16) : (l.setMask i m).mask i = m := by
  apply BitVec.eq_of_toNat_eq
  rw [CLine.mask, BitVec.extractLsb'_toNat, CLine.setMask, BitVec.toNat_ofNat, Nat.shiftRight_eq_div_pow]
  have hm := m.isLt
  have hw : ∀ j, (l.mask j).toNat < 65536 := fun j => (l.mask j).isLt
  have h0 := hw 0
  have h1 := hw 1
  have h2 := hw 2
  have h3 := hw 3
  obtain rfl | rfl | rfl | rfl : i = 0 ∨ i = 1 ∨ i = 2 ∨ i = 3 := by omega
  all_goals
    simp only [show List.range 4 = [0, 1, 2, 3] from rfl, List.foldr_cons, List.foldr_nil]
    norm_num
    omega

theorem CLine.sec_setSec (hi : i < 4) (q : SecSt) : (l.setSec i q).sec i = q := by
  rw [CLine.sec, CLine.setSec, Vector.toList_setIfInBounds, List.getD_eq_getElem?_getD, List.getElem?_set_self (by simpa using hi), Option.getD_some]

theorem mask_writeSector (hi : i < 4) (cs : List Host.Cell) : (writeSector l i cs).mask i = l.mask i ||| wordsOf cs :=
  CLine.mask_setMask (l := l.write cs) hi _

theorem sec_writeSector (hi : i < 4) (cs : List Host.Cell) :
    (writeSector l i cs).sec i = if l.sec i = .i ∨ l.sec i = .p then .p else .d := by
  refine (CLine.sec_setSec hi _).trans ?_
  change (match l.sec i with | .i | .p => SecSt.p | .v | .d => .d) = _
  cases l.sec i <;> rfl

theorem sec_fillSector (hi : i < 4) (base : Nat) (v : BitVec 512) (bad : BitVec 8) :
    (fillSector l i base v bad).sec i = if l.sec i = .i then .v else if l.sec i = .p then .d else l.sec i := by
  unfold fillSector
  cases h : l.sec i with
  | i => exact CLine.sec_setSec hi _
  | p => exact CLine.sec_setSec hi _
  | v => exact h
  | d => exact h

theorem dirty_fillSector (base : Nat) (v : BitVec 512) (bad : BitVec 8) : (fillSector l i base v bad).dirty = l.dirty := by
  unfold fillSector
  cases l.sec i <;> rfl

theorem fillSector_held (h : l.sec i = .v ∨ l.sec i = .d) (base : Nat) (v : BitVec 512) (bad : BitVec 8) : fillSector l i base v bad = l := by
  unfold fillSector
  obtain h | h := h <;> rw [h]

end Sectors

/-! ## Fills, write-backs and the miss handler (R260, R274) -/

section Memory
variable (s : State) {k q : Nat} {ks : List Nat}

theorem execSectorFill_eq (k : Nat) : execSectorFill k s = .next (match s.misses.find? fun m => m.id == k with
    | none => s
    | some m => match m.answer with
      | none => s
      | some (v, bad, clk) =>
        let pa := m.sector * 64
        let u := { s with misses := s.misses.filter fun (x : Miss) => x.id != k }
        let n := u.sliceOf m.die pa
        let l := (((u.die m.die).slice n).find (pa / 256)).getD (CLine.blank (pa / 256))
        if m.stale = true then s.refetch m
        else if covers (s.clockOf m.die) clk = false then s.later (.sectorFill k)
        else (if u.bucketMoves m.die pa = true then u
          else u.putCLine m.die n (fillSector l (m.sector % 4) pa (m.merged v clk) bad)).wakeReqs fun r => r.die == m.die && r.pa / 64 == m.sector) := by
  rw [execSectorFill]
  cases s.misses.find? fun m => m.id == k with
  | none => rfl
  | some m =>
    dsimp only
    obtain _ | ⟨v, bad, clk⟩ := m.answer
    · rfl
    dsimp only
    by_cases hstale : m.stale = true
    · rw [if_pos hstale, if_pos hstale]
    rw [if_neg hstale, if_neg hstale]
    exact (apply_ite Host.Outcome.next _ _ _).symm.trans
      (congrArg Host.Outcome.next (if_congr (iff_of_eq (Bool.not_eq_true' _)) rfl rfl))

theorem execWritebackApply_eq (k : Nat) : execWritebackApply k s = .next
    (match (s.wbs.find? fun w => w.id == k).bind fun w0 => s.wbs.find? fun w => w.die == w0.die && w.sector == w0.sector with
    | none => s
    | some w =>
      let u := s.writeMemCells (maskCells (w.sector * 64) w.mask w.data)
      let v := { u with wbs := u.wbs.filter fun (x : WBack) => x.id != w.id }
      (w.ranges.foldl (fun s o => s.now (.rangePerformed o)) v).answer (some (portOf (w.sector * 64) / 96, portOf (w.sector * 64) % 96 / 4))
        w.client 0) := by
  rw [execWritebackApply]
  cases s.wbs.find? fun w => w.id == k with
  | none => rfl
  | some w0 =>
    rw [Option.bind_some]
    dsimp only
    cases s.wbs.find? fun w => w.die == w0.die && w.sector == w0.sector <;> rfl

variable {s}

theorem execCachedPathAccess_empty (h : (s.seqr q).cached = []) : execCachedPathAccess q s = .next s := by
  rw [execCachedPathAccess, h]

theorem execCachedPathAccess_miss {m : Miss} (h : (s.seqr q).cached = k :: ks) (hm : (s.misses.find? fun m => m.id == k) = some m) :
    let pa := m.sector * 64
    let v := s.accessPlan q pa false
    let u := { s with misses := s.misses.map fun (x : Miss) => if x.id = k then
      { x with answer := some (BitVec.ofNat 512 (readN s.mem pa 64), badMask s.merr pa, []) } else x }
    execCachedPathAccess q s = .next (if s.accessMay q pa false = true then
      (u.takeAccess q v).packet (q / 96) (q % 96 / 4) m.die (u.sliceOf m.die pa) 9 (v.rd + u.profLo 8 - u.ptime.toNat) (.step (.sectorFill k))
    else s) := by
  intro pa v u
  rw [execCachedPathAccess, h]
  dsimp only
  rw [hm]
  exact (apply_ite Host.Outcome.next _ _ _).symm

section NoMiss
variable (h : (s.seqr q).cached = k :: ks) (hm : (s.misses.find? fun m => m.id == k) = none)
include h hm

theorem execCachedPathAccess_writeback {w : WBack} (hw : (s.wbs.find? fun w => w.id == k) = some w) :
    let u := s.takeAccess q (s.accessPlan q (w.sector * 64) true)
    execCachedPathAccess q s = .next (if s.accessMay q (w.sector * 64) true = true then
      { u with agenda := (.writebackApply k, .none) :: u.agenda } else s) := by
  intro u
  rw [execCachedPathAccess, h]
  dsimp only
  rw [hm, hw]
  exact (apply_ite Host.Outcome.next _ _ _).symm

theorem execCachedPathAccess_gone (hw : (s.wbs.find? fun w => w.id == k) = none) :
    execCachedPathAccess q s = .next (s.updSeqr q fun x => { x with cached := ks }) := by
  rw [execCachedPathAccess, h]
  dsimp only
  rw [hm, hw]

end NoMiss

end Memory

/-! ## The rebalancer (R276) -/

section BestBy
variable {le : Nat → Nat → Bool} {f : Nat → Nat}

theorem bestBy_eq_none_iff {l : List Nat} : bestBy le f l = none ↔ l = [] := by
  cases l with
  | nil => exact ⟨fun _ => rfl, fun _ => rfl⟩
  | cons x xs =>
    rw [bestBy]
    split <;> exact ⟨nofun, nofun⟩

/-- The index chosen by a total order is one of the list, and no other of the list is better. -/
theorem bestBy_best (htotal : ∀ a b, le a b = true ∨ le b a = true) (htrans : ∀ a b c, le a b = true → le b c = true → le a c = true) :
    ∀ {l : List Nat} {y : Nat}, bestBy le f l = some y → y ∈ l ∧ ∀ x ∈ l, le (f x) (f y) = true
  | x :: xs, y, h => by
    have hrefl : ∀ a, le a a = true := fun a => (htotal a a).elim id id
    rw [bestBy] at h
    cases hxs : bestBy le f xs with
    | none =>
      rw [hxs] at h
      cases h
      rw [bestBy_eq_none_iff.1 hxs]
      exact ⟨List.mem_cons_self, fun x hx => by rw [List.mem_singleton.1 hx]; exact hrefl _⟩
    | some z =>
      obtain ⟨hz, hbest⟩ := bestBy_best htotal htrans hxs
      rw [hxs] at h
      dsimp only at h
      split at h
      case isTrue hle =>
        cases h
        exact ⟨List.mem_cons_self, List.forall_mem_cons.2 ⟨hrefl _, fun w hw => htrans _ _ _ (hbest w hw) hle⟩⟩
      case isFalse hle =>
        cases h
        exact ⟨List.mem_cons_of_mem _ hz, List.forall_mem_cons.2 ⟨(htotal _ _).resolve_right hle, hbest⟩⟩

theorem bestBy_greatest {l : List Nat} {y : Nat} (h : bestBy (fun a b => decide (a ≤ b)) f l = some y) : y ∈ l ∧ ∀ x ∈ l, f x ≤ f y := by
  obtain ⟨hy, hbest⟩ := bestBy_best (fun a b => by simpa using Nat.le_total a b) (fun a b c => by simpa using Nat.le_trans) h
  exact ⟨hy, fun x hx => of_decide_eq_true (hbest x hx)⟩

theorem bestBy_least {l : List Nat} {y : Nat} (h : bestBy (fun a b => decide (b ≤ a)) f l = some y) : y ∈ l ∧ ∀ x ∈ l, f y ≤ f x := by
  obtain ⟨hy, hbest⟩ := bestBy_best (fun a b => by simpa using Nat.le_total b a)
    (fun a b c => by simpa using fun hab hbc => Nat.le_trans hbc hab) h
  exact ⟨hy, fun x hx => of_decide_eq_true (hbest x hx)⟩

theorem exists_bestBy {l : List Nat} (h : l ≠ []) : ∃ y, bestBy le f l = some y :=
  Option.ne_none_iff_exists'.1 (bestBy_eq_none_iff.not.2 h)

end BestBy

section Rebalance
variable {s : State} {d : BitVec 2}

theorem execRebalance_between (h : s.ptime.toNat % 2 ^ 20 ≠ 0) : execRebalance d s = .next s := if_pos h

/-- The pinned buckets left out, the buckets of a slice that have been counted. -/
def Die.movable (x : Die) (hot : Nat) : List Nat := (x.counts.map fun c => c.1).filter fun b => x.sliceNo b == hot && !(x.bucket b).getLsbD 15

/-- A bucket begins to move from one slice to another: it is marked, and its lines are written back. -/
def State.startMove (s : State) (d : BitVec 2) (x : Die) (hot cold b : Nat) : State :=
  let v := s.updDie d.toNat fun x => { x.setBucket b (x.bucket b ||| 0x4000) with moving := some (b, cold) }
  let ls := (x.slice hot).lines.filter fun l => bucketOf (l.line * 256) == b
  (ls.foldl (fun s l =>
    let a := s.flushLine d.toNat l (fun _ => true) []
    a.1.updDie d.toNat fun x => x.updSlice hot fun sl => { sl with lines := sl.lines.map fun y => if y.line = l.line then a.2 else y })
    v).later (.bucketMoveEnd d)

theorem execRebalance_due (h : s.ptime.toNat % 2 ^ 20 = 0) :
    let x := s.die d.toNat
    let u := s.updDie d.toNat fun x => { x with counts := [] }
    ∃ hot cold, hot < 24 ∧ cold < 24 ∧ (∀ n < 24, x.sliceCount n ≤ x.sliceCount hot ∧ x.sliceCount cold ≤ x.sliceCount n) ∧
      let total := ((List.range 24).map x.sliceCount).sum
      (x.moving ≠ none ∨ 48 * x.sliceCount hot ≤ 3 * total ∨ x.movable hot = [] → execRebalance d s = .next u) ∧
      (x.moving = none → 3 * total < 48 * x.sliceCount hot → x.movable hot ≠ [] →
        ∃ b ∈ x.movable hot, (∀ c ∈ x.movable hot, SMap.get 0 x.counts c ≤ SMap.get 0 x.counts b) ∧
          execRebalance d s = .next (u.startMove d x hot cold b)) := by
  intro x u
  have hrange : List.range 24 ≠ [] := by decide
  obtain ⟨hot, hhot⟩ := exists_bestBy (le := fun a b => decide (a ≤ b)) (f := x.sliceCount) hrange
  obtain ⟨cold, hcold⟩ := exists_bestBy (le := fun a b => decide (b ≤ a)) (f := x.sliceCount) hrange
  obtain ⟨hhot24, hgreatest⟩ := bestBy_greatest hhot
  obtain ⟨hcold24, hleast⟩ := bestBy_least hcold
  refine ⟨hot, cold, List.mem_range.1 hhot24, List.mem_range.1 hcold24,
    fun n hn => ⟨hgreatest n (List.mem_range.2 hn), hleast n (List.mem_range.2 hn)⟩, ?_⟩
  intro total
  have hexec : execRebalance d s = if (x.moving.isSome || decide (48 * x.sliceCount hot ≤ 3 * total)) = true then .next u
      else match bestBy (fun a b => decide (a ≤ b)) (fun b => SMap.get 0 x.counts b) (x.movable hot) with
        | none => .next u
        | some b => .next (u.startMove d x hot cold b) := by
    rw [execRebalance, if_neg (not_not.2 h)]
    dsimp only
    rw [show bestBy _ (s.die d.toNat).sliceCount (List.range 24) = some hot from hhot,
      show bestBy _ (s.die d.toNat).sliceCount (List.range 24) = some cold from hcold]
    rfl
  rw [hexec]
  refine ⟨fun hstay => ?_, fun hmoving hover hbs => ?_⟩
  · split
    · rfl
    case isFalse hgo =>
      rw [Bool.or_eq_true, decide_eq_true_eq, not_or, Bool.not_eq_true, Option.isSome_eq_false_iff, Option.isNone_iff_eq_none] at hgo
      obtain ⟨hnone, hover⟩ := hgo
      rw [bestBy_eq_none_iff.2 ((hstay.resolve_left (not_not.2 hnone)).resolve_left hover)]
  · obtain ⟨b, hb⟩ := exists_bestBy (le := fun a b => decide (a ≤ b)) (f := fun b => SMap.get 0 x.counts b) hbs
    obtain ⟨hmem, hbest⟩ := bestBy_greatest hb
    refine ⟨b, hmem, hbest, ?_⟩
    rw [if_neg (by rw [hmoving, decide_eq_false (by omega)]; exact Bool.false_ne_true), hb]

theorem execBucketMoveEnd_none (h : (s.die d.toNat).moving = none) : execBucketMoveEnd d s = .next s := by
  rw [execBucketMoveEnd, h]

variable {b cold : Nat} (h : (s.die d.toNat).moving = some (b, cold))
include h

theorem execBucketMoveEnd_waits (hw : (s.wbs.any fun w => w.die == d.toNat && bucketOf (w.sector * 64) == b) = true) :
    execBucketMoveEnd d s = .next (s.later (.bucketMoveEnd d)) := by
  rw [execBucketMoveEnd, h]
  exact if_pos hw

theorem execBucketMoveEnd_done (hw : (s.wbs.any fun w => w.die == d.toNat && bucketOf (w.sector * 64) == b) = false) :
    let x := s.die d.toNat
    let u := s.updDie d.toNat fun x =>
      { (x.updSlice ((s.die d.toNat).sliceNo b) fun sl => { sl with
          moves := sl.moves + 1, lines := sl.lines.filter fun l => bucketOf (l.line * 256) != b }).setBucket b
          ((x.bucket b &&& 0x8000) ||| BitVec.ofNat 16 cold) with moving := none, waits := [] }
    execBucketMoveEnd d s = .next { u with
      creqs := u.creqs.map fun (r : CReq) => if x.waits.contains (.cacheRequest r.id) = true then { r with held := false } else r
      agenda := x.waits.map (fun i => (i, .none)) ++ u.agenda } := by
  intro x u
  rw [execBucketMoveEnd, h]
  exact if_neg (by rw [hw]; exact Bool.false_ne_true)

end Rebalance

/-! ## Ranges (R279, R280) -/

section Ranges
variable {s : State} {k : Nat}

theorem execRangePerformed_none (h : (s.ops.find? fun o => o.id == k) = none) : execRangePerformed k s = .next s := by
  rw [execRangePerformed, h]

theorem execRangePerformed_range {o : HoldOp} {kind : Nat} {ls : List (Nat × Nat × Nat)} (h : (s.ops.find? fun o => o.id == k) = some o)
    (hk : o.kind = .range kind ls) :
    let d := dieOf o.tile
    let causal := s.opCausal o
    let rest := ls.filter fun x => s.bucketMoves d (x.1 * 256)
    let u := ((ls.filter fun x => !s.bucketMoves d (x.1 * 256)).foldl
      (fun s x => if causal = true ∧ kind = 0 then s else s.rangeLine d kind k causal x) s).updOp k
        fun o => { o with kind := .range kind rest }
    let v := if rest = [] then u else u.awaitMove d (.rangePerformed k)
    execRangePerformed k s = .next (if causal = true ∧ s.rangeQuiet d ls = false then s
      else if rest = [] ∧ (v.wbs.any fun w => w.ranges.contains k) = false then { v with ops := v.ops.filter fun (o : HoldOp) => o.id != k } else v) := by
  intro d causal rest u v
  have hstep : (fun (s : State) (x : Nat × Nat × Nat) => if (causal && kind == 0) = true then s else s.rangeLine d kind k causal x) =
      fun s x => if causal = true ∧ kind = 0 then s else s.rangeLine d kind k causal x :=
    funext₂ fun s x => if_congr (by rw [Bool.and_eq_true, beq_iff_eq]) rfl rfl
  have hquiet : (causal && !s.rangeQuiet d ls) = true ↔ causal = true ∧ s.rangeQuiet d ls = false := by
    rw [Bool.and_eq_true, Bool.not_eq_true']
  have hv : (if rest.isEmpty = true then u else u.awaitMove d (.rangePerformed k)) = v := if_congr List.isEmpty_iff rfl rfl
  have hdone : (rest.isEmpty && !v.wbs.any fun w => w.ranges.contains k) = true ↔
      rest = [] ∧ (v.wbs.any fun w => w.ranges.contains k) = false := by
    rw [Bool.and_eq_true, List.isEmpty_iff, Bool.not_eq_true']
  rw [execRangePerformed, h]
  dsimp only
  rw [hk]
  dsimp only
  rw [hstep, hv]
  refine (if_congr hquiet rfl ?_).trans (apply_ite Host.Outcome.next _ _ _).symm
  exact (if_congr hdone rfl rfl).trans (apply_ite Host.Outcome.next _ _ _).symm

end Ranges

end Sys2Proof.Machine

open Sys2Proof Sys2Proof.Machine

/-- Settles O50: each request, fill and write-back by the cases of its step; a sector's state and mask by what setting them leaves; the
rebalancer's slices and bucket by what the index chosen of a list is. -/
theorem cacheSlices : Obligations.CacheSlices := by
  refine ⟨fun k s h => exec_cacheRequest.trans (execCacheRequest_none h),
    fun k s r h => exec_cacheRequest.trans (execCacheRequest_some h),
    fun s r h => State.meet_met h, fun s r h => State.meet_new h,
    fun s r n l k hk => State.hitReq_read hk, fun s r n l cas op wide b c hk => State.hitReq_amo hk,
    fun s r cs hcausal => State.writeReq_shared hcausal,
    fun l i cs hi => ⟨mask_writeSector hi cs, sec_writeSector hi cs⟩,
    fun l i base v bad hi => ⟨sec_fillSector hi base v bad, dirty_fillSector base v bad, fun h => fillSector_held h base v bad⟩,
    fun k s => exec_sectorFill.trans (execSectorFill_eq s k), fun k s => exec_writebackApply.trans (execWritebackApply_eq s k),
    fun q s h => exec_cachedPathAccess.trans (execCachedPathAccess_empty h),
    fun q s k ks m h hm => exec_cachedPathAccess.trans (execCachedPathAccess_miss h hm),
    fun q s k ks w h hm hw => exec_cachedPathAccess.trans (execCachedPathAccess_writeback h hm hw),
    fun q s k ks h hm hw => exec_cachedPathAccess.trans (execCachedPathAccess_gone h hm hw),
    fun d s h => exec_rebalance.trans (execRebalance_between h), fun d s h => ?_,
    fun d s h => exec_bucketMoveEnd.trans (execBucketMoveEnd_none h),
    fun d s b cold h hw => exec_bucketMoveEnd.trans (execBucketMoveEnd_waits h hw),
    fun d s b cold h hw => exec_bucketMoveEnd.trans (execBucketMoveEnd_done h hw),
    fun k s h => exec_rangePerformed.trans (execRangePerformed_none h),
    fun k s o kind ls h hk => exec_rangePerformed.trans (execRangePerformed_range h hk)⟩
  rw [exec_rebalance]
  exact execRebalance_due h
end

section
/-! PROOFS. Far copies: their expansion and issue, the faults that end them, and the release and visibility of their sectors. -/

namespace Sys2Proof.Machine

/-! ## Expansion (R283, R284) -/

section Expansion
variable {s : State} {t : Nat}

theorem execCopyExpansion_none (h : (∀ r ∈ (s.tile t).far.recs, ¬ r.next < r.total) ∨ (s.tile t).far.freeSlot = none) :
    execCopyExpansion t s = .next s := by
  rw [execCopyExpansion]
  dsimp only
  obtain hdone | hslot := h
  · rw [List.find?_eq_none.2 fun r hr => by rw [decide_eq_true_eq]; exact hdone r hr]
  · rw [hslot]
    cases (s.tile t).far.recs.find? fun r => decide (r.next < r.total) <;> rfl

/-- The copy a record's expansion begins. -/
def State.newCopy (s : State) (t : Nat) (r : FarRec) (slot : Nat) : Copy :=
  let n := s.nextCopy t r
  { slot := slot, rec_ := r.id, cls := n.1, index := r.next, e := n.2.2.1, spad := n.2.1, toMem := n.2.2.2.2, size := n.2.2.2.1,
    st := .queued, pas := [], data := [], parts := [], errs := [], relDone := [], visDone := [], last := s.ptime.toNat, via := [] }

/-- A tile's engine after a record's next copy has taken a slot. -/
def FarEngine.expand (x : FarEngine) (r : FarRec) (slot : Nat) (c : Copy) : FarEngine :=
  let x := { x with
    recs := x.recs.map (fun y => if y.id = r.id then { y with next := y.next + 1, first := some (y.first.getD slot) } else y),
    copies := x.copies ++ [c] }
  let isFgo := match r.kind with
    | .fgo => true
    | _ => false
  if isFgo && r.next == 0 then
    if r.cmd.sec then (if x.newest2 = r.id then { x with recent2 := some slot } else x)
    else if x.newest = r.id then { x with recent := some slot } else x
  else x

theorem FarEngine.expand_copies (x : FarEngine) (r : FarRec) (slot : Nat) (c : Copy) :
    (x.expand r slot c).copies = x.copies ++ [c] ∧ (x.expand r slot c).recs =
      x.recs.map fun y => if y.id = r.id then { y with next := y.next + 1, first := some (y.first.getD slot) } else y := by
  unfold FarEngine.expand
  dsimp only
  generalize (_ && r.next == 0) = begins
  cases begins
  case false => exact ⟨rfl, rfl⟩
  cases r.cmd.sec
  case false =>
    by_cases hnew : x.newest = r.id
    · rw [if_pos rfl, if_neg Bool.false_ne_true, if_pos hnew]; exact ⟨rfl, rfl⟩
    · rw [if_pos rfl, if_neg Bool.false_ne_true, if_neg hnew]; exact ⟨rfl, rfl⟩
  case true =>
    by_cases hnew : x.newest2 = r.id
    · rw [if_pos rfl, if_pos rfl, if_pos hnew]; exact ⟨rfl, rfl⟩
    · rw [if_pos rfl, if_pos rfl, if_neg hnew]; exact ⟨rfl, rfl⟩

theorem execCopyExpansion_some {r : FarRec} {slot : Nat} (hr : ((s.tile t).far.recs.find? fun r => decide (r.next < r.total)) = some r)
    (hslot : (s.tile t).far.freeSlot = some slot) :
    let n := s.nextCopy t r
    execCopyExpansion t s = if 32 ≤ (s.tile t).far.queueLen n.1 then .next s
      else .next (s.updFar t fun x => x.expand r slot (s.newCopy t r slot)) := by
  intro n
  rw [execCopyExpansion]
  dsimp only
  rw [hr, hslot]
  rfl

end Expansion

/-! ## Issue and faults (R294 to R296, R302) -/

section Issue
variable {s : State} {t : Nat} {cls : BitVec 2} {c : Copy}

theorem execCopyIssue_none (h : s.asleep t = true ∨ ((s.tile t).far.copies.find? fun c => c.cls == cls && c.st == .queued) = none) :
    execCopyIssue t cls s = .next s := by
  have hnone : (if s.asleep t = true then none else (s.tile t).far.copies.find? fun c => c.cls == cls && c.st == .queued) = none := by
    obtain hasleep | hfind := h
    · exact if_pos hasleep
    · rw [hfind, ite_self]
  rw [execCopyIssue, hnone]

section Head
variable (hasleep : s.asleep t = false) (hc : ((s.tile t).far.copies.find? fun c => c.cls == cls && c.st == .queued) = some c)
include hasleep hc

theorem copyIssue_head : (if s.asleep t = true then none else (s.tile t).far.copies.find? fun c => c.cls == cls && c.st == .queued) = some c := by
  rw [if_neg (by rw [hasleep]; exact Bool.false_ne_true), hc]

theorem execCopyIssue_other (hkind : ∀ r, s.recOf t c = some r → r.kind ≠ .fgo) :
    execCopyIssue t cls s = .next (s.updFar t fun f => f.updCopy c.slot fun c => { c with st := .issued }) := by
  rw [execCopyIssue, copyIssue_head hasleep hc]
  refine if_pos ?_
  cases hr : s.recOf t c with
  | none => rfl
  | some r =>
    have hne := hkind r hr
    cases hk : r.kind with
    | fgo => exact absurd hk hne
    | fsig _ => simp only [Option.any_some, hk, Bool.not_false]
    | fred => simp only [Option.any_some, hk, Bool.not_false]

variable {r : FarRec} (hr : s.recOf t c = some r) (hkind : r.kind = .fgo)
include hr hkind

theorem execCopyIssue_fgo : execCopyIssue t cls s = match s.extent t (extIndex c.e) with
    | none => .next s
    | some x =>
      if x.cls = 1 then
        let pa := fun (o : Nat) => (s.cachedPA t (extIndex c.e) o).getD 0
        .next (s.startCopy t c x ((List.range (c.size / 64)).map fun i =>
          (pa (extOffset c.e + 64 * i), pa (extOffset c.e + 64 * i + if c.shift = 0 then 0 else 64 - c.shift))))
      else .next (match s.copyPages t c x with
        | .inr pas => ((s.routeAt { c with pas := pas } x s.iod.lost.contains).map fun o => s.faultCopy t c 3 o).getD (s.startCopy t c x pas)
        | .inl (va, true) => s.faultCopy t c 0 (va - (x.vbase + extOffset c.e))
        | .inl (va, false) => s.ask t (s.entry (s.tile t).lte).asid va (.copy t c.slot 0 0)) := by
  rw [execCopyIssue, copyIssue_head hasleep hc]
  dsimp only
  rw [if_neg (by simp [hr, hkind])]
  cases s.extent t (extIndex c.e) with
  | none => rfl
  | some x =>
    dsimp only
    refine if_congr Iff.rfl rfl ?_
    obtain ⟨va, fault⟩ | pas := s.copyPages t c x
    · cases fault <;> rfl
    · dsimp only
      cases s.routeAt { c with pas := pas } x s.iod.lost.contains <;> rfl

end Head

theorem State.faultCopy_eq {r : FarRec} (rsn o : Nat) (hr : s.recOf t c = some r) : s.faultCopy t c rsn o = (s.cancelRec t r).updTile t fun x =>
    { x with after := x.after ++ [⟨0x16, 0, BitVec.ofNat 8 (rsn * 64 + c.slot), BitVec.ofNat 64 (c.e.toNat + o), true, false⟩] } := by
  rw [State.faultCopy, State.endCopy, hr]
  rfl

end Issue

section Age
variable {s : State} {t : Nat} {slot : BitVec 6}

theorem execCopyAgeTimeout_none (h : s.copyAt t slot.toNat = none) : execCopyAgeTimeout t slot s = .next s := by
  rw [execCopyAgeTimeout, h]

theorem execCopyAgeTimeout_some {c : Copy} (h : s.copyAt t slot.toNat = some c) : execCopyAgeTimeout t slot s = .next
    (if c.last + 2 ^ 24 ≤ s.ptime.toNat then
       s.faultCopy t c 1 (64 * ((List.range (c.size / 64)).find? fun i => !SMap.get false c.visDone i).getD 0) else s) := by
  rw [execCopyAgeTimeout, h]

end Age

/-! ## Release and visibility (R291 to R293, R297) -/

/-- The release of a sector that comes from scratchpad. -/
def State.releaseSpad (s : State) (t : Nat) (slot : BitVec 6) (sec : Nat) (c : Copy) (r : FarRec) (x : ExtentDecl) : State :=
  let a := c.spad + 64 * sec
  let u := ((s.takeAsync t (a / 256) false).updTile t fun y => y.scrub (a / 256)).doneSector t slot.toNat sec false
  if s.portTaken t (a / 256) false = true then s.after 1 (.releaseEvent t slot sec)
  else match s.farSet t r a false with
    | some i => s.endCopy t c 0x06 i (BitVec.ofNat 64 a)
    | none => if (s.tile t).before.uecc a 64 = true then
        s.ueccCopy t c ((((s.tile t).before.ueccSector a).map (BitVec.ofNat 64)).getD s.anyAddr) (r.cmd.hm && decide (a < 0x10000))
      else (u.decrement t r.cmd.rel true 1 0 (u.die (dieOf t)).clock).sendSector t c x sec (readBytes (s.tile t).still.spad a 64)

/-- The uncorrectable word of memory, of the pool or of a peer that a sector of a copy meets. -/
def State.sectorBad (s : State) (c : Copy) (x : ExtentDecl) (sec : Nat) : Option Nat :=
  ((c.pieces sec).findSome? fun p => if x.cls = 2 then badWord s.perr p.2.1 p.2.2.2
    else if x.cls = 3 then peerBad x.peer p.2.1 p.2.2.2 s.nfree else none) <|> c.errAt sec

/-- What a sector that comes from memory, from the pool or from a peer holds. -/
def State.sectorData (s : State) (c : Copy) (x : ExtentDecl) (sec : Nat) : BitVec 512 :=
  if x.cls = 2 then BitVec.ofNat 512 (ofBytes ((c.pieces sec).flatMap fun p => readBytes s.pool p.2.1 p.2.2.2))
  else if x.cls = 3 then Config.peerData x.peer (c.byteAt sec 0) s.nfree else SMap.get 0 c.data sec

/-- The release of a sector that comes from memory and has met no uncorrectable word. -/
def State.releaseMem (s : State) (t : Nat) (slot : BitVec 6) (sec : Nat) (c : Copy) (r : FarRec) (v : BitVec 512) : State :=
  let u := ((s.updFar t fun f => f.updCopy c.slot fun k => { k with data := SMap.set 0 k.data sec v }).doneSector
    t slot.toNat sec false).spend
  (u.decrement t r.cmd.rel true 1 0 (u.die (dieOf t)).clock).later (.visibilityEvent t slot sec)

theorem State.sectorData_eq (s : State) (c : Copy) (x : ExtentDecl) (sec : Nat) : (match x.cls with
    | 2 => BitVec.ofNat 512 (ofBytes ((c.pieces sec).flatMap fun p => readBytes s.pool p.2.1 p.2.2.2))
    | 3 => Config.peerData x.peer (c.byteAt sec 0) s.nfree
    | _ => SMap.get 0 c.data sec) = s.sectorData c x sec := by
  unfold State.sectorData
  split
  case h_1 h => exact (if_pos h).symm
  case h_2 h => exact ((if_neg (by rw [h]; decide)).trans (if_pos h)).symm
  case h_3 hpool hpeer => exact ((if_neg hpool).trans (if_neg hpeer)).symm

/-- The visibility of a sector in memory. -/
def State.showMem (s : State) (t : Nat) (slot : BitVec 6) (sec : Nat) (c : Copy) (r : FarRec) (x : ExtentDecl) : State :=
  let w := if x.cls = 2 then s.writePool ((toBytes 64 (SMap.get 0 c.data sec).toNat).zipIdx.map fun b => (c.byteAt sec b.2, b.1)) else s
  let u := (w.doneSector t slot.toNat sec true).finishCopy t slot.toNat
  u.decrement t r.cmd.vis true 1 0 (if x.cls = 1 ∧ x.coh = 2 ∧ 3 ≤ r.cmd.sc.toNat then u.iod.clock else (u.die (dieOf t)).clock)

/-- The visibility of a sector in scratchpad. -/
def State.showSpad (s : State) (t : Nat) (slot : BitVec 6) (sec : Nat) (c : Copy) (r : FarRec) : State :=
  let a := c.spad + 64 * sec
  let tag := s.farTag t r.cmd.ls
  let u := ((s.landSector t a (SMap.get 0 c.data sec) tag (c.lastOfLine sec)).doneSector t slot.toNat sec true).finishCopy
    t slot.toNat
  if s.portTaken t (a / 256) true = true then s.after 1 (.visibilityEvent t slot sec)
  else match s.farSet t r a true with
    | some i => s.endCopy t c 0x06 i (BitVec.ofNat 64 a)
    | none => u.decrement t r.cmd.vis true 1 tag (u.die (dieOf t)).clock

section Sector
variable {s : State} {t : Nat} {slot : BitVec 6} {sec : Nat}

theorem sectorEvents_noCopy (h : s.copyAt t slot.toNat = none) :
    execReleaseEvent t slot sec s = .next s ∧ execVisibilityEvent t slot sec s = .next s := by
  rw [execReleaseEvent, execVisibilityEvent, h]
  exact ⟨rfl, rfl⟩

variable {c : Copy} (hc : s.copyAt t slot.toNat = some c)
include hc

theorem sectorEvents_orphan (h : s.recOf t c = none ∨ s.extent t (extIndex c.e) = none) :
    execReleaseEvent t slot sec s = .next s ∧ execVisibilityEvent t slot sec s = .next s := by
  rw [execReleaseEvent, execVisibilityEvent, hc]
  dsimp only
  obtain h | h := h
  · rw [h]; exact ⟨rfl, rfl⟩
  · rw [h]; cases s.recOf t c <;> exact ⟨rfl, rfl⟩

variable {r : FarRec} {x : ExtentDecl} (hr : s.recOf t c = some r) (hx : s.extent t (extIndex c.e) = some x)
include hr hx

theorem execReleaseEvent_done (h : c.st ≠ .issued ∨ SMap.get false c.relDone sec = true) : execReleaseEvent t slot sec s = .next s := by
  rw [execReleaseEvent, hc]
  dsimp only
  rw [hr, hx]
  exact if_pos h

theorem execVisibilityEvent_done (h : c.st ≠ .issued ∨ SMap.get false c.relDone sec = false ∨ SMap.get false c.visDone sec = true) :
    execVisibilityEvent t slot sec s = .next s := by
  rw [execVisibilityEvent, hc]
  dsimp only
  rw [hr, hx]
  exact if_pos (by rwa [Bool.not_eq_true'])

variable (hst : c.st = .issued) (hrel : SMap.get false c.relDone sec = false)

include hst hrel in
/-- A sector of an issued copy that has not been released yet. -/
theorem execReleaseEvent_live : execReleaseEvent t slot sec s =
    if s.asleep t = true ∨ s.copyDown t c = true then .next (s.later (.releaseEvent t slot sec))
    else if c.toMem = true then .next (s.releaseSpad t slot sec c r x)
    else match s.sectorBad c x sec with
      | some a => .next (s.ueccCopy t c (BitVec.ofNat 64 a) false)
      | none => .next (s.releaseMem t slot sec c r (s.sectorData c x sec)) := by
  have hlive : ¬ (c.st ≠ .issued ∨ SMap.get false c.relDone sec = true) := by
    rw [hst, hrel]
    simp only [ne_eq, not_true_eq_false, Bool.false_eq_true, or_self, not_false_eq_true]
  rw [execReleaseEvent, hc]
  dsimp only
  rw [hr, hx]
  dsimp only
  rw [if_neg hlive, ← State.sectorBad]
  refine if_congr (iff_of_eq (Bool.or_eq_true _ _)) rfl (if_congr Iff.rfl ?_ ?_)
  · rw [State.releaseSpad]
    refine (if_congr Iff.rfl rfl ?_).trans (apply_ite Host.Outcome.next _ _ _).symm
    cases s.farSet t r (c.spad + 64 * sec) false with
    | some i => rfl
    | none => exact (apply_ite Host.Outcome.next _ _ _).symm
  · cases s.sectorBad c x sec with
    | some a => rfl
    | none => exact congrArg (fun v => Host.Outcome.next (s.releaseMem t slot sec c r v)) (s.sectorData_eq c x sec)

variable (hrel' : SMap.get false c.relDone sec = true) (hvis : SMap.get false c.visDone sec = false)

include hst hrel' hvis in
/-- A sector of an issued copy that has been released and is not visible yet. -/
theorem execVisibilityEvent_live : execVisibilityEvent t slot sec s =
    if s.asleep t = true ∨ s.copyDown t c = true then .next (s.later (.visibilityEvent t slot sec))
    else if c.toMem = true then .next (s.showMem t slot sec c r x)
    else .next (s.showSpad t slot sec c r) := by
  have hlive : ¬ (c.st ≠ .issued ∨ (!SMap.get false c.relDone sec) = true ∨ SMap.get false c.visDone sec = true) := by
    rw [hst, hrel', hvis]
    simp only [ne_eq, not_true_eq_false, Bool.not_true, Bool.false_eq_true, or_self, not_false_eq_true]
  rw [execVisibilityEvent, hc]
  dsimp only
  rw [hr, hx]
  dsimp only
  rw [if_neg hlive]
  refine if_congr (iff_of_eq (Bool.or_eq_true _ _)) rfl (if_congr Iff.rfl rfl ?_)
  rw [State.showSpad]
  refine (if_congr Iff.rfl rfl ?_).trans (apply_ite Host.Outcome.next _ _ _).symm
  cases s.farSet t r (c.spad + 64 * sec) true <;> rfl

end Sector

end Sys2Proof.Machine

open Sys2Proof Sys2Proof.Machine

/-- Settles O53: expansion, issue and the age limit by the cases of their searches; the release and the visibility of a sector by
what each does once its copy is issued and its route is up. -/
theorem copies : Obligations.Copies := by
  refine ⟨⟨fun t s h => exec_copyExpansion.trans (execCopyExpansion_none h), fun t s r slot hr hslot => ?_,
    fun t cls s h => exec_copyIssue.trans (execCopyIssue_none h),
    fun t cls s c hasleep hc hkind => exec_copyIssue.trans (execCopyIssue_other hasleep hc hkind),
    fun t cls s c r hasleep hc hr hkind => ?_, fun c sec i _ => rfl, fun s t c rsn o r hr => State.faultCopy_eq rsn o hr,
    fun t slot s h => exec_copyAgeTimeout.trans (execCopyAgeTimeout_none h),
    fun t slot s c h => exec_copyAgeTimeout.trans (execCopyAgeTimeout_some h)⟩,
    fun t slot sec s => ⟨fun h => ?_, fun c hc h => ?_, fun c r x hc hr hx => ?_⟩⟩
  · have hexec := execCopyExpansion_some hr hslot
    rw [exec_copyExpansion, hexec]
    exact ⟨fun hfull => if_pos hfull, fun hroom => ⟨_, if_neg (Nat.not_le.2 hroom), fun y => y.expand_copies r slot _⟩⟩
  · have hexec := execCopyIssue_fgo hasleep hc hr hkind
    rw [exec_copyIssue, hexec]
    exact ⟨fun hx => by rw [hx], fun x hx hcls => by rw [hx]; exact if_pos hcls, fun x hx hcls => by rw [hx]; exact if_neg hcls⟩
  · rw [exec_releaseEvent, exec_visibilityEvent]
    exact sectorEvents_noCopy h
  · rw [exec_releaseEvent, exec_visibilityEvent]
    exact sectorEvents_orphan hc h
  · rw [exec_releaseEvent, exec_visibilityEvent]
    intro a rel vis waits clk bad
    refine ⟨execReleaseEvent_done hc hr hx, execVisibilityEvent_done hc hr hx, fun hst hrel hw => ?_, fun hst hrel hvis hw => ?_,
      fun hst hrel hw hto => ?_, fun b hst hrel hw hto hbad => ?_, fun hst hrel hw hto hbad => ?_,
      fun hst hrel hvis hw hto => ?_, fun hst hrel hvis hw hto => ?_⟩
    · rw [execReleaseEvent_live hc hr hx hst hrel]
      exact if_pos hw
    · rw [execVisibilityEvent_live hc hr hx hst hrel hvis]
      exact if_pos hw
    · rw [execReleaseEvent_live hc hr hx hst hrel, if_neg hw, if_pos hto]
      rfl
    · rw [execReleaseEvent_live hc hr hx hst hrel, if_neg hw, if_neg (by rw [hto]; exact Bool.false_ne_true),
        show s.sectorBad c x sec = some b from hbad]
    · intro v u
      rw [execReleaseEvent_live hc hr hx hst hrel, if_neg hw, if_neg (by rw [hto]; exact Bool.false_ne_true),
        show s.sectorBad c x sec = none from hbad]
      rfl
    · rw [execVisibilityEvent_live hc hr hx hst hrel hvis, if_neg hw, if_pos hto]
      rfl
    · intro tag u
      rw [execVisibilityEvent_live hc hr hx hst hrel hvis, if_neg hw, if_neg (by rw [hto]; exact Bool.false_ne_true)]
      rfl
end
